-- ==== Sys2Proof/Word.lean ====
section
/-!
DEFINITION. The words of the KA-128: 32-bit registers and words, bytes, and the names of the things the manual
numbers (R3). Nothing here computes; bit-field helpers stand in Machine/Bits.lean.
-/
namespace Sys2Proof

/-- A 32-bit word (R36, R4). -/
abbrev Word := BitVec 32
/-- A byte of memory (R43). -/
abbrev Byte := BitVec 8
/-- A word register field, w0 to w31 (R47). -/
abbrev RegNo := BitVec 5
/-- A predicate field, p0 to p7 (R47). -/
abbrev PredNo := BitVec 3

/-- The two lanes: LA in S3, LB in S4 (R3). -/
inductive LaneId where
  | A
  | B
  deriving DecidableEq, Repr

/-- The state of a word's SECDED check bits, as an access meets it (R46). -/
inductive Ecc where
  | none
  | single
  | double
  deriving DecidableEq, Repr

/-- Axis 0–15 (R3). -/
abbrev Axis := Fin 16
/-- Brick 0–31 (R3). -/
abbrev Brick := Fin 32
/-- Compensator slot 0–255 (R3). -/
abbrev Slot := Fin 256
/-- CAN FD port C0–C3 (R3). -/
abbrev CanPort := Fin 4
/-- Feedback channel E0–E15 (R3). -/
abbrev FbkCh := Fin 16
/-- Field cartridge: 0 = F1, 1 = F2 (R3). -/
abbrev FieldNo := Fin 2
/-- Link cartridge: 0 = L1 … 3 = L4 (R3). -/
abbrev LinkNo := Fin 4
/-- Task index 16 × core + task number (R86). -/
abbrev TaskIx := Fin 64

end Sys2Proof
end

