-- ==== Sys2Proof/Syntax.lean ====
section
/-!
DEFINITION. The commands of the block: one constructor of `Instr` per row of spec/opcode_table.json, with the
operands the manual gives the row. Rows that are Rylin instructions carry an `Issue`: which core of which lane issues
them, under which guard. Rows that are events carry what the outside world supplies with the event.
-/
namespace Sys2Proof

/-- The guard field of an instruction word: negate bit N and predicate p (R48). -/
structure Guard where
  neg : Bool
  p   : PredNo
  deriving DecidableEq, Repr

/-- The issue of one Rylin instruction: lane, core, guard, and the state of the check bits of the instruction word
itself, which a fetch meets under R46. -/
structure Issue where
  lane  : LaneId
  core  : Fin 4
  guard : Guard
  fetch : Ecc
  deriving DecidableEq, Repr

/-- An upset that has arisen in the engine's state memory (R198): the lane, the slot, its word (0 I, 1 to 3 s1 to s3), and what the
check bits find when the word is read next. -/
structure Upset where
  lane : LaneId
  slot : Slot
  word : Fin 4
  err  : Ecc
  deriving DecidableEq, Repr

/-- One reading of a lane or link diode (R371, R372): the forward voltage in µV and the difference ΔV in nV of its two
currents, or none. -/
inductive Reading where
  | volts (vf dv : Nat)
  | missing
  deriving DecidableEq, Repr

/-- The copy of a frame that a receiver gets (R17, R264, R459): whole, with one word altered on the way, or none. -/
inductive Copy where
  | whole
  | altered (k : Nat) (x : Word)
  | lost
  deriving DecidableEq, Repr

/-- One end of a Billet link (R262). -/
inductive LinkEnd where
  | cartridge
  | brick
  deriving DecidableEq, Repr

/-- What befalls a frame on its way down to one port of a brick (R264, R273): the copy that arrives, whether the link cartridge ends
it in ABORT, and by how many edge ticks it comes later. -/
structure DownFault where
  brick : Brick
  sec   : Bool
  copy  : Copy
  abort : Bool
  delay : Nat
  deriving DecidableEq, Repr

/-- The copy of a brick's answer that a lane gets by one of the brick's ports (R17, R282). -/
structure UpFault where
  lane : LaneId
  sec  : Bool
  copy : Copy
  deriving DecidableEq, Repr

/-- What befalls a management request and its answer; every copy that is not named arrives whole. -/
structure MgmtFaults where
  down : List DownFault
  up   : List UpFault
  deriving DecidableEq, Repr

/-- What a brick's sensors give in a period (R278 to R280): head and tail codes, leg voltages and DC-link voltage, temperatures, the
measurements that are usable (bits 0 to 3 heads, 4 to 7 tails, 8 to 11 voltages, 12 the DC link), broken temperature sensors, positions
that desaturate, and those whose gate supply is out of range. -/
structure BrickMeas where
  ia    : List (BitVec 16)
  ib    : List (BitVec 16)
  v     : List (BitVec 16)
  vdc   : BitVec 16
  temps : List (BitVec 16)
  good  : BitVec 13
  tbrk  : BitVec 4
  desat : BitVec 4
  gsup  : BitVec 4
  deriving DecidableEq, Repr

/-- What a T1 tick brings: the diode readings of the lanes and of the link cartridges (R371), and what befalls the keep-alive frames. -/
structure T1In where
  laneA : Reading
  laneB : Reading
  links : List Reading
  down  : List DownFault := []
  deriving DecidableEq, Repr

/-- The raw measurement of one temperature pin (R372): resistance in mΩ for NTC and PT1000, or the diode's forward
voltage in µV and the voltage difference ΔV in nV. -/
structure PinRaw where
  rm : Nat
  vf : Nat
  dv : Nat
  deriving DecidableEq, Repr

/-- The lines of one feedback channel over one field frame of 500 Field clocks (R293): runs of (clocks, levels), the
levels being A, B, Z or H1, H2, H3 in bits 0 to 2, the probe in bit 3 and SSI data in bit 4, together with the lines that the
receivers report open or shorted, by the same bits, and whether an encoder supply is out of range (R304). -/
structure ChanFrame where
  runs    : List (Nat × BitVec 5)
  openLn  : BitVec 5
  supply  : Bool
  deriving DecidableEq, Repr

/-- What stands at a field input (R317): voltage in mV, and current in µA. -/
structure LineLevel where
  mv : Nat
  ua : Nat
  deriving DecidableEq, Repr

/-- One field frame of a field cartridge (R16, R293, R317, R325, R326, R371): everything the cartridge samples. The inputs are runs of
(Field clocks, levels of the 32 inputs), `rb` the voltages at the 16 output terminals in mV. -/
structure FieldFrame where
  chans  : List ChanFrame
  inputs : List (Nat × List LineLevel)
  rb     : List Nat
  limit  : BitVec 16
  vgrp   : List Nat
  pins   : Option (List PinRaw)
  deriving DecidableEq, Repr

/-- An attempt of the bit engine that ended in an error: whether it was a bit error after arbitration (R351, R358), and the instant
of the error, in edge ticks of module time (R339, R354). -/
structure AttemptErr where
  bitAfterArb : Bool
  at_ : Nat
  deriving DecidableEq, Repr

/-- A CAN frame as it stands in an entry or a descriptor (R348): words 0 and 1 and the data words. -/
structure CanFrame where
  w0   : Word
  w1   : Word
  data : List Word
  deriving DecidableEq, Repr

/-- Which of a port's own frames a report is about: the head of the FIFO, the frame of a deadline slot, or the reference
message of the time service (R350, R362). -/
inductive TxObj where
  | queued
  | slot (k : Fin 8)
  | ref
  deriving DecidableEq, Repr

/-- A report of a port's bit engine (R339). Times are module time, in edge ticks. -/
inductive CanReport where
  | received (f : CanFrame) (sof eof : Nat) (self : Bool)
  | begun    (o : TxObj) (sof : Nat)
  | sent     (o : TxObj) (sof eof : Nat)
  | arbLost  (o : TxObj)
  | error    (o : TxObj) (e : AttemptErr)
  | withdrawn (o : TxObj)
  | startRefused (o : TxObj)
  | counters (tec rec : BitVec 8) (estate : BitVec 2) (borec : Byte)
  | errorFrame
  | protocolException
  deriving DecidableEq, Repr

/-- A payout channel's lines A and B standing still for `n` clocks of 20 MHz (R451). -/
structure AbRun where
  a : Bool
  b : Bool
  n : Nat
  deriving DecidableEq, Repr

/-- What the Cord's inputs give in one millisecond of its oscillator (R451, R452): per tension channel four bridge signals of 0.25 ms, per
payout channel the runs of its lines in each 0.25 ms, for each 0.25 ms which tension and which payout channels have sound lines, and the temperature in 1/16 °C, none
from a broken sensor. -/
structure CordMeas where
  sig  : List (List Int)
  ab   : List (List (List AbRun))
  tv   : List (BitVec 4)
  lv   : List (BitVec 4)
  temp : Option (BitVec 16)
  deriving DecidableEq, Repr

/-- What comes out of a lane's command path at the Cord (R450): the copy that waits on it, that copy damaged so that it has not the form of
a command, or content besides that is no command. -/
inductive PathGot where
  | copy
  | damaged
  | foreign
  deriving DecidableEq, Repr

/-- Something reaches the Cord by the command path of a lane. -/
structure PathIn where
  lane : LaneId
  got  : PathGot := .copy
  deriving DecidableEq, Repr

/-- A line of the calibration port (R455): what its request says, and what arrived where that is not the line as sent, the
characters before the space and the four digits' value. -/
structure CalLine (α : Type) where
  arg  : α
  line : Option (List Byte × BitVec 16) := none
  deriving DecidableEq, Repr

/-- The legal parameters of the Cord (R454). -/
inductive LegalPar where
  | TRNG | TDIV | TZERO | TSPAN | LSCL | LDIV | LDIR
  deriving DecidableEq, Repr

/-- The power-on of a lane: whether its memory passes the memory BIST of start-up (R410, R413), and what its diode reads, which a
re-inserted lane that had shut down must show (R387). -/
structure PowerIn where
  lane  : LaneId
  memOk : Bool
  diode : Reading := .missing
  deriving DecidableEq, Repr

/-- One section of an image (R411): TYPE, target address, length in bytes, the reserved word 3 and the words. -/
structure Section where
  typ    : Word
  target : Word
  len    : Word
  rsv    : Word
  body   : List Word
  deriving DecidableEq, Repr

/-- An image as it stands in a flash bank (R411): the header's words and the payload's sections. -/
structure Image where
  magic    : Word
  seq      : Word
  len      : Word
  compat   : Word
  icrc     : Word
  hcrc     : Word
  sections : List Section
  deriving DecidableEq, Repr

/-- The wake sources of R400 that come from outside. -/
inductive WakeSrc where
  | di (n : Fin 64)
  | can (p : CanPort)
  | key
  | presence
  | service
  | cartridge
  | supply
  deriving DecidableEq, Repr

/-- A physical port of a link cartridge: cartridge and port number (R260). -/
structure PortRef where
  link : LinkNo
  port : Fin 16
  deriving DecidableEq, Repr

/-- What a throttle step belongs to (R377, R380). -/
inductive ThrottleObj where
  | brick (b : Brick)
  | lane
  deriving DecidableEq, Repr

/-- A set-point latch: its axis, and the upsets that have arisen in the engine's state memory since (R198). -/
structure LatchIn where
  axis : Axis
  ups  : List Upset
  deriving DecidableEq, Repr

/-- What a lane brings to EDGE out: whether its phase B is late (R25), and what befalls the frames it sends. -/
structure EdgeLane where
  late : Bool
  down : List DownFault
  deriving DecidableEq, Repr

/-- The SAMPLE frame that arrives: the one of the period before, or this period's, and the copy of it (R281). -/
structure SampleCopy where
  old  : Bool
  copy : Copy
  deriving DecidableEq, Repr

/-- A level and how long it has stood, in edge ticks (R329). -/
structure HeldLevel where
  level : LineLevel
  held  : Nat
  deriving DecidableEq, Repr

/-- What befalls a /P/ on one port of a link cartridge (R268, R269): the count byte that arrives instead, or none. -/
structure PulseFault where
  port : Fin 16
  byte : Option Byte
  deriving DecidableEq, Repr

/-- An insertion position of a link cartridge, and what befalls its /P/ on single ports (R268). -/
structure PermitIn where
  link   : LinkNo
  faults : List PulseFault := []
  deriving DecidableEq, Repr

/-- One end of a port's link (R262). -/
structure PortEnd where
  port : PortRef
  fin  : LinkEnd
  deriving DecidableEq, Repr

/-- A /S/ that the brick at a port receives, and the edge ticks it was on its way (R267). -/
structure PortSync where
  port : PortRef
  path : Nat
  deriving DecidableEq, Repr

/-- A discovery at a port, and the number that the brick there has adopted, where the fibre is not wired as the frame's table says
(R286). -/
structure PortFind where
  port    : PortRef
  adopted : Option Brick
  deriving DecidableEq, Repr

/-- A waiting Peat-log entry of a lane goes to flash: whether its write was retried in the next sector (R446). -/
structure FlashIn where
  lane    : LaneId
  retried : Bool
  deriving DecidableEq, Repr

/-- A management request: what the brick answers, and what befalls the request and the answer (R282). -/
structure MgmtIn (α : Type) where
  ans    : α
  faults : MgmtFaults
  deriving DecidableEq, Repr

/-- A Cord result frame: what the Cord measures, and the copies that the lanes get (R17, R451, R459). -/
structure CordIn where
  meas  : CordMeas
  copyA : Copy
  copyB : Copy
  deriving DecidableEq, Repr

/-- One constructor per row of spec/opcode_table.json. -/
inductive Instr where
  -- integer instructions, R52, R53
  | add (i : Issue) (rd ra rb : RegNo)
  | sub (i : Issue) (rd ra rb : RegNo)
  | and (i : Issue) (rd ra rb : RegNo)
  | or (i : Issue) (rd ra rb : RegNo)
  | xor (i : Issue) (rd ra rb : RegNo)
  | andn (i : Issue) (rd ra rb : RegNo)
  | shl (i : Issue) (rd ra rb : RegNo)
  | shr (i : Issue) (rd ra rb : RegNo)
  | sar (i : Issue) (rd ra rb : RegNo)
  | ror (i : Issue) (rd ra rb : RegNo)
  | min (i : Issue) (rd ra rb : RegNo)
  | max (i : Issue) (rd ra rb : RegNo)
  | minu (i : Issue) (rd ra rb : RegNo)
  | maxu (i : Issue) (rd ra rb : RegNo)
  | sadd (i : Issue) (rd ra rb : RegNo)
  | ssub (i : Issue) (rd ra rb : RegNo)
  | mul (i : Issue) (rd ra rb : RegNo)
  | mulhs (i : Issue) (rd ra rb : RegNo)
  | mulhu (i : Issue) (rd ra rb : RegNo)
  | mulq (i : Issue) (rd ra rb : RegNo)
  | div (i : Issue) (rd ra rb : RegNo)
  | divu (i : Issue) (rd ra rb : RegNo)
  | rem (i : Issue) (rd ra rb : RegNo)
  | remu (i : Issue) (rd ra rb : RegNo)
  | clz (i : Issue) (rd ra : RegNo)
  | abs (i : Issue) (rd ra : RegNo)
  | sextb (i : Issue) (rd ra : RegNo)
  | sexth (i : Issue) (rd ra : RegNo)
  -- immediate forms, R54
  | addi (i : Issue) (rd ra : RegNo) (imm : BitVec 12)
  | andi (i : Issue) (rd ra : RegNo) (imm : BitVec 12)
  | ori (i : Issue) (rd ra : RegNo) (imm : BitVec 12)
  | xori (i : Issue) (rd ra : RegNo) (imm : BitVec 12)
  | shli (i : Issue) (rd ra : RegNo) (amt : BitVec 5)
  | shri (i : Issue) (rd ra : RegNo) (amt : BitVec 5)
  | sari (i : Issue) (rd ra : RegNo) (amt : BitVec 5)
  | rori (i : Issue) (rd ra : RegNo) (amt : BitVec 5)
  | muli (i : Issue) (rd ra : RegNo) (imm : BitVec 12)
  | movl (i : Issue) (rd : RegNo) (imm : BitVec 16)
  | movh (i : Issue) (rd : RegNo) (imm : BitVec 16)
  -- comparison and predicates, R55, R56
  | cmp (i : Issue) (pd : PredNo) (cm : BitVec 2) (ra rb : RegNo) (fn : BitVec 7)
  | cmpi (i : Issue) (pd : PredNo) (cm : BitVec 2) (ra : RegNo) (cond : BitVec 3) (imm : BitVec 9)
  | pand (i : Issue) (pd pa pb : PredNo)
  | por (i : Issue) (pd pa pb : PredNo)
  | pxor (i : Issue) (pd pa pb : PredNo)
  | pandn (i : Issue) (pd pa pb : PredNo)
  | pnot (i : Issue) (pd pa : PredNo)
  | ptow (i : Issue) (rd : RegNo)
  | wtop (i : Issue) (ra : RegNo)
  -- memory, R57, R46; `up` is an upset that has arisen in the word since its last access
  | ld (i : Issue) (rd ra : RegNo) (imm : BitVec 12) (up : Ecc)
  | ldh (i : Issue) (rd ra : RegNo) (imm : BitVec 12) (up : Ecc)
  | ldhu (i : Issue) (rd ra : RegNo) (imm : BitVec 12) (up : Ecc)
  | ldb (i : Issue) (rd ra : RegNo) (imm : BitVec 12) (up : Ecc)
  | ldbu (i : Issue) (rd ra : RegNo) (imm : BitVec 12) (up : Ecc)
  | st (i : Issue) (rs ra : RegNo) (imm : BitVec 12) (up : Ecc)
  | sth (i : Issue) (rs ra : RegNo) (imm : BitVec 12) (up : Ecc)
  | stb (i : Issue) (rs ra : RegNo) (imm : BitVec 12) (up : Ecc)
  | ldx (i : Issue) (rd ra rb : RegNo) (fn : BitVec 7) (up : Ecc)
  | stx (i : Issue) (rs ra rb : RegNo) (fn : BitVec 7) (up : Ecc)
  | crossbarRetry (lane : LaneId) (core : Fin 4)
  | amoswp (i : Issue) (rd ra rb : RegNo) (up : Ecc)
  | amoadd (i : Issue) (rd ra rb : RegNo) (up : Ecc)
  | amoand (i : Issue) (rd ra rb : RegNo) (up : Ecc)
  | amoor (i : Issue) (rd ra rb : RegNo) (up : Ecc)
  | amomax (i : Issue) (rd ra rb : RegNo) (up : Ecc)
  -- control flow, R60 to R62
  | br (i : Issue) (off : BitVec 22)
  | call (i : Issue) (target : BitVec 17)
  | ret (i : Issue)
  | loop (i : Issue) (ra : RegNo) (n : BitVec 16)
  | endl (i : Issue)
  | brkl (i : Issue)
  -- block float, R67
  | fadd (i : Issue) (rd ra rb : RegNo)
  | fsub (i : Issue) (rd ra rb : RegNo)
  | fmul (i : Issue) (rd ra rb : RegNo)
  | fmac (i : Issue) (rd ra rb : RegNo)
  | fmin (i : Issue) (rd ra rb : RegNo)
  | fmax (i : Issue) (rd ra rb : RegNo)
  | fabs (i : Issue) (rd ra : RegNo)
  | fneg (i : Issue) (rd ra : RegNo)
  | fnorm (i : Issue) (rd ra : RegNo)
  | ffix (i : Issue) (rd ra : RegNo) (k : BitVec 5)
  | fflt (i : Issue) (rd ra : RegNo) (k : BitVec 5)
  | fscl (i : Issue) (rd ra : RegNo) (imm : BitVec 12)
  -- engine operations and tags, R68 to R70
  | postRun (i : Issue) (rd ra : RegNo) (slot : Slot)
  | postRunc (i : Issue) (rd : RegNo) (slot : Slot)
  | postPreset (i : Issue) (rd ra : RegNo) (slot : Slot)
  | postRegion (i : Issue) (rd ra : RegNo) (slot : Slot)
  | postRead (i : Issue) (rd ra : RegNo) (slot : Slot)
  | waitt (i : Issue) (rd ra : RegNo)
  | testt (i : Issue) (pd : PredNo) (ra : RegNo)
  -- task, fault and sticky instructions, R72 to R75
  | wtick (i : Issue)
  | wevt (i : Issue) (rd : RegNo)
  | raise (i : Issue) (ra : RegNo) (f : BitVec 5)
  | rstk (i : Issue) (rd ra : RegNo) (b : BitVec 5)
  -- CAN group, R76
  | ctxq (i : Issue) (rd ra rb : RegNo)
  | ctxd (i : Issue) (rd ra rb : RegNo)
  | ccan (i : Issue) (rd ra rb : RegNo)
  | crx (i : Issue) (rd rb : RegNo)
  | cack (i : Issue) (ra : RegNo)
  -- field I/O group, R77, R322
  | din0 (i : Issue) (rd : RegNo)
  | din1 (i : Issue) (rd : RegNo)
  | dstal (i : Issue) (rd : RegNo)
  | dout (i : Issue) (ra rb : RegNo)
  | dorb (i : Issue) (rd : RegNo)
  | cnt (i : Issue) (rd ra : RegNo)
  | freq (i : Issue) (rd ra : RegNo)
  | mfs (i : Issue) (rd : RegNo) (n : BitVec 12)
  | ill (i : Issue)
  -- ticks, releases, commits, periods
  | t1Tick (d : T1In)
  | t2Release
  | t3Release
  | commitInstant (t : TaskIx)
  | periodStart (a : Axis)
  | sampleCutoff (a : Axis)
  | setpointLatch (x : LatchIn)
  | edgeOut (a : Axis) (laneA laneB : EdgeLane)
  | periodEnd (a : Axis)
  | hashExchange (u : Fin 17) (exA exB : Bool)
  | sampleFrame (lane : LaneId) (b : Brick) (sec : Bool) (m : BrickMeas) (c : SampleCopy)
  | fieldFrameConsumption (f : FieldNo) (heldA heldB : Bool) (d : FieldFrame)
  | comparePulseEnd (e : FbkCh)
  | ssiTransferStart (e : FbkCh)
  | pulsedWindow (f : FieldNo) (rd : List LineLevel)
  | forcedHigh (o : Fin 32)
  | onlow (o : Fin 32)
  | retryReset (o : Fin 32)
  | fieldSilenceTimeout (f : FieldNo)
  | stoChannelChange (f : FieldNo) (chB : Bool) (r : HeldLevel)
  | stoDiscrepancy (f : FieldNo)
  -- Billet links
  | permitConditionChange (l : LinkNo)
  | gatePermit (p : PermitIn)
  | linkLocked (p : PortEnd)
  | linkLoss (p : PortEnd)
  | delayRequest (p : PortRef)
  | delayResponse (p : PortRef) (echo : Byte) (rt : Nat) (ta : BitVec 16)
  | timebaseSync (p : PortSync)
  | discover (p : PortFind)
  | ident (b : Brick) (x : MgmtIn (Option (List Word)))
  | cal (b : Brick) (x : MgmtIn (Option (List Word)))
  | cntr (b : Brick) (x : MgmtIn Bool)
  | cntclr (b : Brick) (x : MgmtIn Bool)
  | clrlatch (b : Brick) (mask : BitVec 4) (x : MgmtIn Bool)
  | diag (b : Brick) (arg : BitVec 16) (x : MgmtIn (Option (List Word)))
  | mreqTimeout
  | rediscover (b : Brick)
  -- CAN ports
  | canReportDelivery (p : CanPort) (r : CanReport)
  | laneExpiryRecord (p : CanPort) (k : Fin 8)
  | busOffRecovery (p : CanPort)
  | referencePost (p : CanPort)
  | masterTimeout (p : CanPort)
  | alignmentLost (p : CanPort)
  -- the Cord
  | cordResultFrame (x : CordIn)
  | cordResultsLost
  | cordStart (m : BitVec 2)
  | cordEnd (m : BitVec 2)
  | cordRecord (rseq : Word)
  | cordCommandReceipt (x : PathIn)
  | cordCommandTimeout
  | cordThermalShutdown
  | cordSupplyFall
  | cordPowerOn
  | sealJumperFitted
  | sealJumperRemoved
  | idQuery
  | parQuery (p : LegalPar) (ch : CalLine (Fin 4))
  | par (p : LegalPar) (ch : Fin 4) (v : CalLine Word)
  | zero (ch : CalLine (Fin 4))
  | span (ch : Fin 4) (load : CalLine Word)
  | commit
  | discard
  | audQuery (n : CalLine Nat)
  | softwareUpdate (lver : BitVec 16) (code : List Byte)
  -- temperature, clocks, supplies, start-up
  | throttleStep (o : ThrottleObj)
  | readingStale (n : Fin 150)
  | laneShutdownAbandon (lane : LaneId)
  | laneStop (lane : LaneId)
  | pllLock (lane : LaneId) (d : Fin 9)
  | pllFault (lane : LaneId) (d : Fin 9)
  | dorm (lane : LaneId)
  | dormantEntry
  | wakeSource (w : WakeSrc)
  | wakeTimer
  | supplyStatusChange (x : Fin 2) (inok outok : Bool) (mv : BitVec 16) (da : BitVec 8)
  | powerOn (x : PowerIn)
  | peerWaitTimeout (lane : LaneId)
  | imageAdmission (lane : LaneId)
  -- runtime requests
  | axisEnable (a : Axis)
  | axisDisable (a : Axis)
  | injectionStart (p : Fin 4)
  | injectionStop (p : Fin 4)
  | deadlineMessageEnable (p : CanPort) (k : Fin 8)
  | deadlineMessageDisable (p : CanPort) (k : Fin 8)
  | itemActivation (item : Byte)
  | itemDeactivation (item : Byte)
  | runtimeRequestComplete
  | workRemovalRecompute
  -- axis commands and axis events
  | modeRun (a : Axis)
  | modeProfile (a : Axis)
  | modeStop2 (a : Axis)
  | modeStop1 (a : Axis)
  | modeHold (a : Axis)
  | modeImstop (a : Axis)
  | cret (a : Axis)
  | zeroSpeedDeclared (a : Axis)
  | brakeEngageEnd (a : Axis)
  | torqueReleaseEnd (a : Axis)
  | rideThroughTimeout (a : Axis)
  | heaveStale (a : Axis)
  | fluxBrakingBudget (a : Axis)
  | holdWindowExpiry (a : Axis)
  | decayTimeout (a : Axis)
  | resume (a : Axis)
  | reacq (a : Axis)
  | tab (a : Axis) (t : BitVec 3)
  | ovmDmod (a : Axis) (ovm dmod : BitVec 2)
  -- loop engine commands
  | modeToAuto (n : Slot)
  | modeToManual (n : Slot)
  | clr (n : Slot)
  | engineOperationComplete (lane : LaneId) (up : Ecc)
  | arm
  | captureAbort
  -- sharing, feedback, field I/O, fault and lane commands
  | chclr (mask : Byte)
  | parm (e : FbkCh)
  | channelClear (e : FbkCh)
  | compareArm (e : FbkCh) (cpos : Word) (cmc : Word)
  | pulseRatio (e : FbkCh) (num den : BitVec 16)
  | srel (mask : BitVec 2)
  | oclr (mask : Word)
  | counterClear (mask : BitVec 16)
  | safeclr
  | swap
  | bistLogic (tgt : Bool)
  | bistMemory (tgt : Bool)
  | bistBoth (tgt : Bool)
  | rnow
  | bistComplete (lane : LaneId) (lsig msig : Word)
  | rollingSelftestDue
  | peatRsel (lane : LaneId) (seq : Word)
  | peatReadLoaded (lane : LaneId)
  | peatEntryCommit (c : FlashIn)
  -- hand-over and presence
  | hreq
  | hack
  | claimExchange
  | activeLaneFailed
  | handoverWaitTimeout
  | xlnChannelDown (ch : Fin 2)
  | yieldButton (lane : LaneId) (ms : Nat)
  | extractionLever (lane : LaneId)
  | cartridgeInserted (slot : Fin 11) (ok : Bool)
  | cartridgeRemoved (slot : Fin 11)
  | keySwitchChange (service : Bool)
  | presenceButton (ms : Nat)
  | presenceRequestTimeout
  -- service port
  | imageLoad (img : Image)
  | imageActivation
  | rollingSelftestPeriod (hours : Byte)
  | bistActiveLane
  | laneRestart (lane : LaneId)
  | imageSync (lane : LaneId)
  | s6Release
  | peatLogClear
  | frameMemoryEventClear
  | stoConfiguration (cfg : BitVec 2)
  | forceRoles (lane : LaneId) (active : Bool)
  | peatLogRead (lane : LaneId) (seq : Word)
  | frameMemoryRead (n : Nat)
  | captureUpload (lane : LaneId) (rec : Nat)
  -- registers
  | excClear (lane : LaneId) (core : Fin 4)
  | rcRead (lane : LaneId) (addr : Word)
  | registerWrite (lane : LaneId) (addr val : Word)
  | xlnChannelUp (ch : Fin 2)
  | logicRailCollapse
  deriving DecidableEq, Repr

end Sys2Proof
end

