-- ==== Sys2Proof/Machine/Bits.lean ====
section
/-!
DEFINITION. Helpers the whole machine uses: fields of registers, sparse stores in one canonical form, conversions with
the manual's rounding (R4), small updates of fixed arrays.
-/
namespace Sys2Proof.Machine

/-- A field of a register: the register's address, the field's lowest bit and its width. -/
structure Field where
  addr : Nat
  lo : Nat
  w : Nat
  deriving DecidableEq, Repr

/-! ## Sparse stores: rising keys, no entry equal to what an unlisted key reads as -/

/-- The value stored under `a`, if the list has one. -/
def spFind {α : Type} (l : List (Nat × α)) (a : Nat) : Option α :=
  match l with
  | [] => none
  | (k, v) :: t => if k = a then some v else spFind t a

/-- The list without the entries of `a`. -/
def spErase {α : Type} (l : List (Nat × α)) (a : Nat) : List (Nat × α) :=
  match l with
  | [] => []
  | (k, v) :: t => if k = a then spErase t a else (k, v) :: spErase t a

/-- The list with `(a, v)` put before the first greater key. -/
def spPut {α : Type} (l : List (Nat × α)) (a : Nat) (v : α) : List (Nat × α) :=
  match l with
  | [] => [(a, v)]
  | (k, x) :: t => if a < k then (a, v) :: (k, x) :: t else (k, x) :: spPut t a v

/-- Reads `a`, an unlisted key reading as `dflt a`. -/
def spGet {α : Type} (dflt : Nat → α) (l : List (Nat × α)) (a : Nat) : α :=
  match spFind l a with
  | some v => v
  | none => dflt a

/-- Writes `v` under `a` and keeps the canonical form. -/
def spSet {α : Type} [DecidableEq α] (dflt : Nat → α) (l : List (Nat × α)) (a : Nat) (v : α) : List (Nat × α) :=
  if v = dflt a then spErase l a else spPut (spErase l a) a v

/-- The canonical form: keys strictly rising from above `lo`, no entry at its unlisted value. -/
def spWfFrom {α : Type} [DecidableEq α] (dflt : Nat → α) (lo : Option Nat) (l : List (Nat × α)) : Bool :=
  match l with
  | [] => true
  | (k, v) :: t => (match lo with | none => true | some m => decide (m < k)) && decide (v ≠ dflt k) && spWfFrom dflt (some k) t

/-! ## Bits and numbers -/

/-- Bit `n` of a number. -/
def bit (v n : Nat) : Bool := v.testBit n

/-- Bits `lo` to `lo + w - 1` of a number. -/
def bitsOf (v lo w : Nat) : Nat := v / 2 ^ lo % 2 ^ w

/-- `v` with bits `lo` to `lo + w - 1` replaced by the low bits of `x`. -/
def setBits (v lo w x : Nat) : Nat :=
  v % 2 ^ lo + (x % 2 ^ w) * 2 ^ lo + v / 2 ^ (lo + w) * 2 ^ (lo + w)

/-- The number `v` of `w` bits read as two's complement. -/
def sInt (w v : Nat) : Int := if v < 2 ^ (w - 1) then (v : Int) else (v : Int) - 2 ^ w

/-- The `w`-bit code of an integer, modulo 2^w. -/
def uCode (w : Nat) (v : Int) : Nat := (v % 2 ^ w).toNat

/-- Saturation to a range. -/
def satInt (lo hi v : Int) : Int := if v < lo then lo else if hi < v then hi else v

/-- Saturation of a natural number. -/
def satNat (hi v : Nat) : Nat := if hi < v then hi else v

/-- A Bool as a number. -/
def b2n (b : Bool) : Nat := if b then 1 else 0

/-- `n / d` rounded to the nearest integer, ties away from zero (R4). The divisor is positive. -/
def rdiv (n : Int) (d : Nat) : Int :=
  if n < 0 then -(((2 * n.natAbs + d) / (2 * d) : Nat) : Int) else (((2 * n.natAbs + d) / (2 * d) : Nat) : Int)

/-- A rational rounded to the nearest integer, ties away from zero (R4). -/
def rround (q : Rat) : Int := rdiv q.num q.den

/-- The signed 32-bit code of a rational in units of 2^-k, rounded by R4 and saturated. -/
def fixRat (k : Nat) (q : Rat) : Int := satInt (-2147483648) 2147483647 (rround (q * (2 ^ k : Nat)))

/-- A number as a word. -/
def wordOf (n : Nat) : Word := BitVec.ofNat 32 n

/-- The word's bytes, least significant first (R43). -/
def wordBytes (w : Word) : List Byte :=
  [w.extractLsb' 0 8, w.extractLsb' 8 8, w.extractLsb' 16 8, w.extractLsb' 24 8]

/-- A word from four bytes, least significant first (R43). -/
def wordOfBytes (b0 b1 b2 b3 : Byte) : Word := b3 ++ b2 ++ b1 ++ b0

/-! ## Fixed arrays -/

/-- Element `i` of an array. -/
def vget {α : Type} {n : Nat} (v : Vector α n) (i : Fin n) : α := v[i]

/-- The array with element `i` replaced. -/
def vset {α : Type} {n : Nat} (v : Vector α n) (i : Fin n) (x : α) : Vector α n := v.set i.1 x i.2

/-- The array with element `i` changed. -/
def vmod {α : Type} {n : Nat} (v : Vector α n) (i : Fin n) (f : α → α) : Vector α n := vset v i (f (vget v i))

/-- All the indexes of an array, rising. -/
def allFin (n : Nat) : List (Fin n) := List.finRange n

/-- The bits of `m` below `n` that are set, rising. -/
def bitsSet (n m : Nat) : List Nat := (List.range n).filter fun k => bit m k

/-! ## Checks -/

/-- One byte through the reflected CRC-32C register (R19). -/
def crcByte (crc : Word) (b : Byte) : Word :=
  (List.range 8).foldl (fun c _ => if c.getLsbD 0 then (c >>> 1) ^^^ 0x82F63B78#32 else c >>> 1) (crc ^^^ b.setWidth 32)

/-- A running CRC-32C register over a word, least significant byte first (R19). -/
def crcWord (crc : Word) (w : Word) : Word := (wordBytes w).foldl crcByte crc

/-- CRC-32C of a list of words (R19): initial value and final XOR all ones. -/
def crc32c (ws : List Word) : Word := ~~~(ws.foldl crcWord 0xFFFFFFFF#32)

end Sys2Proof.Machine
end

