-- ==== Sys2Proof/Machine/Bf32.lean ====
section
/-!
DEFINITION. Block float (R4, R64 to R66): a BF32 word as an exact dyadic number, exact sums and products, and the one
rounding to a canonical word with its flags.
-/
namespace Sys2Proof.Machine

/-- The exact number `m · 2^e`. -/
structure Dy where
  m : Int
  e : Int
  deriving DecidableEq, Repr

/-- The flags a block-float computation can set in SYS_CSTKn (R65, R66). -/
structure BfFlags where
  range : Bool
  ovf   : Bool
  und   : Bool
  deriving DecidableEq, Repr

/-- No flag. -/
def BfFlags.none : BfFlags := { range := false, ovf := false, und := false }

/-- Flags of either. -/
def bfOr (x y : BfFlags) : BfFlags := { range := x.range || y.range, ovf := x.ovf || y.ovf, und := x.und || y.und }

/-- The mantissa M of a BF32 word, bits [31:8] in two's complement (R4). -/
def bfM (w : Word) : Int := sInt 24 (w.toNat / 256)

/-- The exponent E of a BF32 word, bits [7:0] signed (R4). -/
def bfE (w : Word) : Int := sInt 8 (w.toNat % 256)

/-- The word of a mantissa and an exponent. -/
def bfWord (m e : Int) : Word := BitVec.ofNat 32 (uCode 24 m * 256 + uCode 8 e)

/-- The canonical zero 0x0000_00E0 (R64). -/
def bfZero : Word := 0x000000E0#32

/-- Whether an input's exponent lies outside −32 to +31 (R65). -/
def bfOut (w : Word) : Bool := decide (31 < bfE w) || decide (bfE w < -32)

/-- The value an input is taken at (R65). -/
def bfVal (w : Word) : Dy :=
  if 31 < bfE w then
    if bfM w = 0 then { m := 0, e := 0 }
    else if 0 < bfM w then { m := 0x7FFFFF, e := 8 }
    else { m := -0x800000, e := 8 }
  else if bfE w < -32 then { m := 0, e := 0 }
  else { m := bfM w, e := bfE w - 23 }

/-- A power of two with a natural exponent from a difference of exponents. -/
def pow2 (k : Int) : Int := ((2 ^ k.toNat : Nat) : Int)

/-- Exact sum. -/
def dyAdd (x y : Dy) : Dy :=
  let e := min x.e y.e
  { m := x.m * pow2 (x.e - e) + y.m * pow2 (y.e - e), e := e }

/-- Exact product. -/
def dyMul (x y : Dy) : Dy := { m := x.m * y.m, e := x.e + y.e }

/-- Negation. -/
def dyNeg (x : Dy) : Dy := { x with m := -x.m }

/-- Magnitude. -/
def dyAbs (x : Dy) : Dy := { x with m := (x.m.natAbs : Int) }

/-- Exact comparison x < y. -/
def dyLt (x y : Dy) : Bool :=
  let e := min x.e y.e
  decide (x.m * pow2 (x.e - e) < y.m * pow2 (y.e - e))

/-- Exact equality of values: two encodings of zero are equal (R55). -/
def dyEq (x y : Dy) : Bool :=
  let e := min x.e y.e
  decide (x.m * pow2 (x.e - e) = y.m * pow2 (y.e - e))

/-- The exact rational. -/
def dyRat (x : Dy) : Rat := if 0 ≤ x.e then ((x.m * pow2 x.e : Int) : Rat) else mkRat x.m (2 ^ (-x.e).toNat)

/-- A magnitude of `n` bits rounded to 23 bits, ties away from zero. -/
def round23 (a n : Nat) : Nat := if n ≤ 23 then a * 2 ^ (23 - n) else (a + 2 ^ (n - 24)) / 2 ^ (n - 23)

/-- The one rounding of R66: the canonical word of an exact value and the overflow and underflow flags. A magnitude below
2^-33 is rounded at its own normalised exponent before the range is judged (DEDUCED, see the assumption log). -/
def bfRound (x : Dy) : Word × BfFlags :=
  if x.m = 0 then (bfZero, BfFlags.none)
  else
    let a := x.m.natAbs
    let n := Nat.log2 a + 1
    let r := round23 a n
    let e : Int := (n : Int) + x.e
    let neg := decide (x.m < 0)
    -- the normalised mantissa and its exponent: −2^23 is a mantissa, 2^23 and −2^22 are not
    let (m, e) : Int × Int :=
      if neg then (if r = 2 ^ 22 then (-(2 ^ 23 : Int), e - 1) else (-(r : Int), e))
      else (if r = 2 ^ 23 then ((2 ^ 22 : Int), e + 1) else ((r : Int), e))
    if 31 < e then
      ((if neg then 0x8000001F#32 else 0x7FFFFF1F#32), { BfFlags.none with ovf := true })
    else if e < -32 then
      if neg && decide (m = -(2 ^ 23 : Int)) && decide (e = -33) then (0xBFFFFFE0#32, BfFlags.none)
      else (bfZero, { BfFlags.none with und := true })
    else (bfWord m e, BfFlags.none)

/-- A word rounded from exact arithmetic on two inputs, with the range flag of the inputs. -/
def bf2 (f : Dy → Dy → Dy) (a b : Word) : Word × BfFlags :=
  let r := bfRound (f (bfVal a) (bfVal b))
  (r.1, { r.2 with range := bfOut a || bfOut b })

/-- The same for one input. -/
def bf1 (f : Dy → Dy) (a : Word) : Word × BfFlags :=
  let r := bfRound (f (bfVal a))
  (r.1, { r.2 with range := bfOut a })

/-- x · 2^k as a signed 32-bit integer, rounded to nearest with ties away from zero, saturated with the overflow flag
(R67, FFIX). -/
def bfFix (x : Dy) (k : Nat) : Word × BfFlags :=
  let e := x.e + (k : Int)
  let v : Int := if 0 ≤ e then x.m * pow2 e else rdiv x.m (2 ^ (-e).toNat)
  let c := satInt (-2147483648) 2147483647 v
  (BitVec.ofInt 32 c, { BfFlags.none with ovf := decide (c ≠ v) })

/-- Whether a word is canonical (R64): zero as 0x0000_00E0, or a normalised mantissa with E in −32 to +31. -/
def bfCanon (w : Word) : Bool :=
  decide (w = bfZero) || (!bfOut w && (w.getLsbD 31 != w.getLsbD 30))

/-- The canonical word nearest a rational (R4, R66). -/
def bfOfRat (q : Rat) : Word :=
  -- scale so that at least 64 bits of quotient stand, with a sticky bit below
  let s : Nat := Nat.log2 q.den + 96
  let n : Int := q.num * (2 ^ s : Nat)
  let d : Nat := q.den
  let t : Nat := 2 * (n.natAbs / d) + (if n.natAbs % d = 0 then 0 else 1)
  (bfRound { m := if n < 0 then -(t : Int) else (t : Int), e := -(s : Int) - 1 }).1

end Sys2Proof.Machine
end

