-- ==== Sys2Proof/Config.lean ====
section
/-!
DEFINITION. What the manual leaves open, as constants without a body: nothing in Lean can find a value for them, so a
statement about them holds whatever the hardware does. Each has a row in the assumption log.
-/
namespace Sys2Proof.Config

/-- A fresh free word for each count of `State.free`: every result word the manual leaves unstated. -/
opaque freeWord : Nat → Word

/-- Where a LOOP without a matching ENDL in program SRAM would go (R62 gives no such address). -/
opaque noEndl : Nat → Nat

/-- The golden BIST signatures in the lane's ROM (R442, R447): logic, memory. -/
opaque goldLogic : Word
opaque goldMemory : Word

/-- Real functions the formulas of chapters 4 to 12 use, as functions on exact rationals: the manual gives no
arithmetic for them. Angles of `sinT` and `cosT` are in turns. -/
opaque sinT : Rat → Rat
opaque cosT : Rat → Rat
opaque sqrtR : Rat → Rat
opaque expR : Rat → Rat
opaque lnR : Rat → Rat
/-- atan2(y, x) in turns. -/
opaque atan2T : Rat → Rat → Rat

/-- The circle constant as the hardware's formulas take it. -/
opaque pi : Rat

/-- Entries of the 64-entry ROM tables of R129, the boost b of region I and the hold angle αh of region II in turns: the
manual defines both quantities and prints neither table. -/
opaque boostTab : Nat → Rat
opaque holdTab : Nat → Rat

/-- The low-pass filters of the injection demodulator (R163): order, cut-off in 1/period, state, input. -/
opaque lowPass : Nat → Rat → List Rat → Rat → Rat × List Rat

/-- The factory ideality factors of the lane and link diodes in 1/4096 (R372): lanes A, B, links LA0 to LB1. -/
opaque diodeNf : Nat → Nat

/-- KINJ of R163 from LD, LQ, VINJ, FINJ, and the expected amplitude of R168. -/
opaque kinj : Rat → Rat → Rat → Rat → Rat
opaque expAmp : Rat → Rat → Rat → Rat → Rat

/-- The 256-bit key of the Cord's record authentication code (R465), which never leaves the cartridge. -/
opaque cordKey : BitVec 256

/-- The tension in N that the Cord's calibration gives a bridge signal under TZERO and TSPAN, and the TSPAN it stages from a
signal, TZERO and a reference load (R454, R455): the manual gives neither formula. -/
opaque cordTension : Word → Word → Int → Rat
opaque cordSpan : Int → Word → Word → Word

/-- The error number of a refused COMMIT whose TDIV is too large (R454), which the manual does not give. -/
opaque cordTdivErr : Nat

end Sys2Proof.Config
end

