-- ==== Sys2Proof/Machine/RegInfo.lean ====
section
/-!
DEFINITION. The access table of the registers (R7, R59, R104), one row per register of the manual's tables: base address,
the two index ranges and strides, the masks of its RW, W1C, WO and RC bits, the mask of its committed bits, those that a descriptor pair of an image loads (R411), and its reset
value. Resets that depend on the lane, on the source or on a sensor's class stand in Machine/State.lean.
-/
namespace Sys2Proof.Machine

/-- One register of a block window: `base + s1·i + s2·j` for `i < n1`, `j < n2`. -/
structure RegDef where
  base : Nat
  n1 : Nat
  s1 : Nat
  n2 : Nat
  s2 : Nat
  rw : Nat
  w1c : Nat
  wo : Nat
  rc : Nat
  com : Nat
  dsc : Nat
  rst : Nat
  deriving DecidableEq, Repr

/-- Registers of the SYS window. -/
def regsSYS : List RegDef := [
  ⟨0x40000000, 1, 0x0, 1, 0x0, 0x0, 0x0, 0x0, 0x0, 0x0, 0x0, 0x20⟩,
  ⟨0x40000004, 1, 0x0, 1, 0x0, 0x0, 0x1F, 0x0, 0x0, 0x0, 0x0, 0x0⟩,
  ⟨0x40000010, 1, 0x0, 1, 0x0, 0x0, 0x0, 0x0, 0x0, 0x0, 0x0, 0x0⟩,
  ⟨0x40000100, 4, 0x10, 1, 0x0, 0x0, 0x0, 0x0, 0x0, 0x0, 0x0, 0x0⟩,
  ⟨0x40000104, 4, 0x10, 1, 0x0, 0x0, 0x0, 0x0, 0x0, 0x0, 0x0, 0x0⟩,
  ⟨0x40000108, 4, 0x10, 1, 0x0, 0x0, 0x0, 0x0, 0x0, 0x0, 0x0, 0x0⟩,
  ⟨0x4000010C, 4, 0x10, 1, 0x0, 0x0, 0x1FF, 0x0, 0x0, 0x0, 0x0, 0x0⟩]

/-- Registers of the CLK window. -/
def regsCLK : List RegDef := [
  ⟨0x40010000, 1, 0x0, 1, 0x0, 0x0, 0x0, 0x0, 0x0, 0x0, 0x0, 0x0⟩,
  ⟨0x40010004, 1, 0x0, 1, 0x0, 0x0, 0xFF, 0x0, 0x0, 0x0, 0x0, 0x0⟩,
  ⟨0x40010010, 1, 0x0, 1, 0x0, 0x0, 0x0, 0x0, 0x0, 0x0, 0x0, 0x7⟩,
  ⟨0x40010014, 1, 0x0, 1, 0x0, 0x0, 0x0, 0x1, 0x0, 0x0, 0x0, 0x0⟩,
  ⟨0x40010018, 1, 0x0, 1, 0x0, 0x0, 0x0, 0x0, 0x0, 0x0, 0xFF, 0xF0⟩,
  ⟨0x4001001C, 1, 0x0, 1, 0x0, 0xFFFFFFFF, 0x0, 0x0, 0x0, 0x0, 0x0, 0x0⟩,
  ⟨0x40010020, 1, 0x0, 1, 0x0, 0x0, 0x0, 0x0, 0x0, 0x0, 0xFFFFFFFF, 0x0⟩,
  ⟨0x40010024, 1, 0x0, 1, 0x0, 0x0, 0x0, 0x0, 0x0, 0x0, 0xFFFFFFFF, 0x0⟩,
  ⟨0x40010028, 1, 0x0, 1, 0x0, 0x0, 0x0, 0x0, 0x0, 0x0, 0x0, 0x0⟩,
  ⟨0x40010030, 1, 0x0, 1, 0x0, 0x0, 0x0, 0x0, 0x0, 0x0, 0x0, 0x0⟩,
  ⟨0x40010034, 1, 0x0, 1, 0x0, 0x0, 0x0, 0x0, 0x0, 0x0, 0x0, 0x0⟩,
  ⟨0x40010038, 1, 0x0, 1, 0x0, 0x0, 0x0, 0x0, 0x0, 0x0, 0x0, 0x0⟩,
  ⟨0x40010040, 2, 0x4, 1, 0x0, 0x0, 0x0, 0x0, 0x0, 0x0, 0x0, 0x0⟩]

/-- Registers of the ADM window. -/
def regsADM : List RegDef := [
  ⟨0x40020000, 1, 0x0, 1, 0x0, 0x0, 0x0, 0x0, 0x0, 0x0, 0x0, 0x0⟩,
  ⟨0x40020004, 1, 0x0, 1, 0x0, 0x0, 0xFF, 0x0, 0x0, 0x0, 0x0, 0x0⟩,
  ⟨0x40020010, 1, 0x0, 1, 0x0, 0x0, 0x0, 0x0, 0x0, 0x0, 0x0, 0xFF000000⟩,
  ⟨0x40020014, 1, 0x0, 1, 0x0, 0x0, 0x0, 0x0, 0x0, 0x0, 0x0, 0x0⟩,
  ⟨0x40020018, 1, 0x0, 1, 0x0, 0x0, 0x0, 0x0, 0x0, 0x0, 0x0, 0x0⟩,
  ⟨0x40020030, 1, 0x0, 1, 0x0, 0x0, 0x0, 0x0, 0x0, 0x0, 0x0, 0x0⟩,
  ⟨0x40020034, 1, 0x0, 1, 0x0, 0x0, 0x0, 0x0, 0x0, 0x0, 0x0, 0x0⟩,
  ⟨0x40020038, 1, 0x0, 1, 0x0, 0x0, 0x0, 0x0, 0x0, 0x0, 0x0, 0x0⟩,
  ⟨0x4002003C, 1, 0x0, 1, 0x0, 0x0, 0x0, 0x0, 0x0, 0x0, 0x0, 0x0⟩,
  ⟨0x40020040, 1, 0x0, 1, 0x0, 0x0, 0x0, 0x3FF, 0x0, 0x3FF, 0x0, 0x0⟩,
  ⟨0x40020020, 4, 0x4, 1, 0x0, 0x0, 0x0, 0x0, 0x0, 0x0, 0x0, 0x0⟩,
  ⟨0x40020100, 64, 0x10, 1, 0x0, 0x0, 0x0, 0x0, 0x0, 0x0, 0x0, 0xFF000000⟩,
  ⟨0x40020104, 64, 0x10, 1, 0x0, 0x0, 0x0, 0x0, 0x0, 0x0, 0x0, 0x0⟩,
  ⟨0x40020108, 64, 0x10, 1, 0x0, 0x0, 0x0, 0x0, 0x0, 0x0, 0x0, 0x0⟩,
  ⟨0x4002010C, 64, 0x10, 1, 0x0, 0x0, 0x0, 0x0, 0x0, 0x0, 0x0, 0x0⟩,
  ⟨0x40020500, 64, 0x4, 1, 0x0, 0x0, 0x0, 0x0, 0xFFFF, 0x0, 0x0, 0x0⟩,
  ⟨0x40020600, 16, 0x4, 1, 0x0, 0x0, 0x0, 0x0, 0xFFFF, 0x0, 0x0, 0x0⟩,
  ⟨0x40020640, 16, 0x4, 1, 0x0, 0x0, 0x0, 0x0, 0x0, 0x0, 0x0, 0x0⟩]

/-- Registers of the AXS window, part 0. -/
def regsAXS0 : List RegDef := [
  ⟨0x40030000, 16, 0x1000, 1, 0x0, 0x0, 0x0, 0x0, 0x0, 0x0, 0x0, 0x206⟩,
  ⟨0x40030004, 16, 0x1000, 1, 0x0, 0x0, 0x7FFF, 0x0, 0x0, 0x0, 0x0, 0x0⟩,
  ⟨0x40030010, 16, 0x1000, 1, 0x0, 0x1, 0x0, 0x0, 0x0, 0x1, 0x1, 0x40⟩,
  ⟨0x40030014, 16, 0x1000, 1, 0x0, 0x0, 0x0, 0x0, 0x0, 0x0, 0x0, 0x0⟩,
  ⟨0x40030040, 16, 0x1000, 1, 0x0, 0x0, 0x0, 0x0, 0x0, 0x0, 0x1FFFFF, 0x0⟩,
  ⟨0x40030044, 16, 0x1000, 1, 0x0, 0x0, 0x0, 0x0, 0x0, 0x0, 0x0, 0x0⟩,
  ⟨0x40030048, 16, 0x1000, 1, 0x0, 0x7F, 0x0, 0x0, 0x0, 0x7F, 0x7F, 0x0⟩,
  ⟨0x4003004C, 16, 0x1000, 1, 0x0, 0x0, 0x0, 0x0, 0x0, 0x0, 0x0, 0x0⟩,
  ⟨0x40030050, 16, 0x1000, 1, 0x0, 0x0, 0x0, 0x0, 0x0, 0x0, 0x3FF3FFF, 0x1400DC0⟩,
  ⟨0x40030054, 16, 0x1000, 1, 0x0, 0x0, 0x0, 0x0, 0x0, 0x0, 0xFFFFFF, 0x101004⟩,
  ⟨0x40030058, 16, 0x1000, 1, 0x0, 0x0, 0x0, 0x0, 0x0, 0x0, 0x1FFFFF, 0x140100⟩,
  ⟨0x40030080, 16, 0x1000, 1, 0x0, 0x0, 0x0, 0x0, 0x0, 0x0, 0xFFFFFFFF, 0x0⟩,
  ⟨0x40030084, 16, 0x1000, 1, 0x0, 0x0, 0x0, 0x0, 0x0, 0x0, 0xFFFFFFFF, 0x0⟩,
  ⟨0x40030088, 16, 0x1000, 1, 0x0, 0x0, 0x0, 0x0, 0x0, 0x0, 0xFFFFFFFF, 0x0⟩,
  ⟨0x4003008C, 16, 0x1000, 1, 0x0, 0x0, 0x0, 0x0, 0x0, 0x0, 0x3F, 0x0⟩,
  ⟨0x40030090, 16, 0x1000, 1, 0x0, 0x0, 0x0, 0x0, 0x0, 0x0, 0xFFFFFFFF, 0x0⟩,
  ⟨0x40030094, 16, 0x1000, 1, 0x0, 0x0, 0x0, 0x0, 0x0, 0x0, 0xFFFFFFFF, 0x0⟩,
  ⟨0x40030098, 16, 0x1000, 1, 0x0, 0x0, 0x0, 0x0, 0x0, 0x0, 0xFFFFFFFF, 0x0⟩,
  ⟨0x4003009C, 16, 0x1000, 1, 0x0, 0x0, 0x0, 0x0, 0x0, 0x0, 0xFFFFFFFF, 0x0⟩,
  ⟨0x400300A0, 16, 0x1000, 1, 0x0, 0x0, 0x0, 0x0, 0x0, 0x0, 0xFFFFFFFF, 0x0⟩]

/-- Registers of the AXS window, part 1. -/
def regsAXS1 : List RegDef := [
  ⟨0x400300A8, 16, 0x1000, 1, 0x0, 0x0, 0x0, 0x0, 0x0, 0x0, 0xFFFFFFFF, 0x40F333⟩,
  ⟨0x400300AC, 16, 0x1000, 1, 0x0, 0x0, 0x0, 0x0, 0x0, 0x0, 0xFFFFFFFF, 0x1800F000⟩,
  ⟨0x400300B0, 16, 0x1000, 1, 0x0, 0x0, 0x0, 0x0, 0x0, 0x0, 0xFFFF00FF, 0x10000000⟩,
  ⟨0x400300B4, 16, 0x1000, 1, 0x0, 0x0, 0x0, 0x0, 0x0, 0x0, 0x0, 0x0⟩,
  ⟨0x400300B8, 16, 0x1000, 1, 0x0, 0x0, 0x0, 0x3, 0x0, 0x3, 0x0, 0x0⟩,
  ⟨0x400300C0, 16, 0x1000, 1, 0x0, 0xFFFFFFFF, 0x0, 0x0, 0x0, 0xFFFFFFFF, 0x0, 0x0⟩,
  ⟨0x400300C4, 16, 0x1000, 1, 0x0, 0x7, 0x0, 0x8, 0x0, 0xF, 0x0, 0x0⟩,
  ⟨0x400300C8, 16, 0x1000, 1, 0x0, 0xFFFFFFFF, 0x0, 0x0, 0x0, 0xFFFFFFFF, 0x0, 0x0⟩,
  ⟨0x400300CC, 16, 0x1000, 1, 0x0, 0x0, 0x0, 0x0, 0x0, 0x0, 0xFFFFFFFF, 0x520400⟩,
  ⟨0x400300D0, 16, 0x1000, 1, 0x0, 0x0, 0x0, 0x0, 0x0, 0x0, 0xFFFFFFFF, 0x291400⟩,
  ⟨0x400300D4, 16, 0x1000, 1, 0x0, 0x0, 0x0, 0x0, 0x0, 0x0, 0xFFFFFFFF, 0x640800⟩,
  ⟨0x400300D8, 16, 0x1000, 1, 0x0, 0x0, 0x0, 0x0, 0x0, 0x0, 0xFFFFFFFF, 0xC812C40⟩,
  ⟨0x400300DC, 16, 0x1000, 1, 0x0, 0x0, 0x0, 0x0, 0x0, 0x0, 0xFFFF01FF, 0x8000000⟩,
  ⟨0x400300E0, 16, 0x1000, 1, 0x0, 0x0, 0x0, 0x0, 0x0, 0x0, 0xFFFFFFFF, 0xA0004CD⟩,
  ⟨0x400300E4, 16, 0x1000, 1, 0x0, 0x0, 0x0, 0x0, 0x0, 0x0, 0xFFFFFFFF, 0x0⟩,
  ⟨0x400300E8, 16, 0x1000, 1, 0x0, 0x0, 0x0, 0x0, 0x0, 0x0, 0xFFFFFFFF, 0x1CCD1800⟩,
  ⟨0x400300EC, 16, 0x1000, 1, 0x0, 0x0, 0x0, 0x0, 0x0, 0x0, 0xFFFFFFFF, 0x0⟩,
  ⟨0x400300F0, 16, 0x1000, 1, 0x0, 0x0, 0x0, 0x0, 0x0, 0x0, 0xFFFFFFFF, 0x0⟩,
  ⟨0x400300F4, 16, 0x1000, 1, 0x0, 0x0, 0x0, 0x0, 0x0, 0x0, 0xFFFFFFFF, 0x0⟩,
  ⟨0x400300F8, 16, 0x1000, 1, 0x0, 0x0, 0x0, 0x0, 0x0, 0x0, 0xFFFFFF, 0x41333⟩]

/-- Registers of the AXS window, part 2. -/
def regsAXS2 : List RegDef := [
  ⟨0x400300FC, 16, 0x1000, 1, 0x0, 0x0, 0x0, 0x0, 0x0, 0x0, 0x37777777, 0x1344434⟩,
  ⟨0x40030100, 16, 0x1000, 1, 0x0, 0x0, 0x0, 0x0, 0x0, 0x0, 0xFFFFFFF, 0x0⟩,
  ⟨0x40030104, 16, 0x1000, 1, 0x0, 0x0, 0x0, 0x0, 0x0, 0x0, 0xFFFFFFFF, 0x8001000⟩,
  ⟨0x40030108, 16, 0x1000, 1, 0x0, 0x0, 0x0, 0x0, 0x0, 0x0, 0xFFFFFF07, 0x10000500⟩,
  ⟨0x4003010C, 16, 0x1000, 1, 0x0, 0x0, 0x0, 0x0, 0x0, 0x0, 0xFFFFFFF1, 0xC81F40⟩,
  ⟨0x40030110, 16, 0x1000, 1, 0x0, 0x0, 0x0, 0x0, 0x0, 0x0, 0xFFFFFFFF, 0x3C1000⟩,
  ⟨0x40030114, 16, 0x1000, 1, 0x0, 0x0, 0x0, 0x0, 0x0, 0x0, 0x0, 0x0⟩,
  ⟨0x40030118, 16, 0x1000, 1, 0x0, 0x0, 0x0, 0x0, 0x0, 0x0, 0x0, 0x0⟩,
  ⟨0x4003011C, 16, 0x1000, 1, 0x0, 0x0, 0x0, 0x0, 0x0, 0x0, 0x0, 0x0⟩,
  ⟨0x40030120, 16, 0x1000, 1, 0x0, 0x0, 0x0, 0x0, 0x0, 0x0, 0x0, 0x10000⟩,
  ⟨0x40030124, 16, 0x1000, 1, 0x0, 0x0, 0x0, 0x0, 0x0, 0x0, 0xFFFFFFFF, 0x0⟩,
  ⟨0x40030060, 16, 0x1000, 4, 0x4, 0x0, 0x0, 0x0, 0x0, 0x0, 0xFFFFFF0F, 0x0⟩]

/-- Registers of the AXS window. -/
def regsAXS : List RegDef := regsAXS0 ++ regsAXS1 ++ regsAXS2

/-- Registers of the LEG window. -/
def regsLEG : List RegDef := [
  ⟨0x40040000, 1, 0x0, 1, 0x0, 0x0, 0x0, 0x0, 0x0, 0x0, 0x0, 0x0⟩,
  ⟨0x40040004, 1, 0x0, 1, 0x0, 0x0, 0x7FF, 0x0, 0x0, 0x0, 0x0, 0x0⟩,
  ⟨0x40040100, 32, 0x4, 1, 0x0, 0x0, 0x0, 0x0, 0x0, 0x0, 0x0, 0x3⟩,
  ⟨0x40041000, 128, 0x10, 1, 0x0, 0x0, 0x0, 0x0, 0x0, 0x0, 0x3FFFB, 0x0⟩,
  ⟨0x40041004, 128, 0x10, 1, 0x0, 0x0, 0x0, 0x0, 0x0, 0x0, 0x0, 0x0⟩,
  ⟨0x40041008, 128, 0x10, 1, 0x0, 0x0, 0x0, 0x0, 0x0, 0x0, 0x0, 0x300⟩,
  ⟨0x4004100C, 128, 0x10, 1, 0x0, 0x0, 0x0, 0x0, 0xFFFFFFFF, 0x0, 0x0, 0x0⟩,
  ⟨0x40042000, 32, 0x10, 1, 0x0, 0x0, 0x0, 0x0, 0x0, 0x0, 0x7F, 0x0⟩,
  ⟨0x40042004, 32, 0x10, 1, 0x0, 0x0, 0x0, 0x0, 0x0, 0x0, 0x0, 0x0⟩,
  ⟨0x40042008, 32, 0x10, 1, 0x0, 0x0, 0x0, 0x0, 0x0, 0x0, 0x0, 0x0⟩,
  ⟨0x4004200C, 32, 0x10, 1, 0x0, 0x0, 0x0, 0x0, 0x0, 0x0, 0x0, 0x0⟩,
  ⟨0x40043000, 32, 0x20, 4, 0x8, 0x0, 0x0, 0x0, 0x0, 0x0, 0xFF0F3FFF, 0xA0000C80⟩,
  ⟨0x40043004, 32, 0x20, 4, 0x8, 0x0, 0x0, 0x0, 0x0, 0x0, 0xFFFF, 0x0⟩]

/-- Registers of the OBS window. -/
def regsOBS : List RegDef := [
  ⟨0x40050000, 1, 0x0, 1, 0x0, 0x0, 0x0, 0x0, 0x0, 0x0, 0x0, 0x0⟩,
  ⟨0x40050004, 1, 0x0, 1, 0x0, 0x0, 0xFFF, 0x0, 0x0, 0x0, 0x0, 0x0⟩,
  ⟨0x40051000, 16, 0x100, 1, 0x0, 0x0, 0x0, 0x0, 0x0, 0x0, 0x1FF, 0x180⟩,
  ⟨0x40051004, 16, 0x100, 1, 0x0, 0x0, 0x0, 0x0, 0x0, 0x0, 0xFFFFFFFF, 0x500190⟩,
  ⟨0x40051008, 16, 0x100, 1, 0x0, 0x0, 0x0, 0x0, 0x0, 0x0, 0xFFF0FFF, 0xCD03E8⟩,
  ⟨0x4005100C, 16, 0x100, 1, 0x0, 0x0, 0x0, 0x0, 0x0, 0x0, 0xFFFFFFFF, 0x3330199⟩,
  ⟨0x40051010, 16, 0x100, 1, 0x0, 0x0, 0x0, 0x0, 0x0, 0x0, 0xFFFFFFFF, 0x2D040148⟩,
  ⟨0x40051014, 16, 0x100, 1, 0x0, 0x0, 0x0, 0x0, 0x0, 0x0, 0xFFFFFFF, 0x1F483E8⟩,
  ⟨0x40051018, 16, 0x100, 1, 0x0, 0x0, 0x0, 0x0, 0x0, 0x0, 0xFFFFFFFF, 0x8008038E⟩,
  ⟨0x4005101C, 16, 0x100, 1, 0x0, 0x0, 0x0, 0x0, 0x0, 0x0, 0xFFFFFFFF, 0x0⟩,
  ⟨0x40051020, 16, 0x100, 1, 0x0, 0x0, 0x0, 0x0, 0x0, 0x0, 0xFFFFFFFF, 0x5B016C⟩,
  ⟨0x40051024, 16, 0x100, 1, 0x0, 0x0, 0x0, 0x0, 0x0, 0x0, 0xFFFFFFFF, 0x3330000⟩,
  ⟨0x40051028, 16, 0x100, 1, 0x0, 0x0, 0x0, 0x0, 0x0, 0x0, 0xFFFFFFFF, 0x14080052⟩,
  ⟨0x40051040, 16, 0x100, 1, 0x0, 0x0, 0x0, 0x0, 0x0, 0x0, 0x0, 0x0⟩,
  ⟨0x40051044, 16, 0x100, 1, 0x0, 0x0, 0x0, 0x0, 0x0, 0x0, 0x0, 0x0⟩,
  ⟨0x40051048, 16, 0x100, 1, 0x0, 0x0, 0x0, 0x0, 0x0, 0x0, 0x0, 0x0⟩,
  ⟨0x4005104C, 16, 0x100, 1, 0x0, 0x0, 0x0, 0x0, 0x0, 0x0, 0x0, 0x0⟩,
  ⟨0x40051050, 16, 0x100, 1, 0x0, 0x0, 0x0, 0x0, 0x0, 0x0, 0x0, 0x0⟩,
  ⟨0x40051054, 16, 0x100, 1, 0x0, 0x0, 0x0, 0x0, 0x0, 0x0, 0x0, 0x0⟩,
  ⟨0x40051058, 16, 0x100, 1, 0x0, 0x0, 0x0, 0x0, 0xFFFF, 0x0, 0x0, 0x0⟩]

/-- Registers of the LPE window, part 0. -/
def regsLPE0 : List RegDef := [
  ⟨0x40060000, 1, 0x0, 1, 0x0, 0x0, 0x0, 0x0, 0x0, 0x0, 0x0, 0x0⟩,
  ⟨0x40060004, 1, 0x0, 1, 0x0, 0x0, 0x1FFF, 0x0, 0x0, 0x0, 0x0, 0x0⟩,
  ⟨0x40060100, 4, 0x20, 1, 0x0, 0x1FFFFFF, 0x0, 0x0, 0x0, 0x1000000, 0x0, 0x10000⟩,
  ⟨0x40060104, 4, 0x20, 1, 0x0, 0xFFFFFFFF, 0x0, 0x0, 0x0, 0x0, 0x0, 0xE0⟩,
  ⟨0x40060108, 4, 0x20, 1, 0x0, 0xFFFFFFFF, 0x0, 0x0, 0x0, 0x0, 0x0, 0x0⟩,
  ⟨0x4006010C, 4, 0x20, 1, 0x0, 0xFFFFFFFF, 0x0, 0x0, 0x0, 0x0, 0x0, 0x0⟩,
  ⟨0x40060110, 4, 0x20, 1, 0x0, 0xFFFFFFFF, 0x0, 0x0, 0x0, 0x0, 0x0, 0x0⟩,
  ⟨0x40060114, 4, 0x20, 1, 0x0, 0x0, 0x0, 0x0, 0x0, 0x0, 0x0, 0x0⟩,
  ⟨0x40060200, 1, 0x0, 1, 0x0, 0xFFFFFFD, 0x0, 0x2, 0x0, 0x0, 0x0, 0x0⟩,
  ⟨0x40060204, 1, 0x0, 1, 0x0, 0xFFFFFFFF, 0x0, 0x0, 0x0, 0x0, 0x0, 0xE0⟩,
  ⟨0x40060208, 1, 0x0, 1, 0x0, 0xFFFFFF, 0x0, 0x0, 0x0, 0x0, 0x0, 0x0⟩,
  ⟨0x4006020C, 1, 0x0, 1, 0x0, 0xFFFFFF, 0x0, 0x0, 0x0, 0x0, 0x0, 0x0⟩,
  ⟨0x40060230, 1, 0x0, 1, 0x0, 0x0, 0x0, 0x0, 0x0, 0x0, 0x0, 0x0⟩,
  ⟨0x40060210, 8, 0x4, 1, 0x0, 0xFFF, 0x0, 0x0, 0x0, 0x0, 0xFFF, 0x0⟩,
  ⟨0x40061000, 256, 0x40, 1, 0x0, 0x0, 0x0, 0x0, 0x0, 0x0, 0x7FFFFFFF, 0x0⟩,
  ⟨0x40061004, 256, 0x40, 1, 0x0, 0x0, 0x0, 0x0, 0x0, 0x0, 0x7FFFFF, 0x0⟩,
  ⟨0x40061008, 256, 0x40, 1, 0x0, 0x0, 0x0, 0x0, 0x0, 0x0, 0xFFFFFFFF, 0x0⟩,
  ⟨0x4006100C, 256, 0x40, 1, 0x0, 0x0, 0x0, 0x0, 0x0, 0x0, 0xFFFFFFFF, 0xE0⟩,
  ⟨0x40061010, 256, 0x40, 1, 0x0, 0x0, 0x0, 0x0, 0x0, 0x0, 0xFFFFFFFF, 0xE0⟩,
  ⟨0x40061014, 256, 0x40, 1, 0x0, 0x0, 0x0, 0x0, 0x0, 0x0, 0xFFFFFFFF, 0xE0⟩]

/-- Registers of the LPE window, part 1. -/
def regsLPE1 : List RegDef := [
  ⟨0x40061018, 256, 0x40, 1, 0x0, 0x0, 0x0, 0x0, 0x0, 0x0, 0xFFFFFFFF, 0xE0⟩,
  ⟨0x4006101C, 256, 0x40, 1, 0x0, 0x0, 0x0, 0x0, 0x0, 0x0, 0xFFFFFFFF, 0xE0⟩,
  ⟨0x40061020, 256, 0x40, 1, 0x0, 0x0, 0x0, 0x0, 0x0, 0x0, 0xFFFFFFFF, 0xE0⟩,
  ⟨0x40061024, 256, 0x40, 1, 0x0, 0x0, 0x0, 0x0, 0x0, 0x0, 0xFFFFFFFF, 0xE0⟩,
  ⟨0x40061028, 256, 0x40, 1, 0x0, 0x0, 0x0, 0x0, 0x0, 0x0, 0xFFFF, 0x0⟩,
  ⟨0x4006102C, 256, 0x40, 1, 0x0, 0xFFFFFFFF, 0x0, 0x0, 0x0, 0xFFFFFFFF, 0xFFFFFFFF, 0xE0⟩,
  ⟨0x40061030, 256, 0x40, 1, 0x0, 0xFFFFFFFF, 0x0, 0x0, 0x0, 0xFFFFFFFF, 0xFFFFFFFF, 0xE0⟩,
  ⟨0x40061034, 256, 0x40, 1, 0x0, 0x1, 0x0, 0x2, 0x0, 0x3, 0x1, 0x0⟩,
  ⟨0x40068000, 256, 0x20, 1, 0x0, 0x0, 0x0, 0x0, 0x0, 0x0, 0x0, 0xE0⟩,
  ⟨0x40068004, 256, 0x20, 1, 0x0, 0x0, 0x0, 0x0, 0x0, 0x0, 0x0, 0xE0⟩,
  ⟨0x40068008, 256, 0x20, 1, 0x0, 0x0, 0x0, 0x0, 0x0, 0x0, 0x0, 0xE0⟩,
  ⟨0x4006800C, 256, 0x20, 1, 0x0, 0x0, 0x0, 0x0, 0x0, 0x0, 0x0, 0xE0⟩,
  ⟨0x40068010, 256, 0x20, 1, 0x0, 0x0, 0x0, 0x0, 0x0, 0x0, 0x0, 0x0⟩]

/-- Registers of the LPE window. -/
def regsLPE : List RegDef := regsLPE0 ++ regsLPE1

/-- Registers of the SHR window, part 0. -/
def regsSHR0 : List RegDef := [
  ⟨0x40070000, 1, 0x0, 1, 0x0, 0x0, 0x0, 0x0, 0x0, 0x0, 0x0, 0x0⟩,
  ⟨0x40070004, 1, 0x0, 1, 0x0, 0x0, 0xFF, 0x0, 0x0, 0x0, 0x0, 0x0⟩,
  ⟨0x40070008, 1, 0x0, 1, 0x0, 0x0, 0x0, 0xFF, 0x0, 0xFF, 0x0, 0x0⟩,
  ⟨0x40070080, 16, 0x4, 1, 0x0, 0xFFFF, 0x0, 0x0, 0x0, 0xFFFF, 0x0, 0x1000⟩,
  ⟨0x400700C0, 16, 0x4, 1, 0x0, 0x0, 0x0, 0x0, 0x0, 0x0, 0xFFFFFF, 0x0⟩,
  ⟨0x40070100, 8, 0x10, 1, 0x0, 0x0, 0x0, 0x0, 0x0, 0x0, 0x3FF3FFFF, 0x0⟩,
  ⟨0x40070104, 8, 0x10, 1, 0x0, 0xFFFFFFFF, 0x0, 0x0, 0x0, 0xFFFFFFFF, 0x0, 0x520800⟩,
  ⟨0x40070108, 8, 0x10, 1, 0x0, 0xFFFF, 0x0, 0x0, 0x0, 0xFFFF, 0x0, 0x333⟩,
  ⟨0x4007010C, 8, 0x10, 1, 0x0, 0x0, 0x0, 0x0, 0x0, 0x0, 0xFFFF, 0x0⟩,
  ⟨0x40070200, 8, 0x20, 1, 0x0, 0x0, 0x0, 0x0, 0x0, 0x0, 0xFFFFFFFF, 0x0⟩,
  ⟨0x40070204, 8, 0x20, 1, 0x0, 0x0, 0x0, 0x0, 0x0, 0x0, 0xFFFFFFFF, 0x0⟩,
  ⟨0x40070208, 8, 0x20, 1, 0x0, 0x0, 0x0, 0x0, 0x0, 0x0, 0xFFFFFFFF, 0x11EC119A⟩,
  ⟨0x4007020C, 8, 0x20, 1, 0x0, 0x0, 0x0, 0x0, 0x0, 0x0, 0xFFFFFFFF, 0x128F128F⟩,
  ⟨0x40070210, 8, 0x20, 1, 0x0, 0x0, 0x0, 0x0, 0x0, 0x0, 0xFFFFFFFF, 0x123D1333⟩,
  ⟨0x40070214, 8, 0x20, 1, 0x0, 0x0, 0x0, 0x0, 0x0, 0x0, 0xFFFFFFFF, 0x99A1400⟩,
  ⟨0x40070218, 8, 0x20, 1, 0x0, 0x0, 0x0, 0x0, 0x0, 0x0, 0xFFFFFFFF, 0xD9A0CCD⟩,
  ⟨0x4007021C, 8, 0x20, 1, 0x0, 0x0, 0x0, 0x0, 0x0, 0x0, 0xFFFF00FF, 0x40⟩,
  ⟨0x40070300, 8, 0x8, 1, 0x0, 0xFFFFFF, 0x0, 0x0, 0x0, 0xFFFFFF, 0x0, 0xFFFFFF⟩,
  ⟨0x40070304, 8, 0x8, 1, 0x0, 0x7FFFFFFF, 0x0, 0x0, 0x0, 0x7FFFFFFF, 0x0, 0x7FFFFFFF⟩,
  ⟨0x40070380, 8, 0x8, 1, 0x0, 0x0, 0x0, 0x0, 0x0, 0x0, 0x0, 0x0⟩]

/-- Registers of the SHR window, part 1. -/
def regsSHR1 : List RegDef := [
  ⟨0x40070384, 8, 0x8, 1, 0x0, 0x0, 0x0, 0x0, 0x0, 0x0, 0x0, 0x0⟩,
  ⟨0x40070400, 16, 0x100, 1, 0x0, 0x0, 0x0, 0x0, 0x0, 0x0, 0xFFF1, 0x320⟩,
  ⟨0x40070404, 16, 0x100, 1, 0x0, 0x0, 0x0, 0x0, 0x0, 0x0, 0xFFFFFFFF, 0x0⟩,
  ⟨0x40070410, 16, 0x100, 8, 0x10, 0xFFFFFFFF, 0x0, 0x0, 0x0, 0xFFFFFFFF, 0x0, 0x0⟩,
  ⟨0x40070414, 16, 0x100, 8, 0x10, 0xFFFFFFFF, 0x0, 0x0, 0x0, 0xFFFFFFFF, 0x0, 0x0⟩,
  ⟨0x40070418, 16, 0x100, 8, 0x10, 0xFFFFFFFF, 0x0, 0x0, 0x0, 0xFFFFFFFF, 0x0, 0x0⟩,
  ⟨0x4007041C, 16, 0x100, 8, 0x10, 0xFFFFFFFF, 0x0, 0x0, 0x0, 0xFFFFFFFF, 0x0, 0x0⟩,
  ⟨0x40071800, 32, 0x4, 1, 0x0, 0x0, 0x0, 0x0, 0x0, 0x0, 0x0, 0x0⟩]

/-- Registers of the SHR window. -/
def regsSHR : List RegDef := regsSHR0 ++ regsSHR1

/-- Registers of the BLK window. -/
def regsBLK : List RegDef := [
  ⟨0x40080000, 1, 0x0, 1, 0x0, 0x0, 0x0, 0x0, 0x0, 0x0, 0x0, 0x0⟩,
  ⟨0x40080004, 1, 0x0, 1, 0x0, 0x0, 0x3FFF, 0x0, 0x0, 0x0, 0x0, 0x0⟩,
  ⟨0x40080008, 1, 0x0, 1, 0x0, 0x0, 0x0, 0x0, 0x0, 0x0, 0x0, 0x0⟩,
  ⟨0x40080010, 1, 0x0, 1, 0x0, 0x0, 0x0, 0xFFFFFF1F, 0x0, 0x0, 0x0, 0x0⟩,
  ⟨0x40080014, 1, 0x0, 1, 0x0, 0x0, 0x0, 0x0, 0x0, 0x0, 0x0, 0x0⟩,
  ⟨0x40080060, 1, 0x0, 1, 0x0, 0x0, 0x0, 0x1F, 0x0, 0x1F, 0x0, 0x0⟩,
  ⟨0x40080020, 14, 0x4, 1, 0x0, 0x0, 0x0, 0x0, 0x0, 0x0, 0x0, 0x0⟩,
  ⟨0x40081000, 32, 0x40, 1, 0x0, 0x0, 0x0, 0x0, 0x0, 0x0, 0x0, 0x0⟩,
  ⟨0x40081004, 32, 0x40, 1, 0x0, 0x0, 0x0, 0x0, 0x0, 0x0, 0x0, 0x0⟩,
  ⟨0x40081008, 32, 0x40, 1, 0x0, 0x0, 0x0, 0x0, 0x0, 0x0, 0x0, 0x0⟩,
  ⟨0x4008100C, 32, 0x40, 1, 0x0, 0x0, 0x0, 0x0, 0x0, 0x0, 0x0, 0x0⟩,
  ⟨0x40081020, 32, 0x40, 1, 0x0, 0x0, 0x0, 0x0, 0x0, 0x0, 0x0, 0x0⟩,
  ⟨0x40081024, 32, 0x40, 1, 0x0, 0x0, 0x0, 0x0, 0x0, 0x0, 0x0, 0x0⟩,
  ⟨0x40081028, 32, 0x40, 1, 0x0, 0x0, 0x0, 0x0, 0x0, 0x0, 0x0, 0x0⟩,
  ⟨0x4008102C, 32, 0x40, 1, 0x0, 0x0, 0x0, 0x0, 0xFFFFFFFF, 0x0, 0x0, 0x0⟩,
  ⟨0x40081030, 32, 0x40, 1, 0x0, 0x0, 0x0, 0x0, 0xFFFF, 0x0, 0x0, 0x0⟩,
  ⟨0x40081034, 32, 0x40, 1, 0x0, 0x0, 0x0, 0x0, 0xFFFF, 0x0, 0x0, 0x0⟩,
  ⟨0x40081038, 32, 0x40, 1, 0x0, 0x0, 0x0, 0x0, 0xFFFF, 0x0, 0x0, 0x0⟩,
  ⟨0x40081010, 32, 0x40, 4, 0x4, 0x0, 0x0, 0x0, 0x0, 0x0, 0x0, 0x0⟩]

/-- Registers of the FBK window, part 0. -/
def regsFBK0 : List RegDef := [
  ⟨0x40090000, 1, 0x0, 1, 0x0, 0x0, 0x0, 0x0, 0x0, 0x0, 0x0, 0x0⟩,
  ⟨0x40090004, 1, 0x0, 1, 0x0, 0x0, 0x7FFFF, 0x0, 0x0, 0x0, 0x0, 0x0⟩,
  ⟨0x40091000, 16, 0x100, 1, 0x0, 0x0, 0x0, 0x0, 0x0, 0x0, 0xFFFFFFF, 0x400⟩,
  ⟨0x40091004, 16, 0x100, 1, 0x0, 0x0, 0x0, 0x0, 0x0, 0x0, 0x7FFFFFFF, 0x0⟩,
  ⟨0x40091008, 16, 0x100, 1, 0x0, 0x0, 0x0, 0x0, 0x0, 0x0, 0xFFFF, 0x0⟩,
  ⟨0x4009100C, 16, 0x100, 1, 0x0, 0x0, 0x0, 0x0, 0x0, 0x0, 0xFFFFFFFF, 0x0⟩,
  ⟨0x40091010, 16, 0x100, 1, 0x0, 0x0, 0x0, 0x0, 0x0, 0x0, 0x1FFFFFFF, 0x10000019⟩,
  ⟨0x40091014, 16, 0x100, 1, 0x0, 0x0, 0x0, 0x0, 0x0, 0x0, 0xFFFFFF3F, 0x14010000⟩,
  ⟨0x40091018, 16, 0x100, 1, 0x0, 0x0, 0x0, 0x0, 0x0, 0x0, 0x3FFFFF, 0x0⟩,
  ⟨0x4009101C, 16, 0x100, 1, 0x0, 0x0, 0x0, 0x0, 0x0, 0x0, 0xFFFFFFFF, 0x640314⟩,
  ⟨0x40091020, 16, 0x100, 1, 0x0, 0xFFFFFFFF, 0x0, 0x0, 0x0, 0xFFFFFFFF, 0x0, 0x0⟩,
  ⟨0x40091024, 16, 0x100, 1, 0x0, 0xFFF7, 0x0, 0x0, 0x0, 0xFFF7, 0x0, 0xA0⟩,
  ⟨0x40091028, 16, 0x100, 1, 0x0, 0xFFFFFFFF, 0x0, 0x0, 0x0, 0xFFFFFFFF, 0x0, 0x0⟩,
  ⟨0x4009102C, 16, 0x100, 1, 0x0, 0xFFFFFFFF, 0x0, 0x0, 0x0, 0xFFFFFFFF, 0x0, 0x10000⟩,
  ⟨0x40091030, 16, 0x100, 1, 0x0, 0x0, 0x0, 0x3, 0x0, 0x3, 0x0, 0x0⟩,
  ⟨0x40091040, 16, 0x100, 1, 0x0, 0x0, 0x0, 0x0, 0x0, 0x0, 0x0, 0x0⟩,
  ⟨0x40091044, 16, 0x100, 1, 0x0, 0x0, 0x0, 0x0, 0x0, 0x0, 0x0, 0x0⟩,
  ⟨0x40091048, 16, 0x100, 1, 0x0, 0x0, 0x0, 0x0, 0x0, 0x0, 0x0, 0x0⟩,
  ⟨0x4009104C, 16, 0x100, 1, 0x0, 0x0, 0x0, 0x0, 0x0, 0x0, 0x0, 0x0⟩,
  ⟨0x40091050, 16, 0x100, 1, 0x0, 0x0, 0x0, 0x0, 0x0, 0x0, 0x0, 0x0⟩]

/-- Registers of the FBK window, part 1. -/
def regsFBK1 : List RegDef := [
  ⟨0x40091054, 16, 0x100, 1, 0x0, 0x0, 0x0, 0x0, 0x0, 0x0, 0x0, 0x0⟩,
  ⟨0x40091058, 16, 0x100, 1, 0x0, 0x0, 0x0, 0x0, 0x0, 0x0, 0x0, 0x0⟩,
  ⟨0x4009105C, 16, 0x100, 1, 0x0, 0x0, 0x0, 0x0, 0x0, 0x0, 0x0, 0x0⟩,
  ⟨0x40091060, 16, 0x100, 1, 0x0, 0x0, 0x0, 0x0, 0x0, 0x0, 0x0, 0x0⟩,
  ⟨0x40091064, 16, 0x100, 1, 0x0, 0x0, 0x0, 0x0, 0xFFFFFFFF, 0x0, 0x0, 0x0⟩]

/-- Registers of the FBK window. -/
def regsFBK : List RegDef := regsFBK0 ++ regsFBK1

/-- Registers of the FIO window. -/
def regsFIO : List RegDef := [
  ⟨0x400A0000, 1, 0x0, 1, 0x0, 0x0, 0x0, 0x0, 0x0, 0x0, 0x0, 0x3⟩,
  ⟨0x400A0004, 1, 0x0, 1, 0x0, 0x0, 0xFFF, 0x0, 0x0, 0x0, 0x0, 0x0⟩,
  ⟨0x400A0010, 1, 0x0, 1, 0x0, 0x0, 0x0, 0x0, 0x0, 0x0, 0x0, 0x0⟩,
  ⟨0x400A0014, 1, 0x0, 1, 0x0, 0x0, 0x0, 0x0, 0x0, 0x0, 0x0, 0x0⟩,
  ⟨0x400A0020, 1, 0x0, 1, 0x0, 0x0, 0x0, 0x3, 0x0, 0x3, 0x0, 0x0⟩,
  ⟨0x400A0024, 1, 0x0, 1, 0x0, 0x0, 0x0, 0xFFFFFFFF, 0x0, 0xFFFFFFFF, 0x0, 0x0⟩,
  ⟨0x400A0180, 1, 0x0, 1, 0x0, 0x0, 0x0, 0xFFFF, 0x0, 0xFFFF, 0x0, 0x0⟩,
  ⟨0x400A0100, 16, 0x8, 1, 0x0, 0x0, 0x0, 0x0, 0x0, 0x0, 0x0, 0x0⟩,
  ⟨0x400A0104, 16, 0x8, 1, 0x0, 0x0, 0x0, 0x0, 0x0, 0x0, 0x0, 0x0⟩,
  ⟨0x400A1000, 64, 0x4, 1, 0x0, 0x0, 0x0, 0x0, 0x0, 0x0, 0x3FFFFF7, 0x1903210⟩,
  ⟨0x400A2000, 32, 0x4, 1, 0x0, 0x0, 0x0, 0x0, 0x0, 0x0, 0xFF03, 0xA00⟩,
  ⟨0x400A2080, 32, 0x4, 1, 0x0, 0x0, 0x0, 0x0, 0x0, 0x0, 0x0, 0x80⟩,
  ⟨0x400A2100, 4, 0x4, 1, 0x0, 0x0, 0x0, 0x0, 0x0, 0x0, 0x0, 0x0⟩,
  ⟨0x400A3000, 2, 0x10, 1, 0x0, 0x0, 0x0, 0x0, 0x0, 0x0, 0x3FF, 0xA⟩,
  ⟨0x400A3004, 2, 0x10, 1, 0x0, 0x0, 0x0, 0x0, 0x0, 0x0, 0x0, 0x1⟩]

/-- Registers of the CAN window, part 0. -/
def regsCAN0 : List RegDef := [
  ⟨0x400B0000, 4, 0x4000, 1, 0x0, 0x0, 0x0, 0x0, 0x0, 0x0, 0x0, 0x10⟩,
  ⟨0x400B0004, 4, 0x4000, 1, 0x0, 0x0, 0x1FFFF, 0x0, 0x0, 0x0, 0x0, 0x0⟩,
  ⟨0x400B0010, 4, 0x4000, 1, 0x0, 0x0, 0x0, 0x0, 0x0, 0x0, 0x3FFF, 0x800⟩,
  ⟨0x400B0014, 4, 0x4000, 1, 0x0, 0x0, 0x0, 0x0, 0x0, 0x0, 0x7F7FFFFF, 0xF0F3E01⟩,
  ⟨0x400B0018, 4, 0x4000, 1, 0x0, 0x0, 0x0, 0x0, 0x0, 0x0, 0x3FFFFFF, 0x3C44C0⟩,
  ⟨0x400B0020, 4, 0x4000, 1, 0x0, 0x0, 0x0, 0x0, 0x0, 0x0, 0x0, 0x0⟩,
  ⟨0x400B0024, 4, 0x4000, 1, 0x0, 0x0, 0x0, 0x0, 0xFFFFFFFF, 0x0, 0x0, 0x0⟩,
  ⟨0x400B0028, 4, 0x4000, 1, 0x0, 0x0, 0x0, 0x0, 0xFFFFFFFF, 0x0, 0x0, 0x0⟩,
  ⟨0x400B002C, 4, 0x4000, 1, 0x0, 0x0, 0x0, 0x0, 0xFFFFFFFF, 0x0, 0x0, 0x0⟩,
  ⟨0x400B0030, 4, 0x4000, 1, 0x0, 0x0, 0x0, 0x0, 0x0, 0x0, 0x0, 0x0⟩,
  ⟨0x400B0034, 4, 0x4000, 1, 0x0, 0x0, 0x0, 0x0, 0x0, 0x0, 0x0, 0x0⟩,
  ⟨0x400B0038, 4, 0x4000, 1, 0x0, 0x0, 0x0, 0x0, 0x0, 0x0, 0x0, 0x0⟩,
  ⟨0x400B003C, 4, 0x4000, 1, 0x0, 0x0, 0x0, 0x0, 0x0, 0x0, 0x0, 0x0⟩,
  ⟨0x400B0040, 4, 0x4000, 1, 0x0, 0xFF, 0x0, 0x0, 0x0, 0xFF, 0x0, 0x0⟩,
  ⟨0x400B0048, 4, 0x4000, 1, 0x0, 0x0, 0x0, 0x0, 0x0, 0x0, 0xFFFFFFFF, 0xFFFFFFFF⟩,
  ⟨0x400B004C, 4, 0x4000, 1, 0x0, 0x0, 0x0, 0x0, 0x0, 0x0, 0xFFFFFFFF, 0xFFFFFFFF⟩,
  ⟨0x400B0100, 4, 0x4000, 1, 0x0, 0x0, 0x0, 0x0, 0x0, 0x0, 0x1FFDF, 0x0⟩,
  ⟨0x400B0104, 4, 0x4000, 1, 0x0, 0x0, 0x0, 0x0, 0x0, 0x0, 0xFFFFFF, 0x0⟩,
  ⟨0x400B0108, 4, 0x4000, 1, 0x0, 0x0, 0x0, 0x0, 0x0, 0x0, 0xFFFFFFFF, 0x640000⟩,
  ⟨0x400B010C, 4, 0x4000, 1, 0x0, 0x0, 0x0, 0x0, 0x0, 0x0, 0x0, 0x0⟩]

/-- Registers of the CAN window, part 1. -/
def regsCAN1 : List RegDef := [
  ⟨0x400B0110, 4, 0x4000, 1, 0x0, 0x0, 0x0, 0x0, 0x0, 0x0, 0x0, 0x0⟩,
  ⟨0x400B0114, 4, 0x4000, 1, 0x0, 0x0, 0x0, 0x0, 0x0, 0x0, 0x0, 0x0⟩,
  ⟨0x400B0080, 4, 0x4000, 8, 0x8, 0x0, 0x0, 0x0, 0x0, 0x0, 0x0, 0x0⟩,
  ⟨0x400B0084, 4, 0x4000, 8, 0x8, 0x0, 0x0, 0x0, 0x0, 0x0, 0x0, 0x0⟩,
  ⟨0x400B1000, 4, 0x4000, 64, 0x10, 0x0, 0x0, 0x0, 0x0, 0x0, 0xFFFFFFFF, 0x0⟩,
  ⟨0x400B1004, 4, 0x4000, 64, 0x10, 0x0, 0x0, 0x0, 0x0, 0x0, 0xFFFFFFFF, 0x0⟩,
  ⟨0x400B1008, 4, 0x4000, 64, 0x10, 0x0, 0x0, 0x0, 0x0, 0x0, 0x3, 0x0⟩]

/-- Registers of the CAN window. -/
def regsCAN : List RegDef := regsCAN0 ++ regsCAN1

/-- Registers of the THM window. -/
def regsTHM : List RegDef := [
  ⟨0x400C0000, 1, 0x0, 1, 0x0, 0x0, 0x0, 0x0, 0x0, 0x0, 0x0, 0x0⟩,
  ⟨0x400C0004, 1, 0x0, 1, 0x0, 0x0, 0x1FF, 0x0, 0x0, 0x0, 0x0, 0x0⟩,
  ⟨0x400C0010, 1, 0x0, 1, 0x0, 0x0, 0x0, 0x0, 0x0, 0x0, 0xFF, 0xA⟩,
  ⟨0x400C0100, 16, 0x4, 1, 0x0, 0x0, 0x0, 0x0, 0x0, 0x0, 0xFFFF, 0x1388⟩,
  ⟨0x400C1000, 150, 0x10, 1, 0x0, 0x0, 0x0, 0x0, 0x0, 0x0, 0xFFFFFFFF, 0x0⟩,
  ⟨0x400C1004, 150, 0x10, 1, 0x0, 0x0, 0x0, 0x0, 0x0, 0x0, 0xFFFF, 0x0⟩,
  ⟨0x400C1008, 150, 0x10, 1, 0x0, 0x0, 0x0, 0x0, 0x0, 0x0, 0xFFFFFF, 0x505050⟩,
  ⟨0x400C3000, 16, 0x8, 1, 0x0, 0x0, 0x0, 0x0, 0x0, 0x0, 0xFFFF007F, 0x0⟩,
  ⟨0x400C3004, 16, 0x8, 1, 0x0, 0x0, 0x0, 0x0, 0x0, 0x0, 0xFFFFFFFF, 0x0⟩,
  ⟨0x400C2000, 150, 0x4, 1, 0x0, 0x0, 0x0, 0x0, 0x0, 0x0, 0x0, 0xB7FFF⟩,
  ⟨0x400C2400, 32, 0x4, 1, 0x0, 0x0, 0x0, 0x0, 0x0, 0x0, 0x0, 0xFFFF0000⟩,
  ⟨0x400C2500, 16, 0x4, 1, 0x0, 0x0, 0x0, 0x0, 0x0, 0x0, 0x0, 0xFFFF⟩]

/-- Registers of the FLT window. -/
def regsFLT : List RegDef := [
  ⟨0x400D0000, 1, 0x0, 1, 0x0, 0x0, 0x0, 0x0, 0x0, 0x0, 0x0, 0x0⟩,
  ⟨0x400D0004, 1, 0x0, 1, 0x0, 0x0, 0x1FFFFFF, 0x0, 0x0, 0x0, 0x0, 0x0⟩,
  ⟨0x400D0008, 1, 0x0, 1, 0x0, 0x0, 0x0, 0x1, 0x0, 0x1, 0x0, 0x0⟩,
  ⟨0x400D0010, 1, 0x0, 1, 0x0, 0x0, 0x0, 0x0, 0x0, 0x0, 0x0, 0x0⟩,
  ⟨0x400D0014, 1, 0x0, 1, 0x0, 0x0, 0x0, 0x0, 0x0, 0x0, 0x0, 0x0⟩,
  ⟨0x400D0018, 1, 0x0, 1, 0x0, 0x0, 0x0, 0x0, 0x0, 0x0, 0x0, 0x0⟩,
  ⟨0x400D0400, 256, 0x4, 1, 0x0, 0x0, 0x0, 0x0, 0x0, 0x0, 0xFF, 0x0⟩,
  ⟨0x400D0800, 256, 0x4, 1, 0x0, 0x0, 0x0, 0x0, 0xFFFF, 0x0, 0x0, 0x0⟩,
  ⟨0x400D2000, 64, 0x20, 8, 0x4, 0x0, 0x0, 0x0, 0x0, 0x0, 0xFFFFFFFF, 0x0⟩,
  ⟨0x400D3000, 64, 0x20, 8, 0x4, 0x0, 0x0, 0x0, 0x0, 0x0, 0x0, 0x0⟩]

/-- Registers of the PEAT window. -/
def regsPEAT : List RegDef := [
  ⟨0x400E0000, 1, 0x0, 1, 0x0, 0x0, 0x0, 0x0, 0x0, 0x0, 0x0, 0x0⟩,
  ⟨0x400E0004, 1, 0x0, 1, 0x0, 0x0, 0x7, 0x0, 0x0, 0x0, 0x0, 0x0⟩,
  ⟨0x400E0010, 1, 0x0, 1, 0x0, 0x0, 0x0, 0x0, 0x0, 0x0, 0x0, 0x0⟩,
  ⟨0x400E0014, 1, 0x0, 1, 0x0, 0x0, 0x0, 0x0, 0x0, 0x0, 0x0, 0x0⟩,
  ⟨0x400E0020, 1, 0x0, 1, 0x0, 0xFFFFFFFF, 0x0, 0x0, 0x0, 0x0, 0x0, 0x0⟩,
  ⟨0x400E0024, 1, 0x0, 1, 0x0, 0x0, 0x0, 0x0, 0x0, 0x0, 0x0, 0x0⟩,
  ⟨0x400E0080, 1, 0x0, 1, 0x0, 0x0, 0x0, 0x0, 0x0, 0x0, 0x0, 0x1803⟩,
  ⟨0x400E0040, 8, 0x4, 1, 0x0, 0x0, 0x0, 0x0, 0x0, 0x0, 0x0, 0x0⟩]

/-- Registers of the XLN window. -/
def regsXLN : List RegDef := [
  ⟨0x400F0000, 1, 0x0, 1, 0x0, 0x0, 0x0, 0x0, 0x0, 0x0, 0x0, 0x0⟩,
  ⟨0x400F0004, 1, 0x0, 1, 0x0, 0x0, 0x1FF, 0x0, 0x0, 0x0, 0x0, 0x0⟩,
  ⟨0x400F0008, 1, 0x0, 1, 0x0, 0x0, 0x0, 0x1, 0x0, 0x1, 0x0, 0x0⟩,
  ⟨0x400F0010, 1, 0x0, 1, 0x0, 0x0, 0x0, 0x0, 0x0, 0x0, 0x0, 0x0⟩,
  ⟨0x400F0014, 1, 0x0, 1, 0x0, 0x0, 0x0, 0x0, 0x0, 0x0, 0x0, 0x0⟩,
  ⟨0x400F0018, 1, 0x0, 1, 0x0, 0x0, 0x0, 0x0, 0x0, 0x0, 0x0, 0x0⟩,
  ⟨0x400F001C, 1, 0x0, 1, 0x0, 0x0, 0x0, 0x0, 0xFFFFFFFF, 0x0, 0x0, 0x0⟩]

/-- Registers of the CRD window. -/
def regsCRD : List RegDef := [
  ⟨0x40100000, 1, 0x0, 1, 0x0, 0x0, 0x0, 0x0, 0x0, 0x0, 0x0, 0x0⟩,
  ⟨0x40100004, 1, 0x0, 1, 0x0, 0x0, 0x7FF, 0x0, 0x0, 0x0, 0x0, 0x0⟩,
  ⟨0x40100030, 1, 0x0, 1, 0x0, 0x0, 0x0, 0x0, 0x0, 0x0, 0x0, 0xFF00⟩,
  ⟨0x40100034, 1, 0x0, 1, 0x0, 0x0, 0x0, 0x0, 0x0, 0x0, 0x0, 0x0⟩,
  ⟨0x40100038, 1, 0x0, 1, 0x0, 0x0, 0x0, 0x0, 0x0, 0x0, 0x0, 0x0⟩,
  ⟨0x4010003C, 1, 0x0, 1, 0x0, 0x0, 0x0, 0x0, 0x0, 0x0, 0x0, 0x7FFF⟩,
  ⟨0x40100040, 1, 0x0, 1, 0x0, 0x0, 0x0, 0xF, 0x0, 0xF, 0x0, 0x0⟩,
  ⟨0x40100044, 1, 0x0, 1, 0x0, 0x0, 0x0, 0xFFFFFFFF, 0x0, 0xFFFFFFFF, 0x0, 0x0⟩,
  ⟨0x40100048, 1, 0x0, 1, 0x0, 0x0, 0x0, 0x0, 0x0, 0x0, 0x0, 0x0⟩,
  ⟨0x4010004C, 1, 0x0, 1, 0x0, 0x0, 0x0, 0x0, 0x0, 0x0, 0x0, 0x0⟩,
  ⟨0x401000C4, 1, 0x0, 1, 0x0, 0x0, 0x0, 0x0, 0x0, 0x0, 0x0, 0x0⟩,
  ⟨0x40100010, 4, 0x4, 1, 0x0, 0x0, 0x0, 0x0, 0x0, 0x0, 0x0, 0x0⟩,
  ⟨0x40100020, 4, 0x4, 1, 0x0, 0x0, 0x0, 0x0, 0x0, 0x0, 0x0, 0x0⟩,
  ⟨0x40100080, 17, 0x4, 1, 0x0, 0x0, 0x0, 0x0, 0x0, 0x0, 0x0, 0x0⟩]

/-- Registers of the BST window. -/
def regsBST : List RegDef := [
  ⟨0x40110000, 1, 0x0, 1, 0x0, 0x0, 0x0, 0x0, 0x0, 0x0, 0x0, 0x0⟩,
  ⟨0x40110004, 1, 0x0, 1, 0x0, 0x0, 0x1F, 0x0, 0x0, 0x0, 0x0, 0x0⟩,
  ⟨0x40110008, 1, 0x0, 1, 0x0, 0x0, 0x0, 0xF, 0x0, 0xF, 0x0, 0x0⟩,
  ⟨0x4011000C, 1, 0x0, 1, 0x0, 0x1, 0x0, 0x0, 0x0, 0x1, 0x0, 0x0⟩,
  ⟨0x40110020, 1, 0x0, 1, 0x0, 0x0, 0x0, 0x0, 0x0, 0x0, 0x0, 0x0⟩,
  ⟨0x40110024, 1, 0x0, 1, 0x0, 0x0, 0x0, 0x0, 0x0, 0x0, 0x0, 0x0⟩,
  ⟨0x40110028, 1, 0x0, 1, 0x0, 0x0, 0x0, 0x0, 0x0, 0x0, 0x0, 0x0⟩,
  ⟨0x4011002C, 1, 0x0, 1, 0x0, 0x0, 0x0, 0x0, 0x0, 0x0, 0x0, 0x0⟩,
  ⟨0x40110010, 2, 0x8, 1, 0x0, 0x0, 0x0, 0x0, 0x0, 0x0, 0x0, 0x0⟩,
  ⟨0x40110014, 2, 0x8, 1, 0x0, 0x0, 0x0, 0x0, 0x0, 0x0, 0x0, 0x0⟩]

/-- Registers of the SVC window. -/
def regsSVC : List RegDef := [
]

/-- Registers of the SYS window whose reset value is not zero. -/
def rstSYS : List RegDef := [⟨0x40000000, 1, 0x0, 1, 0x0, 0x0, 0x0, 0x0, 0x0, 0x0, 0x0, 0x20⟩]

/-- Registers of the CLK window whose reset value is not zero. -/
def rstCLK : List RegDef := [⟨0x40010010, 1, 0x0, 1, 0x0, 0x0, 0x0, 0x0, 0x0, 0x0, 0x0, 0x7⟩,
  ⟨0x40010018, 1, 0x0, 1, 0x0, 0x0, 0x0, 0x0, 0x0, 0x0, 0xFF, 0xF0⟩]

/-- Registers of the ADM window whose reset value is not zero. -/
def rstADM : List RegDef := [⟨0x40020010, 1, 0x0, 1, 0x0, 0x0, 0x0, 0x0, 0x0, 0x0, 0x0, 0xFF000000⟩,
  ⟨0x40020100, 64, 0x10, 1, 0x0, 0x0, 0x0, 0x0, 0x0, 0x0, 0x0, 0xFF000000⟩]

/-- Registers of the AXS window whose reset value is not zero. -/
def rstAXS : List RegDef := [⟨0x40030000, 16, 0x1000, 1, 0x0, 0x0, 0x0, 0x0, 0x0, 0x0, 0x0, 0x206⟩,
  ⟨0x40030010, 16, 0x1000, 1, 0x0, 0x1, 0x0, 0x0, 0x0, 0x1, 0x1, 0x40⟩,
  ⟨0x40030050, 16, 0x1000, 1, 0x0, 0x0, 0x0, 0x0, 0x0, 0x0, 0x3FF3FFF, 0x1400DC0⟩,
  ⟨0x40030054, 16, 0x1000, 1, 0x0, 0x0, 0x0, 0x0, 0x0, 0x0, 0xFFFFFF, 0x101004⟩,
  ⟨0x40030058, 16, 0x1000, 1, 0x0, 0x0, 0x0, 0x0, 0x0, 0x0, 0x1FFFFF, 0x140100⟩,
  ⟨0x400300A8, 16, 0x1000, 1, 0x0, 0x0, 0x0, 0x0, 0x0, 0x0, 0xFFFFFFFF, 0x40F333⟩,
  ⟨0x400300AC, 16, 0x1000, 1, 0x0, 0x0, 0x0, 0x0, 0x0, 0x0, 0xFFFFFFFF, 0x1800F000⟩,
  ⟨0x400300B0, 16, 0x1000, 1, 0x0, 0x0, 0x0, 0x0, 0x0, 0x0, 0xFFFF00FF, 0x10000000⟩,
  ⟨0x400300CC, 16, 0x1000, 1, 0x0, 0x0, 0x0, 0x0, 0x0, 0x0, 0xFFFFFFFF, 0x520400⟩,
  ⟨0x400300D0, 16, 0x1000, 1, 0x0, 0x0, 0x0, 0x0, 0x0, 0x0, 0xFFFFFFFF, 0x291400⟩,
  ⟨0x400300D4, 16, 0x1000, 1, 0x0, 0x0, 0x0, 0x0, 0x0, 0x0, 0xFFFFFFFF, 0x640800⟩,
  ⟨0x400300D8, 16, 0x1000, 1, 0x0, 0x0, 0x0, 0x0, 0x0, 0x0, 0xFFFFFFFF, 0xC812C40⟩,
  ⟨0x400300DC, 16, 0x1000, 1, 0x0, 0x0, 0x0, 0x0, 0x0, 0x0, 0xFFFF01FF, 0x8000000⟩,
  ⟨0x400300E0, 16, 0x1000, 1, 0x0, 0x0, 0x0, 0x0, 0x0, 0x0, 0xFFFFFFFF, 0xA0004CD⟩,
  ⟨0x400300E8, 16, 0x1000, 1, 0x0, 0x0, 0x0, 0x0, 0x0, 0x0, 0xFFFFFFFF, 0x1CCD1800⟩,
  ⟨0x400300F8, 16, 0x1000, 1, 0x0, 0x0, 0x0, 0x0, 0x0, 0x0, 0xFFFFFF, 0x41333⟩,
  ⟨0x400300FC, 16, 0x1000, 1, 0x0, 0x0, 0x0, 0x0, 0x0, 0x0, 0x37777777, 0x1344434⟩,
  ⟨0x40030104, 16, 0x1000, 1, 0x0, 0x0, 0x0, 0x0, 0x0, 0x0, 0xFFFFFFFF, 0x8001000⟩,
  ⟨0x40030108, 16, 0x1000, 1, 0x0, 0x0, 0x0, 0x0, 0x0, 0x0, 0xFFFFFF07, 0x10000500⟩,
  ⟨0x4003010C, 16, 0x1000, 1, 0x0, 0x0, 0x0, 0x0, 0x0, 0x0, 0xFFFFFFF1, 0xC81F40⟩,
  ⟨0x40030110, 16, 0x1000, 1, 0x0, 0x0, 0x0, 0x0, 0x0, 0x0, 0xFFFFFFFF, 0x3C1000⟩,
  ⟨0x40030120, 16, 0x1000, 1, 0x0, 0x0, 0x0, 0x0, 0x0, 0x0, 0x0, 0x10000⟩]

/-- Registers of the LEG window whose reset value is not zero. -/
def rstLEG : List RegDef := [⟨0x40040100, 32, 0x4, 1, 0x0, 0x0, 0x0, 0x0, 0x0, 0x0, 0x0, 0x3⟩,
  ⟨0x40041008, 128, 0x10, 1, 0x0, 0x0, 0x0, 0x0, 0x0, 0x0, 0x0, 0x300⟩,
  ⟨0x40043000, 32, 0x20, 4, 0x8, 0x0, 0x0, 0x0, 0x0, 0x0, 0xFF0F3FFF, 0xA0000C80⟩]

/-- Registers of the OBS window whose reset value is not zero. -/
def rstOBS : List RegDef := [⟨0x40051000, 16, 0x100, 1, 0x0, 0x0, 0x0, 0x0, 0x0, 0x0, 0x1FF, 0x180⟩,
  ⟨0x40051004, 16, 0x100, 1, 0x0, 0x0, 0x0, 0x0, 0x0, 0x0, 0xFFFFFFFF, 0x500190⟩,
  ⟨0x40051008, 16, 0x100, 1, 0x0, 0x0, 0x0, 0x0, 0x0, 0x0, 0xFFF0FFF, 0xCD03E8⟩,
  ⟨0x4005100C, 16, 0x100, 1, 0x0, 0x0, 0x0, 0x0, 0x0, 0x0, 0xFFFFFFFF, 0x3330199⟩,
  ⟨0x40051010, 16, 0x100, 1, 0x0, 0x0, 0x0, 0x0, 0x0, 0x0, 0xFFFFFFFF, 0x2D040148⟩,
  ⟨0x40051014, 16, 0x100, 1, 0x0, 0x0, 0x0, 0x0, 0x0, 0x0, 0xFFFFFFF, 0x1F483E8⟩,
  ⟨0x40051018, 16, 0x100, 1, 0x0, 0x0, 0x0, 0x0, 0x0, 0x0, 0xFFFFFFFF, 0x8008038E⟩,
  ⟨0x40051020, 16, 0x100, 1, 0x0, 0x0, 0x0, 0x0, 0x0, 0x0, 0xFFFFFFFF, 0x5B016C⟩,
  ⟨0x40051024, 16, 0x100, 1, 0x0, 0x0, 0x0, 0x0, 0x0, 0x0, 0xFFFFFFFF, 0x3330000⟩,
  ⟨0x40051028, 16, 0x100, 1, 0x0, 0x0, 0x0, 0x0, 0x0, 0x0, 0xFFFFFFFF, 0x14080052⟩]

/-- Registers of the LPE window whose reset value is not zero. -/
def rstLPE : List RegDef := [⟨0x40060100, 4, 0x20, 1, 0x0, 0x1FFFFFF, 0x0, 0x0, 0x0, 0x1000000, 0x0, 0x10000⟩,
  ⟨0x40060104, 4, 0x20, 1, 0x0, 0xFFFFFFFF, 0x0, 0x0, 0x0, 0x0, 0x0, 0xE0⟩,
  ⟨0x40060204, 1, 0x0, 1, 0x0, 0xFFFFFFFF, 0x0, 0x0, 0x0, 0x0, 0x0, 0xE0⟩,
  ⟨0x4006100C, 256, 0x40, 1, 0x0, 0x0, 0x0, 0x0, 0x0, 0x0, 0xFFFFFFFF, 0xE0⟩,
  ⟨0x40061010, 256, 0x40, 1, 0x0, 0x0, 0x0, 0x0, 0x0, 0x0, 0xFFFFFFFF, 0xE0⟩,
  ⟨0x40061014, 256, 0x40, 1, 0x0, 0x0, 0x0, 0x0, 0x0, 0x0, 0xFFFFFFFF, 0xE0⟩,
  ⟨0x40061018, 256, 0x40, 1, 0x0, 0x0, 0x0, 0x0, 0x0, 0x0, 0xFFFFFFFF, 0xE0⟩,
  ⟨0x4006101C, 256, 0x40, 1, 0x0, 0x0, 0x0, 0x0, 0x0, 0x0, 0xFFFFFFFF, 0xE0⟩,
  ⟨0x40061020, 256, 0x40, 1, 0x0, 0x0, 0x0, 0x0, 0x0, 0x0, 0xFFFFFFFF, 0xE0⟩,
  ⟨0x40061024, 256, 0x40, 1, 0x0, 0x0, 0x0, 0x0, 0x0, 0x0, 0xFFFFFFFF, 0xE0⟩,
  ⟨0x4006102C, 256, 0x40, 1, 0x0, 0xFFFFFFFF, 0x0, 0x0, 0x0, 0xFFFFFFFF, 0xFFFFFFFF, 0xE0⟩,
  ⟨0x40061030, 256, 0x40, 1, 0x0, 0xFFFFFFFF, 0x0, 0x0, 0x0, 0xFFFFFFFF, 0xFFFFFFFF, 0xE0⟩,
  ⟨0x40068000, 256, 0x20, 1, 0x0, 0x0, 0x0, 0x0, 0x0, 0x0, 0x0, 0xE0⟩,
  ⟨0x40068004, 256, 0x20, 1, 0x0, 0x0, 0x0, 0x0, 0x0, 0x0, 0x0, 0xE0⟩,
  ⟨0x40068008, 256, 0x20, 1, 0x0, 0x0, 0x0, 0x0, 0x0, 0x0, 0x0, 0xE0⟩,
  ⟨0x4006800C, 256, 0x20, 1, 0x0, 0x0, 0x0, 0x0, 0x0, 0x0, 0x0, 0xE0⟩]

/-- Registers of the SHR window whose reset value is not zero. -/
def rstSHR : List RegDef := [⟨0x40070080, 16, 0x4, 1, 0x0, 0xFFFF, 0x0, 0x0, 0x0, 0xFFFF, 0x0, 0x1000⟩,
  ⟨0x40070104, 8, 0x10, 1, 0x0, 0xFFFFFFFF, 0x0, 0x0, 0x0, 0xFFFFFFFF, 0x0, 0x520800⟩,
  ⟨0x40070108, 8, 0x10, 1, 0x0, 0xFFFF, 0x0, 0x0, 0x0, 0xFFFF, 0x0, 0x333⟩,
  ⟨0x40070208, 8, 0x20, 1, 0x0, 0x0, 0x0, 0x0, 0x0, 0x0, 0xFFFFFFFF, 0x11EC119A⟩,
  ⟨0x4007020C, 8, 0x20, 1, 0x0, 0x0, 0x0, 0x0, 0x0, 0x0, 0xFFFFFFFF, 0x128F128F⟩,
  ⟨0x40070210, 8, 0x20, 1, 0x0, 0x0, 0x0, 0x0, 0x0, 0x0, 0xFFFFFFFF, 0x123D1333⟩,
  ⟨0x40070214, 8, 0x20, 1, 0x0, 0x0, 0x0, 0x0, 0x0, 0x0, 0xFFFFFFFF, 0x99A1400⟩,
  ⟨0x40070218, 8, 0x20, 1, 0x0, 0x0, 0x0, 0x0, 0x0, 0x0, 0xFFFFFFFF, 0xD9A0CCD⟩,
  ⟨0x4007021C, 8, 0x20, 1, 0x0, 0x0, 0x0, 0x0, 0x0, 0x0, 0xFFFF00FF, 0x40⟩,
  ⟨0x40070300, 8, 0x8, 1, 0x0, 0xFFFFFF, 0x0, 0x0, 0x0, 0xFFFFFF, 0x0, 0xFFFFFF⟩,
  ⟨0x40070304, 8, 0x8, 1, 0x0, 0x7FFFFFFF, 0x0, 0x0, 0x0, 0x7FFFFFFF, 0x0, 0x7FFFFFFF⟩,
  ⟨0x40070400, 16, 0x100, 1, 0x0, 0x0, 0x0, 0x0, 0x0, 0x0, 0xFFF1, 0x320⟩]

/-- Registers of the BLK window whose reset value is not zero. -/
def rstBLK : List RegDef := []

/-- Registers of the FBK window whose reset value is not zero. -/
def rstFBK : List RegDef := [⟨0x40091000, 16, 0x100, 1, 0x0, 0x0, 0x0, 0x0, 0x0, 0x0, 0xFFFFFFF, 0x400⟩,
  ⟨0x40091010, 16, 0x100, 1, 0x0, 0x0, 0x0, 0x0, 0x0, 0x0, 0x1FFFFFFF, 0x10000019⟩,
  ⟨0x40091014, 16, 0x100, 1, 0x0, 0x0, 0x0, 0x0, 0x0, 0x0, 0xFFFFFF3F, 0x14010000⟩,
  ⟨0x4009101C, 16, 0x100, 1, 0x0, 0x0, 0x0, 0x0, 0x0, 0x0, 0xFFFFFFFF, 0x640314⟩,
  ⟨0x40091024, 16, 0x100, 1, 0x0, 0xFFF7, 0x0, 0x0, 0x0, 0xFFF7, 0x0, 0xA0⟩,
  ⟨0x4009102C, 16, 0x100, 1, 0x0, 0xFFFFFFFF, 0x0, 0x0, 0x0, 0xFFFFFFFF, 0x0, 0x10000⟩]

/-- Registers of the FIO window whose reset value is not zero. -/
def rstFIO : List RegDef := [⟨0x400A0000, 1, 0x0, 1, 0x0, 0x0, 0x0, 0x0, 0x0, 0x0, 0x0, 0x3⟩,
  ⟨0x400A1000, 64, 0x4, 1, 0x0, 0x0, 0x0, 0x0, 0x0, 0x0, 0x3FFFFF7, 0x1903210⟩,
  ⟨0x400A2000, 32, 0x4, 1, 0x0, 0x0, 0x0, 0x0, 0x0, 0x0, 0xFF03, 0xA00⟩,
  ⟨0x400A2080, 32, 0x4, 1, 0x0, 0x0, 0x0, 0x0, 0x0, 0x0, 0x0, 0x80⟩,
  ⟨0x400A3000, 2, 0x10, 1, 0x0, 0x0, 0x0, 0x0, 0x0, 0x0, 0x3FF, 0xA⟩,
  ⟨0x400A3004, 2, 0x10, 1, 0x0, 0x0, 0x0, 0x0, 0x0, 0x0, 0x0, 0x1⟩]

/-- Registers of the CAN window whose reset value is not zero. -/
def rstCAN : List RegDef := [⟨0x400B0000, 4, 0x4000, 1, 0x0, 0x0, 0x0, 0x0, 0x0, 0x0, 0x0, 0x10⟩,
  ⟨0x400B0010, 4, 0x4000, 1, 0x0, 0x0, 0x0, 0x0, 0x0, 0x0, 0x3FFF, 0x800⟩,
  ⟨0x400B0014, 4, 0x4000, 1, 0x0, 0x0, 0x0, 0x0, 0x0, 0x0, 0x7F7FFFFF, 0xF0F3E01⟩,
  ⟨0x400B0018, 4, 0x4000, 1, 0x0, 0x0, 0x0, 0x0, 0x0, 0x0, 0x3FFFFFF, 0x3C44C0⟩,
  ⟨0x400B0048, 4, 0x4000, 1, 0x0, 0x0, 0x0, 0x0, 0x0, 0x0, 0xFFFFFFFF, 0xFFFFFFFF⟩,
  ⟨0x400B004C, 4, 0x4000, 1, 0x0, 0x0, 0x0, 0x0, 0x0, 0x0, 0xFFFFFFFF, 0xFFFFFFFF⟩,
  ⟨0x400B0108, 4, 0x4000, 1, 0x0, 0x0, 0x0, 0x0, 0x0, 0x0, 0xFFFFFFFF, 0x640000⟩]

/-- Registers of the THM window whose reset value is not zero. -/
def rstTHM : List RegDef := [⟨0x400C0010, 1, 0x0, 1, 0x0, 0x0, 0x0, 0x0, 0x0, 0x0, 0xFF, 0xA⟩,
  ⟨0x400C0100, 16, 0x4, 1, 0x0, 0x0, 0x0, 0x0, 0x0, 0x0, 0xFFFF, 0x1388⟩,
  ⟨0x400C1008, 150, 0x10, 1, 0x0, 0x0, 0x0, 0x0, 0x0, 0x0, 0xFFFFFF, 0x505050⟩,
  ⟨0x400C2000, 150, 0x4, 1, 0x0, 0x0, 0x0, 0x0, 0x0, 0x0, 0x0, 0xB7FFF⟩,
  ⟨0x400C2400, 32, 0x4, 1, 0x0, 0x0, 0x0, 0x0, 0x0, 0x0, 0x0, 0xFFFF0000⟩,
  ⟨0x400C2500, 16, 0x4, 1, 0x0, 0x0, 0x0, 0x0, 0x0, 0x0, 0x0, 0xFFFF⟩]

/-- Registers of the FLT window whose reset value is not zero. -/
def rstFLT : List RegDef := []

/-- Registers of the PEAT window whose reset value is not zero. -/
def rstPEAT : List RegDef := [⟨0x400E0080, 1, 0x0, 1, 0x0, 0x0, 0x0, 0x0, 0x0, 0x0, 0x0, 0x1803⟩]

/-- Registers of the XLN window whose reset value is not zero. -/
def rstXLN : List RegDef := []

/-- Registers of the CRD window whose reset value is not zero. -/
def rstCRD : List RegDef := [⟨0x40100030, 1, 0x0, 1, 0x0, 0x0, 0x0, 0x0, 0x0, 0x0, 0x0, 0xFF00⟩,
  ⟨0x4010003C, 1, 0x0, 1, 0x0, 0x0, 0x0, 0x0, 0x0, 0x0, 0x0, 0x7FFF⟩]

/-- Registers of the BST window whose reset value is not zero. -/
def rstBST : List RegDef := []

/-- Registers of the SVC window whose reset value is not zero. -/
def rstSVC : List RegDef := []

/-- The registers of the block window with index `b` (R41). -/
def regsOfBlock : Nat → List RegDef
  | 0x00 => regsSYS
  | 0x01 => regsCLK
  | 0x02 => regsADM
  | 0x03 => regsAXS
  | 0x04 => regsLEG
  | 0x05 => regsOBS
  | 0x06 => regsLPE
  | 0x07 => regsSHR
  | 0x08 => regsBLK
  | 0x09 => regsFBK
  | 0x0A => regsFIO
  | 0x0B => regsCAN
  | 0x0C => regsTHM
  | 0x0D => regsFLT
  | 0x0E => regsPEAT
  | 0x0F => regsXLN
  | 0x10 => regsCRD
  | 0x11 => regsBST
  | 0x12 => regsSVC
  | _ => []
/-- The registers with a reset value other than zero in the window with index `b`. -/
def rstOfBlock : Nat → List RegDef
  | 0x00 => rstSYS
  | 0x01 => rstCLK
  | 0x02 => rstADM
  | 0x03 => rstAXS
  | 0x04 => rstLEG
  | 0x05 => rstOBS
  | 0x06 => rstLPE
  | 0x07 => rstSHR
  | 0x08 => rstBLK
  | 0x09 => rstFBK
  | 0x0A => rstFIO
  | 0x0B => rstCAN
  | 0x0C => rstTHM
  | 0x0D => rstFLT
  | 0x0E => rstPEAT
  | 0x0F => rstXLN
  | 0x10 => rstCRD
  | 0x11 => rstBST
  | 0x12 => rstSVC
  | _ => []

/-- Whether address `a` is one of the register's addresses. -/
def regCovers (d : RegDef) (a : Nat) : Bool :=
  decide (d.base ≤ a) &&
  (let o := a - d.base
   let i := if d.s1 = 0 then 0 else min (o / d.s1) (d.n1 - 1)
   let r := o - d.s1 * i
   let j := if d.s2 = 0 then 0 else min (r / d.s2) (d.n2 - 1)
   decide (r = d.s2 * j))

/-- The block index of a window address (R41): windows are 64 KiB from 0x4000_0000. -/
def blockOf (a : Nat) : Nat := (a - 0x40000000) / 0x10000

/-- The register that stands at address `a`, if one does. -/
def findReg (a : Nat) : Option RegDef := (regsOfBlock (blockOf a)).find? fun d => regCovers d a

/-- The reset value the register tables give for address `a`; zero where no register stands (R43). -/
def tableReset (a : Nat) : Word :=
  match (rstOfBlock (blockOf a)).find? fun d => regCovers d a with
  | some d => BitVec.ofNat 32 d.rst
  | none => 0#32

end Sys2Proof.Machine
end

