-- ==== Sys2Proof/Machine/RegMap.lean ====
section
/-!
DEFINITION. The registers of the block windows (R41), as the manual's register tables give them: for every field its
place, and for every register its addresses, which of its bits are RW, W1C, WO or RC (R7), which are committed (R59,
R104) and its reset value. A register with an index takes it as an argument. An unnamed second word of a table row has
the row's name with another last letter (LEG_GTH, THM_CSH, THM_CHY, THM_PIR, BST_RNEXTH).
-/

namespace Sys2Proof.Machine

/-- SYS_STS, R32. -/
def SYS_STS : Nat := 0x40000000
def SYS_STS_LROLE : Field := ⟨SYS_STS, 0, 3⟩
def SYS_STS_LANEID : Field := ⟨SYS_STS, 3, 1⟩
def SYS_STS_PEERUP : Field := ⟨SYS_STS, 4, 1⟩
def SYS_STS_SOLO : Field := ⟨SYS_STS, 5, 1⟩

/-- SYS_STK, R33. -/
def SYS_STK : Nat := 0x40000004
def SYS_STK_RSVWR : Field := ⟨SYS_STK, 0, 1⟩
def SYS_STK_CARTIN : Field := ⟨SYS_STK, 1, 1⟩
def SYS_STK_CARTOUT : Field := ⟨SYS_STK, 2, 1⟩
def SYS_STK_INDROP : Field := ⟨SYS_STK, 3, 1⟩
def SYS_STK_SOLOSET : Field := ⟨SYS_STK, 4, 1⟩

/-- SYS_CART, R34. -/
def SYS_CART : Nat := 0x40000010
def SYS_CART_PRES : Field := ⟨SYS_CART, 0, 11⟩
def SYS_CART_OK : Field := ⟨SYS_CART, 16, 11⟩

/-- SYS_CEXC, R81. -/
def SYS_CEXC (n : Nat) : Nat := 0x40000100 + 0x10 * n
def SYS_CEXC_CODE (n : Nat) : Field := ⟨SYS_CEXC n, 0, 4⟩
def SYS_CEXC_TASK (n : Nat) : Field := ⟨SYS_CEXC n, 8, 4⟩
def SYS_CEXC_COUNT (n : Nat) : Field := ⟨SYS_CEXC n, 16, 8⟩

/-- SYS_CPC, R81. -/
def SYS_CPC (n : Nat) : Nat := 0x40000104 + 0x10 * n
def SYS_CPC_PC (n : Nat) : Field := ⟨SYS_CPC n, 0, 32⟩

/-- SYS_CADR, R81. -/
def SYS_CADR (n : Nat) : Nat := 0x40000108 + 0x10 * n
def SYS_CADR_ADR (n : Nat) : Field := ⟨SYS_CADR n, 0, 32⟩

/-- SYS_CSTK, R82. -/
def SYS_CSTK (n : Nat) : Nat := 0x4000010C + 0x10 * n
def SYS_CSTK_DIVZ (n : Nat) : Field := ⟨SYS_CSTK n, 0, 1⟩
def SYS_CSTK_BFRANGE (n : Nat) : Field := ⟨SYS_CSTK n, 1, 1⟩
def SYS_CSTK_BFOVF (n : Nat) : Field := ⟨SYS_CSTK n, 2, 1⟩
def SYS_CSTK_BFUND (n : Nat) : Field := ⟨SYS_CSTK n, 3, 1⟩
def SYS_CSTK_TAGLEFT (n : Nat) : Field := ⟨SYS_CSTK n, 4, 1⟩
def SYS_CSTK_FIOARG (n : Nat) : Field := ⟨SYS_CSTK n, 5, 1⟩
def SYS_CSTK_EXC (n : Nat) : Field := ⟨SYS_CSTK n, 6, 1⟩
def SYS_CSTK_ECCREP (n : Nat) : Field := ⟨SYS_CSTK n, 7, 1⟩
def SYS_CSTK_XBREP (n : Nat) : Field := ⟨SYS_CSTK n, 8, 1⟩

/-- CLK_STS, R414. -/
def CLK_STS : Nat := 0x40010000
def CLK_STS_MSTATE : Field := ⟨CLK_STS, 0, 2⟩
def CLK_STS_READY : Field := ⟨CLK_STS, 2, 1⟩
def CLK_STS_PSAOK : Field := ⟨CLK_STS, 3, 1⟩
def CLK_STS_PSBOK : Field := ⟨CLK_STS, 4, 1⟩
def CLK_STS_PFAIL : Field := ⟨CLK_STS, 5, 1⟩
def CLK_STS_EMBXT : Field := ⟨CLK_STS, 6, 1⟩

/-- CLK_STK, R414. -/
def CLK_STK : Nat := 0x40010004
def CLK_STK_KINDLE : Field := ⟨CLK_STK, 0, 1⟩
def CLK_STK_WAKE : Field := ⟨CLK_STK, 1, 1⟩
def CLK_STK_DORMIGN : Field := ⟨CLK_STK, 2, 1⟩
def CLK_STK_DORMABT : Field := ⟨CLK_STK, 3, 1⟩
def CLK_STK_PSLOSS : Field := ⟨CLK_STK, 4, 1⟩
def CLK_STK_PFAIL : Field := ⟨CLK_STK, 5, 1⟩
def CLK_STK_FALLBK : Field := ⟨CLK_STK, 6, 1⟩
def CLK_STK_PLLFLT : Field := ⟨CLK_STK, 7, 1⟩

/-- CLK_DOM, R415. -/
def CLK_DOM : Nat := 0x40010010
def CLK_DOM_RUN : Field := ⟨CLK_DOM, 0, 9⟩

/-- CLK_MCMD, R415. -/
def CLK_MCMD : Nat := 0x40010014
def CLK_MCMD_DORM : Field := ⟨CLK_MCMD, 0, 1⟩

/-- CLK_WCFG, R415. -/
def CLK_WCFG : Nat := 0x40010018
def CLK_WCFG_WCAN : Field := ⟨CLK_WCFG, 0, 4⟩
def CLK_WCFG_WKEY : Field := ⟨CLK_WCFG, 4, 1⟩
def CLK_WCFG_WPRES : Field := ⟨CLK_WCFG, 5, 1⟩
def CLK_WCFG_WSVC : Field := ⟨CLK_WCFG, 6, 1⟩
def CLK_WCFG_WCART : Field := ⟨CLK_WCFG, 7, 1⟩

/-- CLK_WTMR, R415. -/
def CLK_WTMR : Nat := 0x4001001C
def CLK_WTMR_TICKS : Field := ⟨CLK_WTMR, 0, 32⟩

/-- CLK_WDI0, R415. -/
def CLK_WDI0 : Nat := 0x40010020
def CLK_WDI0_MASK : Field := ⟨CLK_WDI0, 0, 32⟩

/-- CLK_WDI1, R415. -/
def CLK_WDI1 : Nat := 0x40010024
def CLK_WDI1_MASK : Field := ⟨CLK_WDI1, 0, 32⟩

/-- CLK_WAKE, R415. -/
def CLK_WAKE : Nat := 0x40010028
def CLK_WAKE_SRC : Field := ⟨CLK_WAKE, 0, 4⟩
def CLK_WAKE_DI : Field := ⟨CLK_WAKE, 4, 6⟩
def CLK_WAKE_PORT : Field := ⟨CLK_WAKE, 10, 2⟩

/-- CLK_BOOT, R415. -/
def CLK_BOOT : Nat := 0x40010030
def CLK_BOOT_BANK : Field := ⟨CLK_BOOT, 0, 1⟩
def CLK_BOOT_FRSN : Field := ⟨CLK_BOOT, 1, 3⟩

/-- CLK_BSEQ, R415. -/
def CLK_BSEQ : Nat := 0x40010034
def CLK_BSEQ_SEQ : Field := ⟨CLK_BSEQ, 0, 32⟩

/-- CLK_BTIME, R415. -/
def CLK_BTIME : Nat := 0x40010038
def CLK_BTIME_MS : Field := ⟨CLK_BTIME, 0, 32⟩

/-- CLK_PS, R415. -/
def CLK_PS (n : Nat) : Nat := 0x40010040 + 0x4 * n
def CLK_PS_VIN (n : Nat) : Field := ⟨CLK_PS n, 0, 16⟩
def CLK_PS_IOUT (n : Nat) : Field := ⟨CLK_PS n, 16, 8⟩
def CLK_PS_INOK (n : Nat) : Field := ⟨CLK_PS n, 24, 1⟩
def CLK_PS_OUTOK (n : Nat) : Field := ⟨CLK_PS n, 25, 1⟩

/-- ADM_STS, R110. -/
def ADM_STS : Nat := 0x40020000
def ADM_STS_STATE : Field := ⟨ADM_STS, 0, 2⟩
def ADM_STS_RQBUSY : Field := ⟨ADM_STS, 2, 1⟩

/-- ADM_STK, R110. -/
def ADM_STK : Nat := 0x40020004
def ADM_STK_REFUSED : Field := ⟨ADM_STK, 0, 1⟩
def ADM_STK_RQREF : Field := ⟨ADM_STK, 1, 1⟩
def ADM_STK_RQOK : Field := ⟨ADM_STK, 2, 1⟩
def ADM_STK_TOVR : Field := ⟨ADM_STK, 3, 1⟩
def ADM_STK_COVR : Field := ⟨ADM_STK, 4, 1⟩
def ADM_STK_AXSTOP : Field := ⟨ADM_STK, 5, 1⟩
def ADM_STK_CBFULL : Field := ⟨ADM_STK, 6, 1⟩
def ADM_STK_VERDIFF : Field := ⟨ADM_STK, 7, 1⟩

/-- ADM_RES, R111. -/
def ADM_RES : Nat := 0x40020010
def ADM_RES_REASON : Field := ⟨ADM_RES, 0, 8⟩
def ADM_RES_TASK : Field := ⟨ADM_RES, 8, 4⟩
def ADM_RES_CORE : Field := ⟨ADM_RES, 12, 2⟩
def ADM_RES_TVALID : Field := ⟨ADM_RES, 14, 1⟩
def ADM_RES_AXIS : Field := ⟨ADM_RES, 16, 4⟩
def ADM_RES_AVALID : Field := ⟨ADM_RES, 20, 1⟩
def ADM_RES_ITEM : Field := ⟨ADM_RES, 24, 8⟩

/-- ADM_RADR, R111. -/
def ADM_RADR : Nat := 0x40020014
def ADM_RADR_ADR : Field := ⟨ADM_RADR, 0, 32⟩

/-- ADM_RVAL, R111. -/
def ADM_RVAL : Nat := 0x40020018
def ADM_RVAL_VAL : Field := ⟨ADM_RVAL, 0, 32⟩

/-- ADM_EWAIT, R111. -/
def ADM_EWAIT : Nat := 0x40020030
def ADM_EWAIT_ER : Field := ⟨ADM_EWAIT, 0, 32⟩

/-- ADM_TAGSUM, R111. -/
def ADM_TAGSUM : Nat := 0x40020034
def ADM_TAGSUM_SUM : Field := ⟨ADM_TAGSUM, 0, 7⟩

/-- ADM_CHAIN, R111. -/
def ADM_CHAIN : Nat := 0x40020038
def ADM_CHAIN_LOAD : Field := ⟨ADM_CHAIN, 0, 32⟩

/-- ADM_CHLIM, R111. -/
def ADM_CHLIM : Nat := 0x4002003C
def ADM_CHLIM_LIMIT : Field := ⟨ADM_CHLIM, 0, 32⟩

/-- ADM_REQ, R111. -/
def ADM_REQ : Nat := 0x40020040
def ADM_REQ_ITEM : Field := ⟨ADM_REQ, 0, 8⟩
def ADM_REQ_OP : Field := ⟨ADM_REQ, 8, 2⟩

/-- ADM_UTIL, R111. -/
def ADM_UTIL (n : Nat) : Nat := 0x40020020 + 0x4 * n
def ADM_UTIL_U (n : Nat) : Field := ⟨ADM_UTIL n, 0, 17⟩

/-- ADM_TCFG, R86. -/
def ADM_TCFG (n : Nat) : Nat := 0x40020100 + 0x10 * n
def ADM_TCFG_CLASS (n : Nat) : Field := ⟨ADM_TCFG n, 0, 3⟩
def ADM_TCFG_VALID (n : Nat) : Field := ⟨ADM_TCFG n, 3, 1⟩
def ADM_TCFG_AXIS (n : Nat) : Field := ⟨ADM_TCFG n, 4, 4⟩
def ADM_TCFG_COMMIT (n : Nat) : Field := ⟨ADM_TCFG n, 8, 6⟩
def ADM_TCFG_TAGS (n : Nat) : Field := ⟨ADM_TCFG n, 16, 7⟩
def ADM_TCFG_ITEM (n : Nat) : Field := ⟨ADM_TCFG n, 24, 8⟩

/-- ADM_TENT, R87. -/
def ADM_TENT (n : Nat) : Nat := 0x40020104 + 0x10 * n
def ADM_TENT_ENTRY (n : Nat) : Field := ⟨ADM_TENT n, 0, 17⟩

/-- ADM_TWCT, R87. -/
def ADM_TWCT (n : Nat) : Nat := 0x40020108 + 0x10 * n
def ADM_TWCT_WCET (n : Nat) : Field := ⟨ADM_TWCT n, 0, 32⟩

/-- ADM_TRSP, R87. -/
def ADM_TRSP (n : Nat) : Nat := 0x4002010C + 0x10 * n
def ADM_TRSP_RESP (n : Nat) : Field := ⟨ADM_TRSP n, 0, 32⟩

/-- ADM_TOVR, R112. -/
def ADM_TOVR (n : Nat) : Nat := 0x40020500 + 0x4 * n
def ADM_TOVR_COUNT (n : Nat) : Field := ⟨ADM_TOVR n, 0, 16⟩

/-- ADM_AXOVR, R112. -/
def ADM_AXOVR (n : Nat) : Nat := 0x40020600 + 0x4 * n
def ADM_AXOVR_COUNT (n : Nat) : Field := ⟨ADM_AXOVR n, 0, 16⟩

/-- ADM_AXCON, R112. -/
def ADM_AXCON (n : Nat) : Nat := 0x40020640 + 0x4 * n
def ADM_AXCON_CONSEC (n : Nat) : Field := ⟨ADM_AXCON n, 0, 2⟩

/-- AXS_STS, R255. -/
def AXS_STS (n : Nat) : Nat := 0x40030000 + 0x1000 * n
def AXS_STS_ESTATE (n : Nat) : Field := ⟨AXS_STS n, 0, 4⟩
def AXS_STS_LIMP (n : Nat) : Field := ⟨AXS_STS n, 4, 1⟩
def AXS_STS_RIDE (n : Nat) : Field := ⟨AXS_STS n, 5, 1⟩
def AXS_STS_REGL (n : Nat) : Field := ⟨AXS_STS n, 6, 1⟩
def AXS_STS_PWRL (n : Nat) : Field := ⟨AXS_STS n, 7, 1⟩
def AXS_STS_QRIN (n : Nat) : Field := ⟨AXS_STS n, 8, 1⟩
def AXS_STS_BRAKE (n : Nat) : Field := ⟨AXS_STS n, 9, 1⟩
def AXS_STS_ZERO (n : Nat) : Field := ⟨AXS_STS n, 10, 1⟩
def AXS_STS_FLUXB (n : Nat) : Field := ⟨AXS_STS n, 11, 1⟩

/-- AXS_STK, R255. -/
def AXS_STK (n : Nat) : Nat := 0x40030004 + 0x1000 * n
def AXS_STK_HOC (n : Nat) : Field := ⟨AXS_STK n, 0, 1⟩
def AXS_STK_HOV (n : Nat) : Field := ⟨AXS_STK n, 1, 1⟩
def AXS_STK_HUV (n : Nat) : Field := ⟨AXS_STK n, 2, 1⟩
def AXS_STK_HTQ (n : Nat) : Field := ⟨AXS_STK n, 3, 1⟩
def AXS_STK_HSP (n : Nat) : Field := ⟨AXS_STK n, 4, 1⟩
def AXS_STK_HPOS (n : Nat) : Field := ⟨AXS_STK n, 5, 1⟩
def AXS_STK_HSLIP (n : Nat) : Field := ⟨AXS_STK n, 6, 1⟩
def AXS_STK_SUPERS (n : Nat) : Field := ⟨AXS_STK n, 7, 1⟩
def AXS_STK_CMDIGN (n : Nat) : Field := ⟨AXS_STK n, 8, 1⟩
def AXS_STK_CRETPART (n : Nat) : Field := ⟨AXS_STK n, 9, 1⟩
def AXS_STK_RAMPHELD (n : Nat) : Field := ⟨AXS_STK n, 10, 1⟩
def AXS_STK_BRKWR (n : Nat) : Field := ⟨AXS_STK n, 11, 1⟩
def AXS_STK_TENSRC (n : Nat) : Field := ⟨AXS_STK n, 12, 1⟩
def AXS_STK_HVSTALE (n : Nat) : Field := ⟨AXS_STK n, 13, 1⟩
def AXS_STK_RTTO (n : Nat) : Field := ⟨AXS_STK n, 14, 1⟩

/-- AXS_EN, R416. -/
def AXS_EN (n : Nat) : Nat := 0x40030010 + 0x1000 * n
def AXS_EN_EN (n : Nat) : Field := ⟨AXS_EN n, 0, 1⟩
def AXS_EN_BST (n : Nat) : Field := ⟨AXS_EN n, 4, 2⟩
def AXS_EN_ZBANK (n : Nat) : Field := ⟨AXS_EN n, 6, 1⟩

/-- AXS_ENT, R416. -/
def AXS_ENT (n : Nat) : Nat := 0x40030014 + 0x1000 * n
def AXS_ENT_S (n : Nat) : Field := ⟨AXS_ENT n, 0, 32⟩

/-- AXS_CAR, R117. -/
def AXS_CAR (n : Nat) : Nat := 0x40030040 + 0x1000 * n
def AXS_CAR_HALF (n : Nat) : Field := ⟨AXS_CAR n, 0, 21⟩

/-- AXS_TP, R117. -/
def AXS_TP (n : Nat) : Nat := 0x40030044 + 0x1000 * n
def AXS_TP_TP (n : Nat) : Field := ⟨AXS_TP n, 0, 21⟩

/-- AXS_MOD, R131. -/
def AXS_MOD (n : Nat) : Nat := 0x40030048 + 0x1000 * n
def AXS_MOD_TAB (n : Nat) : Field := ⟨AXS_MOD n, 0, 3⟩
def AXS_MOD_OVM (n : Nat) : Field := ⟨AXS_MOD n, 3, 2⟩
def AXS_MOD_DMOD (n : Nat) : Field := ⟨AXS_MOD n, 5, 2⟩

/-- AXS_MIDX, R131. -/
def AXS_MIDX (n : Nat) : Nat := 0x4003004C + 0x1000 * n
def AXS_MIDX_M (n : Nat) : Field := ⟨AXS_MIDX n, 0, 17⟩
def AXS_MIDX_REGION (n : Nat) : Field := ⟨AXS_MIDX n, 17, 2⟩

/-- AXS_SMP, R140. -/
def AXS_SMP (n : Nat) : Nat := 0x40030050 + 0x1000 * n
def AXS_SMP_SETTLE (n : Nat) : Field := ⟨AXS_SMP n, 0, 14⟩
def AXS_SMP_APERT (n : Nat) : Field := ⟨AXS_SMP n, 16, 10⟩

/-- AXS_PRL, R144. -/
def AXS_PRL (n : Nat) : Nat := 0x40030054 + 0x1000 * n
def AXS_PRL_PRFLAG (n : Nat) : Field := ⟨AXS_PRL n, 0, 8⟩
def AXS_PRL_PRFAULT (n : Nat) : Field := ⟨AXS_PRL n, 8, 8⟩
def AXS_PRL_MINP (n : Nat) : Field := ⟨AXS_PRL n, 16, 8⟩

/-- AXS_BAL, R147. -/
def AXS_BAL (n : Nat) : Nat := 0x40030058 + 0x1000 * n
def AXS_BAL_KBAL (n : Nat) : Field := ⟨AXS_BAL n, 0, 16⟩
def AXS_BAL_TRIMLIM (n : Nat) : Field := ⟨AXS_BAL n, 16, 5⟩

/-- AXS_RATI, R152. -/
def AXS_RATI (n : Nat) : Nat := 0x40030080 + 0x1000 * n
def AXS_RATI_IR (n : Nat) : Field := ⟨AXS_RATI n, 0, 32⟩

/-- AXS_RATV, R152. -/
def AXS_RATV (n : Nat) : Nat := 0x40030084 + 0x1000 * n
def AXS_RATV_VR (n : Nat) : Field := ⟨AXS_RATV n, 0, 32⟩

/-- AXS_RATN, R152. -/
def AXS_RATN (n : Nat) : Nat := 0x40030088 + 0x1000 * n
def AXS_RATN_NR (n : Nat) : Field := ⟨AXS_RATN n, 0, 32⟩

/-- AXS_PP, R152. -/
def AXS_PP (n : Nat) : Nat := 0x4003008C + 0x1000 * n
def AXS_PP_PP (n : Nat) : Field := ⟨AXS_PP n, 0, 6⟩

/-- AXS_RS, R152. -/
def AXS_RS (n : Nat) : Nat := 0x40030090 + 0x1000 * n
def AXS_RS_RS (n : Nat) : Field := ⟨AXS_RS n, 0, 32⟩

/-- AXS_LD, R152. -/
def AXS_LD (n : Nat) : Nat := 0x40030094 + 0x1000 * n
def AXS_LD_LD (n : Nat) : Field := ⟨AXS_LD n, 0, 32⟩

/-- AXS_LQ, R152. -/
def AXS_LQ (n : Nat) : Nat := 0x40030098 + 0x1000 * n
def AXS_LQ_LQ (n : Nat) : Field := ⟨AXS_LQ n, 0, 32⟩

/-- AXS_PSI, R152. -/
def AXS_PSI (n : Nat) : Nat := 0x4003009C + 0x1000 * n
def AXS_PSI_PSI (n : Nat) : Field := ⟨AXS_PSI n, 0, 32⟩

/-- AXS_KTQ, R152. -/
def AXS_KTQ (n : Nat) : Nat := 0x400300A0 + 0x1000 * n
def AXS_KTQ_KTQ (n : Nat) : Field := ⟨AXS_KTQ n, 0, 32⟩

/-- AXS_FW, R157. -/
def AXS_FW (n : Nat) : Nat := 0x400300A8 + 0x1000 * n
def AXS_FW_MTGT (n : Nat) : Field := ⟨AXS_FW n, 0, 16⟩
def AXS_FW_KFW (n : Nat) : Field := ⟨AXS_FW n, 16, 16⟩

/-- AXS_FW2, R157. -/
def AXS_FW2 (n : Nat) : Nat := 0x400300AC + 0x1000 * n
def AXS_FW2_IDMIN (n : Nat) : Field := ⟨AXS_FW2 n, 0, 16⟩
def AXS_FW2_SSPD (n : Nat) : Field := ⟨AXS_FW2 n, 16, 16⟩

/-- AXS_CL, R157. -/
def AXS_CL (n : Nat) : Nat := 0x400300B0 + 0x1000 * n
def AXS_CL_DSLOT (n : Nat) : Field := ⟨AXS_CL n, 0, 8⟩
def AXS_CL_IMAX (n : Nat) : Field := ⟨AXS_CL n, 16, 16⟩

/-- AXS_FSTS, R157. -/
def AXS_FSTS (n : Nat) : Nat := 0x400300B4 + 0x1000 * n
def AXS_FSTS_TLIM (n : Nat) : Field := ⟨AXS_FSTS n, 0, 1⟩
def AXS_FSTS_VLIM (n : Nat) : Field := ⟨AXS_FSTS n, 1, 1⟩
def AXS_FSTS_DID (n : Nat) : Field := ⟨AXS_FSTS n, 16, 16⟩

/-- AXS_OCMD, R175. -/
def AXS_OCMD (n : Nat) : Nat := 0x400300B8 + 0x1000 * n
def AXS_OCMD_RESUME (n : Nat) : Field := ⟨AXS_OCMD n, 0, 1⟩
def AXS_OCMD_REACQ (n : Nat) : Field := ⟨AXS_OCMD n, 1, 1⟩

/-- AXS_TFF, R256. -/
def AXS_TFF (n : Nat) : Nat := 0x400300C0 + 0x1000 * n
def AXS_TFF_TFF (n : Nat) : Field := ⟨AXS_TFF n, 0, 32⟩

/-- AXS_CMD, R256. -/
def AXS_CMD (n : Nat) : Nat := 0x400300C4 + 0x1000 * n
def AXS_CMD_MODE (n : Nat) : Field := ⟨AXS_CMD n, 0, 3⟩
def AXS_CMD_CRET (n : Nat) : Field := ⟨AXS_CMD n, 3, 1⟩

/-- AXS_PSP, R256. -/
def AXS_PSP (n : Nat) : Nat := 0x400300C8 + 0x1000 * n
def AXS_PSP_PSP (n : Nat) : Field := ⟨AXS_PSP n, 0, 32⟩

/-- AXS_DEC, R256. -/
def AXS_DEC (n : Nat) : Nat := 0x400300CC + 0x1000 * n
def AXS_DEC_DECR (n : Nat) : Field := ⟨AXS_DEC n, 0, 16⟩
def AXS_DEC_DBAND (n : Nat) : Field := ⟨AXS_DEC n, 16, 16⟩

/-- AXS_SREG, R256. -/
def AXS_SREG (n : Nat) : Nat := 0x400300D0 + 0x1000 * n
def AXS_SREG_KSTOP (n : Nat) : Field := ⟨AXS_SREG n, 0, 16⟩
def AXS_SREG_ZSPD (n : Nat) : Field := ⟨AXS_SREG n, 16, 16⟩

/-- AXS_SRG2, R256. -/
def AXS_SRG2 (n : Nat) : Nat := 0x400300D4 + 0x1000 * n
def AXS_SRG2_KPOS (n : Nat) : Field := ⟨AXS_SRG2 n, 0, 16⟩
def AXS_SRG2_TZS (n : Nat) : Field := ⟨AXS_SRG2 n, 16, 16⟩

/-- AXS_BRK, R256. -/
def AXS_BRK (n : Nat) : Nat := 0x400300D8 + 0x1000 * n
def AXS_BRK_DO (n : Nat) : Field := ⟨AXS_BRK n, 0, 5⟩
def AXS_BRK_BRKEN (n : Nat) : Field := ⟨AXS_BRK n, 5, 1⟩
def AXS_BRK_POL (n : Nat) : Field := ⟨AXS_BRK n, 6, 1⟩
def AXS_BRK_C2BRK (n : Nat) : Field := ⟨AXS_BRK n, 7, 1⟩
def AXS_BRK_TBRK (n : Nat) : Field := ⟨AXS_BRK n, 8, 12⟩
def AXS_BRK_TREL (n : Nat) : Field := ⟨AXS_BRK n, 20, 12⟩

/-- AXS_QR, R256. -/
def AXS_QR (n : Nat) : Nat := 0x400300DC + 0x1000 * n
def AXS_QR_DI (n : Nat) : Field := ⟨AXS_QR n, 0, 6⟩
def AXS_QR_QEN (n : Nat) : Field := ⟨AXS_QR n, 6, 1⟩
def AXS_QR_PAYDIR (n : Nat) : Field := ⟨AXS_QR n, 7, 1⟩
def AXS_QR_QRFREE (n : Nat) : Field := ⟨AXS_QR n, 8, 1⟩
def AXS_QR_QSPD (n : Nat) : Field := ⟨AXS_QR n, 16, 16⟩

/-- AXS_QR2, R256. -/
def AXS_QR2 (n : Nat) : Nat := 0x400300E0 + 0x1000 * n
def AXS_QR2_QTQ (n : Nat) : Field := ⟨AXS_QR2 n, 0, 16⟩
def AXS_QR2_KQSP (n : Nat) : Field := ⟨AXS_QR2 n, 16, 16⟩

/-- AXS_HIC, R256. -/
def AXS_HIC (n : Nat) : Nat := 0x400300E4 + 0x1000 * n
def AXS_HIC_IHL (n : Nat) : Field := ⟨AXS_HIC n, 0, 32⟩

/-- AXS_HTQ, R256. -/
def AXS_HTQ (n : Nat) : Nat := 0x400300E8 + 0x1000 * n
def AXS_HTQ_TMAX (n : Nat) : Field := ⟨AXS_HTQ n, 0, 16⟩
def AXS_HTQ_TTRIP (n : Nat) : Field := ⟨AXS_HTQ n, 16, 16⟩

/-- AXS_HSP, R256. -/
def AXS_HSP (n : Nat) : Nat := 0x400300EC + 0x1000 * n
def AXS_HSP_SPMAX (n : Nat) : Field := ⟨AXS_HSP n, 0, 32⟩

/-- AXS_HPL, R256. -/
def AXS_HPL (n : Nat) : Nat := 0x400300F0 + 0x1000 * n
def AXS_HPL_PLO (n : Nat) : Field := ⟨AXS_HPL n, 0, 32⟩

/-- AXS_HPH, R256. -/
def AXS_HPH (n : Nat) : Nat := 0x400300F4 + 0x1000 * n
def AXS_HPH_PHI (n : Nat) : Field := ⟨AXS_HPH n, 0, 32⟩

/-- AXS_HSL, R256. -/
def AXS_HSL (n : Nat) : Nat := 0x400300F8 + 0x1000 * n
def AXS_HSL_SLIPT (n : Nat) : Field := ⟨AXS_HSL n, 0, 16⟩
def AXS_HSL_NSLIP (n : Nat) : Field := ⟨AXS_HSL n, 16, 8⟩

/-- AXS_HRSP, R256. -/
def AXS_HRSP (n : Nat) : Nat := 0x400300FC + 0x1000 * n
def AXS_HRSP_OC (n : Nat) : Field := ⟨AXS_HRSP n, 0, 3⟩
def AXS_HRSP_TQ (n : Nat) : Field := ⟨AXS_HRSP n, 4, 3⟩
def AXS_HRSP_SP (n : Nat) : Field := ⟨AXS_HRSP n, 8, 3⟩
def AXS_HRSP_OV (n : Nat) : Field := ⟨AXS_HRSP n, 12, 3⟩
def AXS_HRSP_UV (n : Nat) : Field := ⟨AXS_HRSP n, 16, 3⟩
def AXS_HRSP_POS (n : Nat) : Field := ⟨AXS_HRSP n, 20, 3⟩
def AXS_HRSP_SLIP (n : Nat) : Field := ⟨AXS_HRSP n, 24, 3⟩
def AXS_HRSP_ENPOS (n : Nat) : Field := ⟨AXS_HRSP n, 28, 1⟩
def AXS_HRSP_ENSLIP (n : Nat) : Field := ⟨AXS_HRSP n, 29, 1⟩

/-- AXS_DOB, R256. -/
def AXS_DOB (n : Nat) : Nat := 0x40030100 + 0x1000 * n
def AXS_DOB_TM (n : Nat) : Field := ⟨AXS_DOB n, 0, 16⟩
def AXS_DOB_FD (n : Nat) : Field := ⟨AXS_DOB n, 16, 12⟩

/-- AXS_DOB2, R256. -/
def AXS_DOB2 (n : Nat) : Nat := 0x40030104 + 0x1000 * n
def AXS_DOB2_KDFF (n : Nat) : Field := ⟨AXS_DOB2 n, 0, 16⟩
def AXS_DOB2_KVD (n : Nat) : Field := ⟨AXS_DOB2 n, 16, 16⟩

/-- AXS_TENC, R256. -/
def AXS_TENC (n : Nat) : Nat := 0x40030108 + 0x1000 * n
def AXS_TENC_CORD (n : Nat) : Field := ⟨AXS_TENC n, 0, 2⟩
def AXS_TENC_CSRC (n : Nat) : Field := ⟨AXS_TENC n, 2, 1⟩
def AXS_TENC_MAXAGE (n : Nat) : Field := ⟨AXS_TENC n, 8, 8⟩
def AXS_TENC_GTEN (n : Nat) : Field := ⟨AXS_TENC n, 16, 16⟩

/-- AXS_RT, R256. -/
def AXS_RT (n : Nat) : Nat := 0x4003010C + 0x1000 * n
def AXS_RT_RTMODE (n : Nat) : Field := ⟨AXS_RT n, 0, 1⟩
def AXS_RT_TRT (n : Nat) : Field := ⟨AXS_RT n, 4, 12⟩
def AXS_RT_RTRAMP (n : Nat) : Field := ⟨AXS_RT n, 16, 16⟩

/-- AXS_FB, R256. -/
def AXS_FB (n : Nat) : Nat := 0x40030110 + 0x1000 * n
def AXS_FB_IDFB (n : Nat) : Field := ⟨AXS_FB n, 0, 16⟩
def AXS_FB_FBLIM (n : Nat) : Field := ⟨AXS_FB n, 16, 16⟩

/-- AXS_TLIV, R256. -/
def AXS_TLIV (n : Nat) : Nat := 0x40030114 + 0x1000 * n
def AXS_TLIV_TSTAR (n : Nat) : Field := ⟨AXS_TLIV n, 0, 32⟩

/-- AXS_TD, R256. -/
def AXS_TD (n : Nat) : Nat := 0x40030118 + 0x1000 * n
def AXS_TD_TDH (n : Nat) : Field := ⟨AXS_TD n, 0, 32⟩

/-- AXS_TEN, R256. -/
def AXS_TEN (n : Nat) : Nat := 0x4003011C + 0x1000 * n
def AXS_TEN_TEN (n : Nat) : Field := ⟨AXS_TEN n, 0, 32⟩

/-- AXS_RATE, R256. -/
def AXS_RATE (n : Nat) : Nat := 0x40030120 + 0x1000 * n
def AXS_RATE_RF (n : Nat) : Field := ⟨AXS_RATE n, 0, 17⟩

/-- AXS_TENR, R256. -/
def AXS_TENR (n : Nat) : Nat := 0x40030124 + 0x1000 * n
def AXS_TENR_TENR (n : Nat) : Field := ⟨AXS_TENR n, 0, 32⟩

/-- AXS_WS, R115. -/
def AXS_WS (n : Nat) (m : Nat) : Nat := 0x40030060 + 0x1000 * n + 0x4 * m
def AXS_WS_NCOP (n : Nat) (m : Nat) : Field := ⟨AXS_WS n m, 0, 4⟩
def AXS_WS_NACT (n : Nat) (m : Nat) : Field := ⟨AXS_WS n m, 4, 4⟩
def AXS_WS_WSOFF (n : Nat) (m : Nat) : Field := ⟨AXS_WS n m, 8, 8⟩
def AXS_WS_ANG (n : Nat) (m : Nat) : Field := ⟨AXS_WS n m, 16, 16⟩

/-- LEG_STS, R150. -/
def LEG_STS : Nat := 0x40040000
def LEG_STS_PRED : Field := ⟨LEG_STS, 0, 1⟩
def LEG_STS_TRIMAT : Field := ⟨LEG_STS, 1, 1⟩
def LEG_STS_OVMOD : Field := ⟨LEG_STS, 2, 1⟩
def LEG_STS_LOSTC : Field := ⟨LEG_STS, 3, 1⟩

/-- LEG_STK, R150. -/
def LEG_STK : Nat := 0x40040004
def LEG_STK_SKIPLOST : Field := ⟨LEG_STK, 0, 1⟩
def LEG_STK_PRRUN : Field := ⟨LEG_STK, 1, 1⟩
def LEG_STK_PRFLT : Field := ⟨LEG_STK, 2, 1⟩
def LEG_STK_ZSTALE : Field := ⟨LEG_STK, 3, 1⟩
def LEG_STK_TRIMSAT : Field := ⟨LEG_STK, 4, 1⟩
def LEG_STK_MCLAMP : Field := ⟨LEG_STK, 5, 1⟩
def LEG_STK_PDROP : Field := ⟨LEG_STK, 6, 1⟩
def LEG_STK_BANDCHG : Field := ⟨LEG_STK, 7, 1⟩
def LEG_STK_DCMISS : Field := ⟨LEG_STK, 8, 1⟩
def LEG_STK_CPLOST : Field := ⟨LEG_STK, 9, 1⟩
def LEG_STK_TABREF : Field := ⟨LEG_STK, 10, 1⟩

/-- LEG_BAND, R151. -/
def LEG_BAND (n : Nat) : Nat := 0x40040100 + 0x4 * n
def LEG_BAND_BAND (n : Nat) : Field := ⟨LEG_BAND n, 0, 2⟩
def LEG_BAND_PEND (n : Nat) : Field := ⟨LEG_BAND n, 2, 1⟩
def LEG_BAND_TEMP (n : Nat) : Field := ⟨LEG_BAND n, 16, 16⟩

/-- LEG_CFG, R113. -/
def LEG_CFG (n : Nat) : Nat := 0x40041000 + 0x10 * n
def LEG_CFG_TYPE (n : Nat) : Field := ⟨LEG_CFG n, 0, 2⟩
def LEG_CFG_COPPICE (n : Nat) : Field := ⟨LEG_CFG n, 3, 5⟩
def LEG_CFG_PHASE (n : Nat) : Field := ⟨LEG_CFG n, 8, 2⟩
def LEG_CFG_BUS (n : Nat) : Field := ⟨LEG_CFG n, 10, 3⟩
def LEG_CFG_HOST (n : Nat) : Field := ⟨LEG_CFG n, 13, 4⟩
def LEG_CFG_SHUNT (n : Nat) : Field := ⟨LEG_CFG n, 17, 1⟩

/-- LEG_TRIM, R151. -/
def LEG_TRIM (n : Nat) : Nat := 0x40041004 + 0x10 * n
def LEG_TRIM_TRIM (n : Nat) : Field := ⟨LEG_TRIM n, 0, 16⟩

/-- LEG_RUN, R151. -/
def LEG_RUN (n : Nat) : Nat := 0x40041008 + 0x10 * n
def LEG_RUN_RUN (n : Nat) : Field := ⟨LEG_RUN n, 0, 8⟩
def LEG_RUN_SRC (n : Nat) : Field := ⟨LEG_RUN n, 8, 2⟩

/-- LEG_PCNT, R151. -/
def LEG_PCNT (n : Nat) : Nat := 0x4004100C + 0x10 * n
def LEG_PCNT_COUNT (n : Nat) : Field := ⟨LEG_PCNT n, 0, 32⟩

/-- LEG_CPC, R114. -/
def LEG_CPC (n : Nat) : Nat := 0x40042000 + 0x10 * n
def LEG_CPC_AXIS (n : Nat) : Field := ⟨LEG_CPC n, 0, 4⟩
def LEG_CPC_WSET (n : Nat) : Field := ⟨LEG_CPC n, 4, 2⟩
def LEG_CPC_VALID (n : Nat) : Field := ⟨LEG_CPC n, 6, 1⟩

/-- LEG_CSTS, R151. -/
def LEG_CSTS (n : Nat) : Nat := 0x40042004 + 0x10 * n
def LEG_CSTS_STATE (n : Nat) : Field := ⟨LEG_CSTS n, 0, 2⟩
def LEG_CSTS_IPOS (n : Nat) : Field := ⟨LEG_CSTS n, 2, 3⟩
def LEG_CSTS_OFFSET (n : Nat) : Field := ⟨LEG_CSTS n, 8, 22⟩

/-- LEG_CZS, R151. -/
def LEG_CZS (n : Nat) : Nat := 0x40042008 + 0x10 * n
def LEG_CZS_I0 (n : Nat) : Field := ⟨LEG_CZS n, 0, 32⟩

/-- LEG_CVDC, R151. -/
def LEG_CVDC (n : Nat) : Nat := 0x4004200C + 0x10 * n
def LEG_CVDC_VDC (n : Nat) : Field := ⟨LEG_CVDC n, 0, 32⟩

/-- LEG_GTB, R134. -/
def LEG_GTB (n : Nat) (m : Nat) : Nat := 0x40043000 + 0x20 * n + 0x8 * m
def LEG_GTB_DT (n : Nat) (m : Nat) : Field := ⟨LEG_GTB n m, 0, 14⟩
def LEG_GTB_GPROF (n : Nat) (m : Nat) : Field := ⟨LEG_GTB n m, 16, 4⟩
def LEG_GTB_FCMAX (n : Nat) (m : Nat) : Field := ⟨LEG_GTB n m, 24, 8⟩

/-- LEG_GTH, R134. -/
def LEG_GTH (n : Nat) (m : Nat) : Nat := 0x40043004 + 0x20 * n + 0x8 * m
def LEG_GTH_SHOFS (n : Nat) (m : Nat) : Field := ⟨LEG_GTH n m, 0, 16⟩

/-- OBS_STS, R180. -/
def OBS_STS : Nat := 0x40050000
def OBS_STS_HOLDING : Field := ⟨OBS_STS, 0, 1⟩
def OBS_STS_ASCON : Field := ⟨OBS_STS, 1, 1⟩
def OBS_STS_INJON : Field := ⟨OBS_STS, 2, 1⟩
def OBS_STS_SLEWING : Field := ⟨OBS_STS, 3, 1⟩

/-- OBS_STK, R180. -/
def OBS_STK : Nat := 0x40050004
def OBS_STK_LOSS : Field := ⟨OBS_STK, 0, 1⟩
def OBS_STK_RELOCK : Field := ⟨OBS_STK, 1, 1⟩
def OBS_STK_ASC : Field := ⟨OBS_STK, 2, 1⟩
def OBS_STK_PULSEOFF : Field := ⟨OBS_STK, 3, 1⟩
def OBS_STK_ACQFAIL : Field := ⟨OBS_STK, 4, 1⟩
def OBS_STK_POLFAIL : Field := ⟨OBS_STK, 5, 1⟩
def OBS_STK_XMIS : Field := ⟨OBS_STK, 6, 1⟩
def OBS_STK_ENCSW : Field := ⟨OBS_STK, 7, 1⟩
def OBS_STK_ASLEW : Field := ⟨OBS_STK, 8, 1⟩
def OBS_STK_INJF : Field := ⟨OBS_STK, 9, 1⟩
def OBS_STK_FWSAT : Field := ⟨OBS_STK, 10, 1⟩
def OBS_STK_SIXSTEP : Field := ⟨OBS_STK, 11, 1⟩

/-- OBS_CFG, R177. -/
def OBS_CFG (n : Nat) : Nat := 0x40051000 + 0x100 * n
def OBS_CFG_ENC (n : Nat) : Field := ⟨OBS_CFG n, 0, 2⟩
def OBS_CFG_ECH (n : Nat) : Field := ⟨OBS_CFG n, 2, 4⟩
def OBS_CFG_INJ (n : Nat) : Field := ⟨OBS_CFG n, 6, 1⟩
def OBS_CFG_DTC (n : Nat) : Field := ⟨OBS_CFG n, 7, 1⟩
def OBS_CFG_FREN (n : Nat) : Field := ⟨OBS_CFG n, 8, 1⟩

/-- OBS_BW, R177. -/
def OBS_BW (n : Nat) : Nat := 0x40051004 + 0x100 * n
def OBS_BW_FE (n : Nat) : Field := ⟨OBS_BW n, 0, 16⟩
def OBS_BW_FT (n : Nat) : Field := ⟨OBS_BW n, 16, 16⟩

/-- OBS_INJ, R177. -/
def OBS_INJ (n : Nat) : Nat := 0x40051008 + 0x100 * n
def OBS_INJ_FINJ (n : Nat) : Field := ⟨OBS_INJ n, 0, 12⟩
def OBS_INJ_VINJ (n : Nat) : Field := ⟨OBS_INJ n, 16, 12⟩

/-- OBS_BLD, R177. -/
def OBS_BLD (n : Nat) : Nat := 0x4005100C + 0x100 * n
def OBS_BLD_WB0 (n : Nat) : Field := ⟨OBS_BLD n, 0, 16⟩
def OBS_BLD_WB1 (n : Nat) : Field := ⟨OBS_BLD n, 16, 16⟩

/-- OBS_LOSS, R177. -/
def OBS_LOSS (n : Nat) : Nat := 0x40051010 + 0x100 * n
def OBS_LOSS_RTHR (n : Nat) : Field := ⟨OBS_LOSS n, 0, 16⟩
def OBS_LOSS_NRES (n : Nat) : Field := ⟨OBS_LOSS n, 16, 8⟩
def OBS_LOSS_SLIPTH (n : Nat) : Field := ⟨OBS_LOSS n, 24, 8⟩

/-- OBS_HOLD, R177. -/
def OBS_HOLD (n : Nat) : Nat := 0x40051014 + 0x100 * n
def OBS_HOLD_HOLD (n : Nat) : Field := ⟨OBS_HOLD n, 0, 12⟩
def OBS_HOLD_NRELOCK (n : Nat) : Field := ⟨OBS_HOLD n, 12, 4⟩
def OBS_HOLD_RAMPT (n : Nat) : Field := ⟨OBS_HOLD n, 16, 12⟩

/-- OBS_ENCP, R177. -/
def OBS_ENCP (n : Nat) : Nat := 0x40051018 + 0x100 * n
def OBS_ENCP_XTOL (n : Nat) : Field := ⟨OBS_ENCP n, 0, 16⟩
def OBS_ENCP_NXC (n : Nat) : Field := ⟨OBS_ENCP n, 16, 8⟩
def OBS_ENCP_CONFMIN (n : Nat) : Field := ⟨OBS_ENCP n, 24, 8⟩

/-- OBS_EOFF, R177. -/
def OBS_EOFF (n : Nat) : Nat := 0x4005101C + 0x100 * n
def OBS_EOFF_EOFF (n : Nat) : Field := ⟨OBS_EOFF n, 0, 32⟩

/-- OBS_XFR, R177. -/
def OBS_XFR (n : Nat) : Nat := 0x40051020 + 0x100 * n
def OBS_XFR_AWIN (n : Nat) : Field := ⟨OBS_XFR n, 0, 16⟩
def OBS_XFR_ASLEW (n : Nat) : Field := ⟨OBS_XFR n, 16, 16⟩

/-- OBS_XSAT, R177. -/
def OBS_XSAT (n : Nat) : Nat := 0x40051024 + 0x100 * n
def OBS_XSAT_XSAT (n : Nat) : Field := ⟨OBS_XSAT n, 0, 16⟩
def OBS_XSAT_VPOL (n : Nat) : Field := ⟨OBS_XSAT n, 16, 16⟩

/-- OBS_FR, R177. -/
def OBS_FR (n : Nat) : Nat := 0x40051028 + 0x100 * n
def OBS_FR_VFRMIN (n : Nat) : Field := ⟨OBS_FR n, 0, 16⟩
def OBS_FR_NFR (n : Nat) : Field := ⟨OBS_FR n, 16, 8⟩
def OBS_FR_TDEC (n : Nat) : Field := ⟨OBS_FR n, 24, 8⟩

/-- OBS_ANG, R179. -/
def OBS_ANG (n : Nat) : Nat := 0x40051040 + 0x100 * n
def OBS_ANG_ANG (n : Nat) : Field := ⟨OBS_ANG n, 0, 32⟩

/-- OBS_SPD, R179. -/
def OBS_SPD (n : Nat) : Nat := 0x40051044 + 0x100 * n
def OBS_SPD_SPD (n : Nat) : Field := ⟨OBS_SPD n, 0, 32⟩

/-- OBS_EST, R179. -/
def OBS_EST (n : Nat) : Nat := 0x40051048 + 0x100 * n
def OBS_EST_CONF (n : Nat) : Field := ⟨OBS_EST n, 0, 8⟩
def OBS_EST_MODE (n : Nat) : Field := ⟨OBS_EST n, 8, 4⟩
def OBS_EST_LAMBDA (n : Nat) : Field := ⟨OBS_EST n, 16, 8⟩

/-- OBS_EMF, R179. -/
def OBS_EMF (n : Nat) : Nat := 0x4005104C + 0x100 * n
def OBS_EMF_E (n : Nat) : Field := ⟨OBS_EMF n, 0, 32⟩

/-- OBS_RES, R179. -/
def OBS_RES (n : Nat) : Nat := 0x40051050 + 0x100 * n
def OBS_RES_RES (n : Nat) : Field := ⟨OBS_RES n, 0, 32⟩

/-- OBS_XERR, R179. -/
def OBS_XERR (n : Nat) : Nat := 0x40051054 + 0x100 * n
def OBS_XERR_XERR (n : Nat) : Field := ⟨OBS_XERR n, 0, 32⟩

/-- OBS_LCNT, R179. -/
def OBS_LCNT (n : Nat) : Nat := 0x40051058 + 0x100 * n
def OBS_LCNT_COUNT (n : Nat) : Field := ⟨OBS_LCNT n, 0, 16⟩

/-- LPE_STS, R220. -/
def LPE_STS : Nat := 0x40060000
def LPE_STS_CHAIN : Field := ⟨LPE_STS, 0, 1⟩
def LPE_STS_INJON : Field := ⟨LPE_STS, 1, 1⟩
def LPE_STS_CAPON : Field := ⟨LPE_STS, 2, 1⟩
def LPE_STS_SATNOW : Field := ⟨LPE_STS, 3, 1⟩
def LPE_STS_SLEWING : Field := ⟨LPE_STS, 4, 1⟩

/-- LPE_STK, R220. -/
def LPE_STK : Nat := 0x40060004
def LPE_STK_BFRANGE : Field := ⟨LPE_STK, 0, 1⟩
def LPE_STK_BFOVF : Field := ⟨LPE_STK, 1, 1⟩
def LPE_STK_STOVF : Field := ⟨LPE_STK, 2, 1⟩
def LPE_STK_XSLEW : Field := ⟨LPE_STK, 3, 1⟩
def LPE_STK_SATRUN : Field := ⟨LPE_STK, 4, 1⟩
def LPE_STK_SLOTFLT : Field := ⟨LPE_STK, 5, 1⟩
def LPE_STK_REGIGN : Field := ⟨LPE_STK, 6, 1⟩
def LPE_STK_BADREG : Field := ⟨LPE_STK, 7, 1⟩
def LPE_STK_PREIGN : Field := ⟨LPE_STK, 8, 1⟩
def LPE_STK_INJWR : Field := ⟨LPE_STK, 9, 1⟩
def LPE_STK_CAPSZ : Field := ⟨LPE_STK, 10, 1⟩
def LPE_STK_CAPDONE : Field := ⟨LPE_STK, 11, 1⟩
def LPE_STK_ECCREP : Field := ⟨LPE_STK, 12, 1⟩

/-- LPE_ICFG, R219. -/
def LPE_ICFG (n : Nat) : Nat := 0x40060100 + 0x20 * n
def LPE_ICFG_SLOT (n : Nat) : Field := ⟨LPE_ICFG n, 0, 8⟩
def LPE_ICFG_POINT (n : Nat) : Field := ⟨LPE_ICFG n, 8, 2⟩
def LPE_ICFG_SIG (n : Nat) : Field := ⟨LPE_ICFG n, 10, 2⟩
def LPE_ICFG_PLEN (n : Nat) : Field := ⟨LPE_ICFG n, 12, 3⟩
def LPE_ICFG_REP (n : Nat) : Field := ⟨LPE_ICFG n, 15, 1⟩
def LPE_ICFG_HOLDN (n : Nat) : Field := ⟨LPE_ICFG n, 16, 8⟩
def LPE_ICFG_START (n : Nat) : Field := ⟨LPE_ICFG n, 24, 1⟩

/-- LPE_IAMP, R219. -/
def LPE_IAMP (n : Nat) : Nat := 0x40060104 + 0x20 * n
def LPE_IAMP_A (n : Nat) : Field := ⟨LPE_IAMP n, 0, 32⟩

/-- LPE_IF0, R219. -/
def LPE_IF0 (n : Nat) : Nat := 0x40060108 + 0x20 * n
def LPE_IF0_F0 (n : Nat) : Field := ⟨LPE_IF0 n, 0, 32⟩

/-- LPE_IF1, R219. -/
def LPE_IF1 (n : Nat) : Nat := 0x4006010C + 0x20 * n
def LPE_IF1_F1 (n : Nat) : Field := ⟨LPE_IF1 n, 0, 32⟩

/-- LPE_IDUR, R219. -/
def LPE_IDUR (n : Nat) : Nat := 0x40060110 + 0x20 * n
def LPE_IDUR_ND (n : Nat) : Field := ⟨LPE_IDUR n, 0, 32⟩

/-- LPE_ISTS, R219. -/
def LPE_ISTS (n : Nat) : Nat := 0x40060114 + 0x20 * n
def LPE_ISTS_RUN (n : Nat) : Field := ⟨LPE_ISTS n, 0, 1⟩
def LPE_ISTS_N (n : Nat) : Field := ⟨LPE_ISTS n, 1, 31⟩

/-- LPE_CCTL, R219. -/
def LPE_CCTL : Nat := 0x40060200
def LPE_CCTL_EN : Field := ⟨LPE_CCTL, 0, 1⟩
def LPE_CCTL_ARM : Field := ⟨LPE_CCTL, 1, 1⟩
def LPE_CCTL_CAXIS : Field := ⟨LPE_CCTL, 2, 4⟩
def LPE_CCTL_CDIV : Field := ⟨LPE_CCTL, 6, 8⟩
def LPE_CCTL_NCH : Field := ⟨LPE_CCTL, 14, 3⟩
def LPE_CCTL_TRIG : Field := ⟨LPE_CCTL, 17, 3⟩
def LPE_CCTL_TSRC : Field := ⟨LPE_CCTL, 20, 8⟩

/-- LPE_CLVL, R219. -/
def LPE_CLVL : Nat := 0x40060204
def LPE_CLVL_LVL : Field := ⟨LPE_CLVL, 0, 32⟩

/-- LPE_CPRE, R219. -/
def LPE_CPRE : Nat := 0x40060208
def LPE_CPRE_N : Field := ⟨LPE_CPRE, 0, 24⟩

/-- LPE_CPOST, R219. -/
def LPE_CPOST : Nat := 0x4006020C
def LPE_CPOST_N : Field := ⟨LPE_CPOST, 0, 24⟩

/-- LPE_CSTS, R219. -/
def LPE_CSTS : Nat := 0x40060230
def LPE_CSTS_STATE : Field := ⟨LPE_CSTS, 0, 2⟩
def LPE_CSTS_WRAP : Field := ⟨LPE_CSTS, 2, 1⟩

/-- LPE_CCH, R219. -/
def LPE_CCH (n : Nat) : Nat := 0x40060210 + 0x4 * n
def LPE_CCH_SLOT (n : Nat) : Field := ⟨LPE_CCH n, 0, 8⟩
def LPE_CCH_QTY (n : Nat) : Field := ⟨LPE_CCH n, 8, 4⟩

/-- LPE_SCFG, R217. -/
def LPE_SCFG (n : Nat) : Nat := 0x40061000 + 0x40 * n
def LPE_SCFG_FORM (n : Nat) : Field := ⟨LPE_SCFG n, 0, 2⟩
def LPE_SCFG_INT (n : Nat) : Field := ⟨LPE_SCFG n, 2, 1⟩
def LPE_SCFG_FIRST (n : Nat) : Field := ⟨LPE_SCFG n, 3, 1⟩
def LPE_SCFG_NSL (n : Nat) : Field := ⟨LPE_SCFG n, 4, 3⟩
def LPE_SCFG_BOUND (n : Nat) : Field := ⟨LPE_SCFG n, 7, 1⟩
def LPE_SCFG_AXIS (n : Nat) : Field := ⟨LPE_SCFG n, 8, 4⟩
def LPE_SCFG_DIV (n : Nat) : Field := ⟨LPE_SCFG n, 12, 8⟩
def LPE_SCFG_DPH (n : Nat) : Field := ⟨LPE_SCFG n, 20, 8⟩
def LPE_SCFG_XREG (n : Nat) : Field := ⟨LPE_SCFG n, 28, 1⟩
def LPE_SCFG_CHOLD (n : Nat) : Field := ⟨LPE_SCFG n, 29, 1⟩
def LPE_SCFG_RSEED (n : Nat) : Field := ⟨LPE_SCFG n, 30, 1⟩

/-- LPE_SIN, R217. -/
def LPE_SIN (n : Nat) : Nat := 0x40061004 + 0x40 * n
def LPE_SIN_SPSEL (n : Nat) : Field := ⟨LPE_SIN n, 0, 2⟩
def LPE_SIN_FBSEL (n : Nat) : Field := ⟨LPE_SIN n, 2, 4⟩
def LPE_SIN_SRC (n : Nat) : Field := ⟨LPE_SIN n, 6, 8⟩
def LPE_SIN_DEST (n : Nat) : Field := ⟨LPE_SIN n, 14, 2⟩
def LPE_SIN_SCHSEL (n : Nat) : Field := ⟨LPE_SIN n, 16, 4⟩
def LPE_SIN_NREG (n : Nat) : Field := ⟨LPE_SIN n, 20, 3⟩

/-- LPE_SADR, R217. -/
def LPE_SADR (n : Nat) : Nat := 0x40061008 + 0x40 * n
def LPE_SADR_ADR (n : Nat) : Field := ⟨LPE_SADR n, 0, 32⟩

/-- LPE_ILO, R217. -/
def LPE_ILO (n : Nat) : Nat := 0x4006100C + 0x40 * n
def LPE_ILO_ILO (n : Nat) : Field := ⟨LPE_ILO n, 0, 32⟩

/-- LPE_IHI, R217. -/
def LPE_IHI (n : Nat) : Nat := 0x40061010 + 0x40 * n
def LPE_IHI_IHI (n : Nat) : Field := ⟨LPE_IHI n, 0, 32⟩

/-- LPE_YLO, R217. -/
def LPE_YLO (n : Nat) : Nat := 0x40061014 + 0x40 * n
def LPE_YLO_YLO (n : Nat) : Field := ⟨LPE_YLO n, 0, 32⟩

/-- LPE_YHI, R217. -/
def LPE_YHI (n : Nat) : Nat := 0x40061018 + 0x40 * n
def LPE_YHI_YHI (n : Nat) : Field := ⟨LPE_YHI n, 0, 32⟩

/-- LPE_XW, R217. -/
def LPE_XW (n : Nat) : Nat := 0x4006101C + 0x40 * n
def LPE_XW_XWIN (n : Nat) : Field := ⟨LPE_XW n, 0, 32⟩

/-- LPE_XSL, R217. -/
def LPE_XSL (n : Nat) : Nat := 0x40061020 + 0x40 * n
def LPE_XSL_XSLEW (n : Nat) : Field := ⟨LPE_XSL n, 0, 32⟩

/-- LPE_STEP, R217. -/
def LPE_STEP (n : Nat) : Nat := 0x40061024 + 0x40 * n
def LPE_STEP_STEP (n : Nat) : Field := ⟨LPE_STEP n, 0, 32⟩

/-- LPE_SAT, R217. -/
def LPE_SAT (n : Nat) : Nat := 0x40061028 + 0x40 * n
def LPE_SAT_SATLIM (n : Nat) : Field := ⟨LPE_SAT n, 0, 16⟩

/-- LPE_SP, R217. -/
def LPE_SP (n : Nat) : Nat := 0x4006102C + 0x40 * n
def LPE_SP_SP (n : Nat) : Field := ⟨LPE_SP n, 0, 32⟩

/-- LPE_MAN, R217. -/
def LPE_MAN (n : Nat) : Nat := 0x40061030 + 0x40 * n
def LPE_MAN_MAN (n : Nat) : Field := ⟨LPE_MAN n, 0, 32⟩

/-- LPE_MODE, R217. -/
def LPE_MODE (n : Nat) : Nat := 0x40061034 + 0x40 * n
def LPE_MODE_MODE (n : Nat) : Field := ⟨LPE_MODE n, 0, 1⟩
def LPE_MODE_CLR (n : Nat) : Field := ⟨LPE_MODE n, 1, 1⟩

/-- LPE_OUT, R218. -/
def LPE_OUT (n : Nat) : Nat := 0x40068000 + 0x20 * n
def LPE_OUT_Y (n : Nat) : Field := ⟨LPE_OUT n, 0, 32⟩

/-- LPE_IN, R218. -/
def LPE_IN (n : Nat) : Nat := 0x40068004 + 0x20 * n
def LPE_IN_X (n : Nat) : Field := ⟨LPE_IN n, 0, 32⟩

/-- LPE_RMP, R218. -/
def LPE_RMP (n : Nat) : Nat := 0x40068008 + 0x20 * n
def LPE_RMP_R_OUT (n : Nat) : Field := ⟨LPE_RMP n, 0, 32⟩

/-- LPE_XOF, R218. -/
def LPE_XOF (n : Nat) : Nat := 0x4006800C + 0x20 * n
def LPE_XOF_D (n : Nat) : Field := ⟨LPE_XOF n, 0, 32⟩

/-- LPE_SST, R218. -/
def LPE_SST (n : Nat) : Nat := 0x40068010 + 0x20 * n
def LPE_SST_REGION (n : Nat) : Field := ⟨LPE_SST n, 0, 3⟩
def LPE_SST_SAT (n : Nat) : Field := ⟨LPE_SST n, 3, 1⟩
def LPE_SST_FAULT (n : Nat) : Field := ⟨LPE_SST n, 4, 1⟩
def LPE_SST_PREPEND (n : Nat) : Field := ⟨LPE_SST n, 5, 1⟩
def LPE_SST_SATCNT (n : Nat) : Field := ⟨LPE_SST n, 16, 16⟩

/-- SHR_STS, R257. -/
def SHR_STS : Nat := 0x40070000
def SHR_STS_ANYCHF : Field := ⟨SHR_STS, 0, 1⟩
def SHR_STS_ANYFLX : Field := ⟨SHR_STS, 1, 1⟩

/-- SHR_STK, R257. -/
def SHR_STK : Nat := 0x40070004
def SHR_STK_CHFLT : Field := ⟨SHR_STK, 0, 1⟩
def SHR_STK_LADDER : Field := ⟨SHR_STK, 1, 1⟩
def SHR_STK_FLUXB : Field := ⟨SHR_STK, 2, 1⟩
def SHR_STK_FBLIM : Field := ⟨SHR_STK, 3, 1⟩
def SHR_STK_REGLIM : Field := ⟨SHR_STK, 4, 1⟩
def SHR_STK_PWRLIM : Field := ⟨SHR_STK, 5, 1⟩
def SHR_STK_SHRCLIP : Field := ⟨SHR_STK, 6, 1⟩
def SHR_STK_ALTLEAD : Field := ⟨SHR_STK, 7, 1⟩

/-- SHR_BCMD, R257. -/
def SHR_BCMD : Nat := 0x40070008
def SHR_BCMD_CHCLR : Field := ⟨SHR_BCMD, 0, 8⟩

/-- SHR_AWT, R258. -/
def SHR_AWT (n : Nat) : Nat := 0x40070080 + 0x4 * n
def SHR_AWT_W (n : Nat) : Field := ⟨SHR_AWT n, 0, 16⟩

/-- SHR_APR, R258. -/
def SHR_APR (n : Nat) : Nat := 0x400700C0 + 0x4 * n
def SHR_APR_P (n : Nat) : Field := ⟨SHR_APR n, 0, 24⟩

/-- SHR_GCFG, R258. -/
def SHR_GCFG (n : Nat) : Nat := 0x40070100 + 0x10 * n
def SHR_GCFG_MEMB (n : Nat) : Field := ⟨SHR_GCFG n, 0, 16⟩
def SHR_GCFG_MODE (n : Nat) : Field := ⟨SHR_GCFG n, 16, 2⟩
def SHR_GCFG_LEAD (n : Nat) : Field := ⟨SHR_GCFG n, 20, 4⟩
def SHR_GCFG_ALT (n : Nat) : Field := ⟨SHR_GCFG n, 24, 4⟩
def SHR_GCFG_ALTEN (n : Nat) : Field := ⟨SHR_GCFG n, 28, 1⟩
def SHR_GCFG_LIMPG (n : Nat) : Field := ⟨SHR_GCFG n, 29, 1⟩

/-- SHR_GDR, R258. -/
def SHR_GDR (n : Nat) : Nat := 0x40070104 + 0x10 * n
def SHR_GDR_KSYNC (n : Nat) : Field := ⟨SHR_GDR n, 0, 16⟩
def SHR_GDR_DROOP (n : Nat) : Field := ⟨SHR_GDR n, 16, 16⟩

/-- SHR_GCL, R258. -/
def SHR_GCL (n : Nat) : Nat := 0x40070108 + 0x10 * n
def SHR_GCL_CLIM (n : Nat) : Field := ⟨SHR_GCL n, 0, 16⟩

/-- SHR_GTM, R258. -/
def SHR_GTM (n : Nat) : Nat := 0x4007010C + 0x10 * n
def SHR_GTM_TMG (n : Nat) : Field := ⟨SHR_GTM n, 0, 16⟩

/-- SHR_BMSK, R258. -/
def SHR_BMSK (n : Nat) : Nat := 0x40070200 + 0x20 * n
def SHR_BMSK_BMSK (n : Nat) : Field := ⟨SHR_BMSK n, 0, 32⟩

/-- SHR_BVR, R258. -/
def SHR_BVR (n : Nat) : Nat := 0x40070204 + 0x20 * n
def SHR_BVR_VDCR (n : Nat) : Field := ⟨SHR_BVR n, 0, 32⟩

/-- SHR_BT1, R258. -/
def SHR_BT1 (n : Nat) : Nat := 0x40070208 + 0x20 * n
def SHR_BT1_VCHOFF (n : Nat) : Field := ⟨SHR_BT1 n, 0, 16⟩
def SHR_BT1_VCHON (n : Nat) : Field := ⟨SHR_BT1 n, 16, 16⟩

/-- SHR_BT2, R258. -/
def SHR_BT2 (n : Nat) : Nat := 0x4007020C + 0x20 * n
def SHR_BT2_VCHFULL (n : Nat) : Field := ⟨SHR_BT2 n, 0, 16⟩
def SHR_BT2_VREG0 (n : Nat) : Field := ⟨SHR_BT2 n, 16, 16⟩

/-- SHR_BT3, R258. -/
def SHR_BT3 (n : Nat) : Nat := 0x40070210 + 0x20 * n
def SHR_BT3_VREG1 (n : Nat) : Field := ⟨SHR_BT3 n, 0, 16⟩
def SHR_BT3_VFLX (n : Nat) : Field := ⟨SHR_BT3 n, 16, 16⟩

/-- SHR_BT4, R258. -/
def SHR_BT4 (n : Nat) : Nat := 0x40070214 + 0x20 * n
def SHR_BT4_VTRIP (n : Nat) : Field := ⟨SHR_BT4 n, 0, 16⟩
def SHR_BT4_VUV (n : Nat) : Field := ⟨SHR_BT4 n, 16, 16⟩

/-- SHR_BT5, R258. -/
def SHR_BT5 (n : Nat) : Nat := 0x40070218 + 0x20 * n
def SHR_BT5_VRT (n : Nat) : Field := ⟨SHR_BT5 n, 0, 16⟩
def SHR_BT5_VRTX (n : Nat) : Field := ⟨SHR_BT5 n, 16, 16⟩

/-- SHR_BHOST, R258. -/
def SHR_BHOST (n : Nat) : Nat := 0x4007021C + 0x20 * n
def SHR_BHOST_HOST (n : Nat) : Field := ⟨SHR_BHOST n, 0, 4⟩
def SHR_BHOST_NCH (n : Nat) : Field := ⟨SHR_BHOST n, 4, 4⟩
def SHR_BHOST_CHIMIN (n : Nat) : Field := ⟨SHR_BHOST n, 16, 16⟩

/-- SHR_PLIM, R258. -/
def SHR_PLIM (n : Nat) : Nat := 0x40070300 + 0x8 * n
def SHR_PLIM_PAV (n : Nat) : Field := ⟨SHR_PLIM n, 0, 24⟩

/-- SHR_PLW, R258. -/
def SHR_PLW (n : Nat) : Nat := 0x40070304 + 0x8 * n
def SHR_PLW_PLOW (n : Nat) : Field := ⟨SHR_PLW n, 0, 24⟩
def SHR_PLW_DISEL (n : Nat) : Field := ⟨SHR_PLW n, 24, 7⟩

/-- SHR_BLIV, R258. -/
def SHR_BLIV (n : Nat) : Nat := 0x40070380 + 0x8 * n
def SHR_BLIV_VBUS (n : Nat) : Field := ⟨SHR_BLIV n, 0, 32⟩

/-- SHR_BLS, R258. -/
def SHR_BLS (n : Nat) : Nat := 0x40070384 + 0x8 * n
def SHR_BLS_CHF (n : Nat) : Field := ⟨SHR_BLS n, 0, 1⟩
def SHR_BLS_LADDER (n : Nat) : Field := ⟨SHR_BLS n, 1, 2⟩
def SHR_BLS_FIRING (n : Nat) : Field := ⟨SHR_BLS n, 3, 1⟩
def SHR_BLS_DUTY (n : Nat) : Field := ⟨SHR_BLS n, 16, 16⟩

/-- SHR_HVC, R258. -/
def SHR_HVC (n : Nat) : Nat := 0x40070400 + 0x100 * n
def SHR_HVC_HEN (n : Nat) : Field := ⟨SHR_HVC n, 0, 1⟩
def SHR_HVC_HXMAX (n : Nat) : Field := ⟨SHR_HVC n, 4, 12⟩

/-- SHR_HVA, R258. -/
def SHR_HVA (n : Nat) : Nat := 0x40070404 + 0x100 * n
def SHR_HVA_HADR (n : Nat) : Field := ⟨SHR_HVA n, 0, 32⟩

/-- SHR_HVE_TLO, R258. -/
def SHR_HVE_TLO (n : Nat) (m : Nat) : Nat := 0x40070410 + 0x100 * n + 0x10 * m
def SHR_HVE_TLO_TLO (n : Nat) (m : Nat) : Field := ⟨SHR_HVE_TLO n m, 0, 32⟩

/-- SHR_HVE_THI, R258. -/
def SHR_HVE_THI (n : Nat) (m : Nat) : Nat := 0x40070414 + 0x100 * n + 0x10 * m
def SHR_HVE_THI_THI (n : Nat) (m : Nat) : Field := ⟨SHR_HVE_THI n m, 0, 32⟩

/-- SHR_HVE_POS, R258. -/
def SHR_HVE_POS (n : Nat) (m : Nat) : Nat := 0x40070418 + 0x100 * n + 0x10 * m
def SHR_HVE_POS_POS (n : Nat) (m : Nat) : Field := ⟨SHR_HVE_POS n m, 0, 32⟩

/-- SHR_HVE_SPD, R258. -/
def SHR_HVE_SPD (n : Nat) (m : Nat) : Nat := 0x4007041C + 0x100 * n + 0x10 * m
def SHR_HVE_SPD_SPD (n : Nat) (m : Nat) : Field := ⟨SHR_HVE_SPD n m, 0, 32⟩

/-- SHR_CW, R258. -/
def SHR_CW (n : Nat) : Nat := 0x40071800 + 0x4 * n
def SHR_CW_W (n : Nat) : Field := ⟨SHR_CW n, 0, 16⟩

/-- BLK_STS, R290. -/
def BLK_STS : Nat := 0x40080000
def BLK_STS_ANYSOLE : Field := ⟨BLK_STS, 0, 1⟩
def BLK_STS_ANYLOST : Field := ⟨BLK_STS, 1, 1⟩
def BLK_STS_ANYGOFF : Field := ⟨BLK_STS, 2, 1⟩

/-- BLK_STK, R290. -/
def BLK_STK : Nat := 0x40080004
def BLK_STK_PORTDN : Field := ⟨BLK_STK, 0, 1⟩
def BLK_STK_PORTUP : Field := ⟨BLK_STK, 1, 1⟩
def BLK_STK_PORTSW : Field := ⟨BLK_STK, 2, 1⟩
def BLK_STK_CRCUP : Field := ⟨BLK_STK, 3, 1⟩
def BLK_STK_LATE : Field := ⟨BLK_STK, 4, 1⟩
def BLK_STK_SEQERR : Field := ⟨BLK_STK, 5, 1⟩
def BLK_STK_IDMIS : Field := ⟨BLK_STK, 6, 1⟩
def BLK_STK_WIRE : Field := ⟨BLK_STK, 7, 1⟩
def BLK_STK_DESAT : Field := ⟨BLK_STK, 8, 1⟩
def BLK_STK_GSUP : Field := ⟨BLK_STK, 9, 1⟩
def BLK_STK_PERMDIF : Field := ⟨BLK_STK, 10, 1⟩
def BLK_STK_SELF : Field := ⟨BLK_STK, 11, 1⟩
def BLK_STK_MTO : Field := ⟨BLK_STK, 12, 1⟩
def BLK_STK_MREJ : Field := ⟨BLK_STK, 13, 1⟩

/-- BLK_PERM, R290. -/
def BLK_PERM : Nat := 0x40080008
def BLK_PERM_SEND : Field := ⟨BLK_PERM, 0, 4⟩

/-- BLK_MREQ, R291. -/
def BLK_MREQ : Nat := 0x40080010
def BLK_MREQ_BRICK : Field := ⟨BLK_MREQ, 0, 5⟩
def BLK_MREQ_OP : Field := ⟨BLK_MREQ, 8, 8⟩
def BLK_MREQ_ARG : Field := ⟨BLK_MREQ, 16, 16⟩

/-- BLK_MRSP, R291. -/
def BLK_MRSP : Nat := 0x40080014
def BLK_MRSP_STATE : Field := ⟨BLK_MRSP, 0, 2⟩
def BLK_MRSP_RESULT : Field := ⟨BLK_MRSP, 8, 8⟩
def BLK_MRSP_LEN : Field := ⟨BLK_MRSP, 16, 4⟩
def BLK_MRSP_BRICK : Field := ⟨BLK_MRSP, 20, 5⟩

/-- BLK_REDISC, R291. -/
def BLK_REDISC : Nat := 0x40080060
def BLK_REDISC_BRICK : Field := ⟨BLK_REDISC, 0, 5⟩

/-- BLK_MDAT, R291. -/
def BLK_MDAT (n : Nat) : Nat := 0x40080020 + 0x4 * n
def BLK_MDAT_DATA (n : Nat) : Field := ⟨BLK_MDAT n, 0, 32⟩

/-- BLK_BST, R292. -/
def BLK_BST (n : Nat) : Nat := 0x40081000 + 0x40 * n
def BLK_BST_STATE (n : Nat) : Field := ⟨BLK_BST n, 0, 3⟩
def BLK_BST_PRIUP (n : Nat) : Field := ⟨BLK_BST n, 3, 1⟩
def BLK_BST_SECUP (n : Nat) : Field := ⟨BLK_BST n, 4, 1⟩
def BLK_BST_FOLLOW (n : Nat) : Field := ⟨BLK_BST n, 5, 1⟩
def BLK_BST_DESAT (n : Nat) : Field := ⟨BLK_BST n, 6, 4⟩
def BLK_BST_GSUP (n : Nat) : Field := ⟨BLK_BST n, 10, 4⟩
def BLK_BST_GOFF (n : Nat) : Field := ⟨BLK_BST n, 14, 1⟩
def BLK_BST_NOPERM (n : Nat) : Field := ⟨BLK_BST n, 15, 1⟩
def BLK_BST_FCODE (n : Nat) : Field := ⟨BLK_BST n, 16, 4⟩

/-- BLK_DLY, R292. -/
def BLK_DLY (n : Nat) : Nat := 0x40081004 + 0x40 * n
def BLK_DLY_PDLY (n : Nat) : Field := ⟨BLK_DLY n, 0, 16⟩
def BLK_DLY_SDLY (n : Nat) : Field := ⟨BLK_DLY n, 16, 16⟩

/-- BLK_ID, R292. -/
def BLK_ID (n : Nat) : Nat := 0x40081008 + 0x40 * n
def BLK_ID_VENDOR (n : Nat) : Field := ⟨BLK_ID n, 0, 16⟩
def BLK_ID_MODEL (n : Nat) : Field := ⟨BLK_ID n, 16, 16⟩

/-- BLK_SN, R292. -/
def BLK_SN (n : Nat) : Nat := 0x4008100C + 0x40 * n
def BLK_SN_SERIAL (n : Nat) : Field := ⟨BLK_SN n, 0, 32⟩

/-- BLK_FSV, R292. -/
def BLK_FSV (n : Nat) : Nat := 0x40081020 + 0x40 * n
def BLK_FSV_FSV (n : Nat) : Field := ⟨BLK_FSV n, 0, 32⟩

/-- BLK_FSD, R292. -/
def BLK_FSD (n : Nat) : Nat := 0x40081024 + 0x40 * n
def BLK_FSD_FSD (n : Nat) : Field := ⟨BLK_FSD n, 0, 32⟩

/-- BLK_CAP, R292. -/
def BLK_CAP (n : Nat) : Nat := 0x40081028 + 0x40 * n
def BLK_CAP_LEGS (n : Nat) : Field := ⟨BLK_CAP n, 0, 4⟩
def BLK_CAP_SHUNTS (n : Nat) : Field := ⟨BLK_CAP n, 4, 4⟩
def BLK_CAP_VMEAS (n : Nat) : Field := ⟨BLK_CAP n, 8, 4⟩
def BLK_CAP_APER (n : Nat) : Field := ⟨BLK_CAP n, 12, 8⟩
def BLK_CAP_MINPW (n : Nat) : Field := ⟨BLK_CAP n, 20, 8⟩

/-- BLK_CRC, R292. -/
def BLK_CRC (n : Nat) : Nat := 0x4008102C + 0x40 * n
def BLK_CRC_PRI (n : Nat) : Field := ⟨BLK_CRC n, 0, 16⟩
def BLK_CRC_SEC (n : Nat) : Field := ⟨BLK_CRC n, 16, 16⟩

/-- BLK_LATE, R292. -/
def BLK_LATE (n : Nat) : Nat := 0x40081030 + 0x40 * n
def BLK_LATE_COUNT (n : Nat) : Field := ⟨BLK_LATE n, 0, 16⟩

/-- BLK_MISS, R292. -/
def BLK_MISS (n : Nat) : Nat := 0x40081034 + 0x40 * n
def BLK_MISS_COUNT (n : Nat) : Field := ⟨BLK_MISS n, 0, 16⟩

/-- BLK_SW, R292. -/
def BLK_SW (n : Nat) : Nat := 0x40081038 + 0x40 * n
def BLK_SW_COUNT (n : Nat) : Field := ⟨BLK_SW n, 0, 16⟩

/-- BLK_FSI, R292. -/
def BLK_FSI (n : Nat) (m : Nat) : Nat := 0x40081010 + 0x40 * n + 0x4 * m
def BLK_FSI_FSI (n : Nat) (m : Nat) : Field := ⟨BLK_FSI n m, 0, 32⟩

/-- FBK_STS, R312. -/
def FBK_STS : Nat := 0x40090000
def FBK_STS_ANYFLT : Field := ⟨FBK_STS, 0, 1⟩
def FBK_STS_ANYARM : Field := ⟨FBK_STS, 1, 1⟩
def FBK_STS_ANYPOUT : Field := ⟨FBK_STS, 2, 1⟩

/-- FBK_STK, R312. -/
def FBK_STK : Nat := 0x40090004
def FBK_STK_QERR : Field := ⟨FBK_STK, 0, 1⟩
def FBK_STK_INDEXERR : Field := ⟨FBK_STK, 1, 1⟩
def FBK_STK_INDEXMISS : Field := ⟨FBK_STK, 2, 1⟩
def FBK_STK_SSITO : Field := ⟨FBK_STK, 3, 1⟩
def FBK_STK_SSICRC : Field := ⟨FBK_STK, 4, 1⟩
def FBK_STK_SSIEBIT : Field := ⟨FBK_STK, 5, 1⟩
def FBK_STK_SSIJUMP : Field := ⟨FBK_STK, 6, 1⟩
def FBK_STK_HALLERR : Field := ⟨FBK_STK, 7, 1⟩
def FBK_STK_HALLSEQ : Field := ⟨FBK_STK, 8, 1⟩
def FBK_STK_GAP : Field := ⟨FBK_STK, 9, 1⟩
def FBK_STK_WRAP : Field := ⟨FBK_STK, 10, 1⟩
def FBK_STK_CHFLT : Field := ⟨FBK_STK, 11, 1⟩
def FBK_STK_CLRIGN : Field := ⟨FBK_STK, 12, 1⟩
def FBK_STK_CMPBEHIND : Field := ⟨FBK_STK, 13, 1⟩
def FBK_STK_CMPFIRE : Field := ⟨FBK_STK, 14, 1⟩
def FBK_STK_CMPOVL : Field := ⟨FBK_STK, 15, 1⟩
def FBK_STK_PROBE : Field := ⟨FBK_STK, 16, 1⟩
def FBK_STK_PLAG : Field := ⟨FBK_STK, 17, 1⟩
def FBK_STK_RATIO : Field := ⟨FBK_STK, 18, 1⟩

/-- FBK_CFG, R313. -/
def FBK_CFG (n : Nat) : Nat := 0x40091000 + 0x100 * n
def FBK_CFG_TYPE (n : Nat) : Field := ⟨FBK_CFG n, 0, 2⟩
def FBK_CFG_DIRINV (n : Nat) : Field := ⟨FBK_CFG n, 2, 1⟩
def FBK_CFG_ZEN (n : Nat) : Field := ⟨FBK_CFG n, 3, 1⟩
def FBK_CFG_IPOL (n : Nat) : Field := ⟨FBK_CFG n, 4, 2⟩
def FBK_CFG_IREF (n : Nat) : Field := ⟨FBK_CFG n, 6, 1⟩
def FBK_CFG_PEDGE (n : Nat) : Field := ⟨FBK_CFG n, 7, 1⟩
def FBK_CFG_NFLT (n : Nat) : Field := ⟨FBK_CFG n, 8, 8⟩
def FBK_CFG_NPRB (n : Nat) : Field := ⟨FBK_CFG n, 16, 8⟩
def FBK_CFG_PSRC (n : Nat) : Field := ⟨FBK_CFG n, 24, 4⟩

/-- FBK_CPR, R313. -/
def FBK_CPR (n : Nat) : Nat := 0x40091004 + 0x100 * n
def FBK_CPR_CPR (n : Nat) : Field := ⟨FBK_CPR n, 0, 31⟩

/-- FBK_IDX, R313. -/
def FBK_IDX (n : Nat) : Nat := 0x40091008 + 0x100 * n
def FBK_IDX_ITOL (n : Nat) : Field := ⟨FBK_IDX n, 0, 16⟩

/-- FBK_IPOS, R313. -/
def FBK_IPOS (n : Nat) : Nat := 0x4009100C + 0x100 * n
def FBK_IPOS_IPOS (n : Nat) : Field := ⟨FBK_IPOS n, 0, 32⟩

/-- FBK_SSI, R313. -/
def FBK_SSI (n : Nat) : Nat := 0x40091010 + 0x100 * n
def FBK_SSI_DIVC (n : Nat) : Field := ⟨FBK_SSI n, 0, 8⟩
def FBK_SSI_NBIT (n : Nat) : Field := ⟨FBK_SSI n, 8, 6⟩
def FBK_SSI_GRAY (n : Nat) : Field := ⟨FBK_SSI n, 14, 1⟩
def FBK_SSI_EEN (n : Nat) : Field := ⟨FBK_SSI n, 15, 1⟩
def FBK_SSI_PLSB (n : Nat) : Field := ⟨FBK_SSI n, 16, 6⟩
def FBK_SSI_PLEN (n : Nat) : Field := ⟨FBK_SSI n, 22, 6⟩
def FBK_SSI_EPOL (n : Nat) : Field := ⟨FBK_SSI n, 28, 1⟩

/-- FBK_SS2, R313. -/
def FBK_SS2 (n : Nat) : Nat := 0x40091014 + 0x100 * n
def FBK_SS2_EBIT (n : Nat) : Field := ⟨FBK_SS2 n, 0, 6⟩
def FBK_SS2_DLY (n : Nat) : Field := ⟨FBK_SS2 n, 8, 8⟩
def FBK_SS2_RATE (n : Nat) : Field := ⟨FBK_SS2 n, 16, 8⟩
def FBK_SS2_MONO (n : Nat) : Field := ⟨FBK_SS2 n, 24, 8⟩

/-- FBK_SS3, R313. -/
def FBK_SS3 (n : Nat) : Nat := 0x40091018 + 0x100 * n
def FBK_SS3_CPOLY (n : Nat) : Field := ⟨FBK_SS3 n, 0, 16⟩
def FBK_SS3_CLEN (n : Nat) : Field := ⟨FBK_SS3 n, 16, 5⟩
def FBK_SS3_CINV (n : Nat) : Field := ⟨FBK_SS3 n, 21, 1⟩

/-- FBK_VCF, R313. -/
def FBK_VCF (n : Nat) : Nat := 0x4009101C + 0x100 * n
def FBK_VCF_SWIN (n : Nat) : Field := ⟨FBK_VCF n, 0, 8⟩
def FBK_VCF_NERR (n : Nat) : Field := ⟨FBK_VCF n, 8, 8⟩
def FBK_VCF_SZERO (n : Nat) : Field := ⟨FBK_VCF n, 16, 16⟩

/-- FBK_CMP, R314. -/
def FBK_CMP (n : Nat) : Nat := 0x40091020 + 0x100 * n
def FBK_CMP_CPOS (n : Nat) : Field := ⟨FBK_CMP n, 0, 32⟩

/-- FBK_CMC, R314. -/
def FBK_CMC (n : Nat) : Nat := 0x40091024 + 0x100 * n
def FBK_CMC_DIR (n : Nat) : Field := ⟨FBK_CMC n, 0, 2⟩
def FBK_CMC_FIREPASSED (n : Nat) : Field := ⟨FBK_CMC n, 2, 1⟩
def FBK_CMC_CPW (n : Nat) : Field := ⟨FBK_CMC n, 4, 12⟩

/-- FBK_CINC, R314. -/
def FBK_CINC (n : Nat) : Nat := 0x40091028 + 0x100 * n
def FBK_CINC_CINC (n : Nat) : Field := ⟨FBK_CINC n, 0, 32⟩

/-- FBK_POUT, R314. -/
def FBK_POUT (n : Nat) : Nat := 0x4009102C + 0x100 * n
def FBK_POUT_NUM (n : Nat) : Field := ⟨FBK_POUT n, 0, 16⟩
def FBK_POUT_DEN (n : Nat) : Field := ⟨FBK_POUT n, 16, 16⟩

/-- FBK_CCMD, R314. -/
def FBK_CCMD (n : Nat) : Nat := 0x40091030 + 0x100 * n
def FBK_CCMD_CLR (n : Nat) : Field := ⟨FBK_CCMD n, 0, 1⟩
def FBK_CCMD_PARM (n : Nat) : Field := ⟨FBK_CCMD n, 1, 1⟩

/-- FBK_CNT, R315. -/
def FBK_CNT (n : Nat) : Nat := 0x40091040 + 0x100 * n
def FBK_CNT_CNT (n : Nat) : Field := ⟨FBK_CNT n, 0, 32⟩

/-- FBK_TURN, R315. -/
def FBK_TURN (n : Nat) : Nat := 0x40091044 + 0x100 * n
def FBK_TURN_TURN (n : Nat) : Field := ⟨FBK_TURN n, 0, 32⟩

/-- FBK_VEL, R315. -/
def FBK_VEL (n : Nat) : Nat := 0x40091048 + 0x100 * n
def FBK_VEL_VEL (n : Nat) : Field := ⟨FBK_VEL n, 0, 32⟩

/-- FBK_TS, R315. -/
def FBK_TS (n : Nat) : Nat := 0x4009104C + 0x100 * n
def FBK_TS_TS (n : Nat) : Field := ⟨FBK_TS n, 0, 32⟩

/-- FBK_CHST, R315. -/
def FBK_CHST (n : Nat) : Nat := 0x40091050 + 0x100 * n
def FBK_CHST_STATE (n : Nat) : Field := ⟨FBK_CHST n, 0, 2⟩
def FBK_CHST_CAUSE (n : Nat) : Field := ⟨FBK_CHST n, 2, 4⟩
def FBK_CHST_IREFD (n : Nat) : Field := ⟨FBK_CHST n, 6, 1⟩
def FBK_CHST_ARMED (n : Nat) : Field := ⟨FBK_CHST n, 7, 1⟩
def FBK_CHST_AGE (n : Nat) : Field := ⟨FBK_CHST n, 8, 8⟩
def FBK_CHST_HALL (n : Nat) : Field := ⟨FBK_CHST n, 16, 3⟩
def FBK_CHST_PARMD (n : Nat) : Field := ⟨FBK_CHST n, 19, 1⟩

/-- FBK_IERR, R315. -/
def FBK_IERR (n : Nat) : Nat := 0x40091054 + 0x100 * n
def FBK_IERR_IERR (n : Nat) : Field := ⟨FBK_IERR n, 0, 32⟩

/-- FBK_PRB, R315. -/
def FBK_PRB (n : Nat) : Nat := 0x40091058 + 0x100 * n
def FBK_PRB_PCNT (n : Nat) : Field := ⟨FBK_PRB n, 0, 32⟩

/-- FBK_PRT, R315. -/
def FBK_PRT (n : Nat) : Nat := 0x4009105C + 0x100 * n
def FBK_PRT_PTIM (n : Nat) : Field := ⟨FBK_PRT n, 0, 32⟩

/-- FBK_CTS, R315. -/
def FBK_CTS (n : Nat) : Nat := 0x40091060 + 0x100 * n
def FBK_CTS_CTIM (n : Nat) : Field := ⟨FBK_CTS n, 0, 32⟩

/-- FBK_ERRC, R315. -/
def FBK_ERRC (n : Nat) : Nat := 0x40091064 + 0x100 * n
def FBK_ERRC_ERRS (n : Nat) : Field := ⟨FBK_ERRC n, 0, 16⟩
def FBK_ERRC_GAPS (n : Nat) : Field := ⟨FBK_ERRC n, 16, 16⟩

/-- FIO_STS, R333. -/
def FIO_STS : Nat := 0x400A0000
def FIO_STS_F1SAFE : Field := ⟨FIO_STS, 0, 1⟩
def FIO_STS_F2SAFE : Field := ⟨FIO_STS, 1, 1⟩
def FIO_STS_ANYWB : Field := ⟨FIO_STS, 2, 1⟩
def FIO_STS_ANYFORCE : Field := ⟨FIO_STS, 3, 1⟩
def FIO_STS_ANYLATCH : Field := ⟨FIO_STS, 4, 1⟩
def FIO_STS_F1STO : Field := ⟨FIO_STS, 5, 1⟩
def FIO_STS_F2STO : Field := ⟨FIO_STS, 6, 1⟩
def FIO_STS_ANYGSUP : Field := ⟨FIO_STS, 7, 1⟩

/-- FIO_STK, R333. -/
def FIO_STK : Nat := 0x400A0004
def FIO_STK_WBRK : Field := ⟨FIO_STK, 0, 1⟩
def FIO_STK_FORCED : Field := ⟨FIO_STK, 1, 1⟩
def FIO_STK_OLIM : Field := ⟨FIO_STK, 2, 1⟩
def FIO_STK_OLATCH : Field := ⟨FIO_STK, 3, 1⟩
def FIO_STK_ONLOW : Field := ⟨FIO_STK, 4, 1⟩
def FIO_STK_GSUP : Field := ⟨FIO_STK, 5, 1⟩
def FIO_STK_SAFE : Field := ⟨FIO_STK, 6, 1⟩
def FIO_STK_SRELIGN : Field := ⟨FIO_STK, 7, 1⟩
def FIO_STK_STODIS : Field := ⟨FIO_STK, 8, 1⟩
def FIO_STK_STOOFF : Field := ⟨FIO_STK, 9, 1⟩
def FIO_STK_CGAP : Field := ⟨FIO_STK, 10, 1⟩
def FIO_STK_FSAT : Field := ⟨FIO_STK, 11, 1⟩

/-- FIO_WB0, R334. -/
def FIO_WB0 : Nat := 0x400A0010
def FIO_WB0_WB : Field := ⟨FIO_WB0, 0, 32⟩

/-- FIO_WB1, R334. -/
def FIO_WB1 : Nat := 0x400A0014
def FIO_WB1_WB : Field := ⟨FIO_WB1, 0, 32⟩

/-- FIO_CMD, R334. -/
def FIO_CMD : Nat := 0x400A0020
def FIO_CMD_SREL : Field := ⟨FIO_CMD, 0, 2⟩

/-- FIO_OCLR, R334. -/
def FIO_OCLR : Nat := 0x400A0024
def FIO_OCLR_OCLR : Field := ⟨FIO_OCLR, 0, 32⟩

/-- FIO_CCMD, R334. -/
def FIO_CCMD : Nat := 0x400A0180
def FIO_CCMD_CLR : Field := ⟨FIO_CCMD, 0, 16⟩

/-- FIO_CNT, R334. -/
def FIO_CNT (n : Nat) : Nat := 0x400A0100 + 0x8 * n
def FIO_CNT_COUNT (n : Nat) : Field := ⟨FIO_CNT n, 0, 32⟩

/-- FIO_FHZ, R334. -/
def FIO_FHZ (n : Nat) : Nat := 0x400A0104 + 0x8 * n
def FIO_FHZ_FHZ (n : Nat) : Field := ⟨FIO_FHZ n, 0, 32⟩

/-- FIO_ICFG, R335. -/
def FIO_ICFG (n : Nat) : Nat := 0x400A1000 + 0x4 * n
def FIO_ICFG_MODE (n : Nat) : Field := ⟨FIO_ICFG n, 0, 3⟩
def FIO_ICFG_NDEB (n : Nat) : Field := ⟨FIO_ICFG n, 4, 4⟩
def FIO_ICFG_FILT (n : Nat) : Field := ⟨FIO_ICFG n, 8, 8⟩
def FIO_ICFG_EDGE (n : Nat) : Field := ⟨FIO_ICFG n, 16, 2⟩
def FIO_ICFG_GATE (n : Nat) : Field := ⟨FIO_ICFG n, 18, 8⟩

/-- FIO_OCFG, R336. -/
def FIO_OCFG (n : Nat) : Nat := 0x400A2000 + 0x4 * n
def FIO_OCFG_SAFE (n : Nat) : Field := ⟨FIO_OCFG n, 0, 2⟩
def FIO_OCFG_TBLK (n : Nat) : Field := ⟨FIO_OCFG n, 8, 8⟩

/-- FIO_OSTS, R336. -/
def FIO_OSTS (n : Nat) : Nat := 0x400A2080 + 0x4 * n
def FIO_OSTS_STATE (n : Nat) : Field := ⟨FIO_OSTS n, 0, 2⟩
def FIO_OSTS_RB (n : Nat) : Field := ⟨FIO_OSTS n, 2, 1⟩
def FIO_OSTS_FORCED (n : Nat) : Field := ⟨FIO_OSTS n, 3, 1⟩
def FIO_OSTS_RETRY (n : Nat) : Field := ⟨FIO_OSTS n, 4, 2⟩
def FIO_OSTS_CMD (n : Nat) : Field := ⟨FIO_OSTS n, 6, 1⟩
def FIO_OSTS_ATSAFE (n : Nat) : Field := ⟨FIO_OSTS n, 7, 1⟩

/-- FIO_GRP, R336. -/
def FIO_GRP (n : Nat) : Nat := 0x400A2100 + 0x4 * n
def FIO_GRP_VG (n : Nat) : Field := ⟨FIO_GRP n, 0, 16⟩
def FIO_GRP_OK (n : Nat) : Field := ⟨FIO_GRP n, 16, 1⟩

/-- FIO_SCFG, R336. -/
def FIO_SCFG (n : Nat) : Nat := 0x400A3000 + 0x10 * n
def FIO_SCFG_TOUT (n : Nat) : Field := ⟨FIO_SCFG n, 0, 10⟩

/-- FIO_SSTS, R336. -/
def FIO_SSTS (n : Nat) : Nat := 0x400A3004 + 0x10 * n
def FIO_SSTS_SAFE (n : Nat) : Field := ⟨FIO_SSTS n, 0, 1⟩
def FIO_SSTS_STOA (n : Nat) : Field := ⟨FIO_SSTS n, 1, 1⟩
def FIO_SSTS_STOB (n : Nat) : Field := ⟨FIO_SSTS n, 2, 1⟩
def FIO_SSTS_PAIR (n : Nat) : Field := ⟨FIO_SSTS n, 3, 1⟩
def FIO_SSTS_DISC (n : Nat) : Field := ⟨FIO_SSTS n, 4, 1⟩

/-- CAN_STS, R364. -/
def CAN_STS (n : Nat) : Nat := 0x400B0000 + 0x4000 * n
def CAN_STS_ESTATE (n : Nat) : Field := ⟨CAN_STS n, 0, 2⟩
def CAN_STS_EWARN (n : Nat) : Field := ⟨CAN_STS n, 2, 1⟩
def CAN_STS_RECOV (n : Nat) : Field := ⟨CAN_STS n, 3, 1⟩
def CAN_STS_NOCART (n : Nat) : Field := ⟨CAN_STS n, 4, 1⟩
def CAN_STS_TXON (n : Nat) : Field := ⟨CAN_STS n, 5, 1⟩

/-- CAN_STK, R364. -/
def CAN_STK (n : Nat) : Nat := 0x400B0004 + 0x4000 * n
def CAN_STK_IDCOL (n : Nat) : Field := ⟨CAN_STK n, 0, 1⟩
def CAN_STK_Q0OVR (n : Nat) : Field := ⟨CAN_STK n, 1, 1⟩
def CAN_STK_Q1OVR (n : Nat) : Field := ⟨CAN_STK n, 2, 1⟩
def CAN_STK_BADACK (n : Nat) : Field := ⟨CAN_STK n, 3, 1⟩
def CAN_STK_BADDESC (n : Nat) : Field := ⟨CAN_STK n, 4, 1⟩
def CAN_STK_QDROP (n : Nat) : Field := ⟨CAN_STK n, 5, 1⟩
def CAN_STK_DEXP (n : Nat) : Field := ⟨CAN_STK n, 6, 1⟩
def CAN_STK_BUSOFF (n : Nat) : Field := ⟨CAN_STK n, 7, 1⟩
def CAN_STK_EPASS (n : Nat) : Field := ⟨CAN_STK n, 8, 1⟩
def CAN_STK_EWARN (n : Nat) : Field := ⟨CAN_STK n, 9, 1⟩
def CAN_STK_PXE (n : Nat) : Field := ⟨CAN_STK n, 10, 1⟩
def CAN_STK_ONBUS (n : Nat) : Field := ⟨CAN_STK n, 11, 1⟩
def CAN_STK_TSSTEP (n : Nat) : Field := ⟨CAN_STK n, 12, 1⟩
def CAN_STK_TSLOST (n : Nat) : Field := ⟨CAN_STK n, 13, 1⟩
def CAN_STK_TSMISS (n : Nat) : Field := ⟨CAN_STK n, 14, 1⟩
def CAN_STK_PAIRERR (n : Nat) : Field := ⟨CAN_STK n, 15, 1⟩
def CAN_STK_SILENT (n : Nat) : Field := ⟨CAN_STK n, 16, 1⟩

/-- CAN_CFG, R365. -/
def CAN_CFG (n : Nat) : Nat := 0x400B0010 + 0x4000 * n
def CAN_CFG_MODE (n : Nat) : Field := ⟨CAN_CFG n, 0, 3⟩
def CAN_CFG_FDEN (n : Nat) : Field := ⟨CAN_CFG n, 3, 1⟩
def CAN_CFG_PXHD (n : Nat) : Field := ⟨CAN_CFG n, 4, 1⟩
def CAN_CFG_PAIR (n : Nat) : Field := ⟨CAN_CFG n, 5, 1⟩
def CAN_CFG_TERM (n : Nat) : Field := ⟨CAN_CFG n, 6, 1⟩
def CAN_CFG_NOMATCH (n : Nat) : Field := ⟨CAN_CFG n, 7, 1⟩
def CAN_CFG_QRETRY (n : Nat) : Field := ⟨CAN_CFG n, 8, 4⟩
def CAN_CFG_Q0OW (n : Nat) : Field := ⟨CAN_CFG n, 12, 1⟩
def CAN_CFG_Q1OW (n : Nat) : Field := ⟨CAN_CFG n, 13, 1⟩

/-- CAN_NBT, R365. -/
def CAN_NBT (n : Nat) : Nat := 0x400B0014 + 0x4000 * n
def CAN_NBT_NBRP (n : Nat) : Field := ⟨CAN_NBT n, 0, 8⟩
def CAN_NBT_NTSEG1 (n : Nat) : Field := ⟨CAN_NBT n, 8, 8⟩
def CAN_NBT_NTSEG2 (n : Nat) : Field := ⟨CAN_NBT n, 16, 7⟩
def CAN_NBT_NSJW (n : Nat) : Field := ⟨CAN_NBT n, 24, 7⟩

/-- CAN_DBT, R365. -/
def CAN_DBT (n : Nat) : Nat := 0x400B0018 + 0x4000 * n
def CAN_DBT_DBRP (n : Nat) : Field := ⟨CAN_DBT n, 0, 5⟩
def CAN_DBT_DTSEG1 (n : Nat) : Field := ⟨CAN_DBT n, 5, 5⟩
def CAN_DBT_DTSEG2 (n : Nat) : Field := ⟨CAN_DBT n, 10, 4⟩
def CAN_DBT_DSJW (n : Nat) : Field := ⟨CAN_DBT n, 14, 4⟩
def CAN_DBT_TDC (n : Nat) : Field := ⟨CAN_DBT n, 18, 1⟩
def CAN_DBT_TDCO (n : Nat) : Field := ⟨CAN_DBT n, 19, 7⟩

/-- CAN_ECNT, R366. -/
def CAN_ECNT (n : Nat) : Nat := 0x400B0020 + 0x4000 * n
def CAN_ECNT_TEC (n : Nat) : Field := ⟨CAN_ECNT n, 0, 8⟩
def CAN_ECNT_REC (n : Nat) : Field := ⟨CAN_ECNT n, 8, 8⟩
def CAN_ECNT_BOREC (n : Nat) : Field := ⟨CAN_ECNT n, 16, 8⟩

/-- CAN_CNT, R366. -/
def CAN_CNT (n : Nat) : Nat := 0x400B0024 + 0x4000 * n
def CAN_CNT_Q0OVR (n : Nat) : Field := ⟨CAN_CNT n, 0, 16⟩
def CAN_CNT_Q1OVR (n : Nat) : Field := ⟨CAN_CNT n, 16, 16⟩

/-- CAN_CNT2, R366. -/
def CAN_CNT2 (n : Nat) : Nat := 0x400B0028 + 0x4000 * n
def CAN_CNT2_QDROP (n : Nat) : Field := ⟨CAN_CNT2 n, 0, 16⟩
def CAN_CNT2_BOFF (n : Nat) : Field := ⟨CAN_CNT2 n, 16, 16⟩

/-- CAN_CNT3, R366. -/
def CAN_CNT3 (n : Nat) : Nat := 0x400B002C + 0x4000 * n
def CAN_CNT3_ERRF (n : Nat) : Field := ⟨CAN_CNT3 n, 0, 16⟩
def CAN_CNT3_ALOST (n : Nat) : Field := ⟨CAN_CNT3 n, 16, 16⟩

/-- CAN_QSTS, R366. -/
def CAN_QSTS (n : Nat) : Nat := 0x400B0030 + 0x4000 * n
def CAN_QSTS_Q0F (n : Nat) : Field := ⟨CAN_QSTS n, 0, 7⟩
def CAN_QSTS_Q0O (n : Nat) : Field := ⟨CAN_QSTS n, 7, 7⟩
def CAN_QSTS_Q1F (n : Nat) : Field := ⟨CAN_QSTS n, 14, 9⟩
def CAN_QSTS_Q1O (n : Nat) : Field := ⟨CAN_QSTS n, 23, 9⟩

/-- CAN_TXSTS, R366. -/
def CAN_TXSTS (n : Nat) : Nat := 0x400B0034 + 0x4000 * n
def CAN_TXSTS_QFILL (n : Nat) : Field := ⟨CAN_TXSTS n, 0, 6⟩
def CAN_TXSTS_DPEND (n : Nat) : Field := ⟨CAN_TXSTS n, 8, 8⟩

/-- CAN_IDCOL, R366. -/
def CAN_IDCOL (n : Nat) : Nat := 0x400B0038 + 0x4000 * n
def CAN_IDCOL_ID (n : Nat) : Field := ⟨CAN_IDCOL n, 0, 29⟩
def CAN_IDCOL_IDE (n : Nat) : Field := ⟨CAN_IDCOL n, 29, 1⟩

/-- CAN_QLAST, R366. -/
def CAN_QLAST (n : Nat) : Nat := 0x400B003C + 0x4000 * n
def CAN_QLAST_ID (n : Nat) : Field := ⟨CAN_QLAST n, 0, 29⟩
def CAN_QLAST_IDE (n : Nat) : Field := ⟨CAN_QLAST n, 29, 1⟩

/-- CAN_DEN, R366. -/
def CAN_DEN (n : Nat) : Nat := 0x400B0040 + 0x4000 * n
def CAN_DEN_EN (n : Nat) : Field := ⟨CAN_DEN n, 0, 8⟩

/-- CAN_DITM0, R365. -/
def CAN_DITM0 (n : Nat) : Nat := 0x400B0048 + 0x4000 * n
def CAN_DITM0_ITEM (n : Nat) : Field := ⟨CAN_DITM0 n, 0, 32⟩

/-- CAN_DITM1, R365. -/
def CAN_DITM1 (n : Nat) : Nat := 0x400B004C + 0x4000 * n
def CAN_DITM1_ITEM (n : Nat) : Field := ⟨CAN_DITM1 n, 0, 32⟩

/-- CAN_TSCFG, R368. -/
def CAN_TSCFG (n : Nat) : Nat := 0x400B0100 + 0x4000 * n
def CAN_TSCFG_ROLE (n : Nat) : Field := ⟨CAN_TSCFG n, 0, 2⟩
def CAN_TSCFG_PRIO (n : Nat) : Field := ⟨CAN_TSCFG n, 2, 3⟩
def CAN_TSCFG_REFID (n : Nat) : Field := ⟨CAN_TSCFG n, 6, 11⟩

/-- CAN_TSPER, R368. -/
def CAN_TSPER (n : Nat) : Nat := 0x400B0104 + 0x4000 * n
def CAN_TSPER_REFPER (n : Nat) : Field := ⟨CAN_TSPER n, 0, 24⟩

/-- CAN_TSCF2, R368. -/
def CAN_TSCF2 (n : Nat) : Nat := 0x400B0108 + 0x4000 * n
def CAN_TSCF2_PDLY (n : Nat) : Field := ⟨CAN_TSCF2 n, 0, 16⟩
def CAN_TSCF2_STEPLIM (n : Nat) : Field := ⟨CAN_TSCF2 n, 16, 16⟩

/-- CAN_TSSTS, R368. -/
def CAN_TSSTS (n : Nat) : Nat := 0x400B010C + 0x4000 * n
def CAN_TSSTS_STATE (n : Nat) : Field := ⟨CAN_TSSTS n, 0, 2⟩
def CAN_TSSTS_MPRIO (n : Nat) : Field := ⟨CAN_TSSTS n, 2, 3⟩
def CAN_TSSTS_ALIGNED (n : Nat) : Field := ⟨CAN_TSSTS n, 5, 1⟩
def CAN_TSSTS_GOVERN (n : Nat) : Field := ⟨CAN_TSSTS n, 6, 1⟩

/-- CAN_TSERR, R368. -/
def CAN_TSERR (n : Nat) : Nat := 0x400B0110 + 0x4000 * n
def CAN_TSERR_E (n : Nat) : Field := ⟨CAN_TSERR n, 0, 32⟩

/-- CAN_TSRATE, R368. -/
def CAN_TSRATE (n : Nat) : Nat := 0x400B0114 + 0x4000 * n
def CAN_TSRATE_RATE (n : Nat) : Field := ⟨CAN_TSRATE n, 0, 32⟩

/-- CAN_DS, R367. -/
def CAN_DS (n : Nat) (m : Nat) : Nat := 0x400B0080 + 0x4000 * n + 0x8 * m
def CAN_DS_STATE (n : Nat) (m : Nat) : Field := ⟨CAN_DS n m, 0, 3⟩
def CAN_DS_ONBUS (n : Nat) (m : Nat) : Field := ⟨CAN_DS n m, 3, 1⟩
def CAN_DS_ATT (n : Nat) (m : Nat) : Field := ⟨CAN_DS n m, 4, 8⟩
def CAN_DS_TAG (n : Nat) (m : Nat) : Field := ⟨CAN_DS n m, 16, 16⟩

/-- CAN_DT, R367. -/
def CAN_DT (n : Nat) (m : Nat) : Nat := 0x400B0084 + 0x4000 * n + 0x8 * m
def CAN_DT_TOUT (n : Nat) (m : Nat) : Field := ⟨CAN_DT n m, 0, 32⟩

/-- CAN_FID, R369. -/
def CAN_FID (n : Nat) (m : Nat) : Nat := 0x400B1000 + 0x4000 * n + 0x10 * m
def CAN_FID_ID (n : Nat) (m : Nat) : Field := ⟨CAN_FID n m, 0, 29⟩
def CAN_FID_IDE (n : Nat) (m : Nat) : Field := ⟨CAN_FID n m, 29, 1⟩
def CAN_FID_RTR (n : Nat) (m : Nat) : Field := ⟨CAN_FID n m, 30, 1⟩
def CAN_FID_FDF (n : Nat) (m : Nat) : Field := ⟨CAN_FID n m, 31, 1⟩

/-- CAN_FMSK, R369. -/
def CAN_FMSK (n : Nat) (m : Nat) : Nat := 0x400B1004 + 0x4000 * n + 0x10 * m
def CAN_FMSK_IDM (n : Nat) (m : Nat) : Field := ⟨CAN_FMSK n m, 0, 29⟩
def CAN_FMSK_IDEM (n : Nat) (m : Nat) : Field := ⟨CAN_FMSK n m, 29, 1⟩
def CAN_FMSK_RTRM (n : Nat) (m : Nat) : Field := ⟨CAN_FMSK n m, 30, 1⟩
def CAN_FMSK_FDFM (n : Nat) (m : Nat) : Field := ⟨CAN_FMSK n m, 31, 1⟩

/-- CAN_FACT, R369. -/
def CAN_FACT (n : Nat) (m : Nat) : Nat := 0x400B1008 + 0x4000 * n + 0x10 * m
def CAN_FACT_ACT (n : Nat) (m : Nat) : Field := ⟨CAN_FACT n m, 0, 2⟩

/-- THM_STS, R388. -/
def THM_STS : Nat := 0x400C0000
def THM_STS_ANYWARN : Field := ⟨THM_STS, 0, 1⟩
def THM_STS_ANYTHR : Field := ⟨THM_STS, 1, 1⟩
def THM_STS_ANYSHUT : Field := ⟨THM_STS, 2, 1⟩
def THM_STS_ANYBRK : Field := ⟨THM_STS, 3, 1⟩
def THM_STS_LSTEP : Field := ⟨THM_STS, 4, 2⟩
def THM_STS_ANYSTALE : Field := ⟨THM_STS, 6, 1⟩

/-- THM_STK, R388. -/
def THM_STK : Nat := 0x400C0004
def THM_STK_WARN : Field := ⟨THM_STK, 0, 1⟩
def THM_STK_THROT : Field := ⟨THM_STK, 1, 1⟩
def THM_STK_SHUT : Field := ⟨THM_STK, 2, 1⟩
def THM_STK_BROKEN : Field := ⟨THM_STK, 3, 1⟩
def THM_STK_TSTOP : Field := ⟨THM_STK, 4, 1⟩
def THM_STK_TIMM : Field := ⟨THM_STK, 5, 1⟩
def THM_STK_LSHUT : Field := ⟨THM_STK, 6, 1⟩
def THM_STK_STALE : Field := ⟨THM_STK, 7, 1⟩
def THM_STK_STEPUP : Field := ⟨THM_STK, 8, 1⟩

/-- THM_LCFG, R389. -/
def THM_LCFG : Nat := 0x400C0010
def THM_LCFG_TSTEP : Field := ⟨THM_LCFG, 0, 8⟩

/-- THM_ASTOP, R389. -/
def THM_ASTOP (n : Nat) : Nat := 0x400C0100 + 0x4 * n
def THM_ASTOP_TSTOP (n : Nat) : Field := ⟨THM_ASTOP n, 0, 16⟩

/-- THM_CFG, R389. -/
def THM_CFG (n : Nat) : Nat := 0x400C1000 + 0x10 * n
def THM_CFG_WARN (n : Nat) : Field := ⟨THM_CFG n, 0, 16⟩
def THM_CFG_THROT (n : Nat) : Field := ⟨THM_CFG n, 16, 16⟩

/-- THM_CSH, R389. -/
def THM_CSH (n : Nat) : Nat := 0x400C1004 + 0x10 * n
def THM_CSH_SHUT (n : Nat) : Field := ⟨THM_CSH n, 0, 16⟩

/-- THM_CHY, R389. -/
def THM_CHY (n : Nat) : Nat := 0x400C1008 + 0x10 * n
def THM_CHY_HYW (n : Nat) : Field := ⟨THM_CHY n, 0, 8⟩
def THM_CHY_HYT (n : Nat) : Field := ⟨THM_CHY n, 8, 8⟩
def THM_CHY_HYS (n : Nat) : Field := ⟨THM_CHY n, 16, 8⟩

/-- THM_PIN, R389. -/
def THM_PIN (n : Nat) : Nat := 0x400C3000 + 0x8 * n
def THM_PIN_TYPE (n : Nat) : Field := ⟨THM_PIN n, 0, 2⟩
def THM_PIN_OWNED (n : Nat) : Field := ⟨THM_PIN n, 2, 1⟩
def THM_PIN_AXIS (n : Nat) : Field := ⟨THM_PIN n, 3, 4⟩
def THM_PIN_BETA (n : Nat) : Field := ⟨THM_PIN n, 16, 16⟩

/-- THM_PIR, R389. -/
def THM_PIR (n : Nat) : Nat := 0x400C3004 + 0x8 * n
def THM_PIR_RNOM (n : Nat) : Field := ⟨THM_PIR n, 0, 32⟩

/-- THM_T, R390. -/
def THM_T (n : Nat) : Nat := 0x400C2000 + 0x4 * n
def THM_T_TEMP (n : Nat) : Field := ⟨THM_T n, 0, 16⟩
def THM_T_LEVEL (n : Nat) : Field := ⟨THM_T n, 16, 2⟩
def THM_T_BROKEN (n : Nat) : Field := ⟨THM_T n, 18, 1⟩
def THM_T_STALE (n : Nat) : Field := ⟨THM_T n, 19, 1⟩

/-- THM_BST, R390. -/
def THM_BST (n : Nat) : Nat := 0x400C2400 + 0x4 * n
def THM_BST_STEP (n : Nat) : Field := ⟨THM_BST n, 0, 2⟩
def THM_BST_CRIT (n : Nat) : Field := ⟨THM_BST n, 2, 1⟩
def THM_BST_TTS (n : Nat) : Field := ⟨THM_BST n, 16, 16⟩

/-- THM_PTS, R390. -/
def THM_PTS (n : Nat) : Nat := 0x400C2500 + 0x4 * n
def THM_PTS_TTS (n : Nat) : Field := ⟨THM_PTS n, 0, 16⟩

/-- FLT_STS, R424. -/
def FLT_STS : Nat := 0x400D0000
def FLT_STS_SAFE : Field := ⟨FLT_STS, 0, 1⟩
def FLT_STS_NOYLD : Field := ⟨FLT_STS, 1, 1⟩
def FLT_STS_ANYSTOP : Field := ⟨FLT_STS, 2, 1⟩

/-- FLT_STK, R424. -/
def FLT_STK : Nat := 0x400D0004
def FLT_STK_BLK : Field := ⟨FLT_STK, 0, 19⟩
def FLT_STK_SUPERS : Field := ⟨FLT_STK, 19, 1⟩
def FLT_STK_NOYIELD : Field := ⟨FLT_STK, 20, 1⟩
def FLT_STK_SAFEIN : Field := ⟨FLT_STK, 21, 1⟩
def FLT_STK_CMDIGN : Field := ⟨FLT_STK, 22, 1⟩
def FLT_STK_S2 : Field := ⟨FLT_STK, 23, 1⟩
def FLT_STK_SEEN1 : Field := ⟨FLT_STK, 24, 1⟩

/-- FLT_CMD, R424. -/
def FLT_CMD : Nat := 0x400D0008
def FLT_CMD_SAFECLR : Field := ⟨FLT_CMD, 0, 1⟩

/-- FLT_LSRC, R425. -/
def FLT_LSRC : Nat := 0x400D0010
def FLT_LSRC_SRC : Field := ⟨FLT_LSRC, 0, 8⟩
def FLT_LSRC_SEV : Field := ⟨FLT_LSRC, 8, 3⟩

/-- FLT_LCTX0, R425. -/
def FLT_LCTX0 : Nat := 0x400D0014
def FLT_LCTX0_CTX : Field := ⟨FLT_LCTX0, 0, 32⟩

/-- FLT_LCTX1, R425. -/
def FLT_LCTX1 : Nat := 0x400D0018
def FLT_LCTX1_CTX : Field := ⟨FLT_LCTX1, 0, 32⟩

/-- FLT_SEV, R425. -/
def FLT_SEV (n : Nat) : Nat := 0x400D0400 + 0x4 * n
def FLT_SEV_SEV (n : Nat) : Field := ⟨FLT_SEV n, 0, 3⟩
def FLT_SEV_REC (n : Nat) : Field := ⟨FLT_SEV n, 3, 1⟩
def FLT_SEV_MIN (n : Nat) : Field := ⟨FLT_SEV n, 4, 3⟩
def FLT_SEV_LOCAL (n : Nat) : Field := ⟨FLT_SEV n, 7, 1⟩

/-- FLT_CNT, R425. -/
def FLT_CNT (n : Nat) : Nat := 0x400D0800 + 0x4 * n
def FLT_CNT_COUNT (n : Nat) : Field := ⟨FLT_CNT n, 0, 16⟩

/-- FLT_WM, R425. -/
def FLT_WM (n : Nat) (m : Nat) : Nat := 0x400D2000 + 0x20 * n + 0x4 * m
def FLT_WM_MASK (n : Nat) (m : Nat) : Field := ⟨FLT_WM n m, 0, 32⟩

/-- FLT_WP, R425. -/
def FLT_WP (n : Nat) (m : Nat) : Nat := 0x400D3000 + 0x20 * n + 0x4 * m
def FLT_WP_PEND (n : Nat) (m : Nat) : Field := ⟨FLT_WP n m, 0, 32⟩

/-- PEAT_STS, R446. -/
def PEAT_STS : Nat := 0x400E0000
def PEAT_STS_BUSY : Field := ⟨PEAT_STS, 0, 1⟩
def PEAT_STS_WRAP : Field := ⟨PEAT_STS, 1, 1⟩

/-- PEAT_STK, R446. -/
def PEAT_STK : Nat := 0x400E0004
def PEAT_STK_LOST : Field := ⟨PEAT_STK, 0, 1⟩
def PEAT_STK_CLEARED : Field := ⟨PEAT_STK, 1, 1⟩
def PEAT_STK_FLERR : Field := ⟨PEAT_STK, 2, 1⟩

/-- PEAT_HEAD, R446. -/
def PEAT_HEAD : Nat := 0x400E0010
def PEAT_HEAD_SEQ : Field := ⟨PEAT_HEAD, 0, 32⟩

/-- PEAT_HELD, R446. -/
def PEAT_HELD : Nat := 0x400E0014
def PEAT_HELD_N : Field := ⟨PEAT_HELD, 0, 17⟩

/-- PEAT_RSEL, R446. -/
def PEAT_RSEL : Nat := 0x400E0020
def PEAT_RSEL_SEQ : Field := ⟨PEAT_RSEL, 0, 32⟩

/-- PEAT_RSTS, R446. -/
def PEAT_RSTS : Nat := 0x400E0024
def PEAT_RSTS_VALID : Field := ⟨PEAT_RSTS, 0, 1⟩
def PEAT_RSTS_GONE : Field := ⟨PEAT_RSTS, 1, 1⟩

/-- PEAT_FMCFG, R446. -/
def PEAT_FMCFG : Nat := 0x400E0080
def PEAT_FMCFG_STO : Field := ⟨PEAT_FMCFG, 0, 2⟩
def PEAT_FMCFG_RPER : Field := ⟨PEAT_FMCFG, 8, 8⟩

/-- PEAT_RDAT, R446. -/
def PEAT_RDAT (n : Nat) : Nat := 0x400E0040 + 0x4 * n
def PEAT_RDAT_DATA (n : Nat) : Field := ⟨PEAT_RDAT n, 0, 32⟩

/-- XLN_STS, R445. -/
def XLN_STS : Nat := 0x400F0000
def XLN_STS_PROLE : Field := ⟨XLN_STS, 0, 3⟩
def XLN_STS_CH0UP : Field := ⟨XLN_STS, 3, 1⟩
def XLN_STS_CH1UP : Field := ⟨XLN_STS, 4, 1⟩
def XLN_STS_CLAIM : Field := ⟨XLN_STS, 5, 1⟩
def XLN_STS_PCLAIM : Field := ⟨XLN_STS, 6, 1⟩
def XLN_STS_HOBUSY : Field := ⟨XLN_STS, 7, 1⟩

/-- XLN_STK, R445. -/
def XLN_STK : Nat := 0x400F0004
def XLN_STK_HASHMIS : Field := ⟨XLN_STK, 0, 1⟩
def XLN_STK_ROLE : Field := ⟨XLN_STK, 1, 1⟩
def XLN_STK_HOVER : Field := ⟨XLN_STK, 2, 1⟩
def XLN_STK_HOREF : Field := ⟨XLN_STK, 3, 1⟩
def XLN_STK_IMGDIF : Field := ⟨XLN_STK, 4, 1⟩
def XLN_STK_REPMIS : Field := ⟨XLN_STK, 5, 1⟩
def XLN_STK_CUFAIL : Field := ⟨XLN_STK, 6, 1⟩
def XLN_STK_YIELDIGN : Field := ⟨XLN_STK, 7, 1⟩
def XLN_STK_CHDN : Field := ⟨XLN_STK, 8, 1⟩

/-- XLN_CMD, R445. -/
def XLN_CMD : Nat := 0x400F0008
def XLN_CMD_SWAP : Field := ⟨XLN_CMD, 0, 1⟩

/-- XLN_FLAG, R445. -/
def XLN_FLAG : Nat := 0x400F0010
def XLN_FLAG_AXU : Field := ⟨XLN_FLAG, 0, 16⟩
def XLN_FLAG_MODU : Field := ⟨XLN_FLAG, 16, 1⟩

/-- XLN_HOLAST, R445. -/
def XLN_HOLAST : Nat := 0x400F0014
def XLN_HOLAST_CAUSE : Field := ⟨XLN_HOLAST, 0, 4⟩
def XLN_HOLAST_TO : Field := ⟨XLN_HOLAST, 4, 1⟩

/-- XLN_HOT, R445. -/
def XLN_HOT : Nat := 0x400F0018
def XLN_HOT_T : Field := ⟨XLN_HOT, 0, 32⟩

/-- XLN_CNT, R445. -/
def XLN_CNT : Nat := 0x400F001C
def XLN_CNT_MIS : Field := ⟨XLN_CNT, 0, 16⟩
def XLN_CNT_HO : Field := ⟨XLN_CNT, 16, 16⟩

/-- CRD_STS, R468. -/
def CRD_STS : Nat := 0x40100000
def CRD_STS_PRES : Field := ⟨CRD_STS, 0, 1⟩
def CRD_STS_SEAL : Field := ⟨CRD_STS, 1, 1⟩
def CRD_STS_SHUT : Field := ⟨CRD_STS, 2, 1⟩
def CRD_STS_BUSY : Field := ⟨CRD_STS, 3, 1⟩
def CRD_STS_OPEN : Field := ⟨CRD_STS, 4, 4⟩
def CRD_STS_TLEV : Field := ⟨CRD_STS, 8, 2⟩

/-- CRD_STK, R468. -/
def CRD_STK : Nat := 0x40100004
def CRD_STK_LOST : Field := ⟨CRD_STK, 0, 1⟩
def CRD_STK_CMDIGN : Field := ⟨CRD_STK, 1, 1⟩
def CRD_STK_CMDTO : Field := ⟨CRD_STK, 2, 1⟩
def CRD_STK_CMDREF : Field := ⟨CRD_STK, 3, 1⟩
def CRD_STK_DIFF : Field := ⟨CRD_STK, 4, 1⟩
def CRD_STK_SEALON : Field := ⟨CRD_STK, 5, 1⟩
def CRD_STK_AUDCHG : Field := ⟨CRD_STK, 6, 1⟩
def CRD_STK_IDCHG : Field := ⟨CRD_STK, 7, 1⟩
def CRD_STK_TWARN : Field := ⟨CRD_STK, 8, 1⟩
def CRD_STK_TINV : Field := ⟨CRD_STK, 9, 1⟩
def CRD_STK_DROP : Field := ⟨CRD_STK, 10, 1⟩

/-- CRD_VAL, R469. -/
def CRD_VAL : Nat := 0x40100030
def CRD_VAL_TV : Field := ⟨CRD_VAL, 0, 4⟩
def CRD_VAL_LV : Field := ⟨CRD_VAL, 4, 4⟩
def CRD_VAL_AGE : Field := ⟨CRD_VAL, 8, 8⟩

/-- CRD_ID, R469. -/
def CRD_ID : Nat := 0x40100034
def CRD_ID_LVER : Field := ⟨CRD_ID, 0, 16⟩
def CRD_ID_LCHK : Field := ⟨CRD_ID, 16, 16⟩

/-- CRD_AUD, R469. -/
def CRD_AUD : Nat := 0x40100038
def CRD_AUD_AUDIT : Field := ⟨CRD_AUD, 0, 32⟩

/-- CRD_CTMP, R469. -/
def CRD_CTMP : Nat := 0x4010003C
def CRD_CTMP_TEMP : Field := ⟨CRD_CTMP, 0, 16⟩

/-- CRD_CMD, R469. -/
def CRD_CMD : Nat := 0x40100040
def CRD_CMD_OP : Field := ⟨CRD_CMD, 0, 2⟩
def CRD_CMD_POINT : Field := ⟨CRD_CMD, 2, 2⟩

/-- CRD_CARG, R469. -/
def CRD_CARG : Nat := 0x40100044
def CRD_CARG_RSEQ : Field := ⟨CRD_CARG, 0, 32⟩

/-- CRD_CRES, R469. -/
def CRD_CRES : Nat := 0x40100048
def CRD_CRES_STATE : Field := ⟨CRD_CRES, 0, 2⟩
def CRD_CRES_RESULT : Field := ⟨CRD_CRES, 8, 8⟩
def CRD_CRES_CSEQ : Field := ⟨CRD_CRES, 16, 8⟩

/-- CRD_RSEQ, R469. -/
def CRD_RSEQ : Nat := 0x4010004C
def CRD_RSEQ_RSEQ : Field := ⟨CRD_RSEQ, 0, 32⟩

/-- CRD_RCHK, R469. -/
def CRD_RCHK : Nat := 0x401000C4
def CRD_RCHK_CRCOK : Field := ⟨CRD_RCHK, 0, 1⟩

/-- CRD_TEN, R469. -/
def CRD_TEN (n : Nat) : Nat := 0x40100010 + 0x4 * n
def CRD_TEN_TEN (n : Nat) : Field := ⟨CRD_TEN n, 0, 32⟩

/-- CRD_LEN, R469. -/
def CRD_LEN (n : Nat) : Nat := 0x40100020 + 0x4 * n
def CRD_LEN_LEN (n : Nat) : Field := ⟨CRD_LEN n, 0, 32⟩

/-- CRD_RDAT, R469. -/
def CRD_RDAT (n : Nat) : Nat := 0x40100080 + 0x4 * n
def CRD_RDAT_DATA (n : Nat) : Field := ⟨CRD_RDAT n, 0, 32⟩

/-- BST_STS, R447. -/
def BST_STS : Nat := 0x40110000
def BST_STS_STATE : Field := ⟨BST_STS, 0, 3⟩
def BST_STS_LANE : Field := ⟨BST_STS, 3, 1⟩

/-- BST_STK, R447. -/
def BST_STK : Nat := 0x40110004
def BST_STK_LFAIL : Field := ⟨BST_STK, 0, 1⟩
def BST_STK_MFAIL : Field := ⟨BST_STK, 1, 1⟩
def BST_STK_RDONE : Field := ⟨BST_STK, 2, 1⟩
def BST_STK_RLATE : Field := ⟨BST_STK, 3, 1⟩
def BST_STK_REFUSED : Field := ⟨BST_STK, 4, 1⟩

/-- BST_CMD, R447. -/
def BST_CMD : Nat := 0x40110008
def BST_CMD_RUN : Field := ⟨BST_CMD, 0, 2⟩
def BST_CMD_TGT : Field := ⟨BST_CMD, 2, 1⟩
def BST_CMD_RNOW : Field := ⟨BST_CMD, 3, 1⟩

/-- BST_RDEF, R447. -/
def BST_RDEF : Nat := 0x4011000C
def BST_RDEF_DEFER : Field := ⟨BST_RDEF, 0, 1⟩

/-- BST_GOLD, R447. -/
def BST_GOLD : Nat := 0x40110020
def BST_GOLD_LGOLD : Field := ⟨BST_GOLD, 0, 32⟩

/-- BST_GOLD2, R447. -/
def BST_GOLD2 : Nat := 0x40110024
def BST_GOLD2_MGOLD : Field := ⟨BST_GOLD2, 0, 32⟩

/-- BST_RNEXT, R447. -/
def BST_RNEXT : Nat := 0x40110028
def BST_RNEXT_TLO : Field := ⟨BST_RNEXT, 0, 32⟩

/-- BST_RNEXTH, R447. -/
def BST_RNEXTH : Nat := 0x4011002C
def BST_RNEXTH_THI : Field := ⟨BST_RNEXTH, 0, 32⟩

/-- BST_LSIG, R447. -/
def BST_LSIG (n : Nat) : Nat := 0x40110010 + 0x8 * n
def BST_LSIG_LSIG (n : Nat) : Field := ⟨BST_LSIG n, 0, 32⟩

/-- BST_MSIG, R447. -/
def BST_MSIG (n : Nat) : Nat := 0x40110014 + 0x8 * n
def BST_MSIG_MSIG (n : Nat) : Field := ⟨BST_MSIG n, 0, 32⟩

end Sys2Proof.Machine
end

