-- ==== Sys2Proof/Machine/State.lean ====
section
/-!
DEFINITION. The state of the KA-128 as plain data: two lanes, each with its register set, memories, cores and the run
data of its blocks; the cartridges, bricks and the Cord; the frame; the clock of edge ticks; and the queue of commands.
Every register of the manual's tables lives in `Lane.regs` under its address and is read and written by the operations
of Machine/Ops.lean; what the manual describes but gives no register stands in a field of its own here.
-/
namespace Sys2Proof.Machine

/-- A register set: rising addresses, no entry equal to the register's unlisted value. -/
abbrev Regs := List (Nat × Word)

/-! ## Rylin cores (chapter 2, R36 to R82) -/

/-- One entry of a loop stack: count left, body start, body end (R39, R62). -/
structure LoopFrame where
  count : Nat
  start : Nat
  fin   : Nat
  deriving DecidableEq, Repr

/-- What a task is doing: no job, a job that can run, a job waiting in WAITT for a tag, a job waiting in WEVT. -/
inductive Run where
  | idle
  | live
  | waitTag (rd : RegNo) (t : Fin 64)
  | waitEvt (rd : RegNo)
  deriving DecidableEq, Repr

/-- A task context (R39) with the job's bookkeeping: the commit buffer (R59, R105), releases since admission (MFS JOB),
the core cycle, ship time and edge tick of the job's release (MFS JCYC, RELLO, RELHI; R85), whether the job has missed
its commit instant (R107), and whether the task is in the active set (R84, R102, R103). -/
structure TaskCtx where
  w      : Vector Word 32
  p      : BitVec 8
  pc     : Nat
  calls  : List Nat
  loops  : List LoopFrame
  run    : Run
  buf    : List (Nat × Word)
  jobs   : Nat
  relC   : Nat
  relSh  : Nat
  relNow : Nat
  ovrun  : Bool
  act    : Bool
  deriving DecidableEq, Repr

/-- A task context at reset and at the first job after admission (R37). -/
def TaskCtx.zero : TaskCtx :=
  { w := Vector.replicate 32 0#32, p := 1#8, pc := 0, calls := [], loops := [], run := .idle, buf := [], jobs := 0,
    relC := 0, relSh := 0, relNow := 0, ovrun := false, act := false }

/-- A Rylin core: the loaded context, the 16 contexts of its store (R38), the lane cycle of its next issue, the cycle at
which each register's load result is written (R44), the round-robin position (R88), the release count of the job it holds and its store folds (R19): one for
each axis unit 0–15 and the module unit 16. -/
structure Core where
  cur   : Fin 16
  tasks : Vector TaskCtx 16
  cyc   : Nat
  avail : Vector Nat 32
  rr    : Nat
  cjob  : Nat
  folds : Vector Word 17
  deriving DecidableEq, Repr

/-- A core at reset. -/
def Core.zero : Core :=
  { cur := 0, tasks := Vector.replicate 16 TaskCtx.zero, cyc := 0, avail := Vector.replicate 32 0, rr := 0, cjob := 0,
    folds := Vector.replicate 17 0xFFFFFFFF#32 }

/-- The kinds of engine operation (R68). -/
inductive OpKind where
  | run | runc | preset | region | read
  deriving DecidableEq, Repr

/-- A tag of the lane's pool (R69 to R71): free; in use by a task whose operation has not completed, `orphan` when the
job that posted it has ended; or completed with its result word, still held. -/
inductive TagSt where
  | free
  | busy (core : Fin 4) (task : Fin 16) (kind : OpKind) (slot : Slot) (arg : Word) (orphan : Bool)
  | done (core : Fin 4) (task : Fin 16) (result : Word)
  deriving DecidableEq, Repr

/-! ## Faults, records, lane duplex (chapter 14) -/

/-- A graded raise that waits to become visible (R420): source, severity, context words and the FLT_STK bits it sets. -/
structure Raised where
  src  : Nat
  sev  : Nat
  ctx0 : Word
  ctx1 : Word
  stk  : Word
  deriving DecidableEq, Repr

/-- What the hardware did to a register in one core cycle (R8): the sticky bits it set or the counting field it advanced, as a
mask; of a counting field the register before, and its lowest bit. -/
structure CycEv where
  cyc  : Nat
  addr : Nat
  mask : Nat
  prev : Nat
  one  : Nat
  deriving DecidableEq, Repr

/-- The core cycle in which the hardware acts now, and what it did to registers in that cycle (R8). -/
structure CycRt where
  now : Nat
  evs : List CycEv
  deriving DecidableEq, Repr

/-- Nothing done yet. -/
def CycRt.zero : CycRt := { now := 0, evs := [] }

/-- One more event of the present core cycle; those of other cycles are dropped. -/
def CycRt.note (f : CycRt) (addr mask prev one : Nat) : CycRt :=
  { f with evs := { cyc := f.now, addr := addr, mask := mask, prev := prev, one := one } :: f.evs.filter fun e => e.cyc = f.now }

/-- The events of the present core cycle on the register at `a`. -/
def CycRt.at_ (f : CycRt) (a : Nat) : List CycEv := f.evs.filter fun e => e.cyc = f.now && e.addr = a

/-- The counting fields of the register at `a` have been read and cleared in the present core cycle: a further read in it finds them
so. -/
def CycRt.reread (f : CycRt) (a : Nat) : CycRt :=
  { f with evs := f.evs.map fun e => if e.addr = a then { e with prev := 0 } else e }

/-- Bookkeeping of R422 for one source: time of its latest Peat-log entry in edge ticks and the raises since it. -/
structure RepEnt where
  at_   : Nat
  count : Nat
  deriving DecidableEq, Repr

/-- A Peat-log or frame-memory entry (R439) without its CRC, which follows from the rest. -/
structure PeatEntry where
  time   : Nat
  seq    : Nat
  code   : Nat
  sev    : Nat
  lane   : LaneId
  kind   : Nat
  repcnt : Nat
  ctx0   : Word
  ctx1   : Word
  tb     : Nat
  deriving DecidableEq, Repr

/-- The state of one hash unit in a lane (R19, R20, R429, R435, R436): its latest hash, the reductions so far, the
consecutive matches, the reductions at which it mismatched, whether the self-check record since its latest match holds a
failure, and for a joining lane whether it has been copied and how often. -/
structure UnitSt where
  hash   : Option Word
  reds   : Nat
  matchN : Nat
  mis    : List Nat
  chk    : Bool
  copied : Bool
  copies : Nat
  deriving DecidableEq, Repr

/-- A hash unit at reset. -/
def UnitSt.zero : UnitSt :=
  { hash := none, reds := 0, matchN := 0, mis := [], chk := false, copied := false, copies := 0 }

/-- A command sent to the Cord (R460). -/
structure CordSend where
  op    : Nat
  point : Fin 4
  cseq  : Nat
  arg   : Word
  ship  : Nat
  deriving DecidableEq, Repr

/-- What a lane asks of the world outside it. The ACTIVE lane's requests act (R15); a yield acts by its own rule. -/
inductive LaneReq where
  | handover (cause : Nat)
  | yieldNamed (lane : LaneId)
  | claimDrop
  | frameMem (e : PeatEntry)
  | srel (mask : Nat)
  | output (o : Fin 32) (on : Bool)
  | compare (e : Fin 16) (at_ w : Nat)
  | pulse (e : Fin 16) (edges : List (Nat × Bool))
  | bist (run : Nat) (tgt : Bool)
  | rnow
  | cordCmd (cmd : CordSend)
  | linkShut (k : LinkNo)
  | safeIn
  | fault
  deriving DecidableEq, Repr

/-- The state of a planned hand-over (R431, R432): none; waiting for its conditions since an edge tick; HREQ sent; Tsw
named. -/
inductive Handover where
  | none
  | waiting (cause since : Nat)
  | hreq (cause at_ : Nat)
  | acked (cause tsw : Nat)
  deriving DecidableEq, Repr

/-- The frame: the compatibility code of its identity (R411), and frame memory (R441): STO configuration, rolling self-test period and due instant, the event ring (oldest first, at
most 256) and the ring head. -/
structure FrameMem where
  compat : BitVec 16
  sto   : Nat
  rper  : Nat
  rnext : Nat
  head  : Nat
  hcrc  : Word
  ring  : List PeatEntry
  deriving DecidableEq, Repr

/-- A protected service command that waits for the presence button (R437, R438), with what it carries. -/
inductive ProtCmd where
  | activation
  | peatClear
  | fmClear
  | stoConfig (cfg : BitVec 2)
  | forceRoles (lane : LaneId) (active : Bool)
  deriving DecidableEq, Repr

/-- A waiting protected command and the edge tick of its acceptance. -/
structure PresReq where
  cmd : ProtCmd
  since : Nat
  deriving DecidableEq, Repr

/-- A supply cartridge as its status lines show it (R407, R415). -/
structure Supply where
  inok  : Bool
  outok : Bool
  vin   : BitVec 16
  iout  : BitVec 8
  deriving DecidableEq, Repr

/-! ## Admission (chapter 3) and start-up (chapter 13) -/

/-- The declarations of the running image (R412): data top, declared sine tables, declared work items, writable regions. -/
structure Decl where
  dtop  : Nat
  tabs  : Nat
  items : List Nat
  wr    : List (Nat × Nat)
  deriving DecidableEq, Repr

/-- The declarations of an image without a declarations section (R412). -/
def Decl.default : Decl := { dtop := 0x01400000, tabs := 1, items := [], wr := [] }

/-- A runtime request in progress (R101). A deadline-message enable carries the slots it enables as a mask. -/
inductive Request where
  | axis (a : Axis)
  | inject (p : Fin 4)
  | deadline (p : CanPort) (mask : Nat)
  | item (i : Byte)
  deriving DecidableEq, Repr

/-! ## Legs, coppices, winding sets (chapter 4) -/

/-- One edge of a leg: its time and whether it goes low to high (R121). -/
structure LegEdge where
  t  : Int
  up : Bool
  deriving DecidableEq, Repr

/-- Run data of a leg: the trim in 1/256 edge ticks (R145), whether its gates are on in the frames being built, the edge
for the coming period relative to its start (R121), the commanded level, the recent edges in edge ticks of the time base
(R136, R138), the head and tail instants placed for the coming period's frame and the tail instant of the coming zone, the instant whose sample the present
period uses (R137), the sample used, the current formed (R141, R142) in mA, the measured leg voltage in mV (R159), the
dead-time corrections of both current signs in mV, and whether DMOD or MINP drove the duty to 0 or 1 (R146); of
a chopper leg, its fault, its periods without current (R241) and its duty (R240). -/
structure LegRt where
  tau    : Int
  gates  : Bool
  edge   : Option LegEdge
  lvl    : Bool
  hist   : List LegEdge
  head   : Option Int
  tail   : Option Int
  tailZ  : Option Int
  placed : Option Int
  smp    : Option Int
  cur    : Rat
  vm     : Option Int
  ecorP  : Rat
  ecorN  : Rat
  pinned : Bool
  chFlt  : Bool
  chN    : Nat
  duty   : Rat
  deriving DecidableEq, Repr

/-- A leg at reset. -/
def LegRt.zero : LegRt :=
  { tau := 0, gates := false, edge := none, lvl := false, hist := [], head := none, tail := none, tailZ := none, placed := none,
    smp := none, cur := 0, vm := none, ecorP := 0, ecorN := 0, pinned := false, chFlt := false, chN := 0, duty := 0 }

/-- Run data of a coppice: zero-sequence estimate and its age (R141), the DC-link voltage used in mV (R127), the latest
split of the set's currents per phase (R142), a return from LOST that waits for a carrier boundary (R227), and
whether it was active when the interleave was last formed (R146). -/
structure CopRt where
  i0    : Rat
  age0  : Nat
  vdc   : Rat
  share : List Rat
  back  : Bool
  inSet : Bool
  /-- the share weight of throttling as taken over at the latest set-point latch (R225, R379) -/
  wt    : Rat
  deriving DecidableEq, Repr

/-- A coppice at reset. -/
def CopRt.zero : CopRt := { i0 := 0, age0 := 0, vdc := 0, share := [], back := false, inSet := false, wt := 1 }

/-- Run data of a winding set, per unit: the currents used at the start of this period and of the one before (R142), the
voltage applied over the period before (R159), the voltage reference (R158), and the modulation index (R127). -/
structure SetRt where
  id  : Rat
  iq  : Rat
  id1 : Rat
  iq1 : Rat
  vd  : Rat
  vq  : Rat
  vdr : Rat
  vqr : Rat
  m   : Rat
  deriving DecidableEq, Repr

/-- A winding set at reset. -/
def SetRt.zero : SetRt := { id := 0, iq := 0, id1 := 0, iq1 := 0, vd := 0, vq := 0, vdr := 0, vqr := 0, m := 0 }

/-! ## The rotor observer (chapter 5) -/

/-- An instant with the angle and speed published for it (R170). -/
structure Fix where
  t  : Nat
  th : Nat
  w  : Rat
  deriving DecidableEq, Repr

/-- Run data of an axis's observer (R160 to R176). Angles `th` are in angle-word units, speeds per unit. -/
structure ObsRt where
  /-- the mode in force (R176), shown in OBS_EST at the publication instant -/
  mode   : Nat
  /-- a mode change that takes effect at the next period start (R176) -/
  nmode  : Option Nat
  /-- the governing angle and speed for the present period's start, and the mode they were taken in (R167) -/
  ang    : Nat
  w      : Rat
  pmode  : Nat
  th     : Rat
  /-- the governing angle at which the period's currents were taken, which a loss declared later does not move (R160, R170) -/
  angI   : Nat
  /-- the governing angle and the tracker's angle for the start of the period before (R142, R159, R160) -/
  ang1   : Nat
  th1    : Rat
  we     : Rat
  wi     : Rat
  eg     : Rat
  ed     : Rat
  res    : Rat
  eps    : Rat
  lam    : Rat
  /-- injection: running, phase, filter states, angle error, demodulated amplitude (R162, R163) -/
  injOn  : Bool
  phi    : Nat
  lpA    : List Rat
  lpB    : List Rat
  epsI   : Rat
  xAmp   : Rat
  /-- the offset of a source change still being reduced (R167) -/
  off    : Int
  /-- consecutive periods of the loss criteria and the instant each first held (R169, R170) -/
  nRes   : Nat
  nSlip  : Nat
  nX     : Nat
  fRes   : Option Fix
  fSlip  : Option Fix
  fX     : Option Fix
  /-- a loss to be declared at the set-point latch; the hold window: its latch and its fix (R169, R170) -/
  lost   : Option Fix
  hold   : Option (Nat × Fix)
  nRel   : Nat
  /-- the torque at which a ramp stands (R170, R173) and the torque at the declaration -/
  ramp   : Option Rat
  holdT  : Rat
  /-- active short circuit, and its end at the next carrier boundary (R170) -/
  asc    : Bool
  ascEnd : Bool
  /-- WASC as it was formed when active short circuit was chosen (R170) -/
  wasc   : Rat
  /-- acquisition: step, start of the decay wait, small-current periods, angles and magnitudes seen, tries (R172) -/
  acq    : Nat
  acqT   : Nat
  acqN   : Nat
  acqV   : List (Rat × Rat)
  tries  : Nat
  /-- acquisition follows a loss (R173); a running start is due; the axis sends pulses -/
  aftLoss : Bool
  runDue : Bool
  pulses : Bool
  /-- the polarity test: 0 none, then its period, the peaks, periods of small error, passed (R168) -/
  pol    : Nat
  polPos : Rat
  polNeg : Rat
  polN   : Nat
  polOk  : Bool
  /-- field weakening (R154) and six-step (R156) -/
  did    : Rat
  six    : Bool
  /-- the period's currents were formed in six-step (R150) -/
  sixRec : Bool
  /-- the set-point latch of a running start: no torque and no current asked for (R173) -/
  first  : Bool
  deriving DecidableEq, Repr

/-- An observer at reset. -/
def ObsRt.zero : ObsRt :=
  { mode := 0, nmode := none, ang := 0, w := 0, pmode := 0, th := 0, angI := 0, ang1 := 0, th1 := 0, we := 0, wi := 0, eg := 0, ed := 0, res := 0, eps := 0, lam := 0, injOn := false, phi := 0,
    lpA := [], lpB := [], epsI := 0, xAmp := 0, off := 0, nRes := 0, nSlip := 0, nX := 0, fRes := none, fSlip := none,
    fX := none, lost := none, hold := none, nRel := 0, ramp := none, holdT := 0, asc := false, ascEnd := false, wasc := 0,
    acq := 0, acqT := 0, acqN := 0, acqV := [], tries := 0, aftLoss := false, runDue := false, pulses := false,
    pol := 0, polPos := 0, polNeg := 0, polN := 0, polOk := false, did := 0, six := false, sixRec := false, first := false }

/-! ## Axes (chapters 3, 4, 7, 13) -/

/-- Run data of an axis that the manual describes but gives no register. -/
structure AxisRt where
  /-- the emergency state asked for at the next set-point latch (R249), by its code -/
  ask    : Option Nat
  /-- the length of the period before in edge ticks (R142, R159) -/
  tp1    : Nat
  /-- what the period's chain has formed and the publication at 60 % shows (R23, R24): the limits that bind T* or the voltage
  reference, and θ_enc − θ -/
  tlim   : Bool
  vlim   : Bool
  regl   : Bool
  pwrl   : Bool
  xerr   : Int
  /-- the start of the present period, its number, and whether it is a P period (R22, R119) -/
  t0     : Nat
  k      : Nat
  pper   : Bool
  /-- the sample cut-off and the set-point latch of the present period have passed -/
  cutDone : Bool
  latDone : Bool
  /-- chain work runs: from the set-point latch to EDGE out (R23, R220) -/
  chain  : Bool
  /-- the period's end has passed; the axis has periods (R404, R405); one more gates-off frame is due after banking (R403) -/
  ended   : Bool
  live    : Bool
  tailOut : Bool
  /-- a committed disable waits for its boundary (R403); the start's instant (R405) -/
  disReq : Bool
  startS : Option Nat
  /-- TAB, OVM and DMOD in force, taken from AXS_MOD at carrier boundaries (R125, R131) -/
  tab    : Nat
  ovm    : Nat
  dmod   : Nat
  /-- the overrun of this period was counted (R108) -/
  ovr    : Bool
  sets   : Vector SetRt 4
  obs    : ObsRt
  /-- tension feedback in use, whether its source is the Cord, and the offset of a change with the periods left (R236) -/
  ten    : Rat
  tenCrd : Bool
  tenOff : Rat
  tenN   : Nat
  /-- disturbance observer (R234): estimated speed, Tdh, and the part of iq_r the disturbance term caused (R235) -/
  wh     : Rat
  tdh    : Rat
  iqd    : Rat
  /-- T* in force, the torque R222 formed before the limits, and the same before a group shares it (R252) -/
  tstar  : Rat
  tref   : Rat
  treq   : Rat
  /-- stop regulator (R251, R252): ramp, held position, start of the zero-speed run, entry to BRAKING, the torque from
  which the release ramps -/
  ws     : Rat
  pHold  : Rat
  zeroT  : Option Nat
  brkT   : Option Nat
  relTq  : Option Rat
  /-- the limits the energy controller publishes (R242, R243): regenerative, motoring; absent when unlimited -/
  trg    : Option Rat
  tmo    : Option Rat
  /-- ride-through: its entry, and the start of the return ramp (R254) -/
  rideT  : Option Nat
  rideE  : Option Nat
  /-- the hedge: periods above TTRIP and SLIPT, and the conditions present at the latest check (R246) -/
  nTq    : Nat
  nSlip  : Nat
  hPrev  : Nat
  stop34 : Bool
  stopNy : Bool
  /-- flux braking (R245): the accumulator, running, its budget reached and not yet half recovered, and its power in kW -/
  fbAcc  : Rat
  fbOn   : Bool
  fbFull : Bool
  pfb    : Rat
  /-- IMSTOP was entered from QREL (R253) -/
  fromQr : Bool
  /-- the samples that the eight heave entries hold (ship time in ns, position, speed), and staleness (R237) -/
  hv     : Vector (Option (Nat × Int × Int)) 8
  hvOld  : Bool
  deriving DecidableEq, Repr

/-- An axis at reset. -/
def AxisRt.zero : AxisRt :=
  { ask := none, tp1 := 0, tlim := false, vlim := false, regl := false, pwrl := false, xerr := 0, t0 := 0, k := 0, pper := false, cutDone := false, latDone := false, chain := false, ended := true, live := false,
    tailOut := false, disReq := false, startS := none,
    tab := 0, ovm := 0, dmod := 0, ovr := false, sets := Vector.replicate 4 SetRt.zero, obs := ObsRt.zero,
    ten := 0, tenCrd := false, tenOff := 0, tenN := 0, wh := 0, tdh := 0, iqd := 0, tstar := 0, tref := 0, treq := 0, ws := 0,
    pHold := 0, zeroT := none, brkT := none, relTq := none, trg := none, tmo := none, rideT := none, rideE := none,
    nTq := 0, nSlip := 0, hPrev := 0, stop34 := false, stopNy := false, fbAcc := 0, fbOn := false, fbFull := false, pfb := 0, fromQr := false, hv := Vector.replicate 8 none, hvOld := false }

/-! ## Billet links and bricks (chapter 8) -/

/-- A leg's part of an EDGE frame (R271, R272): edge time, ACT, LMODE, LVL, and the placed instants. -/
structure FrameLeg where
  e     : Nat
  act   : Nat
  lmode : Nat
  lvl   : Bool
  sa    : Option Nat
  sb    : Option Nat
  deriving DecidableEq, Repr

/-- An EDGE frame (R271). `pstart` is held without the wrap modulo 2^32 that the word carries. -/
structure EdgeFrame where
  brick  : Nat
  hold   : Bool
  keep   : Bool
  seq    : Nat
  pstart : Nat
  tp     : Nat
  close  : Nat
  gprof  : Nat
  dt     : Nat
  legs   : List FrameLeg
  deriving DecidableEq, Repr

/-- One Billet link, both ends: the link cartridge's port state and the brick's (R262: 0 DOWN, 1 LOCKED, 2 TIMED, 3 UP), the
accepted delay measurements, latest last, rejections in a row, whether the 10 µs burst runs and the measurements accepted in it, the
latest echo number, whether its answer is awaited, and the instant at which it was sent (R266), consecutive /S/ that agreed (R267), at the brick the latest /P/ count, the
instant of the latest valid /P/, valid /P/ in a row and whether eight in a row have come since R269 last failed, the frame received for
the coming period, and consecutive valid frames while UP (R287). -/
structure PortRt where
  lst   : Nat
  bst   : Nat
  dls   : List Int
  rej   : Nat
  burst : Bool
  nAcc  : Nat
  echo  : Nat
  wait  : Bool
  eAt   : Option Nat
  agr   : Nat
  pn    : Option Nat
  pAt   : Nat
  pRun  : Nat
  pOk   : Bool
  seen  : Option EdgeFrame
  good  : Nat
  /-- the latest management frame that the link cartridge forwarded on this port, down and up (R381) -/
  mDn   : Option Nat
  mUp   : Option Nat
  /-- the latest /S/ sent, or the start of TIMED, and the /S/ sent since (R267) -/
  sAt   : Option Nat
  sN    : Nat
  deriving DecidableEq, Repr

/-- A port that is DOWN. -/
def PortRt.zero : PortRt :=
  { lst := 0, bst := 0, dls := [], rej := 0, burst := false, nAcc := 0, echo := 0, wait := false, eAt := none, agr := 0, pn := none, pAt := 0,
    pRun := 0, pOk := false, seen := none, good := 0, mDn := none, mUp := none, sAt := none, sN := 0 }

/-- A leg in its brick (R274): the LMODE in force, the commanded state, pending edges in edge ticks of the time base, the switches that
are commanded on, and the switch that goes on when the dead time is over. -/
structure BLeg where
  mode : Nat
  lvl  : Bool
  pend : List LegEdge
  hi   : Bool
  lo   : Bool
  on   : Option LegEdge
  deriving DecidableEq, Repr

/-- A leg whose gates are off. -/
def BLeg.zero : BLeg := { mode := 1, lvl := false, pend := [], hi := false, lo := false, on := none }

/-- A brick (chapter 8): the number it adopted (R286), its ports, whether it follows the secondary port (R287), whether its timebase is
set and whether a difference above 64 edge ticks ended its TIMED state (R267), the frame in force, its start and whether a period runs,
periods self-held in a row, gates off under R276, whether its gates were off since the latest PSTART, its legs, substitutions in a row,
whether R269 permits gates, latched desaturation and gate-supply faults, the instant of the latest valid frame, dead time and gate
profile in force (R274), the positions whose tail sample of the period before is valid, the SAMPLE frame of this period and of the one
before (R277), late frames (R273), word 0 of the latest management request, with its TAG, and the answer (R282), and the counters of R285 in the order W2 to
W11. -/
structure BrickRt where
  num    : Option (Fin 32)
  ports  : Vector PortRt 2
  fol    : Bool
  tbase  : Bool
  /-- the brick's timebase less the module's, in edge ticks (R267) -/
  tb     : Int
  untimed : Bool
  cur    : Option EdgeFrame
  pst    : Nat
  runs   : Bool
  selfN  : Nat
  off    : Bool
  idle   : Bool
  legs   : Vector BLeg 4
  subN   : Nat
  permit : Bool
  desat  : Nat
  gsup   : Nat
  lastV  : Nat
  lossCt : Bool
  dt     : Nat
  gprof  : Nat
  tails  : Nat
  smpC   : Option (List Word)
  smpP   : Option (List Word)
  lateN  : Nat
  done   : Option (Nat × List Word)
  cnt    : Vector Nat 10
  deriving DecidableEq, Repr

/-- A brick before its first link comes up. -/
def BrickRt.zero : BrickRt :=
  { num := none, ports := Vector.replicate 2 PortRt.zero, fol := false, tbase := false, tb := 0, untimed := false, cur := none, pst := 0,
    runs := false, selfN := 0, off := true, idle := true, legs := Vector.replicate 4 BLeg.zero, subN := 0, permit := false, desat := 0,
    gsup := 0, lastV := 0, lossCt := false, dt := 0, gprof := 0, tails := 0, smpC := none, smpP := none, lateN := 0, done := none,
    cnt := Vector.replicate 10 0 }

/-- A link cartridge: the lane its selector names (R15), whether it inserts /P/, the latest count (R268), whether its
transmitters are off (R386, R399), and whether it has shut down (R386, R387). -/
structure LinkRt where
  sel  : LaneId
  send : Bool
  n    : Nat
  dark : Bool
  shut : Bool
  deriving DecidableEq, Repr

/-- A link cartridge at reset. -/
def LinkRt.zero : LinkRt := { sel := .A, send := false, n := 0, dark := false, shut := false }

/-- A management request of the program that waits for its answer (R283, R291): brick, opcode, argument, TAG, T1 ticks since it was
sent, and the answer consumed: result and payload. -/
structure MReq where
  brick : Fin 32
  op    : Nat
  arg   : Nat
  tag   : Nat
  ticks : Nat
  ans   : Option (Nat × List Word)
  deriving DecidableEq, Repr

/-- Discovery of a brick in a lane (R286): 0 nothing due, 1 IDENT due, 2 IDENT sent, 3 CAL due, 4 CAL sent; the request's TAG, T1 ticks
since the request, the answer consumed, the IDENT payload, and whether the checks were passed. -/
structure DiscRt where
  step  : Nat
  tag   : Nat
  ticks : Nat
  ans   : Option (Option (List Word))
  ident : List Word
  ok    : Bool
  deriving DecidableEq, Repr

/-- What a lane holds of a brick (R271, R277 to R282, R288): SEQ of the frame sent last, of the frame for the present period and of the
one before it, the frame sent last, the intact copies that wait for consumption, the management answers that wait for a T1 tick, frames
discarded as invalid by each port and late copies since the registers were updated, periods since an intact copy came by each port, the
latest STATUS, the DC-link voltage in mV of the present period, the four temperatures with their broken bits, the band
decided until it takes effect (R133), the dead time of the band before and the edge tick since which the band is in force
(R136), and discovery. -/
structure RxRt where
  seqN  : Nat
  seqC  : Nat
  seqP  : Nat
  sent  : Option EdgeFrame
  pri   : Option (List Word)
  sec   : Option (List Word)
  mpri  : List (List Word)
  msec  : List (List Word)
  crc0  : Nat
  crc1  : Nat
  lateN : Nat
  age0  : Nat
  age1  : Nat
  stat  : Nat
  vdc   : Option Int
  temps : List Int
  tbrk  : Nat
  band  : Option Nat
  dt0   : Nat
  bandT : Nat
  disc  : DiscRt
  deriving DecidableEq, Repr

/-- A brick's data in a lane at reset. -/
def RxRt.zero : RxRt :=
  { seqN := 0, seqC := 0, seqP := 0, sent := none, pri := none, sec := none, mpri := [], msec := [], crc0 := 0, crc1 := 0, lateN := 0,
    age0 := 4, age1 := 4, stat := 0, vdc := none, temps := [], tbrk := 0, band := none, dt0 := 0, bandT := 0,
    disc := { step := 0, tag := 0, ticks := 0, ans := none, ident := [], ok := false } }

/-! ## Field cartridges (chapters 9, 10) -/

/-- What a field cartridge does at an instant to come (R307, R324): an output switch, a compare output, one edge of a pulse output. -/
inductive OutEv where
  | sw (j : Fin 16) (on : Bool)
  | xc (j : Fin 8) (on : Bool)
  | pulse (j : Fin 8) (up : Bool)
  deriving DecidableEq, Repr

/-- A field cartridge: the lane its selector names (R15), whether it is in SAFE, the safe-state codes and the time-out in edge ticks
loaded into it, the edge tick of the latest valid frame from that lane and whether a silence has been reached and not yet reported
(R327, R328), its output switches with the instants of their latest commands, what is to come at its outputs (R307, R324), its input
stages (R317) and readback levels (R325), its STO channels, the instant since which they differ, and the latched discrepancy (R329,
R330), the compare outputs that are high (R308) and the counts its pulse outputs have put out (R311), the readings of the latest pulsed
window with the end of the field frame that carries them (R319), and the end of the latest field frame consumed (R16). -/
structure FieldRt where
  sel   : LaneId
  safe  : Bool
  table : Option (List Nat)
  tout  : Nat
  heard : Nat
  mute  : Bool
  out   : BitVec 16
  outT  : Vector Nat 16
  pend  : List (Nat × OutEv)
  stage : BitVec 32
  rbs   : BitVec 16
  stoA  : Bool
  stoB  : Bool
  difAt : Option Nat
  disc  : Bool
  xc    : BitVec 8
  px    : Vector Int 8
  win   : Option (Nat × List LineLevel)
  fend  : Nat
  deriving DecidableEq, Repr

/-- A field cartridge after its own power-up (R327): in SAFE, every output off, no table. -/
def FieldRt.zero : FieldRt :=
  { sel := .A, safe := true, table := none, tout := 0, heard := 0, mute := false, out := 0#16, outT := Vector.replicate 16 0, pend := [],
    stage := 0#32, rbs := 0#16, stoA := false, stoB := false, difAt := none, disc := false, xc := 0#8, px := Vector.replicate 8 0,
    win := none, fend := 0 }

/-- A filtered line (R294, R318): its raw level, the clocks it has held it, and the filter's output. -/
structure LineRt where
  raw  : Bool
  held : Nat
  flt  : Bool
  deriving DecidableEq, Repr

/-- A line at reset: low. -/
def LineRt.zero : LineRt := { raw := false, held := 0, flt := false }

/-- An SSI transfer in progress (R298): its start, the data level then, the later changes of the filtered data line with their
clocks, and whether a repeated frame fell into it. Times are Field clocks of the time base. -/
structure SsiRt where
  t0   : Nat
  lv0  : Bool
  chg  : List (Nat × Bool)
  gap  : Bool
  deriving DecidableEq, Repr

/-- The words of a compare's registers CMP, CMC and CINC (R314). -/
structure CmpSet where
  cmp  : Word
  cmc  : Word
  cinc : Word
  deriving DecidableEq, Repr

/-- A commit to the compare of a channel (R310): its instant, and the words committed. -/
structure CmpCommit where
  at_  : Nat
  cmp  : Option Word
  cmc  : Option Word
  cinc : Option Word
  deriving DecidableEq, Repr

/-- Run data of a feedback channel (chapter 9): the lines A or H1, B or H2, Z or H3, probe, data; the reference Cidx (R296) and a
correction with the Field clock at which it is due (R297); sample points, newest first, as count and Field clock (R302); quadrature
errors in this T1 interval, frames with a bad line in a row, frames over which an illegal Hall state has stood (R304); whether the supply
is out of range; the SSI transfers in progress, failing words in a row, the last good field (R299); the last legal Hall state (R300) and the time
stamp of SSI and Hall channels; the commit instants of PARM whose edge has not come (R306); the compare's setting at the latest consumption and the
commits since (R310), the end of XC (R308); the pulse output: target, remainder, output count, the earliest instant of its next edge,
and the ratios committed with their instants, newest first (R311); the counted motion of the frame under way, and a gap at speed
(R303). -/
structure ChanRt where
  lines  : Vector LineRt 5
  cidx   : Option Int
  corr   : Option (Nat × Int)
  pts    : List (Int × Nat)
  nQ     : Nat
  nOpen  : Nat
  nHall  : Nat
  supply : Bool
  ssi    : List SsiRt
  nBad   : Nat
  good   : Option Nat
  hall   : Option Nat
  ts     : Nat
  arms   : List Nat
  cbase  : Option CmpSet
  cmpQ   : List CmpCommit
  xcEnd  : Option Nat
  pTgt   : Int
  pRem   : Int
  pOut   : Int
  pNext  : Nat
  rats   : List (Nat × Nat)
  moves  : List (Nat × Int)
  gapV   : Bool
  deriving DecidableEq, Repr

/-- A feedback channel after admission. -/
def ChanRt.zero : ChanRt :=
  { lines := Vector.replicate 5 LineRt.zero, cidx := none, corr := none, pts := [], nQ := 0, nOpen := 0, nHall := 0, supply := false,
    ssi := [], nBad := 0, good := none, hall := none, ts := 0, arms := [], cbase := none, cmpQ := [],
    xcEnd := none, pTgt := 0, pRem := 0, pOut := 0, pNext := 0, rats := [], moves := [], gapV := false }

/-- Run data of an input (R318 to R322): its filtered line, the class of the latest readings (0 off, 1 on, 2 broken, 3 none) and how
many agreed, rising edges as Field clocks, oldest first, and the instant of the latest counter clear. -/
structure InRt where
  line  : LineRt
  cls   : Nat
  n     : Nat
  rise  : List Nat
  clrAt : Nat
  freq  : Rat
  deriving DecidableEq, Repr

/-- An input after admission. -/
def InRt.zero : InRt := { line := LineRt.zero, cls := 3, n := 0, rise := [], clrAt := 0, freq := 0 }

/-- Run data of an output (R326): whether it reported current limit at the latest consumption, limit entries since the retry count last
returned to 0, and the edge ticks since which it has read back high while off, read back low while on with its group supplied and no
limit, and been on without limit; `hiC` is the latest consumption at which it read back high while off. -/
structure OutRt where
  lim  : Bool
  lims : Nat
  hiT  : Option Nat
  hiC  : Nat
  lowT : Option Nat
  okT  : Option Nat
  deriving DecidableEq, Repr

/-! ## The loop engine (chapter 6) -/

/-- Run data of a slot: state mantissas and their stage exponent (R186), the words of the latest sample, the region in
force, the clamps that count in satprev from the slot's own output (`cU`, `cL`) and from outside (`xU`, `xL`, R184), how the
latest sample was limited (`lU`, `lL`), the
saturation run (R215), the slot fault (R216), a pending PRESET or REGION (R199, R207), whether a committed change from MANUAL
to AUTO awaits its sample (R201), whether the next sample seeds the ramp (R200), a committed CLR that waits, the output received with
the resynchronisation traffic of a flagged unit, the one from which the first sample after a hand-over transfers (R204), the
errors its state words carry (I, s1 to s3, R198), and the values it published last by their codes of R212. -/
structure SlotRt where
  mI    : Int
  m1    : Int
  m2    : Int
  m3    : Int
  es    : Int
  x     : Word
  v     : Word
  y     : Word
  r     : Word
  d     : Word
  u     : Word
  reg   : Nat
  cU    : Bool
  cL    : Bool
  lU    : Bool
  lL    : Bool
  xU    : Bool
  xL    : Bool
  sat   : Bool
  satN  : Nat
  satHit : Bool
  fault : Bool
  preset : Option Word
  regReq : Option Nat
  toAuto : Bool
  seed  : Bool
  clr   : Bool
  rcvY  : Option Word
  hoY   : Option Word
  ecc   : Vector Ecc 4
  pub   : List Word
  deriving DecidableEq, Repr

/-- A slot after admission (R186, R200): ES −32, states zero, the first sample seeds the ramp. -/
def SlotRt.zero : SlotRt :=
  { mI := 0, m1 := 0, m2 := 0, m3 := 0, es := -32, x := 0xE0#32, v := 0xE0#32, y := 0xE0#32, r := 0xE0#32,
    d := 0xE0#32, u := 0xE0#32, reg := 0, cU := false, cL := false, lU := false, lL := false, xU := false,
    xL := false, sat := false, satN := 0,
    satHit := false, fault := false, preset := none, regReq := none, toAuto := false, seed := true, clr := false,
    rcvY := none, hoY := none, ecc := Vector.replicate 4 .none, pub := [] }

/-- The inputs of a stage taken at the set-point latch or at the POST (R192): set-point value, feedback value, the
scheduling variables of its slots in Q16.16, and whether a word among those lay outside the signal range (R188). -/
structure StageIn where
  spv : Word
  fb  : Word
  sch : List Int
  rng : Bool
  deriving DecidableEq, Repr

/-- A posted operation that waits for the engine (R198). -/
structure EngOp where
  tag : Fin 64
  inp : StageIn
  deriving DecidableEq, Repr

/-- Run data of an injection point (R209, R210): started and waiting for its slot's first sample, to be stopped at the
next one, samples since the start, chirp phase, shift register and sequence bit. -/
structure InjRt where
  pend : Bool
  stop : Bool
  n    : Nat
  phi  : Nat
  sr   : Nat
  sbit : Bool
  deriving DecidableEq, Repr

/-- An injection point at rest. -/
def InjRt.zero : InjRt := { pend := false, stop := false, n := 0, phi := 0, sr := 0, sbit := false }

/-- Run data of the capture (R212 to R214): records written since ARM, periods of the clocking axis since the latest
record, the value of channel 0 at the latest record, a trigger seen since then, records still to come, and the trigger's
ring position, ship time and period. -/
structure CapRt where
  n    : Nat
  div  : Nat
  prev : Option Word
  hit  : Bool
  left : Nat
  pos  : Nat
  time : Nat
  tp   : Nat
  deriving DecidableEq, Repr

/-- Capture at rest. -/
def CapRt.zero : CapRt := { n := 0, div := 0, prev := none, hit := false, left := 0, pos := 0, time := 0, tp := 0 }

/-! ## Buses and groups (chapter 7) -/

/-- Run data of a DC bus (R238 to R245): voltage in mV and at the run before, firing,
consecutive runs above VRTX, whether step 3 of the ladder is in force, and chopper-faulty and the chopper's duty as the latest run
formed them. -/
structure BusRt where
  v     : Rat
  vPrev : Rat
  firing : Bool
  nUp   : Nat
  flx   : Bool
  chf   : Bool
  duty  : Rat
  deriving DecidableEq, Repr

/-- A bus at reset. -/
def BusRt.zero : BusRt := { v := 0, vPrev := 0, firing := false, nUp := 0, flx := false, chf := false, duty := 0 }

/-- Run data of a shaft group (R229 to R233): the axis that leads now (none before the first start), the demand last formed with the
members' shares and the limits that cut them, the same as published at 60 % of the lead's period (R224), and the members removed
from the share (R232, R233). A cut names its limit as `formT` does. -/
structure GrpRt where
  lead  : Option Axis
  tg    : Rat
  /-- the disturbance part of the demand as formed, and as published with it (R231, R235) -/
  dN    : Rat
  dP    : Rat
  shareN : List Rat
  cutN  : List (Option Nat)
  tgP   : Rat
  share : List Rat
  cut   : List (Option Nat)
  gone  : Nat
  deriving DecidableEq, Repr

/-- A group at reset. -/
def GrpRt.zero : GrpRt := { lead := none, tg := 0, dN := 0, dP := 0, shareN := [], cutN := [], tgP := 0, share := [], cut := [], gone := 0 }

/-! ## Temperature (chapter 12) -/

/-- Run data of a sensor (R371 to R383): the latest reading (absent before the first; `some none` broken), whether one has
arrived since the latest grading, T1 ticks since the latest, of a lane diode the reading sent over XLN for the next tick (R371), whether
its silence of 10 ticks has been recorded (R374), TEMP at the latest 1,001 T1 ticks, newest first (R382), and the
axes for which a thermal stop was decided (R383). -/
structure SensRt where
  got   : Option (Option Int)
  fresh : Bool
  age   : Nat
  sent  : Reading
  mute  : Bool
  hist  : List Int
  dec   : Nat
  deriving DecidableEq, Repr

/-- A sensor at reset. -/
def SensRt.zero : SensRt := { got := none, fresh := false, age := 0, sent := .missing, mute := false, hist := [], dec := 0 }

/-- The timer of a throttle step (R377): whether its object stood at throttle or above at its latest grading, and the instant of the
latest crossing or change of the step. -/
structure StepRt where
  hot : Bool
  at_ : Nat
  deriving DecidableEq, Repr

/-! ## CAN ports (chapter 11) -/

/-- A frame to be sent: its words, the deadline and the start limit L in ship time ns (R353), when it was placed and in which
order, whether it has begun, and its failed attempts (R351, R354). L need not fall on a whole ns: Dmax is in bit times. -/
structure TxFrame where
  w0    : Word
  w1    : Word
  data  : List Word
  dl    : Nat
  lim   : Rat
  ord   : Nat
  at_   : Nat
  begun : Bool
  att   : Nat
  deriving DecidableEq, Repr

/-- Run data of a port (chapter 11): FULL entries of each queue in the order of their sequence numbers, oldest first, OWNED
entries, the next sequence numbers (R346), the FIFO with its head first (R351), the frames of the deadline slots (R352), the
internal slot of the time service (R362), the order number of the next frame placed, the candidate in the engine (R350), those withdrawn lately and the
instants of it (R340), the frame reported begun with its SOF, the
identifier of the latest failed attempt with a bit error after arbitration (R358); of the time service the SOFs of the
references received, in edge ticks, by sender priority, accepted pairs, pairs within 1 µs in a row, the instant of the latest pair, the ship time of the
own previous reference, the instant of the latest reference of higher priority, and the multiple of REFPER served last (R361 to R363); and whether the cartridge is
silent, so that the engine has no candidate (R341). -/
structure CanRt where
  full0 : List Nat
  own0  : List Nat
  full1 : List Nat
  own1  : List Nat
  seq0  : Nat
  seq1  : Nat
  fifo  : List TxFrame
  slots : Vector (Option TxFrame) 8
  refF  : Option TxFrame
  ord   : Nat
  cand  : Option TxObj
  gone  : List (TxObj × Nat)
  run   : Option (TxObj × Nat)
  col   : Option Word
  refs  : Vector (Option Nat) 8
  pairs : Nat
  good  : Nat
  pairAt : Option Nat
  ownSof : Option Nat
  refAt : Option Nat
  refM  : Option Nat
  quiet : Bool
  deriving DecidableEq, Repr

/-- A port at reset. -/
def CanRt.zero : CanRt :=
  { full0 := [], own0 := [], full1 := [], own1 := [], seq0 := 0, seq1 := 0, fifo := [], slots := Vector.replicate 8 none,
    refF := none, ord := 0, cand := none, gone := [], run := none, col := none, refs := Vector.replicate 8 none, pairs := 0, good := 0, pairAt := none,
    ownSof := none, refAt := none, refM := none, quiet := false }

/-! ## The Cord (chapter 15) -/

/-- An open transaction (R461, R463): its record number, TSTART, the Cord's time at its start, the product in J, net and gross
lengths in µm, the highest valid tension in N (none before a valid sample), and INV. -/
structure CordTx where
  rseq  : Nat
  start : Nat
  t0    : Nat
  w     : Rat
  net   : Int
  gross : Int
  peak  : Option Int
  inv   : Bool
  deriving DecidableEq, Repr

/-- An audit-log entry (R456): the audit counter, the parameter and channel, the old and new values, and the operating time in
seconds; of a software update the old and new LVER and LCHK. -/
inductive AudEntry where
  | par (audit : Nat) (p : LegalPar) (ch : Fin 4) (old new : Word) (time : Nat)
  | sw (audit : Nat) (old new : Word) (time : Nat)
  deriving DecidableEq, Repr

/-- What the calibration port answered last (R455). -/
inductive CalAns where
  | none
  | ok
  | err (k : Nat)
  | id (lver lchk : BitVec 16) (serial : Word) (audit : Nat)
  | par (value : Word) (staged : Option Word)
  | aud (e : Option AudEntry)
  deriving DecidableEq, Repr

/-- A payout channel's quadrature decoder (R451): the levels its filters give for A and B, and for how many clocks each line has
differed from them. -/
structure QuadRt where
  a  : Bool
  b  : Bool
  na : Nat
  nb : Nat
  deriving DecidableEq, Repr

/-- The Cord: whether it has supply, has stopped under R467 and must cool below 95 °C; its operating time in ms of its own
oscillator; serial number, LVER, LCHK and the code image it covers (R449); audit counter and log; legal parameters in force, by parameter in the order of R454 and
channel, and staged values; the seal jumper; the frame number; cumulative counts, the decoders that form them, and which payout channels were valid (R451); temperature level; what the channels gave in the latest
millisecond; open transactions; the record store, oldest first, each with whether it was returned (R464); the next record number; the commands
that wait on the two command paths; the latest command carried out and the ship time of the latest one received; the answer
words 12 to 30 of the result frames; content discarded on the paths; and the calibration port's answer. -/
structure CordRt where
  on      : Bool
  stopped : Bool
  shut    : Bool
  time    : Nat
  serial  : Word
  lver    : BitVec 16
  lchk    : BitVec 16
  code    : List Byte
  audit   : Nat
  alog    : List AudEntry
  par     : Vector (Vector Word 4) 7
  staged  : List (LegalPar × Fin 4 × Word)
  jumper  : Bool
  fseq    : Nat
  cnt     : Vector Int 4
  quad    : Vector QuadRt 4
  lval    : BitVec 4
  tlev    : Nat
  meas    : CordMeas
  opens   : Vector (Option CordTx) 4
  store   : List (List Word × Bool)
  nextSeq : Nat
  pathA   : Option CordSend
  pathB   : Option CordSend
  last    : Option CordSend
  lastShip : Nat
  answer  : List Word
  bad     : Nat
  cal     : CalAns
  deriving DecidableEq, Repr

/-- The Cord before its first power-on (see the assumption log for the values the manual gives none for). -/
def CordRt.zero : CordRt :=
  { on := false, stopped := false, shut := false, time := 0, serial := 0#32, lver := 0#16, lchk := 0xFFFF#16, code := [], audit := 0, alog := [],
    par := Vector.replicate 7 (Vector.replicate 4 0#32), staged := [], jumper := false, fseq := 0, cnt := Vector.replicate 4 0, quad := Vector.replicate 4 { a := false, b := false, na := 0, nb := 0 }, lval := 0#4,
    tlev := 0, meas := { sig := [], ab := [], tv := [], lv := [], temp := none }, opens := Vector.replicate 4 none, store := [], nextSeq := 0, pathA := none, pathB := none,
    last := none, lastShip := 0, answer := [], bad := 0, cal := .none }

/-- A scale of ship time (R339, R363): the edge tick from which it stands, ship time there, the rate correction, and a slew's ns and
edge ticks left there. -/
structure ShipMark where
  at_  : Nat
  ship : Rat
  rate : Int
  ns   : Rat
  t    : Nat
  deriving DecidableEq, Repr

/-- One lane (chapter 1): its identity, whether its logic runs, its registers (R6), what the hardware did to them in the present core cycle (R8), memory bytes (R40), latent memory
errors by word address (R46), cores, tags, the queue of posted engine operations (R198), declarations, flash banks and
running image (R411), the runtime request in progress with its commit instant (R101), the
axes whose start the image set and that wait for their bricks (R416), the active work items, the edge tick at which the
time base last started at 0 (R393, R401), the T1 release count (R83), raises not yet visible (R420), repeat bookkeeping (R422), Peat log and entries waiting for flash
(R439, R440), a DORM request (R398), domains idle over the T1 interval and PLL attempts (R396), hash units (R19),
times of self-check yields (R435), a wait for the peer and its start (R427), S6 in force (R417), ship time in ns with its rate correction in 10^−12 and a
slew in progress as ns and edge ticks left (R363, R395), the scales of ship time of late with their starts (R339), Ember's copy of it
with the quarter edge ticks since the latest Ember tick (R395), the ECC exceptions in the exception counts of each core (R421), requests
to the world outside; and the run data of the blocks. -/
structure Lane where
  ident    : LaneId
  powered  : Bool
  regs     : Regs
  cyc      : CycRt
  mem      : List Host.Cell
  ecc      : List (Nat × Ecc)
  cores    : Vector Core 4
  tags     : Vector TagSt 64
  engq     : List EngOp
  decl     : Decl
  banks    : Vector (Option Image) 2
  image    : Option Image
  request  : Option (Request × Nat)
  starts   : List Nat
  items    : List Nat
  tb0      : Nat
  t1n      : Nat
  vis      : List Raised
  late     : List (Nat × Nat)
  rep      : List (Nat × RepEnt)
  peat     : List PeatEntry
  peatQ    : List PeatEntry
  dormReq  : Bool
  wasIdle  : BitVec 9
  pllTry   : BitVec 9
  pllBad   : BitVec 9
  units    : Vector UnitSt 17
  yields   : List Nat
  waitPeer : Bool
  bootLeft : Option Nat
  ship     : Rat
  shipRate : Int
  slewNs   : Rat
  slewT    : Nat
  shipLog  : List ShipMark
  emb      : Nat
  embShip  : Rat
  eccN     : Vector Nat 4
  out      : List LaneReq

  axes     : Vector AxisRt 16
  legs     : Vector LegRt 128
  cops     : Vector CopRt 32
  rx       : Vector RxRt 32
  slots    : Vector SlotRt 256
  inj      : Vector InjRt 4
  cap      : CapRt
  buses    : Vector BusRt 8
  grps     : Vector GrpRt 8
  di       : BitVec 64
  chans    : Vector ChanRt 16
  ins      : Vector InRt 64
  outs     : Vector OutRt 32
  fage     : Vector Nat 2
  crdIn    : List (List Word)
  crdTicks : Nat
  crdFrom  : Nat
  crdSeen  : Bool
  cans     : Vector CanRt 4
  sens     : Vector SensRt 150
  lsteps   : Vector Nat 2
  ltimes   : Vector StepRt 2
  btimes   : Vector StepRt 32
  shut     : Bool
  shutAt   : Nat
  dormAt   : Nat
  memBad   : Bool
  waitAt   : Nat
  safe     : Bool
  mreq     : Option MReq
  mtag     : Nat
  deriving DecidableEq, Repr

/-- A lane at reset: off, every register at its reset value, memories unlisted. -/
def Lane.zero (i : LaneId) : Lane :=
  { ident := i, powered := false, regs := [], cyc := CycRt.zero, mem := [], ecc := [], cores := Vector.replicate 4 Core.zero,
    tags := Vector.replicate 64 .free, engq := [], decl := Decl.default, banks := Vector.replicate 2 none, image := none,
    request := none, starts := [], items := [], tb0 := 0, t1n := 0, vis := [], late := [], rep := [], peat := [], peatQ := [], dormReq := false,
    wasIdle := 0#9, pllTry := 0#9, pllBad := 0#9, units := Vector.replicate 17 UnitSt.zero, yields := [], waitPeer := false, bootLeft := none,
    ship := 0, shipRate := 0, slewNs := 0, slewT := 0, shipLog := [], emb := 0, embShip := 0, eccN := Vector.replicate 4 0, out := [], axes := Vector.replicate 16 AxisRt.zero,
    legs := Vector.replicate 128 LegRt.zero, cops := Vector.replicate 32 CopRt.zero,
    rx := Vector.replicate 32 RxRt.zero,
    slots := Vector.replicate 256 SlotRt.zero, inj := Vector.replicate 4 InjRt.zero, cap := CapRt.zero,
    buses := Vector.replicate 8 BusRt.zero, grps := Vector.replicate 8 GrpRt.zero, di := 0#64,
    chans := Vector.replicate 16 ChanRt.zero, ins := Vector.replicate 64 InRt.zero,
    outs := Vector.replicate 32 { lim := false, lims := 0, hiT := none, hiC := 0, lowT := none, okT := none }, fage := Vector.replicate 2 0,
    crdIn := [], crdTicks := 0, crdFrom := 0, crdSeen := false, cans := Vector.replicate 4 CanRt.zero, sens := Vector.replicate 150 SensRt.zero, lsteps := Vector.replicate 2 0
    ltimes := Vector.replicate 2 { hot := false, at_ := 0 }, btimes := Vector.replicate 32 { hot := false, at_ := 0 }, shut := false, shutAt := 0, dormAt := 0, memBad := false, waitAt := 0, safe := false, mreq := none, mtag := 0 }

/-- A self-test (R442 to R444): the lane under test, which tests run (1 logic, 2 memory, 3 both), how far it is (0 a rolling
run that waits for its conditions, 1 waiting for the hand-over that frees the lane, 2 testing, 3 tested and joining again), and the
half of a rolling run (0 none, 1 first lane, 2 second lane); the edge tick it began; of a run that waits, the ship time in ns it is judged
from, and whether BST_CMD.RNOW asked for it. -/
structure BistRt where
  lane  : LaneId
  run   : Nat
  stage : Nat
  roll  : Nat
  at_   : Nat
  due   : Int
  own   : Bool
  deriving DecidableEq, Repr

/-- The whole block. `now` counts edge ticks of the module time base (R393), `t1At` is the
latest 1 ms boundary served; `free` counts the free values taken;
`pres` and `okc` are the slots occupied and healthy (R34); `xlnUp` the two XLN channels; `key` the key switch in SERVICE
(R437); `svcOut` the words the latest query over a service port returned. -/
structure State where
  pending : List Instr
  now     : Nat
  t1At    : Nat
  free    : Nat
  la      : Lane
  lb      : Lane
  ho      : Handover
  hoOut   : Bool
  bist    : List BistRt
  fm      : FrameMem
  key     : Bool
  presReq : Option PresReq
  sup     : Vector Supply 2
  pres    : BitVec 11
  okc     : BitVec 11
  xlnUp   : Vector Bool 2
  svcOut  : List Word
  links   : Vector LinkRt 4
  bricks  : Vector BrickRt 32
  fields  : Vector FieldRt 2
  cord    : CordRt
  deriving DecidableEq, Repr

/-- Why a step stops with a fault. -/
inductive Fault where
  /-- Raised by no command: the manual gives every command an effect, and an event that the present state rules out changes nothing. Safe. -/
  | impossible
  deriving DecidableEq, Repr

/-- Why a step has no meaning. -/
inductive Refusal where
  /-- A command whose meaning this model does not give, by its mnemonic. Safe: nothing is claimed of it. -/
  | notModelled (mnemonic : String)
  deriving DecidableEq, Repr

/-- What a command's meaning answers. -/
abbrev Out := Host.Outcome State Fault Refusal

/-- The module right after reset (see the assumption log): a KA-128-D2 with every slot fitted, both lanes without power,
every register at its reset value, the flash banks empty, the key switch in RUN, frame memory at its factory values. -/
def State.reset : State :=
  { pending := [], now := 0, t1At := 0, free := 0, la := Lane.zero .A, lb := Lane.zero .B, ho := .none, hoOut := false, bist := [],
    fm := { compat := 0#16, sto := 3, rper := 24, rnext := 0, head := 0, hcrc := crc32c [0#32], ring := [] }, key := false, presReq := none,
    sup := Vector.replicate 2 { inok := false, outok := false, vin := 0#16, iout := 0#8 },
    pres := 0x7FF#11, okc := 0x7FF#11, xlnUp := Vector.replicate 2 true, svcOut := [],
    links := Vector.replicate 4 LinkRt.zero, bricks := Vector.replicate 32 BrickRt.zero,
    fields := Vector.replicate 2 FieldRt.zero, cord := CordRt.zero }

end Sys2Proof.Machine
end

