-- ==== Sys2Proof/Machine/Ops.lean ====
section
/-!
DEFINITION. The named operations over the state that every command uses: lanes, registers and fields, memory with its
check bits, sticky bits, the grading of a raised source (R417 to R423), records (R439 to R441), and the request for an
emergency state (R249, R250). A core's exception is taken by `takeExc` of Machine/Tasks.lean, which uses these.
-/
namespace Sys2Proof.Machine

/-! ## Lanes -/

/-- The lane a name stands for. -/
def laneOf (s : State) (i : LaneId) : Lane := match i with | .A => s.la | .B => s.lb

/-- The state with one lane replaced. -/
def putLane (s : State) (i : LaneId) (l : Lane) : State := match i with | .A => { s with la := l } | .B => { s with lb := l }

/-- The other lane's name. -/
def otherLane (i : LaneId) : LaneId := match i with | .A => .B | .B => .A

/-- The state with one lane changed. -/
def modLane (s : State) (i : LaneId) (f : Lane → Lane) : State := putLane s i (f (laneOf s i))

/-! ## Registers -/

/-- The default word of a fault source's FLT_SEV register (R421, R425): SEV, REC, MIN, LOCAL. -/
def sevWord (sev rec min loc : Nat) : Nat := sev + 8 * rec + 16 * min + 128 * loc

/-- The FLT_SEV default of source `k`, from the table of R421; zero for the reserved numbers. -/
def sevDefault (k : Nat) : Nat :=
  if k ≤ 0x1F then sevWord 1 1 0 0
  else if k ≤ 0x26 then sevWord 7 1 0 0
  else if k = 0x27 then sevWord 3 1 3 0
  else if k ≤ 0x2B then sevWord 1 1 0 0
  else if k = 0x2C then sevWord 3 1 0 0
  else if k ≤ 0x2E then sevWord 1 1 0 0
  else if k = 0x2F then sevWord 3 1 0 0
  else if k ≤ 0x31 then sevWord 1 1 0 0
  else if k ≤ 0x33 then sevWord 2 1 0 0
  else if k ≤ 0x39 then sevWord 1 1 0 0
  else if k ≤ 0x3B then sevWord 5 1 0 0
  else if k ≤ 0x3F then sevWord 1 1 0 0
  else if k ≤ 0x43 then sevWord 2 1 0 0
  else if k ≤ 0x45 then sevWord 1 1 0 0
  else if k = 0x48 then sevWord 1 1 0 0
  else if k = 0x49 ∨ k = 0x4A then sevWord 0 0 0 0
  else if 0x50 ≤ k ∧ k ≤ 0x52 then sevWord 1 1 0 0
  else if k = 0x53 then sevWord 0 1 0 0
  else if k = 0x54 then sevWord 1 1 0 0
  else if 0x58 ≤ k ∧ k ≤ 0x5B then sevWord 1 1 0 0
  else if 0x5C ≤ k ∧ k ≤ 0x67 then sevWord 0 0 0 0
  else if k = 0x68 ∨ k = 0x69 then sevWord 1 1 0 0
  else if k = 0x6A then sevWord 3 1 0 0
  else if k = 0x6B then sevWord 0 0 0 0
  else if 0x70 ≤ k ∧ k ≤ 0x74 then sevWord 1 1 0 0
  else if k = 0x78 then sevWord 1 1 0 0
  else if k = 0x79 ∨ k = 0x7A then sevWord 1 1 0 1
  else if k = 0x7B ∨ k = 0x7C then sevWord 5 1 5 1
  else if 0x7D ≤ k ∧ k ≤ 0x7F then sevWord 1 1 0 0
  else if k = 0x80 then sevWord 0 1 0 0
  else if k = 0x81 then sevWord 1 1 0 0
  else if k = 0x82 then sevWord 0 1 0 0
  else if k = 0x83 then sevWord 0 0 0 0
  else if 0x84 ≤ k ∧ k ≤ 0x86 then sevWord 0 1 0 0
  else if k = 0x87 then sevWord 0 0 0 0
  else if 0x90 ≤ k ∧ k ≤ 0x9F then sevWord 0 0 0 0
  else 0

/-- Whether a source number is one the table of R421 does not reserve. -/
def srcValid (k : Nat) : Bool :=
  decide (k ≤ 0x45) || (0x48 ≤ k && k ≤ 0x4A) || (0x50 ≤ k && k ≤ 0x54) || (0x58 ≤ k && k ≤ 0x6B) ||
  (0x70 ≤ k && k ≤ 0x74) || (0x78 ≤ k && k ≤ 0x87) || (0x90 ≤ k && k ≤ 0x9F)

/-- The class of a sensor (R371, R376): 0 brick, 1 pin, 2 lane, 3 link. -/
def sensorClass (n : Nat) : Nat := if n < 128 then 0 else if n < 144 then 1 else if n < 146 then 2 else 3

/-- The class default of a sensor's WARN, THROT and SHUT (R376). -/
def sensorDefault (n : Nat) : Nat × Nat × Nat :=
  match sensorClass n with
  | 0 => (0x05A0, 0x0640, 0x0730)
  | 1 => (0x0820, 0x0910, 0x09B0)
  | 2 => (0x05F0, 0x0690, 0x0780)
  | _ => (0x0550, 0x05F0, 0x06E0)

/-- What an unlisted register reads as: its reset value. The lane's LANEID (R32), the source's FLT_SEV (R421), the
sensor's thresholds (R376) and the ROM signatures (R447) are not single table values. -/
def regDflt (i : LaneId) (a : Nat) : Word :=
  if a = SYS_STS then (match i with | .A => 0x20#32 | .B => 0x28#32)
  else if FLT_SEV 0 ≤ a ∧ a < FLT_SEV 256 ∧ a % 4 = 0 then BitVec.ofNat 32 (sevDefault ((a - FLT_SEV 0) / 4))
  else if THM_CFG 0 ≤ a ∧ a < THM_CFG 150 ∧ (a - THM_CFG 0) % 16 = 0 then
    let d := sensorDefault ((a - THM_CFG 0) / 16); BitVec.ofNat 32 (d.1 + 65536 * d.2.1)
  else if THM_CFG 0 ≤ a ∧ a < THM_CFG 150 ∧ (a - THM_CFG 0) % 16 = 4 then
    BitVec.ofNat 32 (sensorDefault ((a - THM_CFG 0) / 16)).2.2
  else if a = BST_GOLD then Config.goldLogic
  else if a = BST_GOLD2 then Config.goldMemory
  else tableReset a

/-- The word of the register at `a`. -/
def rget (l : Lane) (a : Nat) : Word := spGet (regDflt l.ident) l.regs a

/-- The lane with the register at `a` holding `v`. -/
def rset (l : Lane) (a : Nat) (v : Word) : Lane := { l with regs := spSet (regDflt l.ident) l.regs a v }

/-- A field's value. -/
def fget (l : Lane) (f : Field) : Nat := bitsOf (rget l f.addr).toNat f.lo f.w

/-- A field's value as a two's-complement number. -/
def fgetI (l : Lane) (f : Field) : Int := sInt f.w (fget l f)

/-- Whether a field is not zero. -/
def fon (l : Lane) (f : Field) : Bool := decide (fget l f ≠ 0)

/-- The lane with a field set to the low bits of `v`, the register's other bits as they were. -/
def fset (l : Lane) (f : Field) (v : Nat) : Lane :=
  rset l f.addr (BitVec.ofNat 32 (setBits (rget l f.addr).toNat f.lo f.w v))

/-- The lane with a field set to the code of an integer. -/
def fsetI (l : Lane) (f : Field) (v : Int) : Lane := fset l f (uCode f.w v)

/-- The lane with a one-bit field set to a truth value. -/
def fsetB (l : Lane) (f : Field) (b : Bool) : Lane := fset l f (b2n b)

/-- A counting field one up, saturating at all ones (R82, R112), in the present core cycle (R8). -/
def fcount (l : Lane) (f : Field) : Lane :=
  { fset l f (satNat (2 ^ f.w - 1) (fget l f + 1)) with
    cyc := l.cyc.note f.addr ((2 ^ f.w - 1) * 2 ^ f.lo) (rget l f.addr).toNat (2 ^ f.lo) }

/-- The axis, brick or other index of a field family as a number. -/
def ax (a : Axis) : Nat := a.1

/-! ## Sticky bits (R6, R424) -/

/-- A counting field `n` up, saturating, in the present core cycle: events that a register shows together (R8, R292). -/
def fcountN (l : Lane) (f : Field) (n : Nat) : Lane :=
  if n = 0 then l
  else { fset l f (satNat (2 ^ f.w - 1) (fget l f + n)) with
    cyc := l.cyc.note f.addr ((2 ^ f.w - 1) * 2 ^ f.lo) (rget l f.addr).toNat (n * 2 ^ f.lo) }

/-- The hardware sets the bits `m` of the sticky register at `a` in the present core cycle (R6, R8). -/
def stkSet (l : Lane) (a m : Nat) : Lane :=
  { rset l a (rget l a ||| BitVec.ofNat 32 m) with cyc := l.cyc.note a m 0 0 }

/-- Sets bits of FLT_STK (R424): bit 13 of BLK is set with any of bits 24 to 19. -/
def fltStk (l : Lane) (bits : Nat) : Lane :=
  let b := if bits / 2 ^ 19 = 0 then bits else bits ||| 0x2000
  stkSet l FLT_STK b

/-- Sets the bits `m` of a sticky register and the bit of its window in FLT_STK.BLK (R6, R424). -/
def stkOr (l : Lane) (a m : Nat) : Lane := fltStk (stkSet l a m) (2 ^ blockOf a)

/-- Sets a sticky field's bits (R6). -/
def stk (l : Lane) (f : Field) : Lane := stkOr l f.addr ((2 ^ f.w - 1) * 2 ^ f.lo)

/-- A sticky field by which the program learns of a block's action (R28, R31): it sees it no earlier than the next period boundary, with the
raises of R420. Fields that answer an act of the program itself (an instruction, a store, a commit, a request) are set at once
instead, and so is CAN_STK.DEXP, by R354. -/
def stkLate (l : Lane) (f : Field) : Lane := { l with late := l.late ++ [(f.addr, (2 ^ f.w - 1) * 2 ^ f.lo)] }

/-- A sticky field that waits for a boundary, when a condition holds. -/
def stkIfLate (c : Bool) (l : Lane) (f : Field) : Lane := if c then stkLate l f else l

/-- The sticky fields that wait are set. -/
def showLate (l : Lane) : Lane := l.late.foldl (fun (l : Lane) x => stkOr l x.1 x.2) { l with late := [] }

/-- Sets a sticky field when a condition holds. -/
def stkIf (c : Bool) (l : Lane) (f : Field) : Lane := if c then stk l f else l

/-! ## Memory (R40, R43, R46) -/

/-- The start of sine table `j` (R123). -/
def sineBase (j : Nat) : Nat := 0x02000000 + 0x4000 * j

/-- What an unlisted byte of SRAM reads as: the default sine table in table 0 (R123), zero elsewhere. -/
def memDflt (a : Nat) : Byte :=
  if sineBase 0 ≤ a ∧ a < sineBase 1 then
    BitVec.ofNat 8 (uCode 24 (sineDefault ((a - sineBase 0) / 4)) / 2 ^ (8 * (a % 4)))
  else 0#8

/-- One byte of memory. -/
def mget8 (l : Lane) (a : Nat) : Byte := spGet memDflt l.mem a

/-- The lane with one byte of memory written. -/
def mset8 (l : Lane) (a : Nat) (b : Byte) : Lane := { l with mem := spSet memDflt l.mem a b }

/-- The word at a word address, least significant byte first (R43). -/
def mget32 (l : Lane) (a : Nat) : Word :=
  wordOfBytes (mget8 l a) (mget8 l (a + 1)) (mget8 l (a + 2)) (mget8 l (a + 3))

/-- The lane with a word of memory written. -/
def mset32 (l : Lane) (a : Nat) (w : Word) : Lane :=
  mset8 (mset8 (mset8 (mset8 l a (w.extractLsb' 0 8)) (a + 1) (w.extractLsb' 8 8)) (a + 2) (w.extractLsb' 16 8))
    (a + 3) (w.extractLsb' 24 8)

/-- Two upsets of one word: a second single error makes it a double one (R46). -/
def eccJoin (x y : Ecc) : Ecc :=
  match x, y with
  | .none, e => e
  | e, .none => e
  | _, _ => .double

/-- The state of the word's check bits as an access meets it: what is latent and what has arisen since. -/
def eccAt (l : Lane) (a : Nat) (up : Ecc) : Ecc := eccJoin (spGet (fun _ => Ecc.none) l.ecc (a / 4 * 4)) up

/-- The lane with the state of a word's check bits set. -/
def eccSet (l : Lane) (a : Nat) (e : Ecc) : Lane := { l with ecc := spSet (fun _ => Ecc.none) l.ecc (a / 4 * 4) e }

/-- A lane notes a failure in its self-check record, for every unit since its latest matched reduction (R435). -/
def chkFail (l : Lane) : Lane := { l with units := l.units.map fun u => { u with chk := true } }

/-! ## Time -/

/-- The core cycle in which an edge tick falls: the first at or after it; one core cycle is 6.4 edge ticks (R85). -/
def cycleOf (t : Nat) : Nat := (5 * t + 31) / 32

/-- An instant as a 32-bit word of the lane's time base (R393), which starts at 0 at power-on and at waking (R401). -/
def tbCode (l : Lane) (t : Nat) : Nat := uCode 32 ((t : Int) - (l.tb0 : Int))

/-- Ship time in whole ns, 64 bits (R395). -/
def shipNs (l : Lane) : Nat := (l.ship.floor % 2 ^ 64).toNat

/-- Ship time over `d` edge ticks of 0.3125 ns from an instant with the rate correction `rate` and a slew of `ns` over the next `t`
ticks (R363). -/
def shipRun (rate : Int) (ns : Rat) (t : Nat) (d : Rat) : Rat :=
  let base : Rat := d * mkRat 5 16
  base + base * mkRat rate 1000000000000 + (if t = 0 then 0 else ns * min d (t : Rat) / (t : Rat))

/-- Ship time over the next `d` edge ticks. -/
def shipOver (l : Lane) (d : Rat) : Rat := shipRun l.shipRate l.slewNs l.slewT d

/-- Whether the Core domain runs (R392): it stands still in DORMANT and in a lane that has stopped. -/
def coreRuns (l : Lane) : Bool := bit (fget l CLK_DOM_RUN) 2

/-- Whether the lane sleeps in DORMANT, Ember alone running (R397, R399). -/
def asleep (l : Lane) : Bool := l.powered && decide (fget l CLK_STS_MSTATE = 3) && !(coreRuns l)

/-- Whether the Reference domain runs (R392, R395). -/
def refRuns (l : Lane) : Bool := bit (fget l CLK_DOM_RUN) 1

/-- A powered lane's ship time moves on by `d` edge ticks (R395): with the Reference domain by its own scale, without it by Ember's
copy. An Ember tick is 97,656.25 edge ticks, and steps the copy by 30,517.578125 ns. -/
def shipAdvance (d : Nat) (l : Lane) : Lane :=
  if !l.powered then l
  else
    let q := l.emb + 4 * d
    let e := l.embShip + mkRat (1953125 * ((q / 390625 : Nat) : Int)) 64
    let l := { l with emb := q % 390625, embShip := e }
    if refRuns l then
      { l with
        ship := l.ship + shipOver l d
        slewNs := if l.slewT = 0 then 0 else l.slewNs - l.slewNs * mkRat (min d l.slewT : Nat) l.slewT
        slewT := l.slewT - d }
    else { l with ship := e }

/-- The scale of ship time has changed: it stands from `now` on as it is, and the scales before it are kept for stamps (R339, R363). -/
def shipMark (l : Lane) (now : Nat) : Lane :=
  { l with shipLog := ({ at_ := now, ship := l.ship, rate := l.shipRate, ns := l.slewNs, t := l.slewT } :: l.shipLog).take 8 }

/-- Ember's copy follows ship time at a T1 tick (R395). -/
def emberTick (l : Lane) : Lane := if l.powered && refRuns l then { l with embShip := l.ship } else l

/-- The ship time of an instant `t` that is not after `now`, on the scale in force at that instant (R339, R363). -/
def shipAt (l : Lane) (now t : Nat) : Rat :=
  match l.shipLog.find? fun m => decide (m.at_ ≤ t) with
  | some m => m.ship + shipRun m.rate m.ns m.t ((t - m.at_ : Nat) : Rat)
  | none => l.ship - shipRun l.shipRate 0 0 ((now - t : Nat) : Rat)

/-- A ship time rounded to ns (R4), 64 bits. -/
def shipCode (x : Rat) : Nat := (rround x % 2 ^ 64).toNat

/-- The first instant from `now` at which a lane's ship time has reached `x` ns: at the slope of a slew while it lasts, then at the
corrected rate (R363). -/
def shipReach (l : Lane) (now : Nat) (x : Rat) : Nat :=
  let rate : Rat := mkRat 5 16 + mkRat 5 16 * mkRat l.shipRate 1000000000000
  let left := x - l.ship
  let steep := if l.slewT = 0 then rate else rate + l.slewNs / (l.slewT : Rat)
  let d := if left ≤ steep * (l.slewT : Rat) then left / steep else (l.slewT : Rat) + (left - steep * (l.slewT : Rat)) / rate
  now + d.ceil.toNat

/-- The lane with what it does falling into core cycle `c` (R8). -/
def atCycle (c : Nat) (l : Lane) : Lane := { l with cyc := { l.cyc with now := c } }

/-- The time base reaches edge tick `t` (R393): an instant already passed changes nothing. -/
def tickTo (t : Nat) (s : State) : State :=
  if t ≤ s.now then s
  else { s with
    now := t
    la := atCycle (cycleOf t) (shipAdvance (t - s.now) s.la)
    lb := atCycle (cycleOf t) (shipAdvance (t - s.now) s.lb) }

/-- The smallest multiple of `m` that is at least `t`. -/
def ceilTo (m t : Nat) : Nat := if m = 0 then t else (t + m - 1) / m * m

/-- The instant of the next T1 tick (R83): the first 1 ms boundary at or after now that has not been served. -/
def nextT1 (s : State) : Nat := max (ceilTo 3200000 s.now) (s.t1At + 3200000)

/-- The current-loop period in force of an axis, edge ticks (R118). -/
def tpOf (l : Lane) (a : Nat) : Nat := fget l (AXS_TP_TP a)

/-- The run conditions of the domains `m` turn true (R392): none of them has been false for a whole T1 interval (R396). -/
def wantDomains (l : Lane) (m : BitVec 9) : Lane := { l with wasIdle := l.wasIdle &&& ~~~m }

/-- Whether an axis is enabled in the sense of R416: STARTING or ENABLED. -/
def axEnabled (l : Lane) (a : Nat) : Bool := let b := fget l (AXS_EN_BST a); b = 1 || b = 2

/-- Whether an axis's periods run (R404, R420): STARTING, ENABLED or KEPT. -/
def axPeriods (l : Lane) (a : Nat) : Bool := decide (fget l (AXS_EN_BST a) ≠ 0)

/-- Whether the lane has joined: CATCH-UP, STANDBY or ACTIVE (R426). -/
def laneJoined (l : Lane) : Bool := let r := fget l SYS_STS_LROLE; l.powered && (r = 1 || r = 2 || r = 3)

/-- Whether the lane runs the program: it has joined and its cores run. -/
def laneRuns (l : Lane) : Bool := laneJoined l && coreRuns l

/-- Whether the lane takes part in the traffic of the Billet links: it runs the program, or finds its bricks in step 6 of its
start-up (R286, R410). -/
def laneLinks (l : Lane) : Bool := (laneJoined l || l.bootLeft.isSome) && coreRuns l

/-- Whether the lane is ACTIVE. -/
def laneActive (l : Lane) : Bool := l.powered && decide (fget l SYS_STS_LROLE = 3) && (coreRuns l || asleep l)

/-- MSTATE of a lane that is ready and awake: RUNNING while some axis is not banked, BANKED otherwise (R397). -/
def moduleState (l : Lane) : Lane :=
  let m := fget l CLK_STS_MSTATE
  if m = 1 ∨ m = 2 then fset l CLK_STS_MSTATE (if (allFin 16).any fun a => axPeriods l a then 2 else 1) else l

/-- A sticky field of an event that every powered lane shows: in a lane that runs the program it waits for the boundary (R31). -/
def stkSeen (l : Lane) (f : Field) : Lane := if laneRuns l then stkLate l f else stk l f

/-- The same, when a condition holds. -/
def stkSeenIf (c : Bool) (l : Lane) (f : Field) : Lane := if c then stkSeen l f else l

/-- A change made alike in every lane that runs the program. -/
def inRunning (f : Lane → Lane) (s : State) : State :=
  { s with la := if laneRuns s.la then f s.la else s.la, lb := if laneRuns s.lb then f s.lb else s.lb }

/-- A change made alike in every lane that takes part in the links' traffic. -/
def inLinks (f : Lane → Lane) (s : State) : State :=
  { s with la := if laneLinks s.la then f s.la else s.la, lb := if laneLinks s.lb then f s.lb else s.lb }

/-! ## Frames -/

/-- The words of a frame as a receiver gets them. -/
def copyWords (c : Copy) (ws : List Word) : Option (List Word) :=
  match c with
  | .whole => some ws
  | .altered k x => some (ws.set k (ws.getD k 0#32 ^^^ x))
  | .lost => none

/-! ## Records (R439 to R441) -/

/-- The words of a record (R439): the CRC last. -/
def peatWords (e : PeatEntry) : List Word :=
  let ws := [wordOf (e.time % 2 ^ 32), wordOf (e.time / 2 ^ 32), wordOf e.seq,
    wordOf (e.code % 256 + 2 ^ 8 * (e.sev % 8) + 2 ^ 11 * (match e.lane with | .A => 0 | .B => 1)
      + 2 ^ 12 * (e.kind % 8) + 2 ^ 16 * satNat 0xFFFF e.repcnt), e.ctx0, e.ctx1, wordOf (e.tb % 2 ^ 32)]
  ws ++ [crc32c ws]

/-- Writes a Peat-log entry (R439, R440): at most 256 wait for flash, and one that finds the wait full is lost. -/
def peatWrite (l : Lane) (now : Nat) (kind code sev rep : Nat) (c0 c1 : Word) : Lane :=
  if 256 ≤ l.peatQ.length then stkSeen l PEAT_STK_LOST
  else
    let seq := fget l PEAT_HEAD_SEQ
    let e : PeatEntry := {
      time := shipNs l, seq := seq, code := code, sev := sev, lane := l.ident, kind := kind,
      repcnt := rep, ctx0 := c0, ctx1 := c1, tb := tbCode l now }
    fsetB (fset { l with peatQ := l.peatQ ++ [e] } PEAT_HEAD_SEQ (seq + 1)) PEAT_STS_BUSY true

/-- The lane's request to the world outside it. -/
def ask (l : Lane) (r : LaneReq) : Lane := { l with out := l.out ++ [r] }

/-- Asks for a frame-memory entry (R441). -/
def fmWrite (l : Lane) (now : Nat) (kind code sev : Nat) (c0 c1 : Word) : Lane :=
  ask l (.frameMem {
    time := shipNs l, seq := fget l PEAT_HEAD_SEQ, code := code, sev := sev, lane := l.ident,
    kind := kind, repcnt := 0, ctx0 := c0, ctx1 := c1, tb := tbCode l now })

/-! ## Emergency states (R249, R250) -/

/-- The rank of an emergency state (R250). -/
def esRank (e : Nat) : Nat :=
  match e with
  | 0 => 0 | 1 => 0
  | 5 => 1
  | 2 => 2
  | 3 => 3 | 4 => 3
  | 6 => 4
  | 7 => 5
  | 8 => 6
  | 9 => 7
  | _ => 0

/-- A cause asks for an emergency state of axis `a`, taken at the next set-point latch (R249). A state of equal or lower
rank is superseded (R250). -/
def axAsk (l : Lane) (a : Axis) (e : Nat) : Lane :=
  if esRank e ≤ esRank (fget l (AXS_STS_ESTATE a)) then stkLate l (AXS_STK_SUPERS a)
  else
    let x := vget l.axes a
    match x.ask with
    | some e0 => if esRank e ≤ esRank e0 then stkLate l (AXS_STK_SUPERS a)
                 else { l with axes := vset l.axes a { x with ask := some e } }
    | none => { l with axes := vset l.axes a { x with ask := some e } }

/-- Whether asking for the state would be superseded (R418). -/
def axSupers (l : Lane) (a : Axis) (e : Nat) : Bool :=
  decide (esRank e ≤ esRank (fget l (AXS_STS_ESTATE a))) ||
  (match (vget l.axes a).ask with | some e0 => decide (esRank e ≤ esRank e0) | none => false)

/-- The legs of coppice `c` (R113): those whose descriptor is of type phase and names it. -/
def legsOf (l : Lane) (c : Nat) : List (Fin 128) :=
  (allFin 128).filter fun n => fget l (LEG_CFG_TYPE n) = 1 && fget l (LEG_CFG_COPPICE n) = c

/-- Coppice `c` enters LOST (R148): its legs are gated off from the next EDGE frames. -/
def cpLost (l : Lane) (c : Nat) : Lane :=
  if fget l (LEG_CSTS_STATE c) = 2 then l
  else stkLate (fsetB (fset l (LEG_CSTS_STATE c) 2) LEG_STS_LOSTC true) LEG_STK_CPLOST

/-- Whether coppice `c` is described (R114). -/
def cpValid (l : Lane) (c : Nat) : Bool := fon l (LEG_CPC_VALID c)

/-- Whether the coppices with a leg on brick `b` are LOST already: a degrade response is in force (R418). -/
def brickIsLost (l : Lane) (b : Nat) : Bool :=
  let cs := (List.range 32).filter fun c => (legsOf l c).any fun n => n.1 / 4 = b
  !cs.isEmpty && cs.all fun c => decide (fget l (LEG_CSTS_STATE c) = 2)

/-- Every coppice with a leg on brick `b` enters LOST (R148, R417). -/
def brickLost (l : Lane) (b : Nat) : Lane :=
  (List.range 32).foldl (fun l c => if (legsOf l c).any (fun n => n.1 / 4 = b) then cpLost l c else l) l

/-! ## Grading (R417 to R422) -/

/-- The block a source belongs to (R498). -/
def srcBlock (k : Nat) : Nat :=
  if k ≤ 0x1F then 0
  else if k ≤ 0x26 then 3
  else if k = 0x27 then 2
  else if k ≤ 0x2B then 5
  else if k = 0x2C then 4
  else if k = 0x2D then 6
  else if k ≤ 0x2F then 3
  else if k ≤ 0x3F then 12
  else if k ≤ 0x43 then 8
  else if k = 0x44 then 7
  else if k = 0x45 then 3
  else if k ≤ 0x4A then 9
  else if k ≤ 0x54 then 10
  else if k ≤ 0x68 then 11
  else if k ≤ 0x6B then 6
  else if k ≤ 0x73 then 0
  else if k = 0x74 then 2
  else if k ≤ 0x7B then 15
  else if k = 0x7C then 1
  else if k = 0x7D then 17
  else if k ≤ 0x7F then 1
  else if k = 0x80 then 0
  else if k = 0x81 then 16
  else if k ≤ 0x84 then 0
  else if k = 0x85 then 15
  else if k = 0x86 then 17
  else if k = 0x87 then 2
  else 3

/-- The axis on which a source acts (R421): the object of an axis source, ra[3:0] of a PF source, n of source 0x90 + n. -/
def srcAxis (k : Nat) (c0 : Word) : Option Axis :=
  let o := c0.toNat % 256
  if k ≤ 0x1F then some ⟨c0.toNat % 16, Nat.mod_lt _ (by decide)⟩
  else if 0x90 ≤ k ∧ k ≤ 0x9F then some ⟨k % 16, Nat.mod_lt _ (by decide)⟩
  else if (0x20 ≤ k ∧ k ≤ 0x2F) ∨ k = 0x45 ∨ k = 0x6A then
    if h : o < 16 then some ⟨o, h⟩ else none
  else none

/-- The brick a source's context names (R417, R421): sources of the BLK block, and sensor 4b + j of brick b. -/
def srcBrick (k : Nat) (c0 : Word) : Option Nat :=
  let o := c0.toNat % 256
  if 0x40 ≤ k ∧ k ≤ 0x43 then some o
  else if 0x30 ≤ k ∧ k ≤ 0x33 then some (o / 4)
  else none

/-- The lane that a source's context names (R417, R421): lane sensors, BIST and the yield button. -/
def srcLane (k : Nat) (c0 : Word) : Option LaneId :=
  if (0x38 ≤ k ∧ k ≤ 0x3B) ∨ k = 0x7D ∨ k = 0x84 ∨ k = 0x86 then some (if c0.toNat % 256 = 0 then .A else .B) else none

/-- The severity under which a source is graded (R421): FLT_SEV, and AXS_HRSP of the named axis for a hedge source. -/
def srcSev (l : Lane) (k : Nat) (c0 : Word) : Nat :=
  let sv := fget l (FLT_SEV_SEV k)
  if sv ≠ 7 then sv
  else
    let a := c0.toNat % 16
    match k with
    | 0x20 => fget l (AXS_HRSP_OC a)
    | 0x21 => fget l (AXS_HRSP_OV a)
    | 0x22 => fget l (AXS_HRSP_UV a)
    | 0x23 => fget l (AXS_HRSP_TQ a)
    | 0x24 => fget l (AXS_HRSP_SP a)
    | 0x25 => fget l (AXS_HRSP_POS a)
    | 0x26 => fget l (AXS_HRSP_SLIP a)
    | _ => 0

/-- The shaft group of an axis, if it has one (R228). -/
def groupOf (l : Lane) (a : Axis) : List Nat :=
  (List.range 8).filter fun g => bit (fget l (SHR_GCFG_MEMB g)) a

/-- The gate permits are lost: every axis with periods is asked for STO, once (R249, R332). -/
def permitAsk (l : Lane) : Lane :=
  (allFin 16).foldl (fun (l : Lane) (a : Axis) => if axPeriods l a && !(axSupers l a 9) then axAsk l a 9 else l) l

/-- Every axis whose periods run asks for a state (R417). -/
def allAsk (l : Lane) (banked : Bool) (e : Nat) : Lane :=
  (allFin 16).foldl (fun (l : Lane) (a : Axis) => if banked || axPeriods l a then axAsk l a e else l) l

/-- An axis is asked for the state of a graded stop; FLT_STS.ANYSTOP follows the axis while it stays in it (R424). -/
def axStopOne (l : Lane) (a : Axis) (e : Nat) : Lane :=
  let ok := !(axSupers l a e)
  let l := axAsk l a e
  if ok then { l with axes := vmod l.axes a fun x => { x with stop34 := true } } else l

/-- A stop that a graded S3 or S4 calls for, at S3 with the axis's shaft group (R232, R417). -/
def axStop (l : Lane) (a : Axis) (e : Nat) : Lane :=
  let l := axStopOne l a e
  if e = 3 then
    (groupOf l a).foldl (fun l g =>
      (allFin 16).foldl (fun (l : Lane) (b : Axis) => if bit (fget l (SHR_GCFG_MEMB g)) b && b ≠ a then axStopOne l b e else l) l) l
  else l

/-- FLT_STS.NOYLD and ANYSTOP as the axes stand (R424). -/
def fltSummary (l : Lane) : Lane :=
  let l := fsetB l FLT_STS_NOYLD ((allFin 16).any fun (a : Axis) => (vget l.axes a).stopNy)
  fsetB l FLT_STS_ANYSTOP ((allFin 16).any fun (a : Axis) =>
    let e := fget l (AXS_STS_ESTATE a)
    (vget l.axes a).stop34 && (e = 3 || e = 4 || e = 6 || e = 8))

/-- An axis has entered state `e`: it left the stops of R424 unless `e` belongs to them. -/
def stopsLeft (l : Lane) (a : Axis) (e : Nat) : Lane :=
  { l with axes := vmod l.axes a fun x => { x with
    stop34 := x.stop34 && (e = 3 || e = 4 || e = 6 || e = 8), stopNy := x.stopNy && e = 8 } }

/-- The response of a severity and the FLT_STK bits it sets (R417, R418): SEEN1 24, S2 23, SAFEIN 21, SUPERS 19. -/
def respond (l : Lane) (k sev : Nat) (c0 : Word) : Lane × Nat :=
  match sev with
  | 0 => (l, 0)
  | 1 => (l, 2 ^ 24)
  | 2 =>
    match srcBrick k c0 with
    | some b => (brickLost l b, 2 ^ 23 + (if brickIsLost l b then 2 ^ 19 else 0))
    | none => (l, 2 ^ 24 + 2 ^ 23)
  | 3 =>
    match srcAxis k c0 with
    | some a => (axStop l a 3, if axSupers l a 3 then 2 ^ 19 else 0)
    | none => (l, 2 ^ 24)
  | 4 =>
    match srcAxis k c0 with
    | some a => (axStop l a 8, if axSupers l a 8 then 2 ^ 19 else 0)
    | none => (l, 2 ^ 24)
  | 5 =>
    if l.safe then (l, 2 ^ 19)
    else if k = 0x7C then (ask l .claimDrop, 0)
    else if k = 0x7B then (ask l (.handover 6), 0)
    else match srcLane k c0 with
      | some n => (ask l (.yieldNamed n), 0)
      | none => (ask l (.handover 5), 0)
  | 6 =>
    if l.safe then (l, 2 ^ 19)
    else (ask (allAsk { l with safe := true } true 9) .safeIn, 2 ^ 21)
  | _ => (l, 0)

/-- The Peat-log entry of a raise under R422: none within 100 ms (320,000,000 edge ticks) of the source's latest one. -/
def raiseRecord (l : Lane) (now k sev : Nat) (c0 c1 : Word) : Lane :=
  let r := spFind l.rep k
  match r with
  | some e =>
    if now < e.at_ + 320000000 then
      { l with rep := spPut (spErase l.rep k) k { e with count := e.count + 1 } }
    else
      peatWrite { l with rep := spPut (spErase l.rep k) k { at_ := now, count := 0 } } now 0 k sev (e.count + 1) c0 c1
  | none => peatWrite { l with rep := spPut l.rep k { at_ := now, count := 0 } } now 0 k sev 1 c0 c1

/-- Something that a trigger names has happened: an injection point started, or a source raised (R213). -/
def capSeen (l : Lane) (trig src : Nat) : Lane :=
  if fget l LPE_CSTS_STATE = 1 && fget l LPE_CCTL_TRIG = trig && fget l LPE_CCTL_TSRC = src then
    { l with cap := { l.cap with hit := true } } else l

/-- A source is raised (R417, R420): graded at once, its response made, its record written; its registers wait in
`vis` until they become visible. Gradings at S5 and S6, 0x80 and 0x86 go to frame memory (R441). -/
def raise (l : Lane) (now k : Nat) (c0 c1 : Word) : Lane :=
  let sev := srcSev l k c0
  let (l1, bits) := respond l k sev c0
  let l2 := if fon l1 (FLT_SEV_REC k) then raiseRecord l1 now k sev c0 c1 else l1
  let l3 := if 5 ≤ sev ∨ k = 0x80 ∨ k = 0x86 then fmWrite l2 now 0 k sev c0 c1 else l2
  let l3 := capSeen l3 5 k
  { l3 with vis := l3.vis ++ [{
    src := k, sev := sev, ctx0 := c0, ctx1 := c1,
    stk := BitVec.ofNat 32 (bits + 2 ^ srcBlock k) }] }

/-- A raise whose context word 0 is an object and a detail code (R421). -/
def raiseO (l : Lane) (now k obj detail : Nat) (c1 : Word) : Lane :=
  raise l now k (wordOf (obj % 256 + 256 * (detail % 256))) c1

/-- The pending bits a raise sets in the wake masks (R423). -/
def wakeSet (l : Lane) (k : Nat) : Lane :=
  (List.range 64).foldl (fun l n =>
    if bit (rget l (FLT_WM n (k / 32))).toNat (k % 32) then
      rset l (FLT_WP n (k / 32)) (rget l (FLT_WP n (k / 32)) ||| BitVec.ofNat 32 (2 ^ (k % 32))) else l) l

/-- One waiting raise becomes visible: count, latest-record registers, sticky bits and wake masks (R417, R420, R425). -/
def showRaise (l : Lane) (r : Raised) : Lane :=
  let l := fcount l (FLT_CNT_COUNT r.src)
  -- core exceptions of code ECC are counted apart as well: they are local (R421)
  let l := if 0x70 ≤ r.src ∧ r.src ≤ 0x73 ∧ bitsOf r.ctx0.toNat 8 8 = 3 then
      { l with eccN := Vector.ofFn fun (c : Fin 4) => vget l.eccN c + (if r.src = 0x70 + c.1 then 1 else 0) } else l
  let l := fset (fset l FLT_LSRC_SRC r.src) FLT_LSRC_SEV r.sev
  let l := rset (rset l FLT_LCTX0 r.ctx0) FLT_LCTX1 r.ctx1
  wakeSet (fltStk l r.stk.toNat) r.src

/-- Bits of FLT_STK that a response sets; they become visible with the raises (R420). -/
def fltLate (l : Lane) (bits : Nat) : Lane := { l with late := l.late ++ [(FLT_STK, bits)] }

/-- The waiting raises and sticky fields become visible, at a T1 tick or a period start of a running axis (R31, R420). -/
def showRaises (l : Lane) : Lane :=
  fltSummary (fsetB (showLate (l.vis.foldl showRaise { l with vis := [] })) FLT_STS_SAFE l.safe)

end Sys2Proof.Machine
end

