-- ==== Sys2Proof/Machine/Tasks.lean ====
section
/-!
DEFINITION. Tasks on the cores (chapters 2 and 3): contexts, releases and the end of jobs, the dispatcher (R38, R88, R89),
tags (R69 to R71), and taking an exception (R79 to R82).
-/
namespace Sys2Proof.Machine

/-! ## Contexts -/

/-- Core `c` of a lane. -/
def coreOf (l : Lane) (c : Fin 4) : Core := vget l.cores c

/-- The lane with core `c` replaced. -/
def putCore (l : Lane) (c : Fin 4) (k : Core) : Lane := { l with cores := vset l.cores c k }

/-- Task `k` of core `c`. -/
def taskOf (l : Lane) (c : Fin 4) (k : Fin 16) : TaskCtx := vget (coreOf l c).tasks k

/-- The lane with task `k` of core `c` replaced. -/
def putTask (l : Lane) (c : Fin 4) (k : Fin 16) (t : TaskCtx) : Lane :=
  let x := coreOf l c
  putCore l c { x with tasks := vset x.tasks k t }

/-- The loaded context of core `c`. -/
def curTask (l : Lane) (c : Fin 4) : TaskCtx := taskOf l c (coreOf l c).cur

/-- The lane with the loaded context of core `c` replaced. -/
def putCur (l : Lane) (c : Fin 4) (t : TaskCtx) : Lane := putTask l c (coreOf l c).cur t

/-- A word register; w0 reads as zero (R39). -/
def getW (t : TaskCtx) (r : RegNo) : Word := if r = 0#5 then 0#32 else vget t.w r.toFin

/-- A word register written; a write to w0 is discarded (R39). -/
def setW (t : TaskCtx) (r : RegNo) (v : Word) : TaskCtx :=
  if r = 0#5 then t else { t with w := vset t.w r.toFin v }

/-- A predicate; p0 reads as true (R39). -/
def getP (t : TaskCtx) (p : PredNo) : Bool := if p = 0#3 then true else t.p.getLsbD p.toNat

/-- A predicate written; a write to p0 is discarded (R39). -/
def setP (t : TaskCtx) (p : PredNo) (b : Bool) : TaskCtx :=
  if p = 0#3 then t
  else { t with p := if b then t.p ||| (1#8 <<< p.toNat) else t.p &&& ~~~(1#8 <<< p.toNat) }

/-- The context one instruction further on. -/
def nextPc (t : TaskCtx) : TaskCtx := { t with pc := (t.pc + 4) % 2 ^ 32 }

/-- The task index 16 × core + task number (R86). -/
def tix (c : Fin 4) (k : Fin 16) : Nat := 16 * c.1 + k.1

/-- Whether a task is a background task (R86). -/
def isBg (l : Lane) (c : Fin 4) (k : Fin 16) : Bool := decide (fget l (ADM_TCFG_CLASS (tix c k)) = 4)

/-- The hash unit a task's stores belong to (R19): its axis for a T0 task, the module otherwise. -/
def foldUnit (l : Lane) (c : Fin 4) (k : Fin 16) : Fin 17 :=
  if fget l (ADM_TCFG_CLASS (tix c k)) = 0 then
    ⟨fget l (ADM_TCFG_AXIS (tix c k)) % 16, Nat.lt_trans (Nat.mod_lt _ (by decide)) (by decide)⟩
  else 16

/-- The store fold of core `c` takes in the address and data of a store (R19). -/
def foldStore (l : Lane) (c : Fin 4) (a : Nat) (d : Word) : Lane :=
  let x := coreOf l c
  let u := foldUnit l c x.cur
  putCore l c { x with folds := vset x.folds u (crcWord (crcWord (vget x.folds u) (wordOf a)) d) }

/-! ## Tags (R69 to R71) -/

/-- Whether a tag counts against a task, an orphaned one included (R71). -/
def tagOwned (c : Fin 4) (k : Fin 16) (t : TagSt) : Bool :=
  match t with
  | .free => false
  | .busy c' k' _ _ _ _ => c' = c && k' = k
  | .done c' k' _ => c' = c && k' = k

/-- Whether the task's present job holds a tag (R70). -/
def tagHeld (c : Fin 4) (k : Fin 16) (t : TagSt) : Bool :=
  match t with
  | .free => false
  | .busy c' k' _ _ _ orphan => c' = c && k' = k && !orphan
  | .done c' k' _ => c' = c && k' = k

/-- The number of tags that count against a task (MFS TAGN, R69, R71). -/
def tagCount (l : Lane) (c : Fin 4) (k : Fin 16) : Nat := (l.tags.toList.filter (tagOwned c k)).length

/-- A job ends: completed tags it holds return to the pool, its running operations are left to complete (R71). -/
def tagLeave (c : Fin 4) (k : Fin 16) (t : TagSt) : TagSt :=
  match t with
  | .busy c' k' kd sl ar _ => if c' = c ∧ k' = k then .busy c' k' kd sl ar true else t
  | .done c' k' _ => if c' = c ∧ k' = k then .free else t
  | .free => .free

/-- Whether a task belongs to the set of work (R84, R101): always active, of an active item, or T0 of an enabled axis. -/
def taskInSet (l : Lane) (n : Nat) : Bool :=
  fon l (ADM_TCFG_VALID n) &&
  (if fget l (ADM_TCFG_CLASS n) = 0 then axEnabled l (fget l (ADM_TCFG_AXIS n))
   else fget l (ADM_TCFG_ITEM n) = 0xFF || l.items.contains (fget l (ADM_TCFG_ITEM n)))

/-- Whether a task outside the set of work still counts with its declaration (R71, R103): its last job runs on, or a tag of it
has not returned. -/
def tagBound (l : Lane) (n : Nat) : Bool :=
  let c := Fin.ofNat 4 (n / 16)
  let k := Fin.ofNat 16 n
  decide ((taskOf l c k).run ≠ .idle) || decide (tagCount l c k ≠ 0)

/-- The declared tags of the tasks of a set of work and of those still bound by R71 (R92). -/
def tagDecl (l : Lane) (inSet : Nat → Bool) : Nat :=
  (List.range 64).foldl (fun m n =>
    if fon l (ADM_TCFG_VALID n) && (inSet n || tagBound l n) then m + fget l (ADM_TCFG_TAGS n) else m) 0

/-- A tag of a task has returned or its job has ended: ADM_TAGSUM drops the declaration of a removed task with its last tag
(R71). -/
def tagDrop (l : Lane) (c : Fin 4) (k : Fin 16) : Lane :=
  if taskInSet l (tix c k) || tagBound l (tix c k) then l else fset l ADM_TAGSUM_SUM (tagDecl l (taskInSet l))

/-- The tags of a job that ends, with SYS_CSTKn.TAGLEFT when it held any (R71). -/
def leaveTags (l : Lane) (c : Fin 4) (k : Fin 16) : Lane :=
  let held := l.tags.toList.any (tagHeld c k)
  let l := { l with tags := l.tags.map (tagLeave c k) }
  tagDrop (stkIf held l (SYS_CSTK_TAGLEFT c)) c k

/-! ## Jobs -/

/-- The ship time in whole ns of a release in core cycle `rc` (R78): now, or that of a later cycle a core has reached. -/
def shipRel (l : Lane) (now rc : Nat) : Nat :=
  ((l.ship + shipOver l (mkRat (32 * rc) 5 - (now : Rat))).floor % 2 ^ 64).toNat

/-- A job of a task that is released in core cycle `rc` (R83) starts at its entry with empty stacks (R37). -/
def startJob (l : Lane) (now rc : Nat) (c : Fin 4) (k : Fin 16) : Lane :=
  let t := taskOf l c k
  putTask l c k { t with
    pc := 0x80000 * c.1 + 4 * fget l (ADM_TENT_ENTRY (tix c k)), calls := [], loops := [], run := .live, buf := [],
    jobs := (t.jobs + 1) % 2 ^ 32, relC := rc, relSh := shipRel l now rc, relNow := now, ovrun := false }

/-- A job ends without a release to follow: stacks emptied, tags left (R71, R79); `keep` keeps the commit buffer for the
commit instant (R106). -/
def endJob (l : Lane) (c : Fin 4) (k : Fin 16) (keep : Bool) : Lane :=
  let t := taskOf l c k
  leaveTags (putTask l c k { t with
    calls := [], loops := [], run := .idle, buf := if keep && !t.ovrun then t.buf else [] }) c k

/-! ## The dispatcher (R38, R88, R89) -/

/-- A task's place in the order of R88, lower first: T0 by HALF, axis and number, then T1, T2, T3, then background from the
round-robin position. -/
def prioKey (l : Lane) (c : Fin 4) (k : Fin 16) : Nat :=
  let n := tix c k
  match fget l (ADM_TCFG_CLASS n) with
  | 0 => let a := fget l (ADM_TCFG_AXIS n); fget l (AXS_CAR_HALF a) * 1024 + a * 32 + k.1
  | 4 => 2 ^ 50 + (k.1 + 16 - (coreOf l c).rr % 16) % 16
  | cl => 2 ^ 40 + cl * 32 + k.1

/-- The wake sources pending for a task, lowest first (R423). -/
def wakePending (l : Lane) (n : Nat) : Option Nat :=
  (List.range 8).findSome? fun w =>
    let v := (rget l (FLT_WP n w)).toNat
    if v = 0 then none else ((List.range 32).find? fun j => bit v j).map fun j => 32 * w + j

/-- Whether a task can run now (R89). -/
def taskReady (l : Lane) (c : Fin 4) (k : Fin 16) : Bool :=
  match (taskOf l c k).run with
  | .idle => false
  | .live => true
  | .waitTag _ t => match vget l.tags t with | .done _ _ _ => true | _ => false
  | .waitEvt _ => (wakePending l (tix c k)).isSome

/-- Whether some background task of the core waits in WAITT for an operation that has not completed: it keeps its turn
(R88). -/
def bgHolds (l : Lane) (c : Fin 4) : Bool :=
  (allFin 16).any fun k => isBg l c k && (match (taskOf l c k).run with | .waitTag _ _ => true | _ => false)

/-- The tasks the dispatcher may select. -/
def candidates (l : Lane) (c : Fin 4) : List (Fin 16) :=
  (allFin 16).filter fun k => taskReady l c k &&
    (!(isBg l c k) || !(bgHolds l c) || (match (taskOf l c k).run with | .waitTag _ _ => true | _ => false))

/-- The candidate of highest priority. -/
def bestTask (l : Lane) (c : Fin 4) : Option (Fin 16) :=
  (candidates l c).foldl (fun b k => match b with
    | none => some k
    | some j => if prioKey l c k < prioKey l c j then some k else some j) none

/-- The wait of the selected task ends if it waited (R70, R73): the result word is written and the tag returned, or the
lowest pending source is written and acknowledged. -/
def resumeTask (l : Lane) (c : Fin 4) (k : Fin 16) : Lane :=
  let t := taskOf l c k
  match t.run with
  | .waitTag rd g =>
    (match vget l.tags g with
     | .done _ _ r =>
       putTask { l with tags := vset l.tags g .free } c k { nextPc (setW t rd r) with run := .live }
     | _ => l)
  | .waitEvt rd =>
    (match wakePending l (tix c k) with
     | some n =>
       let a := FLT_WP (tix c k) (n / 32)
       putTask (rset l a (rget l a &&& ~~~(BitVec.ofNat 32 (2 ^ (n % 32))))) c k
         { nextPc (setW t rd (wordOf n)) with run := .live }
     | none => l)
  | _ => l

/-- The dispatcher of core `c`: the ready task of highest priority is loaded; a switch to another task or to a new job of the same
task costs 24 cycles. With none ready the loaded context stays (R38, R88, R89, R107). -/
def dispatch (l : Lane) (now : Nat) (c : Fin 4) : Lane :=
  match bestTask l c with
  | none => l
  | some k =>
    let x := coreOf l c
    let t := taskOf l c k
    let cyc := max x.cyc (cycleOf now)
    let x := { x with rr := if isBg l c k then k.1 else x.rr }
    let l :=
      if k = x.cur ∧ t.jobs = x.cjob then putCore l c { x with cyc := if t.run = .live then x.cyc else cyc }
      else putCore l c { x with cur := k, cjob := t.jobs, cyc := cyc + 24, avail := Vector.replicate 32 0 }
    resumeTask l c k

/-- The turn among background tasks moves on past task `k` (R88). -/
def nextTurn (l : Lane) (c : Fin 4) (k : Fin 16) : Lane :=
  if isBg l c k then putCore l c { coreOf l c with rr := k.1 + 1 } else l

/-- The dispatchers of all four cores. -/
def dispatchAll (l : Lane) (now : Nat) : Lane := (allFin 4).foldl (fun l c => dispatch l now c) l

/-- A task is released in core cycle `rc` (R83, R84, R107): an overrunning job is ended, and the new job starts. A task outside the active set is not
released. -/
def releaseTask (l : Lane) (now rc : Nat) (c : Fin 4) (k : Fin 16) : Lane :=
  let ins := taskInSet l (tix c k)
  let t := taskOf l c k
  let l := putTask l c k { t with act := ins }
  if !ins then l else startJob (if t.run = .idle then l else endJob l c k false) now rc c k

/-- The tasks of a class (and of an axis, for T0) are released, then the dispatchers run (R83). -/
def releaseClass (l : Lane) (now cls : Nat) (axis : Option Axis) : Lane :=
  let l := (allFin 4).foldl (fun l c => (allFin 16).foldl (fun l k =>
    let n := tix c k
    if fon l (ADM_TCFG_VALID n) && fget l (ADM_TCFG_CLASS n) = cls &&
       (match axis with | some a => decide (fget l (ADM_TCFG_AXIS n) = a.1) | none => true)
    then releaseTask l now (cycleOf now) c k else l) l) l
  dispatchAll l now

/-- The background tasks that belong to the set of work and have no job start one (R83). -/
def releaseBg (l : Lane) (now : Nat) : Lane :=
  let l := (allFin 4).foldl (fun l c => (allFin 16).foldl (fun l k =>
    if isBg l c k && fon l (ADM_TCFG_VALID (tix c k)) && decide ((taskOf l c k).run = .idle)
    then releaseTask l now (cycleOf now) c k else l) l) l
  dispatchAll l now

/-! ## Exceptions (R79 to R82) -/

/-- Codes of R80. -/
def excAlign : Nat := 1
def excAddr : Nat := 2
def excEcc : Nat := 3
def excLoopMax : Nat := 4
def excTagX : Nat := 5
def excTagW : Nat := 6
def excIll : Nat := 7

/-- The record of an exception (R81, R82): code, task, saturating count, pc and address; EXC is set. -/
def recordExc (l : Lane) (c : Fin 4) (code pc adr : Nat) : Lane :=
  let k := (coreOf l c).cur
  let l := fset (fset (fcount l (SYS_CEXC_COUNT c)) (SYS_CEXC_CODE c) code) (SYS_CEXC_TASK c) k.1
  let l := rset (rset l (SYS_CPC c) (wordOf pc)) (SYS_CADR c) (wordOf adr)
  stk l (SYS_CSTK_EXC c)

/-- Taking an exception (R79): the instruction has no effect and the job ends; the core records it and raises its source;
the commit buffer is discarded, tags follow R71, the stacks are emptied, registers and predicates keep their values; a
background task is released again at once. `cyc` is the cycle after the raising instruction. -/
def takeExc (l : Lane) (now : Nat) (c : Fin 4) (code adr cyc : Nat) : Lane :=
  let k := (coreOf l c).cur
  let pc := (curTask l c).pc
  let l := recordExc l c code pc adr
  let l := if code = excEcc then chkFail l else l
  let l := raiseO l now (0x70 + c.1) k.1 code 0#32
  let l := endJob l c k false
  let x := coreOf l c
  let l := putCore l c { x with cyc := cyc }
  let l := if isBg l c k then releaseTask l now (max cyc (cycleOf now)) c k else l
  dispatch l now c

end Sys2Proof.Machine
end

