-- ==== Sys2Proof/Machine/Roles.lean ====
section
/-!
DEFINITION. Lane roles and what the lanes see of each other (R18, R32, R426, R430, R433), and `settle`: the requests
the lanes have made of the world outside them are carried out (R13, R15, R431, R441).
-/
namespace Sys2Proof.Machine

/-- Codes of SYS_STS.LROLE (R32). -/
def roleOut : Nat := 0
def roleCatchUp : Nat := 1
def roleStandby : Nat := 2
def roleActive : Nat := 3
def roleFault : Nat := 4

/-- The role of a lane. -/
def roleOf (l : Lane) : Nat := fget l SYS_STS_LROLE

/-- A lane's role changes: a Peat-log and a frame-memory entry and XLN_STK.ROLE (R426); an ACTIVE lane claims (R430). -/
def setRole (now r : Nat) (l : Lane) : Lane :=
  if roleOf l = r then l
  else
    let c0 := wordOf (roleOf l + 256 * r)
    let l := fset l SYS_STS_LROLE r
    let l := peatWrite l now 1 1 0 1 c0 0#32
    let l := fmWrite l now 1 1 0 c0 0#32
    fsetB (stkSeen l XLN_STK_ROLE) XLN_STS_CLAIM (decide (r = roleActive))

/-- Whether XLN carries symbols between two powered lanes (R18). -/
def xlnOn (s : State) : Bool :=
  s.la.powered && s.lb.powered && bit (fget s.la CLK_DOM_RUN) 5 && bit (fget s.lb CLK_DOM_RUN) 5 && (vget s.xlnUp 0 || vget s.xlnUp 1)

/-- What a lane sees of its peer (R18, R32, R33, R445): PEERUP while the peer is in STANDBY, CATCH-UP or ACTIVE and XLN
is up; SOLO but for the two lanes of a pair that exchanges receipt masks, one of which is in STANDBY or CATCH-UP (log 80). -/
def seePeer (up : Bool) (peer : Lane) (c0 c1 : Bool) (l : Lane) : Lane :=
  let p := up && laneJoined peer
  let was := fon l SYS_STS_SOLO
  let follows (x : Lane) : Bool := decide (roleOf x = roleStandby) || decide (roleOf x = roleCatchUp)
  let pair := p && (follows peer || (follows l && decide (roleOf peer = roleActive)))
  let l := fsetB (fsetB l SYS_STS_PEERUP p) SYS_STS_SOLO (!pair)
  let l := stkSeenIf (!was && !pair) l SYS_STK_SOLOSET
  let l := if up then fset l XLN_STS_PROLE (roleOf peer) else l
  let l := fsetB l XLN_STS_PCLAIM (up && fon peer XLN_STS_CLAIM)
  fsetB (fsetB l XLN_STS_CH0UP (up && c0)) XLN_STS_CH1UP (up && c1)

/-- Both powered lanes' view of each other is brought up to date. -/
def peers (s : State) : State :=
  let up := xlnOn s
  let c0 := vget s.xlnUp 0
  let c1 := vget s.xlnUp 1
  let a := if s.la.powered then seePeer up s.lb c0 c1 s.la else s.la
  let b := if s.lb.powered then seePeer up s.la c0 c1 s.lb else s.lb
  { s with la := a, lb := b }

/-- No hand-over is in progress any more (R432, R445). -/
def hoEnd (s : State) : State :=
  let idle (l : Lane) : Lane := fsetB l XLN_STS_HOBUSY false
  { s with la := idle s.la, lb := idle s.lb, ho := .none, hoOut := false }

/-- The lane that is ACTIVE, if one is. -/
def activeLane (s : State) : Option LaneId :=
  if laneActive s.la then some .A else if laneActive s.lb then some .B else none

/-- Whether the peer of lane `i` is in STANDBY and reachable (R431). -/
def peerStandby (s : State) (i : LaneId) : Bool :=
  let p := laneOf s (otherLane i)
  p.powered && decide (roleOf p = roleStandby) && xlnOn s

/-- The ring of frame memory changes, and with it the header and its check word (R441). -/
def fmRing (s : State) (ring : List PeatEntry) (head : Nat) : State :=
  { s with fm := { s.fm with ring := ring, head := head, hcrc := crc32c [wordOf (head % 256 + 256 * (ring.length % 512))] } }

/-- A frame-memory entry is written to the ring, 256 entries at most, the oldest overwritten (R441). -/
def fmPush (e : PeatEntry) (s : State) : State :=
  let r := s.fm.ring ++ [e]
  fmRing s (r.drop (r.length - 256)) ((s.fm.head + 1) % 256)

/-- Whether lane `i` writes an entry of its own to the ring although it is not ACTIVE (R441): its own shut-down and FAULT, the change by
which it ceased to be ACTIVE, a protected command, a power fail (R408). -/
def ownEntry (i : LaneId) (e : PeatEntry) : Bool :=
  decide (e.kind = 2) || (decide (e.kind = 4) && decide (e.code = 3)) ||
  (decide (e.kind = 1) && decide (e.code = 1) && (decide (e.ctx0.toNat / 256 = roleFault) || decide (e.ctx0.toNat % 256 = roleActive))) ||
  (decide (e.kind = 1) && decide (e.code = 4) && decide (e.ctx0.toNat = (match i with | .A => 144 | .B => 145)))

/-- Whether an entry is of one lane alone, so that the ACTIVE lane writes it for the lane (R441): a change of role, a start-up. -/
def peerEntry (e : PeatEntry) : Bool := (decide (e.kind = 1) && decide (e.code = 1)) || decide (e.kind = 3)

/-- Whether an axis's stop is one of a yield that found no peer. -/
def axNoYield (l : Lane) (a : Axis) (ok : Bool) : Lane :=
  { l with axes := vmod l.axes a fun x => { x with stopNy := x.stopNy || ok } }

/-- An axis is asked for STO because a yield found no peer (R417, R424). -/
def yieldStop (l : Lane) (a : Axis) : Lane :=
  if axPeriods l a then axNoYield (axAsk l a 8) a (!(axSupers l a 8)) else l

/-- The order of hand-overs: a yield before the force-roles command, both before causes 1 to 4 (R418, R431). -/
def hoRank (cause : Nat) : Nat := if cause ≤ 4 then 0 else if cause = 8 then 1 else 2

/-- Whether a hand-over that waits or runs leaves room for a request of `cause` (R431). -/
def hoTakes (cause : Nat) (h : Handover) : Bool :=
  match h with
  | .none => true
  | .waiting c _ | .hreq c _ | .acked c _ => decide (hoRank c < hoRank cause)

/-- A hand-over takes a cause without conditions of its own: one that waited waits from now, one that runs goes on (R431). -/
def hoTake (cause now : Nat) (h : Handover) : Handover :=
  match h with
  | .none | .waiting _ _ => .waiting cause now
  | .hreq _ t => .hreq cause t
  | .acked _ t => .acked cause t

/-- Whether the NOYIELD response is in force in a lane (R417, R424). -/
def noYieldOn (l : Lane) : Bool := (allFin 16).any fun (a : Axis) => (vget l.axes a).stopNy

/-- A planned hand-over is asked for by lane `i` (R431). A cause at S5 without a peer in STANDBY leaves the lane ACTIVE:
NOYIELD is set and every axis that is not banked asks for IMSTOP (R417). A yield that finds an equal response in force is superseded
(R418); a lever makes the lane that hands over enter OUT (R426). -/
def wantHandover (i : LaneId) (cause : Nat) (s : State) : State :=
  let l := laneOf s i
  if !(laneActive l) then s
  else if hoRank cause = 2 ∧ ¬ peerStandby s i then
    inRunning (fun l => (allFin 16).foldl yieldStop (fltLate l (2 ^ 20 + (if noYieldOn l then 2 ^ 19 else 0)))) s
  else
    let out := s.hoOut || decide (cause = 2)
    if hoTakes cause s.ho then
      { (modLane s i fun l => fsetB l XLN_STS_HOBUSY true) with ho := hoTake cause s.now s.ho, hoOut := out }
    else if hoRank cause = 2 then inRunning (fun l => fltLate l (2 ^ 19)) { s with hoOut := out }
    else { s with hoOut := out }

/-- S6 in lane `i` (R417, R418): the ACTIVE lane has every link cartridge withhold /P/, and a yield in progress ends. -/
def safeEntered (i : LaneId) (s : State) : State :=
  if laneActive (laneOf s i) then
    let s := { s with links := s.links.map fun (x : LinkRt) => { x with send := false } }
    match s.ho with
    | .none => s
    | .waiting c _ | .hreq c _ | .acked c _ => if hoRank c = 2 then hoEnd s else s
  else s

/-! ## Self-test (R443, R444, R447) -/

/-- Whether some unit is flagged in a joined lane (R20, R431). -/
def anyFlag (s : State) : Bool :=
  let f (l : Lane) : Bool := laneJoined l && decide (rget l XLN_FLAG ≠ 0#32)
  f s.la || f s.lb

/-- How long logic BIST runs before memory BIST, when both are run: 50 ms (R442). -/
def logicTime : Nat := 160000000

/-- The test under way or restarting in a lane. -/
def testOf (s : State) (i : LaneId) (stage : Nat) : Option BistRt := s.bist.find? fun b => decide (b.lane = i) && decide (b.stage = stage)

/-- Tests that have ended leave. -/
def bistKeep (f : BistRt → Bool) (s : State) : State := { s with bist := s.bist.filter f }

/-- BST_STS as the powered lanes show it (R447): a test, then a restart, then a rolling run that waits. -/
def bistShow (s : State) : State :=
  let of_ (n : Nat) : Option BistRt := s.bist.find? fun b => decide (b.stage = n)
  let b := of_ 2 <|> of_ 3 <|> of_ 0
  let st := match b with
    | none => 0
    | some b =>
      if b.stage = 0 then 4 else if b.stage = 3 then 3
      else if b.run = 2 || (b.run = 3 && decide (b.at_ + logicTime ≤ s.now)) then 2 else 1
  let ln := match b with | some b => (match b.lane with | .A => 0 | .B => 1) | none => 0
  let put (l : Lane) : Lane := if l.powered then fset (fset l BST_STS_STATE st) BST_STS_LANE ln else l
  { s with la := put s.la, lb := put s.lb }

/-- A lane whose restart after a test ends in ACTIVE, with no peer to hand over to, takes its rolling run no further (R444). -/
def bistOver (i : LaneId) (s : State) : State :=
  if (testOf s i 3).isSome then bistShow (bistKeep (fun b => !(decide (b.lane = i) && decide (b.stage = 3))) s) else s

/-- The test of a lane begins: it enters OUT (R426, R443, R444). -/
def bistBegin (i : LaneId) (run roll : Nat) (s : State) : State :=
  bistShow { (modLane s i (setRole s.now roleOut)) with
    bist := (s.bist.filter fun b => decide (b.lane ≠ i) || decide (b.stage < 2)) ++
      [{ lane := i, run := run, stage := 2, roll := roll, at_ := s.now, due := 0, own := false }] }

/-- A BIST command that its conditions do not allow (R447). -/
def bistRefuse (s : State) : State := inRunning (fun l => stk l BST_STK_REFUSED) s

/-- The hand-over that a test waits for does not free its lane: the test is refused, a rolling run ends (R431, R444, R447). -/
def bistDrop (s : State) : State :=
  let w := s.bist.filter fun b => decide (b.stage = 1)
  let s := bistKeep (fun b => decide (b.stage ≠ 1)) s
  if w.any fun b => decide (b.roll = 0) then bistRefuse s else s

/-- A BIST is asked for (R443): `tgt` is the ACTIVE lane. A second one of the ACTIVE lane runs with the one that waits. -/
def bistCmd (run : Nat) (tgt : Bool) (s : State) : State :=
  match activeLane s with
  | none => s
  | some a =>
    if !tgt then (if peerStandby s a then bistBegin (otherLane a) run 0 s else bistRefuse s)
    else if peerStandby s a then
      if s.bist.any fun b => decide (b.stage = 1) then
        { s with bist := s.bist.map fun b => if b.stage = 1 then { b with run := b.run ||| run } else b }
      else
        wantHandover a 3 { s with bist := s.bist ++ [{ lane := a, run := run, stage := 1, roll := 0, at_ := s.now, due := 0, own := false }] }
    else if s.key && (allFin 16).all (fun x => !(axPeriods (laneOf s a) x)) then bistBegin a run 0 s
    else bistRefuse s

/-- Whether a rolling self-test is deferred (R444). -/
def rollDeferred (s : State) (a : LaneId) : Bool :=
  (laneRuns s.la && fon s.la THM_STS_LSTEP) || (laneRuns s.lb && fon s.lb THM_STS_LSTEP) || anyFlag s || !(peerStandby s a) ||
  fon (laneOf s a) BST_RDEF_DEFER

/-- A rolling self-test judged from ship time `due` begins with the STANDBY lane, or waits (R444); `own` says that RNOW asks for it. -/
def rollStart (due : Int) (own : Bool) (s : State) : State :=
  match activeLane s with
  | none => s
  | some a =>
    if rollDeferred s a then
      bistShow { s with bist := s.bist ++ [{ lane := otherLane a, run := 3, stage := 0, roll := 1, at_ := s.now, due := due, own := own }] }
    else bistBegin (otherLane a) 3 1 s

/-- RNOW (R444, R447): a rolling self-test now, under its deferral rules; a run that waits already is the one asked for. -/
def rollNow (s : State) : State :=
  match activeLane s with
  | none => s
  | some a => if s.bist.any fun b => decide (b.stage = 0) then s else rollStart (shipNs (laneOf s a)) true s

/-! ## Ports and cartridges -/

/-- The brick and the side of a link cartridge's port: L1 and L2 serve bricks 0 to 15, L3 and L4 the others. -/
def portBrick (p : PortRef) : Brick := ⟨p.port.1 + (if p.link.1 < 2 then 0 else 16), by split <;> omega⟩
def portSide (p : PortRef) : Fin 2 := if p.link.1 % 2 = 0 then 0 else 1

/-- The link cartridge of a brick's port. -/
def linkOf (b : Brick) (i : Fin 2) : LinkNo := ⟨(if b.1 < 16 then 0 else 2) + i.1, by split <;> omega⟩

/-- A brick changed. -/
def modBrick (s : State) (b : Brick) (f : BrickRt → BrickRt) : State := { s with bricks := vmod s.bricks b f }

/-- A port changed. -/
def modPort (s : State) (b : Brick) (i : Fin 2) (f : PortRt → PortRt) : State :=
  modBrick s b fun x => { x with ports := vmod x.ports i f }

/-- A brick's port. -/
def portOf (s : State) (b : Brick) (i : Fin 2) : PortRt := vget (vget s.bricks b).ports i

/-- Whether the link cartridge of slot S5 to S8 takes part (R35). -/
def linkPresent (s : State) (k : LinkNo) : Bool := s.pres.getLsbD (4 + k.1) && s.okc.getLsbD (4 + k.1)

/-- A port loses its link at both ends (R262). -/
def portDown (_ : PortRt) : PortRt := PortRt.zero

/-- The link cartridge's end of a port is DOWN (R262): what it measured is lost. -/
def linkEndDown (q : PortRt) : PortRt :=
  { q with lst := 0, dls := [], rej := 0, burst := false, nAcc := 0, echo := 0, wait := false, eAt := none, mDn := none, mUp := none, sAt := none, sN := 0 }

/-- The brick's end of a port is DOWN (R262). -/
def brickEndDown (q : PortRt) : PortRt :=
  { q with bst := 0, agr := 0, pn := none, pAt := 0, pRun := 0, pOk := false, seen := none, good := 0 }

/-- A link cartridge turns its transmitters off (R386): its ports are down at both ends. -/
def linkDark (k : LinkNo) (s : State) : State :=
  let s := { s with links := vmod s.links k fun x => { x with dark := true, send := false } }
  (allFin 16).foldl (fun (s : State) (q : Fin 16) =>
    let r : PortRef := { link := k, port := q }
    modBrick (modPort s (portBrick r) (portSide r) portDown) (portBrick r) fun x =>
      if x.ports.toList.all fun q => decide (q.bst = 0) then { x with tbase := false } else x) s

/-- Whether a field cartridge takes part (R35). -/
def fieldPresent (s : State) (f : FieldNo) : Bool := s.pres.getLsbD (8 + f.1) && s.okc.getLsbD (8 + f.1)

/-- Whether a pair of a field cartridge is energised (R330). -/
def pairOn (s : State) (f : FieldNo) : Bool := let x := vget s.fields f; x.stoA && x.stoB && !x.disc

/-- The STO configuration as treated: 0b00 as both (R441). -/
def stoConfig (s : State) : Nat := if s.fm.sto % 4 = 0 then 3 else s.fm.sto % 4

/-- The permit condition of R13: every present configured pair energised, and one configured cartridge present. -/
def stoCondition (s : State) : Bool :=
  let cfg := (allFin 2).filter fun f => bit (stoConfig s) f.1
  let here := cfg.filter (fieldPresent s)
  !here.isEmpty && here.all (pairOn s)

/-- What a change of the module does to axes when it ends the permit condition: they are asked for STO (R249, R332). -/
def permitLoss (before s : State) : State :=
  if stoCondition before && !(stoCondition s) then inRunning permitAsk s else s

/-- The fixed latency of every output path (R307, R324): 12 µs in edge ticks. -/
def outLatency : Nat := 38400

/-- Something happens at the outputs of a field cartridge at edge tick `t`. -/
def outEvent (t : Nat) (ev : OutEv) (x : FieldRt) : FieldRt :=
  match ev with
  | .sw j on => { x with out := BitVec.ofNat 16 (setBits x.out.toNat j.1 1 (b2n on)), outT := vset x.outT j t }
  | .xc j on => { x with xc := BitVec.ofNat 8 (setBits x.xc.toNat j.1 1 (b2n on)) }
  | .pulse j up => { x with px := vmod x.px j fun n => if up then n + 1 else n - 1 }

/-- A field cartridge at edge tick `t`: what was to come by then has come. -/
def fieldAt (t : Nat) (x : FieldRt) : FieldRt :=
  (x.pend.filter fun e => decide (e.1 ≤ t)).foldl (fun x e => outEvent e.1 e.2 x)
    { x with pend := x.pend.filter fun e => decide (t < e.1) }

/-- What is to come at the outputs of a field cartridge is added by lane `i`, whose transmit path its selector names (R15). -/
def fieldDrive (i : LaneId) (f : FieldNo) (g : FieldRt → FieldRt) (s : State) : State :=
  let x := vget s.fields f
  if fieldPresent s f && x.sel = i then { s with fields := vset s.fields f (g x) } else s

/-- An output switch is commanded through its field cartridge by lane `i`, 12 µs after the commit (R15, R324): in SAFE the cartridge
ignores it (R328). -/
def switchOutput (i : LaneId) (o : Fin 32) (on : Bool) (s : State) : State :=
  fieldDrive i ⟨o.1 / 16, by omega⟩ (fun x =>
    if x.safe then x else { x with pend := x.pend ++ [(s.now + outLatency, .sw ⟨o.1 % 16, Nat.mod_lt _ (by decide)⟩ on)] }) s

/-- A compare output is driven by lane `i` for `w` edge ticks, 12 µs after the event at `t`; a firing while it is high restarts the time
(R307, R308). -/
def switchCompare (i : LaneId) (e : FbkCh) (t w : Nat) (s : State) : State :=
  let j : Fin 8 := ⟨e.1 % 8, Nat.mod_lt _ (by decide)⟩
  fieldDrive i ⟨e.1 / 8, by omega⟩ (fun x => { x with
    pend := (x.pend.filter fun p => decide (p.2 ≠ .xc j false) || decide (p.1 ≤ t + outLatency)) ++ [(t + outLatency, .xc j true), (t + w + outLatency, .xc j false)] }) s

/-- The edges of a pulse output, by lane `i` (R311). -/
def switchPulse (i : LaneId) (e : FbkCh) (edges : List (Nat × Bool)) (s : State) : State :=
  fieldDrive i ⟨e.1 / 8, by omega⟩ (fun x => { x with
    pend := x.pend ++ edges.map fun p => (p.1, .pulse ⟨e.1 % 8, Nat.mod_lt _ (by decide)⟩ p.2) }) s

/-- A cartridge is released from SAFE by lane `i` (R328): its outputs take their committed states, 12 µs after the commit. -/
def releaseSafe (i : LaneId) (f : FieldNo) (s : State) : State :=
  let x := vget s.fields f
  let l := laneOf s i
  if fieldPresent s f && x.sel = i && x.safe then
    let on (j : Fin 16) : Bool := fon l (FIO_OSTS_CMD (16 * f.1 + j.1)) && fget l (FIO_OSTS_STATE (16 * f.1 + j.1)) ≠ 3
    { s with fields := vset s.fields f { x with
        safe := false, pend := x.pend ++ (allFin 16).map fun j => (s.now + outLatency, .sw j (on j)) } }
  else s

/-- One request of a lane is carried out. -/
def serveReq (i : LaneId) (r : LaneReq) (s : State) : State :=
  match r with
  | .handover cause => wantHandover i cause s
  | .yieldNamed n =>
    -- a lane that stops itself under R385 does not stay ACTIVE when it finds no peer (R417)
    if i = n ∧ ¬ ((laneOf s i).shut ∧ ¬ peerStandby s i) then wantHandover i 5 s else s
  | .claimDrop =>
    -- a clock fault at S5 (R426, R433): FAULT, the claim released without a handshake; an ACTIVE lane without a peer stays (R417)
    if laneActive (laneOf s i) ∧ ¬ peerStandby s i then wantHandover i 5 s else modLane s i (setRole s.now roleFault)
  | .frameMem e =>
    -- the ACTIVE lane writes the module-level events, its peer's own among them; a lane writes its own shut-down and FAULT itself (R441)
    if laneActive (laneOf s i) || ownEntry i e || (peerEntry e && (activeLane s).isSome) then fmPush e s else s
  | .fault => modLane s i (setRole s.now roleFault)
  | .output o on => switchOutput i o on s
  | .compare e t w => switchCompare i e t w s
  | .pulse e edges => switchPulse i e edges s
  | .srel mask => (allFin 2).foldl (fun (s : State) (f : FieldNo) => if bit mask f then releaseSafe i f s else s) s
  | .linkShut k =>
    -- the first lane that grades it acts; both set LSHUT and write their records (R386)
    modLane (if (vget s.links k).shut then s else linkDark k { s with links := vmod s.links k fun x => { x with shut := true } }) i fun l =>
      let o := wordOf (146 + k.1)
      fmWrite (peatWrite (stkSeen l THM_STK_LSHUT) s.now 1 4 0 1 o 0#32) s.now 1 4 0 o 0#32
  | .bist run tgt => if laneActive (laneOf s i) then bistCmd run tgt s else s
  | .rnow => if laneActive (laneOf s i) then rollNow s else s
  | .safeIn => safeEntered i s
  | .cordCmd c => { s with cord := match i with | .A => { s.cord with pathA := some c } | .B => { s.cord with pathB := some c } }

/-- Whether a lane's channels to the cartridges carry symbols (R430): its Link domain runs. -/
def laneSends (l : Lane) : Bool := l.powered && bit (fget l CLK_DOM_RUN) 5

/-- Whether a lane drives its claim line (R430). -/
def laneClaims (l : Lane) : Bool := l.powered && fon l XLN_STS_CLAIM

/-- The role selectors (R15, R430): every link and field cartridge follows lane X that claims while the other does not claim or
is silent. -/
def selectors (s : State) : State :=
  let take (x y : Lane) : Bool := laneClaims x && laneSends x && (!(laneClaims y) || !(laneSends y))
  let put (i : LaneId) : State :=
    { s with links := s.links.map fun k => { k with sel := i }, fields := s.fields.map fun f => { f with sel := i } }
  if take s.la s.lb then put .A else if take s.lb s.la then put .B else s

/-- The requests of both lanes are carried out in order. -/
def serveAll (s : State) : State :=
  let ra := s.la.out
  let rb := s.lb.out
  let s := { s with la := { s.la with out := [] }, lb := { s.lb with out := [] } }
  rb.foldl (fun s r => serveReq .B r s) (ra.foldl (fun s r => serveReq .A r s) s)

/-- The requests of both lanes are carried out, then the frame-memory entries these have led to, and the lanes' views of each other
and the selectors follow. -/
def settle (s : State) : State := selectors (peers (serveAll (serveAll s)))

end Sys2Proof.Machine
end

