-- ==== Sys2Proof/Machine/Operands.lean ====
section
/-!
DEFINITION. The issue of a Rylin instruction: fetch errors (R46), words that ILL refuses (R51), guards (R48, R49), stalls
and cycle counts (R44, R50), operand forms, and the end of an instruction in a next state or an exception (R79).
-/
namespace Sys2Proof.Machine

/-- How an instruction ends: with the lane it leaves, or in an exception taken in the lane `l`, with its code, its address and the
cycle after the instruction. -/
inductive Eff where
  | ok (l : Lane)
  | exc (l : Lane) (code adr cyc : Nat)

/-- Sign extension of a 12-bit immediate (R47). -/
def sext12 (v : BitVec 12) : Word := v.signExtend 32

/-- Zero extension of a 12-bit immediate. -/
def zext12 (v : BitVec 12) : Word := v.setWidth 32

/-- The guard is 0b1000, never (R48). -/
def guardNever (g : Guard) : Bool := g.neg && decide (g.p = 0#3)

/-- The guard's condition p XOR N (R48). -/
def guardOn (t : TaskCtx) (g : Guard) : Bool := getP t g.p != g.neg

/-- The cycle at which an instruction issues: once its load operands are written (R44). -/
def issueCycle (x : Core) (srcs : List RegNo) : Nat :=
  srcs.foldl (fun m r => max m (vget x.avail r.toFin)) x.cyc

/-- Idle cycles after an instruction of a background task under lane throttling (R380). -/
def idleCycles (l : Lane) (c : Fin 4) : Nat :=
  if isBg l c (coreOf l c).cur then 2 ^ fget l THM_STS_LSTEP - 1 else 0

/-- A core's next issue cycle set. -/
def setCyc (l : Lane) (c : Fin 4) (cyc : Nat) : Lane := let x := coreOf l c; putCore l c { x with cyc := cyc }

/-- A single-bit error met: the instruction is replayed, 16 cycles more, with ECCREP (R46); the self-check record notes
it (R435). -/
def eccReplay (l : Lane) (c : Fin 4) : Lane :=
  let x := coreOf l c
  chkFail (stk (putCore l c { x with cyc := x.cyc + 16 }) (SYS_CSTK_ECCREP c))

/-- The outcome of an instruction in its lane. What it sets and counts falls into its own core cycle; the hardware's events stay in the
cycle of now (R8). -/
def finish (i : Issue) (s : State) (e : Eff) : State :=
  match e with
  | .ok l => putLane s i.lane (atCycle (laneOf s i.lane).cyc.now l)
  | .exc l code adr cyc =>
    settle (putLane s i.lane
      (atCycle (laneOf s i.lane).cyc.now (takeExc (atCycle (cyc - 1) l) s.now i.core code adr cyc)))

/-- The lane once an instruction has issued, before its effect: its core stands at the cycle after it (R44, R50, R380), a corrected
fetch costing a replay (R46). -/
def issuedLane (i : Issue) (l : Lane) (cost : Nat) (srcs : List RegNo) : Lane :=
  let c := i.core
  let l1 := atCycle (issueCycle (coreOf l c) srcs) (setCyc l c (issueCycle (coreOf l c) srcs + cost + idleCycles l c))
  if i.fetch = .single then atCycle (issueCycle (coreOf l c) srcs + 16) (eccReplay l1 c) else l1

/-- The issue of one instruction. `ill`: the word carries an encoding R51 refuses. `cost`: its stated cycles. `srcs`: the
registers it reads. `skip`: what a false guard does. `eff`: its effect on a lane whose core stands at the cycle after it. -/
def issueG (i : Issue) (s : State) (ill : Bool) (cost : Nat) (srcs : List RegNo) (skip : Lane → Lane)
    (eff : Lane → Eff) : State :=
  let l0 := laneOf s i.lane
  let c := i.core
  let at0 := issueCycle (coreOf l0 c) srcs
  if asleep l0 then s else
  match i.fetch with
  | .double => finish i s (.exc (setCyc l0 c at0) excEcc (curTask l0 c).pc (at0 + 1))
  | _ =>
    let l2 := issuedLane i l0 cost srcs
    if ill || guardNever i.guard then finish i s (.exc l2 excIll 0 (at0 + 1))
    else if guardOn (curTask l2 c) i.guard then finish i s (eff l2)
    else finish i s (.ok (skip l2))

/-- A false guard's usual effect: the next instruction (R49). -/
def skipNext (c : Fin 4) (l : Lane) : Lane := putCur l c (nextPc (curTask l c))

/-- An instruction whose effect changes only the loaded context. -/
def issueT (i : Issue) (s : State) (ill : Bool) (cost : Nat) (srcs : List RegNo) (f : TaskCtx → TaskCtx) : State :=
  issueG i s ill cost srcs (skipNext i.core) fun l => .ok (putCur l i.core (nextPc (f (curTask l i.core))))

/-- Register form: rd from ra and rb (R52). -/
def issueRR (i : Issue) (s : State) (cost : Nat) (rd ra rb : RegNo) (f : Word → Word → Word) : State :=
  issueT i s false cost [ra, rb] fun t => setW t rd (f (getW t ra) (getW t rb))

/-- Unary and immediate forms: rd from ra (R52, R54). -/
def issueR1 (i : Issue) (s : State) (cost : Nat) (rd ra : RegNo) (f : Word → Word) : State :=
  issueT i s false cost [ra] fun t => setW t rd (f (getW t ra))

/-- Register form that may set SYS_CSTKn.DIVZ: a division (R53). -/
def issueDiv (i : Issue) (s : State) (rd ra rb : RegNo) (f : Word → Word → Word) : State :=
  issueG i s false 12 [ra, rb] (skipNext i.core) fun l =>
    let t := curTask l i.core
    let l := putCur l i.core (nextPc (setW t rd (f (getW t ra) (getW t rb))))
    .ok (stkIf (decide (getW t rb = 0#32)) l (SYS_CSTK_DIVZ i.core))

/-- The sticky conditions of a block-float computation (R65, R66). -/
def bfStk (l : Lane) (c : Fin 4) (f : BfFlags) : Lane :=
  stkIf f.und (stkIf f.ovf (stkIf f.range l (SYS_CSTK_BFRANGE c)) (SYS_CSTK_BFOVF c)) (SYS_CSTK_BFUND c)

/-- A block-float instruction: a word and flags from the loaded context. -/
def issueBf (i : Issue) (s : State) (cost : Nat) (srcs : List RegNo) (rd : RegNo) (f : TaskCtx → Word × BfFlags) : State :=
  issueG i s false cost srcs (skipNext i.core) fun l =>
    let t := curTask l i.core
    let r := f t
    .ok (bfStk (putCur l i.core (nextPc (setW t rd r.1))) i.core r.2)

end Sys2Proof.Machine
end

