-- ==== Sys2Proof/Machine/Flags.lean ====
section
/-!
DEFINITION. Comparisons and the way an outcome enters a predicate (R55), and the arithmetic that saturates or has defined
corners (R52, R53).
-/
namespace Sys2Proof.Machine

/-- An outcome combined into the predicate `pd` as `cm` says: set, AND, OR; cm 0b11 is reserved (R55). -/
def combine (cm : BitVec 2) (old c : Bool) : Bool :=
  if cm = 0#2 then c else if cm = 1#2 then old && c else old || c

/-- The outcome of CMP by fn on two words; none for a reserved fn. The second part is the block-float range flag. -/
def cmpOutcome (fn : BitVec 7) (a b : Word) : Option (Bool × Bool) :=
  match fn.toNat with
  | 0x00 => some (decide (a = b), false)
  | 0x01 => some (decide (a ≠ b), false)
  | 0x02 => some (decide (a.toInt < b.toInt), false)
  | 0x03 => some (decide (b.toInt ≤ a.toInt), false)
  | 0x04 => some (decide (a.toNat < b.toNat), false)
  | 0x05 => some (decide (b.toNat ≤ a.toNat), false)
  | 0x06 => some (decide (a &&& b ≠ 0#32), false)
  | 0x08 => some (dyEq (bfVal a) (bfVal b), bfOut a || bfOut b)
  | 0x09 => some (dyLt (bfVal a) (bfVal b), bfOut a || bfOut b)
  | 0x0A => some (!dyLt (bfVal b) (bfVal a), bfOut a || bfOut b)
  | _ => none

/-- The operand of CMPI: imm9 sign-extended, zero-extended for TST (R55). -/
def cmpiOperand (cond : BitVec 3) (imm : BitVec 9) : Word :=
  if cond = 6#3 then imm.setWidth 32 else imm.signExtend 32

/-- Saturated signed sum (R52). -/
def saddW (a b : Word) : Word := BitVec.ofInt 32 (satInt (-2147483648) 2147483647 (a.toInt + b.toInt))

/-- Saturated signed difference (R52). -/
def ssubW (a b : Word) : Word := BitVec.ofInt 32 (satInt (-2147483648) 2147483647 (a.toInt - b.toInt))

/-- Signed minimum and maximum, unsigned minimum and maximum (R52). -/
def minW (a b : Word) : Word := if a.toInt ≤ b.toInt then a else b
def maxW (a b : Word) : Word := if a.toInt ≤ b.toInt then b else a
def minuW (a b : Word) : Word := if a.toNat ≤ b.toNat then a else b
def maxuW (a b : Word) : Word := if a.toNat ≤ b.toNat then b else a

/-- The high words of the signed and of the unsigned product (R52). -/
def mulhsW (a b : Word) : Word := BitVec.ofInt 32 (a.toInt * b.toInt / 4294967296)
def mulhuW (a b : Word) : Word := BitVec.ofNat 32 (a.toNat * b.toNat / 4294967296)

/-- The Q16.16 product, rounded to nearest with ties away from zero, saturated (R52). -/
def mulqW (a b : Word) : Word :=
  BitVec.ofInt 32 (satInt (-2147483648) 2147483647 (rdiv (a.toInt * b.toInt) 65536))

/-- Signed division with its defined corners (R53). -/
def divW (a b : Word) : Word :=
  if b = 0#32 then (if 0 ≤ a.toInt then 0x7FFFFFFF#32 else 0x80000000#32)
  else if a = 0x80000000#32 ∧ b = 0xFFFFFFFF#32 then 0x7FFFFFFF#32
  else BitVec.ofInt 32 (a.toInt.tdiv b.toInt)

/-- Unsigned division (R53). -/
def divuW (a b : Word) : Word := if b = 0#32 then 0xFFFFFFFF#32 else BitVec.ofNat 32 (a.toNat / b.toNat)

/-- Signed remainder ra − (ra DIV rb) × rb with its corners (R52, R53). -/
def remW (a b : Word) : Word :=
  if b = 0#32 then a
  else if a = 0x80000000#32 ∧ b = 0xFFFFFFFF#32 then 0#32
  else BitVec.ofInt 32 (a.toInt - a.toInt.tdiv b.toInt * b.toInt)

/-- Unsigned remainder (R53). -/
def remuW (a b : Word) : Word := if b = 0#32 then a else BitVec.ofNat 32 (a.toNat % b.toNat)

/-- Leading zeros, 0 to 32 (R52). -/
def clzW (a : Word) : Word := if a = 0#32 then 32#32 else BitVec.ofNat 32 (31 - Nat.log2 a.toNat)

/-- ABS, with ABS(0x8000_0000) = 0x7FFF_FFFF (R52). -/
def absW (a : Word) : Word := if a = 0x80000000#32 then 0x7FFFFFFF#32 else if a.toInt < 0 then 0#32 - a else a

/-- A shift amount (R52). -/
def amt (b : Word) : Nat := b.toNat % 32

end Sys2Proof.Machine
end

