-- ==== Sys2Proof/Machine/Alu.lean ====
section
/-!
DEFINITION. The integer instructions (R52, R53), their immediate forms (R54), comparisons and predicates (R55, R56):
one meaning per instruction over the shared issue of Machine/Operands.lean.
-/
namespace Sys2Proof.Machine

/-- ADD (R52). -/
def execAdd (i : Issue) (rd ra rb : RegNo) (s : State) : Out :=
  .next (issueRR i s 1 rd ra rb (fun a b => a + b))

/-- SUB (R52). -/
def execSub (i : Issue) (rd ra rb : RegNo) (s : State) : Out :=
  .next (issueRR i s 1 rd ra rb (fun a b => a - b))

/-- AND (R52). -/
def execAnd (i : Issue) (rd ra rb : RegNo) (s : State) : Out :=
  .next (issueRR i s 1 rd ra rb (fun a b => a &&& b))

/-- OR (R52). -/
def execOr (i : Issue) (rd ra rb : RegNo) (s : State) : Out :=
  .next (issueRR i s 1 rd ra rb (fun a b => a ||| b))

/-- XOR (R52). -/
def execXor (i : Issue) (rd ra rb : RegNo) (s : State) : Out :=
  .next (issueRR i s 1 rd ra rb (fun a b => a ^^^ b))

/-- ANDN (R52). -/
def execAndn (i : Issue) (rd ra rb : RegNo) (s : State) : Out :=
  .next (issueRR i s 1 rd ra rb (fun a b => a &&& ~~~b))

/-- SHL (R52). -/
def execShl (i : Issue) (rd ra rb : RegNo) (s : State) : Out :=
  .next (issueRR i s 1 rd ra rb (fun a b => a <<< amt b))

/-- SHR (R52). -/
def execShr (i : Issue) (rd ra rb : RegNo) (s : State) : Out :=
  .next (issueRR i s 1 rd ra rb (fun a b => a >>> amt b))

/-- SAR (R52). -/
def execSar (i : Issue) (rd ra rb : RegNo) (s : State) : Out :=
  .next (issueRR i s 1 rd ra rb (fun a b => a.sshiftRight (amt b)))

/-- ROR (R52). -/
def execRor (i : Issue) (rd ra rb : RegNo) (s : State) : Out :=
  .next (issueRR i s 1 rd ra rb (fun a b => a.rotateRight (amt b)))

/-- MIN (R52). -/
def execMin (i : Issue) (rd ra rb : RegNo) (s : State) : Out :=
  .next (issueRR i s 1 rd ra rb minW)

/-- MAX (R52). -/
def execMax (i : Issue) (rd ra rb : RegNo) (s : State) : Out :=
  .next (issueRR i s 1 rd ra rb maxW)

/-- MINU (R52). -/
def execMinu (i : Issue) (rd ra rb : RegNo) (s : State) : Out :=
  .next (issueRR i s 1 rd ra rb minuW)

/-- MAXU (R52). -/
def execMaxu (i : Issue) (rd ra rb : RegNo) (s : State) : Out :=
  .next (issueRR i s 1 rd ra rb maxuW)

/-- SADD (R52). -/
def execSadd (i : Issue) (rd ra rb : RegNo) (s : State) : Out :=
  .next (issueRR i s 1 rd ra rb saddW)

/-- SSUB (R52). -/
def execSsub (i : Issue) (rd ra rb : RegNo) (s : State) : Out :=
  .next (issueRR i s 1 rd ra rb ssubW)

/-- MUL (R52). -/
def execMul (i : Issue) (rd ra rb : RegNo) (s : State) : Out :=
  .next (issueRR i s 1 rd ra rb (fun a b => a * b))

/-- MULHS (R52). -/
def execMulhs (i : Issue) (rd ra rb : RegNo) (s : State) : Out :=
  .next (issueRR i s 1 rd ra rb mulhsW)

/-- MULHU (R52). -/
def execMulhu (i : Issue) (rd ra rb : RegNo) (s : State) : Out :=
  .next (issueRR i s 1 rd ra rb mulhuW)

/-- MULQ (R52). -/
def execMulq (i : Issue) (rd ra rb : RegNo) (s : State) : Out :=
  .next (issueRR i s 1 rd ra rb mulqW)

/-- DIV (R52, R53). -/
def execDiv (i : Issue) (rd ra rb : RegNo) (s : State) : Out :=
  .next (issueDiv i s rd ra rb divW)

/-- DIVU (R52, R53). -/
def execDivu (i : Issue) (rd ra rb : RegNo) (s : State) : Out :=
  .next (issueDiv i s rd ra rb divuW)

/-- REM (R52, R53). -/
def execRem (i : Issue) (rd ra rb : RegNo) (s : State) : Out :=
  .next (issueDiv i s rd ra rb remW)

/-- REMU (R52, R53). -/
def execRemu (i : Issue) (rd ra rb : RegNo) (s : State) : Out :=
  .next (issueDiv i s rd ra rb remuW)

/-- CLZ (R52). -/
def execClz (i : Issue) (rd ra : RegNo) (s : State) : Out :=
  .next (issueR1 i s 1 rd ra clzW)

/-- ABS (R52). -/
def execAbs (i : Issue) (rd ra : RegNo) (s : State) : Out :=
  .next (issueR1 i s 1 rd ra absW)

/-- SEXTB (R52). -/
def execSextb (i : Issue) (rd ra : RegNo) (s : State) : Out :=
  .next (issueR1 i s 1 rd ra (fun a => (a.setWidth 8).signExtend 32))

/-- SEXTH (R52). -/
def execSexth (i : Issue) (rd ra : RegNo) (s : State) : Out :=
  .next (issueR1 i s 1 rd ra (fun a => (a.setWidth 16).signExtend 32))

/-- ADDI (R54). -/
def execAddi (i : Issue) (rd ra : RegNo) (imm : BitVec 12) (s : State) : Out :=
  .next (issueR1 i s 1 rd ra (fun a => a + sext12 imm))

/-- ANDI (R54). -/
def execAndi (i : Issue) (rd ra : RegNo) (imm : BitVec 12) (s : State) : Out :=
  .next (issueR1 i s 1 rd ra (fun a => a &&& zext12 imm))

/-- ORI (R54). -/
def execOri (i : Issue) (rd ra : RegNo) (imm : BitVec 12) (s : State) : Out :=
  .next (issueR1 i s 1 rd ra (fun a => a ||| zext12 imm))

/-- XORI (R54). -/
def execXori (i : Issue) (rd ra : RegNo) (imm : BitVec 12) (s : State) : Out :=
  .next (issueR1 i s 1 rd ra (fun a => a ^^^ zext12 imm))

/-- MULI (R54). -/
def execMuli (i : Issue) (rd ra : RegNo) (imm : BitVec 12) (s : State) : Out :=
  .next (issueR1 i s 1 rd ra (fun a => a * sext12 imm))

/-- SHLI, the amount in imm12[4:0] (R54). -/
def execShli (i : Issue) (rd ra : RegNo) (k : BitVec 5) (s : State) : Out :=
  .next (issueR1 i s 1 rd ra (fun a => a <<< k.toNat))

/-- SHRI, the amount in imm12[4:0] (R54). -/
def execShri (i : Issue) (rd ra : RegNo) (k : BitVec 5) (s : State) : Out :=
  .next (issueR1 i s 1 rd ra (fun a => a >>> k.toNat))

/-- SARI, the amount in imm12[4:0] (R54). -/
def execSari (i : Issue) (rd ra : RegNo) (k : BitVec 5) (s : State) : Out :=
  .next (issueR1 i s 1 rd ra (fun a => a.sshiftRight k.toNat))

/-- RORI, the amount in imm12[4:0] (R54). -/
def execRori (i : Issue) (rd ra : RegNo) (k : BitVec 5) (s : State) : Out :=
  .next (issueR1 i s 1 rd ra (fun a => a.rotateRight k.toNat))

/-- MOVL: the zero-extended immediate (R54). -/
def execMovl (i : Issue) (rd : RegNo) (imm : BitVec 16) (s : State) : Out :=
  .next (issueT i s false 1 [] fun t => setW t rd (imm.setWidth 32))

/-- MOVH: bits [31:16] replaced, bits [15:0] kept (R54). -/
def execMovh (i : Issue) (rd : RegNo) (imm : BitVec 16) (s : State) : Out :=
  .next (issueT i s false 1 [rd] fun t => setW t rd (imm ++ (getW t rd).setWidth 16))

/-- CMP: two registers compared, the outcome combined into pd (R55). A reserved fn or cm, or pd = p0, is a word R51
refuses. -/
def execCmp (i : Issue) (pd : PredNo) (cm : BitVec 2) (ra rb : RegNo) (fn : BitVec 7) (s : State) : Out :=
  .next (issueG i s (decide (pd = 0#3) || decide (cm = 3#2) || (cmpOutcome fn 0#32 0#32).isNone) 1 [ra, rb]
    (skipNext i.core) fun l =>
      let t := curTask l i.core
      match cmpOutcome fn (getW t ra) (getW t rb) with
      | some (c, rng) =>
        .ok (stkIf rng (putCur l i.core (nextPc (setP t pd (combine cm (getP t pd) c)))) (SYS_CSTK_BFRANGE i.core))
      | none => .exc l excIll 0 (coreOf l i.core).cyc)

/-- CMPI: a register compared with imm9 (R55). -/
def execCmpi (i : Issue) (pd : PredNo) (cm : BitVec 2) (ra : RegNo) (cond : BitVec 3) (imm : BitVec 9) (s : State) : Out :=
  .next (issueT i s (decide (pd = 0#3) || decide (cm = 3#2) || decide (cond = 7#3)) 1 [ra] fun t =>
    match cmpOutcome (cond.setWidth 7) (getW t ra) (cmpiOperand cond imm) with
    | some (c, _) => setP t pd (combine cm (getP t pd) c)
    | none => t)

/-- PAND (R56). -/
def execPand (i : Issue) (pd pa pb : PredNo) (s : State) : Out :=
  .next (issueT i s false 1 [] fun t => setP t pd (getP t pa && getP t pb))

/-- POR (R56). -/
def execPor (i : Issue) (pd pa pb : PredNo) (s : State) : Out :=
  .next (issueT i s false 1 [] fun t => setP t pd (getP t pa || getP t pb))

/-- PXOR (R56). -/
def execPxor (i : Issue) (pd pa pb : PredNo) (s : State) : Out :=
  .next (issueT i s false 1 [] fun t => setP t pd (getP t pa != getP t pb))

/-- PANDN (R56). -/
def execPandn (i : Issue) (pd pa pb : PredNo) (s : State) : Out :=
  .next (issueT i s false 1 [] fun t => setP t pd (getP t pa && !getP t pb))

/-- PNOT (R56). -/
def execPnot (i : Issue) (pd pa : PredNo) (s : State) : Out :=
  .next (issueT i s false 1 [] fun t => setP t pd (!getP t pa))

/-- PTOW: p7…p0 into rd[7:0], rd[0] = 1, rd[31:8] zero (R56). -/
def execPtow (i : Issue) (rd : RegNo) (s : State) : Out :=
  .next (issueT i s false 1 [] fun t => setW t rd ((t.p ||| 1#8).setWidth 32))

/-- WTOP: ra[7:1] into p7…p1 (R56). -/
def execWtop (i : Issue) (ra : RegNo) (s : State) : Out :=
  .next (issueT i s false 1 [ra] fun t => { t with p := (getW t ra).setWidth 8 ||| 1#8 })

end Sys2Proof.Machine
end

