-- ==== Sys2Proof/Machine/Modul.lean ====
section
/-!
DEFINITION. Commutation and modulation (chapter 4): carriers and interleave (R117 to R122), the sine table (R123, R124),
duties and regions (R126 to R130), bands (R132, R133), sampling windows (R136 to R139), reconstruction (R141, R144) and
balancing trims (R145, R146).
-/
namespace Sys2Proof.Machine

/-! ## Reading descriptors -/

/-- A signed field in units of 1/65,536. -/
def q16 (l : Lane) (f : Field) : Rat := mkRat (fgetI l f) 65536

/-- An unsigned field in units of 1/4096. -/
def q12 (l : Lane) (f : Field) : Rat := mkRat (fget l f) 4096

/-- A signed field in units of 1/4096. -/
def q12s (l : Lane) (f : Field) : Rat := mkRat (fgetI l f) 4096

/-- An unsigned field in units of 1/256. -/
def q8 (l : Lane) (f : Field) : Rat := mkRat (fget l f) 256

/-- The code of a rational in units of 2^-k, rounded by R4 and saturated to a signed field of `w` bits. -/
def codeS (k w : Nat) (q : Rat) : Int :=
  satInt (-((2 : Int) ^ (w - 1))) ((2 : Int) ^ (w - 1) - 1) (rround (q * ((2 ^ k : Nat) : Rat)))

/-- The same, saturated to an unsigned field. -/
def codeU (k w : Nat) (q : Rat) : Nat :=
  (satInt 0 ((2 : Int) ^ w - 1) (rround (q * ((2 ^ k : Nat) : Rat)))).toNat

/-- The smaller and the larger of two rationals, and a rational held in a range. -/
def rmin (a b : Rat) : Rat := if a ≤ b then a else b
def rmax (a b : Rat) : Rat := if a ≤ b then b else a
def rclamp (lo hi x : Rat) : Rat := rmax lo (rmin hi x)
def rabs (x : Rat) : Rat := if x < 0 then -x else x
def rsign (x : Rat) : Rat := if x < 0 then -1 else if 0 < x then 1 else 0

/-- Sum of a list. -/
def rsum (xs : List Rat) : Rat := xs.foldl (fun a b => a + b) 0

/-- Mean of a list, zero when it is empty. -/
def rmean (xs : List Rat) : Rat := if xs.isEmpty then 0 else rsum xs / (xs.length : Rat)

/-- An axis's run data changed. -/
def modAx (l : Lane) (a : Axis) (f : AxisRt → AxisRt) : Lane := { l with axes := vmod l.axes a f }

/-- A leg's run data changed. -/
def modLeg (l : Lane) (n : Fin 128) (f : LegRt → LegRt) : Lane := { l with legs := vmod l.legs n f }

/-- A coppice's run data changed. -/
def modCop (l : Lane) (c : Fin 32) (f : CopRt → CopRt) : Lane := { l with cops := vmod l.cops c f }

/-- The winding sets an axis uses (R115). -/
def setsUsed (l : Lane) (a : Axis) : List (Fin 4) := (allFin 4).filter fun s => decide (fget l (AXS_WS_NCOP a s) ≠ 0)

/-- The valid coppices of a winding set, rising (R114). -/
def copsOf (l : Lane) (a : Axis) (s : Fin 4) : List (Fin 32) :=
  (allFin 32).filter fun c => fon l (LEG_CPC_VALID c) && fget l (LEG_CPC_AXIS c) = a.1 && fget l (LEG_CPC_WSET c) = s.1

/-- All valid coppices of an axis. -/
def copsOfAxis (l : Lane) (a : Axis) : List (Fin 32) :=
  (allFin 32).filter fun c => fon l (LEG_CPC_VALID c) && fget l (LEG_CPC_AXIS c) = a.1

/-- The coppices of a set in state RUN (R115, R151). -/
def copsRun (l : Lane) (a : Axis) (s : Fin 4) : List (Fin 32) := (copsOf l a s).filter fun c => fget l (LEG_CSTS_STATE c) = 1

/-- The leg of phase `x` of a coppice (R113). -/
def phaseLeg (l : Lane) (c x : Nat) : Option (Fin 128) := (legsOf l c).find? fun n => fget l (LEG_CFG_PHASE n) = x

/-- The timing axis of a brick (R116): the axis or host axis of its used legs. -/
def timingAxis (l : Lane) (b : Nat) : Option Axis :=
  (List.range 4).findSome? fun j =>
    let n := 4 * b + j
    match fget l (LEG_CFG_TYPE n) with
    | 1 => some ⟨fget l (LEG_CPC_AXIS (fget l (LEG_CFG_COPPICE n))) % 16, Nat.mod_lt _ (by decide)⟩
    | 2 => some ⟨fget l (LEG_CFG_HOST n) % 16, Nat.mod_lt _ (by decide)⟩
    | _ => none

/-- The bricks whose timing axis is `a`. -/
def bricksOf (l : Lane) (a : Axis) : List (Fin 32) := (allFin 32).filter fun b => timingAxis l b = some a

/-- The band in force of a brick (R132). -/
def bandOf (l : Lane) (b : Nat) : Nat := fget l (LEG_BAND_BAND b)

/-- The dead time of a brick in the band in force (R134). -/
def deadTime (l : Lane) (b : Nat) : Nat := fget l (LEG_GTB_DT b (bandOf l b))

/-- The dead time of a brick in the band that is in force at the edge tick `t` (R136). -/
def deadTimeAt (l : Lane) (b : Fin 32) (t : Int) : Nat :=
  let r := vget l.rx b
  if t < (r.bandT : Int) then r.dt0 else deadTime l b

/-! ## Carriers (R118 to R120) -/

/-- Division rounded up. -/
def cdiv (n d : Nat) : Nat := (n + d - 1) / d

/-- The rungs of R378 from the highest. -/
def rungs : List Nat := [160, 120, 80, 60, 40, 30, 20, 10]

/-- The carrier cap of a brick at throttle step `s` (R378): the rung `s` places below the highest one not above FCMAX and
the configured carrier, or 10 where the ladder ends. -/
def throttleCap (fcmax half s : Nat) : Nat :=
  ((rungs.filter fun r => r ≤ fcmax && (half = 0 || r ≤ 16000000 / half)).drop s).headD 10

/-- The period an axis's own bricks call for (R118, R378). -/
def ownPeriod (l : Lane) (a : Axis) : Nat :=
  let half := fget l (AXS_CAR_HALF a)
  (bricksOf l a).foldl (fun (p : Nat) (b : Fin 32) =>
    let fc := fget l (LEG_GTB_FCMAX b (bandOf l b))
    let st := fget l (THM_BST_STEP b)
    let p := max p (if fc = 0 then 0 else cdiv 16000000 fc)
    if st = 0 then p else max p (cdiv 16000000 (throttleCap fc half st))) half

/-- The period in force from the next carrier boundary (R118): the longest of a shaft group's members (R228). -/
def nextPeriod (l : Lane) (a : Axis) : Nat :=
  (groupOf l a).foldl (fun p g => (allFin 16).foldl (fun (p : Nat) (b : Axis) =>
    if bit (fget l (SHR_GCFG_MEMB g)) b then max p (ownPeriod l b) else p) p) (ownPeriod l a)

/-- The carrier lag of position `i` of a set (R120), in edge ticks; rounded once over the whole sum. -/
def carrierLag (wsoff tp i nact : Nat) : Nat :=
  if nact = 0 then 0 else ((wsoff * (2 * tp)) * nact + 256 * (i * (2 * tp))) / (256 * nact) % (2 * tp)

/-- One set's interleave re-formed (R115, R120, R146): NACT, positions and offsets; trims are zeroed when a coppice has left
or joined since the interleave was last formed. -/
def reformSet (l : Lane) (a : Axis) (s : Fin 4) : Lane :=
  let run := copsRun l a s
  let nact := run.length
  let changed := (copsOf l a s).any fun c => (vget l.cops c).inSet != run.contains c
  let l := (copsOf l a s).foldl (fun (l : Lane) (c : Fin 32) => modCop l c fun k => { k with inSet := run.contains c }) l
  let l := fset l (AXS_WS_NACT a s) nact
  let tp := tpOf l a
  let step (l : Lane) (ci : Fin 32 × Nat) : Lane :=
    let l := fset l (LEG_CSTS_IPOS ci.1) ci.2
    fset l (LEG_CSTS_OFFSET ci.1) (carrierLag (fget l (AXS_WS_WSOFF a s)) tp ci.2 nact)
  let l := run.zipIdx.foldl step l
  if changed then
    (copsOf l a s).foldl (fun (l : Lane) (c : Fin 32) => (legsOf l c).foldl (fun (l : Lane) (n : Fin 128) =>
      modLeg (fset l (LEG_TRIM_TRIM n) 0) n fun g => { g with tau := 0 }) l) l
  else l

/-- All sets of an axis re-formed. -/
def reform (l : Lane) (a : Axis) : Lane := (setsUsed l a).foldl (fun l s => reformSet l a s) l

/-! ## Bands (R132, R133) -/

/-- The band after a reading `t` (1/16 °C) from band `b` (R132). -/
def bandStep (b : Nat) (t : Int) : Nat :=
  let up := if 0x05A0 ≤ t then 3 else if 0x03C0 ≤ t then 2 else if 0 ≤ t then 1 else 0
  let dn := if t ≤ -48 then 0 else if t ≤ 0x0390 then 1 else if t ≤ 0x0570 then 2 else 3
  if b < up then up else if dn < b then dn else b

/-- The hottest of a brick's temperatures; a broken sensor counts as hotter than any threshold (R132). -/
def hottest (temps : List Int) (tbrk : Nat) : Int :=
  if tbrk % 16 ≠ 0 then 0x7FFF else temps.foldl max (-32768)

/-- The band of a brick is decided from the frame just consumed (R132, R133); PEND until it takes effect. -/
def decideBand (l : Lane) (b : Fin 32) : Lane :=
  let r := vget l.rx b
  if r.temps.isEmpty then l
  else
    let t := hottest r.temps r.tbrk
    let old := match r.band with | some x => x | none => bandOf l b
    let new := bandStep old t
    let l := fsetI l (LEG_BAND_TEMP b) t
    let l := { l with rx := vset l.rx b { r with band := if new = bandOf l b then none else some new } }
    fsetB l (LEG_BAND_PEND b) (decide (new ≠ bandOf l b))

/-- A decided band takes effect from the edge tick `t` (R133); the dead-time corrections of its legs are reset (R159). -/
def applyBand (l : Lane) (t : Nat) (b : Fin 32) : Lane :=
  match (vget l.rx b).band with
  | none => l
  | some x =>
    let dt := deadTime l b
    let l := fsetB (fset l (LEG_BAND_BAND b) x) (LEG_BAND_PEND b) false
    let l := stkLate { l with rx := vmod l.rx b fun r => { r with band := none, dt0 := dt, bandT := t } } LEG_STK_BANDCHG
    ((allFin 128).filter fun n => n.1 / 4 = b.1).foldl (fun l n => modLeg l n fun g => { g with ecorP := 0, ecorN := 0 }) l

/-! ## The sine table and duties (R123 to R130) -/

/-- T[i] of table `j` (R123). -/
def sineEntry (l : Lane) (j i : Nat) : Int := sInt 24 ((mget32 l (sineBase j + 4 * (i % 4096))).toNat % 2 ^ 24)

/-- The table read at an angle word (R124). -/
def sineAt (l : Lane) (j th : Nat) : Int :=
  let i : Nat := th % 2 ^ 32 / 2 ^ 20
  let f : Nat := th / 2 ^ 8 % 2 ^ 12
  let d := sineEntry l j (i + 1) - sineEntry l j i
  sineEntry l j i + rdiv (d * (f : Int)) 4096

/-- The angle of phase `x` (R126). -/
def phaseAngle (th x : Nat) : Nat :=
  (th + 2 ^ 32 - (match x with | 0 => 0 | 1 => 0x55555555 | _ => 0xAAAAAAAB)) % 2 ^ 32

/-- Upper M of the highest region OVM permits (R129). -/
def boundM (ovm : Nat) : Rat :=
  match ovm with
  | 0 => mkRat 0xE82A 65536
  | 1 => mkRat 0xF3A3 65536
  | 2 => mkRat 0xFFFF 65536
  | _ => 1

/-- The region of M (R129): 0 linear, 1 I, 2 II, 3 six-step. -/
def regionOf (m : Rat) : Nat := if m ≤ boundM 0 then 0 else if m ≤ boundM 1 then 1 else if m < 1 then 2 else 3

/-- The place of M in a 64-entry ROM table spaced evenly over its region (R129). -/
def romPlace (lo hi m : Rat) : Rat := rclamp 0 63 (63 * (m - lo) / (hi - lo))

/-- A ROM table read at a place, linearly interpolated (R129). -/
def romAt (tab : Nat → Rat) (u : Rat) : Rat :=
  let j := u.floor.toNat
  if 63 ≤ j then tab 63 else tab j + (tab (j + 1) - tab j) * (u - (j : Rat))

/-- The vertices of the hexagon as levels of phases A, B, C; vertex `j` lies at 30° + 60° × j of the modulation angle, where
the phase references are sines (R123, R126). -/
def hexVertex (j : Nat) : List Rat :=
  match j % 6 with
  | 0 => [1, 0, 1]
  | 1 => [1, 0, 0]
  | 2 => [1, 1, 0]
  | 3 => [0, 1, 0]
  | 4 => [0, 1, 1]
  | _ => [0, 0, 1]

/-- The duties of a voltage vector at angle `th` that follows the hexagon side and is held at the nearest vertex for `ah`
turns either side of it (R129). -/
def hexDuties (ah : Rat) (th : Nat) : List Rat :=
  let p : Rat := 6 * mkRat th (2 ^ 32) + 6 - mkRat 1 2
  let k := p.floor.toNat
  let al := (p - (k : Rat)) / 6
  let be := mkRat 1 6 - al
  let t : Rat := if al ≤ ah then 0 else if be ≤ ah then 1
    else Config.sinT al / (Config.sinT al + Config.sinT be)
  ((hexVertex k).zip (hexVertex (k + 1))).map fun uv => uv.1 + (uv.2 - uv.1) * t

/-- Angle words of one electrical turn at which a fundamental is summed, 1,536 evenly spaced, and the default table's value at
an angle word. -/
def turnWords : List Nat := (List.range 1536).map fun i => i * 2 ^ 32 / 1536
def romSine (th : Nat) : Rat := mkRat (sineDefault (th / 2 ^ 20)) (2 ^ 23)

/-- The fundamental of a phase's duty over one turn, as the index M that R127 gives a sine of that amplitude (R129). -/
def fundamental (d : Nat → Rat) : Rat :=
  Config.pi / 1536 * rsum (turnWords.map fun th => (d th - mkRat 1 2) * romSine th)

/-- The duty of phase A in region I with boost `b` (R129), with the default sine table. -/
def boostDuty (b m : Rat) (th : Nat) : Rat :=
  let ss := (List.range 3).map fun p => romSine (phaseAngle th p)
  let s0 := -(ss.foldl rmax (ss.headD 0) + ss.foldl rmin (ss.headD 0)) / 2
  rclamp 0 1 (mkRat 1 2 + b * (m * (2 / Config.pi)) * (ss.headD 0 + s0))

/-- The fundamental of region I's clipped waveform at M under a boost, and of region II's waveform under a hold angle. -/
def boostFund (m b : Rat) : Rat := fundamental (boostDuty b m)
def holdFund (ah : Rat) : Rat := fundamental fun th => (hexDuties ah th).headD 0

/-- The argument in `lo` to `hi` at which a rising `f` reaches `y`, by halving. -/
def solveRising (f : Rat → Rat) (y : Rat) : Nat → Rat → Rat → Rat
  | 0, lo, hi => (lo + hi) / 2
  | n + 1, lo, hi =>
    let m := (lo + hi) / 2
    if f m < y then solveRising f y n m hi else solveRising f y n lo m

/-- A fundamental error below 0.5 % of M (R129). -/
def fundOk (m f : Rat) : Bool := decide (200 * rabs (f - m) < m)

/-- A value the ROM gives at M, if the fundamental it makes keeps the rule's bound; else the value at which the fundamental equals M. -/
def atFund (f : Rat → Rat) (m hi v : Rat) (lo : Rat) : Rat :=
  if decide (lo ≤ v) && decide (v ≤ hi) && fundOk m (f v) then v else solveRising f m 32 lo hi

/-- M at entry `j` of a region's ROM table (R129). -/
def romM (lo hi : Rat) (j : Nat) : Rat := lo + (hi - lo) * mkRat j 63

/-- An entry of the boost table (R129): at least 1, and 1 where clipping begins; the last one stands for the hexagon side. -/
def boostEntry (j : Nat) : Rat :=
  if j = 0 then 1
  else if 63 ≤ j then rmax 1 (Config.boostTab j)
  else let m := romM (boundM 0) (boundM 1) j; atFund (boostFund m) m 64 (Config.boostTab j) 1

/-- An entry of the hold-angle table in turns (R129): rising from 0° at 0.9517 to 30° at 1.0. -/
def holdEntry : Nat → Rat
  | 0 => 0
  | j + 1 =>
    if 62 ≤ j then mkRat 1 12
    else rmax (holdEntry j) (atFund holdFund (romM (boundM 1) 1 (j + 1)) (mkRat 1 12) (Config.holdTab (j + 1)) 0)

/-- The boost and the hold angle in force at M (R129): the tables, linearly interpolated, within the rule's bound. -/
def boostAt (m : Rat) : Rat := atFund (boostFund m) m 64 (romAt boostEntry (romPlace (boundM 0) (boundM 1) m)) 1
def holdAt (m : Rat) : Rat := atFund holdFund m (mkRat 1 12) (romAt holdEntry (romPlace (boundM 1) 1 m)) 0

/-- The duties of a coppice's three phases before discontinuous modulation (R127, R129), from M and the table's sines. The
last entry of the boost table stands for following the hexagon side. -/
def baseDuties (m : Rat) (th : Nat) (ss : List Rat) : List Rat :=
  let mx := ss.foldl rmax (ss.headD 0)
  let mn := ss.foldl rmin (ss.headD 0)
  let s0 := -(mx + mn) / 2
  match regionOf m with
  | 0 => ss.map fun x => mkRat 1 2 + m * (2 / Config.pi) * (x + s0)
  | 1 =>
    let u := romPlace (boundM 0) (boundM 1) m
    if 63 ≤ u then hexDuties 0 th
    else ss.map fun x => rclamp 0 1 (mkRat 1 2 + boostAt m * (m * (2 / Config.pi)) * (x + s0))
  | _ => hexDuties (holdAt m) th

/-- Discontinuous modulation (R128). -/
def dmodDuties (dm : Nat) (ds : List Rat) : List Rat :=
  let mx := ds.foldl rmax (ds.headD 0)
  let mn := ds.foldl rmin (ds.headD 0)
  match dm with
  | 1 => let d := if 1 ≤ mx + mn then 1 - mx else -mn; ds.map fun x => x + d
  | 2 => ds.map fun x => x - mn
  | _ => ds

/-- Vdc of a coppice (R127): the mean over its bricks; a missing value is replaced by the others, or by the previous
value when none is present. The second part says whether one was missing. -/
def copVdc (l : Lane) (c : Fin 32) : Rat × Bool :=
  let bs := ((legsOf l c).map fun n => n.1 / 4).eraseDups
  let vs := bs.filterMap fun b => if h : b < 32 then (vget l.rx ⟨b, h⟩).vdc else none
  let have' := vs.map fun v => ((v : Int) : Rat)
  if have'.isEmpty then ((vget l.cops c).vdc, true) else (rmean have', decide (have'.length < bs.length))

/-- An edge time rounded to the nearest edge tick, ties upwards (R121). -/
def roundUp (x : Rat) : Int := (x + mkRat 1 2).floor

/-- The edge of a half period (R121, R122): duty, trim in edge ticks, lag, the period and whether the coming period is a P
period; `minp` in edge ticks. Answers the edge, and whether a pulse was dropped. -/
def edgeOf (d : Rat) (tau : Int) (phi tp : Nat) (pper : Bool) (minp : Nat) : Option LegEdge × Bool × Rat :=
  let u := phi % tp
  let peak := if pper then decide (phi < tp) else decide (tp ≤ phi)
  let tpr : Rat := (tp : Rat)
  -- the high time in this half after the trim is applied
  let hi := d * tpr + (tau : Rat)
  let drop0 := decide (0 < d) && decide (hi < (minp : Rat))
  let drop1 := decide (d < 1) && decide (tpr - hi < (minp : Rat))
  let d' : Rat := if d ≤ 0 then 0 else if 1 ≤ d then 1 else if drop0 then 0 else if drop1 then 1 else d
  if d' = 0 ∨ d' = 1 then (none, (drop0 || drop1), d')
  else
    let e : Rat := if peak then (u : Rat) + (1 - d) * tpr - (tau : Rat) else (u : Rat) + d * tpr + (tau : Rat)
    (some { t := satInt 0 (2 * tp - 1) (roundUp e), up := peak }, false, d')

/-- A leg takes its edge for the coming period; a leg at duty 0 or 1 has no edge. `t1` is the start of the coming
period. -/
def legEdge (l : Lane) (n : Fin 128) (t1 : Nat) (r : Option LegEdge × Bool × Rat) (pinned : Bool) : Lane :=
  let (e, drop, d) := r
  let l := stkIfLate drop l LEG_STK_PDROP
  modLeg l n fun g =>
    match e with
    | some x =>
      { g with edge := some x, lvl := x.up, pinned := pinned
               hist := (g.hist ++ [LegEdge.mk ((t1 : Int) + x.t) x.up]).drop (g.hist.length + 1 - 6) }
    | none => { g with edge := none, lvl := if g.hist.isEmpty then decide (d = 1) else g.lvl, pinned := pinned || drop }

/-- The modulation angle of a winding set for the coming period (R126): the angle for this period's start, 1.5 Tp of
rotation and the set's own angle. `wt` is the speed in angle-word units per edge tick. -/
def modAngle (l : Lane) (a : Axis) (s : Fin 4) (wt : Rat) : Nat :=
  let th := (vget l.axes a).obs.ang
  let ext : Int := rround (wt * mkRat 3 2 * (tpOf l a : Rat))
  (((th : Int) + ext + ((fget l (AXS_WS_ANG a s) * 2 ^ 16 : Nat) : Int)) % 2 ^ 32).toNat

/-- The angle of a set's voltage reference in angle-word units (R156), measured as the modulation angle is: the table's sine
lies a quarter turn behind the d-axis cosine of the Park transform, so a reference along +q adds nothing (see the assumption log). -/
def refAngle (l : Lane) (a : Axis) (s : Fin 4) : Int :=
  let z := vget (vget l.axes a).sets s
  rround ((Config.atan2T z.vqr z.vdr - mkRat 1 4) * (2 ^ 32 : Nat))

/-- The six-step edge of a phase (R130): the crossing of 0° or 180° predicted in the coming period from the speed. -/
def sixEdge (th0 : Nat) (wt : Rat) (tp : Nat) : Option LegEdge :=
  if wt = 0 then none
  else
    let togo (target : Nat) : Rat :=
      if 0 < wt then ((target + 2 ^ 32 - th0) % 2 ^ 32 : Nat) / wt else ((th0 + 2 ^ 32 - target) % 2 ^ 32 : Nat) / (-wt)
    let t0 := togo 0
    let t1 := togo (2 ^ 31)
    -- rising through 0 or falling through 180 turns the leg high for forward rotation; the reverse for backward
    let up0 := decide (0 < wt)
    if t0 < (tp : Rat) ∧ t0 ≤ t1 then some { t := roundUp t0, up := up0 }
    else if t1 < (tp : Rat) then some { t := roundUp t1, up := !up0 }
    else none

/-- One coppice's edges for the coming period (R121 to R130). `vmag` is the reference magnitude of its set in volts. -/
def modCoppice (l : Lane) (a : Axis) (s : Fin 4) (wt vmag : Rat) (c : Fin 32) : Lane :=
  let x := vget l.axes a
  let t1 := x.t0 + tpOf l a
  let tp := tpOf l a
  let (vdc, miss) := copVdc l c
  let l := stkIfLate miss l LEG_STK_DCMISS
  let l := fsetI l (LEG_CVDC_VDC c) (rround vdc)
  let l := modCop l c fun k => { k with vdc := vdc }
  let th := modAngle l a s wt
  if x.obs.six then
    -- the angle at the coming period's start is half a period before the reference's middle; the voltage reference's own
    -- angle moves it (R156)
    let back : Int := rround (wt * mkRat 1 2 * (tp : Rat)) - refAngle l a s
    (List.range 3).foldl (fun l p =>
      match phaseLeg l c p with
      | none => l
      | some n =>
        let th0 := (((phaseAngle th p : Nat) : Int) - back) % 2 ^ 32
        legEdge l n t1 (sixEdge th0.toNat wt tp, false, if (vget l.legs n).lvl then 1 else 0) false) l
  else
    let mraw : Rat := if vdc ≤ 0 then 0 else vmag * 1000 * Config.pi / (2 * vdc)
    let lim := boundM x.ovm
    let m := rmin mraw lim
    let l := stkIfLate (decide (lim < mraw)) l LEG_STK_MCLAMP
    let ss := (List.range 3).map fun p => mkRat (sineAt l x.tab (phaseAngle th p)) (2 ^ 23)
    let ds0 := baseDuties m th ss
    let ds := dmodDuties x.dmod ds0
    let phi := fget l (LEG_CSTS_OFFSET c)
    let minp := 64 * fget l (AXS_PRL_MINP a)
    (List.range 3).foldl (fun l p =>
      match phaseLeg l c p with
      | none => l
      | some n =>
        let d := ds.getD p 0
        let tau := rdiv (vget l.legs n).tau 256
        let pin := x.dmod ≠ 0 && (decide (d ≤ 0) || decide (1 ≤ d))
        legEdge l n t1 (edgeOf d tau phi tp (!x.pper) minp) pin) l

/-- Gates of a leg off in the coming frames: no edge and no instants. -/
def legOff (l : Lane) (n : Fin 128) : Lane :=
  modLeg l n fun g => { g with gates := false, edge := none, head := none, tail := none }

/-! ## Sampling windows (R136 to R138) -/

/-- The low intervals of a leg from its recent edges: after a falling edge and the dead time in force there, to the next rising
edge or the end of the zone (R136). -/
def lowIntervals (dt : Int → Nat) (zend : Int) : List LegEdge → List (Int × Int)
  | [] => []
  | e :: r =>
    if e.up then lowIntervals dt zend r
    else
      let b := match r.find? fun f => f.up with | some f => f.t | none => zend
      (e.t + dt e.t, b) :: lowIntervals dt zend r

/-- The earliest valid head instant at or after the start `t` (R137), relative to it. -/
def headInstant (iv : List (Int × Int)) (w t zhi : Int) : Option Int :=
  iv.foldl (fun best ab =>
    let lo := max (ab.1 + w) t
    if lo ≤ min ab.2 zhi then
      (match best with | some b => some (min b (lo - t)) | none => some (lo - t)) else best) none

/-- The latest valid tail instant before the start `t`, relative to it. -/
def tailInstant (iv : List (Int × Int)) (w t zlo : Int) : Option Int :=
  iv.foldl (fun best ab =>
    let hi := min ab.2 (t - 1)
    if max (ab.1 + w) zlo ≤ hi then
      (match best with | some b => some (max b (hi - t)) | none => some (hi - t)) else best) none

/-- A leg's instants for the coming period's frame (R136 to R138): the head instant of the coming zone, and the tail
instant of the zone after it, when the leg is high at that start. -/
def placeInstants (l : Lane) (a : Axis) (n : Fin 128) : Lane :=
  if !(fon l (LEG_CFG_SHUNT n)) then l
  else
    let tp : Int := (tpOf l a : Nat)
    let t1 : Int := ((vget l.axes a).t0 : Int) + tp
    let t2 := t1 + tp
    let w : Int := (fget l (AXS_SMP_SETTLE a) + fget l (AXS_SMP_APERT a) : Nat)
    let dt := deadTimeAt l ⟨n.1 / 4, by omega⟩
    let q := tp / 4
    modLeg l n fun g =>
      let zhi := t1 + q - 9600
      let h := headInstant (lowIntervals dt zhi g.hist) w t1 zhi
      let z2 := t2 + q - 9600
      let high := (match (g.hist.filter fun e => e.t ≤ t2).getLast? with | some e => e.up | none => false)
      let tl := if high then tailInstant (lowIntervals dt z2 g.hist) w t2 (t2 - q) else none
      { g with head := h, tailZ := g.tail, tail := tl }

/-- The instant the lane uses: the placed one closer to the start, the head when both are equally close (R137). -/
def usedInstant (head tailZ : Option Int) : Option Int :=
  match head, tailZ with
  | some h, some t => if h ≤ -t then some h else some t
  | some h, none => some h
  | none, some t => some t
  | none, none => none

/-! ## Reconstruction (R141 to R144) -/

/-- The current of a leg formed this period, with its source (R151: 0 measured, 1 derived, 2 predicted). A predicted
period counts in RUN and PCNT; beyond the limits PRRUN, PRFLT and the prediction-run source follow (R144). In six-step
the run counter stands (R143) and PCNT counts on. -/
def setCurrent (l : Lane) (now : Nat) (a : Axis) (n : Fin 128) (src : Nat) (six : Bool) (i : Rat) : Lane :=
  let l := modLeg l n fun g => { g with cur := i }
  let l := fset l (LEG_RUN_SRC n) src
  if six then (if src = 2 then fcount l (LEG_PCNT_COUNT n) else l)
  else if src ≠ 2 then fset l (LEG_RUN_RUN n) 0
  else
    let was := fget l (LEG_RUN_RUN n)
    let l := fcount (fcount l (LEG_RUN_RUN n)) (LEG_PCNT_COUNT n)
    let run := fget l (LEG_RUN_RUN n)
    let l := stkIfLate (decide (fget l (AXS_PRL_PRFLAG a) < run)) l LEG_STK_PRRUN
    let lim := fget l (AXS_PRL_PRFAULT a)
    if lim < run ∧ was ≤ lim then raiseO (stkLate l LEG_STK_PRFLT) now 0x2C a.1 n.1 (wordOf run) else l

/-- One coppice's currents (R141): measured, derived by the zero-sequence estimate, or left to the prediction `pred`, as every
leg is in six-step (R143). -/
def reconCoppice (l : Lane) (now : Nat) (a : Axis) (six : Bool) (pred : Fin 32 → Nat → Rat) (c : Fin 32) : Lane :=
  let ls := (List.range 3).filterMap fun p => (phaseLeg l c p).map fun n => (p, n)
  let meas := ls.filter fun pn => (vget l.legs pn.2).smp.isSome
  let val (n : Fin 128) : Rat := match (vget l.legs n).smp with | some v => (v : Rat) | none => 0
  let k := vget l.cops c
  if meas.length = 3 ∧ ¬ six then
    let sum := rsum (meas.map fun pn => val pn.2)
    let l := ls.foldl (fun l pn => setCurrent l now a pn.2 0 six (val pn.2)) l
    let l := fsetI l (LEG_CZS_I0 c) (rround (sum / 3))
    modCop l c fun k => { k with i0 := sum / 3, age0 := 0 }
  else if meas.length = 2 ∧ ¬ six then
    let stale := decide (fget l (AXS_PRL_PRFLAG a) < k.age0)
    let i0 : Rat := if stale then 0 else k.i0
    let l := stkIfLate stale l LEG_STK_ZSTALE
    let l := fsetI l (LEG_CZS_I0 c) (rround i0)
    let sum := rsum (meas.map fun pn => val pn.2)
    let l := ls.foldl (fun l pn =>
      if (vget l.legs pn.2).smp.isSome then setCurrent l now a pn.2 0 six (val pn.2)
      else setCurrent l now a pn.2 1 six (3 * i0 - sum)) l
    modCop l c fun k => { k with i0 := i0, age0 := k.age0 + 1 }
  else
    let l := ls.foldl (fun l pn => setCurrent l now a pn.2 2 six (pred c pn.1)) l
    modCop l c fun k => { k with age0 := k.age0 + 1 }

/-! ## Balancing trims (R145, R146) -/

/-- The weight that the throttle steps of a coppice's bricks leave it (R225). -/
def throttleWeight (l : Lane) (c : Fin 32) : Rat :=
  let s := ((legsOf l c).map fun (n : Fin 128) => fget l (THM_BST_STEP (n.1 / 4))).foldl max 0
  rmax (mkRat 1 4) (1 - mkRat 1 4 * (s : Rat))

/-- The share weight of a coppice (R225). -/
def copWeight (l : Lane) (c : Fin 32) : Rat := if fget l (LEG_CSTS_STATE c) ≠ 1 then 0 else (vget l.cops c).wt

/-- The trims of one phase of a set with two or more active coppices (R145); held under R146. -/
def balancePhase (l : Lane) (a : Axis) (s : Fin 4) (p : Nat) : Lane :=
  let run := copsRun l a s
  let legs := run.filterMap fun (c : Fin 32) => phaseLeg l c p
  if legs.length < 2 then l
  else if (vget l.axes a).obs.six || legs.any fun n => fget l (LEG_RUN_SRC n) = 2 || (vget l.legs n).pinned then l
  else
    let tl : Int := ((fget l (AXS_BAL_TRIMLIM a) * tpOf l a / 1000 : Nat) : Int)
    let ws := run.map fun (c : Fin 32) => copWeight l c
    let ic (n : Fin 128) : Rat := (vget l.legs n).cur
    let low := ws.any fun w => decide (w < 1)
    -- the target of each leg: the mean, or its share by weight while a weight is below 1 (R225)
    let im (n : Fin 128) : Rat :=
      if low then copWeight l ⟨fget l (LEG_CFG_COPPICE n) % 32, Nat.mod_lt _ (by decide)⟩ * rsum (legs.map ic) / rsum ws
      else rmean (legs.map ic)
    let k : Rat := mkRat (fget l (AXS_BAL_KBAL a) : Int) 256
    -- trims are held to 1/256 of an edge tick
    let t1 := legs.map fun (n : Fin 128) => (n, mkRat (vget l.legs n).tau 256 - k * (ic n - im n) / 1000)
    let tm := rmean (t1.map fun x => x.2)
    t1.foldl (fun l x =>
      let v := x.2 - tm
      let c := rclamp (-(tl : Rat)) (tl : Rat) v
      let l := stkIfLate (decide (c ≠ v)) l LEG_STK_TRIMSAT
      let t256 := rround (c * 256)
      let l := fsetI l (LEG_TRIM_TRIM x.1) (rdiv t256 256)
      modLeg l x.1 fun g => { g with tau := t256 }) l

/-- Balancing of all sets of an axis (R145). -/
def balance (l : Lane) (a : Axis) : Lane :=
  (setsUsed l a).foldl (fun l s => (List.range 3).foldl (fun l p => balancePhase l a s p) l) l

/-- The live summary LEG_STS (R150). -/
def legSummary (l : Lane) : Lane :=
  let legs : List (Fin 128) := (allFin 128).filter fun (n : Fin 128) => fget l (LEG_CFG_TYPE n) = 1
  let axisOf (n : Fin 128) : Axis := ⟨fget l (LEG_CPC_AXIS (fget l (LEG_CFG_COPPICE n))) % 16, Nat.mod_lt _ (by decide)⟩
  -- legs whose currents were formed in the latest period, outside six-step
  let formed (n : Fin 128) : Bool := axEnabled l (axisOf n) && !(vget l.axes (axisOf n)).obs.sixRec &&
    decide (fget l (LEG_CSTS_STATE (fget l (LEG_CFG_COPPICE n))) = 1)
  let lim (n : Fin 128) : Int :=
    let a := fget l (LEG_CPC_AXIS (fget l (LEG_CFG_COPPICE n)))
    (fget l (AXS_BAL_TRIMLIM a) * tpOf l a / 1000 : Nat)
  let l := fsetB l LEG_STS_PRED (legs.any fun n => formed n && decide (fget l (LEG_RUN_SRC n) = 2))
  let l := fsetB l LEG_STS_TRIMAT (legs.any fun (n : Fin 128) =>
    let t := fgetI l (LEG_TRIM_TRIM n); decide (t ≠ 0) && (decide (t = lim n) || decide (t = -(lim n))))
  let l := fsetB l LEG_STS_OVMOD ((List.range 16).any fun a => axEnabled l a && fget l (AXS_MIDX_REGION a) != 0)
  fsetB l LEG_STS_LOSTC ((List.range 32).any fun c => fget l (LEG_CSTS_STATE c) = 2)

end Sys2Proof.Machine
end

