-- ==== Sys2Proof/Machine/Foc.lean ====
section
/-!
DEFINITION. Field control and the rotor observer (chapter 5), in exact rational arithmetic (see the assumption log): the
motor's per-unit base (R152), transforms, applied voltage (R159), observer and tracker (R160, R161), injection (R162 to
R164), the encoder (R165, R166), source changes (R167), confidence and polarity (R168), loss (R169, R170), acquisition
(R172), running start (R173), current references (R154 to R156).
-/
namespace Sys2Proof.Machine

/-! ## Modes (R176) and base quantities (R152) -/

def moOff : Nat := 0
def moAcquire : Nat := 1
def moPolarity : Nat := 2
def moInject : Nat := 3
def moBlend : Nat := 4
def moEmf : Nat := 5
def moEncoder : Nat := 6
def moHold : Nat := 7
def moAsc : Nat := 8
def moCaught : Nat := 9
def moFailed : Nat := 10

/-- The observer's run data. -/
def obsOf (l : Lane) (a : Axis) : ObsRt := (vget l.axes a).obs

/-- The observer's mode. -/
def obsMode (l : Lane) (a : Axis) : Nat := (obsOf l a).mode

/-- The observer's run data changed. -/
def modObs (l : Lane) (a : Axis) (f : ObsRt → ObsRt) : Lane := modAx l a fun x => { x with obs := f x.obs }

/-- A mode change that takes effect at the next period start (R176). -/
def toMode (l : Lane) (a : Axis) (m : Nat) : Lane := modObs l a fun o => { o with nmode := some m }

/-- An edge-tick count in seconds: 312.5 ps each. -/
def secs (t : Rat) : Rat := t * mkRat 3125 10000000000000

/-- The electrical base speed in rad/s (R152). -/
def omegaB (l : Lane) (a : Axis) : Rat :=
  2 * Config.pi * q16 l (AXS_RATN_NR a) * (fget l (AXS_PP_PP a) : Rat) / 60

/-- The per-unit period tp (R152). -/
def tpPu (l : Lane) (a : Axis) : Rat := secs (tpOf l a : Rat) * omegaB l a

/-- The per-unit length of the period before, over which prediction and the observer's model run (R142, R160). -/
def tpPu1 (l : Lane) (a : Axis) : Rat := secs ((vget l.axes a).tp1 : Rat) * omegaB l a

/-- An angle word as turns, and turns as an angle word. -/
def turns (th : Rat) : Rat := th / (2 ^ 32 : Nat)
def angWord (x : Rat) : Nat := (rround x % 2 ^ 32).toNat

/-- A difference of angle words as a signed angle word. -/
def angDiff (x y : Nat) : Int := sInt 32 ((x + 2 ^ 32 - y % 2 ^ 32) % 2 ^ 32)

/-- Angle-word units per edge tick of a per-unit speed (R126). -/
def wTick (l : Lane) (a : Axis) (w : Rat) : Rat :=
  w * omegaB l a / (2 * Config.pi) * mkRat 3125 10000000000000 * (2 ^ 32 : Nat)

/-- Quotient with a zero divisor giving zero: the manual's formulas never divide by an admitted zero. -/
def qdiv (x y : Rat) : Rat := if y = 0 then 0 else x / y

/-- The Park transform of three phase quantities at an angle word (R158): amplitude-invariant. -/
def park (th : Rat) (x : Rat × Rat × Rat) : Rat × Rat :=
  let t := turns th
  let p3 := mkRat 1 3
  (mkRat 2 3 * (x.1 * Config.cosT t + x.2.1 * Config.cosT (t - p3) + x.2.2 * Config.cosT (t + p3)),
   -(mkRat 2 3 * (x.1 * Config.sinT t + x.2.1 * Config.sinT (t - p3) + x.2.2 * Config.sinT (t + p3))))

/-- The inverse Park transform (R142). -/
def invPark (th : Rat) (d q : Rat) : List Rat :=
  [0, mkRat 1 3, -(mkRat 1 3)].map fun o =>
    d * Config.cosT (turns th - o) - q * Config.sinT (turns th - o)

/-! ## Currents (R142, R158) -/

/-- The angle of a winding set: the governing angle and the set's own (R115, R126). -/
def setAngle (l : Lane) (a : Axis) (s : Fin 4) : Rat :=
  ((obsOf l a).angI + fget l (AXS_WS_ANG a s) * 2 ^ 16 : Nat)

/-- The current of a phase of a coppice. -/
def copCur (l : Lane) (c p : Nat) : Rat := match phaseLeg l c p with | some n => (vget l.legs n).cur | none => 0

/-- The predicted phase currents of a set at the start of the present period, in mA (R142). -/
def predictSet (l : Lane) (a : Axis) (s : Fin 4) : List Rat :=
  let z := vget (vget l.axes a).sets s
  let o := obsOf l a
  let tp := tpPu1 l a
  let ld := q16 l (AXS_LD_LD a)
  let lq := q16 l (AXS_LQ_LQ a)
  let rs := q16 l (AXS_RS_RS a)
  let psi := q16 l (AXS_PSI_PSI a)
  let idp := z.id + qdiv tp ld * (z.vd - rs * z.id + o.w * lq * z.iq)
  let iqp := z.iq + qdiv tp lq * (z.vq - rs * z.iq - o.w * (ld * z.id + psi))
  (invPark (setAngle l a s) idp iqp).map fun i => i * (fget l (AXS_RATI_IR a) : Rat)

/-- The predicted current of a coppice's phase (R142): its share of what the measured and derived coppices leave. -/
def predictCop (l : Lane) (a : Axis) (s : Fin 4) (c : Fin 32) (p : Nat) : Rat :=
  let all := copsRun l a s
  let known := all.filter fun (k : Fin 32) => match phaseLeg l k p with | some n => fget l (LEG_RUN_SRC n) < 2 | none => false
  let pred := all.filter fun (k : Fin 32) => !(known.contains k)
  let rest := (predictSet l a s).getD p 0 - rsum (known.map fun (k : Fin 32) => copCur l k p)
  let sh (k : Fin 32) : Rat := (vget l.cops k).share.getD p 0
  let tot := rsum (pred.map sh)
  let w : Rat := if tot = 0 then qdiv 1 (pred.length : Rat) else sh c / tot
  w * rest + (vget l.cops c).i0

/-- The currents of an axis formed (R141, R142): the coppices with two or three samples first, then the predicted ones, all
of them in six-step (R143); when all of a set were measured their split is kept. -/
def reconAxis (l : Lane) (now : Nat) (a : Axis) : Lane :=
  let six := (obsOf l a).six
  (setsUsed l a).foldl (fun l s =>
    let cs := copsRun l a s
    let n (c : Fin 32) : Nat := ((legsOf l c).filter fun (g : Fin 128) => (vget l.legs g).smp.isSome).length
    let full := cs.filter fun c => decide (2 ≤ n c) && !six
    let rest := cs.filter fun c => !(decide (2 ≤ n c) && !six)
    let allMeas := !six && cs.all fun c => 3 ≤ n c
    let l := rest.foldl (fun (l : Lane) (c : Fin 32) => (legsOf l c).foldl (fun (l : Lane) (g : Fin 128) => fset l (LEG_RUN_SRC g) 2) l) l
    let l := full.foldl (fun l c => reconCoppice l now a six (fun _ _ => 0) c) l
    let l0 := l
    let l := rest.foldl (fun l c => reconCoppice l now a six (fun c p => predictCop l0 a s c p) c) l
    if allMeas then
      cs.foldl (fun l c => modCop l c fun k => { k with share := (List.range 3).map fun p => copCur l0 c p }) l
    else l) l

/-- The d/q currents of each set at the start of the period, per unit (R158). -/
def parkAxis (l : Lane) (a : Axis) : Lane :=
  let ir : Rat := (fget l (AXS_RATI_IR a) : Rat)
  (setsUsed l a).foldl (fun l s =>
    let cs := copsRun l a s
    let ph (p : Nat) : Rat := qdiv (rsum (cs.map fun (c : Fin 32) => copCur l c p)) ir
    let (d, q) := park (setAngle l a s) (ph 0, ph 1, ph 2)
    modAx l a fun x => { x with sets := vmod x.sets s fun z => { z with id1 := z.id, iq1 := z.iq, id := d, iq := q } }) l

/-! ## Applied voltage (R159) -/

/-- How long a leg was high in [t0, t1) by its recent edges. -/
def highTime (hist : List LegEdge) (t0 t1 : Int) : Int :=
  let start := match (hist.filter fun e => e.t ≤ t0).getLast? with
    | some e => e.up
    | none => (match hist.find? fun e => t0 < e.t with | some e => !e.up | none => false)
  let ins := hist.filter fun e => t0 < e.t && e.t < t1
  let r := ins.foldl (fun (acc : Int × Int × Bool) e =>
    (if acc.2.2 then acc.1 + (e.t - acc.2.1) else acc.1, e.t, e.up)) (0, t0, start)
  if r.2.2 then r.1 + (t1 - r.2.1) else r.1

/-- The voltage of each leg of a coppice over the period before (R159), in mV, with the corrections brought up to date: that
period's edges, length, dead time and Vdc. -/
def appliedCop (l : Lane) (a : Axis) (c : Fin 32) : Lane × List Rat :=
  let x := vget l.axes a
  let tp : Int := (x.tp1 : Nat)
  let vdc := (vget l.cops c).vdc
  let dead (n : Fin 128) : Rat := (deadTimeAt l ⟨n.1 / 4, by omega⟩ ((x.t0 : Int) - 1) : Rat)
  let ls := (List.range 3).filterMap fun p => phaseLeg l c p
  let edgeV (n : Fin 128) : Rat :=
    let g := vget l.legs n
    let hi := highTime g.hist ((x.t0 : Int) - tp) x.t0
    vdc * qdiv (hi : Rat) (tp : Rat) - rsign g.cur * vdc * qdiv (dead n) (tp : Rat)
  let ves := ls.map edgeV
  let vem := rmean ves
  let vms := ls.filterMap fun n => (vget l.legs n).vm
  let vmm := rmean (vms.map fun (v : Int) => (v : Rat))
  let upd (l : Lane) (n : Fin 128) : Lane :=
    let g := vget l.legs n
    match g.vm with
    | none => l
    | some v =>
      if fon l (OBS_CFG_DTC a) ∧ mkRat 1 20 * (fget l (AXS_RATI_IR a) : Rat) < rabs g.cur ∧ vms.length = 3 then
        let err := ((v : Rat) - vmm) - (edgeV n - vem)
        let lim := vdc * qdiv (dead n) (tp : Rat)
        if g.cur < 0 then modLeg l n fun g => { g with ecorN := rclamp (-lim) lim (g.ecorN + (err - g.ecorN) / 16) }
        else modLeg l n fun g => { g with ecorP := rclamp (-lim) lim (g.ecorP + (err - g.ecorP) / 16) }
      else l
  let l' := ls.foldl upd l
  (l', (ls.zip ves).map fun nv => let g := vget l'.legs nv.1; nv.2 + (if g.cur < 0 then g.ecorN else g.ecorP))

/-- The applied d/q voltage of each set over the period before, per unit, at that period's angle (R159). It runs before the
governing angle moves on to the present period. -/
def appliedAxis (l : Lane) (a : Axis) : Lane :=
  let vr : Rat := (fget l (AXS_RATV_VR a) : Rat)
  (setsUsed l a).foldl (fun l s =>
    let r := (copsRun l a s).foldl (fun (acc : Lane × List (List Rat)) c =>
      let (l, v) := appliedCop acc.1 a c; (l, acc.2 ++ [v])) (l, [])
    let ph (p : Nat) : Rat := qdiv (rmean (r.2.map fun v => v.getD p 0)) vr
    let m := rmean [ph 0, ph 1, ph 2]
    let (d, q) := park (setAngle l a s) (ph 0 - m, ph 1 - m, ph 2 - m)
    modAx r.1 a fun x => { x with sets := vmod x.sets s fun z => { z with vd := d, vq := q } }) l

/-- The electromagnetic torque of an axis, per unit (R153): the mean over its sets with a coppice in RUN. -/
def torqueOf (l : Lane) (a : Axis) : Rat :=
  let ss := (setsUsed l a).filter fun s => !(copsRun l a s).isEmpty
  rmean (ss.map fun s =>
    let z := vget (vget l.axes a).sets s
    q16 l (AXS_KTQ_KTQ a) * z.iq * (q16 l (AXS_PSI_PSI a) + (q16 l (AXS_LD_LD a) - q16 l (AXS_LQ_LQ a)) * z.id))

/-! ## The encoder (R165, R166) -/

/-- Whether the encoder channel of an axis reports no fault. -/
def encHealthy (l : Lane) (a : Axis) : Bool := fget l (FBK_CHST_STATE (fget l (OBS_CFG_ECH a))) = 1

/-- Whether an axis has a valid encoder (R168): one is configured, and its channel reports no fault. -/
def encValid (l : Lane) (a : Axis) : Bool := decide (fget l (OBS_CFG_ENC a) ≠ 0) && encHealthy l a

/-- θ_enc extrapolated to edge tick `t` at the channel's speed (R165). -/
def encAngle (l : Lane) (a : Axis) (t : Nat) : Nat :=
  let e := fget l (OBS_CFG_ECH a)
  let cpr : Rat := (fget l (FBK_CPR_CPR e) : Rat)
  let pp : Rat := (fget l (AXS_PP_PP a) : Rat)
  let th := qdiv ((fgetI l (FBK_CNT_CNT e) : Rat) * pp * (2 ^ 32 : Nat)) cpr + (fget l (OBS_EOFF_EOFF a) : Rat)
  let dt : Int := sInt 32 ((tbCode l t + 2 ^ 32 - fget l (FBK_TS_TS e)) % 2 ^ 32)
  let mv := q16 l (FBK_VEL_VEL e) / 60 * secs (dt : Rat)
  -- a Hall channel's angle goes no further than the next sector boundary, one count on (R300)
  let mv := if fget l (FBK_CFG_TYPE e) = 3 then max (-(qdiv 1 cpr)) (min (qdiv 1 cpr) mv) else mv
  angWord (th + mv * pp * (2 ^ 32 : Nat))

/-- The encoder's electrical speed, per unit. -/
def encSpeed (l : Lane) (a : Axis) : Rat :=
  qdiv (q16 l (FBK_VEL_VEL (fget l (OBS_CFG_ECH a)))) (q16 l (AXS_RATN_NR a))

/-! ## The governing angle (R165, R167, R170) -/

/-- Whether a mode's angle is the observer's own. -/
def isRunMode (m : Nat) : Bool := m = moInject || m = moBlend || m = moEmf || m = moPolarity

/-- θ_0 + ω_0 × (t − t_0) of R170 as an angle word. -/
def extrapolate (l : Lane) (a : Axis) (f : Fix) (t : Nat) : Nat :=
  angWord ((f.th : Rat) + wTick l a f.w * ((t : Rat) - (f.t : Rat)))

/-- The angle the source of mode `m` gives for edge tick `t`. -/
def sourceAngle (l : Lane) (a : Axis) (m t : Nat) : Nat :=
  let o := obsOf l a
  if m = moEncoder then encAngle l a t
  else if m = moHold then
    match o.hold with
    | some (_, f) => extrapolate l a f t
    | none => angWord o.th
  else angWord o.th

/-- The governing angle and speed for this period's start, with the offset of a source change (R167). -/
def governAngle (l : Lane) (a : Axis) : Lane :=
  let x := vget l.axes a
  let o := x.obs
  let m := obsMode l a
  let src := sourceAngle l a m x.t0
  let use := angWord ((o.ang : Rat) + wTick l a o.w * (x.tp1 : Rat))
  let change := m ≠ o.pmode && (isRunMode m || m = moEncoder) &&
    (o.pmode = moEncoder || o.pmode = moHold || o.pmode = moCaught || o.pmode = moAcquire)
  let d := angDiff src use
  let aw : Int := (fget l (OBS_XFR_AWIN a) * 2 ^ 16 : Nat)
  let sl : Int := (fget l (OBS_XFR_ASLEW a) * 2 ^ 16 : Nat)
  let slew := change && decide (aw < d.natAbs)
  let off : Int :=
    if change then (if slew then -d else 0)
    else if o.off < 0 then min 0 (o.off + sl) else max 0 (o.off - sl)
  let w := if m = moEncoder then encSpeed l a
    else if m = moHold then (match o.hold with | some (_, f) => f.w | none => o.we) else o.we
  let l := stkIfLate slew l OBS_STK_ASLEW
  let ang := angWord (((src : Int) + off : Int) : Rat)
  modObs l a fun o => { o with ang1 := o.angI, angI := ang, ang := ang, w := w, off := off, pmode := m }

/-! ## Observer and tracker (R160 to R164) -/

/-- EMIN of R160, per unit. -/
def emin : Rat := mkRat 1 50

/-- Quantities of the frame at angle `x` seen from the frame at angle `y`, both angle words. -/
def reframe (x y : Rat) (d q : Rat) : Rat × Rat :=
  let t := turns (x - y)
  (d * Config.cosT t - q * Config.sinT t, d * Config.sinT t + q * Config.cosT t)

/-- The back-EMF observer (R160) on winding set 0: the new EMF and residual. Currents and voltages are kept in the frames of the
governing angle; the observer takes them in its own frames at the tracker's angles. -/
def emfUpdate (l : Lane) (a : Axis) : Rat × Rat × Rat :=
  let o := obsOf l a
  let z := vget (vget l.axes a).sets 0
  let tp := tpPu1 l a
  let ld := q16 l (AXS_LD_LD a)
  let lq := q16 l (AXS_LQ_LQ a)
  let rs := q16 l (AXS_RS_RS a)
  let (ig1, id1) := reframe (o.ang1 : Rat) o.th1 z.id1 z.iq1
  let (vg, vd) := reframe (o.ang1 : Rat) o.th1 z.vd z.vq
  let (ig, id) := reframe (o.angI : Rat) o.th z.id z.iq
  let igp := ig1 + qdiv tp ld * (vg - rs * ig1 + o.we * lq * id1 - o.eg)
  let idp := id1 + qdiv tp ld * (vd - rs * id1 - o.we * lq * ig1 - o.ed)
  let rg := ig - igp
  let rd := id - idp
  let ke := 1 - Config.expR (-(2 * Config.pi * (fget l (OBS_BW_FE a) : Rat) * secs ((vget l.axes a).tp1 : Rat)))
  let k := ke * qdiv ld tp
  (o.eg - k * rg, o.ed - k * rd, Config.sqrtR (rg * rg + rd * rd))

/-- Magnitude of the EMF. -/
def emfMag (eg ed : Rat) : Rat := Config.sqrtR (eg * eg + ed * ed)

/-- The frequency of injection in force, Hz (R162). -/
def injFreq (l : Lane) (a : Axis) : Rat :=
  rmin (fget l (OBS_INJ_FINJ a) : Rat) (qdiv 1 (8 * secs (tpOf l a : Rat)))

/-- Injection's state for this period (R162, R163): running or not, phase, demodulated angle error. The observer is primary while
no encoder governs; the window of HOLD does not end injection. The amplitude of x that R168 speaks of is read as |LPF1(x)|
(DESIGN CHOICE, see the assumption log). -/
def injUpdate (l : Lane) (a : Axis) : Lane :=
  let o := obsOf l a
  let m := obsMode l a
  let wb1 := q12 l (OBS_BLD_WB1 a)
  let w := rabs o.we
  let prim := decide (m ≠ moEncoder)
  let on := fon l (OBS_CFG_INJ a) && prim &&
    (if o.injOn then decide (w ≤ wb1 + mkRat 1 50) else decide (w < wb1))
  let f := injFreq l a
  let l := stkIfLate (on && decide (f < (fget l (OBS_INJ_FINJ a) : Rat))) l OBS_STK_INJF
  if !on then modObs l a fun o => { o with injOn := false, epsI := 0, xAmp := 0 }
  else
    let z := vget (vget l.axes a).sets 0
    let fc := f * secs (tpOf l a : Rat)
    let (lp2, sB) := Config.lowPass 2 (fc / 4) o.lpB z.iq
    let adv : Rat := f * (tpOf l a : Rat) * (2 ^ 32 : Nat) / 1600000000
    let phi := angWord ((o.phi : Rat) + adv)
    -- both delays are those of the path, 1.5 Tp
    let ph := turns ((phi : Rat) - wTick l a o.we * mkRat 3 2 * (tpOf l a : Rat) - adv * mkRat 3 2)
    let x := (z.iq - lp2) * Config.sinT ph
    let (lp1, sA) := Config.lowPass 1 (fc / 8) o.lpA x
    let ki := Config.kinj (q16 l (AXS_LD_LD a)) (q16 l (AXS_LQ_LQ a)) (q12 l (OBS_INJ_VINJ a)) f
    modObs l a fun o => { o with injOn := true, phi := phi, lpA := sA, lpB := sB, epsI := ki * lp1, xAmp := rabs lp1 }

/-- λ of R164. -/
def lambdaOf (l : Lane) (a : Axis) (we : Rat) : Rat :=
  let wb0 := q12 l (OBS_BLD_WB0 a)
  rclamp 0 1 (qdiv (rabs we - wb0) (q12 l (OBS_BLD_WB1 a) - wb0))

/-- The mode that λ shows (R164). -/
def lamMode (lam : Rat) : Nat := if lam ≤ 0 then moInject else if lam < 1 then moBlend else moEmf

/-- The tracker driven by an angle error in radians (R161). -/
def track (l : Lane) (a : Axis) (eps : Rat) : Lane :=
  let o := obsOf l a
  let tps := secs (tpOf l a : Rat)
  let tp := tpPu l a
  let f2 := 2 * Config.pi * (fget l (OBS_BW_FT a) : Rat)
  let ki := qdiv (f2 * f2 * tps * tps) tp
  let kp := qdiv (2 * mkRat 707 1000 * f2 * tps) tp
  let wi := o.wi + ki * eps
  let we := wi + kp * eps
  let m := obsMode l a
  let xs : Rat := if m = moInject ∨ m = moBlend then
    (fgetI l (OBS_XSAT_XSAT a) : Rat) * (vget (vget l.axes a).sets 0).iq * 65536 else 0
  let th := o.th + we * tp * (2 ^ 32 : Nat) / (2 * Config.pi) + xs
  let th := th - ((th / (2 ^ 32 : Nat)).floor * 2 ^ 32 : Int)
  modObs l a fun o => { o with wi := wi, we := we, th1 := o.th, th := th, eps := eps }

/-- The voltage angle, advanced at the speed `w`, and the magnitude of the phase voltages with pulses off, per unit (R172): of
the mean over set 0. -/
def freeVoltage (l : Lane) (a : Axis) (w : Rat) : Rat × Rat :=
  let cs := copsOf l a 0
  let vr : Rat := (fget l (AXS_RATV_VR a) : Rat)
  let ph (p : Nat) : Rat := qdiv (rmean (cs.filterMap fun (c : Fin 32) =>
    (phaseLeg l c p).bind fun n => (vget l.legs n).vm.map fun v => (v : Rat))) vr
  let m := rmean [ph 0, ph 1, ph 2]
  let al := mkRat 2 3 * (ph 0 - m) - mkRat 1 3 * (ph 1 - m) - mkRat 1 3 * (ph 2 - m)
  let be := qdiv ((ph 1 - m) - (ph 2 - m)) (Config.sqrtR 3)
  (Config.atan2T be al * (2 ^ 32 : Nat) + wTick l a w * (tpOf l a : Rat) / 2, Config.sqrtR (al * al + be * be))

/-! ## Confidence (R168) -/

/-- The confidence of a mode (R168). In ENCODER with a faulty channel, for which the table has no figure, it is the observer's own
(DESIGN CHOICE, see the assumption log): the one that decides about a take-over. -/
def confOf (l : Lane) (a : Axis) : Nat :=
  let o := obsOf l a
  let m := obsMode l a
  let rthr := q12 l (OBS_LOSS_RTHR a)
  let emf := rmin (255 * rmax 0 (1 - qdiv o.res rthr)) (255 * rmin 1 (emfMag o.eg o.ed / (2 * emin)))
  let exp := Config.expAmp (q16 l (AXS_LD_LD a)) (q16 l (AXS_LQ_LQ a)) (q12 l (OBS_INJ_VINJ a)) (injFreq l a)
  let inj := rmax 0 (255 * rmin 1 (qdiv o.xAmp exp) - (if o.polOk then 0 else 128))
  let v : Rat :=
    if m = moEmf ∨ m = moBlend then (1 - o.lam) * inj + o.lam * emf
    else if m = moInject then inj
    else if m = moEncoder then (if encHealthy l a then 255 else (1 - o.lam) * inj + o.lam * emf)
    else if m = moCaught then 255 * rmin 1 (qdiv (freeVoltage l a o.we).2 (2 * q12 l (OBS_FR_VFRMIN a)))
    else 0
  codeU 0 8 v

/-! ## Loss and re-lock (R169, R170) -/

/-- A loss criterion's counter and the instant it first held. -/
def critStep (hold : Bool) (n : Nat) (f : Option Fix) (here : Fix) : Nat × Option Fix :=
  if hold then (satNat 255 (n + 1), match f with | some x => some x | none => some here) else (0, none)

/-- The loss criteria of this period (R169); `lost` is declared at the set-point latch. `th` is the observer's angle for the start
of this period, with which the encoder's for the same instant is compared (R166). -/
def lossCheck (l : Lane) (now : Nat) (a : Axis) (th : Rat) : Lane :=
  let x := vget l.axes a
  let o := x.obs
  let m := obsMode l a
  let here : Fix := { t := x.t0, th := o.ang, w := o.w }
  let enc := fget l (OBS_CFG_ENC a)
  let run := m = moInject || m = moBlend || m = moEmf
  let xtol : Int := (fget l (OBS_ENCP_XTOL a) * 2 ^ 16 : Nat)
  let xerr := angDiff (encAngle l a x.t0) (angWord th)
  let slip := mkRat (fget l (OBS_LOSS_SLIPTH a) : Int) 180 * Config.pi
  let (nR, fR) := critStep ((m = moBlend || m = moEmf) && decide (q12 l (OBS_LOSS_RTHR a) < o.res)) o.nRes o.fRes here
  let (nS, fS) := critStep (run && decide (slip ≤ rabs o.eps)) o.nSlip o.fSlip here
  let cross := decide (enc ≠ 0) && decide (xtol < xerr.natAbs) && (if enc = 2 then run && encHealthy l a else m = moEncoder)
  let (nX, fX) := critStep cross o.nX o.fX here
  let nxc := fget l (OBS_ENCP_NXC a)
  -- primary: a lasting difference is only reported; cross-check: it is a loss
  let mis := enc = 1 && nX = nxc && decide (0 < nxc)
  let l := if mis then raiseO (stkLate l OBS_STK_XMIS) now 0x29 a.1 0 (BitVec.ofInt 32 xerr) else l
  let encDead := m = moEncoder && !(encHealthy l a)
  let good := fget l (OBS_ENCP_CONFMIN a) ≤ confOf l a
  let l := if encDead && good then
      toMode (stkLate l OBS_STK_ENCSW) a (lamMode o.lam) else l
  let lost : Option Fix :=
    if decide (fget l (OBS_LOSS_NRES a) ≤ nR) && fR.isSome && decide (0 < nR) then fR
    else if 2 ≤ nS then fS
    else if enc = 2 && decide (nxc ≤ nX) && decide (0 < nX) then fX
    else if encDead && !good then some here
    else none
  -- the re-lock watch of HOLD
  let relock := m = moHold && decide (o.res < q12 l (OBS_LOSS_RTHR a) / 2) && decide (rabs o.eps < slip / 2)
  modObs l a fun o => { o with
    nRes := nR, fRes := fR, nSlip := nS, fSlip := fS, nX := nX, fX := fX
    lost := if m = moHold || m = moAsc then o.lost else (match lost with | some f => some f | none => o.lost)
    nRel := if relock then o.nRel + 1 else 0 }

/-! ## Acquisition (R172) -/

/-- One period of acquisition. -/
def acquire (l : Lane) (now : Nat) (a : Axis) : Lane :=
  let o := obsOf l a
  let (thv, vm) := freeVoltage l a o.we
  -- the angle the phase voltages give for this period's start, carried on to the start of the next one
  let next (th w : Rat) : Rat := (angWord (th - rsign w * (0x40000000 : Nat) + w * tpPu l a * (2 ^ 32 : Nat) / (2 * Config.pi)) : Nat)
  let l := modObs l a fun o => { o with th1 := o.th, th := next thv o.we }
  let vfr := q12 l (OBS_FR_VFRMIN a)
  let nfr := fget l (OBS_FR_NFR a)
  let fail (l : Lane) : Lane :=
    raiseO (toMode (stkLate l OBS_STK_ACQFAIL) a moFailed) now 0x2B a.1 0 0#32
  if o.acq ≤ 1 then
    -- step 1: the currents decay
    let small := (copsOfAxis l a).all fun (c : Fin 32) => (List.range 3).all fun p =>
      decide (rabs (copCur l c p) < mkRat 1 50 * (fget l (AXS_RATI_IR a) : Rat))
    let n := if small then o.acqN + 1 else 0
    if 4 ≤ n then modObs l a fun o => { o with acq := 2, acqN := 0, acqV := [] }
    else modObs l a fun o => { o with acq := 1, acqN := n }
  else
    let vs := o.acqV ++ [(thv, vm)]
    if vs.length < nfr then modObs l a fun o => { o with acqV := vs }
    else if vs.all fun v => v.2 < vfr then
      -- step 3: standstill
      let l := modObs l a fun o => { o with acqV := [], we := 0, wi := 0 }
      if fon l (OBS_CFG_INJ a) then
        modObs (toMode l a moInject) a fun o => { o with runDue := true, polOk := encValid l a, polN := 0 }
      else if fget l (OBS_CFG_ENC a) = 1 && encHealthy l a then
        modObs (toMode l a moEncoder) a fun o => { o with runDue := true, polOk := true }
      else fail l
    else
      -- steps 4 and 5: speed, angle, consistency
      let d := (vs.zip (vs.drop 1)).map fun p => (angDiff (angWord p.2.1) (angWord p.1.1) : Rat)
      let we := qdiv (rmean d * (2 * Config.pi)) ((2 ^ 32 : Nat) * tpPu l a)
      let ok := rabs (vm - rabs (q16 l (AXS_PSI_PSI a) * we)) ≤ mkRat 15 100 * rabs (q16 l (AXS_PSI_PSI a) * we)
      if ok then
        let th := next (freeVoltage l a we).1 we
        modObs (toMode l a moCaught) a fun o => { o with
          we := we, wi := we, th := th, eg := 0, ed := rsign we * vm, acqV := [], runDue := !o.aftLoss }
      else if o.tries + 1 ≤ 3 then modObs l a fun o => { o with tries := o.tries + 1, acqV := [] }
      else fail l

/-! ## Polarity test (R168) -/

/-- One period of the polarity test, numbered by `pol` from 1: the references built in periods 1 and 2 carry +VPOL, in 3 and 4
−VPOL; a pulse shows in the currents two periods after its reference was built, and period 6 judges. An inconclusive test
raises the polarity source alone (DEDUCED, see the assumption log). -/
def polarity (l : Lane) (now : Nat) (a : Axis) : Lane :=
  let o := obsOf l a
  let idm := rabs (vget (vget l.axes a).sets 0).id
  let pos := if o.pol = 3 ∨ o.pol = 4 then rmax o.polPos idm else o.polPos
  let neg := if 5 ≤ o.pol then rmax o.polNeg idm else o.polNeg
  if o.pol < 6 then modObs l a fun o => { o with pol := o.pol + 1, polPos := pos, polNeg := neg }
  else if mkRat 102 100 * pos < neg then
    modObs (toMode l a moInject) a fun o => { o with
      pol := 0, polOk := true, polPos := pos, polNeg := neg, th := o.th + (0x80000000 : Nat) }
  else if mkRat 102 100 * neg < pos then
    modObs (toMode l a moInject) a fun o => { o with pol := 0, polOk := true, polPos := pos, polNeg := neg }
  else
    let l := raiseO (stkLate l OBS_STK_POLFAIL) now 0x2A a.1 0 0#32
    modObs (toMode l a moFailed) a fun o => { o with pol := 0, pulses := false, injOn := false }

/-! ## Phase A of the observer -/

/-- θ_enc − θ and λ of this period, in every mode (R164, R179): zero without an encoder. -/
def showDiff (l : Lane) (a : Axis) : Lane :=
  modAx l a fun x => { x with
    xerr := if fget l (OBS_CFG_ENC a) = 0 then 0 else angDiff (encAngle l a x.t0) (angWord x.obs.th)
    obs := { x.obs with lam := lambdaOf l a x.obs.we } }

/-- The observer's share of phase A (R160 to R170, R172). -/
def observe (l : Lane) (now : Nat) (a : Axis) : Lane :=
  let m := obsMode l a
  let l := showDiff l a
  if m = moOff ∨ m = moFailed then l
  else if m = moAcquire then acquire l now a
  else if m = moCaught then
    let o := obsOf l a
    let (thv, vm) := freeVoltage l a o.we
    let th := thv - rsign o.we * (0x40000000 : Nat)
    let eps := (angDiff (angWord th) (angWord o.th) : Rat) * (2 * Config.pi) / (2 ^ 32 : Nat)
    -- the measured EMF in the frame at the tracker's angle (R172)
    let t := turns (thv - o.th)
    modObs (track l a eps) a fun o => { o with eg := vm * Config.cosT t, ed := vm * Config.sinT t }
  else if m = moAsc then
    -- the short-circuit current lies near the negative d-axis (R170)
    let z := vget (vget l.axes a).sets 0
    track l a (Config.atan2T (-z.iq) (-z.id) * (2 * Config.pi))
  else
    let (eg, ed, res) := emfUpdate l a
    let l := modObs l a fun o => { o with eg := eg, ed := ed, res := res }
    let l := injUpdate l a
    let o := obsOf l a
    let epsE : Rat := if emin ≤ emfMag eg ed then
      Config.atan2T (-eg) (rsign o.we * ed) * (2 * Config.pi) else 0
    let lam := lambdaOf l a o.we
    let eps := (1 - lam) * o.epsI + lam * epsE
    let l := track (modObs l a fun o => { o with lam := lam }) a eps
    let l := lossCheck l now a o.th
    if m = moPolarity then polarity l now a
    else if isRunMode m then
      -- the mode shown follows λ (R164), by way of BLEND (R176); the polarity test is entered from INJECT (R168)
      let want := if (m = moInject && decide (0 < lam)) || (m = moEmf && decide (lam < 1)) then moBlend else lamMode lam
      let small := decide (rabs o.epsI < mkRat 5 180 * Config.pi)
      let n := if m = moInject && !o.polOk && small then o.polN + 1 else 0
      let l := modObs l a fun o => { o with polN := n }
      if m = moInject ∧ ¬ o.polOk ∧ 32 ≤ n then
        modObs (toMode l a moPolarity) a fun o => { o with pol := 1, polPos := 0, polNeg := 0 }
      else if want ≠ m then toMode l a want else l
    else l

/-- The published registers of the observer (R179, R180), at the publication instant. -/
def publishObs (l : Lane) (a : Axis) : Lane :=
  let o := obsOf l a
  let l := fset (fset l (OBS_EST_MODE a) o.mode) (OBS_ANG_ANG a) o.ang
  let l := fsetI l (OBS_SPD_SPD a) (codeS 16 32 (o.w * q16 l (AXS_RATN_NR a)))
  let l := fset (fset l (OBS_EST_CONF a) (confOf l a)) (OBS_EST_LAMBDA a) (codeU 0 8 (255 * o.lam))
  let l := fsetI l (OBS_EMF_E a) (codeS 16 32 (emfMag o.eg o.ed))
  let l := fsetI l (OBS_XERR_XERR a) (vget l.axes a).xerr
  fsetI l (OBS_RES_RES a) (codeS 16 32 o.res)

/-- The live summary OBS_STS (R180). -/
def obsSummary (l : Lane) : Lane :=
  let any (f : Axis → Bool) : Bool := (allFin 16).any f
  let l := fsetB l OBS_STS_HOLDING (any fun a => obsMode l a = moHold)
  let l := fsetB l OBS_STS_ASCON (any fun a => obsMode l a = moAsc)
  let l := fsetB l OBS_STS_INJON (any fun a => (obsOf l a).injOn)
  fsetB l OBS_STS_SLEWING (any fun a => decide ((obsOf l a).off ≠ 0))

/-! ## Losing the rotor, at the set-point latch (R170) -/

/-- WASC of R170, per unit, at the bus voltage of the axis's first coppice. -/
def wasc (l : Lane) (a : Axis) : Rat :=
  let vdc := rmean ((copsOfAxis l a).map fun c => (copVdc l c).1)
  qdiv vdc (Config.sqrtR 3 * q16 l (AXS_PSI_PSI a) * (fget l (AXS_RATV_VR a) : Rat))

/-- Active short circuit or pulse-off at the end of the hold window (R170). -/
def holdBranch (l : Lane) (now : Nat) (a : Axis) (f : Fix) : Lane :=
  if wasc l a < rabs f.w then
    modObs (toMode (stkLate l OBS_STK_ASC) a moAsc) a fun o => { o with
      asc := true, wasc := wasc l a, pulses := false, hold := none, injOn := false }
  else
    modObs (toMode (stkLate l OBS_STK_PULSEOFF) a moAcquire) a fun o => { o with
      pulses := false, hold := none, injOn := false
      acq := 1, acqT := now, acqN := 0, acqV := [], tries := 0, aftLoss := true }

/-- The end of a hold window (R170): a re-lock that has been met resumes, otherwise the branch is taken. -/
def holdEnd (l : Lane) (now : Nat) (a : Axis) (f : Fix) (tNow : Rat) (past : Bool) : Lane :=
  let o := obsOf l a
  if fget l (OBS_HOLD_NRELOCK a) ≤ o.nRel ∧ 0 < o.nRel then
    modObs (toMode (stkLate l OBS_STK_RELOCK) a (lamMode o.lam)) a fun o => { o with hold := none, ramp := some tNow, nRel := 0 }
  else if past then holdBranch l now a f
  else l

/-- The rotor-loss sequence at the set-point latch (R170): declaration, re-lock, the end of the window, the end of ASC. From the
declaration on the angle in use is the extrapolated one, for the edges that this latch's phase B forms too. -/
def rotorLatch (l : Lane) (now : Nat) (a : Axis) (tNow : Rat) : Lane :=
  let o := obsOf l a
  match o.lost with
  | some f =>
    let l := fcount (stkLate l OBS_STK_LOSS) (OBS_LCNT_COUNT a)
    let l := raiseO l now 0x28 a.1 0 0#32
    let l := modObs l a fun o => { o with
      lost := none, hold := some (now, f), holdT := tNow, ramp := none, nRes := 0, nSlip := 0, nX := 0
      fRes := none, fSlip := none, fX := none, nRel := 0, off := 0, w := f.w
      ang := extrapolate l a f (vget l.axes a).t0 }
    if fget l (OBS_HOLD_HOLD a) = 0 then holdBranch l now a f else toMode l a moHold
  | none =>
    match o.hold with
    | some (td, f) => holdEnd l now a f tNow (decide (td + fget l (OBS_HOLD_HOLD a) * 3200 ≤ now))
    | none =>
      if o.asc ∧ rabs o.we < mkRat 9 10 * o.wasc then
        modObs l a fun o => { o with ascEnd := true }
      else l

/-! ## Current references (R154 to R156) -/

/-- idMTPA(x) from the axis's table, linearly interpolated (R155). -/
def idMtpa (l : Lane) (a : Axis) (x : Rat) : Rat :=
  let w (j : Nat) : Rat := mkRat (mget32 l (0x02020000 + 0x100 * a.1 + 4 * j)).toInt 65536
  let u := 16 * x
  let j := u.floor.toNat
  if 32 ≤ j then w 32 else w j + (w (j + 1) - w j) * (u - (j : Rat))

/-- id_r, iq_r from T*, with the field-weakening integrator (R154); `rf` is the rating factor (R226). The last part is the bound at
which the current circle clamps iq_r: at the positive one, at the negative one, or none. -/
def currentRefs (l : Lane) (a : Axis) (tstar : Rat) (rf : Rat) : Lane × Rat × Rat × Option Bool :=
  let x := vget l.axes a
  let o := x.obs
  let sspd := q12 l (AXS_FW2_SSPD a)
  let mt : Rat := if x.ovm = 3 ∧ sspd ≤ rabs o.w then 1
    else rmin (mkRat (fget l (AXS_FW_MTGT a) : Int) 65536) (mkRat 98 100 * boundM x.ovm)
  let m : Rat := mkRat (fget l (AXS_MIDX_M a) : Int) 65536
  let idmin := q12s l (AXS_FW2_IDMIN a)
  let frozen := o.six || obsMode l a = moHold || o.hold.isSome || !o.pulses
  let did := if frozen then o.did else rclamp idmin 0 (o.did + q12 l (AXS_FW_KFW a) * (mt - m))
  let l := stkIfLate (!frozen && decide (did = idmin)) l OBS_STK_FWSAT
  -- flux braking puts min(dId, −IDFB) in the place of dId (R245)
  let dIn := if x.fbOn then rmin did (-(q12 l (AXS_FB_IDFB a))) else did
  let idr := rmax idmin (idMtpa l a (rabs tstar) + dIn)
  let imax := rf * q12 l (AXS_CL_IMAX a)
  let lim := Config.sqrtR (imax * imax - idr * idr)
  let raw := qdiv tstar (q16 l (AXS_KTQ_KTQ a) * (q16 l (AXS_PSI_PSI a) + (q16 l (AXS_LD_LD a) - q16 l (AXS_LQ_LQ a)) * idr))
  let iqr := rclamp (-lim) lim raw
  let l := modAx l a fun x => { x with tlim := x.tlim || decide (iqr ≠ raw) }
  (modObs l a fun o => { o with did := did }, idr, iqr, if iqr = raw then none else some (decide (lim < raw)))

end Sys2Proof.Machine
end

