-- ==== Sys2Proof/Machine/Engine.lean ====
section
/-!
DEFINITION. The loop engine (chapter 6): exact sums (R186 to R189), a sample of a slot (R183 to R185, R200 to R207), stages
and chains (R190 to R196), posted operations (R198, R199), injection (R209 to R211), capture (R212 to R214), saturation
and slot faults (R215, R216).
-/
namespace Sys2Proof.Machine

/-! ## Exact sums (R187) -/

/-- A term or an accumulator: the value is `a · 2^(e − 49)`. -/
structure Term where
  a : Int
  e : Int
  deriving DecidableEq, Repr

/-- A product of two mantissas with their exponents. -/
def tProd (m1 e1 m2 e2 : Int) : Term := { a := m1 * m2 * 8, e := e1 + e2 }

/-- A single mantissa with its exponent. -/
def tWord (m e : Int) : Term := { a := m * 2 ^ 26, e := e }

/-- A signal word as a term. -/
def tSig (w : Word) : Term := tWord (bfM w) (bfE w)

/-- A negated term. -/
def tNeg (t : Term) : Term := { t with a := -t.a }

/-- The zero term. -/
def tZero : Term := { a := 0, e := -64 }

/-- The accumulator of a sum: every term shifted right to the largest exponent, bits shifted out discarded. -/
def tAcc (ts : List Term) : Term :=
  let e := ts.foldl (fun m t => max m t.e) (match ts with | t :: _ => t.e | [] => -64)
  { a := ts.foldl (fun s t => s + (t.a >>> (e - t.e).toNat)) 0, e := e }

/-- The exact value. -/
def tDy (t : Term) : Dy := { m := t.a, e := t.e - 49 }

/-- A signal result rounded from the accumulator, and whether it saturated (R188). -/
def tRnd (t : Term) : Word × Bool := let r := bfRound (tDy t); (r.1, r.2.ovf)

/-- The canonical word of a signal input, and whether its exponent lay outside the range (R65, R188). -/
def sigIn (w : Word) : Word × Bool := ((bfRound (bfVal w)).1, bfOut w)

/-- The canonical word alone. -/
def sig (w : Word) : Word := (sigIn w).1

/-- A term clamped to two limit words; a clamp is exact. -/
def tClamp (t : Term) (lo hi : Word) : Term :=
  if dyLt (tDy t) (bfVal lo) then tSig (sig lo) else if dyLt (bfVal hi) (tDy t) then tSig (sig hi) else t

/-- A signal clamped to two limit words, with the limit hit: upper, lower. -/
def wClamp (w lo hi : Word) : Word × Bool × Bool :=
  if dyLt (bfVal w) (bfVal lo) then (sig lo, false, true)
  else if dyLt (bfVal hi) (bfVal w) then (sig hi, true, false) else (w, false, false)

/-- The magnitude and the negative of a signal. -/
def wAbs (w : Word) : Word := (bfRound (dyAbs (bfVal w))).1
def wNeg (w : Word) : Word := (bfRound (dyNeg (bfVal w))).1

/-! ## Descriptors and coefficient memory (R190, R208, R217) -/

/-- A slot's run data. -/
def slotOf (l : Lane) (s : Slot) : SlotRt := vget l.slots s

/-- The lane with a slot's run data changed. -/
def modSlot (l : Lane) (s : Slot) (f : SlotRt → SlotRt) : Lane := { l with slots := vmod l.slots s f }

/-- Whether a slot is used. -/
def slotUsed (l : Lane) (s : Nat) : Bool := decide (fget l (LPE_SCFG_FORM s) ≠ 0)

/-- Slot `n` of the lane, if there is one. -/
def slotAt (n : Nat) : Option Slot := if h : n < 256 then some ⟨n, h⟩ else none

/-- The slots of the stage whose first slot is `s` (R190). -/
def stageSlots (l : Lane) (s : Slot) : List Slot :=
  (List.range (fget l (LPE_SCFG_NSL s) + 1)).filterMap fun j => slotAt (s.1 + j)

/-- The last slot of the stage. -/
def stageLast (l : Lane) (s : Slot) : Slot := ((stageSlots l s).getLast?).getD s

/-- The first slot of the stage that a used slot belongs to. -/
def stageFirst (l : Lane) (s : Slot) : Slot :=
  let c := (allFin 256).filter fun (f : Slot) => slotUsed l f && fon l (LPE_SCFG_FIRST f) && decide (f.1 ≤ s.1) &&
    decide (s.1 ≤ f.1 + fget l (LPE_SCFG_NSL f))
  c.headD s

/-- The output of the stage whose first slot is numbered `n` (R191). -/
def stageOut (l : Lane) (n : Nat) : Word :=
  match slotAt n with | some s => (slotOf l (stageLast l s)).y | none => bfZero

/-- The coefficient block of a slot (R208). -/
def coefBase (s : Nat) : Nat := 0x02040000 + 0x400 * s

/-- Coefficient `j` of region `r`: b0 to b3, a1 to a3, ki. -/
def coefM (l : Lane) (s r j : Nat) : Int := sInt 24 ((mget32 l (coefBase s + 0x40 * r + 4 * j)).toNat % 2 ^ 24)

/-- The exponent of region `r`. -/
def coefE (l : Lane) (s r : Nat) : Int := sInt 8 ((mget32 l (coefBase s + 0x40 * r + 0x20)).toNat % 256)

/-- Threshold Tj, and the hysteresis. -/
def thrOf (l : Lane) (s j : Nat) : Int := (mget32 l (coefBase s + 0x200 + 4 * (j - 1))).toInt
def hysOf (l : Lane) (s : Nat) : Int := (mget32 l (coefBase s + 0x21C)).toInt

/-- The worse of two findings in different words. -/
def eccWorse (x y : Ecc) : Ecc :=
  if x = .double ∨ y = .double then .double else if x = .single ∨ y = .single then .single else .none

/-- What a computation of slot `s` in region `r` meets in its coefficient words and its schedule block (R198). -/
def coefEcc (l : Lane) (s r : Nat) : Ecc :=
  let as := ((List.range 9).map fun j => coefBase s + 0x40 * r + 4 * j) ++ ((List.range 8).map fun j => coefBase s + 0x200 + 4 * j)
  as.foldl (fun (e : Ecc) a => eccWorse e (eccAt l a .none)) .none

/-- The single-bit errors of those words corrected and written back. -/
def coefScrub (l : Lane) (s r : Nat) : Lane :=
  let as := ((List.range 9).map fun j => coefBase s + 0x40 * r + 4 * j) ++ ((List.range 8).map fun j => coefBase s + 0x200 + 4 * j)
  as.foldl (fun l a => if eccAt l a .none = .single then eccSet l a .none else l) l

/-! ## The inputs of a stage (R191, R192, R205) -/

/-- The DC bus of an axis (R238). -/
def busOfAxis (l : Lane) (a : Axis) : Option (Fin 8) :=
  match (bricksOf l a).find? (fun (b : Brick) => (copsOfAxis l a).any fun (c : Fin 32) => (legsOf l c).any fun (n : Fin 128) => n.1 / 4 = b.1) with
  | some b => (allFin 8).find? fun k => bit (fget l (SHR_BMSK_BMSK k)) b
  | none => none

/-- The speed of an axis in r/min, in the format of OBS_SPD: the governing speed of the present period. -/
def speedRpm (l : Lane) (a : Axis) : Rat := mkRat (codeS 16 32 ((obsOf l a).w * q16 l (AXS_RATN_NR a))) 65536

/-- The same per unit (R191). -/
def speedPu (l : Lane) (a : Axis) : Rat := qdiv (speedRpm l a) (q16 l (AXS_RATN_NR a))

/-- The speed of another axis per unit, as published. -/
def speedPub (l : Lane) (a : Axis) : Rat := qdiv (q16 l (OBS_SPD_SPD a)) (q16 l (AXS_RATN_NR a))

/-- The published voltage of the axis's bus, per unit of its rated voltage. -/
def busPu (l : Lane) (a : Axis) : Rat :=
  match busOfAxis l a with
  | some b => qdiv (fget l (SHR_BLIV_VBUS b) : Rat) (fget l (SHR_BVR_VDCR b) : Rat)
  | none => 0

/-- The position of the axis's feedback channel in mechanical turns (R303). -/
def turnsOf (l : Lane) (a : Axis) : Rat := q16 l (FBK_TURN_TURN (fget l (OBS_CFG_ECH a)))

/-- The axis a slot's stage is bound to. -/
def slotAxis (l : Lane) (s : Nat) : Axis := ⟨fget l (LPE_SCFG_AXIS s) % 16, Nat.mod_lt _ (by decide)⟩

/-- FB of R191. -/
def fbValue (l : Lane) (s : Slot) : Word :=
  let a := slotAxis l s
  match fget l (LPE_SIN_FBSEL s) with
  | 1 => bfOfRat (speedPu l a)
  | 2 => bfOfRat (torqueOf l a)
  | 3 => bfOfRat (turnsOf l a)
  | 4 => bfOfRat (vget l.axes a).ten
  | 5 => bfOfRat (busPu l a)
  | 6 => stageOut l (fget l (LPE_SIN_SRC s))
  | 7 => mget32 l (fget l (LPE_SADR_ADR s))
  | _ => bfZero

/-- SPV of R191: the committed set-point that the ramp follows, another stage's output, or zero. -/
def spValue (l : Lane) (s : Slot) : Word :=
  match fget l (LPE_SIN_SPSEL s) with
  | 0 => rget l (LPE_SP s)
  | 1 => stageOut l (fget l (LPE_SIN_SRC s))
  | _ => bfZero

/-- The data-SRAM word that schedules a slot with SCHSEL 0x6 (R190, R205). -/
def schWord (l : Lane) (s : Slot) : Word := mget32 l (fget l (LPE_SADR_ADR s) + 4)

/-- A scheduling variable in Q16.16 (R205); codes 0x0, 0x5 and 0x7 take none here. `ax` is the axis of the stage. -/
def schVar (l : Lane) (a : Axis) (s : Slot) : Int :=
  match fget l (LPE_SIN_SCHSEL s) with
  | 1 => codeS 16 32 (rabs (speedPu l a))
  | 2 => codeS 16 32 (rabs (q16 l (AXS_TLIV_TSTAR a)))
  | 3 => (fget l (AXS_MIDX_M a) : Int)
  | 4 => codeS 16 32 (qdiv (fget l (AXS_TP_TP a) : Rat) (fget l (AXS_CAR_HALF a) : Rat))
  | 6 => fixRat 16 (dyRat (bfVal (sig (schWord l s))))
  | _ => 0

/-- The inputs of a stage, taken now (R192). -/
def takeIn (l : Lane) (s : Slot) : StageIn :=
  { spv := spValue l s, fb := fbValue l s, sch := (stageSlots l s).map fun k => schVar l (slotAxis l s) k
    rng := (stageSlots l s).any fun k => fget l (LPE_SIN_SCHSEL k) = 6 && (sigIn (schWord l k)).2 }

/-! ## Injection (R209 to R211) -/

/-- The default table read at an angle word (R124, R209). -/
def sineRom (th : Nat) : Rat :=
  let i : Nat := th % 2 ^ 32 / 2 ^ 20
  let f : Nat := th / 2 ^ 8 % 2 ^ 12
  let d := sineDefault (i + 1) - sineDefault i
  mkRat (sineDefault i + rdiv (d * (f : Int)) 4096) (2 ^ 23)

/-- Length and tap of the shift register (R210). -/
def prbsLen (k : Nat) : Nat × Nat :=
  match k with | 0 => (7, 6) | 1 => (9, 5) | 2 => (11, 9) | 3 => (15, 14) | 4 => (23, 18) | _ => (31, 28)

/-- The sample time of a slot in seconds (R194). -/
def slotTs (l : Lane) (s : Slot) : Rat :=
  let f := stageFirst l s
  ((fget l (LPE_SCFG_DIV f) + 1 : Nat) : Rat) * secs (tpOf l (slotAxis l f) : Rat)

/-- The points that run or start on slot `s` (R211). -/
def injOn (l : Lane) (s : Slot) : List (Fin 4) :=
  (allFin 4).filter fun p => fget l (LPE_ICFG_SLOT p) = s.1 && (fon l (LPE_ISTS_RUN p) || (vget l.inj p).pend)

/-- A started point runs from this sample, a stopped one no longer (R211); the PRBS takes its bit of the sample. -/
def injBegin (l : Lane) (p : Fin 4) : Lane :=
  let j := vget l.inj p
  if j.stop then
    { (fsetB l (LPE_ISTS_RUN p) false) with inj := vset l.inj p { j with stop := false, pend := false } }
  else
    let (len, tap) := prbsLen (fget l (LPE_ICFG_PLEN p))
    let l := if j.pend then capSeen l 4 p else l
    let j := if j.pend then { InjRt.zero with sr := 2 ^ len - 1 } else j
    let hold := max 1 (fget l (LPE_ICFG_HOLDN p))
    let j := if j.n % hold = 0 then
        let new := bit j.sr (len - 1) != bit j.sr (tap - 1)
        { j with sr := (2 * j.sr + b2n new) % 2 ^ len, sbit := new }
      else j
    let l := fset (fsetB l (LPE_ISTS_RUN p) true) (LPE_ISTS_N p) (satNat (2 ^ 31 - 1) j.n)
    { l with inj := vset l.inj p j }

/-- The signal u of a running point (R209). -/
def injU (l : Lane) (s : Slot) (p : Fin 4) : Word :=
  let j := vget l.inj p
  let amp := rget l (LPE_IAMP p)
  match fget l (LPE_ICFG_SIG p) with
  | 0 => if j.sbit then sig amp else wNeg amp
  | 1 => bfOfRat (dyRat (bfVal amp) * sineRom j.phi)
  | _ =>
    let ph := rround (q16 l (LPE_IF0_F0 p) * (j.n : Rat) * slotTs l s * (2 ^ 32 : Nat))
    bfOfRat (dyRat (bfVal amp) * sineRom (ph % 2 ^ 32).toNat)

/-- A point after its slot's sample: the count, the chirp's phase, the end after Nd samples (R209). -/
def injEnd (l : Lane) (s : Slot) (p : Fin 4) : Lane :=
  if !(fon l (LPE_ISTS_RUN p)) then l
  else
    let j := vget l.inj p
    let nd := fget l (LPE_IDUR_ND p)
    let chirp := decide (fget l (LPE_ICFG_SIG p) = 1)
    let f0 := q16 l (LPE_IF0_F0 p)
    let f1 := q16 l (LPE_IF1_F1 p)
    let dphi := rround ((f0 + (f1 - f0) * qdiv (j.n : Rat) (nd : Rat)) * slotTs l s * (2 ^ 32 : Nat))
    let n := j.n + 1
    let j := { j with n := n, phi := (((j.phi : Int) + dphi) % 2 ^ 32).toNat }
    let done := decide (0 < nd) && decide (nd ≤ n)
    let l := fset l (LPE_ISTS_N p) (satNat (2 ^ 31 - 1) n)
    if !done then { l with inj := vset l.inj p j }
    else if chirp && fon l (LPE_ICFG_REP p) then { l with inj := vset l.inj p { j with n := 0, phi := 0 } }
    else { (fsetB l (LPE_ISTS_RUN p) false) with inj := vset l.inj p { j with pend := false } }

/-- The signals added at point `pt` of slot `s`. -/
def injAt (l : Lane) (s : Slot) (pt : Nat) : List Term :=
  ((injOn l s).filter fun (p : Fin 4) => fon l (LPE_ISTS_RUN p) && fget l (LPE_ICFG_POINT p) = pt).map fun (p : Fin 4) => tSig (injU l s p)

/-! ## One sample of a slot (R183) -/

/-- What the sums of R183 give before a transfer: v, the new s1 to s3 and I held exactly, and whether a signal
saturated. -/
structure SlotSum where
  v   : Word
  t1  : Term
  t2  : Term
  t3  : Term
  ti  : Term
  ovf : Bool

/-- The sums of R183 with the coefficients of region `r`; `pU`, `pL`: satprev of this sample; `hold`: I holds its value
(R185). -/
def slotSum (l : Lane) (s : Slot) (r : Nat) (x d : Word) (pU pL hold : Bool) : SlotSum :=
  let z := slotOf l s
  let ec := coefE l s r
  let p (j : Nat) (w : Word) : Term := tProd (coefM l s r j) ec (bfM w) (bfE w)
  let (v, o1) := tRnd (tAcc [p 0 x, tWord z.m1 z.es])
  let t1 := tAcc [p 1 x, tNeg (p 4 v), tWord z.m2 z.es]
  let t2 := tAcc [p 2 x, tNeg (p 5 v), tWord z.m3 z.es]
  let t3 := if fget l (LPE_SCFG_FORM s) = 2 then tAcc [p 3 x, tNeg (p 6 v)] else tZero
  let i0 := tWord z.mI z.es
  let ti :=
    if !(fon l (LPE_SCFG_INT s)) then tZero
    else if hold then i0
    else
      let inc := p 7 x
      let itry := tAcc [i0, inc]
      let tot := tDy (tAcc [tSig v, itry, tSig d])
      let up := pU || dyLt (bfVal (rget l (LPE_YHI s))) tot
      let dn := pL || dyLt tot (bfVal (rget l (LPE_YLO s)))
      let it := if (up && decide (0 < inc.a)) || (dn && decide (inc.a < 0)) then i0 else itry
      tClamp it (rget l (LPE_ILO s)) (rget l (LPE_IHI s))
  { v := v, t1 := t1, t2 := t2, t3 := t3, ti := ti, ovf := o1 }

/-- The region of this sample (R206, R207) and whether a swap was refused; `var` is the scheduling variable. -/
def slotRegion (l : Lane) (s : Slot) (x : Word) (var : Int) : Nat × Bool :=
  let z := slotOf l s
  let nreg := fget l (LPE_SIN_NREG s)
  let sel := fget l (LPE_SIN_SCHSEL s)
  let var := if sel = 5 then fixRat 16 (dyRat (dyAbs (bfVal x))) else var
  let up (r : Nat) : Nat := (List.range 8).foldl (fun r _ => if r < nreg ∧ thrOf l s (r + 1) ≤ var then r + 1 else r) r
  let down (r : Nat) : Nat := (List.range 8).foldl (fun r _ => if 0 < r ∧ var < thrOf l s r - hysOf l s then r - 1 else r) r
  let r' := if sel = 0 then 0 else if sel = 7 then z.regReq.getD z.reg else down (up z.reg)
  let bad := decide (r' ≠ z.reg) && (decide (coefE l s r' < -32) || decide (31 < coefE l s r'))
  (if bad then z.reg else r', bad)

/-- D slewed towards zero (R183). -/
def slewD (l : Lane) (s : Slot) : Word :=
  let d := (slotOf l s).d
  let xs := rget l (LPE_XSL s)
  if dyEq (bfVal xs) { m := 0, e := 0 } then bfZero
  else if dyLt (bfVal xs) (dyAbs (bfVal d)) then
    (if 0 < bfM d then (tRnd (tAcc [tSig d, tNeg (tSig (sig xs))])).1 else (tRnd (tAcc [tSig d, tSig (sig xs)])).1)
  else bfZero

/-- One sample of slot `s` with input `x` (R183 to R185, R201 to R203, R215): the new run data but for the states, which
are answered as exact terms I, s1, s2, s3. -/
def slotSample (l : Lane) (s : Slot) (x0 : Word) (var : Int) : Lane × List Term :=
  let (x, ovx) := tRnd (tAcc (tSig x0 :: injAt l s 0))
  let z := slotOf l s
  let (r, bad) := slotRegion l s x var
  let swap := decide (r ≠ z.reg)
  let man := fon l (LPE_MODE_MODE s)
  let pU := z.cU || z.xU
  let pL := z.cL || z.xL
  let ylo := rget l (LPE_YLO s)
  let yhi := rget l (LPE_YHI s)
  let int := fon l (LPE_SCFG_INT s)
  let uy := injAt l s 1
  let l := stkIfLate bad l LPE_STK_BADREG
  let (mw, mbad) := sigIn (rget l (LPE_MAN s))
  let l := stkIfLate (ovx && true) l LPE_STK_BFOVF
  let u := match injOn l s with | p :: _ => injU l s p | [] => bfZero
  if man then
    let q := slotSum l s r x bfZero pU pL true
    let l := stkIfLate mbad (stkIfLate q.ovf l LPE_STK_BFOVF) LPE_STK_BFRANGE
    let l := stkIfLate z.preset.isSome l LPE_STK_PREIGN
    let (my, ov) := tRnd (tAcc (tSig mw :: uy))
    let l := stkIfLate ov l LPE_STK_BFOVF
    let (y, cu, cl) := wClamp my ylo yhi
    (modSlot l s fun z => { z with
      x := x, v := q.v, y := y, d := bfZero, u := u, reg := r, cU := cu, cL := cl, lU := true, lL := true, xU := false,
      xL := false, sat := false, satN := 0, satHit := false, preset := none, regReq := none, toAuto := false, hoY := none },
     [q.ti, q.t1, q.t2, q.t3])
  else
    let d := slewD l s
    let q := slotSum l s r x d pU pL false
    let (old, ov0) : Option Word × Bool :=
      match z.preset with
      | some p => (some p, false)
      | none =>
        if z.toAuto then (some (wClamp mw ylo yhi).1, false)
        else if swap && fon l (LPE_SCFG_XREG s) then
          let o := slotSum l s z.reg x z.d pU pL false
          let (yo, o2) := tRnd (tAcc [tSig o.v, o.ti, tSig z.d])
          (some (wClamp yo ylo yhi).1, o.ovf || o2)
        else (z.hoY, false)
    let (ti, d, ov1) : Term × Word × Bool :=
      match old with
      | none => (q.ti, d, false)
      | some yo =>
        let (vi, o1) := tRnd (tAcc [tSig q.v, q.ti])
        let dlt := tAcc [tSig yo, tNeg (tSig vi)]
        if int then
          let a0 := tClamp dlt (wNeg (rget l (LPE_XW s))) (rget l (LPE_XW s))
          let full := tAcc [q.ti, a0]
          let lim := tClamp full (rget l (LPE_ILO s)) (rget l (LPE_IHI s))
          -- the part the integrator can take; the sum that stands in I is formed with it (R187)
          let part := tAcc [lim, tNeg q.ti]
          let (dw, o2) := tRnd (tAcc [dlt, tNeg part])
          (tAcc [q.ti, part], dw, o1 || o2)
        else
          let (dw, o2) := tRnd dlt
          (q.ti, dw, o1 || o2)
    let (yr, ov2) := tRnd (tAcc ([tSig q.v, ti, tSig d] ++ uy))
    let (y, cu, cl) := wClamp yr ylo yhi
    let sat := cu || cl || z.xU || z.xL
    let n := if sat then satNat 0xFFFF (z.satN + 1) else 0
    let l := stkIfLate (mbad && z.toAuto) (stkIfLate (q.ovf || ov0 || ov1 || ov2) l LPE_STK_BFOVF) LPE_STK_BFRANGE
    let l := stkIfLate (old.isSome && decide (d ≠ bfZero)) l LPE_STK_XSLEW
    (modSlot l s fun z => { z with
      x := x, v := q.v, y := y, d := d, u := u, reg := r, cU := cu, cL := cl, lU := cu || z.xU, lL := cl || z.xL,
      xU := false, xL := false,
      sat := sat, satN := n, satHit := if sat then z.satHit else false, preset := none, regReq := none, toAuto := false
      hoY := none },
     [ti, q.t1, q.t2, q.t3])

/-- The saturation run of a slot (R215): once a run, at SATLIM. -/
def satCheck (l : Lane) (now : Nat) (first s : Slot) : Lane :=
  let z := slotOf l s
  let lim := fget l (LPE_SAT_SATLIM s)
  if z.satHit || lim = 0 || z.satN < lim then l
  else
    let l := stkLate (modSlot l s fun z => { z with satHit := true }) LPE_STK_SATRUN
    if fon l (LPE_SCFG_BOUND first) then raiseO l now 0x2D (slotAxis l first) s (wordOf z.satN)
    else raiseO l now 0x69 s 0 (wordOf z.satN)

/-! ## Renormalisation (R189) -/

/-- A value rounded to a mantissa at exponent `e`. -/
def mantAt (e : Int) (t : Term) : Int :=
  let x := tDy t
  let k := x.e + 23 - e
  if 0 ≤ k then x.m * pow2 k else rdiv x.m (2 ^ (-k).toNat)

/-- Whether a mantissa fits in 24 bits. -/
def mantFits (m : Int) : Bool := decide (-0x800000 ≤ m) && decide (m ≤ 0x7FFFFF)

/-- The stage exponent for the values, and whether one must saturate. -/
def stageExp (ts : List Term) : Int × Bool :=
  match ((List.range 64).map fun (k : Nat) => (k : Int) - 32).find? fun e => ts.all fun t => mantFits (mantAt e t) with
  | some e => (e, false)
  | none => (31, true)

/-- The states of a stage's slots renormalised together. -/
def renorm (l : Lane) (rs : List (Slot × List Term)) : Lane :=
  let all := rs.foldl (fun acc p => acc ++ p.2) []
  let (e, sat) := stageExp all
  let m (t : Term) : Int := satInt (-0x800000) 0x7FFFFF (mantAt e t)
  let l := stkIfLate sat l LPE_STK_STOVF
  rs.foldl (fun l p => modSlot l p.1 fun z => { z with
    ecc := SlotRt.zero.ecc, mI := m (p.2.getD 0 tZero), m1 := m (p.2.getD 1 tZero), m2 := m (p.2.getD 2 tZero), m3 := m (p.2.getD 3 tZero)
    es := e }) l

/-! ## A stage (R190, R200, R216) -/

/-- The ramp and the input x of the first slot (R191, R200): `seed` makes a seeding sample. Answers the lane and x. -/
def stageRamp (l : Lane) (s : Slot) (inp : StageIn) : Lane × Word :=
  let z := slotOf l s
  let (fb, b1) := sigIn inp.fb
  let (sp, b2) := sigIn inp.spv
  let l := stkIfLate (b1 || b2) l LPE_STK_BFRANGE
  if fget l (LPE_SIN_SPSEL s) = 0 then
    let man := fon l (LPE_MODE_MODE s)
    if z.seed || man || z.toAuto then
      (modSlot l s fun z => { z with r := fb, seed := false }, bfZero)
    else
      let st := rget l (LPE_STEP s)
      let (r, o) : Word × Bool :=
        if dyEq (bfVal st) { m := 0, e := 0 } then (sp, false)
        else tRnd (tAcc [tSig z.r, tClamp (tAcc [tSig sp, tNeg (tSig z.r)]) (wNeg st) st])
      let (x, o2) := tRnd (tAcc ([tSig r, tNeg (tSig fb)] ++ injAt l s 2))
      (modSlot (stkIfLate (o || o2) l LPE_STK_BFOVF) s fun z => { z with r := r }, x)
  else
    let (x, o) := tRnd (tAcc [tSig sp, tNeg (tSig fb)])
    (stkIfLate o l LPE_STK_BFOVF, x)

/-- A slot fault (R216). -/
def slotFault (l : Lane) (now : Nat) (first : Slot) : Lane :=
  let obj := if fon l (LPE_SCFG_BOUND first) then (slotAxis l first).1 else 0xFF
  let l := (stageSlots l first).foldl (fun l s => fsetB (modSlot l s fun z => { z with fault := true }) (LPE_SST_FAULT s) true) l
  raiseO (stkLate l LPE_STK_SLOTFLT) now 0x6A obj 0 0#32

/-- A committed CLR takes effect at the stage's sample (R216): states, D and exponent as after admission, the ramp seeded. -/
def slotClear (l : Lane) (first : Slot) : Lane :=
  (stageSlots l first).foldl (fun l s => modSlot l s fun z => { z with
    mI := 0, m1 := 0, m2 := 0, m3 := 0, es := -32, ecc := SlotRt.zero.ecc, d := bfZero, seed := true, fault := false, clr := false }) l

/-- The clamp report of an inner stage to the stage its SPSEL names (R184, cascade). -/
def cascade (l : Lane) (s : Slot) : Lane :=
  if fget l (LPE_SIN_SPSEL s) ≠ 1 then l
  else
    match slotAt (fget l (LPE_SIN_SRC s)) with
    | none => l
    | some o =>
      if !(fon l (LPE_SCFG_CHOLD o)) then l
      else
        let z := slotOf l s
        modSlot l (stageLast l o) fun t => { t with xU := t.xU || z.lU, xL := t.xL || z.lL }

/-- An upset in a state word of the engine (R198); the worse finding of two stands. -/
def slotUpset (l : Lane) (s : Slot) (j : Fin 4) (e : Ecc) : Lane :=
  modSlot l s fun z => { z with ecc := vmod z.ecc j fun x => eccWorse x e }

/-- What a computation of a stage meets in the state words of its slots (R198). -/
def stateEcc (l : Lane) (slots : List Slot) : Ecc :=
  slots.foldl (fun (e : Ecc) s => (allFin 4).foldl (fun (e : Ecc) j => eccWorse e (vget (slotOf l s).ecc j)) e) .none

/-- One computation of a stage (R190): input `x` of a RUN, or the configured input. Errors in its coefficient and state words are
met here (R198, R216); the new states are written with fresh check bits. -/
def stageRun (l : Lane) (now : Nat) (s : Slot) (x : Option Word) (inp : StageIn) : Lane :=
  let z := slotOf l s
  let l := if z.fault && z.clr then slotClear l s else modSlot l s fun z => { z with clr := false }
  if (slotOf l s).fault then l
  else
    let slots := stageSlots l s
    let l0 := l
    let l := slots.foldl (fun l k => (injOn l k).foldl (fun l p => injBegin l p) l) l
    let (l, x) : Lane × Word :=
      match x with
      | some w => let (c, b) := sigIn w; (stkIfLate b l LPE_STK_BFRANGE, c)
      | none => stageRamp l s inp
    let l := stkIfLate inp.rng l LPE_STK_BFRANGE
    let step (acc : Lane × Word × List (Slot × List Term) × Ecc) (kv : Slot × Int) : Lane × Word × List (Slot × List Term) × Ecc :=
      let (l, ts) := slotSample acc.1 kv.1 acc.2.1 kv.2
      (l, (slotOf l kv.1).y, acc.2.2.1 ++ [(kv.1, ts)], eccWorse acc.2.2.2 (coefEcc l kv.1 (slotOf l kv.1).reg))
    let (l, _, rs, e) := (slots.zip (inp.sch ++ List.replicate 8 0)).foldl step (l, x, [], stateEcc l0 slots)
    match e with
    | .double => slotFault l0 now s
    | e =>
      let l := if e = .single then
          slots.foldl (fun (l : Lane) (k : Slot) => coefScrub l k (slotOf l k).reg) (chkFail (stkLate l LPE_STK_ECCREP)) else l
      let l := renorm l rs
      let l := slots.foldl (fun l k => satCheck l now s k) l
      let l := slots.foldl (fun l k => (injOn l k).foldl (fun l p => injEnd l k p) l) l
      cascade l s

/-! ## Live registers (R218, R220) -/

/-- The word of a BF32 state at READ. -/
def readState (l : Lane) (s : Slot) (j : Nat) : Word :=
  let z := slotOf l s
  let m := match j with | 0 => z.mI | 1 => z.m1 | 2 => z.m2 | _ => z.m3
  (bfRound { m := m, e := z.es - 23 }).1

/-- The values a slot publishes, by their codes of R212. -/
def slotValues (l : Lane) (s : Slot) : List Word :=
  let z := slotOf l s
  [z.x, z.v, z.y, readState l s 0, readState l s 1, readState l s 2, readState l s 3, z.d, z.r,
   if (injOn l s).any fun p => fon l (LPE_ISTS_RUN p) then z.u else bfZero]

/-- The live registers of a slot, and the values that capture reads from it until its next publication (R212, R218). -/
def publishSlot (l : Lane) (s : Slot) : Lane :=
  let z := slotOf l s
  let l := rset (rset l (LPE_OUT s) z.y) (LPE_IN s) z.x
  let l := rset (rset l (LPE_RMP s) z.r) (LPE_XOF s) z.d
  let l := fset (fsetB l (LPE_SST_SAT s) z.sat) (LPE_SST_REGION s) z.reg
  let l := fsetB (fsetB l (LPE_SST_FAULT s) z.fault) (LPE_SST_PREPEND s) (z.preset.isSome || z.regReq.isSome)
  modSlot (fset l (LPE_SST_SATCNT s) z.satN) s fun z => { z with pub := slotValues l s }

/-- The live summary LPE_STS (R220). Chain work is shown from an axis's set-point latch to its EDGE out, by which phase B completes. -/
def lpeSummary (l : Lane) : Lane :=
  let us := (allFin 256).filter fun (s : Slot) => slotUsed l s
  let l := fsetB l LPE_STS_CHAIN ((allFin 16).any fun (a : Axis) => (vget l.axes a).chain)
  let l := fsetB l LPE_STS_INJON ((List.range 4).any fun p => fon l (LPE_ISTS_RUN p))
  let st := fget l LPE_CSTS_STATE
  let l := fsetB l LPE_STS_CAPON (st = 1 || st = 2)
  let l := fsetB l LPE_STS_SATNOW (us.any fun s => (slotOf l s).sat)
  fsetB l LPE_STS_SLEWING (us.any fun s => decide ((slotOf l s).d ≠ bfZero))

/-! ## Chains (R194) -/

/-- The stages bound to an axis, by rising first slot. -/
def stagesOf (l : Lane) (a : Axis) : List Slot :=
  (allFin 256).filter fun (s : Slot) => slotUsed l s && fon l (LPE_SCFG_FIRST s) && fon l (LPE_SCFG_BOUND s) && fget l (LPE_SCFG_AXIS s) = a.1

/-- The current-loop slots of an axis (R157): d and q of each winding set used. -/
def loopSlots (l : Lane) (a : Axis) : List (Fin 4 × Slot × Slot) :=
  (setsUsed l a).filterMap fun (w : Fin 4) =>
    match slotAt (fget l (AXS_CL_DSLOT a) + 2 * w.1), slotAt (fget l (AXS_CL_DSLOT a) + 2 * w.1 + 1) with
    | some d, some q => some (w, d, q)
    | _, _ => none

/-- Whether a slot is a current-loop slot of the axis. -/
def isLoopSlot (l : Lane) (a : Axis) (s : Slot) : Bool := (loopSlots l a).any fun x => x.2.1 = s || x.2.2 = s

/-- Whether a stage is due in the axis's present period (R194). -/
def stageDue (l : Lane) (a : Axis) (s : Slot) : Bool :=
  (((vget l.axes a).k : Int) - (fget l (LPE_SCFG_DPH s) : Int)) % ((fget l (LPE_SCFG_DIV s) + 1 : Nat) : Int) = 0

/-- Step 1 of R194: the due stages other than current loops. Inputs are taken at the latch but for another stage's output,
which is taken when the stage runs (R192). -/
def chainStages (l : Lane) (now : Nat) (a : Axis) : Lane :=
  let due := (stagesOf l a).filter fun s => stageDue l a s && !(isLoopSlot l a s)
  let ins := due.map fun s => (s, takeIn l s)
  ins.foldl (fun l p =>
    let s : Slot := p.1
    let i := p.2
    let i := if fget l (LPE_SIN_SPSEL s) = 1 then { i with spv := spValue l s } else i
    let i := if fget l (LPE_SIN_FBSEL s) = 6 then { i with fb := fbValue l s } else i
    stageRun l now s none i) l

/-- A current-loop stage with its posted error (R158, R195). -/
def loopStage (l : Lane) (now : Nat) (s : Slot) (err : Rat) : Lane :=
  let i := takeIn l s
  stageRun l now s (some (bfOfRat err)) i

/-- A clamp reported to a slot (R184): in satprev of its next sample. -/
def reportClamp (l : Lane) (s : Slot) (upper : Bool) : Lane :=
  modSlot l s fun z => if upper then { z with xU := true } else { z with xL := true }

/-- The stage of an axis with DEST 0b01 (R193), by its first slot. -/
def torqueStage (l : Lane) (a : Axis) : Option Slot :=
  (stagesOf l a).find? fun s => fget l (LPE_SIN_DEST (stageLast l s)) = 1

/-- Publication of an axis's chain at 60 % of the period (R193, R218): live registers, and the words of DEST 0b10. -/
def publishChain (l : Lane) (a : Axis) : Lane :=
  (stagesOf l a).foldl (fun l s =>
    let l := (stageSlots l s).foldl (fun l k => publishSlot l k) l
    let e := stageLast l s
    if fget l (LPE_SIN_DEST e) = 2 then mset32 l (fget l (LPE_SADR_ADR e) + 8) (slotOf l e).y else l) l

/-- The seeds of an axis that leaves the banked state (R200). -/
def seedAxis (l : Lane) (a : Axis) : Lane :=
  (stagesOf l a).foldl (fun l s => modSlot l s fun z => { z with seed := true }) l

/-! ## Posted operations (R198, R199) -/

/-- The operation of a tag is carried out: the lane and the result word. `up` is an upset that has arisen in the state words it
reads (R198). -/
def runOp (l : Lane) (now : Nat) (kind : OpKind) (s : Slot) (arg : Word) (inp : StageIn) (up : Ecc) : Lane × Word :=
  match kind with
  | .run | .runc =>
    let l := stageRun (slotUpset l s 0 up) now s (if kind = .run then some arg else none) inp
    let l := (stageSlots l s).foldl (fun l k => publishSlot l k) l
    (l, (slotOf l (stageLast l s)).y)
  | .preset =>
    let (p, b) := sigIn arg
    let l := stkIfLate b l LPE_STK_BFRANGE
    let l := fsetB (modSlot l s fun z => { z with preset := some p }) (LPE_SST_PREPEND s) true
    (l, (wClamp p (rget l (LPE_YLO s)) (rget l (LPE_YHI s))).1)
  | .region =>
    if fget l (LPE_SIN_SCHSEL s) = 7 then
      let r := min (arg.toNat % 8) (fget l (LPE_SIN_NREG s))
      (fsetB (modSlot l s fun z => { z with regReq := some r }) (LPE_SST_PREPEND s) true, wordOf r)
    else (stkLate l LPE_STK_REGIGN, wordOf (slotOf l s).reg)
  | .read =>
    let j : Fin 4 := ⟨arg.toNat % 4, Nat.mod_lt _ (by decide)⟩
    let l := slotUpset l s j up
    match vget (slotOf l s).ecc j with
    | .double => (slotFault l now (stageFirst l s), bfZero)
    | .single =>
      (chkFail (stkLate (modSlot l s fun z => { z with ecc := vset z.ecc j .none }) LPE_STK_ECCREP), readState l s j)
    | .none => (l, readState l s j)

/-- The engine completes the first operation that waits (R198): the tag holds the result, or returns to the pool when its
job has ended, where ADM_TAGSUM may drop a removed task (R71). -/
def engineDo (l : Lane) (now : Nat) (up : Ecc) : Lane :=
  match l.engq with
  | [] => l
  | o :: rest =>
    let l := { l with engq := rest }
    match vget l.tags o.tag with
    | .busy c k kind s arg orphan =>
      let (l, w) := runOp l now kind s arg o.inp up
      let l := tagDrop { l with tags := vset l.tags o.tag (if orphan then .free else .done c k w) } c k
      dispatchAll (lpeSummary l) now
    | _ => l

/-! ## Capture (R212 to R214) -/

/-- The header's address: the data top. -/
def capBase (l : Lane) : Nat := l.decl.dtop

/-- Bytes of a record, and the ring's capacity. -/
def capSize (l : Lane) : Nat := 4 + 4 * (fget l LPE_CCTL_NCH + 1)
def capCapacity (l : Lane) : Nat := (0x01400000 - l.decl.dtop - 64) / capSize l

/-- The latest published value of a channel (R212). -/
def capWord (l : Lane) (j : Nat) : Word :=
  match slotAt (fget l (LPE_CCH_SLOT j)) with
  | none => bfZero
  | some s => (slotOf l s).pub.getD (fget l (LPE_CCH_QTY j)) bfZero

/-- The header of R214. -/
def capHeader (l : Lane) : Lane :=
  let b := capBase l
  let c := l.cap
  let ch (j : Nat) : Nat := (rget l (LPE_CCH j)).toNat % 65536
  let ws : List Word :=
    [rget l LPE_CSTS, wordOf (fget l LPE_CCTL_NCH + 1), wordOf (capSize l), wordOf (capCapacity l), wordOf c.pos, wordOf c.n,
     wordOf c.time, wordOf (c.time / 2 ^ 32), wordOf c.tp, wordOf (fget l LPE_CCTL_CDIV),
     wordOf (ch 0 + 65536 * ch 1), wordOf (ch 2 + 65536 * ch 3), wordOf (ch 4 + 65536 * ch 5), wordOf (ch 6 + 65536 * ch 7),
     0#32, 0#32]
  (ws.foldl (fun (acc : Lane × Nat) w => (mset32 acc.1 (b + 4 * acc.2) w, acc.2 + 1)) (l, 0)).1

/-- A write of one to ARM with EN = 1 (R213). -/
def capArm (l : Lane) : Lane :=
  if fget l LPE_CPRE_N + fget l LPE_CPOST_N + 1 > capCapacity l then stk l LPE_STK_CAPSZ
  else
    let l := { l with cap := { CapRt.zero with hit := decide (fget l LPE_CCTL_TRIG = 0), div := fget l LPE_CCTL_CDIV } }
    lpeSummary (capHeader (fset (fset l LPE_CSTS_STATE 1) LPE_CSTS_WRAP 0))

/-- A write of zero to EN in any state but DONE (R213). -/
def capAbort (l : Lane) : Lane :=
  if fget l LPE_CSTS_STATE = 3 then l else lpeSummary (fset l LPE_CSTS_STATE 0)

/-- Whether the trigger is met at this record (R213). -/
def capTrig (l : Lane) (v : Word) : Bool :=
  let lv := bfVal (rget l LPE_CLVL)
  let rise := match l.cap.prev with | some p => dyLt (bfVal p) lv && !(dyLt (bfVal v) lv) | none => false
  let fall := match l.cap.prev with | some p => dyLt lv (bfVal p) && !(dyLt lv (bfVal v)) | none => false
  match fget l LPE_CCTL_TRIG with
  | 1 => rise
  | 2 => fall
  | 3 => rise || fall
  | _ => l.cap.hit

/-- Capture ends (R213). -/
def capDone (l : Lane) (now : Nat) : Lane :=
  raiseO (lpeSummary (capHeader (stkLate (fset l LPE_CSTS_STATE 3) LPE_STK_CAPDONE))) now 0x6B 0xFF 0 0#32

/-- A record at the publication instant of axis `a` (R212, R213). -/
def capRecord (l : Lane) (now : Nat) (a : Axis) : Lane :=
  let st := fget l LPE_CSTS_STATE
  if !((st = 1 || st = 2) && fget l LPE_CCTL_CAXIS = a.1) then l
  else if l.cap.div < fget l LPE_CCTL_CDIV then { l with cap := { l.cap with div := l.cap.div + 1 } }
  else
    let cp := capCapacity l
    let pos := l.cap.n % cp
    let base := capBase l + 64 + pos * capSize l
    let nch := fget l LPE_CCTL_NCH + 1
    let l := mset32 l base (wordOf l.cap.n)
    let l := (List.range nch).foldl (fun l j => mset32 l (base + 4 + 4 * j) (capWord l j)) l
    let v := capWord l 0
    let trig := st = 1 && capTrig l v
    let n := l.cap.n + 1
    let l := fsetB l LPE_CSTS_WRAP (decide (cp < n))
    let l := { l with cap := { l.cap with n := n, div := 0, prev := some v, hit := false } }
    if trig then
      let post := fget l LPE_CPOST_N
      let l := { l with cap := { l.cap with left := post, pos := pos, time := shipNs l, tp := tpOf l a } }
      let l := fset l LPE_CSTS_STATE 2
      if post = 0 then capDone l now else l
    else if st = 2 then
      let l := { l with cap := { l.cap with left := l.cap.left - 1 } }
      if l.cap.left = 0 then capDone l now else l
    else l

end Sys2Proof.Machine
end

