-- ==== Sys2Proof/Machine/Share.lean ====
section
/-!
DEFINITION. Load sharing, DC-bus energy and emergency modes (chapter 7): weights and rating (R225, R226), emergency states
(R249 to R253), the hedge (R246, R247), disturbance observer, tension and heave (R234 to R237), the energy controller (R238
to R245, R254), shaft groups (R228 to R233) and T* (R222, R223).
-/
namespace Sys2Proof.Machine

/-! ## Weights and the rating factor -/

/-- The coppices of a set that its NACT counts: those in the interleave last formed (R115, R148). -/
def copsAct (l : Lane) (a : Axis) (s : Fin 4) : List (Fin 32) := (copsOf l a s).filter fun (c : Fin 32) => (vget l.cops c).inSet

/-- RF of an axis (R226): a coppice leaves it at the carrier boundary at which NACT changes. -/
def rfOf (l : Lane) (a : Axis) : Rat :=
  let used := setsUsed l a
  let on := used.filter fun (s : Fin 4) => !(copsAct l a s).isEmpty
  let parts := on.map fun (s : Fin 4) =>
    qdiv (rsum ((copsAct l a s).map fun (c : Fin 32) => (vget l.cops c).wt)) (fget l (AXS_WS_NCOP a s) : Rat)
  if on.isEmpty then 0
  else qdiv (on.length : Rat) (used.length : Rat) * parts.foldl rmin (parts.headD 0)

/-- SHR_CW of an axis's coppices (R225). -/
def showWeights (l : Lane) (a : Axis) : Lane :=
  (copsOfAxis l a).foldl (fun (l : Lane) (c : Fin 32) => fset l (SHR_CW_W c) (codeU 12 16 (copWeight l c))) l

/-- The share weights that throttling gives an axis's coppices are taken over at its set-point latch (R225, R226, R379). -/
def takeWeights (l : Lane) (a : Axis) : Lane :=
  (copsOfAxis l a).foldl (fun (l : Lane) (c : Fin 32) => modCop l c fun k => { k with wt := throttleWeight l c }) l

/-- The rating registers of an axis brought up to date (R225, R226). An enabled axis whose RF falls to 0 enters IMSTOP (R384). -/
def updateRating (l : Lane) (a : Axis) : Lane :=
  let l := showWeights l a
  let rf := rfOf l a
  let fell := axEnabled l a && decide (rf = 0) && decide (fget l (AXS_RATE_RF a) ≠ 0)
  let l := fsetB (fset l (AXS_RATE_RF a) (codeU 16 17 rf)) (AXS_STS_LIMP a) (decide (rf < 1))
  if fell then axAsk l a 8 else l

/-! ## Brake output (R252, R253) -/

/-- The program or an axis commands an output: the committed state, and the switch through the field cartridge (R324). -/
def driveOutput (l : Lane) (o : Fin 32) (on : Bool) : Lane :=
  ask (fsetB l (FIO_OSTS_CMD o) on) (.output o (on && fget l (FIO_OSTS_STATE o) ≠ 3))

/-- Whether the brake output is applied in a state (R249, R253). -/
def brakeIn (l : Lane) (a : Axis) (e : Nat) (fromQr : Bool) : Bool :=
  match e with
  | 4 => true
  | 5 => fon l (AXS_BRK_C2BRK a)
  | 6 => true
  | 8 => !(fromQr && fon l (AXS_QR_QRFREE a))
  | 9 => true
  | _ => false

/-- The brake output follows the state: `POL` gives the level that releases the brake (R252). -/
def setBrake (l : Lane) (a : Axis) (applied : Bool) : Lane :=
  let l := fsetB l (AXS_STS_BRAKE a) applied
  if fon l (AXS_BRK_BRKEN a) then
    driveOutput l ⟨fget l (AXS_BRK_DO a) % 32, Nat.mod_lt _ (by decide)⟩ (applied != fon l (AXS_BRK_POL a))
  else l

/-! ## Emergency states (R249, R250) -/

/-- Whether the stop regulator runs in a state (R251). -/
def isStopReg (e : Nat) : Bool := e = 1 || e = 2 || e = 3 || e = 4 || e = 5

/-- Whether the state gives no torque (R222, R249). -/
def isOffState (e : Nat) : Bool := e = 6 || e = 8 || e = 9

/-- The speed of an axis that the chapter's rules read, per unit, and whether it lies in the zero-speed band (R252). -/
def zeroSpeed (l : Lane) (a : Axis) : Bool := decide (rabs (speedPu l a) < q12 l (AXS_SREG_ZSPD a))

/-- The shaft group an axis is an active member of (R222). -/
def activeGroup (l : Lane) (a : Axis) : Option (Fin 8) :=
  (allFin 8).find? fun g => decide (fget l (SHR_GCFG_MODE g) ≠ 0) && bit (fget l (SHR_GCFG_MEMB g)) a

/-- The members of a group. -/
def membersOf (l : Lane) (g : Fin 8) : List Axis := (allFin 16).filter fun a => bit (fget l (SHR_GCFG_MEMB g)) a

/-- The axis that leads a group now (R228, R233). -/
def leadOf (l : Lane) (g : Fin 8) : Axis :=
  (vget l.grps g).lead.getD ⟨fget l (SHR_GCFG_LEAD g) % 16, Nat.mod_lt _ (by decide)⟩

/-- A group's run data changed. -/
def modGrp (l : Lane) (g : Fin 8) (f : GrpRt → GrpRt) : Lane := { l with grps := vmod l.grps g f }

/-- What the state of a member means for its group (R232, R233): with LIMPG a member that lost its torque leaves the share;
a lead that lost its torque hands over to the alternate, or the group enters STOP1; otherwise the state applies to all. -/
def groupState (l : Lane) (a : Axis) (e : Nat) : Lane :=
  match activeGroup l a with
  | none => l
  | some g =>
    let others := (membersOf l g).filter fun b => b ≠ a
    if e = 8 ∨ e = 9 then
      if leadOf l g = a then
        let alt : Axis := ⟨fget l (SHR_GCFG_ALT g) % 16, Nat.mod_lt _ (by decide)⟩
        if fon l (SHR_GCFG_ALTEN g) ∧ alt ≠ a then
          let l := stkLate (modGrp l g fun x => { x with lead := some alt, gone := x.gone ||| 2 ^ a.1 }) SHR_STK_ALTLEAD
          match torqueStage l alt with
          | some s => modSlot l (stageLast l s) fun z => { z with preset := some (bfOfRat (vget l.grps g).tg) }
          | none => l
        else
          -- its regulator forms the demand of the group's stop, and its own share goes to the others (R232, R233)
          let l := modGrp l g fun x => { x with gone := x.gone ||| 2 ^ a.1 }
          let l := modAx l a fun x => { x with ws := speedPu l a }
          others.foldl (fun l b => axAsk l b 3) l
      else if fon l (SHR_GCFG_LIMPG g) then modGrp l g fun x => { x with gone := x.gone ||| 2 ^ a.1 }
      else others.foldl (fun l b => axAsk l b e) l
    else if 0 < esRank e then
      others.foldl (fun (l : Lane) (b : Axis) => if esRank (fget l (AXS_STS_ESTATE b)) < esRank e then axAsk l b e else l) l
    else if e = 0 then modGrp l g fun x => { x with gone := x.gone &&& (0xFFFF - 2 ^ a.1) }
    else l

/-- An axis takes a new emergency state (R249 to R253): its source is raised, the regulator is seeded, pulses, brake and
group follow. -/
def enterState (l : Lane) (now : Nat) (a : Axis) (e : Nat) : Lane :=
  let old := fget l (AXS_STS_ESTATE a)
  if old = e then l
  else
    let w := speedPu l a
    let p := turnsOf l a
    let l := fset l (AXS_STS_ESTATE a) e
    let l := stopsLeft (raiseO l now (0x90 + a.1) e 0 0#32) a e
    let l := if e = 7 then raiseO l now 0x45 a.1 0 0#32 else l
    let fromQr := decide (old = 7) && decide (e = 8)
    let asc := decide (e = 8) && decide (wasc l a < rabs (obsOf l a).w) && axEnabled l a
    let l := modAx l a fun x => { x with
      fromQr := fromQr
      ws := if isStopReg e && !(isStopReg old) then w else x.ws
      pHold := if e = 4 ∨ e = 5 then p else x.pHold
      brkT := if e = 4 then some now else none
      relTq := none
      obs := if isOffState e then
               -- its own stop replaces a hold at once (R171)
               let held := x.obs.hold.isSome
               { x.obs with
                 pulses := false, asc := asc, wasc := if asc then wasc l a else x.obs.wasc, runDue := false, lost := none, hold := none
                 ramp := none
                 nmode := if !held then x.obs.nmode else some (if asc then moAsc else moAcquire)
                 acq := if held then 1 else x.obs.acq, acqT := if held then now else x.obs.acqT
                 aftLoss := x.obs.aftLoss || held }
             else if isOffState old then { x.obs with runDue := x.obs.runDue || !x.obs.pulses } else x.obs }
    let l := if isOffState e || isOffState old || brakeIn l a e fromQr != fon l (AXS_STS_BRAKE a) then
      setBrake l a (brakeIn l a e fromQr) else l
    groupState l a e

/-- The state asked for takes effect at the set-point latch (R249); with none asked, the progressions of R249. -/
def stateLatch (l : Lane) (now : Nat) (a : Axis) : Lane :=
  let e := fget l (AXS_STS_ESTATE a)
  let zero := fon l (AXS_STS_ZERO a)
  match (vget l.axes a).ask with
  | none => if e = 2 ∧ zero then enterState l now a 5 else if e = 3 ∧ zero then enterState l now a 4 else l
  | some t => enterState (modAx l a fun x => { x with ask := none }) now a t

/-- Whether some pin that guards the axis stands at shut-down (R384). -/
def pinShut (l : Lane) (a : Axis) : Bool :=
  (List.range 16).any fun p => fon l (THM_PIN_OWNED p) && fget l (THM_PIN_AXIS p) = a.1 && fget l (THM_T_LEVEL (128 + p)) = 3 &&
    !(fon l (THM_T_STALE (128 + p)))

/-- Whether the causes of an IMSTOP have cleared: no S6, a rating above zero, no critical pin at shut-down, and no hedge limit with a
response of S3 or above still exceeded (R249, DEDUCED). Bits of `hPrev`: OC, OV, UV, TQ, SP, POS, SLIP. -/
def causeCleared (l : Lane) (a : Axis) : Bool :=
  let h := (vget l.axes a).hPrev
  let r := [fget l (AXS_HRSP_OC a), fget l (AXS_HRSP_OV a), fget l (AXS_HRSP_UV a), fget l (AXS_HRSP_TQ a),
            fget l (AXS_HRSP_SP a), fget l (AXS_HRSP_POS a), fget l (AXS_HRSP_SLIP a)]
  !(l.safe) && decide (0 < rfOf l a) && !(pinShut l a) && (List.range 7).all fun j => !(bit h j) || decide (r.getD j 0 < 3)

/-- Whether the link cartridges of every brick of an axis insert /P/ on its ports that are up (R249, R268, R269). -/
def permitsOn (l : Lane) (a : Axis) : Bool :=
  (bricksOf l a).all fun (b : Brick) =>
    let g := if b.1 < 16 then 0 else 2
    let pu := fon l (BLK_BST_PRIUP b)
    let su := fon l (BLK_BST_SECUP b)
    let send := fget l BLK_PERM_SEND
    (pu || su) && (!pu || bit send g) && (!su || bit send (g + 1))

/-- A committed MODE command (R249, R250, R256): taken at the next set-point latch, ignored with CMDIGN where the table does
not allow it, superseded where the state in force ranks as high. -/
def modeCommand (l : Lane) (a : Axis) (m : Nat) : Lane :=
  let e := fget l (AXS_STS_ESTATE a)
  let t := match m with | 0 => 0 | 1 => 1 | 2 => 2 | 3 => 3 | 4 => 5 | _ => 8
  let want (l : Lane) : Lane :=
    match (vget l.axes a).ask with
    | some q => if esRank t < esRank q then l else modAx l a fun x => { x with ask := some t }
    | none => modAx l a fun x => { x with ask := some t }
  let ign := stk l (AXS_STK_CMDIGN a)
  if t = e then l
  else if !(axPeriods l a) || (t = 0 && fget l (AXS_EN_BST a) = 3) then ign
  else if t = 0 then
    match e with
    | 1 | 5 => want l
    | 6 => if causeCleared l a then want l else ign
    | 7 => if fon l (AXS_STS_QRIN a) then ign else want l
    | 8 => if causeCleared l a && zeroSpeed l a then want l else ign
    | 9 => if permitsOn l a && !(l.safe) then want l else ign
    | _ => ign
  else if t = 1 then (if e = 0 ∨ e = 5 then want l else ign)
  else if t = 5 ∧ (e = 0 ∨ e = 1) then want l
  else axAsk l a t

/-! ## The hedge (R246, R247) -/

/-- One limit of the hedge: it triggers when its condition arises, raising its source with the response of AXS_HRSPn. -/
def hedgeOne (l : Lane) (now : Nat) (a : Axis) (j : Nat) (cond : Bool) (f : Field) (v : Word) : Lane :=
  let h := (vget l.axes a).hPrev
  let l' := modAx l a fun x => { x with hPrev := setBits h j 1 (b2n cond) }
  if cond && !(bit h j) then raiseO (stkLate l' f) now (0x20 + j) a.1 0 v else l'

/-- A rational saturated into a context word. -/
def ctxInt (v : Rat) : Word := BitVec.ofInt 32 (satInt (-2147483648) 2147483647 (rround v))

/-- The checks at the sample cut-off: measured and derived leg currents, those of hosted chopper legs with them, and the DC
link. -/
def hedgeCut (l : Lane) (now : Nat) (a : Axis) : Lane :=
  let cs := copsOfAxis l a
  let run := cs.filter fun (c : Fin 32) => fget l (LEG_CSTS_STATE c) = 1
  let legs := run.foldl (fun (acc : List (Fin 128)) (c : Fin 32) => acc ++ legsOf l c) []
  let seen := legs.filter fun (n : Fin 128) => decide (fget l (LEG_RUN_SRC n) < 2)
  let chop := (allFin 128).filter fun (n : Fin 128) => fget l (LEG_CFG_TYPE n) = 2 && fget l (LEG_CFG_HOST n) = a.1
  let is := seen.map (fun (n : Fin 128) => (vget l.legs n).cur) ++
    chop.filterMap fun (n : Fin 128) => (vget l.legs n).smp.map fun (v : Int) => (v : Rat)
  let imax := (is.map rabs).foldl rmax 0
  let vs := cs.map fun (c : Fin 32) => (copVdc l c).1
  let vmax := vs.foldl rmax (vs.headD 0)
  let vmin := vs.foldl rmin (vs.headD 0)
  let (vt, vu) : Rat × Rat := match busOfAxis l a with
    | some b => (q12 l (SHR_BT4_VTRIP b) * (fget l (SHR_BVR_VDCR b) : Rat), q12 l (SHR_BT4_VUV b) * (fget l (SHR_BVR_VDCR b) : Rat))
    | none => (0, 0)
  let l := hedgeOne l now a 0 (decide ((fget l (AXS_HIC_IHL a) : Rat) < imax)) (AXS_STK_HOC a) (ctxInt imax)
  let l := hedgeOne l now a 1 (!vs.isEmpty && decide (vt < vmax)) (AXS_STK_HOV a) (ctxInt vmax)
  hedgeOne l now a 2 (!vs.isEmpty && decide (vmin < vu) && axPeriods l a) (AXS_STK_HUV a) (ctxInt vmin)

/-- The checks at the set-point latch: torque, speed, position, slip. -/
def hedgeLatch (l : Lane) (now : Nat) (a : Axis) : Lane :=
  let x := vget l.axes a
  let te := torqueOf l a
  let sp := speedRpm l a
  let p := turnsOf l a
  let nT := if q12 l (AXS_HTQ_TTRIP a) < rabs te then x.nTq + 1 else 0
  let nS := if q12 l (AXS_HSL_SLIPT a) < rabs x.tdh then x.nSlip + 1 else 0
  let l := modAx l a fun x => { x with nTq := nT, nSlip := nS }
  let l := hedgeOne l now a 3 (decide (4 ≤ nT)) (AXS_STK_HTQ a) (ctxInt (te * 65536))
  let l := hedgeOne l now a 4 (decide (q16 l (AXS_HSP_SPMAX a) < rabs sp)) (AXS_STK_HSP a) (ctxInt (sp * 65536))
  let l := hedgeOne l now a 5 (fon l (AXS_HRSP_ENPOS a) && (decide (p < q16 l (AXS_HPL_PLO a)) || decide (q16 l (AXS_HPH_PHI a) < p)))
    (AXS_STK_HPOS a) (ctxInt (p * 65536))
  hedgeOne l now a 6 (fon l (AXS_HRSP_ENSLIP a) && decide (fget l (AXS_HSL_NSLIP a) ≤ nS) && decide (0 < nS))
    (AXS_STK_HSLIP a) (ctxInt (x.tdh * 65536))

/-! ## Disturbance observer (R234, R231) -/

/-- Rated power of an axis in kW. -/
def powerOf (l : Lane) (a : Axis) : Rat := (fget l (SHR_APR_P a) : Rat)

/-- One period of the disturbance observer; the lead of an active group runs it for the group (R231). -/
def disturb (l : Lane) (a : Axis) : Lane :=
  let x := vget l.axes a
  let fd := fget l (AXS_DOB_FD a)
  let grp := activeGroup l a
  let mine := match grp with | some g => decide (leadOf l g = a) | none => true
  if fd = 0 || !mine then l
  else
    let tp := secs (tpOf l a : Rat)
    let (tm, te) : Rat × Rat := match grp with
      | some g =>
        let ms := membersOf l g
        (mkRat (fget l (SHR_GTM_TMG g) : Int) 1000,
         qdiv (rsum (ms.map fun (b : Axis) => powerOf l b * torqueOf l b)) (rsum (ms.map fun (b : Axis) => powerOf l b)))
      | none => (mkRat (fget l (AXS_DOB_TM a) : Int) 1000, torqueOf l a)
    let k := qdiv tp tm
    let z := Config.expR (-(2 * Config.pi * (fd : Rat) * tp))
    let wp := x.wh + k * (te - x.tdh)
    let e := speedPu l a - wp
    modAx l a fun x => { x with wh := wp + (1 - z * z) * e, tdh := x.tdh - qdiv ((1 - z) * (1 - z)) k * e }

/-! ## Tension feedback (R236) -/

/-- The tension feedback of an axis, brought up to date at the set-point latch. -/
def tension (l : Lane) (a : Axis) : Lane :=
  let x := vget l.axes a
  let cord := fon l (AXS_TENC_CSRC a) && fon l CRD_STS_PRES && decide (fget l CRD_VAL_AGE ≤ fget l (AXS_TENC_MAXAGE a))
  let vc := qdiv (fgetI l (CRD_TEN_TEN (fget l (AXS_TENC_CORD a))) : Rat) (fget l (AXS_TENR_TENR a) : Rat)
  let vt := q12 l (AXS_TENC_GTEN a) * x.tdh
  let src := if cord then vc else vt
  let change := cord != x.tenCrd
  let off := if change then x.tenOff * mkRat (x.tenN : Int) 16 + (if cord then vt - vc else vc - vt) else x.tenOff
  let n := if change then 16 else x.tenN - 1
  let v := src + off * mkRat (n : Int) 16
  let l := stkIfLate change l (AXS_STK_TENSRC a)
  modAx l a fun x => { x with ten := v, tenCrd := cord, tenOff := if n = 0 then 0 else off, tenN := n }

/-! ## Heave (R237) -/

/-- A committed heave entry replaces what entry `j` held when its ship time exceeds that of every entry held. -/
def heaveEntry (l : Lane) (a : Axis) (j : Nat) : Lane :=
  let t := (rget l (SHR_HVE_TLO a j)).toNat + 2 ^ 32 * (rget l (SHR_HVE_THI a j)).toNat
  if (vget l.axes a).hv.toList.any fun e => (match e with | some x => decide (t ≤ x.1) | none => false) then l
  else
    let e := (t, (rget l (SHR_HVE_POS a j)).toInt, (rget l (SHR_HVE_SPD a j)).toInt)
    modAx l a fun x => { x with hv := vset x.hv ⟨j % 8, Nat.mod_lt _ (by decide)⟩ (some e), hvOld := false }

/-- Stale heave: the position held, speed zero, the flag and the source once (R237). -/
def heaveStale (l : Lane) (now : Nat) (a : Axis) : Lane :=
  if (vget l.axes a).hvOld then l
  else
    let l := modAx l a fun x => { x with hvOld := true }
    let l := mset32 l (fget l (SHR_HVA_HADR a) + 4) bfZero
    raiseO (stkLate l (AXS_STK_HVSTALE a)) now 0x2E a.1 0 0#32

/-- The heave reference for the middle of the next period, written to data SRAM. -/
def heave (l : Lane) (now : Nat) (a : Axis) : Lane :=
  if !(fon l (SHR_HVC_HEN a)) then l
  else
    let x := vget l.axes a
    let tp := tpOf l a
    -- ship time at the middle of period k + 1
    let t : Rat := (shipNs l : Rat) + ((x.t0 + tp + tp / 2 : Nat) - (now : Nat) : Rat) * mkRat 5 16
    let nr := q16 l (AXS_RATN_NR a)
    let put (l : Lane) (p s : Rat) : Lane :=
      mset32 (mset32 l (fget l (SHR_HVA_HADR a)) (bfOfRat p)) (fget l (SHR_HVA_HADR a) + 4) (bfOfRat (qdiv s nr))
    let val (e : Nat × Int × Int) : Rat × Rat × Rat := ((e.1 : Rat), mkRat e.2.1 65536, mkRat e.2.2 65536)
    let es := x.hv.toList.filterMap fun e => e.map val
    -- the newest entry at or before t and the oldest at or after it bracket it
    let before := es.foldl (fun (m : Option (Rat × Rat × Rat)) e => if t < e.1 then m else match m with
      | some y => if y.1 < e.1 then some e else m
      | none => some e) none
    let after := es.foldl (fun (m : Option (Rat × Rat × Rat)) e => if e.1 < t then m else match m with
      | some y => if e.1 < y.1 then some e else m
      | none => some e) none
    match after, before with
    | none, none => l
    | none, some last =>
      let dt := t - last.1
      if dt ≤ (fget l (SHR_HVC_HXMAX a) : Rat) * 1000000 then
        put l (last.2.1 + last.2.2 / 60 * (dt / 1000000000)) last.2.2
      else heaveStale l now a
    | some _, none => l
    | some e1, some e0 =>
      let f := qdiv (t - e0.1) (e1.1 - e0.1)
      put l (e0.2.1 + (e1.2.1 - e0.2.1) * f) (e0.2.2 + (e1.2.2 - e0.2.2) * f)

/-! ## Buses and the energy controller (R238 to R245, R254) -/

/-- The bricks of a bus (R238). -/
def busBricks (l : Lane) (b : Fin 8) : List Brick := (allFin 32).filter fun (k : Brick) => bit (fget l (SHR_BMSK_BMSK b)) k

/-- Whether a bus is in use: one of its bricks carries a used leg. -/
def busInUse (l : Lane) (b : Fin 8) : Bool := (busBricks l b).any fun (k : Brick) => (timingAxis l k).isSome

/-- The axes of a bus. -/
def busAxes (l : Lane) (b : Fin 8) : List Axis := (allFin 16).filter fun a => busOfAxis l a = some b

/-- The chopper legs of a bus (R113). -/
def chopLegs (l : Lane) (b : Fin 8) : List (Fin 128) :=
  (allFin 128).filter fun (n : Fin 128) => fget l (LEG_CFG_TYPE n) = 2 && fget l (LEG_CFG_BUS n) = b.1

/-- A bus's run data changed. -/
def modBus (l : Lane) (b : Fin 8) (f : BusRt → BusRt) : Lane := { l with buses := vmod l.buses b f }

/-- The bus voltage in mV (R238): the mean of its bricks' values, present ones standing for missing ones. -/
def busVolt (l : Lane) (b : Fin 8) : Rat :=
  let vs := (busBricks l b).filterMap fun (k : Brick) => (vget l.rx k).vdc
  if vs.isEmpty then (vget l.buses b).v else rmean (vs.map fun (v : Int) => (v : Rat))

/-- Whether a value of a bus's bricks is missing (R127, R238). -/
def busMiss (l : Lane) (b : Fin 8) : Bool := (busBricks l b).any fun (k : Brick) => (vget l.rx k).vdc.isNone

/-- A chopper leg becomes faulty (R241). -/
def chopFault (l : Lane) (now : Nat) (n : Fin 128) : Lane :=
  if (vget l.legs n).chFlt then l
  else
    let l := modLeg l n fun g => { g with chFlt := true, duty := 0, edge := none }
    raiseO (stkLate l SHR_STK_CHFLT) now 0x44 (fget l (LEG_CFG_BUS n)) 0 (wordOf n.1)

/-- The fault checks of a bus's chopper legs (R241). -/
def chopCheck (l : Lane) (now : Nat) (b : Fin 8) (v : Rat) : Lane :=
  let x := vget l.buses b
  let imin : Rat := (fget l (SHR_BHOST_CHIMIN b) : Rat) * 1000
  let fell := decide (v < x.vPrev)
  let l := (chopLegs l b).foldl (fun (l : Lane) (n : Fin 128) =>
    let g := vget l.legs n
    if g.chFlt then l
    else if bit (fget l (BLK_BST_DESAT (n.1 / 4))) (n.1 % 4) then chopFault l now n
    else if fon l (LEG_CFG_SHUNT n) then
      match g.smp with
      | none => l
      | some i =>
        let k := if mkRat 1 4 ≤ g.duty ∧ rabs (i : Rat) < imin then g.chN + 1 else 0
        let l := modLeg l n fun g => { g with chN := k }
        if fget l (SHR_BHOST_NCH b) ≤ k ∧ 0 < k then chopFault l now n else l
    else
      let k := if g.duty = 1 ∧ ¬ fell then g.chN + 1 else 0
      let l := modLeg l n fun g => { g with chN := k }
      if 16 ≤ k then chopFault l now n else l) l
  modBus l b fun x => { x with vPrev := v }

/-- The power of an axis in kW: motoring positive (R242). -/
def axisPower (l : Lane) (a : Axis) : Rat := torqueOf l a * speedPub l a * powerOf l a

/-- A share of `a` by weight among `as` (R242, R243). -/
def weightShare (l : Lane) (as : List Axis) (a : Axis) : Rat :=
  qdiv (fget l (SHR_AWT_W a) : Rat) (rsum (as.map fun (b : Axis) => (fget l (SHR_AWT_W b) : Rat)))

/-- Flux braking of an axis ends when its budget is exhausted (R245). -/
def fluxEnd (l : Lane) (a : Axis) : Lane :=
  fsetB (stkLate (modAx l a fun x => { x with fbOn := false, fbFull := true, pfb := 0 }) SHR_STK_FBLIM) (AXS_STS_FLUXB a) false

/-- Flux braking on one axis for a period (R245): `on` is what the ladder asks. -/
def fluxAxis (l : Lane) (a : Axis) (on : Bool) (tp : Rat) : Lane :=
  let x := vget l.axes a
  let idfb := q12 l (AXS_FB_IDFB a)
  let lim : Rat := (fget l (AXS_FB_FBLIM a) : Rat)
  -- after FBLIM was reached it restarts when the accumulator falls below half of it
  let full := x.fbFull && !(decide (x.fbAcc < lim / 2))
  let ok := on && !full
  let acc := if ok then x.fbAcc + idfb * idfb * tp else rmax 0 (x.fbAcc - lim / 600 * tp)
  let nws := ((setsUsed l a).filter fun (s : Fin 4) => decide (1 ≤ fget l (AXS_WS_NACT a s))).length
  let pfb := if ok then (nws : Rat) * q16 l (AXS_RS_RS a) * idfb * idfb * mkRat 3 2 * ((fget l (AXS_RATV_VR a) : Rat) / 1000)
      * ((fget l (AXS_RATI_IR a) : Rat) / 1000) / 1000 else 0
  let l := stkIfLate (ok && !x.fbOn) l SHR_STK_FLUXB
  let l := modAx l a fun x => { x with fbOn := ok, fbAcc := acc, fbFull := full, pfb := pfb }
  let l := fsetB l (AXS_STS_FLUXB a) ok
  if ok ∧ lim ≤ acc then fluxEnd l a else l

/-- Ride-through of the bus's axes (R254): entry below VRT in RUN or PROFILE, the end after four runs above VRTX. -/
def rideRun (l : Lane) (now : Nat) (b : Fin 8) (v : Rat) : Lane :=
  let up := decide (q12 l (SHR_BT5_VRTX b) < v)
  let n := if up then satNat 4 ((vget l.buses b).nUp + 1) else 0
  let l := modBus l b fun x => { x with nUp := n }
  (busAxes l b).foldl (fun (l : Lane) (a : Axis) =>
    let e := fget l (AXS_STS_ESTATE a)
    let on := fon l (AXS_STS_RIDE a)
    if !on ∧ v < q12 l (SHR_BT5_VRT b) ∧ (e = 0 ∨ e = 1) ∧ axPeriods l a then
      modAx (fsetB l (AXS_STS_RIDE a) true) a fun x => { x with rideT := some now, rideE := none }
    else if on ∧ 4 ≤ n then
      modAx (fsetB l (AXS_STS_RIDE a) false) a fun x => { x with rideT := none, rideE := some now }
    else l) l

/-- The limits of the bus's axes (R242, R243), and whether the second term governs TRG of some axis (R244). -/
def busLimits (l : Lane) (b : Fin 8) (v : Rat) (chf : Bool) : Lane × Bool :=
  let va := if chf then q12 l (SHR_BT1_VCHON b) else q12 l (SHR_BT2_VREG0 b)
  let vb := if chf then q12 l (SHR_BT2_VREG0 b) else q12 l (SHR_BT3_VREG1 b)
  let g := rclamp 0 1 (qdiv (vb - v) (vb - va))
  let as := (busAxes l b).filter fun (a : Axis) => axPeriods l a
  let mot := as.filter fun (a : Axis) => decide (0 < axisPower l a)
  let reg := as.filter fun (a : Axis) => decide (axisPower l a < 0)
  let pabs := rsum (mot.map fun (a : Axis) => axisPower l a) + rsum (as.map fun (a : Axis) => (vget l.axes a).pfb)
  let preg := rsum (reg.map fun (a : Axis) => -(axisPower l a))
  let dis := fget l (SHR_PLW_DISEL b)
  let low := decide (dis < 64) && l.di.getLsbD dis
  let pav := fget l (SHR_PLIM_PAV b)
  let noLim := !low && decide (pav = 0xFFFFFF)
  let pl : Rat := if low then (fget l (SHR_PLW_PLOW b) : Rat) else (pav : Rat)
  as.foldl (fun (acc : Lane × Bool) (a : Axis) =>
    let l := acc.1
    let tmax := q12 l (AXS_HTQ_TMAX a)
    let wr := rmax (rabs (speedPub l a)) (mkRat 1 20)
    let sec := qdiv (weightShare l reg a * pabs) (wr * powerOf l a)
    let trg := rmin tmax (tmax * g + sec)
    let tmo := if noLim || !(mot.contains a) then none
      else some (rmin tmax (qdiv (weightShare l mot a * (pl + preg)) (wr * powerOf l a)))
    (modAx l a fun x => { x with trg := some trg, tmo := tmo },
     acc.2 || (decide (trg < tmax) && decide (tmax * g < trg))) ) (l, false)

/-- The run of the energy controller of bus `b` in phase B (R239 to R241): its chopper legs take their edges for the coming
period. -/
def energyRun (l : Lane) (now : Nat) (b : Fin 8) : Lane :=
  let host : Axis := ⟨fget l (SHR_BHOST_HOST b) % 16, Nat.mod_lt _ (by decide)⟩
  let vmv := busVolt l b
  let v := qdiv vmv (fget l (SHR_BVR_VDCR b) : Rat)
  let l := stkIfLate (busMiss l b) (modBus l b fun x => { x with v := vmv }) LEG_STK_DCMISS
  let l := chopCheck l now b v
  -- chopper (R240)
  let was := (vget l.buses b).firing
  let off := q12 l (SHR_BT1_VCHOFF b)
  let fire := if was then !(decide (v < off)) else decide (q12 l (SHR_BT1_VCHON b) ≤ v)
  let d := if fire then rclamp 0 1 (qdiv (v - off) (q12 l (SHR_BT2_VCHFULL b) - off)) else 0
  let legs := chopLegs l b
  let chf := legs.isEmpty || legs.any fun (n : Fin 128) => (vget l.legs n).chFlt
  let l := modBus l b fun x => { x with firing := fire, chf := chf, duty := d }
  let tp := tpOf l host
  let t1 := (vget l.axes host).t0 + tp
  legs.foldl (fun (l : Lane) (n : Fin 128) =>
    if (vget l.legs n).chFlt then legOff l n
    else
      let l := modLeg l n fun g => { g with duty := d, gates := true }
      legEdge l n t1 (edgeOf d 0 0 tp (!(vget l.axes host).pper) (64 * fget l (AXS_PRL_MINP host))) false) l

/-- The end of that run (R239, R224): limits, ladder (R244), flux braking (R245), ride-through (R254) and the published results, which
every axis reads from its next set-point latch on. -/
def energyEnd (l : Lane) (now : Nat) (b : Fin 8) : Lane :=
  let host : Axis := ⟨fget l (SHR_BHOST_HOST b) % 16, Nat.mod_lt _ (by decide)⟩
  let x := vget l.buses b
  let v := qdiv x.v (fget l (SHR_BVR_VDCR b) : Rat)
  let chf := x.chf
  let (l, second) := busLimits l b v chf
  let old := fget l (SHR_BLS_LADDER b)
  let vf := q12 l (SHR_BT3_VFLX b)
  let flx := chf && (decide (vf ≤ v) || ((vget l.buses b).flx && decide (vf - mkRat 1 100 ≤ v)))
  let l := modBus l b fun x => { x with flx := flx }
  let tps := secs (tpOf l host : Rat)
  let l := (busAxes l b).foldl (fun (l : Lane) (a : Axis) =>
    fluxAxis l a (flx && axPeriods l a && (decide (axisPower l a < 0) || decide (fget l (AXS_STS_ESTATE a) = 7))) tps) l
  let lad := if !chf then 0 else if flx then 3 else if second then 2 else 1
  let l := if old = 0 ∧ lad ≠ 0 then stkLate l SHR_STK_LADDER else l
  let l := rideRun l now b v
  -- publication
  let l := fset l (SHR_BLIV_VBUS b) (codeU 0 32 x.v)
  let l := fsetB (fset (fsetB l (SHR_BLS_CHF b) chf) (SHR_BLS_LADDER b) lad) (SHR_BLS_FIRING b) x.firing
  let l := fset l (SHR_BLS_DUTY b) (codeU 0 16 (x.duty * 65535))
  let l := fsetB l SHR_STS_ANYCHF ((List.range 8).any fun k => fon l (SHR_BLS_CHF k))
  fsetB l SHR_STS_ANYFLX ((List.range 16).any fun k => fon l (AXS_STS_FLUXB k))

/-- The buses in use that an axis hosts. -/
def hostedBuses (l : Lane) (a : Axis) : List (Fin 8) :=
  (allFin 8).filter fun (b : Fin 8) => fget l (SHR_BHOST_HOST b) = a.1 && busInUse l b

/-- The runs of the buses an axis hosts, in its phase B, and their ends (R239). -/
def energyHost (l : Lane) (now : Nat) (a : Axis) : Lane := (hostedBuses l a).foldl (fun (l : Lane) (b : Fin 8) => energyRun l now b) l
def energyHostEnd (l : Lane) (now : Nat) (a : Axis) : Lane := (hostedBuses l a).foldl (fun (l : Lane) (b : Fin 8) => energyEnd l now b) l

/-- CHCLR returns the faulty chopper legs of the buses named to service (R241). -/
def chopClear (l : Lane) (mask : Nat) : Lane :=
  (allFin 8).foldl (fun (l : Lane) (b : Fin 8) =>
    if bit mask b then
      (chopLegs l b).foldl (fun (l : Lane) (n : Fin 128) => modLeg l n fun g => { g with chFlt := false, chN := 0 }) l
    else l) l

/-! ## Torque limits (R223) -/

/-- What bounds a torque: the bound and which term gives it: 0 hedge, 1 regenerative, 2 power, 3 ride-through. -/
structure TqLim where
  v    : Rat
  term : Nat

/-- The smaller of a bound and an optional further term. -/
def tqMin (x : TqLim) (t : Option Rat) (k : Nat) : TqLim :=
  match t with | some v => if v < x.v then { v := v, term := k } else x | none => x

/-- The motoring limit of ride-through (R254): zero while it lasts with RTMODE = 0, then a linear return over RTRAMP. -/
def rideLimit (l : Lane) (now : Nat) (a : Axis) : Option Rat :=
  let x := vget l.axes a
  if fon l (AXS_STS_RIDE a) then (if fon l (AXS_RT_RTMODE a) then none else some 0)
  else
    match x.rideE with
    | none => none
    | some t0 =>
      let len : Rat := (fget l (AXS_RT_RTRAMP a) : Rat) * 3200000
      let f := qdiv ((now - t0 : Nat) : Rat) len
      if len = 0 ∨ 1 ≤ f then none else some (q12 l (AXS_HTQ_TMAX a) * f)

/-- Tpos and Tneg of an axis at the speed `w` (R223). -/
def torqueLimits (l : Lane) (now : Nat) (a : Axis) (w : Rat) : TqLim × TqLim :=
  let x := vget l.axes a
  let rf := match activeGroup l a with
    | some g => if bit (vget l.grps g).gone a then 0 else rfOf l a
    | none => rfOf l a
  let base : TqLim := { v := q12 l (AXS_HTQ_TMAX a) * rf, term := 0 }
  if rabs w < q12 l (AXS_SREG_ZSPD a) then (base, base)
  else
    let mot := tqMin (tqMin base x.tmo 2) (rideLimit l now a) 3
    let reg := tqMin base x.trg 1
    if 0 < w then (mot, reg) else (reg, mot)

/-! ## Sources of torque (R251, R253) and T* (R222) -/

/-- The stop regulator (R251). -/
def stopReg (l : Lane) (a : Axis) (e : Nat) : Lane × Rat :=
  let x := vget l.axes a
  let w := speedPu l a
  let tp := secs (tpOf l a : Rat)
  let step := mkRat (fget l (AXS_DEC_DECR a) : Int) 1024 * tp
  let target := if e = 1 then qdiv (q16 l (AXS_PSP_PSP a)) (q16 l (AXS_RATN_NR a)) else 0
  let ws := x.ws + rclamp (-step) step (target - x.ws)
  let db := q12 l (AXS_DEC_DBAND a)
  let held := decide (rabs ws < rabs w - db) && decide (rsign ws = rsign w)
  let ws := if held then w - rsign w * db else ws
  let l := stkIfLate held l (AXS_STK_RAMPHELD a)
  let pos := if e = 4 ∨ e = 5 then q8 l (AXS_SRG2_KPOS a) * (x.pHold - turnsOf l a) else 0
  (modAx l a fun x => { x with ws := ws }, q8 l (AXS_SREG_KSTOP a) * (ws - w) + pos)

/-- The torque of BRAKING (R252): the regulator until the brake has engaged, then a ramp to zero over TREL. -/
def brakeTorque (l : Lane) (now : Nat) (a : Axis) (reg : Rat) : Rat :=
  let x := vget l.axes a
  match x.brkT, x.relTq with
  | some t0, some q =>
    let t1 := t0 + fget l (AXS_BRK_TBRK a) * 3200000
    let len : Rat := (fget l (AXS_BRK_TREL a) : Rat) * 3200000
    q * rclamp 0 1 (1 - qdiv ((now - t1 : Nat) : Rat) len)
  | some _, none => reg
  | none, _ => 0

/-- The quick-release law (R253). -/
def quickRelease (l : Lane) (a : Axis) : Rat :=
  let pd : Rat := if fon l (AXS_QR_PAYDIR a) then -1 else 1
  let wp := pd * speedPu l a
  (-pd) * rmin (q12 l (AXS_HTQ_TMAX a)) (q12 l (AXS_QR2_QTQ a) + q8 l (AXS_QR2_KQSP a) * rmax 0 (wp - q12 l (AXS_QR_QSPD a)))

/-- The shares of a group's members in modes equal and weighted (R229): the demand by W × RF × P, clamped at each member's
limits, the clipped power placed once among the unclamped. Answers the shares, the limit that cuts each, and whether power could not
be placed. The lead reads the other members' speeds as published (R224). -/
def groupShares (l : Lane) (now : Nat) (g : Fin 8) (lead : Axis) (tg : Rat) : List Rat × List (Option Nat) × Bool :=
  let ms := allFin 16
  let inn (a : Axis) : Bool := bit (fget l (SHR_GCFG_MEMB g)) a
  let wt (a : Axis) : Rat :=
    if !(inn a) || bit (vget l.grps g).gone a then 0
    else (if fget l (SHR_GCFG_MODE g) = 1 then 1 else q12 l (SHR_AWT_W a)) * rfOf l a
  let pt := rsum ((membersOf l g).map fun (a : Axis) => powerOf l a)
  let den := rsum ((membersOf l g).map fun (a : Axis) => wt a * powerOf l a)
  let raw (a : Axis) : Rat := if inn a then qdiv (tg * pt * wt a) den else 0
  let lims := ms.map fun (a : Axis) => torqueLimits l now a (if a = lead then speedPu l a else speedPub l a)
  let limOf (a : Axis) : TqLim × TqLim := lims.getD a.1 ({ v := 0, term := 0 }, { v := 0, term := 0 })
  let lim (a : Axis) (t : Rat) : Rat := rclamp (-(limOf a).2.v) (limOf a).1.v t
  let cl (a : Axis) : Bool := inn a && decide (lim a (raw a) ≠ raw a)
  let lost := rsum ((membersOf l g).map fun (a : Axis) => (raw a - lim a (raw a)) * powerOf l a)
  let den2 := rsum ((membersOf l g).map fun (a : Axis) => if cl a then 0 else wt a * powerOf l a)
  let want (a : Axis) : Rat := if cl a then raw a else if inn a then raw a + qdiv (lost * wt a) den2 else 0
  let fin (a : Axis) : Rat := if inn a then lim a (want a) else 0
  let cut (a : Axis) : Option Nat :=
    if !(inn a) then none else if (limOf a).1.v < want a then some (limOf a).1.term
    else if want a < -(limOf a).2.v then some (limOf a).2.term else none
  let left := lost - rsum ((membersOf l g).map fun (a : Axis) => (fin a - lim a (raw a)) * powerOf l a)
  (ms.map fin, ms.map cut, decide (left ≠ 0))

/-- Whether the disturbance term is added to the source (R222, R252, R253): not by the quick-release law, and not once the torque of
BRAKING ramps to zero. -/
def takesDist (l : Lane) (a : Axis) : Bool :=
  let e := fget l (AXS_STS_ESTATE a)
  let x := vget l.axes a
  e ≠ 7 && !(e = 4 && (x.relTq.isSome || x.brkT.isNone))

/-- What the lead of a group forms from its demand (R229, R230); the members read it from its publication on (R224). -/
def groupPublish (l : Lane) (now : Nat) (g : Fin 8) (lead : Axis) (tg : Rat) : Lane :=
  let d := if takesDist l lead then q12 l (AXS_DOB2_KDFF lead) * (vget l.axes lead).tdh else 0
  if fget l (SHR_GCFG_MODE g) = 3 then modGrp l g fun x => { x with tg := tg, dN := d }
  else
    let (sh, cut, clip) := groupShares l now g lead tg
    let l := modGrp l g fun x => { x with tg := tg, dN := d, shareN := sh, cutN := cut }
    if clip then
      let l := stkLate l SHR_STK_SHRCLIP
      match torqueStage l lead with
      | some s => reportClamp l (stageLast l s) (decide (0 < tg))
      | none => l
    else l

/-- What a lead has formed for its groups is published at 60 % of its period (R224). -/
def groupRelease (l : Lane) (a : Axis) : Lane :=
  (allFin 8).foldl (fun (l : Lane) (g : Fin 8) =>
    if activeGroup l a = some g && leadOf l g = a then
      modGrp l g fun x => { x with tgP := x.tg, dP := x.dN, share := x.shareN, cut := x.cutN }
    else l) l

/-- A follower's torque (R230), or a member's share (R229). A master without torque lends the demand of its stop regulator (R233). -/
def memberTorque (l : Lane) (g : Fin 8) (a : Axis) : Rat :=
  let x := vget l.grps g
  if fget l (SHR_GCFG_MODE g) = 3 then
    let m := leadOf l g
    let tm := if bit x.gone m then x.tgP else q16 l (AXS_TLIV_TSTAR m)
    let s := q12 l (SHR_AWT_W a) * qdiv (tm * powerOf l m) (powerOf l a)
    let cl := q12 l (SHR_GCL_CLIM g)
    s + rclamp (-cl) cl (q8 l (SHR_GDR_KSYNC g) * (speedPub l m - speedPu l a - q12 l (SHR_GDR_DROOP g) * s))
  else x.share.getD a.1 0

/-- The own source of an axis by its state (R222, R254). -/
def ownSource (l : Lane) (now : Nat) (a : Axis) : Lane × Rat :=
  let e := fget l (AXS_STS_ESTATE a)
  let (l, t) : Lane × Rat :=
    if e = 0 then
      let st : Rat := match torqueStage l a with | some s => dyRat (bfVal (slotOf l (stageLast l s)).y) | none => 0
      (l, st + q16 l (AXS_TFF_TFF a))
    else if isStopReg e then let (l, r) := stopReg l a e; (l, if e = 4 then brakeTorque l now a r else r)
    else if e = 7 then (l, quickRelease l a)
    else (l, 0)
  if fon l (AXS_STS_RIDE a) && fon l (AXS_RT_RTMODE a) && (e = 0 || e = 1) then
    match busOfAxis l a with
    | some b =>
      let v := busPu l a
      let vrt := q12 l (SHR_BT5_VRT b)
      (l, -(rsign (speedPu l a) * q12 l (AXS_HTQ_TMAX a) * rclamp 0 1 (qdiv (vrt - v) (vrt - q12 l (SHR_BT4_VUV b)))))
    | none => (l, t)
  else (l, t)

/-- The reference follows the ramps of the rotor-loss sequence and of the running start (R170, R173); quick release keeps its law
on the angle in use (R171). -/
def torqueRamp (l : Lane) (now : Nat) (a : Axis) (t : Rat) : Lane × Rat :=
  let o := obsOf l a
  let rt := fget l (OBS_HOLD_RAMPT a)
  match (if fget l (AXS_STS_ESTATE a) = 7 then none else o.hold) with
  | some (td, _) =>
    let len : Rat := (rt : Rat) * 3200
    (l, o.holdT * rclamp 0 1 (1 - qdiv ((now - td : Nat) : Rat) len))
  | none =>
    match o.ramp with
    | none => (l, t)
    | some c =>
      let step := qdiv (tpOf l a : Rat) ((rt : Rat) * 3200)
      let n := if rt = 0 then t else c + rclamp (-step) step (t - c)
      if n = t then (modObs l a fun o => { o with ramp := none }, t) else (modObs l a fun o => { o with ramp := some n }, n)

/-- Whether torque may be applied: pulses on, and the polarity test passed where one is due (R168, R173). -/
def torqueReady (l : Lane) (a : Axis) : Bool :=
  let o := obsOf l a
  let m := obsMode l a
  o.pulses && (m = moEncoder || (o.polOk && (m = moEmf || m = moBlend || m = moHold || m = moInject)))

/-- The stop of a group whose lead is without torque and has no alternate (R232, R233): the regulator runs on the lead, and its torque
is shared among the others. -/
def leadStop (l : Lane) (now : Nat) (a : Axis) : Lane :=
  match activeGroup l a with
  | some g =>
    if leadOf l g = a && bit (vget l.grps g).gone a then
      let (l, r) := stopReg l a 3
      groupPublish l now g a (r + q12 l (AXS_DOB2_KDFF a) * (vget l.axes a).tdh)
    else l
  | none => l

/-- T* of an axis (R222), with the flags of the limits that bind and the clamp reports of R184. In an active group the source of every
member is its share; a limit that cut the share binds it too (R223, R229). -/
def formT (l : Lane) (now : Nat) (a : Axis) : Lane :=
  let e := fget l (AXS_STS_ESTATE a)
  let none' (l : Lane) : Lane :=
    modAx l a fun x => { x with tstar := 0, tref := 0, regl := false, pwrl := false, tlim := false }
  if isOffState e || !(torqueReady l a) then none' (if e = 8 ∨ e = 9 then leadStop l now a else l)
  else
    let (l, own) := ownSource l now a
    let req := own + (if takesDist l a then q12 l (AXS_DOB2_KDFF a) * (vget l.axes a).tdh else 0)
    let l := modAx l a fun x => { x with treq := req }
    let (l, tref, cut) : Lane × Rat × Option Nat :=
      match activeGroup l a with
      | none => (l, req, none)
      | some g =>
        if leadOf l g = a then
          let l := groupPublish l now g a req
          if fget l (SHR_GCFG_MODE g) = 3 then (l, req, none)
          else (l, (vget l.grps g).shareN.getD a.1 0, (vget l.grps g).cutN.getD a.1 none)
        else (l, memberTorque l g a, if fget l (SHR_GCFG_MODE g) = 3 then none else (vget l.grps g).cut.getD a.1 none)
    let (l, tref) := torqueRamp l now a tref
    let (p, n) := torqueLimits l now a (speedPu l a)
    let t := rclamp (-n.v) p.v tref
    let bind : Option Nat := if p.v < tref then some p.term else if tref < -n.v then some n.term else none
    let hit (k : Nat) : Bool := decide (bind = some k) || (bind.isNone && decide (cut = some k))
    let l := stkIfLate (hit 2) (stkIfLate (hit 1) l SHR_STK_REGLIM) SHR_STK_PWRLIM
    let l := match bind, torqueStage l a with
      | some _, some s => reportClamp l (stageLast l s) (decide (p.v < tref))
      | _, _ => l
    modAx l a fun x => { x with
      tstar := t, tref := tref, regl := hit 1, pwrl := hit 2, tlim := hit 0 }

end Sys2Proof.Machine
end

