-- ==== Sys2Proof/Machine/Links.lean ====
section
/-!
DEFINITION. The Billet links (chapter 8): frame words and checks (R264, R265, R271 to R273), the brick's part (R269, R274,
R276, R287), the link cartridge's part (R266 to R268), EDGE frames composed (R248, R270, R275), SAMPLE frames received and
consumed (R277 to R281), port evaluation (R288), discovery and management (R282 to R286, R291).
-/
namespace Sys2Proof.Machine

/-! ## CRC-16 (R265) and frame words (R271, R272) -/

/-- One byte through the CRC-16 register, most significant bit first. -/
def crc16Byte (c : BitVec 16) (b : Byte) : BitVec 16 :=
  (List.range 8).foldl (fun c _ => if c.getLsbD 15 then (c <<< 1) ^^^ 0x1021#16 else c <<< 1) (c ^^^ (b.setWidth 16 <<< 8))

/-- The CRC-16 of a list of bytes. -/
def crc16Bytes (bs : List Byte) : BitVec 16 := bs.foldl crc16Byte 0xFFFF#16

/-- The CRC of a frame's words, each sent least significant byte first (R264, R265). -/
def crc16Words (ws : List Word) : BitVec 16 := ws.foldl (fun c w => (wordBytes w).foldl crc16Byte c) 0xFFFF#16

/-- The three words of a leg position (R271, R272). -/
def legWords (g : FrameLeg) : List Word :=
  let inst (o : Option Nat) : Word := match o with | some t => wordOf (t % 2 ^ 21 + 2 ^ 31) | none => 0#32
  [wordOf (g.e % 2 ^ 22 + 2 ^ 22 * (g.act % 4) + 2 ^ 24 * (g.lmode % 8) + 2 ^ 27 * b2n g.lvl), inst g.sa, inst g.sb]

/-- The 17 words of an EDGE frame (R271). -/
def edgeWords (f : EdgeFrame) : List Word :=
  [wordOf (1 + 16 * (f.brick % 32) + 2 ^ 9 * b2n f.hold + 2 ^ 10 * b2n f.keep + 2 ^ 16 * (f.seq % 2 ^ 16)),
   wordOf (f.pstart % 2 ^ 32), wordOf (f.tp % 2 ^ 22), wordOf (f.close % 2 ^ 21 + 2 ^ 24 * (f.gprof % 16)),
   wordOf (f.dt % 2 ^ 14)] ++ f.legs.foldl (fun acc g => acc ++ legWords g) []

/-- A leg with gates off in a frame. -/
def legFrameOff : FrameLeg := { e := 0, act := 0, lmode := 1, lvl := false, sa := none, sb := none }

/-- A keep-alive frame (R270), with the codes of the band in force (R116). -/
def keepFrame (b pstart gprof dt : Nat) : EdgeFrame :=
  { brick := b, hold := false, keep := true, seq := 0, pstart := pstart, tp := 3200000, close := 0, gprof := gprof, dt := dt,
    legs := List.replicate 4 legFrameOff }

/-- The limit of CLOSE (R271). -/
def closeMax (tp : Nat) : Nat := tp / 4 - 9600

/-- A leg position within the ranges of R271 to R273. -/
def legFrameOk (f : EdgeFrame) (g : FrameLeg) : Bool :=
  decide (g.e < 2 * f.tp) && decide (g.act < 3) && decide (g.lmode < 3) &&
  (g.lmode = 0 || (g.e = 0 && g.act = 0 && !g.lvl)) &&
  (match g.sa with | some t => decide (t ≤ f.close) | none => true) &&
  (match g.sb with | some t => decide (f.tp - f.tp / 4 ≤ t) && decide (t < f.tp) | none => true)

/-- An EDGE frame valid in itself for a brick that adopted `num` (R264, R273). -/
def frameOk (num : Option (Fin 32)) (f : EdgeFrame) : Bool :=
  (match num with | some n => decide (n.1 = f.brick) | none => false) && decide (f.legs.length = 4) &&
  (if f.keep then f.tp = 3200000 && f.close = 0
   else decide (100000 ≤ f.tp) && decide (f.tp ≤ 1600000) && decide (f.close ≤ closeMax f.tp)) &&
  f.legs.all (legFrameOk f)

/-- A placed instant in its word (R271). -/
def instOf (w : Nat) : Option Nat := if bit w 31 then some (w % 2 ^ 21) else none

/-- The part of leg position `p` in the words of an EDGE frame (R271, R272). -/
def legOfWords (ws : List Word) (p : Nat) : FrameLeg :=
  let w (j : Nat) : Nat := (ws.getD (5 + 3 * p + j) 0#32).toNat
  { e := bitsOf (w 0) 0 22, act := bitsOf (w 0) 22 2, lmode := bitsOf (w 0) 24 3, lvl := bit (w 0) 27, sa := instOf (w 1), sb := instOf (w 2) }

/-- The reserved fields of an EDGE frame read 0 (R264, R271, R272). -/
def edgeReserved (ws : List Word) : Bool :=
  let w (j : Nat) : Nat := (ws.getD j 0#32).toNat
  bitsOf (w 0) 11 5 = 0 && bitsOf (w 2) 22 10 = 0 && bitsOf (w 3) 21 3 = 0 && bitsOf (w 3) 28 4 = 0 && bitsOf (w 4) 14 18 = 0 &&
  (List.range 4).all fun p => bitsOf (w (5 + 3 * p)) 28 4 = 0 && bitsOf (w (6 + 3 * p)) 21 10 = 0 && bitsOf (w (7 + 3 * p)) 21 10 = 0

/-- The EDGE frame that words arriving at edge tick `t` spell: length, TYPE and reserved fields are those of R264 and R271. PSTART is the
first instant from `t` on with its low 32 bits. -/
def edgeOfWords (t : Nat) (ws : List Word) : Option EdgeFrame :=
  let w (j : Nat) : Nat := (ws.getD j 0#32).toNat
  if decide (ws.length = 17) && bitsOf (w 0) 0 4 = 1 && edgeReserved ws then
    some { brick := bitsOf (w 0) 4 5, hold := bit (w 0) 9, keep := bit (w 0) 10, seq := bitsOf (w 0) 16 16,
           pstart := ((t : Int) + sInt 32 ((w 1 + 2 ^ 32 - t % 2 ^ 32) % 2 ^ 32)).toNat, tp := bitsOf (w 2) 0 22, close := bitsOf (w 3) 0 21,
           gprof := bitsOf (w 3) 24 4, dt := bitsOf (w 4) 0 14, legs := (List.range 4).map (legOfWords ws) }
  else none

/-! ## The brick -/

/-- The ports of a brick that are TIMED or UP at the brick (R269). -/
def timedPorts (b : BrickRt) : List (Fin 2) := (allFin 2).filter fun i => decide (2 ≤ (vget b.ports i).bst)

/-- A brick's counter one up (R285), saturating. -/
def brickCount (b : BrickRt) (j : Fin 10) : BrickRt :=
  { b with cnt := vmod b.cnt j fun n => satNat 0xFFFFFFFF (n + 1) }

/-- Whether some port is TIMED or UP and every such port had a valid /P/ within 4.096 µs, 13,107 ticks, of edge tick `t` (R269). -/
def permitFresh (t : Nat) (b : BrickRt) : Bool :=
  !(timedPorts b).isEmpty && (timedPorts b).all fun i => decide (t ≤ (vget b.ports i).pAt + 13107)

/-- Whether R269 permits gates at edge tick `t`. -/
def permitNow (t : Nat) (b : BrickRt) : Bool := permitFresh t b && (timedPorts b).all fun i => (vget b.ports i).pOk

/-- The permit of a brick brought up to date; a loss is counted, and the eight valid /P/ in a row start afresh whenever the condition
fails (R269). While it fails, and until the next PSTART with it, the gates are off. -/
def brickPermit (t : Nat) (b : BrickRt) : BrickRt :=
  if permitNow t b then { b with permit := true }
  else
    let afresh (b : BrickRt) : BrickRt := { b with ports := b.ports.map fun p => { p with pRun := 0, pOk := false } }
    let b := { b with idle := true }
    if b.permit then brickCount (afresh { b with permit := false }) 4
    else if permitFresh t b then b else afresh b

/-- The count byte of /P/ (R268): the count, and its complement above it. -/
def pulseByte (n : Nat) : Nat := n % 16 + 16 * (15 - n % 16)

/-- A /P/ with count byte `byte` arrives by port `i` (R269): without the form of R268 it is not valid, and one out of sequence
restarts the sequence. -/
def brickPulse (t byte : Nat) (i : Fin 2) (b : BrickRt) : BrickRt :=
  let n := byte % 16
  if byte ≠ pulseByte n then brickPermit t { b with ports := vmod b.ports i fun p => { p with pRun := 0 } } else
  let ok (p : PortRt) : Bool := match p.pn with | some m => decide (n = (m + 1) % 16) | none => false
  brickPermit t { b with
    ports := vmod b.ports i fun p =>
      if ok p then { p with pn := some n, pAt := t, pRun := satNat 8 (p.pRun + 1), pOk := p.pOk || decide (7 ≤ p.pRun) }
      else { p with pn := some n, pRun := 0 } }

/-- A downlink frame discarded as invalid at port `i`, and counted (R264). -/
def brickDiscard (i : Fin 2) (b : BrickRt) : BrickRt :=
  brickCount { b with ports := vmod b.ports i fun p => { p with good := 0 } } (if i = 0 then 0 else 1)

/-- A frame whose last symbol arrives at edge tick `t` by port `i` (R273): an invalid one is discarded and counted, a late one as late
too. -/
def brickFrame (t : Nat) (i : Fin 2) (f : EdgeFrame) (b : BrickRt) : BrickRt :=
  let cont := match b.cur with
    | some c => f.keep || c.keep || b.off || decide (f.pstart = b.pst + c.tp)
    | none => true
  let late := decide (f.pstart < t + 3200)
  if frameOk b.num f && !late && cont then
    { b with
      lastV := t, lossCt := false
      ports := vmod b.ports i fun p => { p with seen := some f, good := if p.bst = 3 then satNat 1024 (p.good + 1) else 0 } }
  else brickDiscard i (if late then { b with lateN := b.lateN + 1 } else b)

/-- The words of an EDGE frame, sent with the CRC `crc`, arrive at port `i` (R264). -/
def brickWords (t : Nat) (i : Fin 2) (abort : Bool) (crc : BitVec 16) (ws : List Word) (b : BrickRt) : BrickRt :=
  match edgeOfWords t ws with
  | some f => if !abort && crc16Words ws = crc then brickFrame t i f b else brickDiscard i b
  | none => brickDiscard i b

/-- The port followed in the period that starts now (R287); a change is counted. -/
def brickFollow (b : BrickRt) : BrickRt :=
  let p0 := (vget b.ports 0).bst = 3
  let p1 := (vget b.ports 1).bst = 3
  let f := if p0 && !p1 then false else if p1 && !p0 then true
    else if p0 && p1 then (if b.fol then decide ((vget b.ports 0).good < 1024) else decide (2 ≤ b.subN)) else b.fol
  if f = b.fol then b
  else brickCount { b with fol := f, subN := 0 } 5

/-- A switch whose dead time ended before `t` is on. -/
def legSettle (t : Int) (g : BLeg) : BLeg :=
  match g.on with
  | some e => if e.t < t then { g with hi := e.up, lo := !e.up, on := none } else g
  | none => g

/-- An edge of a leg (R135, R274): the outgoing switch goes off at its instant and the incoming one on after the dead time; an edge
towards the state the leg holds changes nothing. -/
def switchEdge (dt : Nat) (g : BLeg) (e : LegEdge) : BLeg :=
  let g := legSettle e.t g
  if e.up = g.lvl then g
  else { g with lvl := e.up, hi := g.hi && e.up, lo := g.lo && !e.up, on := some { t := e.t + (dt : Int), up := e.up } }

/-- The pending edges of a leg before `t` take effect, with the dead time in force. -/
def legAdvance (t dt : Nat) (g : BLeg) : BLeg :=
  let due := g.pend.filter fun e => decide (e.t < (t : Int))
  legSettle (t : Int) (due.foldl (switchEdge dt) { g with pend := g.pend.filter fun e => decide ((t : Int) ≤ e.t) })

/-- Whether the brick's own causes leave the gates of a leg free (R267, R269, R276, R279). -/
def legFree (b : BrickRt) (p : Nat) : Bool := !b.off && !b.idle && b.permit && !b.untimed && !(bit b.desat p) && !(bit b.gsup p)

/-- The gates of a leg as the brick drives them: high side and low side. -/
def legGates (b : BrickRt) (p : Fin 4) : Bool × Bool :=
  let g := vget b.legs p
  (legFree b p.1 && g.hi, legFree b p.1 && g.lo)

/-- A leg takes the state `up` at `t` (R274): at once, or after the dead time where the opposite switch conducted. -/
def legTake (t dt : Nat) (up : Bool) (g : BLeg) : BLeg :=
  if (if up then g.lo else g.hi) then { g with lvl := up, hi := false, lo := false, on := some { t := (t : Int) + (dt : Int), up := up } }
  else { g with lvl := up, hi := up, lo := !up, on := none }

/-- A leg takes its part of the frame in force from `t` (R274): mode, state, edges; the second part is an LVL mismatch. `dt` is the dead
time in force; after gates off no switch of the leg conducts. -/
def legApply (t dt : Nat) (wasOff : Bool) (f : FrameLeg) (g : BLeg) : BLeg × Bool :=
  let g := if wasOff then { g with hi := false, lo := false, on := none } else g
  if f.lmode = 1 then (BLeg.zero, false)
  else if f.lmode ≠ 0 then
    let low := g.on.any fun e => !e.up
    ({ (if low then { g with lvl := false } else legTake t dt false g) with mode := f.lmode, pend := [] }, false)
  else
    let keep := decide (g.mode = 0) && !wasOff
    let mis := keep && g.lvl != f.lvl
    let g := if keep then g else legTake t dt f.lvl g
    let new : List LegEdge := if f.act = 1 ∨ f.act = 2 then [{ t := (t : Int) + f.e, up := decide (f.act = 1) }] else []
    -- a new edge governs a carried one at the same tick; edges stay in time order
    let old := (if keep then g.pend else []).filter fun e => new.all fun n => decide (n.t ≠ e.t)
    let before := old.filter fun e => new.all fun n => decide (e.t < n.t)
    let after := old.filter fun e => new.any fun n => decide (n.t < e.t)
    ({ g with mode := 0, pend := (before ++ new ++ after).drop ((before ++ new ++ after).length - 2) }, mis)

/-- The positions with a tail instant in a frame, and those with a head instant. -/
def tailMask (f : EdgeFrame) : Nat := (List.range 4).foldl (fun m p => m + 2 ^ p * b2n (f.legs.getD p legFrameOff).sb.isSome) 0
def headMask (f : EdgeFrame) : Nat := (List.range 4).foldl (fun m p => m + 2 ^ p * b2n (f.legs.getD p legFrameOff).sa.isSome) 0

/-- The period that runs at a brick ends: its SAMPLE frame becomes the one before, and its tail samples belong to the next period's zone;
those of a self-held period are not valid (R276, R277). -/
def brickEnd (b : BrickRt) : BrickRt :=
  { b with
    runs := false, smpP := b.smpC, smpC := none
    tails := match b.cur with | some c => if b.runs && b.selfN = 0 then tailMask c else 0 | none => 0 }

/-- A frame runs from `t` (R274): dead time and gate profile first, then the legs. -/
def brickApply (t : Nat) (f : EdgeFrame) (b : BrickRt) : BrickRt :=
  let wasOff := b.off || b.idle || b.untimed
  let b := { b with cur := some f, pst := t, runs := true, off := false, idle := !b.permit || b.untimed, dt := f.dt, gprof := f.gprof }
  (allFin 4).foldl (fun (b : BrickRt) (p : Fin 4) =>
    let r := legApply t f.dt wasOff (f.legs.getD p.1 legFrameOff) (vget b.legs p)
    let b := { b with legs := vset b.legs p r.1 }
    if r.2 then brickCount b 8 else b) b

/-- Whether a frame holds every leg in gates off. -/
def allOff (f : EdgeFrame) : Bool := f.legs.all fun g => decide (g.lmode = 1)

/-- The end of a brick's period at `t` (R274, R276, R287): the frame for the next one, or self-hold, or gates off. -/
def brickAt (t : Nat) (b : BrickRt) : BrickRt :=
  let at' (i : Fin 2) : Option EdgeFrame := (vget b.ports i).seen.filter fun f => decide (f.pstart = t)
  let past := match b.cur with | some c => decide (b.pst + c.tp ≤ t) | none => false
  if !(past || (at' 0).isSome || (at' 1).isSome) then b
  else
    let b := brickEnd (brickFollow (brickPermit t { b with legs := b.legs.map (legAdvance t b.dt) }))
    -- a frame that is missing ends a run of valid ones (R287)
    let b := { b with ports := Vector.ofFn fun i => if (at' i).isSome then vget b.ports i else { vget b.ports i with good := 0 } }
    let own : Fin 2 := if b.fol then 1 else 0
    let oth : Fin 2 := if b.fol then 0 else 1
    let clear (b : BrickRt) : BrickRt := { b with
      ports := b.ports.map fun p => { p with seen := p.seen.filter fun f => decide (t < f.pstart) } }
    match at' own, at' oth with
    | some f, _ => clear (brickApply t f { b with selfN := 0, subN := 0 })
    | none, some f => clear (brickApply t f (brickCount { b with selfN := 0, subN := b.subN + 1 } 6))
    | none, none =>
      match b.cur with
      | none => b
      | some c =>
        if b.off || allOff c then
          let b := { b with off := true }
          if decide (b.lastV + 6400000 ≤ t) && !b.lossCt then brickCount { b with lossCt := true } 3 else b
        else if b.selfN = 0 then brickApply t c (brickCount { b with selfN := 1 } 2)
        else brickCount { b with off := true, selfN := 0, lossCt := true } 3

/-! ## Ports of the state -/

/-- What befalls a frame for brick `b` by port `k`, if anything. -/
def downFault (dn : List DownFault) (b : Brick) (k : Fin 2) : Option DownFault :=
  dn.find? fun d => decide (d.brick = b) && d.sec == decide (k = 1)

/-- A frame reaches a brick's port at `t`: as it was sent, or as `d` says (R264, R273). -/
def receiveFrame (t : Nat) (k : Fin 2) (f : EdgeFrame) (d : Option DownFault) (b : BrickRt) : BrickRt :=
  match d with
  | none => brickFrame t k f b
  | some d =>
    match copyWords d.copy (edgeWords f) with
    | some ws => brickWords (t + d.delay) k d.abort (crc16Words (edgeWords f)) ws b
    | none => b

/-- A frame from lane `i` for brick `b` (R15, R270): forwarded by each cartridge whose selector names the lane, to a port that is UP
(R286) and whose brick is TIMED. `dt` is the downlink latency, `dn` what befalls frames on the way. -/
def sendFrame (i : LaneId) (dt : Nat) (dn : List DownFault) (s : State) (f : EdgeFrame) : State :=
  let b : Brick := ⟨f.brick % 32, Nat.mod_lt _ (by decide)⟩
  (allFin 2).foldl (fun (s : State) (k : Fin 2) =>
    let c := linkOf b k
    let p := portOf s b k
    if linkPresent s c && (vget s.links c).sel = i && !(vget s.links c).dark && p.lst = 3 && 2 ≤ p.bst then
      modBrick s b (receiveFrame (s.now + dt) k f (downFault dn b k))
    else s) s

/-- The downlink latency of R270, 2.5 µs in edge ticks. -/
def downlink : Nat := 8000

/-- The period boundaries a brick with gates on has passed before `t` (R276): each starts its period at its own instant. -/
def brickCatch (t : Nat) : Nat → BrickRt → BrickRt
  | 0, b => b
  | n + 1, b =>
    match b.cur with
    | some c => if !b.off && !(allOff c) && decide (b.pst + c.tp < t) then brickCatch t n (brickAt (b.pst + c.tp) b) else b
    | none => b

/-- A brick at edge tick `t`, which may be the start of a period (R274, R276). After two boundaries without a frame its gates are off. -/
def brickPeriod (t : Nat) (b : BrickRt) : BrickRt := brickAt t (brickCatch t 3 b)

/-- All the bricks come to the end of a period that ends now. -/
def bricksPeriod (s : State) : State := { s with bricks := s.bricks.map (brickPeriod s.now) }

/-! ## The link cartridge (R13, R266 to R268) -/

/-- The mean of the latest accepted measurements, rounded (R266). -/
def delayOf (p : PortRt) : Int := if p.dls.isEmpty then 0 else rdiv (p.dls.foldl (fun x y => x + y) 0) p.dls.length

/-- Whether a measurement lies more than 32 edge ticks from the mean of those accepted (R266). -/
def delayFar (m : Int) (p : PortRt) : Bool :=
  decide (32 * p.dls.length < (m * (p.dls.length : Int) - p.dls.foldl (fun x y => x + y) 0).natAbs)

/-- A measurement of R266. Eight rejections in a row return the port to the burst, which lasts until eight are accepted. -/
def delayTake (m : Int) (p : PortRt) : PortRt :=
  if delayFar m p then
    if 7 ≤ p.rej then { p with rej := 0, burst := true, nAcc := 0 } else { p with rej := p.rej + 1 }
  else
    let ds := p.dls ++ [m]
    let ds := ds.drop (ds.length - 8)
    { p with
      dls := ds, rej := 0, nAcc := satNat 8 (p.nAcc + 1), burst := p.burst && decide (p.nAcc < 7)
      lst := if p.lst = 1 ∧ ds.length = 8 then 2 else p.lst }

/-- What the brick's timebase reads when a /S/ arrives that was `path` edge ticks on its way, less TS + DL (R267), as a signed
difference of 32-bit counts. -/
def syncDiff (tb : Int) (path : Nat) (dl : Int) : Int := sInt 32 ((tb + (path : Int) - dl) % 2 ^ 32).toNat

/-- A /S/ at a brick's port that finds its timebase `d` edge ticks off (R267). The first one sets the timebase; two in a row that agree
make the port TIMED; in a TIMED port a difference of up to 64 edge ticks is stepped and counted, and a greater one ends TIMED. -/
def brickSync (i : Fin 2) (d : Int) (b : BrickRt) : BrickRt :=
  let p := vget b.ports i
  let set := { b with tb := b.tb - d }
  let step := if d ≠ 0 ∧ d.natAbs ≤ 64 then brickCount set 9 else set
  if !b.tbase then { set with tbase := true, ports := vset b.ports i { p with agr := 0 } }
  else if p.bst < 2 then
    -- a port that is not TIMED moves the timebase only where no other port is
    let b := if (timedPorts b).isEmpty then step else b
    if d.natAbs ≤ 1 then
      { b with
        untimed := b.untimed && decide (p.agr = 0)
        ports := vset b.ports i { p with agr := p.agr + 1, bst := if 1 ≤ p.agr then 2 else p.bst } }
    else { b with ports := vset b.ports i { p with agr := 0 } }
  else if d.natAbs ≤ 64 then step
  else { set with untimed := true, idle := true, ports := vset b.ports i { p with bst := 1, agr := 0 } }

/-! ## EDGE frames composed in a lane (R248, R270 to R272, R275) -/

/-- The LMODE the states of its axis and coppice give a leg (R113, R170, R241, R248, R404). -/
def legMode (l : Lane) (n : Fin 128) : Nat :=
  match fget l (LEG_CFG_TYPE n) with
  | 1 =>
    let c := fget l (LEG_CFG_COPPICE n)
    let a : Axis := ⟨fget l (LEG_CPC_AXIS c) % 16, Nat.mod_lt _ (by decide)⟩
    let e := fget l (AXS_STS_ESTATE a)
    let o := obsOf l a
    if fget l (LEG_CSTS_STATE c) ≠ 1 || !(axEnabled l a) || e = 6 || e = 9 then 1
    else if o.asc then 2
    else if e = 8 || !o.pulses then 1
    else 0
  | 2 =>
    let a := fget l (LEG_CFG_HOST n)
    let g := vget l.legs n
    if axPeriods l a && !g.chFlt && g.gates then 0 else 1
  | _ => 1

/-- The state of a leg at `t` by the lane's edges: after the latest edge before it, or opposite to the first one after it. -/
def legLevel (g : LegRt) (t : Int) : Bool :=
  match (g.hist.filter fun e => decide (e.t < t)).getLast? with
  | some e => e.up
  | none => match g.hist.find? fun e => decide (t ≤ e.t) with | some e => !e.up | none => g.lvl

/-- The legs of an axis, chopper legs hosted by it included. -/
def axisLegs (l : Lane) (a : Axis) : List (Fin 128) :=
  (bricksOf l a).foldl (fun acc b => acc ++ ((allFin 128).filter fun n => decide (n.1 / 4 = b.1))) []

/-- The hedge's check of the edges in phase B (R248): a leg that its states forbid to switch loses edge, instants and edge
history; in the low-side pattern it is low throughout. -/
def checkModes (l : Lane) (a : Axis) : Lane :=
  let t1 : Int := (((vget l.axes a).t0 + tpOf l a : Nat) : Int)
  (axisLegs l a).foldl (fun (l : Lane) (n : Fin 128) =>
    match legMode l n with
    | 0 => l
    | 1 => modLeg l n fun g => { g with edge := none, head := none, tail := none, tailZ := none, hist := [], lvl := false }
    | _ => modLeg l n fun g => { g with
        edge := none, lvl := false
        hist := match g.hist.getLast? with | some e => if e.up then [{ t := t1, up := false }] else [e] | none => [{ t := t1, up := false }] }) l

/-- The leg word and instants of a leg for the period of `tp` edge ticks that starts at `t1` (R272). A tail instant is held
relative to the end of that period and sent relative to its start. -/
def frameLeg (l : Lane) (t1 : Int) (tp : Nat) (n : Fin 128) : FrameLeg :=
  let g := vget l.legs n
  let m := legMode l n
  let sa : Option Nat := g.head.map fun v => v.toNat
  let sb : Option Nat := g.tail.map fun v => (v + (tp : Int)).toNat
  if m = 0 then
    { e := match g.edge with | some x => x.t.toNat | none => 0
      act := match g.edge with | some x => if x.up then 1 else 2 | none => 0
      lmode := 0, lvl := legLevel g t1, sa := sa, sb := sb }
  else { legFrameOff with lmode := m, sa := if m = 2 then sa else none, sb := if m = 2 then sb else none }

/-- CLOSE: the latest head instant placed on the brick, or 0 (R271). -/
def closeOf (gs : List FrameLeg) : Nat := gs.foldl (fun m g => match g.sa with | some t => max m t | none => m) 0

/-- The EDGE frame of brick `b` for the period of axis `a` that starts at `t1` (R270, R271). -/
def edgeFrame (l : Lane) (a : Axis) (t1 : Nat) (b : Fin 32) : EdgeFrame :=
  let tp := tpOf l a
  let gs := (List.range 4).map fun p =>
    frameLeg l (t1 : Int) tp ⟨4 * b.1 + p % 4, by omega⟩
  { brick := b.1, hold := false, keep := false, seq := 0, pstart := t1, tp := tp, close := closeOf gs,
    gprof := fget l (LEG_GTB_GPROF b (bandOf l b)), dt := deadTime l b, legs := gs }

/-- The held frame (R275): a leg whose states replace its edges carries that, without a head instant after the repeated CLOSE; every
other leg repeats the word and instants of the held period, with LVL for the new PSTART. -/
def holdFrame (l : Lane) (b : Fin 32) (new old : EdgeFrame) : EdgeFrame :=
  let gs := (List.range 4).map fun p =>
    let n : Fin 128 := ⟨4 * b.1 + p % 4, by omega⟩
    let o := old.legs.getD p legFrameOff
    if legMode l n = 0 then { o with lvl := decide (o.lmode = 0) && legLevel (vget l.legs n) (new.pstart : Int) }
    else
      let g := new.legs.getD p legFrameOff
      { g with sa := g.sa.filter fun t => decide (t ≤ old.close) }
  { new with hold := true, legs := gs, close := old.close }

/-- A held leg in the lane's own record (R25): the edge and instants of the held period again. -/
def holdLeg (t1 : Int) (tp : Nat) (o : FrameLeg) (g : LegRt) : LegRt :=
  let old := g.hist.filter fun e => decide (e.t < t1)
  let ed : Option LegEdge := if o.act = 1 ∨ o.act = 2 then some { t := (o.e : Int), up := decide (o.act = 1) } else none
  { g with
    edge := ed
    hist := old ++ (match ed with | some x => [{ x with t := t1 + x.t }] | none => [])
    head := o.sa.map fun v => (v : Int)
    tail := o.sb.map fun v => (v : Int) - (tp : Int) }

/-- A lane records a frame as sent: numbered, kept, and the instants of its legs become those of the coming period. -/
def markSent (l : Lane) (b : Fin 32) (f : EdgeFrame) : Lane × EdgeFrame :=
  let r := vget l.rx b
  let f := { f with seq := (r.seqN + 1) % 2 ^ 16 }
  ({ l with rx := vset l.rx b { r with seqN := f.seq, sent := some f } }, f)

/-! ## SAMPLE frames (R263, R264, R277 to R281) -/

/-- Whether the words are a SAMPLE frame that passes the checks of R264. -/
def sampleOk (ws : List Word) (crc : BitVec 16) : Bool :=
  decide (ws.length = 11) && crc16Words ws = crc &&
  (let w0 := (ws.getD 0 0#32).toNat
   bitsOf w0 0 4 = 2 && bitsOf w0 10 6 = 0 && bitsOf (ws.getD 7 0#32).toNat 16 16 = 0 && !(bit (ws.getD 10 0#32).toNat 31))

/-- The brick holds some gate off for a cause of its own (R279). -/
def brickGoff (x : BrickRt) : Bool := !x.permit || x.off || x.idle || x.untimed || decide (x.desat ≠ 0) || decide (x.gsup ≠ 0)

/-- The STATUS word of a brick for the period that runs (R276, R279). A self-held period clears the valid bits of what was sampled in it. -/
def brickStatus (m : BrickMeas) (x : BrickRt) : Nat :=
  let self := decide (x.selfN ≠ 0)
  let good := m.good.toNat
  let heads := match x.cur with | some c => headMask c | none => 0
  let own (n : Nat) : Nat := if self then 0 else n
  let tm (i : Fin 2) : Bool := decide (2 ≤ (vget x.ports i).bst)
  x.desat + 2 ^ 4 * x.gsup + 2 ^ 8 * own (heads &&& bitsOf good 0 4) + 2 ^ 12 * (x.tails &&& bitsOf good 4 4) +
  2 ^ 16 * own (bitsOf good 8 4) + 2 ^ 20 * own (bitsOf good 12 1) + 2 ^ 21 * m.tbrk.toNat + 2 ^ 25 * b2n (brickGoff x) +
  2 ^ 26 * b2n (!x.permit) + 2 ^ 27 * b2n self + 2 ^ 28 * b2n (!(tm (if x.fol then 1 else 0))) + 2 ^ 29 * b2n (tm 0) + 2 ^ 30 * b2n (tm 1)

/-- The words of a brick's SAMPLE frame (R278). -/
def sampleWords (m : BrickMeas) (x : BrickRt) : List Word :=
  let h (ws : List (BitVec 16)) (j : Nat) : Nat := (ws.getD j 0#16).toNat
  let two (ws : List (BitVec 16)) (j : Nat) : Word := wordOf (h ws j + 2 ^ 16 * h ws (j + 1))
  let num := match x.num with | some n => n.1 | none => 0
  let seq := match x.cur with | some c => c.seq % 2 ^ 16 | none => 0
  [wordOf (2 + 2 ^ 4 * num + 2 ^ 9 * b2n x.fol + 2 ^ 16 * seq)] ++
  ((List.range 4).map fun p => wordOf (h m.ia p + 2 ^ 16 * h m.ib p)) ++
  [two m.v 0, two m.v 2, wordOf m.vdc.toNat, two m.temps 0, two m.temps 2, wordOf (brickStatus m x)]

/-- A brick composes the SAMPLE frame of the period that runs, once (R277): it latches desaturation and takes up the gate supplies first
(R279, R289). -/
def brickSample (m : BrickMeas) (x : BrickRt) : BrickRt :=
  if x.runs && x.smpC.isNone then
    let x := if m.desat.toNat &&& (15 - x.desat) ≠ 0 then brickCount x 7 else x
    let x := { x with desat := x.desat ||| m.desat.toNat, gsup := m.gsup.toNat }
    { x with smpC := some (sampleWords m x) }
  else x

/-- A frame discarded as invalid by a lane at port `sec` of brick `b` (R264, R292). -/
def upDiscard (l : Lane) (b : Brick) (sec : Bool) : Lane :=
  stkLate { l with rx := vmod l.rx b fun r => if sec then { r with crc1 := r.crc1 + 1 } else { r with crc0 := r.crc0 + 1 } } BLK_STK_CRCUP

/-- A copy arrives at a lane from port `sec` of brick `b` (R281): discarded as invalid, of another brick or SEQ, late, or held intact. A
copy with the SEQ of the period before is a late one of that period, but that of a self-held period repeats it (R276). -/
def sampleArrive (l : Lane) (b : Brick) (sec : Bool) (ws : List Word) (crc : BitVec 16) : Lane :=
  if !(sampleOk ws crc) then upDiscard l b sec
  else
    let w0 := (ws.getD 0 0#32).toNat
    let r := vget l.rx b
    let cut := match timingAxis l b with | some a => axPeriods l a && (vget l.axes a).cutDone | none => false
    let self := bit (ws.getD 10 0#32).toNat 27
    let now := decide (bitsOf w0 16 16 = r.seqC)
    if bitsOf w0 4 5 ≠ b.1 then l
    else if (now && cut) || (!now && !self && decide (bitsOf w0 16 16 = r.seqP)) then
      stkLate { l with rx := vset l.rx b { r with lateN := r.lateN + 1 } } BLK_STK_LATE
    else if !now then stkIfLate self (stkLate l BLK_STK_SEQERR) BLK_STK_SELF
    else { l with rx := vset l.rx b (if sec then { r with sec := some ws } else { r with pri := some ws }) }

/-- The SEQ that SAMPLE frames of the period that starts now carry. -/
def RxRt.start (r : RxRt) (n : Nat) : RxRt := { r with seqP := if n = r.seqC then r.seqP else r.seqC, seqC := n }

/-- The counting registers of a brick take what has been counted since they were updated (R292). -/
def showCounts (l : Lane) (b : Brick) : Lane :=
  let r := vget l.rx b
  let l := fcountN (fcountN (fcountN l (BLK_CRC_PRI b) r.crc0) (BLK_CRC_SEC b) r.crc1) (BLK_LATE_COUNT b) r.lateN
  { l with rx := vmod l.rx b fun r => { r with crc0 := 0, crc1 := 0, lateN := 0 } }

/-- A code converted with a full scale (R280). -/
def convCode (code : Int) (fs k : Nat) : Int := rdiv (code * (fs : Int)) (2 ^ k)

/-- The sample of a leg from the frame's words (R137, R139, R141): the instant used says which code; an instant placed
without a valid sample sets SKIPLOST. -/
def takeLeg (l : Lane) (b : Brick) (ws : Option (List Word)) (p : Fin 4) : Lane :=
  let n : Fin 128 := ⟨4 * b.1 + p.1, by omega⟩
  let st := match ws with | some w => (w.getD 10 0#32).toNat | none => 0
  let g := vget l.legs n
  let w := match ws with | some w => (w.getD (1 + p.1) 0#32).toNat | none => 0
  let s : Option Int := match g.placed with
    | none => none
    | some t =>
      let code := if 0 ≤ t then (if bit st (8 + p.1) then some (sInt 16 (w % 65536)) else none)
        else (if bit st (12 + p.1) then some (sInt 16 (w / 65536)) else none)
      code.map fun c => convCode c (fget l (BLK_FSI_FSI b p)) 15 + fgetI l (LEG_GTH_SHOFS b (bandOf l b))
  let v : Option Int := match ws with
    | none => none
    | some w => if bit st (16 + p.1) then some (convCode ((bitsOf (w.getD (5 + p.1 / 2) 0#32).toNat (16 * (p.1 % 2)) 16 : Nat) : Int)
        (fget l (BLK_FSV_FSV b)) 16) else none
  stkIfLate (g.placed.isSome && s.isNone) (modLeg l n fun g => { g with smp := s, vm := v }) LEG_STK_SKIPLOST

/-- What STATUS reports, compared with the latest one (R279, R290): registers, sticky bits, sources, coppices (R28, R148). -/
def takeStatus (l : Lane) (now : Nat) (b : Brick) (w0 st : Nat) : Lane :=
  let r := vget l.rx b
  let newD := bitsOf st 0 4 &&& (15 - bitsOf r.stat 0 4)
  let newG := bitsOf st 4 4 &&& (15 - bitsOf r.stat 4 4)
  let fol := bit w0 9
  let l := if fol != fon l (BLK_BST_FOLLOW b) then stkLate (fcount l (BLK_SW_COUNT b)) BLK_STK_PORTSW else l
  let l := fsetB (fset (fset l (BLK_BST_DESAT b) (bitsOf st 0 4)) (BLK_BST_GSUP b) (bitsOf st 4 4)) (BLK_BST_FOLLOW b) fol
  let l := fsetB (fsetB l (BLK_BST_GOFF b) (bit st 25)) (BLK_BST_NOPERM b) (bit st 26)
  let g := if b.1 < 16 then 0 else 2
  let send := fget l BLK_PERM_SEND
  let l := stkIfLate (bit st 26 && bit send g && bit send (g + 1)) l BLK_STK_PERMDIF
  let l := stkIfLate (bit st 27) l BLK_STK_SELF
  let lost (l : Lane) (m : Nat) : Lane := (List.range 4).foldl (fun l p =>
    if bit m p && fget l (LEG_CFG_TYPE (4 * b.1 + p)) = 1 then cpLost l (fget l (LEG_CFG_COPPICE (4 * b.1 + p))) else l) l
  let l := if newD ≠ 0 then raiseO (lost (stkLate l BLK_STK_DESAT) newD) now 0x41 b newD 0#32 else l
  let l := if newG ≠ 0 then raiseO (lost (stkLate l BLK_STK_GSUP) newG) now 0x42 b newG 0#32 else l
  -- gate permits lost at the brick (R249, R332)
  let l := match timingAxis l b with
    | some a => if bit st 26 && !(bit r.stat 26) && axPeriods l a && !(axSupers l a 9) then axAsk l a 9 else l
    | none => l
  { l with rx := vmod l.rx b fun r => { r with stat := st } }

/-- A brick's SAMPLE frame is consumed, or missing (R281): `ws` is the copy the lanes use; `keep` marks a keep-alive period, whose frame
is not missed from a brick that is ABSENT. -/
def consume (l : Lane) (now : Nat) (b : Brick) (keep : Bool) (ws : Option (List Word)) : Lane :=
  let l := showCounts l b
  let r := vget l.rx b
  let a0 := if r.pri.isSome then 0 else satNat 4 (r.age0 + 1)
  let a1 := if r.sec.isSome then 0 else satNat 4 (r.age1 + 1)
  let l := { l with rx := vset l.rx b { r with pri := none, sec := none, age0 := a0, age1 := a1 } }
  let l := if keep then l else (allFin 4).foldl (fun l p => takeLeg l b ws p) l
  match ws with
  | none => { (if keep && fget l (BLK_BST_STATE b) = 0 then l else fcount l (BLK_MISS_COUNT b)) with rx := vmod l.rx b fun r => { r with vdc := none } }
  | some w =>
    let st := (w.getD 10 0#32).toNat
    let t8 := (w.getD 8 0#32).toNat
    let t9 := (w.getD 9 0#32).toNat
    let ts := [t8 % 65536, t8 / 65536, t9 % 65536, t9 / 65536].map fun v => sInt 16 v
    let vdc := if bit st 20 then some (convCode ((bitsOf (w.getD 7 0#32).toNat 0 16 : Nat) : Int) (fget l (BLK_FSD_FSD b)) 16) else none
    takeStatus { l with rx := vmod l.rx b fun r => { r with vdc := vdc, temps := ts, tbrk := bitsOf st 21 4 } } now b
      (w.getD 0 0#32).toNat st

/-- The copy both lanes use (R17, R18, R281): `oth` is what the peer holds, none in SOLO. The second part: the lane
discards a frame it held. -/
def chooseCopy (r : RxRt) (oth : Option RxRt) : Option (List Word) × Bool :=
  match oth with
  | none => (match r.pri with | some w => some w | none => r.sec, false)
  | some o =>
    if r.pri.isSome && o.pri.isSome then (r.pri, false)
    else if r.sec.isSome && o.sec.isSome then (r.sec, false)
    else (none, r.pri.isSome || r.sec.isSome)

/-- The delays a lane shows: zero while a port is not TIMED (R292). `d0`, `d1` are the link cartridges' values. -/
def showDelays (l : Lane) (b : Brick) (d0 d1 : Nat) : Lane := fset (fset l (BLK_DLY_PDLY b) d0) (BLK_DLY_SDLY b) d1

/-- The lane judges the ports of a brick (R288): `s0`, `s1` say that the link cartridge reports them TIMED or UP. -/
def judgePorts (l : Lane) (now : Nat) (b : Brick) (s0 s1 : Bool) : Lane :=
  let r := vget l.rx b
  let u0 := s0 && bit r.stat 29 && decide (r.age0 < 4)
  let u1 := s1 && bit r.stat 30 && decide (r.age1 < 4)
  let w0 := fon l (BLK_BST_PRIUP b)
  let w1 := fon l (BLK_BST_SECUP b)
  let l := stkIfLate ((w0 && !u0) || (w1 && !u1)) l BLK_STK_PORTDN
  let l := stkIfLate ((!w0 && u0) || (!w1 && u1)) l BLK_STK_PORTUP
  let l := fsetB (fsetB l (BLK_BST_PRIUP b) u0) (BLK_BST_SECUP b) u1
  if (w0 || w1 || fget l (BLK_BST_STATE b) = 3) && !(u0 || u1) then
    raiseO (brickLost (if fget l (BLK_BST_STATE b) = 0 then l else fset l (BLK_BST_STATE b) 1) b) now 0x40 b 0 0#32
  else if (u0 || u1) && fget l (BLK_BST_STATE b) = 1 && r.disc.ok then fset l (BLK_BST_STATE b) 3
  else l

/-- Whether a brick has a used leg. -/
def brickUsed (l : Lane) (b : Nat) : Bool := (List.range 4).any fun p => decide (fget l (LEG_CFG_TYPE (4 * b + p)) ≠ 0)

/-- The live summary BLK_STS (R290). -/
def blkSummary (l : Lane) : Lane :=
  let bs := List.range 32
  let up (b : Nat) : Bool := fon l (BLK_BST_PRIUP b) || fon l (BLK_BST_SECUP b)
  let l := fsetB l BLK_STS_ANYSOLE (bs.any fun b => fget l (BLK_BST_STATE b) = 3 && (fon l (BLK_BST_PRIUP b) != fon l (BLK_BST_SECUP b)))
  let l := fsetB l BLK_STS_ANYLOST (bs.any fun b => brickUsed l b && (fget l (BLK_BST_STATE b) ≠ 3 || !(up b)))
  fsetB l BLK_STS_ANYGOFF (bs.any fun b => fon l (BLK_BST_GOFF b))

/-! ## Discovery and management in a lane (R282 to R286, R291) -/

/-- The capability checks of R286. -/
def capsOk (l : Lane) (b : Brick) (w : List Word) : Bool :=
  let g (j lo n : Nat) : Nat := bitsOf (w.getD j 0#32).toNat lo n
  let legs := g 2 24 4
  let shunts := g 2 28 4
  let vmeas := g 3 0 4
  let ok (p : Nat) : Bool :=
    let n := 4 * b.1 + p
    let t := fget l (LEG_CFG_TYPE n)
    t = 0 || (bit legs p && (!(fon l (LEG_CFG_SHUNT n)) || bit shunts p) && (t ≠ 1 || bit vmeas p))
  let band (j : Nat) : Bool :=
    decide (g 4 0 14 ≤ fget l (LEG_GTB_DT b j)) && decide (fget l (LEG_GTB_DT b j) ≤ g 4 16 14) &&
    bit (g 5 0 16) (fget l (LEG_GTB_GPROF b j))
  (List.range 4).all ok && decide (140 ≤ g 3 20 8) && (List.range 4).all band &&
  (match timingAxis l b with
   | none => true
   | some a => decide (g 3 4 8 * 16 ≤ fget l (AXS_SMP_APERT a) * 5) && decide (g 3 12 8 ≤ fget l (AXS_PRL_MINP a)))

/-- Discovery data changed. -/
def modDisc (l : Lane) (b : Brick) (f : DiscRt → DiscRt) : Lane := { l with rx := vmod l.rx b fun r => { r with disc := f r.disc } }

/-- A brick that fails its discovery (R286): not in READY, it counts as one whose both links are lost. -/
def brickFault (l : Lane) (now : Nat) (b : Brick) (code : Nat) : Lane :=
  let l := modDisc l b fun d => { d with step := 0, ans := none, ok := false }
  let l := fset (fset l (BLK_BST_STATE b) 4) (BLK_BST_FCODE b) code
  raiseO (brickLost (stkIfLate (decide (code = 1)) l BLK_STK_IDMIS) b) now 0x43 b code 0#32

/-- The IDENT fields (R285, R292). -/
def fillIdent (l : Lane) (b : Brick) (w : List Word) : Lane :=
  let g (j lo n : Nat) : Nat := bitsOf (w.getD j 0#32).toNat lo n
  let l := fset (fset l (BLK_ID_VENDOR b) (g 0 0 16)) (BLK_ID_MODEL b) (g 0 16 16)
  let l := fset (fset l (BLK_SN_SERIAL b) (g 1 0 32)) (BLK_CAP_LEGS b) (g 2 24 4)
  let l := fset (fset l (BLK_CAP_SHUNTS b) (g 2 28 4)) (BLK_CAP_VMEAS b) (g 3 0 4)
  fset (fset l (BLK_CAP_APER b) (g 3 4 8)) (BLK_CAP_MINPW b) (g 3 12 8)

/-- The CAL fields. -/
def fillCal (l : Lane) (b : Brick) (w : List Word) : Lane :=
  let l := (List.range 4).foldl (fun l p => fset l (BLK_FSI_FSI b p) (w.getD p 0#32).toNat) l
  fset (fset l (BLK_FSV_FSV b) (w.getD 4 0#32).toNat) (BLK_FSD_FSD b) (w.getD 5 0#32).toNat

/-- The next TAG of a lane (R283): one more per request, modulo 256. -/
def nextTag (l : Lane) : Nat := (l.mtag + 1) % 256

/-- A discovery request is sent under the next TAG. -/
def discSend (l : Lane) (b : Brick) (f : DiscRt → DiscRt) : Lane :=
  { modDisc l b fun d => { f d with ticks := 0, ans := none, tag := nextTag l } with mtag := nextTag l }

/-- One T1 tick of a brick's discovery (R286): a request falls due, or an answer is consumed. -/
def discTick (l : Lane) (now : Nat) (b : Brick) : Lane :=
  let d := (vget l.rx b).disc
  match d.step, d.ans with
  | 1, _ => discSend l b fun d => { d with step := 2 }
  | 2, some (some w) => discSend (fillIdent l b w) b fun d => { d with step := 4, ident := w }
  | 2, some none => brickFault l now b 2
  | 3, _ => discSend l b fun d => { d with step := 4 }
  | 4, some (some w) =>
    let l := fillCal l b w
    if capsOk l b d.ident then
      modDisc (fset (fset l (BLK_BST_STATE b) 3) (BLK_BST_FCODE b) 0) b fun d => { d with step := 0, ans := none, ok := true }
    else brickFault l now b 1
  | 4, some none => brickFault l now b 2
  | 0, _ => l
  | _, none => modDisc l b fun d => { d with ticks := d.ticks + 1 }
  | _, _ => l

/-- The management request's answer is consumed at a T1 tick (R282, R291). -/
def mreqTick (l : Lane) : Lane :=
  match l.mreq with
  | none => l
  | some m =>
    match m.ans with
    | some (res, ws) =>
      let l := fset (fset l BLK_MRSP_STATE 2) BLK_MRSP_RESULT res
      let l := fset (fset l BLK_MRSP_LEN ws.length) BLK_MRSP_BRICK m.brick
      let l := (List.range 14).foldl (fun l j => rset l (BLK_MDAT j) (ws.getD j 0#32)) l
      { l with mreq := none }
    | none => { l with mreq := some { m with ticks := m.ticks + 1 } }

/-- What has had no answer consumed by the second T1 tick after it ends (R286, R291). -/
def mreqOver (l : Lane) (now : Nat) : Lane :=
  let l := match l.mreq with
    | some m => if 2 ≤ m.ticks then { (stkLate (fset l BLK_MRSP_STATE 3) BLK_STK_MTO) with mreq := none } else l
    | none => l
  (allFin 32).foldl (fun (l : Lane) (b : Brick) =>
    let d := (vget l.rx b).disc
    if (d.step = 2 || d.step = 4) && decide (2 ≤ d.ticks) then brickFault l now b 2 else l) l

/-- A program's request starts (R291); while one is busy it is ignored. -/
def mreqStart (l : Lane) (b : Brick) (op arg : Nat) : Lane :=
  if fget l BLK_MRSP_STATE = 1 then stkLate l BLK_STK_MREJ
  else { (fset l BLK_MRSP_STATE 1) with mreq := some { brick := b, op := op, arg := arg, tag := nextTag l, ticks := 0, ans := none }, mtag := nextTag l }

/-- A committed BLK_REDISC repeats IDENT and CAL (R286). -/
def rediscoverLane (l : Lane) (b : Brick) : Lane := modDisc l b fun d => { d with step := 1, ticks := 0, ans := none }

/-! ### Management frames (R282 to R284) -/

/-- The words of a request (R283). -/
def mreqWords (b : Brick) (op arg tag : Nat) : List Word :=
  [wordOf (3 + 2 ^ 4 * b.1 + 2 ^ 16 * (op % 256) + 2 ^ 24 * (tag % 256)), wordOf (arg % 2 ^ 16)]

/-- Whether words are a request that passes the checks of R264 at a brick that adopted `num`. -/
def mreqOk (num : Option (Fin 32)) (ws : List Word) (crc : BitVec 16) : Bool :=
  let w0 := (ws.getD 0 0#32).toNat
  decide (ws.length = 2) && crc16Words ws = crc && bitsOf w0 0 4 = 3 && bitsOf w0 9 7 = 0 &&
  bitsOf (ws.getD 1 0#32).toNat 16 16 = 0 && num.any fun n => decide (n.1 = bitsOf w0 4 5)

/-- The words of an answer (R283). -/
def mrspWords (b : Brick) (op tag res : Nat) (pl : List Word) : List Word :=
  [wordOf (4 + 2 ^ 4 * b.1 + 2 ^ 16 * (op % 256) + 2 ^ 24 * (tag % 256)), wordOf (res % 256 + 2 ^ 8 * (pl.length % 16))] ++ pl

/-- Whether a payload has the length and the reserved fields that R285 gives the answer to `op`; those of DIAG are the brick's own. -/
def payloadOk (op : Nat) (pl : List Word) : Bool :=
  let w (j : Nat) : Nat := (pl.getD j 0#32).toNat
  match op with
  | 2 => decide (pl.length = 6) && bitsOf (w 3) 28 4 = 0 && bitsOf (w 4) 14 2 = 0 && bitsOf (w 4) 30 2 = 0 && bitsOf (w 5) 16 16 = 0
  | 3 => decide (pl.length = 6)
  | 4 => decide (pl.length = 10)
  | 5 | 6 => decide (pl.length = 0)
  | _ => true

/-- Whether words are an answer that passes the checks of R264: length, CRC, TYPE, reserved fields and codes. -/
def mrspOk (ws : List Word) (crc : BitVec 16) : Bool :=
  let w0 := (ws.getD 0 0#32).toNat
  let w1 := (ws.getD 1 0#32).toNat
  decide (2 ≤ ws.length) && decide (ws.length ≤ 16) && crc16Words ws = crc && bitsOf w0 0 4 = 4 && bitsOf w0 9 7 = 0 &&
  bitsOf w1 12 20 = 0 && decide (bitsOf w1 8 4 + 2 = ws.length) && decide (bitsOf w1 0 8 ≤ 2) &&
  (bitsOf w1 0 8 ≠ 0 || payloadOk (bitsOf w0 16 8) (ws.drop 2))

/-- What a brick does with an opcode (R284): its new state, the RESULT and the payload. `own` is what the brick itself holds for IDENT,
CAL and DIAG. -/
def brickExec (op arg : Nat) (own : List Word) (x : BrickRt) : BrickRt × Nat × List Word :=
  match op with
  | 2 | 3 | 7 => (x, 0, own)
  | 4 => (x, 0, x.cnt.toList.map wordOf)
  | 5 => ({ x with cnt := Vector.replicate 10 0 }, 0, [])
  | 6 =>
    -- each leg that is named has its gates off by the frame in force
    let ok := (List.range 4).all fun p => !(bit arg p) ||
      (match x.cur with | some f => decide ((f.legs.getD p legFrameOff).lmode = 1) | none => true)
    if ok then ({ x with desat := x.desat &&& (15 - arg % 16) }, 0, []) else (x, 1, [])
  | _ => (x, 2, [])

/-- A request reaches a brick (R282): executed once per TAG; a repeat of the request with its TAG is answered again without execution. -/
def brickMreq (b : Brick) (ws own : List Word) (x : BrickRt) : BrickRt :=
  let w0 := (ws.getD 0 0#32).toNat
  let op := bitsOf w0 16 8
  let tag := bitsOf w0 24 8
  if x.done.any fun d => decide (d.1 = w0) then x
  else
    let r := brickExec op (bitsOf (ws.getD 1 0#32).toNat 0 16) own x
    { r.1 with done := some (w0, mrspWords b op tag r.2.1 r.2.2) }

/-- A copy of an answer arrives at a lane by port `sec` of brick `b` (R282): discarded as invalid, or held for the next T1 tick. -/
def mrspArrive (l : Lane) (b : Brick) (sec : Bool) (ws : List Word) (crc : BitVec 16) : Lane :=
  if !(mrspOk ws crc) then upDiscard l b sec
  else if bitsOf (ws.getD 0 0#32).toNat 4 5 ≠ b.1 then l
  else { l with rx := vmod l.rx b fun r =>
    if sec then { r with msec := r.msec ++ [ws] } else { r with mpri := r.mpri ++ [ws] } }

/-- The answers both lanes use at a T1 tick (R18, R281, R282): `oth` is what the peer holds, none in SOLO. The second part: the lane
discards an answer it held. -/
def mrspUse (r : RxRt) (oth : Option RxRt) : List (List Word) × Bool :=
  match oth with
  | none => (r.mpri ++ r.msec, false)
  | some o =>
    let use := (r.mpri.filter fun ws => o.mpri.contains ws) ++ r.msec.filter fun ws => o.msec.contains ws
    (use, (r.mpri ++ r.msec).any fun ws => !(use.contains ws))

/-- An answer is matched with the request that waits for it, by OP and TAG (R283). -/
def mrspTake (b : Brick) (l : Lane) (ws : List Word) : Lane :=
  let w0 := (ws.getD 0 0#32).toNat
  let op := bitsOf w0 16 8
  let tag := bitsOf w0 24 8
  let res := bitsOf (ws.getD 1 0#32).toNat 0 8
  let d := (vget l.rx b).disc
  let l := if d.tag = tag && ((d.step = 2 && op = 2) || (d.step = 4 && op = 3)) then
    modDisc l b fun d => { d with ans := some (if res = 0 then some (ws.drop 2) else none) } else l
  match l.mreq with
  | some m => if m.brick = b ∧ m.op = op ∧ m.tag = tag ∧ m.ans = none then { l with mreq := some { m with ans := some (res, ws.drop 2) } } else l
  | none => l

/-- The answers of brick `b` consumed at a T1 tick (R282); `p` is the lane's peer. -/
def mrspTick (p l : Lane) (b : Brick) : Lane :=
  let u := mrspUse (vget l.rx b) (if fon l SYS_STS_SOLO then none else some (vget p.rx b))
  let l := { l with rx := vmod l.rx b fun r => { r with mpri := [], msec := [] } }
  u.1.foldl (mrspTake b) (stkIfLate u.2 l SYS_STK_INDROP)

/-- The request `op` that a lane waits for an answer to from brick `b`: argument and TAG; the argument counts for CLRLATCH and DIAG. -/
def mreqFor (l : Lane) (b : Brick) (op arg : Nat) : Option (Nat × Nat) :=
  let d := (vget l.rx b).disc
  if (d.step = 2 && op = 2) || (d.step = 4 && op = 3) then some (0, d.tag)
  else
    match l.mreq with
    | some m => if m.brick = b ∧ m.op = op ∧ (op < 6 ∨ m.arg = arg) ∧ m.ans = none then some (m.arg, m.tag) else none
    | none => none

/-- Whether a brick can be reached: a port TIMED or UP at both ends, its cartridge present. -/
def brickReach (s : State) (b : Brick) : Bool :=
  (allFin 2).any fun i => let p := portOf s b i
    linkPresent s (linkOf b i) && decide (2 ≤ p.lst) && decide (2 ≤ p.bst)

/-- Whether a brick's port carries frames both ways: TIMED or UP at both ends, its cartridge present. -/
def portCarries (s : State) (b : Brick) (k : Fin 2) : Bool :=
  let p := portOf s b k
  linkPresent s (linkOf b k) && decide (2 ≤ p.lst) && decide (2 ≤ p.bst)

/-- Whether a link cartridge stands at throttle or above, as the lanes grade it (R381). -/
def linkHot (s : State) (k : LinkNo) : Bool :=
  let hot (l : Lane) : Bool := laneRuns l && !(vget l.sens ⟨146 + k.1, by omega⟩).hist.isEmpty && decide (2 ≤ fget l (THM_T_LEVEL (146 + k.1)))
  hot s.la || hot s.lb

/-- Whether a link cartridge forwards a management frame on a port now (R381): at throttle or above, 1 ms after the one before. -/
def mgmtFree (s : State) (b : Brick) (k : Fin 2) (at_ : Option Nat) : Bool :=
  !(linkHot s (linkOf b k)) || at_.all fun t => decide (t + 3200000 ≤ s.now)

/-- Whether a management request goes out on a port (R282, R381). -/
def mreqGoes (s : State) (b : Brick) (op arg : Nat) (k : Fin 2) : Bool :=
  let c := vget s.links (linkOf b k)
  let l := laneOf s c.sel
  portCarries s b k && !c.dark && laneLinks l && (mreqFor l b op arg).isSome && mgmtFree s b k (portOf s b k).mDn

/-- The request that arrives whole at brick `b` by port `k`, from the lane the cartridge's selector names; the second part says that
what arrived is discarded as invalid (R264, R282). -/
def mreqArrives (s : State) (b : Brick) (op arg : Nat) (e : MgmtFaults) (k : Fin 2) : Option (List Word) × Bool :=
  let c := vget s.links (linkOf b k)
  let l := laneOf s c.sel
  if mreqGoes s b op arg k then
    match mreqFor l b op arg with
    | none => (none, false)
    | some (x, tag) =>
      let ws := mreqWords b op x tag
      let d := downFault e.down b k
      match (match d with | some d => copyWords d.copy ws | none => some ws) with
      | none => (none, false)
      | some got =>
        if !(d.any fun d => d.abort) && mreqOk (vget s.bricks b).num got (crc16Words ws) then (some got, false) else (none, true)
  else (none, false)

/-- A request comes to brick `b` by port `k`, or what came is counted as invalid; with an answer `own` the brick carries it out. -/
def mreqReceive (b : Brick) (op arg : Nat) (own : Option (List Word)) (e : MgmtFaults) (s : State) (k : Fin 2) : State :=
  let r := mreqArrives s b op arg e k
  let s := if mreqGoes s b op arg k then modPort s b k fun p => { p with mDn := some s.now } else s
  match r with
  | (_, true) => modBrick s b (brickDiscard k)
  | (some ws, _) => match own with | some pl => modBrick s b (brickMreq b ws pl) | none => s
  | (none, _) => s

/-- The copy of an answer for lane `i` by port `k`. -/
def upCopy (e : MgmtFaults) (i : LaneId) (k : Fin 2) : Copy :=
  match e.up.find? fun u => decide (u.lane = i) && u.sec == decide (k = 1) with | some u => u.copy | none => .whole

/-- An answer goes up by each port that carries frames, and a copy reaches each lane that takes part (R282). -/
def mrspSend (b : Brick) (e : MgmtFaults) (ws : List Word) (s : State) : State :=
  let take (i : LaneId) (k : Fin 2) (l : Lane) : Lane :=
    match copyWords (upCopy e i k) ws with
    | some got => if laneLinks l then mrspArrive l b (decide (k = 1)) got (crc16Words ws) else l
    | none => l
  (allFin 2).foldl (fun (s : State) (k : Fin 2) =>
    if portCarries s b k && mgmtFree s b k (portOf s b k).mUp then
      { (modPort s b k fun p => { p with mUp := some s.now }) with la := take .A k s.la, lb := take .B k s.lb }
    else s) s

/-- A request `op` of the lanes to brick `b` with its answer (R282): it is started when none is under way, goes out on both ports, and the
answer waits in the lanes for the next T1 tick. `own` is the brick's own payload, or none when it gives no answer. -/
def manage (s : State) (b : Brick) (op arg : Nat) (own : Option (List Word)) (e : MgmtFaults) : State :=
  let s := inRunning (fun l => if (mreqFor l b op arg).isSome then l else mreqStart l b op arg) s
  let asked := (allFin 2).any fun k => (mreqArrives s b op arg e k).1.isSome
  let s := (allFin 2).foldl (mreqReceive b op arg own e) s
  match (vget s.bricks b).done with
  | some d => if asked && own.isSome then mrspSend b e d.2 s else s
  | none => s

end Sys2Proof.Machine
end

