-- ==== Sys2Proof/Machine/Fbk.lean ====
section
/-!
DEFINITION. Position and speed feedback in a lane (chapter 9): the line filters, quadrature, index, SSI and Hall decoding,
speed, channel faults, probe, compare and pulse output. One Field clock is 32 edge ticks; `k0` is the number of the first
Field clock of the frame that is processed.
-/
namespace Sys2Proof.Machine

/-- The lane with the run data of a channel changed. -/
def modChan (l : Lane) (e : FbkCh) (f : ChanRt → ChanRt) : Lane := { l with chans := vmod l.chans e f }

/-! ## Lines (R293, R294) -/

/-- A line passes its filter of `n` clocks over runs of raw levels (R294): the line after them, and the filter's changes as
(clock of the frame, new level), in order. -/
def filterRuns (n : Nat) (runs : List (Nat × Bool)) (c : Nat) (x : LineRt) (out : List (Nat × Bool)) : LineRt × List (Nat × Bool) :=
  match runs with
  | [] => (x, out)
  | (m, v) :: t =>
    if m = 0 then filterRuns n t c x out
    else
      let held := if v = x.raw then x.held else 0
      let due := max n 1
      let fires := v != x.flt && decide (due ≤ held + m) && decide (held < due)
      let x2 : LineRt := { raw := v, held := satNat 65536 (held + m), flt := if fires then v else x.flt }
      filterRuns n t (c + m) x2 (if fires then out ++ [(c + (due - held) - 1, v)] else out)

/-- The runs of one line of a channel. -/
def lineRuns (d : ChanFrame) (j : Nat) : List (Nat × Bool) := d.runs.map fun r => (r.1, r.2.getLsbD j)

/-- A clock of the frame at which something changes: the filtered lines' new levels, where they change. -/
structure ClkEv where
  c  : Nat
  a  : Option Bool
  b  : Option Bool
  z  : Option Bool
  p  : Option Bool
  deriving DecidableEq, Repr

/-- The event list with one line's change merged into it, clocks rising. -/
def evPut (evs : List ClkEv) (c : Nat) (f : ClkEv → ClkEv) : List ClkEv :=
  match evs with
  | [] => [f { c := c, a := none, b := none, z := none, p := none }]
  | e :: t => if c < e.c then f { c := c, a := none, b := none, z := none, p := none } :: e :: t
    else if e.c = c then f e :: t else e :: evPut t c f

/-- The changes of the four counted lines as one list of clocks. -/
def evMerge (a b z p : List (Nat × Bool)) : List ClkEv :=
  let e := a.foldl (fun es x => evPut es x.1 fun e => { e with a := some x.2 }) []
  let e := b.foldl (fun es x => evPut es x.1 fun e => { e with b := some x.2 }) e
  let e := z.foldl (fun es x => evPut es x.1 fun e => { e with z := some x.2 }) e
  p.foldl (fun es x => evPut es x.1 fun e => { e with p := some x.2 }) e

/-! ## Compare (R307 to R310) -/

/-- The compare of channel `e` fires on a crossing at instant `t` (R308). `u` is the instant of the event that the output follows
(R307). -/
def compareFire (l : Lane) (now t u : Nat) (e : FbkCh) : Lane :=
  let x := vget l.chans e
  let late := match x.xcEnd with | some v => decide (u < v) | none => false
  let l := stkIfLate late (stkLate (rset l (FBK_CTS e) (wordOf (tbCode l t))) FBK_STK_CMPFIRE) FBK_STK_CMPOVL
  let w := 3200 * fget l (FBK_CMC_CPW e)
  ask (raiseO (modChan l e fun x => { x with xcEnd := some (u + w) }) now 0x4A e 0 0#32) (.compare e u w)

/-- What follows a firing of the setting in force (R308): CINC advances CPOS, or the compare disarms. -/
def compareNext (l : Lane) (e : FbkCh) : Lane :=
  let inc := fgetI l (FBK_CINC_CINC e)
  if inc = 0 then fset l (FBK_CMC_DIR e) 0 else fsetI l (FBK_CMP_CPOS e) (fgetI l (FBK_CMP_CPOS e) + inc)

/-- Whether counted motion from `x` to `y` crosses `pos` in a direction that `dir` arms (R308). -/
def crosses (dir : Nat) (pos x y : Int) : Bool :=
  (bit dir 0 && decide (x < pos) && decide (pos ≤ y)) || (bit dir 1 && decide (pos < x) && decide (y ≤ pos))

/-- Counted motion from `x` to `y` at instant `t` is compared under the setting in force (R308); `u` as in compareFire. -/
def compareStep (l : Lane) (now t u : Nat) (e : FbkCh) (x y : Int) : Lane :=
  if crosses (fget l (FBK_CMC_DIR e)) (fgetI l (FBK_CMP_CPOS e)) x y then compareNext (compareFire l now t u e) e else l

/-- A position is judged at the commit instant `t` that arms the compare or moves CPOS, by the count of that instant (R309). -/
def compareArmed (l : Lane) (now t : Nat) (e : FbkCh) : Lane :=
  let dir := fget l (FBK_CMC_DIR e)
  let x := fgetI l (FBK_CNT_CNT e)
  let pos := fgetI l (FBK_CMP_CPOS e)
  let upw := if dir = 3 then decide (0 ≤ fgetI l (FBK_VEL_VEL e)) else decide (dir = 1)
  let behind := if upw then decide (pos ≤ x) else decide (x ≤ pos)
  if dir ≠ 0 ∧ behind then
    let l := stk l FBK_STK_CMPBEHIND
    if fon l (FBK_CMC_FIREPASSED e) then compareNext (compareFire l now t t e) e else l
  else l

/-- The registers of a compare take the words of a commit. -/
def compareWrite (l : Lane) (e : FbkCh) (c : CmpCommit) : Lane :=
  let l := match c.cmp with | some w => rset l (FBK_CMP e) w | none => l
  let l := match c.cinc with | some w => rset l (FBK_CINC e) w | none => l
  match c.cmc with
  | some w =>
    let v := w.toNat
    fset (fset (fset l (FBK_CMC_DIR e) (bitsOf v 0 2)) (FBK_CMC_FIREPASSED e) (bitsOf v 2 1)) (FBK_CMC_CPW e) (bitsOf v 4 12)
  | none => l

/-- What a commit of the same instant as an earlier one adds to it. -/
def CmpCommit.join (c d : CmpCommit) : CmpCommit :=
  { at_ := c.at_, cmp := d.cmp <|> c.cmp, cmc := d.cmc <|> c.cmc, cinc := d.cinc <|> c.cinc }

/-- A commit to the compare of channel `e` (R308 to R310): the registers show it, and it waits for the consumption of the field frame
under way, which judges it against the motion of that frame. -/
def compareCommit (l : Lane) (e : FbkCh) (c : CmpCommit) : Lane :=
  let b : CmpSet := { cmp := rget l (FBK_CMP e), cmc := rget l (FBK_CMC e), cinc := rget l (FBK_CINC e) }
  let q := (vget l.chans e).cmpQ
  let q2 := match q.getLast? with | some d => if d.at_ = c.at_ then q.dropLast ++ [d.join c] else q ++ [c] | none => [c]
  let l := compareWrite (modChan l e fun ch => { ch with cbase := some (ch.cbase.getD b), cmpQ := q2 }) e c
  fsetB l (FBK_CHST_ARMED e) (fon l (FBK_CMC_DIR e))

/-- A commit takes effect on the compare among the motion of its frame (R309, R310). -/
def compareTake (now : Nat) (e : FbkCh) (l : Lane) (c : CmpCommit) : Lane :=
  let p0 := fgetI l (FBK_CMP_CPOS e)
  let l := compareWrite l e c
  if c.cmc.isSome || fgetI l (FBK_CMP_CPOS e) ≠ p0 then compareArmed l now c.at_ e else l

/-- The commits before instant `t` take effect (R310). -/
def compareUpTo (l : Lane) (now t : Nat) (e : FbkCh) : Lane :=
  let q := (vget l.chans e).cmpQ
  (q.filter fun c => decide (c.at_ < t)).foldl (compareTake now e)
    (modChan l e fun ch => { ch with cmpQ := q.filter fun c => decide (t ≤ c.at_) })

/-- A consumption begins with the setting of the one before (R310). -/
def compareRewind (l : Lane) (e : FbkCh) : Lane :=
  match (vget l.chans e).cbase with
  | some b => modChan (rset (rset (rset l (FBK_CMP e) b.cmp) (FBK_CMC e) b.cmc) (FBK_CINC e) b.cinc) e fun ch => { ch with cbase := none }
  | none => l

/-! ## Counting (R295 to R297, R300, R302) -/

/-- The count changes by `d`; a wrap is noted (R301). -/
def countAdd (l : Lane) (e : FbkCh) (d : Int) : Lane :=
  let y := fgetI l (FBK_CNT_CNT e) + d
  stkIfLate (decide (y < -2147483648 ∨ 2147483647 < y)) (fsetI l (FBK_CNT_CNT e) y) FBK_STK_WRAP

/-- The count moves by `d` at clock `k` (a counted edge or change): wrap, sample point, compare, and the pulse outputs' motion list.
`u` is the clock of the event that the outputs follow (R307). -/
def countMove (l : Lane) (now : Nat) (e : FbkCh) (k u : Nat) (d : Int) : Lane :=
  let l := compareUpTo l now (32 * u) e
  let x := fgetI l (FBK_CNT_CNT e)
  let l := countAdd l e d
  let l := modChan l e fun ch => { ch with pts := (fgetI l (FBK_CNT_CNT e), k) :: ch.pts, moves := ch.moves ++ [(32 * u, d)] }
  compareStep l now (32 * k) (32 * u) e x (x + d)

/-- The count is set without motion (R296, R297): the speed history moves with it, no compare fires. Commits before it are judged by
the count before it (R309). -/
def countShift (l : Lane) (now : Nat) (e : FbkCh) (k : Nat) (d : Int) : Lane :=
  let l := countAdd (compareUpTo l now (32 * k) e) e d
  modChan l e fun ch => { ch with pts := ch.pts.map fun p => (p.1 + d, p.2), moves := ch.moves ++ [(32 * k, d)] }

/-- The signed 32-bit difference of two counts. -/
def cntDiff (x y : Int) : Int := sInt 32 (uCode 32 (x - y))

/-- A channel becomes faulty (R304): an existing cause stands. -/
def chanFault (l : Lane) (now : Nat) (e : FbkCh) (cause : Nat) : Lane :=
  if fget l (FBK_CHST_STATE e) = 2 then l
  else
    let l := fset (fset l (FBK_CHST_STATE e) 2) (FBK_CHST_CAUSE e) cause
    raiseO (stkLate l FBK_STK_CHFLT) now 0x48 e cause 0#32

/-- An index event at clock `k` (R296, R297). The second part says that the index policy faults the channel. -/
def indexEvent (l : Lane) (now : Nat) (e : FbkCh) (k : Nat) : Lane × Bool :=
  let x := fgetI l (FBK_CNT_CNT e)
  let cpr : Int := ((fget l (FBK_CPR_CPR e) : Nat) : Int)
  match (vget l.chans e).cidx with
  | none =>
    if fon l (FBK_CFG_IREF e) then
      let l := countShift l now e k (cntDiff (fgetI l (FBK_IPOS_IPOS e)) x)
      (modChan (fsetB l (FBK_CHST_IREFD e) true) e fun ch => { ch with cidx := some (fgetI l (FBK_CNT_CNT e)) }, false)
    else (modChan l e fun ch => { ch with cidx := some x }, false)
  | some r =>
    let m := if cpr = 0 then 0 else cntDiff x r % cpr
    let er := if cpr ≤ 2 * m then m - cpr else m
    if er.natAbs ≤ fget l (FBK_IDX_ITOL e) then (modChan l e fun ch => { ch with cidx := some x }, false)
    else
      let l := stkLate (fsetI l (FBK_IERR_IERR e) er) FBK_STK_INDEXERR
      match fget l (FBK_CFG_IPOL e) with
      | 1 => (modChan l e fun ch => { ch with cidx := some (sInt 32 (uCode 32 (x - er))), corr := some (k + 1, -er) }, false)
      | 2 => (modChan l e fun ch => { ch with cidx := some x }, true)
      | _ => (modChan l e fun ch => { ch with cidx := some x }, false)

/-- A correction due by clock `k` is made (R297). -/
def corrDue (l : Lane) (now : Nat) (e : FbkCh) (k : Nat) : Lane :=
  match (vget l.chans e).corr with
  | some (j, d) => if j ≤ k then countShift (modChan l e fun ch => { ch with corr := none }) now e j d else l
  | none => l

/-- The count has moved beyond CPR + ITOL from the reference without an index event (R296). -/
def indexMissing (l : Lane) (e : FbkCh) : Lane × Bool :=
  match (vget l.chans e).cidx with
  | none => (l, false)
  | some r =>
    let cpr : Int := ((fget l (FBK_CPR_CPR e) : Nat) : Int)
    let d := cntDiff (fgetI l (FBK_CNT_CNT e)) r
    if cpr + ((fget l (FBK_IDX_ITOL e) : Nat) : Int) < ((d.natAbs : Nat) : Int) then
      let l := modChan (stkLate l FBK_STK_INDEXMISS) e fun ch => { ch with cidx := some (if 0 ≤ d then r + cpr else r - cpr) }
      (l, decide (fget l (FBK_CFG_IPOL e) = 2))
    else (l, false)

/-- A filtered probe edge at clock `k` (R306): it needs a PARM before it, and later ones arm the probe anew. -/
def probeEdge (l : Lane) (now : Nat) (e : FbkCh) (k : Nat) (v : Bool) : Lane :=
  let want := !(fon l (FBK_CFG_PEDGE e))
  let arms := (vget l.chans e).arms
  if fon l (FBK_CHST_PARMD e) && v == want && arms.any (fun t => decide (t < 32 * k)) then
    let rest := arms.filter fun t => decide (32 * k ≤ t)
    let l := modChan l e fun ch => { ch with arms := rest }
    let l := rset l (FBK_PRB e) (rget l (FBK_CNT e))
    let l := rset l (FBK_PRT e) (wordOf (uCode 32 ((32 * k : Nat) - (32 * fget l (FBK_CFG_NPRB e) + l.tb0 : Nat) : Int)))
    raiseO (stkLate (fsetB l (FBK_CHST_PARMD e) (!rest.isEmpty)) FBK_STK_PROBE) now 0x49 e 0 0#32
  else l

/-- One clock of an incremental channel (R295, R296, R306): quadrature, index, probe. `a`, `b` are the filtered levels
before it; the last part says that the index policy faults the channel. -/
def quadClock (now k0 : Nat) (e : FbkCh) (acc : (Lane × Bool × Bool) × Bool) (v : ClkEv) : (Lane × Bool × Bool) × Bool :=
  let ((l, a, b), ff) := acc
  let k := k0 + v.c
  let l := corrDue l now e k
  let sg : Int := if fon l (FBK_CFG_DIRINV e) then -1 else 1
  let l := match v.a, v.b with
    | some _, some _ => modChan (fcount (stkLate l FBK_STK_QERR) (FBK_ERRC_ERRS e)) e fun ch => { ch with nQ := ch.nQ + 1 }
    | some a2, none => countMove l now e k k (if a2 != b then sg else -sg)
    | none, some b2 => countMove l now e k k (if b2 == a then sg else -sg)
    | none, none => l
  let probed := match v.p with | some p => probeEdge l now e k p | none => l
  let (l, f1) :=
    if fon l (FBK_CFG_ZEN e) then
      (if v.z = some true then indexEvent probed now e k else indexMissing probed e)
    else (probed, false)
  ((l, v.a.getD a, v.b.getD b), ff || f1)

/-- The place of a Hall state in the forward order (R300); `none` for 0b000 and 0b111. -/
def hallIndex (h : Nat) : Option Nat :=
  match h with
  | 1 => some 0 | 3 => some 1 | 2 => some 2 | 6 => some 3 | 4 => some 4 | 5 => some 5
  | _ => none

/-- One clock of a Hall channel (R300, R306). The levels before it are bits 0 to 2 of the second part; the third says that the state has
been legal at some clock of the frame. -/
def hallClock (now k0 : Nat) (e : FbkCh) (acc : Lane × Nat × Bool) (v : ClkEv) : Lane × Nat × Bool :=
  let (l, h, legal) := acc
  let k := k0 + v.c
  let put (h j : Nat) (o : Option Bool) : Nat := match o with | some x => setBits h j 1 (b2n x) | none => h
  let h2 := put (put (put h 0 v.a) 1 v.b) 2 v.z
  let sg : Int := if fon l (FBK_CFG_DIRINV e) then -1 else 1
  let l := if h2 = h then l
    else match hallIndex h2 with
      | none => stkLate l FBK_STK_HALLERR
      | some i =>
        let move (l : Lane) (d : Int) : Lane := modChan (countMove l now e k k (sg * d)) e fun ch => { ch with ts := 32 * k }
        let l := match (vget l.chans e).hall with
          | none => l
          | some j =>
            match (i + 6 - j) % 6 with
            | 1 => move l 1
            | 5 => move l (-1)
            | 2 => move (stkLate l FBK_STK_HALLSEQ) 2
            | 4 => move (stkLate l FBK_STK_HALLSEQ) (-2)
            | 3 => stkLate l FBK_STK_HALLSEQ
            | _ => l
        modChan l e fun ch => { ch with hall := some i }
  let l := match v.p with | some p => probeEdge l now e k p | none => l
  (l, h2, legal || (hallIndex h2).isSome)

/-! ## SSI (R298, R299) -/

/-- The filtered data level of a transfer at Field clock `k`. -/
def ssiLevel (x : SsiRt) (k : Nat) : Bool := x.chg.foldl (fun v c => if c.1 ≤ k then c.2 else v) x.lv0

/-- The transfer's last falling edge. -/
def ssiLast (l : Lane) (e : FbkCh) (x : SsiRt) : Nat := x.t0 + fget l (FBK_SSI_NBIT e) * (2 * fget l (FBK_SSI_DIVC e))

/-- The clock of the monoflop check. -/
def ssiMono (l : Lane) (e : FbkCh) (x : SsiRt) : Nat := ssiLast l e x + 100 * fget l (FBK_SS2_MONO e)

/-- The clock at which all of the word is known: its last bit and its monoflop check. -/
def ssiDone (l : Lane) (e : FbkCh) (x : SsiRt) : Nat := max (ssiMono l e x) (ssiLast l e x + fget l (FBK_SS2_DLY e))

/-- The clock at which bit `j` of the word, counted from the first, is read (R298). -/
def ssiBitAt (l : Lane) (e : FbkCh) (x : SsiRt) (j : Nat) : Nat :=
  x.t0 + (j + 1) * (2 * fget l (FBK_SSI_DIVC e)) + fget l (FBK_SS2_DLY e)

/-- The word read: the first bit is bit NBIT − 1 (R298). -/
def ssiWord (l : Lane) (e : FbkCh) (x : SsiRt) : Nat :=
  (List.range (fget l (FBK_SSI_NBIT e))).foldl (fun w j =>
    2 * w + b2n (ssiLevel x (ssiBitAt l e x j))) 0

/-- The CRC of bits `hi − 1` to `lo` of `w` (R299): initial value zero, most significant bit first. -/
def ssiCrc (poly n w lo hi : Nat) : Nat :=
  ((List.range (hi - lo)).foldl (fun c j =>
    let top := bit c (n - 1) != bit w (hi - 1 - j)
    let s := 2 * c % 2 ^ n
    if top then s ^^^ (poly % 2 ^ n) else s) 0)

/-- Gray to binary over `n` bits (R299). -/
def grayDecode (n g : Nat) : Nat := (List.range n).foldl (fun v j => v ^^^ (g / 2 ^ j)) 0

/-- The position field of a word (R299). -/
def ssiField (l : Lane) (e : FbkCh) (w : Nat) : Nat :=
  let n := fget l (FBK_SSI_PLEN e)
  let f := bitsOf w (fget l (FBK_SSI_PLSB e)) n
  if fon l (FBK_SSI_GRAY e) then grayDecode n f % 2 ^ n else f

/-- The first check a word fails (R299), as the lane with its flag set; `none` for a good word. -/
def ssiCheck (l : Lane) (e : FbkCh) (x : SsiRt) (w : Nat) : Option Lane :=
  let n := fget l (FBK_SSI_NBIT e)
  let cl := fget l (FBK_SS3_CLEN e)
  let c0 := ssiCrc (fget l (FBK_SS3_CPOLY e)) cl w cl n
  let crc := if fon l (FBK_SS3_CINV e) then 2 ^ cl - 1 - c0 else c0
  let jump := match (vget l.chans e).good with
    | some g =>
      let pl := fget l (FBK_SSI_PLEN e)
      let d := sInt pl (uCode pl (((ssiField l e w : Nat) : Int) - ((g : Nat) : Int)))
      fon l (FBK_IDX_ITOL e) && decide (fget l (FBK_IDX_ITOL e) < d.natAbs)
    | none => false
  if x.gap then some l
  else if !(ssiLevel x x.t0) then some (stkLate l FBK_STK_SSITO)
  else if !(ssiLevel x (ssiMono l e x)) then some (stkLate l FBK_STK_SSITO)
  else if cl ≠ 0 ∧ crc ≠ bitsOf w 0 cl then some (stkLate l FBK_STK_SSICRC)
  else if fon l (FBK_SSI_EEN e) && bitsOf w (fget l (FBK_SS2_EBIT e)) 1 = fget l (FBK_SSI_EPOL e) then some (stkLate l FBK_STK_SSIEBIT)
  else if jump then some (stkLate l FBK_STK_SSIJUMP)
  else none

/-- A word is decoded (R299). -/
def ssiDecode (l : Lane) (now : Nat) (e : FbkCh) (x : SsiRt) : Lane :=
  let w := ssiWord l e x
  match ssiCheck l e x w with
  | some l => modChan (fcount l (FBK_ERRC_ERRS e)) e fun ch => { ch with nBad := ch.nBad + 1 }
  | none =>
    let f := ssiField l e w
    let pl := fget l (FBK_SSI_PLEN e)
    let l := match (vget l.chans e).good with
      | some g => countMove l now e x.t0 (ssiDone l e x) (sInt pl (uCode pl (((f : Nat) : Int) - ((g : Nat) : Int))))
      | none =>
        -- a pulse output's target follows the count that is set here, too (R311)
        let l := compareUpTo l now (32 * ssiDone l e x) e
        let d := cntDiff (sInt 32 f) (fgetI l (FBK_CNT_CNT e))
        let l := fset l (FBK_CNT_CNT e) f
        modChan l e fun ch => { ch with
          pts := (fgetI l (FBK_CNT_CNT e), x.t0) :: ch.pts, moves := if d = 0 then ch.moves else ch.moves ++ [(32 * ssiDone l e x, d)] }
    modChan l e fun ch => { ch with nBad := 0, good := some f, ts := 32 * x.t0 }

/-- Probe edges of an SSI channel in its frame (R306). -/
def ssiProbe (now k0 : Nat) (e : FbkCh) (l : Lane) (es : List (Nat × Bool)) : Lane :=
  es.foldl (fun l p => probeEdge l now e (k0 + p.1) p.2) l

/-- An SSI channel takes the data line's changes of the frame, and decodes every word that is complete in it, oldest first; a later
transfer may have begun before. Probe edges `pr` latch the count of their clock. `gap` marks a repeated frame, into which a bit of a word
may fall (R303). -/
def ssiFrame (l : Lane) (now k0 : Nat) (e : FbkCh) (chg pr : List (Nat × Bool)) (gap : Bool) : Lane :=
  let xs := (vget l.chans e).ssi.map fun x =>
    let hit := (List.range (fget l (FBK_SSI_NBIT e))).any fun j =>
      decide (k0 ≤ ssiBitAt l e x j) && decide (ssiBitAt l e x j < k0 + 500)
    { x with chg := x.chg ++ chg.map (fun c => (k0 + c.1, c.2)), gap := x.gap || (gap && hit) }
  let done (x : SsiRt) : Bool := decide (ssiDone l e x < k0 + 500)
  let l := modChan l e fun ch => { ch with ssi := xs.filter fun x => !(done x) }
  let r := (xs.filter done).foldl (fun (acc : Lane × List (Nat × Bool)) x =>
    let before := fun (p : Nat × Bool) => decide (k0 + p.1 < ssiDone acc.1 e x)
    (ssiDecode (ssiProbe now k0 e acc.1 (acc.2.filter before)) now e x, acc.2.filter fun p => !(before p))) (l, pr)
  ssiProbe now k0 e r.1 r.2

/-! ## Speed and publication (R301, R302) -/

/-- The sample points the speed still needs: those up to the latest one at least SWIN frames older than the first. -/
def trimPts (k : Nat) (pts : List (Int × Nat)) : List (Int × Nat) :=
  match pts with
  | [] => []
  | p :: t => if p.2 ≤ k then [p] else p :: trimPts k t

/-- The speed of a channel at Field clock `tn`, in counts per Field clock (R302). -/
def chanSpeed (l : Lane) (e : FbkCh) (tn : Nat) : Rat :=
  match (vget l.chans e).pts with
  | [] => 0
  | p1 :: rest =>
    match rest.find? fun p => decide (p.2 + 500 * fget l (FBK_VCF_SWIN e) ≤ p1.2) with
    | none => 0
    | some p0 =>
      let v : Rat := mkRat (cntDiff p1.1 p0.1) (p1.2 - p0.2)
      if fget l (FBK_CFG_TYPE e) = 2 then v
      else
        let dt : Nat := tn - p1.2
        let v := if v ≠ 0 ∧ 1 < (dt : Rat) * rabs v then rsign v / (dt : Rat) else v
        if 100000 * fget l (FBK_VCF_SZERO e) < dt then 0 else v

/-- The channel publishes at the end `now` of the frame (R301, R302). -/
def chanPublish (l : Lane) (now : Nat) (e : FbkCh) : Lane :=
  let cpr := fget l (FBK_CPR_CPR e)
  let ty := fget l (FBK_CFG_TYPE e)
  let l := modChan l e fun ch => match ch.pts with
    | [] => ch
    | p :: _ => { ch with pts := trimPts (p.2 - 500 * fget l (FBK_VCF_SWIN e)) ch.pts }
  let v := chanSpeed l e (now / 32)
  let l := fsetI l (FBK_TURN_TURN e) (fixRat 16 (qdiv (fgetI l (FBK_CNT_CNT e) : Rat) (cpr : Rat)))
  let l := fsetI l (FBK_VEL_VEL e) (fixRat 16 (qdiv (v * 6000000000) (cpr : Rat)))
  let ts : Int := if ty = 1 then (now : Int) - ((32 * fget l (FBK_CFG_NFLT e) : Nat) : Int) else (((vget l.chans e).ts : Nat) : Int)
  let l := fset l (FBK_TS_TS e) (uCode 32 (ts - (l.tb0 : Int)))
  let h := (vget l.chans e).lines
  let l := if ty = 3 then fset l (FBK_CHST_HALL e) (b2n (vget h 0).flt + 2 * b2n (vget h 1).flt + 4 * b2n (vget h 2).flt) else l
  fsetB l (FBK_CHST_ARMED e) (fon l (FBK_CMC_DIR e))

/-! ## Channel faults (R304, R305) -/

/-- The slot S`n` counts as present in a lane (R34, R35). -/
def slotUp (l : Lane) (n : Nat) : Bool := bit (fget l SYS_CART_PRES) n && bit (fget l SYS_CART_OK) n

/-- The causes present in a channel apart from an index fault, lowest first (R304). -/
def chanCauses (l : Lane) (e : FbkCh) : List Nat :=
  let ch := vget l.chans e
  let ty := fget l (FBK_CFG_TYPE e)
  (if 2 ≤ ch.nOpen then [1] else []) ++ (if 4 ≤ ch.nQ then [2] else []) ++
  (if ty = 2 ∧ ch.nBad ≠ 0 ∧ fget l (FBK_VCF_NERR e) ≤ ch.nBad then [4] else []) ++
  (if ty = 3 ∧ 2 ≤ ch.nHall then [5] else []) ++ (if ch.gapV then [6] else []) ++
  (if slotUp l (8 + e.1 / 8) then [] else [7]) ++ (if ch.supply then [8] else [])

/-- The causes of a frame are judged. -/
def chanJudge (l : Lane) (now : Nat) (e : FbkCh) (idx : Bool) : Lane :=
  let cs := chanCauses l e
  let lo := cs.headD 16
  let c := if idx && decide (3 < lo) then 3 else lo
  if c < 16 then chanFault l now e c else l

/-- A committed CCMD.CLR (R305). -/
def chanClear (l : Lane) (e : FbkCh) : Lane :=
  let c := fget l (FBK_CHST_CAUSE e)
  if fget l (FBK_CHST_STATE e) = 2 ∧ (chanCauses l e).isEmpty then
    let l := fset (fset l (FBK_CHST_STATE e) 1) (FBK_CHST_CAUSE e) 0
    let l := modChan l e fun ch => { ch with good := none }
    if c = 1 ∨ c = 2 ∨ c = 6 ∨ c = 7 then modChan (fsetB l (FBK_CHST_IREFD e) false) e fun ch => { ch with cidx := none } else l
  else stk l FBK_STK_CLRIGN

/-- A committed CCMD.PARM (R306). -/
def probeArm (l : Lane) (now : Nat) (e : FbkCh) : Lane :=
  if fget l (FBK_CFG_NPRB e) = 0 then l
  else modChan (fsetB l (FBK_CHST_PARMD e) true) e fun ch => { ch with arms := ch.arms ++ [now] }

/-! ## Pulse outputs (R311) -/

/-- The ratio word in force for counts at instant `t`: the latest one committed before it (R311). -/
def ratioAt (l : Lane) (n : FbkCh) (t : Nat) : Nat :=
  match (vget l.chans n).rats.find? fun r => decide (r.1 < t) with
  | some r => r.2
  | none => (rget l (FBK_POUT n)).toNat

/-- The target of a pulse output follows motion `d` of its source under the ratio word `w`. -/
def pulseMove (w : Nat) (d : Int) (ch : ChanRt) : ChanRt :=
  let num := sInt 16 (w % 65536)
  let den : Int := ((w / 65536 : Nat) : Int)
  if num = 0 ∨ den = 0 then ch
  else
    let a := ch.pRem + d * num
    { ch with pTgt := ch.pTgt + a / den, pRem := a % den }

/-- A pulse output emits its edges up to instant `t`: one at a time towards its target, at 10 MHz (R311). The second part lists them. -/
def pulseEmit (t : Nat) (ch : ChanRt) : ChanRt × List (Nat × Bool) :=
  let gap := (ch.pTgt - ch.pOut).natAbs
  let n := if ch.pNext ≤ t then min gap ((t - ch.pNext) / 320 + 1) else 0
  let up := decide (ch.pOut < ch.pTgt)
  ({ ch with pOut := if up then ch.pOut + n else ch.pOut - n, pNext := ch.pNext + 320 * n },
   (List.range n).map fun j => (ch.pNext + 320 * j, up))

/-- A pulse output's source moves at instant `m.1`: 12 µs later the target moves, after the edges due before (R307, R311). The last part
says that the output falls more than 64 counts behind. -/
def pulseStep (l : Lane) (n : FbkCh) (acc : (ChanRt × List (Nat × Bool)) × Bool) (m : Nat × Int) : (ChanRt × List (Nat × Bool)) × Bool :=
  let w := ratioAt l n m.1
  let u := m.1 + 38400
  let r := pulseEmit (u - 1) acc.1.1
  let ch := pulseMove w m.2 r.1
  let ch := if ch.pTgt = r.1.pTgt then ch else { ch with pNext := max ch.pNext u }
  ((ch, acc.1.2 ++ r.2), acc.2 || (decide (w % 65536 ≠ 0) && decide (64 < (ch.pTgt - ch.pOut).natAbs)))

/-- Channel `n`'s pulse output follows the frame of its source that ends at `now` (R311). -/
def pulseFrame (l : Lane) (now : Nat) (n : FbkCh) (moves : List (Nat × Int)) : Lane :=
  let r := moves.foldl (pulseStep l n) ((vget l.chans n, []), false)
  -- edges of counts before a commit of NUM = 0 are still emitted
  let z := pulseEmit (now + 38400) r.1.1
  let edges := r.1.2 ++ z.2
  let l := stkIfLate r.2 { l with chans := vset l.chans n z.1 } FBK_STK_PLAG
  if edges.isEmpty then l else ask l (.pulse n edges)

/-- The ratios that counts may still need: an SSI word comes at most 255 field frames after its start (R298). -/
def trimRats (from_ : Nat) (r : List (Nat × Nat)) : List (Nat × Nat) :=
  match r with
  | [] => []
  | x :: t => if x.1 < from_ then [x] else x :: trimRats from_ t

/-- A committed ratio (R311). -/
def pulseCommit (l : Lane) (now : Nat) (n : FbkCh) (w : Word) : Lane :=
  let num := sInt 16 (w.toNat % 65536)
  let den := w.toNat / 65536
  if den = 0 ∨ den < num.natAbs then stk l FBK_STK_RATIO
  else
    let r := (vget l.chans n).rats
    let r := if r.isEmpty then [(0, (rget l (FBK_POUT n)).toNat)] else r
    rset (modChan l n fun ch => { ch with rats := (now, w.toNat) :: trimRats (now - 4080000) r }) (FBK_POUT n) w

/-! ## A field frame (R293, R303) -/

/-- The lines of a channel in use (R304): A, B, and Z with ZEN; SSI data; every Hall line. -/
def linesUsed (l : Lane) (e : FbkCh) : List Nat :=
  match fget l (FBK_CFG_TYPE e) with
  | 1 => if fon l (FBK_CFG_ZEN e) then [0, 1, 2] else [0, 1]
  | 2 => [4]
  | 3 => [0, 1, 2]
  | _ => []

/-- A channel's part of an intact frame that ends at `now`. -/
def chanFrame (l : Lane) (now : Nat) (e : FbkCh) (d : ChanFrame) : Lane :=
  let ty := fget l (FBK_CFG_TYPE e)
  if ty = 0 then l
  else
    let k0 := now / 32 - 500
    let ch := vget l.chans e
    let n := fget l (FBK_CFG_NFLT e)
    let np := fget l (FBK_CFG_NPRB e)
    let run (j : Fin 5) (n : Nat) : LineRt × List (Nat × Bool) := filterRuns n (lineRuns d j) 0 (vget ch.lines j) []
    let fa := run 0 n
    let fb := run 1 n
    let fz := run 2 n
    let fp := run 3 np
    let fd := run 4 n
    let l := modChan l e fun ch => { ch with
      lines := #v[fa.1, fb.1, fz.1, fp.1, fd.1], moves := [], gapV := false, supply := d.supply
      nOpen := if (linesUsed l e).any (fun j => d.openLn.getLsbD j) then ch.nOpen + 1 else 0 }
    let a := (vget ch.lines 0).flt
    let b := (vget ch.lines 1).flt
    let z := (vget ch.lines 2).flt
    let pr : List (Nat × Bool) := if np = 0 then [] else fp.2
    let l := corrDue (compareRewind l e) now e k0
    let (l, idx) := match ty with
      | 1 => let r := (evMerge fa.2 fb.2 fz.2 pr).foldl (quadClock now k0 e) ((l, a, b), false); (r.1.1, r.2)
      | 2 => (ssiFrame l now k0 e fd.2 pr false, false)
      | _ =>
        let h := b2n a + 2 * b2n b + 4 * b2n z
        let r := (evMerge fa.2 fb.2 fz.2 pr).foldl (hallClock now k0 e) (l, h, (hallIndex h).isSome)
        (modChan r.1 e fun ch => { ch with
          nHall := if (hallIndex r.2.1).isSome then 0 else if r.2.2 then 1 else ch.nHall + 1 }, false)
    let l := compareUpTo (corrDue l now e (k0 + 499)) now (now + 1) e
    chanJudge (fset (chanPublish l now e) (FBK_CHST_AGE e) 0) now e idx

/-- A channel's part of a repeated frame (R17, R303). -/
def chanGap (l : Lane) (now : Nat) (e : FbkCh) : Lane :=
  let ty := fget l (FBK_CFG_TYPE e)
  if ty = 0 then l
  else
    let k0 := now / 32 - 500
    let l := fset (fcount (stkLate l FBK_STK_GAP) (FBK_ERRC_GAPS e)) (FBK_CHST_AGE e) (satNat 255 (fget l (FBK_CHST_AGE e) + 1))
    -- more than one count in the 500 Field clocks of a frame
    let fast := decide (ty ≠ 2) && decide (1 < rabs (chanSpeed l e k0) * 500)
    let l := modChan l e fun ch => { ch with gapV := ch.gapV || fast, moves := [] }
    let l := corrDue (compareRewind l e) now e (k0 + 499)
    let l := compareUpTo (if ty = 2 then ssiFrame l now k0 e [] [] true else l) now (now + 1) e
    chanJudge (chanPublish l now e) now e false

/-- The live summary FBK_STS (R312). -/
def fbkSummary (l : Lane) : Lane :=
  let es := allFin 16
  let l := fsetB l FBK_STS_ANYFLT (es.any fun e => decide (fget l (FBK_CHST_STATE e) = 2))
  let l := fsetB l FBK_STS_ANYARM (es.any fun e => fon l (FBK_CMC_DIR e))
  fsetB l FBK_STS_ANYPOUT (es.any fun e => fon l (FBK_POUT_NUM e))

/-- The channels of cartridge `f` at the consumption of a frame that ends at `now`; `none` for a repeated one. -/
def fbkFrame (l : Lane) (now : Nat) (f : FieldNo) (d : Option (List ChanFrame)) : Lane :=
  let es := (allFin 16).filter fun e => decide (e.1 / 8 = f.1)
  let idle : ChanFrame := { runs := [], openLn := 0#5, supply := false }
  -- the four channels of a connector share its rails (R480)
  let rail (cs : List ChanFrame) (e : FbkCh) : Bool := (List.range 4).any fun j => (cs.getD (4 * (e.1 % 8 / 4) + j) idle).supply
  let l := es.foldl (fun (l : Lane) (e : FbkCh) => match d with
    | some cs => chanFrame l now e { (cs.getD (e.1 % 8) idle) with supply := rail cs e }
    | none => chanGap l now e) l
  let l := es.foldl (fun (l : Lane) (e : FbkCh) =>
    (allFin 16).foldl (fun (l : Lane) (n : FbkCh) =>
      if fget l (FBK_CFG_PSRC n) = e.1 ∧ (fon l (FBK_POUT_NUM n) ∨ ¬ (vget l.chans n).rats.isEmpty) then
        pulseFrame l now n (vget l.chans e).moves
      else l) l) l
  fbkSummary l

/-- A T1 tick begins a new interval for quadrature errors (R304). -/
def fbkTick (l : Lane) : Lane := { l with chans := l.chans.map fun ch => { ch with nQ := 0 } }

/-- A field cartridge left or failed: its channels are faulty with cause 0x7 (R304). -/
def fbkAbsent (l : Lane) (now : Nat) (f : FieldNo) : Lane :=
  fbkSummary (((allFin 16).filter fun e => decide (e.1 / 8 = f.1)).foldl (fun (l : Lane) (e : FbkCh) =>
    if fget l (FBK_CFG_TYPE e) = 0 then l else chanJudge l now e false) l)

/-- An SSI transfer of a channel starts at Field clock `k` (R298). -/
def ssiStart (l : Lane) (e : FbkCh) (k : Nat) : Lane :=
  if fget l (FBK_CFG_TYPE e) = 2 then
    modChan l e fun ch => { ch with ssi := ch.ssi ++ [{ t0 := k, lv0 := (vget ch.lines 4).flt, chg := [], gap := false }] }
  else l

end Sys2Proof.Machine
end

