-- ==== Sys2Proof/Machine/LinkCmd.lean ====
section
/-!
DEFINITION. The commands of the Billet links: SAMPLE frames, gate permits, port states, delays, timebase, discovery and
management (chapter 8).
-/
namespace Sys2Proof.Machine

/-- SAMPLE_FRAME (R277, R281): a copy of the brick's frame of this period, or of the one before, reaches one lane through its link
cartridge. The brick composes the frame of a period once, from what its sensors give (`m`). -/
def execSampleFrame (lane : LaneId) (b : Brick) (sec : Bool) (m : BrickMeas) (c : SampleCopy) (s : State) : Out :=
  let k : Fin 2 := if sec then 1 else 0
  if laneLinks (laneOf s lane) && portCarries s b k then
    let s := if c.old then s else modBrick s b (brickSample m)
    let x := vget s.bricks b
    match if c.old then x.smpP else x.smpC with
    | none => .next s
    | some f =>
      match copyWords c.copy f with
      | some ws => .next (settle (modLane s lane fun l => sampleArrive l b sec ws (crc16Words f)))
      | none => .next s
  else .next s

/-- Whether the ACTIVE lane commands /P/ to be withheld (R417). -/
def safeCommanded (s : State) : Bool := (laneActive s.la && s.la.safe) || (laneActive s.lb && s.lb.safe)

/-- PERMIT_CONDITION_CHANGE (R13, R268, R331, R417): the link cartridge starts or stops inserting /P/ as the STO condition,
the S6 command and its own transmitters (R386) demand. -/
def execPermitConditionChange (k : LinkNo) (s : State) : Out :=
  let on := linkPresent s k && stoCondition s && !(safeCommanded s) && !(vget s.links k).dark
  .next { s with links := vmod s.links k fun x => { x with send := on } }

/-- GATE_PERMIT (R268, R269): the insertion position of all ports of a link cartridge: /P/ with the next count while the
condition holds, /I/ otherwise; every brick judges its permit. On its way down a single port a count byte may be altered or lost. -/
def execGatePermit (g : PermitIn) (s : State) : Out :=
  let k := g.link
  let x := vget s.links k
  let judge (s : State) : State := { s with bricks := s.bricks.map (brickPermit s.now) }
  if x.send && linkPresent s k && !x.dark then
    let n := (x.n + 1) % 16
    let s := { s with links := vset s.links k { x with n := n } }
    let s := (allFin 16).foldl (fun (s : State) (q : Fin 16) =>
      let r : PortRef := { link := k, port := q }
      let b := portBrick r
      let got : Option Nat := match g.faults.find? fun f => f.port = q with | some f => f.byte.map (·.toNat) | none => some (pulseByte n)
      match got with
      | some byte => if 1 ≤ (portOf s b (portSide r)).bst then modBrick s b (brickPulse s.now byte (portSide r)) else s
      | none => s) s
    .next (judge s)
  else .next (judge s)

/-- LINK_LOCKED (R262): an end of a port that was DOWN reaches LOCKED, where light arrives; the link cartridge's end starts the burst
of R266, and the lanes see the brick linking (R286). -/
def execLinkLocked (x : PortEnd) (s : State) : Out :=
  let p := x.port
  let b := portBrick p
  let i := portSide p
  let q := portOf s b i
  if linkPresent s p.link && !(vget s.links p.link).dark then
    match x.fin with
    | .cartridge =>
      if q.lst = 0 then
        .next (inLinks (fun l => if fget l (BLK_BST_STATE b) = 0 then fset l (BLK_BST_STATE b) 1 else l)
          (modPort s b i fun q => { q with lst := 1, burst := true }))
      else .next s
    | .brick => .next (modPort s b i fun q => if q.bst = 0 then { q with bst := 1 } else q)
  else .next s

/-- LINK_LOSS (R262): one end of a port goes DOWN; a brick with no port left loses its timebase. -/
def execLinkLoss (x : PortEnd) (s : State) : Out :=
  let b := portBrick x.port
  let i := portSide x.port
  match x.fin with
  | .cartridge => .next (modPort s b i linkEndDown)
  | .brick => .next (modBrick (modPort s b i brickEndDown) b fun x =>
      brickPermit s.now (if x.ports.toList.all fun q => decide (q.bst = 0) then { x with tbase := false } else x))

/-- The instant of the next /E/ on a port (R266, R381): 10 µs after the one before in the burst, else 1 ms, or 10 ms at throttle. -/
def echoDue (s : State) (p : PortRef) : Nat :=
  let q := portOf s (portBrick p) (portSide p)
  match q.eAt with
  | some t => t + (if q.burst then 32000 else if linkHot s p.link then 32000000 else 3200000)
  | none => 0

/-- DELAY_REQUEST (R266): /E/ with the next echo number. -/
def execDelayRequest (p : PortRef) (s : State) : Out :=
  if 1 ≤ (portOf s (portBrick p) (portSide p)).lst then
    let s := tickTo (echoDue s p) s
    .next (modPort s (portBrick p) (portSide p) fun q => { q with echo := (q.echo + 1) % 256, wait := true, eAt := some s.now })
  else .next s

/-- DELAY_RESPONSE (R266): /R/ with the same echo number gives a measurement, round((RT − TA) / 2). -/
def execDelayResponse (p : PortRef) (echo : Byte) (rt : Nat) (ta : BitVec 16) (s : State) : Out :=
  .next (modPort s (portBrick p) (portSide p) fun q =>
    if q.wait && decide (q.echo = echo.toNat) && decide (1 ≤ q.lst) then
      let n := { delayTake (rdiv ((rt : Int) - (ta.toNat : Int)) 2) q with wait := false }
      -- TIMED starts the cadence of /S/ (R267)
      if q.lst = 1 ∧ n.lst = 2 then { n with sAt := some s.now, sN := 0 } else n
    else q)

/-- The instant of the next /S/ on a port (R267), on the 40 ns grid of 128 edge ticks: every 10 µs for 100 µs after TIMED, then every
1 ms. -/
def syncDue (q : PortRt) : Nat :=
  match q.sAt with
  | some t => ceilTo 128 (t + (if q.sN < 10 then 32000 else 3200000))
  | none => 0

/-- TIMEBASE_SYNC (R267): /S/ with the time base TS and DL leaves a port that is TIMED or UP, and reaches the brick `path` edge ticks
later, where its timebase must read TS + DL. -/
def execTimebaseSync (x : PortSync) (s : State) : Out :=
  let p := x.port
  let b := portBrick p
  let q := portOf s b (portSide p)
  if 2 ≤ q.lst then
    let s := modPort (tickTo (syncDue q) s) b (portSide p) fun r => { r with sAt := some (max s.now (syncDue q)), sN := satNat 10 (r.sN + 1) }
    if 1 ≤ q.bst then
      .next (modBrick s b fun r => brickPermit s.now (brickSync (portSide p) (syncDiff r.tb x.path (delayOf q)) r))
    else .next s
  else .next s

/-- DISCOVER (R286): the link cartridge sends the port's brick number. The brick adopts the first one it answers; the port
becomes UP, and the lanes start IDENT and CAL of a brick that is not READY. A number that differs from the one adopted is answered with
RESULT 0x01: the port stays TIMED, and WIRE is set. `adopted` is the number that the brick at the far end took from another port, where
the fibre leads to a brick it does not belong to. -/
def execDiscover (x : PortFind) (s : State) : Out :=
  let p := x.port
  let b := portBrick p
  let i := portSide p
  let q := portOf s b i
  if ¬ (2 ≤ q.lst ∧ 2 ≤ q.bst ∧ ¬ (q.lst = 3 ∧ q.bst = 3)) then .next s
  else if (x.adopted <|> (vget s.bricks b).num).any fun m => decide (m ≠ b) then .next (inLinks (fun l => stkLate l BLK_STK_WIRE) s)
  else
    .next (inLinks (fun l => if fget l (BLK_BST_STATE b) = 3 then l else rediscoverLane (fset l (BLK_BST_STATE b) 2) b)
      (modBrick (modPort s b i fun q => { q with lst := 3, bst := 3 }) b fun x => { x with num := some b }))

/-- IDENT (R284 to R286): the request and its payload. -/
def execIdent (b : Brick) (x : MgmtIn (Option (List Word))) (s : State) : Out := .next (settle (manage s b 2 0 x.ans x.faults))

/-- CAL (R284 to R286). -/
def execCal (b : Brick) (x : MgmtIn (Option (List Word))) (s : State) : Out := .next (settle (manage s b 3 0 x.ans x.faults))

/-- The brick gives an answer whose payload is not its own to choose. -/
def plainAns (ans : Bool) : Option (List Word) := if ans then some [] else none

/-- CNTR (R285): the brick's counters. -/
def execCntr (b : Brick) (x : MgmtIn Bool) (s : State) : Out := .next (manage s b 4 0 (plainAns x.ans) x.faults)

/-- CNTCLR (R284): the brick clears its counters. -/
def execCntclr (b : Brick) (x : MgmtIn Bool) (s : State) : Out := .next (manage s b 5 0 (plainAns x.ans) x.faults)

/-- CLRLATCH (R284): refused unless each named leg has LMODE 0b001 in the frame in force. -/
def execClrlatch (b : Brick) (mask : BitVec 4) (x : MgmtIn Bool) (s : State) : Out :=
  .next (manage s b 6 mask.toNat (plainAns x.ans) x.faults)

/-- DIAG (R284): argument and payload are the brick's own. -/
def execDiag (b : Brick) (arg : BitVec 16) (x : MgmtIn (Option (List Word))) (s : State) : Out :=
  .next (manage s b 7 arg.toNat x.ans x.faults)

/-- MREQ_TIMEOUT (R286, R291). -/
def execMreqTimeout (s : State) : Out := .next (settle (inLinks (fun l => mreqOver l s.now) s))

/-- REDISCOVER (R286): a committed BLK_REDISC.BRICK repeats IDENT and CAL. -/
def execRediscover (b : Brick) (s : State) : Out := .next (inRunning (fun l => rediscoverLane l b) s)

end Sys2Proof.Machine
end

