-- ==== Sys2Proof/Machine/Fio.lean ====
section
/-!
DEFINITION. Field inputs and outputs (chapter 10) in a lane: input modes, wire-break, counters and frequency, output
readback, SAFE and STO as the lanes observe them.
-/
namespace Sys2Proof.Machine

/-- The lane with the run data of an input changed. -/
def modIn (l : Lane) (n : Fin 64) (f : InRt → InRt) : Lane := { l with ins := vmod l.ins n f }

/-- The state of input `n` as DIN0 and DIN1 return it. -/
def setDi (l : Lane) (n : Nat) (v : Bool) : Lane :=
  { l with di := BitVec.ofNat 64 (setBits l.di.toNat n 1 (b2n v)) }

/-- Whether input `n` is wire-broken (R320). -/
def wbGet (l : Lane) (n : Nat) : Bool := bit (rget l (if n < 32 then FIO_WB0 else FIO_WB1)).toNat (n % 32)

/-- The wire-break bit of input `n`. -/
def wbSet (l : Lane) (n : Nat) (v : Bool) : Lane :=
  let a := if n < 32 then FIO_WB0 else FIO_WB1
  rset l a (wordOf (setBits (rget l a).toNat (n % 32) 1 (b2n v)))

/-! ## Pulsed and wire-break inputs (R317 to R320) -/

/-- The input stage (R317): on at 11 V with 2 mA, off at 5 V or at 1.5 mA, none between. -/
def stageOf (r : LineLevel) : Option Bool :=
  if 11000 ≤ r.mv ∧ 2000 ≤ r.ua then some true else if r.mv ≤ 5000 ∨ r.ua ≤ 1500 then some false else none

/-- The class of a reading: 0 off, 1 on, 2 broken, 3 between the levels (R317, R320). -/
def readClass (wire : Bool) (r : LineLevel) : Nat :=
  if wire then
    (if 11000 ≤ r.mv then 1 else if 8000 ≤ r.mv then 3 else if 3000 ≤ r.mv then 0 else if 2000 ≤ r.mv then 3 else 2)
  else match stageOf r with | some true => 1 | some false => 0 | none => 3

/-- The 32 input stages take the levels of one run. -/
def stageWord (st : BitVec 32) (rs : List LineLevel) : BitVec 32 :=
  wordOf ((List.range 32).foldl (fun m j =>
    m + 2 ^ j * b2n (((rs[j]?).bind stageOf).getD (st.getLsbD j))) 0)

/-- The line states that a field cartridge samples over a frame: each run of levels passes the input stages (R317). -/
def stageRuns (st : BitVec 32) (runs : List (Nat × List LineLevel)) : BitVec 32 × List (Nat × Word) :=
  runs.foldl (fun (acc : BitVec 32 × List (Nat × Word)) (r : Nat × List LineLevel) =>
    let st := stageWord acc.1 r.2; (st, acc.2 ++ [(r.1, st)])) (st, [])

/-- The readback of the 16 output terminals (R325): 1 at 11 V, 0 at 5 V, unchanged between. -/
def readBacks (was : BitVec 16) (mv : List Nat) : BitVec 16 :=
  BitVec.ofNat 16 ((List.range 16).foldl (fun m j =>
    let v := mv.getD j 0
    m + 2 ^ j * b2n (if 11000 ≤ v then true else if v ≤ 5000 then false else was.getLsbD j)) 0)

/-- A reading of input `n` is consumed: NDEB consecutive readings of one class make the state (R319, R320). -/
def readInput (l : Lane) (now : Nat) (n : Fin 64) (mv : LineLevel) : Lane :=
  let wire := decide (fget l (FIO_ICFG_MODE n) = 3)
  let c := readClass wire mv
  let x := vget l.ins n
  let k := if c = 3 then 0 else if c = x.cls then satNat 15 (x.n + 1) else 1
  let l := modIn l n fun x => { x with cls := c, n := k }
  if c ≠ 3 ∧ fget l (FIO_ICFG_NDEB n) ≤ k then
    (if c = 2 then
      (if wbGet l n then l else raiseO (stkLate (wbSet (setDi l n false) n true) FIO_STK_WBRK) now 0x50 n 0 0#32)
    else wbSet (setDi l n (decide (c = 1))) n false)
  else l

/-! ## Counters and frequency (R321, R322) -/

/-- The counter of an input: DI0–DI7 are counters 0–7, DI32–DI39 counters 8–15. -/
def counterOf (n : Nat) : Option Nat := if n < 8 then some n else if 32 ≤ n ∧ n < 40 then some (n - 24) else none

/-- An edge of a count input at Field clock `k` (R321). -/
def countEdge (k : Nat) (n : Fin 64) (j : Nat) (l : Lane) (up : Bool) : Lane :=
  let ed := fget l (FIO_ICFG_EDGE n)
  let sel := if up then ed = 0 || ed = 2 else ed = 1 || ed = 2
  let l := if sel && decide ((vget l.ins n).clrAt < 32 * k) then
    rset l (FIO_CNT j) (rget l (FIO_CNT j) + 1#32) else l
  if up then modIn l n fun x => { x with rise := x.rise ++ [k] } else l

/-- The rising edges that the frequency still needs: those in the gate, and the latest two. -/
def trimRise (from_ : Nat) (r : List Nat) : List Nat :=
  let keep := (r.filter fun k => decide (from_ < k)).length
  r.drop (r.length - max keep 2)

/-- The frequency of a count input at Field clock `tn`, in Hz (R322). -/
def frequency (l : Lane) (n : Fin 64) (tn : Nat) : Rat :=
  let r := (vget l.ins n).rise
  let gate := r.filter fun k => decide (tn ≤ k + 100000 * fget l (FIO_ICFG_GATE n))
  let last := r.getLast?
  if 2 ≤ gate.length then
    mkRat ((100000000 * (gate.length - 1) : Nat) : Int) (gate.getLastD 0 - gate.headD 0)
  else match last, r.dropLast.getLast? with
    | some b, some a => if tn ≤ b + 100000000 then mkRat 100000000 (b - a) else 0
    | _, _ => 0

/-- Continuous and count inputs over an intact frame (R318, R321, R322). -/
def lineInput (l : Lane) (now : Nat) (n : Fin 64) (runs : List (Nat × Word)) : Lane :=
  let mode := fget l (FIO_ICFG_MODE n)
  let k0 := now / 32 - 500
  let filt := fget l (FIO_ICFG_FILT n) * (if mode = 2 then 100 else 1)
  let r := filterRuns filt (runs.map fun r => (r.1, r.2.getLsbD (n.1 % 32))) 0 (vget l.ins n).line []
  let l := modIn l n fun x => { x with line := r.1 }
  let l := setDi l n r.1.flt
  match mode, counterOf n with
  | 4, some j => r.2.foldl (fun l c => countEdge (k0 + c.1) n j l c.2) l
  | _, _ => l

/-- The frequency register of a count input at the consumption (R322). -/
def freqInput (l : Lane) (now : Nat) (n : Fin 64) : Lane :=
  match fget l (FIO_ICFG_MODE n), counterOf n with
  | 4, some j =>
    let f := frequency l n (now / 32)
    let l := rset l (FIO_FHZ j) (wordOf (satInt 0 0xFFFFFFFF (rround (f * 256))).toNat)
    modIn l n fun x => { x with rise := trimRise (now / 32 - 100000 * fget l (FIO_ICFG_GATE n)) x.rise, freq := f }
  | _, _ => l

/-! ## Outputs (R324 to R326) -/

/-- How long an output has stood as it does (R326): read back high while off, low while on with its group supplied and no limit, and on
without limit, each since the switch took its command at `t` or since the consumption before. -/
def outputTimes (now t : Nat) (on rb lim sup : Bool) (x : OutRt) : OutRt :=
  let from_ (c : Bool) (o : Option Nat) : Option Nat := if c then some (o.getD (max t (now - 16000))) else none
  { x with hiT := from_ (!on && rb) x.hiT, hiC := if !on && rb then now else x.hiC, lowT := from_ (on && !rb && !lim && sup) x.lowT, okT := from_ (on && !lim) x.okT }

/-- An output's readback and limit report are judged at a consumption (R326): `on` is the switch's command, taken at `t`. -/
def outputJudge (l : Lane) (now : Nat) (o : Fin 32) (on : Bool) (t : Nat) (rb lim : Bool) : Lane :=
  let l := fsetB l (FIO_OSTS_RB o) rb
  let l := if rb then l else fsetB l (FIO_OSTS_FORCED o) false
  let x := outputTimes now t on rb lim (fon l (FIO_GRP_OK (o.1 / 8))) (vget l.outs o)
  if fget l (FIO_OSTS_STATE o) = 3 then
    -- a latched output that is commanded off can still be forced high
    { l with outs := vset l.outs o { x with hiT := if fon l (FIO_OSTS_CMD o) then none else x.hiT, lowT := none, okT := none } }
  else
    let lim := lim && on
    let entry := lim && !x.lim
    let n := if entry then x.lims + 1 else x.lims
    let l := { l with outs := vset l.outs o { x with lim := lim, lims := n } }
    if entry && decide (4 ≤ n) then
      let l := fset (fset l (FIO_OSTS_STATE o) 3) (FIO_OSTS_RETRY o) 3
      ask (raiseO (stkLate (stkLate l FIO_STK_OLIM) FIO_STK_OLATCH) now 0x51 o 0 0#32) (.output o false)
    else
      let l := if entry then stkLate (fset l (FIO_OSTS_RETRY o) (n - 1)) FIO_STK_OLIM else l
      fset l (FIO_OSTS_STATE o) (if lim then 2 else if on then 1 else 0)

/-- A group's supply voltage in mV (R325, R326). -/
def groupSupply (l : Lane) (g mv : Nat) : Lane :=
  let ok := fon l (FIO_GRP_OK g)
  let ok2 := if 18000 ≤ mv then true else if mv < 17000 then false else ok
  stkIfLate (ok && !ok2) (fsetB (fset l (FIO_GRP_VG g) (satNat 65535 mv)) (FIO_GRP_OK g) ok2) FIO_STK_GSUP

/-- Whether something that stands since `o` has stood for `d` edge ticks at `now`. -/
def stoodFor (o : Option Nat) (d now : Nat) : Bool := o.any fun t => decide (t + d ≤ now)

/-- Whether an output is commanded off: its switch takes the command, or is latched off. -/
def commandedOff (l : Lane) (o : Fin 32) : Bool :=
  decide (fget l (FIO_OSTS_STATE o) = 0) || (decide (fget l (FIO_OSTS_STATE o) = 3) && !(fon l (FIO_OSTS_CMD o)))

/-- FORCED_HIGH (R326): an output that is commanded off has read back high for its blanking time, TBLK ms, and at a consumption after
it. -/
def forcedHigh (l : Lane) (now : Nat) (o : Fin 32) : Lane :=
  if commandedOff l o && fon l (FIO_OSTS_RB o) && !(fon l (FIO_OSTS_FORCED o)) &&
      stoodFor (vget l.outs o).hiT (3200000 * fget l (FIO_OCFG_TBLK o) + 1) (min now (vget l.outs o).hiC) then
    stkLate (fsetB l (FIO_OSTS_FORCED o) true) FIO_STK_FORCED else l

/-- ONLOW (R326): an output on without limit, its group supplied, has read back low for 2 ms. -/
def onLow (l : Lane) (now : Nat) (o : Fin 32) : Lane :=
  stkIfLate (decide (fget l (FIO_OSTS_STATE o) = 1) && !(fon l (FIO_OSTS_RB o)) && fon l (FIO_GRP_OK (o.1 / 8)) &&
    stoodFor (vget l.outs o).lowT 6400000 now) l FIO_STK_ONLOW

/-- RETRY_RESET (R326): an output has been on without limit for 100 ms. -/
def retryReset (l : Lane) (now : Nat) (o : Fin 32) : Lane :=
  if fget l (FIO_OSTS_STATE o) = 1 && stoodFor (vget l.outs o).okT 320000000 now then
    { (fset l (FIO_OSTS_RETRY o) 0) with outs := vmod l.outs o fun x => { x with lim := false, lims := 0 } } else l

/-- A committed OCLR bit (R326). -/
def outputClear (l : Lane) (o : Fin 32) : Lane :=
  if fget l (FIO_OSTS_STATE o) = 3 then
    let l := fset (fset l (FIO_OSTS_RETRY o) 0) (FIO_OSTS_STATE o) (fget l (FIO_OSTS_CMD o))
    ask { l with outs := vset l.outs o { lim := false, lims := 0, hiT := none, hiC := 0, lowT := none, okT := none } }
      (.output o (fon l (FIO_OSTS_CMD o)))
  else l

/-- The committed clear of counter `k` (R321). -/
def counterClear1 (l : Lane) (now : Nat) (k : Fin 16) : Lane :=
  let n : Fin 64 := if h : k.1 < 8 then ⟨k.1, by omega⟩ else ⟨k.1 + 24, by omega⟩
  modIn (rset l (FIO_CNT k) 0#32) n fun x => { x with clrAt := now }

/-! ## SAFE and STO as observed (R328, R330, R332) -/

/-- What a field frame reports of its cartridge: SAFE, a silence reached since the latest report, the STO channels and discrepancy,
and whether the permit condition of R13 holds. -/
structure CartIn where
  safe : Bool
  mute : Bool
  stoA : Bool
  stoB : Bool
  disc : Bool
  cond : Bool
  deriving DecidableEq, Repr

/-- The lane observes SAFE and STO of cartridge `f` (R328, R332). -/
def cartFrame (l : Lane) (now : Nat) (f : FieldNo) (c : CartIn) : Lane :=
  let sf : Field := if f = 0 then FIO_STS_F1SAFE else FIO_STS_F2SAFE
  let was := fon l sf
  let l := fsetB (fsetB l sf c.safe) (FIO_SSTS_SAFE f) c.safe
  let l := if (!was || c.mute) && c.safe then raiseO (stkLate l FIO_STK_SAFE) now 0x52 f 0 0#32 else l
  let l := (allFin 32).foldl (fun (l : Lane) (o : Fin 32) => if o.1 / 16 = f.1 then fsetB l (FIO_OSTS_ATSAFE o) c.safe else l) l
  let pair := c.stoA && c.stoB && !c.disc
  let was := fon l (FIO_SSTS_PAIR f)
  let dis := fon l (FIO_SSTS_DISC f)
  let l := fsetB (fsetB (fsetB (fsetB l (FIO_SSTS_STOA f) c.stoA) (FIO_SSTS_STOB f) c.stoB) (FIO_SSTS_PAIR f) pair)
    (FIO_SSTS_DISC f) c.disc
  let l := fsetB l (if f = 0 then FIO_STS_F1STO else FIO_STS_F2STO) pair
  let l := if c.disc && !dis then raiseO (stkLate l FIO_STK_STODIS) now 0x54 f 0 0#32 else l
  let l := stkIfLate (!pair) l FIO_STK_STOOFF
  if was && !pair then
    let l := raiseO l now 0x53 f 0 0#32
    if c.cond then l else permitAsk l
  else l

/-- The live summary FIO_STS (R333). -/
def fioSummary (l : Lane) : Lane :=
  let l := fsetB l FIO_STS_ANYWB (rget l FIO_WB0 ≠ 0#32 || rget l FIO_WB1 ≠ 0#32)
  let os := allFin 32
  let l := fsetB l FIO_STS_ANYFORCE (os.any fun o => fon l (FIO_OSTS_FORCED o))
  let l := fsetB l FIO_STS_ANYLATCH (os.any fun o => decide (fget l (FIO_OSTS_STATE o) = 3))
  fsetB l FIO_STS_ANYGSUP ((List.range 4).any fun g => !(fon l (FIO_GRP_OK g)))

/-- The quick-release inputs act by their level (R253): QRIN, and QREL is asked for. -/
def quickInputs (l : Lane) : Lane :=
  (allFin 16).foldl (fun (l : Lane) (a : Axis) =>
    if fon l (AXS_QR_QEN a) then
      let on := l.di.getLsbD (fget l (AXS_QR_DI a))
      let was := fon l (AXS_STS_QRIN a)
      let l := fsetB l (AXS_STS_QRIN a) on
      if on && axEnabled l a && fget l (AXS_STS_ESTATE a) ≠ 7 && (vget l.axes a).ask ≠ some 7 && (!was || !(axSupers l a 7)) then
        axAsk l a 7
      else l
    else l) l

/-- What a cartridge puts into a frame of its inputs and outputs: the line states of its input stages, the readback bits, its switches
with the instants of their commands, and the readings of a pulsed window that the frame carries. -/
structure FioIn where
  runs : List (Nat × Word)
  rb   : BitVec 16
  sw   : BitVec 16
  swT  : Vector Nat 16
  win  : Option (List LineLevel)
  deriving DecidableEq, Repr

/-- The inputs and outputs of cartridge `f` at the consumption of an intact frame. An unused input reads 0 (R318). -/
def fioFrame (l : Lane) (now : Nat) (f : FieldNo) (d : FieldFrame) (x : FioIn) (c : CartIn) : Lane :=
  let none' : LineLevel := { mv := 0, ua := 0 }
  let l := (allFin 64).foldl (fun (l : Lane) (n : Fin 64) =>
    if n.1 / 32 = f.1 then
      match fget l (FIO_ICFG_MODE n) with
      | 1 => (match x.win with | some v => readInput l now n (v.getD (n.1 % 32) none') | none => l)
      | 3 => (match x.win with | some v => readInput l now n (v.getD (n.1 % 32) none') | none => l)
      | 2 => lineInput l now n x.runs
      | 4 => freqInput (lineInput l now n x.runs) now n
      | _ => setDi l n false
    else l) l
  let l := cartFrame l now f c
  let l := (List.range 2).foldl (fun l g => groupSupply l (2 * f.1 + g) (d.vgrp.getD g 0)) l
  let l := (allFin 32).foldl (fun (l : Lane) (o : Fin 32) =>
    let j : Fin 16 := ⟨o.1 % 16, Nat.mod_lt _ (by decide)⟩
    if o.1 / 16 = f.1 then outputJudge l now o (x.sw.getLsbD j) (vget x.swT j) (x.rb.getLsbD j) (d.limit.getLsbD j) else l) l
  quickInputs (fioSummary l)

/-- A repeated frame of cartridge `f` (R323). -/
def fioGap (l : Lane) (now : Nat) (f : FieldNo) : Lane :=
  let cnt := (allFin 64).filter fun (n : Fin 64) => decide (n.1 / 32 = f.1) && decide (fget l (FIO_ICFG_MODE n) = 4)
  let l := stkIfLate (!cnt.isEmpty) l FIO_STK_CGAP
  let l := cnt.foldl (fun (l : Lane) (n : Fin 64) => freqInput l now n) l
  quickInputs l

end Sys2Proof.Machine
end

