-- ==== Sys2Proof/Machine/Thm.lean ====
section
/-!
DEFINITION. Temperature sensing and thermal management (chapter 12). Temperatures are in 1/16 °C.
-/
namespace Sys2Proof.Machine

/-- The lane with the run data of a sensor changed. -/
def modSens (l : Lane) (s : Fin 150) (f : SensRt → SensRt) : Lane := { l with sens := vmod l.sens s f }

/-! ## Conversion (R372) -/

/-- Saturation to the 16-bit format of R4. -/
def temp16 (t : Rat) : Int := satInt (-32768) 32767 (rround (t * 16))

/-- The NTC law of R372, °C. -/
def ntcTemp (rm rnom beta : Nat) : Rat :=
  qdiv 1 (mkRat 100 29815 + qdiv (Config.lnR (mkRat rm (1000 * rnom))) (beta : Rat)) - mkRat 27315 100

/-- The IEC 60751 resistance of a PT1000 at `t` °C, in Ω (R372). -/
def ptOhm (t : Rat) : Rat :=
  let a := mkRat 39083 10000000
  let b := -(mkRat 5775 10000000000)
  let c := -(mkRat 4183 1000000000000000)
  1000 * (1 + a * t + b * t * t + (if t < 0 then c * (t - 100) * t * t * t else 0))

/-- The largest code in a range whose lower rounding bound the resistance reaches (R4, R372). -/
def ptSearch (fuel : Nat) (lo hi : Int) (r : Rat) : Int :=
  match fuel with
  | 0 => lo
  | n + 1 =>
    if hi ≤ lo then lo
    else
      let mid := (lo + hi + 1) / 2
      let bound := ptOhm (mkRat (2 * mid - 1) 32)
      if (if mid ≤ 0 then decide (bound < r) else decide (bound ≤ r)) then ptSearch n mid hi r else ptSearch n lo (mid - 1) r

/-- The diode law of R372, °C: `dv` in nV, `nf` in 1/4096. -/
def diodeTemp (dv nf : Nat) : Rat :=
  qdiv (mkRat 1602176634 1380649 * mkRat dv 100000000) (mkRat nf 4096 * Config.lnR 10) - mkRat 27315 100

/-- The voltage limits of a remote diode (R372), in µV, and its reading: `none` when broken. -/
def diodeRead (vf dv nf : Nat) : Option Int :=
  if 1000000 < vf ∨ vf < 100000 then none else some (temp16 (diodeTemp dv nf))

/-- A pin's reading (R372): `none` when broken. -/
def pinRead (l : Lane) (p : Nat) (x : PinRaw) : Option Int :=
  match fget l (THM_PIN_TYPE p) with
  | 1 => if 1000000000 < x.rm ∨ x.rm < 10000 then none
    else some (temp16 (ntcTemp x.rm (fget l (THM_PIR_RNOM p)) (fget l (THM_PIN_BETA p))))
  | 2 => if 4000000 < x.rm ∨ x.rm < 500000 then none else some (ptSearch 16 (-4096) 16384 (mkRat x.rm 1000))
  | _ => diodeRead x.vf x.dv (fget l (THM_PIR_RNOM p) % 65536)

/-- The pin readings of a field frame reach the lane (R371). -/
def pinsArrive (l : Lane) (f : FieldNo) (xs : List PinRaw) : Lane :=
  (allFin 8).foldl (fun (l : Lane) (j : Fin 8) =>
    let p := 8 * f.1 + j.1
    match xs[j.1]? with
    | some x =>
      if fget l (THM_PIN_TYPE p) = 0 then l
      else
        let v := pinRead l p x
        modSens l ⟨128 + p, by have := f.2; have := j.2; omega⟩ fun s => { s with got := some v, fresh := true, age := 0 }
    | none => l) l

/-- A lane or link diode converted with its factory ideality factor (R372). -/
def ownDiode (s vf dv : Nat) : Option Int := diodeRead vf dv (Config.diodeNf (s - 144))

/-- A diode reading reaches the lane at a T1 tick (R371). -/
def diodeArrive (l : Lane) (s : Fin 150) (r : Reading) : Lane :=
  match r with
  | .volts vf dv => modSens l s fun x => { x with got := some (ownDiode s vf dv), fresh := true, age := 0, mute := false }
  | .missing => modSens l s fun x => { x with fresh := false, age := x.age + 1 }

/-- The diode of a lane (R371): the reading sent over XLN at the tick before arrives, and this one is sent. -/
def laneDiode (l : Lane) (s : Fin 150) (r : Reading) : Lane :=
  modSens (diodeArrive l s (vget l.sens s).sent) s fun x => { x with sent := r }

/-- The diode of a link cartridge, which reports while its cartridge is present (R371, R374). -/
def linkDiode (l : Lane) (k : LinkNo) (r : Reading) : Lane :=
  let s : Fin 150 := ⟨146 + k.1, by omega⟩
  if slotUp l (4 + k.1) then diodeArrive l s r else modSens l s fun x => { x with fresh := false }

/-- The brick readings the lane holds (R280, R371, R373). -/
def brickTemps (l : Lane) : Lane :=
  (allFin 128).foldl (fun (l : Lane) (s : Fin 128) =>
    let r := vget l.rx ⟨s.1 / 4, by omega⟩
    match r.temps[s.1 % 4]? with
    | some t => modSens l ⟨s.1, by omega⟩ fun x => { x with got := some (if bit r.tbrk (s.1 % 4) then none else some t), fresh := true, age := 0 }
    | none => l) l

/-! ## Levels (R373 to R376) -/

/-- Source and object of a sensor's fault (R421). -/
def sensorObj (s : Nat) : Nat × Nat :=
  match sensorClass s with
  | 0 => (0x30, s)
  | 1 => (0x34, s)
  | 2 => (0x38, s - 144)
  | _ => (0x3C, s - 146)

/-- A rising entry into a level at TEMP `t` (R375, R421): its sticky bit and source. -/
def levelEntry (now s : Nat) (t : Int) (l : Lane) (v : Nat) : Lane :=
  let l := match v with | 1 => stkLate l THM_STK_WARN | 2 => stkLate l THM_STK_THROT | _ => stkLate l THM_STK_SHUT
  raiseO l now ((sensorObj s).1 + (v - 1)) (sensorObj s).2 0 (BitVec.ofInt 32 t)

/-- The level after an evaluation (R375). -/
def nextLevel (l : Lane) (s lv : Nat) (t : Int) : Nat :=
  let th (f : Field) : Int := fgetI l f
  let w := th (THM_CFG_WARN s)
  let h := th (THM_CFG_THROT s)
  let u := th (THM_CSH_SHUT s)
  let up := if u ≤ t then 3 else if h ≤ t then 2 else if w ≤ t then 1 else 0
  if lv < up then up
  else
    let lv := if lv = 3 ∧ t ≤ u - ((fget l (THM_CHY_HYS s) : Nat) : Int) then 2 else lv
    let lv := if lv = 2 ∧ t ≤ h - ((fget l (THM_CHY_HYT s) : Nat) : Int) then 1 else lv
    if lv = 1 ∧ t ≤ w - ((fget l (THM_CHY_HYW s) : Nat) : Int) then 0 else lv

/-- A sensor is graded from its latest reading (R371, R373, R375). -/
def gradeSensor (l : Lane) (now : Nat) (s : Fin 150) : Lane :=
  let x := vget l.sens s
  match x.got with
  | none => l
  | some r =>
    let lv := fget l (THM_T_LEVEL s)
    let brk := r.isNone
    let t : Int := r.getD 0x7FFF
    let v := if brk then 3 else nextLevel l s lv t
    let was := fon l (THM_T_BROKEN s)
    let l := fsetB (fsetB (fset (fsetI l (THM_T_TEMP s) t) (THM_T_LEVEL s) v) (THM_T_BROKEN s) brk) (THM_T_STALE s) false
    let l := modSens l s fun x => { x with hist := (t :: x.hist).take 1001, fresh := false }
    let l := if brk && !was then raiseO (stkLate l THM_STK_BROKEN) now ((sensorObj s).1 + 3) (sensorObj s).2 0 0#32 else l
    ((List.range 4).filter fun k => decide (lv < k) && decide (k ≤ v)).foldl (levelEntry now s t) l

/-- A reading becomes stale (R374). -/
def staleSensor (l : Lane) (s : Nat) : Lane :=
  if fon l (THM_T_STALE s) then l else stkLate (fsetB l (THM_T_STALE s) true) THM_STK_STALE

/-- Whether the cartridge that carries a diode is present and sound as the lane sees it (R374). -/
def diodeThere (l : Lane) (s : Nat) : Bool :=
  if s < 146 then decide (s - 144 = (match l.ident with | .A => 0 | .B => 1)) || slotUp l (2 + (s - 144)) else slotUp l (4 + (s - 146))

/-- A diode that has been silent for 10 T1 ticks while its cartridge is present (R374): its reading is stale, in SOLO too, and the
sticky bit is set once. -/
def muteDiode (l : Lane) (s : Fin 150) : Lane :=
  let x := vget l.sens s
  if decide (10 ≤ x.age) && !x.mute && diodeThere l s then
    modSens (stkLate (fsetB l (THM_T_STALE s) true) THM_STK_STALE) s fun x => { x with mute := true }
  else l

/-- TEMP of a sensor that is not graded at a tick stands, and is its reading of that tick (R374, R382). -/
def keepTemp (l : Lane) (s : Fin 150) : Lane :=
  modSens l s fun x => if x.hist.isEmpty then x else { x with hist := (fgetI l (THM_T_TEMP s) :: x.hist).take 1001 }

/-- Whether a sensor is graded at this tick: a reading is held, its cartridge present, and in SOLO not the peer's (R371,
R374). -/
def sensorGraded (l : Lane) (s : Nat) : Bool :=
  match sensorClass s with
  | 1 => fget l (THM_PIN_TYPE (s - 128)) ≠ 0 && slotUp l (8 + (s - 128) / 8)
  | 2 => (s - 144 = (match l.ident with | .A => 0 | .B => 1)) || !(fon l SYS_STS_SOLO)
  | _ => true

/-- A sensor at a tick (R371, R374): graded from its latest reading, or standing as it is. A diode that has not reported is not
graded anew; a pin keeps its latest reading. -/
def tickSensor (now : Nat) (l : Lane) (s : Fin 150) : Lane :=
  let c := sensorClass s
  let l := if c = 2 ∨ c = 3 then muteDiode l s else l
  if sensorGraded l s then (if (c = 2 || c = 3) && !(vget l.sens s).fresh then keepTemp l s else gradeSensor l now s)
  else
    let l := keepTemp l s
    if c = 2 then fsetB l (THM_T_STALE s) true
    else if c = 1 && fget l (THM_PIN_TYPE (s.1 - 128)) ≠ 0 then staleSensor l s
    else l

/-! ## Time to shut-down (R382, R383) -/

/-- The estimate of one sensor, in seconds (R382). -/
def sensorTts (l : Lane) (s : Fin 150) : Option Rat :=
  let h := (vget l.sens s).hist
  match h.head?, h[1000]? with
  | some t, some t0 =>
    let u := fgetI l (THM_CSH_SHUT s)
    if fget l (THM_T_LEVEL s) = 0 ∨ t ≤ t0 then none
    else if u ≤ t then some 0
    else some (mkRat (u - t) (t - t0).toNat)
  | _, _ => none

/-- TTS as registers show it: 100 ms, 0xFFFF for no estimate. -/
def ttsCode (t : Option Rat) : Nat :=
  match t with | none => 0xFFFF | some q => (satInt 0 0xFFFE (rround (q * 10))).toNat

/-- The sensors of a brick. -/
def brickSensors (b : Fin 32) : List (Fin 150) := (allFin 4).map fun (j : Fin 4) => ⟨4 * b.1 + j.1, by omega⟩

/-- The level of a brick that has been read (R375): the highest of its sensors. -/
def brickLevel (l : Lane) (b : Fin 32) : Nat :=
  if (vget l.rx b).temps.isEmpty then 0 else ((brickSensors b).map fun (s : Fin 150) => fget l (THM_T_LEVEL s)).foldl max 0

/-- The axes for which a brick is critical (R383). -/
def brickCritical (l : Lane) (b : Fin 32) : List Axis :=
  let cs := (allFin 32).filter fun (c : Fin 32) => fon l (LEG_CPC_VALID c) && (legsOf l c).any fun n => decide (n.1 / 4 = b.1)
  let without := cs.foldl (fun (l : Lane) (c : Fin 32) =>
    modCop (fset l (LEG_CSTS_STATE c) 2) c fun k => { k with inSet := false }) l
  ((allFin 16).filter fun (a : Axis) => axPeriods l a).filter fun (a : Axis) =>
    (cs.any fun c => decide (fget l (LEG_CPC_AXIS c) = a.1)) && decide (rfOf without a = 0)

/-- THM decides the thermal stop of an axis (R383). -/
def thermalStop (l : Lane) (a : Axis) (tts : Rat) : Lane :=
  let ms : Rat := (fget l (THM_ASTOP_TSTOP a) : Rat)
  if ms < tts * 1000 then stkLate (axAsk l a 3) THM_STK_TSTOP else stkLate (axAsk l a 8) THM_STK_TIMM

/-- The stops that the estimate `tts` of sensor `s` calls for among the axes it is critical for (R383). `dec` in the run data
keeps the axes already decided. -/
def criticalStops (l : Lane) (s : Fin 150) (tts : Option Rat) (axs : List Axis) : Lane :=
  (allFin 16).foldl (fun (l : Lane) (a : Axis) =>
    let near := axs.contains a && (match tts with
      | some q => decide (q * 1000 ≤ 2 * (fget l (THM_ASTOP_TSTOP a) : Rat)) | none => false)
    let done := bit (vget l.sens s).dec a
    let e := fget l (AXS_STS_ESTATE a)
    if near && !done && axEnabled l a && (e = 0 || e = 1 || e = 2 || e = 5) then
      thermalStop (modSens l s fun x => { x with dec := setBits x.dec a 1 1 }) a (tts.getD 0)
    else if !near && done then modSens l s fun x => { x with dec := setBits x.dec a 1 0 }
    else l) l

/-! ## Throttling (R377, R380) -/

/-- A step after its object was graded at level `v` (R377): it rises to 1 at throttle, and stands at 3 at shut-down. -/
def stepAtTick (st v : Nat) : Nat := if v = 3 then 3 else if v = 2 ∧ st = 0 then 1 else st

/-- A step after TSTEP seconds on one side of the throttle threshold (R377). -/
def stepTimer (st : Nat) (x : StepRt) : Nat := if x.hot then satNat 3 (st + 1) else st - 1

/-- The instant at which a step changes next (R377): TSTEP seconds after the latest crossing or change, if it can move that way. -/
def stepDue (l : Lane) (st : Nat) (x : StepRt) : Option Nat :=
  if (if x.hot then st < 3 else 0 < st) then some (x.at_ + 3200000000 * fget l THM_LCFG_TSTEP) else none

/-- The timer of a step that goes from `st` to `n` with its object at level `v` (R377). -/
def StepRt.grade (now st n v : Nat) (x : StepRt) : StepRt :=
  if n ≠ st ∨ x.hot ≠ decide (2 ≤ v) then { hot := decide (2 ≤ v), at_ := now } else x

/-- A brick's step takes a value (R377, R379). -/
def setStep (l : Lane) (b : Fin 32) (n : Nat) : Lane :=
  stkIfLate (decide (fget l (THM_BST_STEP b) < n)) (fset l (THM_BST_STEP b) n) THM_STK_STEPUP

/-- A brick's step at a tick with the brick at level `v` (R377). -/
def brickStep (l : Lane) (now : Nat) (b : Fin 32) (v : Nat) : Lane :=
  let st := fget l (THM_BST_STEP b)
  let n := stepAtTick st v
  setStep { l with btimes := vmod l.btimes b (StepRt.grade now st n v) } b n

/-- The lane's steps take their values; LSTEP is the higher (R380). -/
def setLane (l : Lane) (n : Fin 2 → Nat) : Lane :=
  let up := decide (vget l.lsteps 0 < n 0) || decide (vget l.lsteps 1 < n 1)
  stkIfLate up (fset { l with lsteps := #v[n 0, n 1] } THM_STS_LSTEP (max (n 0) (n 1))) THM_STK_STEPUP

/-- The lane's steps at a tick (R380); the step of a diode that is stale or not graded stands. -/
def laneStep (l : Lane) (now : Nat) : Lane :=
  let lv (i : Fin 2) : Nat := fget l (THM_T_LEVEL (144 + i.1))
  let stale (i : Fin 2) : Bool := fon l (THM_T_STALE (144 + i.1))
  let n (i : Fin 2) : Nat := if stale i then vget l.lsteps i else stepAtTick (vget l.lsteps i) (lv i)
  let x (i : Fin 2) : StepRt := if stale i then vget l.ltimes i else (vget l.ltimes i).grade now (vget l.lsteps i) (n i) (lv i)
  setLane { l with ltimes := #v[x 0, x 1] } n

/-- The instant at which the step of lane diode `i` changes next; a stale one's stands (R380). -/
def laneStepDue (l : Lane) (i : Fin 2) : Option Nat :=
  if fon l (THM_T_STALE (144 + i.1)) then none else stepDue l (vget l.lsteps i) (vget l.ltimes i)

/-! ## The T1 tick (R371, R375, R382 to R386) -/

/-- The live summary THM_STS (R388): levels of the sensors that have been graded, and every STALE bit. -/
def thmSummary (l : Lane) : Lane :=
  let ss := (allFin 150).filter fun (s : Fin 150) => !(vget l.sens s).hist.isEmpty
  let some_ (k : Nat) : Bool := ss.any fun s => decide (k ≤ fget l (THM_T_LEVEL s))
  let l := fsetB (fsetB (fsetB l THM_STS_ANYWARN (some_ 1)) THM_STS_ANYTHR (some_ 2)) THM_STS_ANYSHUT (some_ 3)
  let l := fsetB l THM_STS_ANYBRK (ss.any fun s => fon l (THM_T_BROKEN s))
  fsetB l THM_STS_ANYSTALE ((List.range 150).any fun s => fon l (THM_T_STALE s))

/-- A brick at a T1 tick: step, estimate, critical stops, shut-down (R377, R382 to R384). A brick that gives no reading keeps its step
and stops nothing; what it shows is brought up to date all the same (R390). -/
def brickThermal (now : Nat) (l : Lane) (b : Fin 32) : Lane :=
  let read := !(vget l.rx b).temps.isEmpty
  let v := brickLevel l b
  let l := if read then brickStep l now b v else l
  let es := (brickSensors b).filterMap fun (s : Fin 150) => sensorTts l s
  let tts : Option Rat := match es with | [] => none | e :: t => some (t.foldl rmin e)
  let axs := brickCritical l b
  let l := fsetB (fset l (THM_BST_TTS b) (ttsCode tts)) (THM_BST_CRIT b) (!axs.isEmpty)
  let l := if read then criticalStops l ⟨4 * b.1, by omega⟩ tts axs else l
  if v = 3 then brickLost l b else l

/-- Whether an immediate stop asked of an axis would move it (R250). -/
def stopMoves (l : Lane) (a : Axis) : Bool :=
  decide (esRank (fget l (AXS_STS_ESTATE a)) < esRank 8) && (vget l.axes a).ask.all fun e => decide (esRank e < esRank 8)

/-- A pin at a T1 tick: estimate, critical stop, and its axis in IMSTOP while it stands at shut-down (R382 to R384). `lv` is its level
before. A stale reading stops no axis (R374). -/
def pinThermal (l : Lane) (p : Fin 16) (lv : Nat) : Lane :=
  let s : Fin 150 := ⟨128 + p.1, by omega⟩
  if fon l (THM_PIN_OWNED p) && fget l (THM_PIN_TYPE p) ≠ 0 then
    let tts := sensorTts l s
    let a : Axis := ⟨fget l (THM_PIN_AXIS p) % 16, Nat.mod_lt _ (by decide)⟩
    let l := fset l (THM_PTS_TTS p) (ttsCode tts)
    if fon l (THM_T_STALE s) then l else
    let l := criticalStops l s tts [a]
    if fget l (THM_T_LEVEL s) = 3 ∧ axEnabled l a ∧ (lv ≠ 3 ∨ stopMoves l a) then axAsk l a 8 else l
  else l

/-- Thermal management at a T1 tick: `d` brings the diodes' readings. -/
def thmTick (l : Lane) (now : Nat) (d : T1In) : Lane :=
  let l := laneDiode (laneDiode l 144 d.laneA) 145 d.laneB
  let l := (allFin 4).foldl (fun (l : Lane) (k : Fin 4) => linkDiode l k (d.links.getD k.1 .missing)) l
  let l := brickTemps l
  let links := (allFin 4).map fun (k : Fin 4) =>
    if (vget l.sens ⟨146 + k.1, by omega⟩).hist.isEmpty then 0 else fget l (THM_T_LEVEL (146 + k.1))
  let pins := (allFin 16).map fun (p : Fin 16) => fget l (THM_T_LEVEL (128 + p.1))
  let l := (allFin 150).foldl (tickSensor now) l
  let l := (allFin 32).foldl (fun (l : Lane) (b : Fin 32) => brickThermal now l b) l
  let l := (allFin 16).foldl (fun (l : Lane) (p : Fin 16) => pinThermal l p (pins.getD p.1 3)) l
  let l := laneStep l now
  -- the lane's own shut-down (R385), and a link cartridge's (R386)
  let me : Nat := match l.ident with | .A => 0 | .B => 1
  let own := 144 + me
  let l := if !l.shut && !(fon l (THM_T_STALE own)) && decide (fget l (THM_T_LEVEL own) = 3) then
      ask (fmWrite (peatWrite { l with shut := true, shutAt := now } now 1 4 0 1 (wordOf own) 0#32) now 1 4 0 (wordOf own) 0#32) (.yieldNamed l.ident)
    else l
  let l := (allFin 4).foldl (fun (l : Lane) (k : Fin 4) =>
    let s := 146 + k.1
    if (links.getD k.1 3) ≠ 3 && decide (fget l (THM_T_LEVEL s) = 3) then ask l (.linkShut k) else l) l
  thmSummary l

/-! ## Commands -/

/-- The instants at which the steps of an object change next in a lane: of a lane, of either diode. -/
def objDues (l : Lane) (o : ThrottleObj) : List Nat :=
  match o with
  | .brick b => (stepDue l (fget l (THM_BST_STEP b)) (vget l.btimes b)).toList
  | .lane => (laneStepDue l 0).toList ++ (laneStepDue l 1).toList

/-- The steps of an object that are due by `now` change (R377). -/
def objStep (now : Nat) (o : ThrottleObj) (l : Lane) : Lane :=
  let due (d : Option Nat) : Bool := d.any fun t => decide (t ≤ now)
  match o with
  | .brick b =>
    let st := fget l (THM_BST_STEP b)
    if due (stepDue l st (vget l.btimes b)) then
      setStep { l with btimes := vmod l.btimes b fun x => { x with at_ := now } } b (stepTimer st (vget l.btimes b))
    else l
  | .lane =>
    let d (i : Fin 2) : Bool := due (laneStepDue l i)
    let n (i : Fin 2) : Nat := if d i then stepTimer (vget l.lsteps i) (vget l.ltimes i) else vget l.lsteps i
    let x (i : Fin 2) : StepRt := if d i then { (vget l.ltimes i) with at_ := now } else vget l.ltimes i
    if d 0 || d 1 then setLane { l with ltimes := #v[x 0, x 1] } n else l

/-- THROTTLE_STEP (R377 to R380): TSTEP seconds have passed since the object's level crossed the throttle threshold or its step
changed. -/
def execThrottleStep (o : ThrottleObj) (s : State) : Out :=
  let first (l : Lane) : Nat := if laneRuns l then (match objDues l o with | t :: ts => ts.foldl min t | [] => 0) else 0
  let s := tickTo (max (first s.la) (first s.lb)) s
  .next (inRunning (objStep s.now o) s)

/-- READING_STALE (R374): a pin of an absent cartridge, or a diode that has not reported for 10 T1 ticks. -/
def execReadingStale (n : Fin 150) (s : State) : Out :=
  .next (inRunning (fun l =>
    match sensorClass n with
    | 0 => l
    | 1 => if slotUp l (8 + (n.1 - 128) / 8) then l else thmSummary (staleSensor l n)
    | _ => thmSummary (muteDiode l n)) s)

/-- Whether a reading lies below THROT − HYT of its sensor, by the thresholds a lane holds (R387). -/
def coolRead (l : Lane) (s : Nat) (t : Int) : Bool :=
  decide (t < fgetI l (THM_CFG_THROT s) - (fget l (THM_CHY_HYT s) : Int))

/-- LANE_SHUTDOWN_ABANDON (R385): 2 ms after the decision the hand-over is abandoned. -/
def execLaneShutdownAbandon (lane : LaneId) (s : State) : Out :=
  let l := laneOf s lane
  if l.shut && laneActive l then
    let s := tickTo (l.shutAt + 6400000) s
    .next { (modLane s lane fun l => fsetB l XLN_STS_HOBUSY false) with ho := .none }
  else .next s

/-- LANE_STOP (R385): once its hand-over has ended and its records are committed, at the latest 5 ms after the decision, the lane
enters FAULT and its clock domains except Ember stop; the other lane sets LSHUT. -/
def execLaneStop (lane : LaneId) (s : State) : Out :=
  let l := laneOf s lane
  let busy := laneActive l && decide (s.ho ≠ .none)
  if l.shut && ((!busy && l.peatQ.isEmpty) || decide (l.shutAt + 16000000 ≤ s.now)) then
    let s := modLane s lane fun l => fset (setRole s.now roleFault l) CLK_DOM_RUN 1
    let s := modLane s (otherLane lane) fun l => if laneRuns l then stkSeen l THM_STK_LSHUT else l
    .next (settle s)
  else .next s

end Sys2Proof.Machine
end

