-- ==== Sys2Proof/Machine/Can.lean ====
section
/-!
DEFINITION. The CAN block of a lane and its commands (chapter 11): thicket and queues, transmit classes, the candidate, the
bit engine's reports, and the time service.
-/
namespace Sys2Proof.Machine

/-- The lane with a port's run data changed. -/
def modCan (l : Lane) (p : CanPort) (f : CanRt → CanRt) : Lane := { l with cans := vmod l.cans p f }

/-- The base of port `p` in queue SRAM (R348). -/
def canBase (p : Nat) : Nat := 0x03000000 + 0x8000 * p

/-- The address of entry `i` of queue `q` (R348). -/
def entryAddr (p q i : Nat) : Nat := canBase p + (if q = 0 then 0 else 0x1800) + 0x60 * i

/-- Whether a mode is a loop-back mode (R344). -/
def canLoop (m : Nat) : Bool := m = 4 || m = 5

/-- Whether a port in a mode starts frames: normal or loop-back (R344). -/
def modeSends (m : Nat) : Bool := m = 1 || canLoop m

/-- The data bytes of a frame (R342): `fdf` for an FD frame. -/
def dlcBytes (fdf : Bool) (dlc : Nat) : Nat :=
  if dlc ≤ 8 then dlc
  else if !fdf then 8
  else match dlc with | 9 => 12 | 10 => 16 | 11 => 20 | 12 => 24 | 13 => 32 | 14 => 48 | _ => 64

/-- The live queue and transmit registers (R366). -/
def canSummary (l : Lane) (p : CanPort) : Lane :=
  let x := vget l.cans p
  let l := fset (fset l (CAN_QSTS_Q0F p) x.full0.length) (CAN_QSTS_Q0O p) x.own0.length
  let l := fset (fset l (CAN_QSTS_Q1F p) x.full1.length) (CAN_QSTS_Q1O p) x.own1.length
  let l := fset l (CAN_TXSTS_QFILL p) x.fifo.length
  fset l (CAN_TXSTS_DPEND p) ((List.range 8).foldl (fun m k => if fget l (CAN_DS_STATE p k) = 1 then m + 2 ^ k else m) 0)

/-! ## Reception (R345 to R348) -/

/-- The first enabled pair of the thicket that matches word 0 of a frame (R345): its number and action. -/
def thicket (l : Lane) (p : CanPort) (w0 : Word) : Option (Nat × Nat) :=
  (List.range 64).findSome? fun k =>
    let act := fget l (CAN_FACT_ACT p k)
    if act ≠ 0 ∧ (w0 ^^^ rget l (CAN_FID p k)) &&& rget l (CAN_FMSK p k) = 0#32 then some (k, act) else none

/-- The words of a receive entry are written with fresh check bits (R348); only the frame's data bytes are written. -/
def writeEntry (l : Lane) (a : Nat) (w0 w1 : Word) (soft sofe : Nat) (data : List Word) (n : Nat) : Lane :=
  let put (l : Lane) (j : Nat) (w : Word) : Lane := eccSet (mset32 l (a + 4 * j) w) (a + 4 * j) .none
  let l := put (put l 0 w0) 1 w1
  let l := put (put (put l 2 (wordOf soft)) 3 (wordOf (soft / 2 ^ 32))) 4 (wordOf sofe)
  let l := (List.range n).foldl (fun l i =>
    mset8 l (a + 20 + i) ((data.getD (i / 4) 0#32).extractLsb' (8 * (i % 4)) 8)) l
  put (put (put l 21 0#32) 22 0#32) 23 0#32

/-- The lowest-numbered FREE entry of a queue (R346). -/
def freeEntry (n : Nat) (full own : List Nat) : Option Nat := (List.range n).find? fun i => !(full.contains i) && !(own.contains i)

/-- An accepted frame is queued (R346, R347). `extra` holds FILT, NOMATCH and SELF at their places in word 1. -/
def queueFrame (l : Lane) (now : Nat) (p : CanPort) (q : Nat) (f : CanFrame) (sof extra : Nat) : Lane :=
  let x := vget l.cans p
  let full := if q = 0 then x.full0 else x.full1
  let own := if q = 0 then x.own0 else x.own1
  let seq := if q = 0 then x.seq0 else x.seq1
  let ow := fon l (if q = 0 then CAN_CFG_Q0OW p else CAN_CFG_Q1OW p)
  let lost (l : Lane) : Lane :=
    if q = 0 then stkLate (fcount l (CAN_CNT_Q0OVR p)) (CAN_STK_Q0OVR p) else stkLate (fcount l (CAN_CNT_Q1OVR p)) (CAN_STK_Q1OVR p)
  let place := match freeEntry (if q = 0 then 64 else 256) full own with
    | some i => some (i, full, false)
    | none => match full with
      | i :: t => if ow then some (i, t, true) else none
      | [] => none
  match place with
  | none => lost l
  | some (i, rest, full) =>
    let l := if full then lost l else l
    let w1 := f.w1.toNat % 64 + extra + 65536 * (seq % 65536)
    let n := if f.w0.getLsbD 30 then 0 else dlcBytes (f.w0.getLsbD 31) (f.w1.toNat % 16)
    let l := writeEntry l (entryAddr p q i) f.w0 (wordOf w1) (shipCode (shipAt l now sof)) (tbCode l sof) f.data n
    let l := modCan l p fun x =>
      if q = 0 then { x with full0 := rest ++ [i], seq0 := (seq + 1) % 65536 } else { x with full1 := rest ++ [i], seq1 := (seq + 1) % 65536 }
    raiseO l now ((if q = 0 then 0x60 else 0x64) + p.1) p 0 0#32

/-! ## Transmission (R349 to R355) -/

/-- The arbitration order of word 0 (R350): the lower number wins. -/
def arbKey (w0 : Word) : Nat :=
  let v := w0.toNat
  let fdf := bitsOf v 31 1
  let rtr := if fdf = 1 then 0 else bitsOf v 30 1
  if bit v 29 then bitsOf v 18 11 * 2 ^ 22 + 2 ^ 21 + 2 ^ 20 + bitsOf v 0 18 * 4 + rtr * 2 + fdf
  else bitsOf v 0 11 * 2 ^ 22 + rtr * 2 ^ 21 + fdf

/-- The frame a transmit object stands for. -/
def txFrame (l : Lane) (p : CanPort) (o : TxObj) : Option TxFrame :=
  match o with
  | .queued => (vget l.cans p).fifo.head?
  | .slot k => if fget l (CAN_DS_STATE p k) = 1 then vget (vget l.cans p).slots k else none
  | .ref => (vget l.cans p).refF

/-- The candidate (R350): the frame of highest priority among the pending slots and the head of the FIFO; among equal ones the
one placed earlier. -/
def chooseCand (l : Lane) (p : CanPort) : Option TxObj :=
  let os : List TxObj := [TxObj.ref] ++ ((allFin 8).map TxObj.slot) ++ [TxObj.queued]
  let better (a b : TxFrame) : Bool := arbKey a.w0 < arbKey b.w0 || (arbKey a.w0 = arbKey b.w0 && decide (a.ord < b.ord))
  (os.foldl (fun (best : Option (TxObj × TxFrame)) o =>
    match txFrame l p o, best with
    | none, _ => best
    | some f, none => some (o, f)
    | some f, some (_, g) => if better f g then some (o, f) else best) none).map fun x => x.1

/-- Whether the lane hands the port's engine frames: a mode that starts them (R344), the cartridge there and not silent (R341). -/
def handsFrames (l : Lane) (p : CanPort) : Bool :=
  modeSends (fget l (CAN_CFG_MODE p)) && !(fon l (CAN_STS_NOCART p)) && !(vget l.cans p).quiet

/-- The candidate is chosen at a consumption (R350); the engine may still begin the one before it for the withdrawal delay (R340). -/
def candUpdate (l : Lane) (now : Nat) (p : CanPort) : Lane :=
  let c := if handsFrames l p then chooseCand l p else none
  modCan l p fun x => if c = x.cand then x else { x with cand := c, gone := (x.gone.filter fun g => decide (now ≤ g.2 + 76800)) ++ x.cand.toList.map fun o => (o, now) }

/-- The deadline-report event of slot `k` (R354, R355, R421). -/
def slotReport (l : Lane) (now : Nat) (p : CanPort) (k : Nat) : Lane := raiseO l now (0x5C + p.1) (2 ^ k) 0 0#32

/-- A nominal or data bit in ns (R343). -/
def bitNs (brp ts1 ts2 : Nat) : Rat := mkRat ((25 * (brp + 1) * (3 + ts1 + ts2) : Nat) : Int) 2

/-- Dmax of a frame in ns (R353). -/
def frameDmax (l : Lane) (p : CanPort) (w0 w1 : Word) : Rat :=
  let v := w0.toNat
  let fdf := bit v 31
  let n := dlcBytes fdf (w1.toNat % 16)
  let tn := bitNs (fget l (CAN_NBT_NBRP p)) (fget l (CAN_NBT_NTSEG1 p)) (fget l (CAN_NBT_NTSEG2 p))
  let td := bitNs (fget l (CAN_DBT_DBRP p)) (fget l (CAN_DBT_DTSEG1 p)) (fget l (CAN_DBT_DTSEG2 p))
  if !fdf then (((5 * ((if bit v 29 then 67 else 47) + 8 * n) + 3) / 4 : Nat) : Rat) * tn
  else
    let nn : Nat := if bit v 29 then 59 else 36
    let nd : Nat := (5 * (5 + 8 * n) + 3) / 4 + 33
    if bit w1.toNat 4 then (nn : Rat) * tn + (nd : Rat) * td else ((nn + nd : Nat) : Rat) * tn

/-- A descriptor in the staging area of port `p` (R349): words 0, 1, the deadline and the data, or none if it is refused. An
address within the staging area that is not on a boundary of 0x60 from its start names no descriptor and is refused as one outside
(DESIGN CHOICE, see the assumption log). -/
def readDesc (l : Lane) (p : CanPort) (a : Nat) : Option (Word × Word × Nat × List Word) :=
  let b := canBase p + 0x7800
  if a < b ∨ b + 0x600 ≤ a ∨ (a - b) % 0x60 ≠ 0 then none
  else
    let w (j : Nat) : Word := mget32 l (a + 4 * j)
    let v := (w 0).toNat
    let u := (w 1).toNat
    let fdf := bit v 31
    let bad := bitsOf u 5 11 ≠ 0 || (w 4) ≠ 0#32 || w 21 ≠ 0#32 || w 22 ≠ 0#32 || w 23 ≠ 0#32 ||
      (fdf && !(fon l (CAN_CFG_FDEN p))) || (bit v 30 && fdf) || (bit u 4 && !fdf)
    if bad then none
    else some (w 0, w 1, (w 2).toNat + 2 ^ 32 * (w 3).toNat, (List.range 16).map fun j => w (5 + j))

/-- A frame for transmission. -/
def mkTx (l : Lane) (now : Nat) (p : CanPort) (w0 w1 : Word) (dl : Nat) (data : List Word) : TxFrame :=
  { w0 := w0, w1 := w1, data := data, dl := dl, lim := (dl : Rat) - frameDmax l p w0 w1,
    ord := (vget l.cans p).ord, at_ := now, begun := false, att := 0 }

/-- CTXQ's result and effect (R349, R351): the lane and the value of rd. -/
def queueTx (l : Lane) (now : Nat) (p : CanPort) (a : Nat) : Lane × Word :=
  match readDesc l p a with
  | none => (stk l (CAN_STK_BADDESC p), 0xFFFFFFFF#32)
  | some (w0, w1, _, data) =>
    if 32 ≤ (vget l.cans p).fifo.length then (l, 0#32)
    else
      let f := mkTx l now p w0 w1 0 data
      (canSummary (modCan l p fun x => { x with fifo := x.fifo ++ [f], ord := x.ord + 1 }) p, 1#32)

/-- The other port of a pair. -/
def pairPort (p : CanPort) : CanPort := ⟨(p.1 + 2) % 4, Nat.mod_lt _ (by decide)⟩

/-- Whether a port is in a pair (R359). -/
def paired (l : Lane) (p : CanPort) : Bool := fon l (CAN_CFG_PAIR p) && fon l (CAN_CFG_PAIR (pairPort p))

/-- Whether a port is the follower of a pair. -/
def isFollower (l : Lane) (p : CanPort) : Bool := paired l p && decide (2 ≤ p.1)

/-- The ports an instruction on `p` acts on: both of a pair from its leader (R359). -/
def portsOf (l : Lane) (p : CanPort) : List CanPort := if paired l p then [p, pairPort p] else [p]

/-- A frame is placed in slot `k` (R352). -/
def placeSlot (l : Lane) (p : CanPort) (k : Fin 8) (f : TxFrame) (tag : Nat) : Lane :=
  let l := modCan l p fun x => { x with slots := vset x.slots k (some { f with ord := x.ord }), ord := x.ord + 1 }
  canSummary (rset l (CAN_DS p k) (wordOf (1 + 65536 * tag))) p

/-- CTXD's result and effect (R352, R353, R359). -/
def deadlineTx (l : Lane) (now : Nat) (p : CanPort) (a : Nat) : Lane × Word :=
  if isFollower l p then (stk l (CAN_STK_PAIRERR p), 0xFFFFFFFF#32)
  else match readDesc l p a with
  | none => (stk l (CAN_STK_BADDESC p), 0xFFFFFFFF#32)
  | some (w0, w1, dl, data) =>
    let ps := portsOf l p
    match (allFin 8).find? fun (k : Fin 8) => bit (fget l (CAN_DEN_EN p)) k && ps.all fun q => decide (fget l (CAN_DS_STATE q k) ≠ 1) with
    | none => (l, 0xFFFFFFFF#32)
    | some k =>
      (ps.foldl (fun l q => placeSlot l q k (mkTx l now q w0 w1 dl data) (w1.toNat / 65536)) l, wordOf k)

/-- A pending slot of one port is cancelled (R355): true when its frame had not begun. -/
def cancelSlot (l : Lane) (p : CanPort) (k : Fin 8) : Lane × Bool :=
  match txFrame l p (.slot k) with
  | none => (l, false)
  | some f =>
    if f.begun then (l, false)
    else (canSummary (fset (fset l (CAN_DS_STATE p k) 4) (CAN_DT_TOUT p k) (shipNs l % 2 ^ 32)) p, true)

/-- CCAN's result and effect (R355, R359). On a pair's leader each port's frame is judged for itself, and the result is 1 when either
was cancelled (DESIGN CHOICE, see the assumption log). -/
def cancelTx (l : Lane) (p : CanPort) (k : Fin 8) : Lane × Word :=
  if isFollower l p then (stk l (CAN_STK_PAIRERR p), 0xFFFFFFFF#32)
  else
    let r := (portsOf l p).foldl (fun (acc : Lane × Bool) q => let x := cancelSlot acc.1 q k; (x.1, acc.2 || x.2)) (l, false)
    (r.1, if r.2 then 1#32 else 0#32)

/-- CRX's result and effect (R346). -/
def takeEntry (l : Lane) (p : CanPort) (q : Nat) : Lane × Word :=
  let x := vget l.cans p
  match (if q = 0 then x.full0 else x.full1) with
  | [] => (l, 0#32)
  | i :: t =>
    let l := modCan l p fun x => if q = 0 then { x with full0 := t, own0 := x.own0 ++ [i] } else { x with full1 := t, own1 := x.own1 ++ [i] }
    (canSummary l p, wordOf (entryAddr p q i))

/-- CACK's effect (R346). -/
def ackEntry (l : Lane) (a : Nat) : Lane :=
  let p : CanPort := if 0x03000000 ≤ a ∧ a < 0x03020000 then ⟨(a - 0x03000000) / 0x8000 % 4, Nat.mod_lt _ (by decide)⟩ else 0
  let x := vget l.cans p
  match x.own0.find? fun i => entryAddr p 0 i = a, x.own1.find? fun i => entryAddr p 1 i = a with
  | some i, _ => canSummary (modCan l p fun x => { x with own0 := x.own0.filter fun j => j ≠ i }) p
  | none, some i => canSummary (modCan l p fun x => { x with own1 := x.own1.filter fun j => j ≠ i }) p
  | none, none => stk l (CAN_STK_BADACK p)

/-! ## Outcomes (R351, R354, R355, R358) -/

/-- A deadline slot expires and its report is raised: the message that is not delivered is reported, by its deadline (R109, R354). -/
def expireSlot (l : Lane) (now : Nat) (p : CanPort) (k : Fin 8) : Lane :=
  match txFrame l p (.slot k) with
  | none => l
  | some f =>
    let l := fset (fset l (CAN_DS_STATE p k) 3) (CAN_DT_TOUT p k) (uCode 32 (rround f.lim))
    slotReport (canSummary (stk l (CAN_STK_DEXP p)) p) now p k

/-- A frame's run data changed. -/
def modTx (l : Lane) (p : CanPort) (o : TxObj) (f : TxFrame → TxFrame) : Lane :=
  match o with
  | .queued => modCan l p fun x => { x with fifo := match x.fifo with | h :: t => f h :: t | [] => [] }
  | .slot k => modCan l p fun x => { x with slots := vset x.slots k ((vget x.slots k).map f) }
  | .ref => modCan l p fun x => { x with refF := x.refF.map f }

/-- The head of the FIFO is dropped after its retries (R351). -/
def dropHead (l : Lane) (p : CanPort) (w0 : Word) : Lane :=
  let l := fset (stkLate (fcount l (CAN_CNT2_QDROP p)) (CAN_STK_QDROP p)) (CAN_QLAST_ID p) (bitsOf w0.toNat 0 29)
  canSummary (modCan (fset l (CAN_QLAST_IDE p) (bitsOf w0.toNat 29 1)) p fun x => { x with fifo := x.fifo.tail }) p

/-- The master's own reference expires (R362). -/
def refMissed (l : Lane) (p : CanPort) : Lane := stkLate (modCan l p fun x => { x with refF := none }) (CAN_STK_TSMISS p)

/-- The reference of a master that has not begun by L + 12 µs, with no report of it (R354, R362). -/
def refExpire (l : Lane) (p : CanPort) : Lane :=
  match (vget l.cans p).refF with
  | some f => if !f.begun && decide (f.lim + 12000 < l.ship) then refMissed l p else l
  | none => l

/-- A failed attempt (R351, R354, R358). -/
def failedAttempt (l : Lane) (now : Nat) (p : CanPort) (o : TxObj) (e : AttemptErr) : Lane :=
  match txFrame l p o with
  | none => fsetB l (CAN_STS_TXON p) false
  | some f =>
    let id := f.w0 &&& 0x3FFFFFFF#32
    let l := fsetB (modTx l p o fun f => { f with begun := false, att := f.att + 1 }) (CAN_STS_TXON p) false
    let hit := e.bitAfterArb && decide ((vget l.cans p).col = some id)
    let l := if hit then stkLate (fset (fset l (CAN_IDCOL_ID p) (bitsOf id.toNat 0 29)) (CAN_IDCOL_IDE p) (bitsOf id.toNat 29 1)) (CAN_STK_IDCOL p) else l
    let l := modCan l p fun x => { x with col := if e.bitAfterArb then some id else none }
    match o with
    | .queued => if fget l (CAN_CFG_QRETRY p) < f.att + 1 then dropHead l p f.w0 else l
    | .slot k =>
      let l := fset l (CAN_DS_ATT p k) (satNat 255 (fget l (CAN_DS_ATT p k) + 1))
      if f.lim < shipAt l now e.at_ then expireSlot l now p k else l
    | .ref => if f.lim < shipAt l now e.at_ then refMissed l p else l

/-- A frame was sent (R351, R355): `eof` is the end of its EOF. An outcome of a slot that holds no pending frame, or a later
one, is that of an expired or cancelled frame, which is never reported as sent (R109). -/
def frameSent (l : Lane) (now : Nat) (p : CanPort) (o : TxObj) (sof eof : Nat) : Lane :=
  let l := fsetB l (CAN_STS_TXON p) false
  match o with
  | .queued => canSummary (modCan l p fun x => { x with fifo := x.fifo.tail, col := none }) p
  | .ref => modCan l p fun x => { x with refF := none, col := none, ownSof := some (shipCode (shipAt l now sof)) }
  | .slot k =>
    let late := match txFrame l p o with | some f => decide (sof < f.at_) | none => true
    if late then
      (if fget l (CAN_DS_STATE p k) = 3 ∨ fget l (CAN_DS_STATE p k) = 4 then stkLate (fsetB l (CAN_DS_ONBUS p k) true) (CAN_STK_ONBUS p)
       else stkLate l (CAN_STK_ONBUS p))
    else
      let l := fset (fset l (CAN_DS_STATE p k) 2) (CAN_DT_TOUT p k) (shipCode (shipAt l now eof) % 2 ^ 32)
      slotReport (canSummary (modCan l p fun x => { x with col := none }) p) now p k

/-- Error counters and state (R356). -/
def errorState (l : Lane) (now : Nat) (p : CanPort) (tec rec es borec : Nat) : Lane :=
  let was := fget l (CAN_STS_ESTATE p)
  let tec0 := fget l (CAN_ECNT_TEC p)
  let rec0 := fget l (CAN_ECNT_REC p)
  let l := fset (fset (fset l (CAN_ECNT_TEC p) tec) (CAN_ECNT_REC p) rec) (CAN_ECNT_BOREC p) borec
  let w := decide (96 ≤ tec) || decide (96 ≤ rec)
  let up := decide (tec0 < 96 ∧ 96 ≤ tec) || decide (rec0 < 96 ∧ 96 ≤ rec)
  let l := stkIfLate up (fsetB l (CAN_STS_EWARN p) w) (CAN_STK_EWARN p)
  let l := fset l (CAN_STS_ESTATE p) es
  let l := stkIfLate (decide (es = 1 ∧ was ≠ 1)) l (CAN_STK_EPASS p)
  let l := fsetB l (CAN_STS_RECOV p) (decide (es = 2))
  if es = 2 ∧ was ≠ 2 then
    raiseO (stkLate (fcount (fsetB l (CAN_STS_TXON p) false) (CAN_CNT2_BOFF p)) (CAN_STK_BUSOFF p)) now (0x58 + p.1) p 0 0#32
  else l

/-! ## Time service (R360 to R363) -/

/-- REFPER in edge ticks. -/
def refTicks (l : Lane) (p : CanPort) : Nat := 3200 * fget l (CAN_TSPER_REFPER p)

/-- The port that governs ship time at `now` (R360). -/
def governor (l : Lane) (now : Nat) : Option CanPort :=
  (allFin 4).find? fun p => fon l (CAN_TSCFG_ROLE p) &&
    (match (vget l.cans p).pairAt with | some t => decide (now ≤ t + 2 * refTicks l p) | none => false)

/-- The GOVERN bits (R360, R368). -/
def governBits (l : Lane) (now : Nat) : Lane :=
  let g := governor l now
  (allFin 4).foldl (fun (l : Lane) (p : CanPort) => fsetB l (CAN_TSSTS_GOVERN p) (decide (g = some p))) l

/-- The sender's priority if the frame is a reference message for port `p` (R361). -/
def refPrio (l : Lane) (p : CanPort) (f : CanFrame) : Option (Fin 8) :=
  let v := f.w0.toNat
  let u := f.w1.toNat
  let id := bitsOf v 0 11
  let r := fget l (CAN_TSCFG_REFID p)
  if fon l (CAN_TSCFG_ROLE p) && !(bit v 29) && !(bit v 30) && u % 16 = 8 && (!(bit v 31) || !(bit u 4)) && decide (r ≤ id) then
    (if h : id - r < 8 then some ⟨id - r, h⟩ else none)
  else none

/-- An accepted pair with error `e` acts on ship time and on the port's registers (R363). -/
def refPair (l : Lane) (now : Nat) (p : CanPort) (e : Int) : Lane :=
  let l := fsetI l (CAN_TSERR_E p) (satInt (-2147483648) 2147483647 e)
  let x := vget l.cans p
  let small := decide (e.natAbs ≤ 1000)
  let step := (!(fon l (CAN_TSSTS_ALIGNED p)) && decide (x.pairs = 0)) || decide (1000 * fget l (CAN_TSCF2_STEPLIM p) < e.natAbs)
  let good := if small then x.good + 1 else 0
  let l := modCan l p fun x => { x with pairs := x.pairs + 1, good := satNat 4 good, pairAt := some now }
  let l := if 4 ≤ good then fsetB l (CAN_TSSTS_ALIGNED p) true else l
  let l := governBits l now
  if governor l now = some p then
    if step then stkLate (shipMark { l with ship := l.ship + (e : Rat) } now) (CAN_STK_TSSTEP p)
    else
      let per := fget l (CAN_TSPER_REFPER p)
      let r := satInt (-200000000) 200000000 (fgetI l (CAN_TSRATE_RATE p) + rround (mkRat (e * 1000000000) (8 * per)))
      -- a slew never makes ship time run backwards
      let lo := -(shipRun r 0 0 (refTicks l p : Rat))
      shipMark { (fsetI l (CAN_TSRATE_RATE p) r) with shipRate := r, slewNs := max lo (mkRat e 4), slewT := refTicks l p } now
  else l

/-- A reference message is received (R360 to R363). -/
def refReceived (l : Lane) (now : Nat) (p : CanPort) (prio : Fin 8) (f : CanFrame) (sof : Nat) : Lane :=
  let cand := decide (fget l (CAN_TSCFG_ROLE p) = 2)
  -- a candidate follows only a master of higher priority
  if cand && decide (fget l (CAN_TSCFG_PRIO p) ≤ prio.1) then l
  else
    let l := modCan l p fun x => { x with refF := none, refAt := some sof }
    let l := fset (fset l (CAN_TSSTS_STATE p) (if cand then 3 else 1)) (CAN_TSSTS_MPRIO p) prio
    let prev := vget (vget l.cans p).refs prio
    let l := modCan l p fun x => { x with refs := vset x.refs prio (some sof) }
    let d0 := f.data.getD 0 0#32
    let d1 := f.data.getD 1 0#32
    if d0 = 0xFFFFFFFF#32 ∧ d1 = 0xFFFFFFFF#32 then l
    else match prev with
    | none => l
    | some t =>
      let per := refTicks l p
      if 4 * (sof - t) ≤ 5 * per ∧ 3 * per ≤ 4 * (sof - t) then
        let tm : Int := ((d0.toNat + 2 ^ 32 * d1.toNat : Nat) : Int)
        refPair l now p (tm + ((fget l (CAN_TSCF2_PDLY p) : Nat) : Int) - rround (shipAt l now t))
      else l

/-! ## Reports -/

/-- A frame received without error (R342, R344, R345). -/
def frameReceived (l : Lane) (now : Nat) (p : CanPort) (f : CanFrame) (sof : Nat) (self : Bool) : Lane :=
  let mode := fget l (CAN_CFG_MODE p)
  if mode = 0 || (self && !(canLoop mode)) || (f.w0.getLsbD 31 && !(fon l (CAN_CFG_FDEN p))) then l
  else
    let l := match refPrio l p f with | some q => if self then l else refReceived l now p q f sof | none => l
    let sf := if self then 2 ^ 13 else 0
    match thicket l p f.w0 with
    | some (k, 1) => canSummary (queueFrame l now p 0 f sof (64 * k + sf)) p
    | some (k, 2) => canSummary (queueFrame l now p 1 f sof (64 * k + sf)) p
    | some _ => l
    | none => if fon l (CAN_CFG_NOMATCH p) then canSummary (queueFrame l now p 1 f sof (2 ^ 12 + sf)) p else l

/-- Object `o` is no longer under way on a port. -/
def runEnds (l : Lane) (p : CanPort) (o : TxObj) : Lane :=
  modCan l p fun x => { x with run := x.run.filter fun r => decide (r.1 ≠ o) }

/-- One report reaches a lane (R339). -/
def canReport (l : Lane) (now : Nat) (p : CanPort) (r : CanReport) : Lane :=
  let l := match r with
    | .received f sof _ self => frameReceived l now p f sof self
    | .begun o sof =>
      modCan (fsetB (modTx l p o fun f => if f.at_ ≤ sof then { f with begun := true } else f) (CAN_STS_TXON p) true) p fun x =>
        { x with run := some (o, sof) }
    | .sent o sof eof => runEnds (frameSent l now p o sof eof) p o
    | .arbLost o => runEnds (fsetB (fcount (modTx l p o fun f => { f with begun := false }) (CAN_CNT3_ALOST p)) (CAN_STS_TXON p) false) p o
    | .error o e => runEnds (failedAttempt l now p o e) p o
    | .withdrawn o => runEnds (modTx l p o fun f => { f with begun := false }) p o
    | .startRefused o => match o with
      | .slot k => match txFrame l p o with
        | some f => if !f.begun && decide (f.lim < l.ship) then expireSlot l now p k else l
        | none => l
      | .ref => match txFrame l p o with
        | some f => if !f.begun && decide (f.lim < l.ship) then refMissed l p else l
        | none => l
      | .queued => l
    | .counters tec rec es bo => errorState l now p tec.toNat rec.toNat es.toNat bo.toNat
    | .errorFrame => fcount l (CAN_CNT3_ERRF p)
    | .protocolException => if fon l (CAN_CFG_PXHD p) then l else stkLate l (CAN_STK_PXE p)
  candUpdate l now p

/-- The delivery instant of a report (R339): the end of the field frame in which the EOF, or the outcome, falls, plus 2 µs. -/
def deliveryOf (now : Nat) (r : CanReport) : Nat :=
  match r with
  | .received _ _ eof _ => ceilTo 16000 eof + 6400
  | .begun _ sof => ceilTo 16000 sof + 6400
  | .sent _ _ eof => ceilTo 16000 eof + 6400
  | .error _ e => ceilTo 16000 e.at_ + 6400
  | _ => if now < 6400 then 6400 else ceilTo 16000 (now - 6400) + 6400

/-- Whether the cartridge of a port is there (R341). -/
def canCart (l : Lane) (p : CanPort) : Bool := slotUp l (8 + p.1 / 2)

/-- The NOCART bits follow the presence scan; a port without its cartridge has no candidate (R341, R364). -/
def canPresence (l : Lane) : Lane :=
  (allFin 4).foldl (fun (l : Lane) (p : CanPort) =>
    let l := fsetB l (CAN_STS_NOCART p) (!(canCart l p))
    if canCart l p then l else modCan l p fun x => { x with cand := none }) l

/-- A field cartridge entered SAFE: its ports fall silent, and their engines withdraw their candidates (R341). -/
def canSilent (l : Lane) (now : Nat) (f : FieldNo) : Lane :=
  (allFin 4).foldl (fun (l : Lane) (p : CanPort) =>
    if p.1 / 2 = f.1 ∧ fget l (CAN_CFG_MODE p) ≠ 0 then
      stkLate (candUpdate (modCan l p fun x => { x with quiet := true }) now p) (CAN_STK_SILENT p)
    else l) l

/-- The ports of a field cartridge at a field-frame consumption (R350); `quiet`: the cartridge hears no field-down frames (R341). -/
def canConsume (l : Lane) (now : Nat) (f : FieldNo) (quiet : Bool) : Lane :=
  (allFin 4).foldl (fun (l : Lane) (p : CanPort) =>
    if p.1 / 2 = f.1 then candUpdate (refExpire (modCan l p fun x => { x with quiet := quiet }) p) now p else l) l

/-- Whether a lane holds the port's frame `o` as begun. -/
def txBegun (l : Lane) (p : CanPort) (o : TxObj) : Bool := match txFrame l p o with | some f => f.begun | none => false

/-- Whether the engine may begin object `o` at `sof`: it is the candidate, or was one within the withdrawal delay of 12 µs (R340); its
start limit has not passed (R354); the port is not in bus-off (R357). -/
def mayBegin (l : Lane) (now : Nat) (p : CanPort) (o : TxObj) (sof : Nat) : Bool :=
  let x := vget l.cans p
  let held := decide (x.cand = some o) || x.gone.any fun g => decide (g.1 = o ∧ sof ≤ g.2 + 38400)
  let inTime := match o, txFrame l p o with
    | .queued, _ | _, none => true
    | _, some f => decide (sof < f.at_) || decide (shipAt l now sof ≤ f.lim)
  held && inTime && decide (fget l (CAN_STS_ESTATE p) ≠ 2)

/-- Whether the engine holds object `o`: begun, its candidate, or one within its withdrawal delay (R340). -/
def hasFrame (l : Lane) (p : CanPort) (o : TxObj) : Bool :=
  let x := vget l.cans p
  x.run.any (fun r => decide (r.1 = o)) || decide (x.cand = some o) || x.gone.any fun g => decide (g.1 = o)

/-- Whether the port's engine can give the report: a port that starts no frames has no transmit outcome, and its counters are frozen
(R344); an engine that fell silent at `silent` completes the frame it had begun and begins none after it (R341); it begins only what it
may, and ends only what it has begun or may have begun; no error state 0b11 is ever produced (R364). -/
def engineGives (l : Lane) (now : Nat) (p : CanPort) (silent : Option Nat) (r : CanReport) : Bool :=
  let starts := modeSends (fget l (CAN_CFG_MODE p))
  let before (t : Nat) : Bool := match silent with | some z => decide (t < z) | none => true
  match r with
  | .begun o sof => starts && before sof && mayBegin l now p o sof
  | .sent o sof _ => starts && before sof && (decide ((vget l.cans p).run = some (o, sof)) || mayBegin l now p o sof)
  | .arbLost o => starts && (silent.isNone || txBegun l p o) && hasFrame l p o
  | .error o e => starts && (before e.at_ || txBegun l p o) && hasFrame l p o
  | .counters _ _ es _ => starts && decide (es ≠ 3#2)
  | .startRefused _ => starts
  | _ => true

/-- The posting of a master's reference at ship time `t` ns (R361, R362). -/
def postReference (l : Lane) (now : Nat) (p : CanPort) (t : Nat) : Lane :=
  let l := if (vget l.cans p).refF.any fun f => !f.begun then refMissed l p else l
  let prev := match (vget l.cans p).ownSof with | some s => s | none => 2 ^ 64 - 1
  let w0 := wordOf (fget l (CAN_TSCFG_REFID p) + fget l (CAN_TSCFG_PRIO p))
  let f := mkTx l now p w0 8#32 (t + 250 * fget l (CAN_TSPER_REFPER p)) [wordOf (prev % 2 ^ 32), wordOf (prev / 2 ^ 32)]
  modCan l p fun x => { x with refF := some f, ord := x.ord + 1, refM := some t }

/-! ## Commands -/

/-- CAN_REPORT_DELIVERY (R35, R339): a port without its field cartridge reports nothing. -/
def execCanReportDelivery (p : CanPort) (r : CanReport) (s : State) : Out :=
  let s := tickTo (deliveryOf s.now r) s
  let f : FieldNo := ⟨p.1 / 2, by omega⟩
  let x := vget s.fields f
  let silent := if x.mute then some (x.heard + x.tout) else none
  if !(fieldPresent s f) then .next s else
  .next (settle (inRunning (fun l => if engineGives l s.now p silent r then canReport l s.now p r else l) s))

/-- The instant of a lane's own expiry record of a slot: L + 12 µs of a pending frame that has not begun (R354). -/
def expiryAt (l : Lane) (now : Nat) (p : CanPort) (k : Fin 8) : Option Nat :=
  match txFrame l p (.slot k) with
  | some f => if f.begun then none else some (shipReach l now (f.lim + 12000))
  | none => none

/-- LANE_EXPIRY_RECORD (R109, R354): no report has come by L + 12 µs for a pending frame that has not begun. -/
def execLaneExpiryRecord (p : CanPort) (k : Fin 8) (s : State) : Out :=
  let l0 := if laneRuns s.la then s.la else s.lb
  match expiryAt l0 s.now p k with
  | none => .next s
  | some t =>
    let s := tickTo t s
    .next (settle (inRunning (fun l => match txFrame l p (.slot k) with
      | some f => if f.begun then l else candUpdate (expireSlot l s.now p k) s.now p
      | none => l) s))

/-- BUS_OFF_RECOVERY (R357): the 128th occurrence; the candidate is chosen then. -/
def execBusOffRecovery (p : CanPort) (s : State) : Out :=
  .next (settle (inRunning (fun l =>
    if fget l (CAN_STS_ESTATE p) = 2 then candUpdate (errorState l s.now p 0 0 0 128) s.now p else l) s))

/-- REFERENCE_POST (R362): the master's ship time reaches a multiple of REFPER. -/
def execReferencePost (p : CanPort) (s : State) : Out :=
  let l0 := if laneRuns s.la then s.la else s.lb
  let per := 1000 * fget l0 (CAN_TSPER_REFPER p)
  -- a multiple that has been served is not posted again
  let t0 := ceilTo per (shipNs l0)
  let t := if (vget l0.cans p).refM = some t0 then t0 + per else t0
  if fget l0 (CAN_TSSTS_STATE p) ≠ 2 then .next s
  else
    let s := tickTo (shipReach l0 s.now t) s
    .next (inRunning (fun l => if fget l (CAN_TSSTS_STATE p) = 2 then postReference l s.now p t else l) s)

/-- Whether a port waits to become master (R362). -/
def masterWaits (l : Lane) (p : CanPort) : Bool := fget l (CAN_TSCFG_ROLE p) = 2 && fget l (CAN_TSSTS_STATE p) != 2

/-- The instant at which the wait ends (R362): REFPER + (P + 1) × REFPER / 8 after the latest reference of higher priority; with none
received yet, at the command (DESIGN CHOICE, see the assumption log). -/
def masterDue (l : Lane) (p : CanPort) : Nat :=
  match (vget l.cans p).refAt with
  | some t => if masterWaits l p then t + refTicks l p + (fget l (CAN_TSCFG_PRIO p) + 1) * refTicks l p / 8 else 0
  | none => 0

/-- MASTER_TIMEOUT (R362): a candidate without a reference of higher priority becomes master. -/
def execMasterTimeout (p : CanPort) (s : State) : Out :=
  let s := tickTo (max (if laneRuns s.la then masterDue s.la p else 0) (if laneRuns s.lb then masterDue s.lb p else 0)) s
  .next (inRunning (fun l =>
    if masterWaits l p then
      fset (fset (modCan l p fun x => { x with ownSof := none }) (CAN_TSSTS_STATE p) 2) (CAN_TSSTS_MPRIO p) (fget l (CAN_TSCFG_PRIO p))
    else l) s)

/-- ALIGNMENT_LOST (R363): no pair for 4 × REFPER. -/
def execAlignmentLost (p : CanPort) (s : State) : Out :=
  let at_ (l : Lane) : Nat := match (vget l.cans p).pairAt with
    | some t => if fon l (CAN_TSSTS_ALIGNED p) then t + 4 * refTicks l p else 0 | none => 0
  let s := tickTo (max (if laneRuns s.la then at_ s.la else 0) (if laneRuns s.lb then at_ s.lb else 0)) s
  .next (settle (inRunning (fun l =>
    if fon l (CAN_TSSTS_ALIGNED p) then
      let l := modCan (fsetB l (CAN_TSSTS_ALIGNED p) false) p fun x => { x with pairs := 0, good := 0 }
      governBits (raiseO (stkLate l (CAN_STK_TSLOST p)) s.now 0x68 p 0 0#32) s.now
    else l) s))

end Sys2Proof.Machine
end

