-- ==== Sys2Proof/Machine/FieldCmd.lean ====
section
/-!
DEFINITION. The commands of the field cartridges: field frames, pulsed windows, SSI transfers, STO channels, SAFE, outputs,
counters, probe and compare (chapters 9 and 10).
-/
namespace Sys2Proof.Machine

/-- A lane's part of a field-frame consumption at `now` (R16, R17): `use` is the frame both lanes hold; `drop` says that the
lane discards one it held. -/
def fieldConsume (l : Lane) (now : Nat) (f : FieldNo) (use : Option FieldFrame) (drop : Bool) (x : FioIn) (c : CartIn) (quiet : Bool) : Lane :=
  let age := if use.isSome then 0 else vget l.fage f + 1
  let l := stkIfLate drop l SYS_STK_INDROP
  let l := match use with
    | some d =>
      let l := match d.pins with | some ps => pinsArrive l f ps | none => l
      fioFrame (fbkFrame l now f (some d.chans)) now f d x c
    | none => fioGap (fbkFrame l now f none) now f
  let l := canConsume l now f quiet
  { l with fage := vset l.fage f age }

/-- The codes of R327 that a lane loads into cartridge `f`. -/
def safeTable (l : Lane) (f : FieldNo) : List Nat := (List.range 16).map fun j => fget l (FIO_OCFG_SAFE (16 * f.1 + j))

/-- A field cartridge at the end `t` of a field frame: what was due at its outputs has come, and its input stages and readbacks follow the
frame. -/
def fieldSample (t : Nat) (d : FieldFrame) (x : FieldRt) : FieldRt :=
  let x := fieldAt t x
  { x with stage := (stageRuns x.stage d.inputs).1, rbs := readBacks x.rbs d.rb, fend := t
           win := x.win.filter fun w => decide (t < w.1) }

/-- A cartridge in SAFE at `now` (R327): each output in its safe state, off while no table has been loaded, and what was commanded of
the switches ignored (R328). -/
def safeOutputs (now : Nat) (x : FieldRt) : FieldRt :=
  let on (j : Nat) : Bool := match x.table with
    | none => false
    | some t => match t.getD j 0 with | 1 => true | 2 => x.out.getLsbD j | _ => false
  let out := BitVec.ofNat 16 ((List.range 16).foldl (fun m j => if on j then m + 2 ^ j else m) 0)
  { x with
    safe := true, out := out
    outT := Vector.ofFn fun j => if out.getLsbD j = x.out.getLsbD j then vget x.outT j else now
    pend := x.pend.filter fun e => match e.2 with | .sw _ _ => false | _ => true }

/-- A field cartridge hears the lane that its selector names (R327): the safe-state table and TOUT of that lane's image are loaded; `rep`
says that a silence has been reported. -/
def fieldHears (l : Lane) (f : FieldNo) (t : Nat) (rep : Bool) (x : FieldRt) : FieldRt :=
  let x := { x with heard := t, mute := x.mute && !rep }
  if l.image.isSome then
    let y := { x with table := some (safeTable l f), tout := 320000 * fget l (FIO_SCFG_TOUT f) }
    -- the first table gives a cartridge that stands in SAFE its safe states
    if x.table.isNone && x.safe then safeOutputs t y else y
  else x

/-- FIELD_FRAME_CONSUMPTION (R16, R17): the end of the next field frame of a cartridge; which lanes held it intact. -/
def execFieldFrameConsumption (f : FieldNo) (heldA heldB : Bool) (d : FieldFrame) (s : State) : Out :=
  let x0 := vget s.fields f
  let t := max (ceilTo 16000 s.now) (x0.fend + 16000)
  let s := tickTo t s
  let here := fieldPresent s f
  let ha := heldA && here
  let hb := heldB && here
  let x := fieldSample t d x0
  let o : FioIn := { runs := (stageRuns x0.stage d.inputs).2, rb := x.rbs, sw := x.out, swT := x.outT
                     win := match x0.win with | some (due, v) => if due = t then some v else none | none => none }
  let c : CartIn := { safe := x.safe, mute := x.mute, stoA := x.stoA, stoB := x.stoB, disc := x.disc, cond := stoCondition s }
  let uses (l : Lane) (mine other : Bool) : Bool := mine && (fon l SYS_STS_SOLO || other)
  let rep := (laneRuns s.la && uses s.la ha hb) || (laneRuns s.lb && uses s.lb hb ha)
  let l := laneOf s x.sel
  let x := if laneRuns l && here then fieldHears l f t rep x else x
  let run (l : Lane) (mine other : Bool) : Lane :=
    if laneRuns l then
      fieldConsume l t f (if uses l mine other then some d else none) (mine && !(uses l mine other)) o c (x.mute && x.heard != t)
    else l
  .next (settle { s with la := run s.la ha hb, lb := run s.lb hb ha, fields := vset s.fields f x })

/-- COMPARE_PULSE_END (R307, R308): XC of a channel returns low, 12 µs after CPW has passed since the crossing. -/
def execComparePulseEnd (e : FbkCh) (s : State) : Out :=
  let end_ (l : Lane) : Nat := if laneRuns l then (match (vget l.chans e).xcEnd with | some t => t + outLatency | none => 0) else 0
  let s := tickTo (max (end_ s.la) (end_ s.lb)) s
  let f : FieldNo := ⟨e.1 / 8, by omega⟩
  let j : Fin 8 := ⟨e.1 % 8, Nat.mod_lt _ (by decide)⟩
  let low (x : FieldRt) : FieldRt := outEvent s.now (.xc j false) (fieldAt s.now x)
  let s := { s with fields := vmod s.fields f low }
  .next (inRunning (fun l => modChan l e fun ch => { ch with xcEnd := none }) s)

/-- SSI_TRANSFER_START (R298): the start of the next RATE-th field frame of the time base. -/
def execSsiTransferStart (e : FbkCh) (s : State) : Out :=
  let l0 := if laneRuns s.la then s.la else s.lb
  let s := tickTo (l0.tb0 + ceilTo (16000 * max 1 (fget l0 (FBK_SS2_RATE e))) (s.now - l0.tb0)) s
  .next (inRunning (fun l => ssiStart l e (s.now / 32)) s)

/-- PULSED_WINDOW (R319): the close of the next window, 20 µs after a 250 µs boundary; the readings travel in the field frame
that ends 5 µs later. -/
def execPulsedWindow (f : FieldNo) (rd : List LineLevel) (s : State) : Out :=
  let b := if s.now ≤ 64000 then 0 else ceilTo 800000 (s.now - 64000)
  let s := tickTo (b + 64000) s
  if fieldPresent s f then .next { s with fields := vmod s.fields f fun x => { x with win := some (b + 80000, rd) } } else .next s

/-- FORCED_HIGH (R326). -/
def execForcedHigh (o : Fin 32) (s : State) : Out := .next (inRunning (fun l => fioSummary (forcedHigh l s.now o)) s)

/-- ONLOW (R326). -/
def execOnlow (o : Fin 32) (s : State) : Out := .next (inRunning (fun l => onLow l s.now o) s)

/-- RETRY_RESET (R326). -/
def execRetryReset (o : Fin 32) (s : State) : Out := .next (inRunning (fun l => retryReset l s.now o) s)

/-- A cartridge enters SAFE (R327): each output takes its safe state, and what was commanded of the switches is ignored (R328). -/
def enterSafe (f : FieldNo) (s : State) : State :=
  { s with fields := vmod s.fields f fun x => safeOutputs s.now (fieldAt s.now x) }

/-- FIELD_SILENCE_TIMEOUT (R327, R341): no valid field-down frame has come to a cartridge for TOUT since the latest one. -/
def execFieldSilenceTimeout (f : FieldNo) (s : State) : Out :=
  let x := vget s.fields f
  if !(fieldPresent s f) || x.mute then .next s
  else
    let s := tickTo (x.heard + x.tout) s
    let s := if x.safe then s else enterSafe f s
    .next (inRunning (fun l => canSilent l s.now f) { s with fields := vmod s.fields f fun x => { x with mute := true } })

/-- STO_CHANNEL_CHANGE (R317, R329, R330): a channel of a cartridge's STO pair has stood at a level for `held` edge ticks; what is
shorter than 1 ms is ignored. A latched discrepancy clears when both channels are de-energised. -/
def execStoChannelChange (f : FieldNo) (chB : Bool) (r : HeldLevel) (s : State) : Out :=
  if r.held < 3200000 then .next s
  else
    let change (x : FieldRt) : FieldRt :=
      let a := if chB then x.stoA else (stageOf r.level).getD x.stoA
      let b := if chB then (stageOf r.level).getD x.stoB else x.stoB
      { x with stoA := a, stoB := b, disc := x.disc && (a || b), difAt := if a = b then none else some (x.difAt.getD s.now) }
    .next { s with fields := vmod s.fields f change }

/-- STO_DISCREPANCY (R330): the channels have stood in different states for more than 20 ms. -/
def execStoDiscrepancy (f : FieldNo) (s : State) : Out :=
  match (vget s.fields f).difAt with
  | some t => let s := tickTo (t + 64000001) s; .next { s with fields := vmod s.fields f fun x => { x with disc := true } }
  | none => .next s

/-- A committed FBK_CCMD.PARM. -/
def execParm (e : FbkCh) (s : State) : Out := .next (inRunning (fun l => probeArm l s.now e) s)

/-- A committed FBK_CCMD.CLR. -/
def execChannelClear (e : FbkCh) (s : State) : Out := .next (inRunning (fun l => fbkSummary (chanClear l e)) s)

/-- A commit of FBK_CMP and FBK_CMC (R308 to R310); CPW 0 is a reserved encoding, and that write is ignored (R10). -/
def execCompareArm (e : FbkCh) (cpos cmc : Word) (s : State) : Out :=
  let c : CmpCommit := { at_ := s.now, cmp := some cpos, cmc := none, cinc := none }
  .next (settle (inRunning (fun l =>
    if bitsOf cmc.toNat 4 12 = 0 then fbkSummary (stk (compareCommit l e c) SYS_STK_RSVWR)
    else fbkSummary (compareCommit l e { c with cmc := some cmc })) s))

/-- A commit of FBK_POUT (R311). -/
def execPulseRatio (e : FbkCh) (num den : BitVec 16) (s : State) : Out :=
  .next (inRunning (fun l => fbkSummary (pulseCommit l s.now e (den ++ num))) s)

/-- A committed FIO_CMD.SREL in a lane (R328). -/
def srelLane (l : Lane) (mask : Nat) : Lane :=
  (List.range 2).foldl (fun l f =>
    if bit mask f then
      (if fon l (FIO_SSTS_SAFE f) && slotUp l (8 + f) then ask l (.srel (2 ^ f)) else stk l FIO_STK_SRELIGN)
    else l) l

/-- SREL (R328). -/
def execSrel (mask : BitVec 2) (s : State) : Out := .next (settle (inRunning (fun l => srelLane l mask.toNat) s))

/-- A committed FIO_OCLR in a lane (R326). -/
def oclrLane (l : Lane) (mask : Nat) : Lane :=
  fioSummary ((allFin 32).foldl (fun (l : Lane) (o : Fin 32) => if bit mask o then outputClear l o else l) l)

/-- OCLR (R326). -/
def execOclr (mask : Word) (s : State) : Out := .next (settle (inRunning (fun l => oclrLane l mask.toNat) s))

/-- A committed FIO_CCMD.CLR in a lane (R321). -/
def counterClear (l : Lane) (now mask : Nat) : Lane :=
  (allFin 16).foldl (fun (l : Lane) (k : Fin 16) => if bit mask k then counterClear1 l now k else l) l

/-- COUNTER_CLEAR (R321). -/
def execCounterClear (mask : BitVec 16) (s : State) : Out := .next (inRunning (fun l => counterClear l s.now mask.toNat) s)

end Sys2Proof.Machine
end

