-- ==== Sys2Proof/Machine/Sha.lean ====
section
/-!
DEFINITION. SHA-256 (FIPS 180-4) and HMAC-SHA-256 (FIPS 198-1), which R465 names for the record authentication code.
-/
namespace Sys2Proof.Machine

/-- The round constants of SHA-256. -/
def shaK : List Word :=
  [0x428a2f98#32, 0x71374491#32, 0xb5c0fbcf#32, 0xe9b5dba5#32, 0x3956c25b#32, 0x59f111f1#32, 0x923f82a4#32, 0xab1c5ed5#32] ++
  [0xd807aa98#32, 0x12835b01#32, 0x243185be#32, 0x550c7dc3#32, 0x72be5d74#32, 0x80deb1fe#32, 0x9bdc06a7#32, 0xc19bf174#32] ++
  [0xe49b69c1#32, 0xefbe4786#32, 0x0fc19dc6#32, 0x240ca1cc#32, 0x2de92c6f#32, 0x4a7484aa#32, 0x5cb0a9dc#32, 0x76f988da#32] ++
  [0x983e5152#32, 0xa831c66d#32, 0xb00327c8#32, 0xbf597fc7#32, 0xc6e00bf3#32, 0xd5a79147#32, 0x06ca6351#32, 0x14292967#32] ++
  [0x27b70a85#32, 0x2e1b2138#32, 0x4d2c6dfc#32, 0x53380d13#32, 0x650a7354#32, 0x766a0abb#32, 0x81c2c92e#32, 0x92722c85#32] ++
  [0xa2bfe8a1#32, 0xa81a664b#32, 0xc24b8b70#32, 0xc76c51a3#32, 0xd192e819#32, 0xd6990624#32, 0xf40e3585#32, 0x106aa070#32] ++
  [0x19a4c116#32, 0x1e376c08#32, 0x2748774c#32, 0x34b0bcb5#32, 0x391c0cb3#32, 0x4ed8aa4a#32, 0x5b9cca4f#32, 0x682e6ff3#32] ++
  [0x748f82ee#32, 0x78a5636f#32, 0x84c87814#32, 0x8cc70208#32, 0x90befffa#32, 0xa4506ceb#32, 0xbef9a3f7#32, 0xc67178f2#32]

/-- The working variables of SHA-256. -/
structure ShaSt where
  a : Word
  b : Word
  c : Word
  d : Word
  e : Word
  f : Word
  g : Word
  h : Word
  deriving DecidableEq, Repr

/-- The initial hash value. -/
def ShaSt.start : ShaSt :=
  { a := 0x6a09e667#32, b := 0xbb67ae85#32, c := 0x3c6ef372#32, d := 0xa54ff53a#32,
    e := 0x510e527f#32, f := 0x9b05688c#32, g := 0x1f83d9ab#32, h := 0x5be0cd19#32 }

/-- One round: the working variables and the next sixteen words of the message schedule. -/
def shaRound (s : ShaSt × List Word) (k : Word) : ShaSt × List Word :=
  let v := s.1
  let w (j : Nat) : Word := s.2.getD j 0#32
  let t1 := v.h + (v.e.rotateRight 6 ^^^ v.e.rotateRight 11 ^^^ v.e.rotateRight 25) + ((v.e &&& v.f) ^^^ (~~~v.e &&& v.g)) + k + w 0
  let t2 := (v.a.rotateRight 2 ^^^ v.a.rotateRight 13 ^^^ v.a.rotateRight 22) + ((v.a &&& v.b) ^^^ (v.a &&& v.c) ^^^ (v.b &&& v.c))
  let n := ((w 14).rotateRight 17 ^^^ (w 14).rotateRight 19 ^^^ (w 14 >>> 10)) + w 9 +
    ((w 1).rotateRight 7 ^^^ (w 1).rotateRight 18 ^^^ (w 1 >>> 3)) + w 0
  ({ a := t1 + t2, b := v.a, c := v.b, d := v.c, e := v.d + t1, f := v.e, g := v.f, h := v.g }, s.2.tail ++ [n])

/-- One block of sixteen words. -/
def shaBlock (s : ShaSt) (ws : List Word) : ShaSt :=
  let v := (shaK.foldl shaRound (s, ws)).1
  { a := s.a + v.a, b := s.b + v.b, c := s.c + v.c, d := s.d + v.d, e := s.e + v.e, f := s.f + v.f, g := s.g + v.g, h := s.h + v.h }

/-- A word's bytes, most significant first. -/
def bytesBE (w : Word) : List Byte := (wordBytes w).reverse

/-- Bytes as words, most significant byte first; `n` bounds the number of words. -/
def wordsBE : Nat → List Byte → List Word
  | n + 1, a :: b :: c :: d :: t => (a ++ b ++ c ++ d) :: wordsBE n t
  | _, _ => []

/-- The blocks of a padded message; `n` bounds their number. -/
def shaBlocks : Nat → ShaSt → List Word → ShaSt
  | n + 1, s, ws => if ws.isEmpty then s else shaBlocks n (shaBlock s (ws.take 16)) (ws.drop 16)
  | 0, s, _ => s

/-- SHA-256 of bytes. -/
def sha256 (bs : List Byte) : List Byte :=
  let n := bs.length
  let pad := bs ++ [0x80#8] ++ List.replicate ((119 - n % 64) % 64) 0#8
  let ws := wordsBE (n + 64) pad ++ [BitVec.ofNat 32 (8 * n / 2 ^ 32), BitVec.ofNat 32 (8 * n)]
  let v := shaBlocks (n + 2) ShaSt.start ws
  [v.a, v.b, v.c, v.d, v.e, v.f, v.g, v.h].flatMap bytesBE

/-- HMAC-SHA-256 under a key of at most 64 bytes. -/
def hmac256 (key bs : List Byte) : List Byte :=
  let k := key ++ List.replicate (64 - key.length) 0#8
  sha256 (k.map (fun b => b ^^^ 0x5C#8) ++ sha256 (k.map (fun b => b ^^^ 0x36#8) ++ bs))

end Sys2Proof.Machine
end

