-- ==== Sys2Proof/Machine/Cord.lean ====
section
/-!
DEFINITION. The Cord cartridge (chapter 15): result frames, commands, transactions and records, legal parameters and the
calibration port, and what a lane makes of it (CRD).
-/
namespace Sys2Proof.Machine

/-! ## Legal parameters (R454) -/

/-- The place of a parameter in the order of R454. -/
def parIndex (p : LegalPar) : Fin 7 :=
  match p with | .TRNG => 0 | .TDIV => 1 | .TZERO => 2 | .TSPAN => 3 | .LSCL => 4 | .LDIV => 5 | .LDIR => 6

/-- The parameter in force. -/
def parGet (c : CordRt) (p : LegalPar) (ch : Fin 4) : Word := vget (vget c.par (parIndex p)) ch

/-- The Cord with a parameter in force. -/
def parSet (c : CordRt) (p : LegalPar) (ch : Fin 4) (v : Word) : CordRt :=
  { c with par := vmod c.par (parIndex p) fun r => vset r ch v }

/-- The staged value of a parameter, if any. -/
def stagedOf (c : CordRt) (p : LegalPar) (ch : Fin 4) : Option Word :=
  (c.staged.find? fun x => decide (x.1 = p) && decide (x.2.1 = ch)).map fun x => x.2.2

/-- A value is staged (R455). -/
def stage (c : CordRt) (p : LegalPar) (ch : Fin 4) (v : Word) : CordRt :=
  { c with staged := (c.staged.filter fun x => !(decide (x.1 = p) && decide (x.2.1 = ch))) ++ [(p, ch, v)] }

/-! ## Records (R463 to R465) -/

/-- The store's size (R464). -/
def storeSize : Nat := 16384

/-- A 64-bit value as two words, low first. -/
def words64 (v : Int) : List Word := [wordOf (uCode 32 v), wordOf (uCode 64 v / 2 ^ 32)]

/-- The record authentication code over a record's first 15 words (R465): the first 64 bits of HMAC-SHA-256, as two words sent least
significant byte first (R463). -/
def cordMac (ws : List Word) : Word × Word :=
  let key := (List.range 32).map fun j => Config.cordKey.extractLsb' (8 * (31 - j)) 8
  let d := hmac256 key (ws.flatMap wordBytes)
  let at_ (j : Nat) : Byte := d.getD j 0#8
  (at_ 3 ++ at_ 2 ++ at_ 1 ++ at_ 0, at_ 7 ++ at_ 6 ++ at_ 5 ++ at_ 4)

/-- A record's words: the first 14 given, with CRC and RAC (R463, R465). -/
def sealRecord (ws : List Word) : List Word :=
  let ws := ws ++ [crc32c ws]
  let m := cordMac ws
  ws ++ [m.1, m.2]

/-- The record of a transaction at its close. -/
def txRecord (c : CordRt) (m : Fin 4) (x : CordTx) (stat tend : Nat) : List Word :=
  sealRecord ([wordOf x.rseq, wordOf (m.1 + 4 * stat + 64 * b2n x.inv)] ++ words64 x.start ++ words64 (if stat = 0 then tend else 0) ++
    words64 (rround x.w) ++
    [wordOf (uCode 32 (rdiv x.net 1000)), wordOf (uCode 32 (rdiv x.gross 1000)), wordOf (uCode 32 (x.peak.getD 0)), wordOf (c.time - x.t0),
     wordOf c.audit, c.lchk ++ c.lver])

/-- The record of an event (R463). -/
def eventRecord (c : CordRt) (kind : Nat) : List Word :=
  sealRecord ([wordOf c.nextSeq, wordOf (16 * kind)] ++ words64 c.lastShip ++ words64 0 ++ words64 0 ++
    [0#32, 0#32, 0#32, wordOf (c.time / 1000), wordOf c.audit, c.lchk ++ c.lver])

/-- Open transactions. -/
def openCount (c : CordRt) : Nat := (c.opens.toList.filter fun x => x.isSome).length

/-- Whether one more record finds a place (R464): the record it would overwrite was returned. -/
def roomFor (c : CordRt) : Bool :=
  let n := c.store.length + openCount c
  if n < storeSize then true else match c.store[n - storeSize]? with | some r => r.2 | none => false

/-- A record is written; the oldest of a full store is overwritten (R464). -/
def pushRecord (c : CordRt) (ws : List Word) (ret : Bool) : CordRt :=
  { c with store := (if c.store.length < storeSize then c.store else c.store.tail) ++ [(ws, ret)] }

/-- Whether a stored record is an event record. -/
def isEvent (r : List Word × Bool) : Bool := bitsOf (r.1.getD 1 0#32).toNat 4 2 ≠ 0

/-- An event record is written (R464): without room it takes the place of the oldest event record, or is dropped. -/
def pushEvent (c : CordRt) (kind : Nat) : CordRt :=
  let ws := eventRecord c kind
  if roomFor c then { (pushRecord c ws false) with nextSeq := c.nextSeq + 1 }
  else match c.store.findIdx? isEvent with
    | some i => { c with store := c.store.eraseIdx i ++ [(ws, false)], nextSeq := c.nextSeq + 1 }
    | none => c

/-- A transaction is closed (R461, R463). -/
def closeTx (c : CordRt) (m : Fin 4) (stat tend : Nat) (ret : Bool) : CordRt :=
  match vget c.opens m with
  | none => c
  | some x => { (pushRecord c (txRecord c m x stat tend) ret) with opens := vset c.opens m none }

/-- Every open transaction is closed. -/
def closeAll (c : CordRt) (stat : Nat) : CordRt := (allFin 4).foldl (fun (c : CordRt) (m : Fin 4) => closeTx c m stat 0 false) c

/-! ## Commands (R460, R461) -/

/-- The words 12 to 30 of a frame that answer a command (R458). -/
def answerWords (cseq result : Nat) (diff : Bool) (rseq : Nat) (rec : Option (List Word)) : List Word :=
  [wordOf (cseq % 256 + 256 * result + 2 ^ 16 + 2 ^ 17 * b2n diff + 2 ^ 18 * b2n rec.isSome), wordOf rseq] ++
  (match rec with | some ws => (List.range 17).map fun j => ws.getD j 0#32 | none => List.replicate 17 0#32)

/-- Whether a stored record's RAC agrees with its bytes (R465). -/
def racOk (ws : List Word) : Bool :=
  let m := cordMac (ws.take 15)
  decide (ws.getD 15 0#32 = m.1) && decide (ws.getD 16 0#32 = m.2)

/-- A command is carried out (R457, R461, R464, R465). -/
def carryOut (c : CordRt) (d : CordSend) : CordRt :=
  let ans (c : CordRt) (res rseq : Nat) (rec : Option (List Word)) : CordRt := { c with answer := answerWords d.cseq res false rseq rec }
  let give (c : CordRt) (rseq : Nat) : CordRt :=
    match c.store.findIdx? fun r => decide (r.1.getD 0 0#32 = wordOf rseq) with
    | none => ans c 4 rseq none
    | some i =>
      let ws := (c.store.getD i ([], false)).1
      if racOk ws then ans { c with store := c.store.set i (ws, true) } 0 rseq (some ws) else ans c 4 rseq none
  match d.op with
  | 1 =>
    if c.jumper then ans c 5 0 none
    else if (vget c.opens d.point).isSome then ans c 1 0 none
    else if !(roomFor c) then ans c 3 0 none
    else
      let x : CordTx := { rseq := c.nextSeq, start := d.ship, t0 := c.time, w := 0, net := 0, gross := 0, peak := none, inv := false }
      ans { c with opens := vset c.opens d.point (some x), nextSeq := c.nextSeq + 1 } 0 x.rseq none
  | 2 =>
    match vget c.opens d.point with
    | none => ans c 2 0 none
    | some x => give (closeTx c d.point 0 d.ship false) x.rseq
  | _ => give c d.arg.toNat

/-- A copy of a command reaches the Cord (R460): the first copy of each CSEQ is carried out; a second copy is answered again,
with DIFF when its content differs. Content that is no command is discarded and counted (R450). -/
def cordTake (c : CordRt) (d : CordSend) : CordRt :=
  if d.op = 0 ∨ 3 < d.op then { c with bad := c.bad + 1 }
  else
  let c := { c with lastShip := d.ship }
  match c.last with
  | some p =>
    if p.cseq = d.cseq then
      (if p = d then c
       else { c with answer := match c.answer with | w :: t => (w ||| 0x20000#32) :: t | [] => [] })
    else carryOut { c with last := some d } d
  | none => carryOut { c with last := some d } d

/-! ## Measurement and result frames (R451, R452, R458, R467) -/

/-- Rounded to a scale interval, ties away from zero; an interval of zero leaves the value rounded to a whole number. -/
def toDiv (q : Rat) (d : Nat) : Int := if d = 0 then rround q else rround (q / (d : Rat)) * ((d : Nat) : Int)

/-- The tension of channel `m` in sample `j` of a millisecond, in N. -/
def sampleTension (c : CordRt) (d : CordMeas) (m : Fin 4) (j : Nat) : Rat :=
  Config.cordTension (parGet c .TZERO m) (parGet c .TSPAN m) ((d.sig.getD m.1 []).getD j 0)

/-- Whether a sample's lines are sound: bit `m` of the list's entry `j` (R451, R452). -/
def soundLine (v : List (BitVec 4)) (m : Fin 4) (j : Nat) : Bool := (v.getD j 0#4).getLsbD m

/-- Whether a sample is valid (R451): its lines are sound and it does not exceed 110 % of TRNG. -/
def sampleValid (c : CordRt) (d : CordMeas) (m : Fin 4) (j : Nat) : Bool :=
  let t := sampleTension c d m j
  let lim : Rat := mkRat (11 * (parGet c .TRNG m).toNat) 10
  soundLine d.tv m j && decide (-lim ≤ t) && decide (t ≤ lim)

/-- Whether a tension channel is valid over a millisecond. -/
def tensionValid (c : CordRt) (d : CordMeas) (m : Fin 4) : Bool := (List.range 4).all fun j => sampleValid c d m j

/-- The place of a level pair in the quadrature sequence, A leading B. -/
def quadAt (a b : Bool) : Nat := match a, b with | false, false => 0 | true, false => 1 | true, true => 2 | false, true => 3

/-- The count of one accepted change (R451). -/
def quadStep (a b a2 b2 : Bool) : Int :=
  match (quadAt a2 b2 + 4 - quadAt a b) % 4 with | 1 => 1 | 3 => -1 | _ => 0

/-- The clock of a run at which a line's new level has stood for 8 clocks, if it comes (R451). -/
def quadTake (v x : Bool) (k n : Nat) : Option Nat := if v = x then none else if 8 ≤ k + n then some (8 - k) else none

/-- A run of the lines through the filters and the decoder: the count, and whether both levels change at one clock, a quadrature
error. -/
def quadRun (q : QuadRt) (r : AbRun) : QuadRt × Int × Bool :=
  let ka := if q.a = r.a then 0 else q.na + r.n
  let kb := if q.b = r.b then 0 else q.nb + r.n
  match quadTake q.a r.a q.na r.n, quadTake q.b r.b q.nb r.n with
  | none, none => ({ q with na := ka, nb := kb }, 0, false)
  | some _, none => ({ q with a := r.a, na := 0, nb := kb }, quadStep q.a q.b r.a q.b, false)
  | none, some _ => ({ q with b := r.b, na := ka, nb := 0 }, quadStep q.a q.b q.a r.b, false)
  | some x, some y =>
    let z : QuadRt := { a := r.a, b := r.b, na := 0, nb := 0 }
    if x = y then (z, 0, true)
    else if x < y then (z, quadStep q.a q.b r.a q.b + quadStep r.a q.b r.a r.b, false)
    else (z, quadStep q.a q.b q.a r.b + quadStep q.a r.b r.a r.b, false)

/-- The runs of one 0.25 ms: the count, and whether no error came. -/
def quadSample (q : QuadRt) (rs : List AbRun) : QuadRt × Int × Bool :=
  rs.foldl (fun acc r => let x := quadRun acc.1 r; (x.1, acc.2.1 + x.2.1, acc.2.2 && !x.2.2)) (q, 0, true)

/-- A payout channel's millisecond (R451, R452): its decoder, and for each 0.25 ms the count and whether the channel is valid. -/
def quadMs (q : QuadRt) (d : CordMeas) (m : Fin 4) : QuadRt × List (Int × Bool) :=
  (List.range 4).foldl (fun acc j =>
    let x := quadSample acc.1 ((d.ab.getD m.1 []).getD j [])
    (x.1, acc.2 ++ [(x.2.1, x.2.2 && soundLine d.lv m j)])) (q, [])

/-- The length of a count in µm: LSCL in the direction of LDIR (R451, R454). -/
def cordUm (c : CordRt) (m : Fin 4) (n : Int) : Int :=
  (if (parGet c .LDIR m).toNat % 2 = 1 then -1 else 1) * n * (((parGet c .LSCL m).toNat : Nat) : Int)

/-- One millisecond of point `m`: its count, and its open transaction. Counts received while the channel is invalid are lost (R452). -/
def cordPoint (d : CordMeas) (c : CordRt) (m : Fin 4) : CordRt :=
  let q := quadMs (vget c.quad m) d m
  let got (j : Nat) : Int := let x := q.2.getD j (0, false); if x.2 then x.1 else 0
  let lv := q.2.all fun x => x.2
  let um (j : Nat) : Int := cordUm c m (got j)
  let c := { c with
    quad := vset c.quad m q.1, cnt := vmod c.cnt m fun n => n + (got 0 + got 1 + got 2 + got 3)
    lval := BitVec.ofNat 4 (setBits c.lval.toNat m.1 1 (b2n lv)) }
  match vget c.opens m with
  | none => c
  | some x =>
    let step (x : CordTx) (j : Nat) : CordTx :=
      let ok := sampleValid c d m j
      let t : Rat := if ok then sampleTension c d m j else 0
      let u := um j
      { x with
        w := x.w + t * mkRat u 1000000, net := x.net + u, gross := if 0 < u then x.gross + u else x.gross
        peak := if ok then some (match x.peak with | some p => max p (rround t) | none => rround t) else x.peak }
    { c with opens := vset c.opens m (some { ((List.range 4).foldl step x) with inv := x.inv || !(tensionValid c d m) || !lv }) }

/-- The published tension of a channel (R451). -/
def cordTen (c : CordRt) (d : CordMeas) (m : Fin 4) : Int :=
  let t := sampleTension c d m
  toDiv ((t 0 + t 1 + t 2 + t 3) / 4) (parGet c .TDIV m).toNat

/-- The temperature level (R467); a broken sensor reads as shut-down, which lasts. -/
def cordLevel (lv : Nat) (temp : Option (BitVec 16)) : Nat :=
  if lv = 3 then 3 else match temp with
  | none => 3
  | some t =>
    let v := sInt 16 t.toNat
    if 1600 ≤ v then 3 else if 1360 ≤ v then 1 else if v ≤ 1280 then 0 else if lv = 0 then 0 else 1

/-- The words of a result frame (R458). -/
def cordFrame (c : CordRt) (d : CordMeas) (shut : Bool) : List Word :=
  let op := (List.range 4).foldl (fun v m => if (c.opens.toList.getD m none).isSome then v + 2 ^ m else v) 0
  let tv := (allFin 4).foldl (fun (v : Nat) (m : Fin 4) => if tensionValid c d m then v + 2 ^ m.1 else v) 0
  let w0 := c.fseq % 65536 + 2 ^ 16 * b2n c.jumper + 2 ^ 17 * b2n shut + 2 ^ 18 * c.tlev + 2 ^ 20 * op + 2 ^ 24 * tv + 2 ^ 28 * c.lval.toNat
  let ws := [wordOf w0] ++ (allFin 4).map (fun (m : Fin 4) => wordOf (uCode 32 (cordTen c d m))) ++
    (allFin 4).map (fun (m : Fin 4) => wordOf (uCode 32 (toDiv (mkRat (cordUm c m (vget c.cnt m)) 1000) (parGet c .LDIV m).toNat))) ++
    [c.lver ++ (d.temp.getD 0x7FFF#16), 0#16 ++ c.lchk, wordOf c.audit] ++
    (if c.answer.isEmpty then List.replicate 19 0#32 else c.answer)
  ws ++ [crc32c ws]

/-- A lane that runs holds a result frame that reaches it intact (R17, R458): 32 words, the last of them the CRC over the others. -/
def cordHold (c : Copy) (ws : List Word) (l : Lane) : Lane :=
  match copyWords c ws with
  | some xs =>
    if laneRuns l && decide (xs.length = 32) && decide (crc32c (xs.take 31) = xs.getD 31 0#32) then { l with crdIn := l.crdIn ++ [xs] }
    else l
  | none => l

/-- A result frame is sent to both lanes on channels of their own (R458). -/
def cordDeliver (ca cb : Copy) (ws : List Word) (s : State) : State := { s with la := cordHold ca ws s.la, lb := cordHold cb ws s.lb }

/-- Whether the Cord runs: it has supply, has not stopped itself, and does not wait for its sensor to cool (R467). -/
def cordRuns (c : CordRt) : Bool := c.on && !c.stopped && !c.shut

/-- Whether the Cord is in its slot and runs (R35, R448). -/
def cordUp (s : State) : Bool := s.pres.getLsbD 10 && s.okc.getLsbD 10 && cordRuns s.cord

/-! ## A lane's use of the Cord (R459, R460, R462) -/

/-- A committed CRD_CMD at `now` (R460): `v` is the word; `arg` is CRD_CARG. OP 0b00 is reserved. -/
def cordIssue (now : Nat) (l : Lane) (v : Nat) (arg : Word) : Lane :=
  if v % 4 = 0 then stk l SYS_STK_RSVWR
  else if fget l CRD_CRES_STATE = 1 then stk l CRD_STK_CMDIGN
  else
    let n := (fget l CRD_CRES_CSEQ + 1) % 256
    let l := fsetB (fset (fset (fset l CRD_CRES_CSEQ n) CRD_CRES_STATE 1) CRD_CRES_RESULT 0) CRD_STS_BUSY true
    ask { l with crdTicks := 0, crdFrom := now } (.cordCmd { op := v % 4, point := ⟨v / 4 % 4, Nat.mod_lt _ (by decide)⟩, cseq := n, arg := arg, ship := shipNs l })

/-- The answer of a consumed frame (R460 to R463). -/
def cordAnswer (l : Lane) (ws : List Word) : Lane :=
  let a := (ws.getD 12 0#32).toNat
  if bit a 16 && fget l CRD_CRES_STATE = 1 && decide (bitsOf a 0 8 = fget l CRD_CRES_CSEQ) then
    let res := bitsOf a 8 8
    let l := fsetB (fset (fset l CRD_CRES_STATE 2) CRD_CRES_RESULT res) CRD_STS_BUSY false
    let l := rset l CRD_RSEQ (ws.getD 13 0#32)
    let l := stkIfLate (decide (res ≠ 0)) l CRD_STK_CMDREF
    if bit a 18 then
      let l := (List.range 17).foldl (fun l j => rset l (CRD_RDAT j) (ws.getD (14 + j) 0#32)) l
      fsetB l CRD_RCHK_CRCOK (decide (crc32c ((ws.drop 14).take 14) = ws.getD 28 0#32))
    else l
  else l

/-- A result frame is consumed (R459, R468, R469). -/
def cordConsume (l : Lane) (ws : List Word) : Lane :=
  let w (j : Nat) : Word := ws.getD j 0#32
  let v := (w 0).toNat
  let lver := bitsOf (w 9).toNat 16 16
  let lchk := bitsOf (w 10).toNat 0 16
  let l := stkIfLate (bit v 16 && !(fon l CRD_STS_SEAL)) l CRD_STK_SEALON
  let l := stkIfLate (l.crdSeen && decide (rget l CRD_AUD ≠ w 11)) l CRD_STK_AUDCHG
  let l := stkIfLate (l.crdSeen && (decide (fget l CRD_ID_LVER ≠ lver) || decide (fget l CRD_ID_LCHK ≠ lchk))) l CRD_STK_IDCHG
  let l := stkIfLate (decide (bitsOf v 18 2 ≠ 0)) l CRD_STK_TWARN
  let l := stkIfLate (decide (bitsOf v 24 8 ≠ 255)) l CRD_STK_TINV
  let l := stkIfLate (bit (w 12).toNat 16 && bit (w 12).toNat 17) l CRD_STK_DIFF
  let l := fsetB (fsetB (fsetB l CRD_STS_PRES true) CRD_STS_SEAL (bit v 16)) CRD_STS_SHUT (bit v 17)
  let l := fset (fset l CRD_STS_OPEN (bitsOf v 20 4)) CRD_STS_TLEV (bitsOf v 18 2)
  let l := (List.range 4).foldl (fun l m => rset (rset l (CRD_TEN m) (w (1 + m))) (CRD_LEN m) (w (5 + m))) l
  let l := fset (fset (fset l CRD_VAL_TV (bitsOf v 24 4)) CRD_VAL_LV (bitsOf v 28 4)) CRD_VAL_AGE 1
  let l := fset (fset (rset l CRD_AUD (w 11)) CRD_ID_LVER lver) CRD_ID_LCHK lchk
  cordAnswer { (fset l CRD_CTMP_TEMP (bitsOf (w 9).toNat 0 16)) with crdSeen := true } ws

/-- The T1 tick at `now` (R459, R462): the ticks after the commit instant are counted; `use` are the frames held by both lanes, oldest first. -/
def cordTick (now : Nat) (l : Lane) (use : List (List Word)) : Lane :=
  let l := stkIfLate (decide (use.length < l.crdIn.length)) l SYS_STK_INDROP
  let l := { l with crdIn := [], crdTicks := if l.crdFrom < now then l.crdTicks + 1 else 0 }
  match use.getLast? with
  | some ws => stkIfLate (decide (1 < use.length)) (cordConsume l ws) CRD_STK_DROP
  | none => fset l CRD_VAL_AGE (satNat 255 (fget l CRD_VAL_AGE + 1))

/-! ## Commands -/

/-- The Cord changed. -/
def onCord (s : State) (f : CordRt → CordRt) : Out := .next { s with cord := f s.cord }

/-- The Cord stops for its temperature (R467): transactions aborted, an event record, TLEV 0b11. -/
def cordStop (c : CordRt) : CordRt := { (pushEvent (closeAll { c with tlev := 3 } 2) 1) with stopped := true, shut := true }

/-- A Cord that has supply again and whose sensor reads below 95 °C runs, with a record of KIND power-on (R466, R467). -/
def cordCool (d : CordMeas) (c : CordRt) : CordRt :=
  if c.on && !c.stopped && c.shut && (match d.temp with | none => false | some t => decide (sInt 16 t.toNat < 1520)) then
    pushEvent { c with shut := false } 2
  else c

/-- CORD_RESULT_FRAME (R451, R452, R458, R467): one millisecond of the Cord's oscillator. The millisecond that finds the sensor at
shut-down gives the last frame, with SHUT = 1. -/
def execCordResultFrame (x : CordIn) (s : State) : Out :=
  let d := x.meas
  let s := { s with cord := cordCool d s.cord }
  if !(cordUp s) then .next s
  else
    let c := { s.cord with time := s.cord.time + 1 }
    let c := (allFin 4).foldl (fun (c : CordRt) (m : Fin 4) => cordPoint d c m) c
    let lv := cordLevel c.tlev d.temp
    let c := { c with tlev := lv, fseq := (c.fseq + 1) % 65536, meas := d }
    let c := if lv = 3 then cordStop c else c
    .next (cordDeliver x.copyA x.copyB (cordFrame c d (decide (lv = 3))) { s with cord := c })

/-- CORD_RESULTS_LOST (R459): no intact frame has been consumed for 10 T1 ticks. -/
def execCordResultsLost (s : State) : Out :=
  .next (settle (inRunning (fun l =>
    if fon l CRD_STS_PRES && decide (11 ≤ fget l CRD_VAL_AGE) then
      raiseO (stkLate (fsetB l CRD_STS_PRES false) CRD_STK_LOST) s.now 0x81 0xFF 0 0#32
    else l) s))

/-- The copy that waits on a lane's command path reaches the Cord (R460). -/
def cordReceive (i : LaneId) (s : State) : State :=
  let d := match i with | .A => s.cord.pathA | .B => s.cord.pathB
  let c := match i with | .A => { s.cord with pathA := none } | .B => { s.cord with pathB := none }
  match d with
  | some d => { s with cord := if cordUp s then cordTake c d else c }
  | none => s

/-- A command is issued by the lanes and reaches the Cord by both paths (R460, R461). -/
def cordCommand (v : Nat) (arg : Word) (s : State) : State :=
  cordReceive .B (cordReceive .A (settle (inRunning (fun l => cordIssue s.now l v arg) s)))

/-- CORD_START (R457, R461, R464). -/
def execCordStart (m : BitVec 2) (s : State) : Out := .next (cordCommand (1 + 4 * m.toNat) 0#32 s)

/-- CORD_END (R461, R463). -/
def execCordEnd (m : BitVec 2) (s : State) : Out := .next (cordCommand (2 + 4 * m.toNat) 0#32 s)

/-- CORD_RECORD (R461, R465). -/
def execCordRecord (rseq : Word) (s : State) : Out := .next (cordCommand 3 rseq s)

/-- CORD_COMMAND_RECEIPT (R450, R460): the copy that waits, or content that is no command, which is discarded and counted. -/
def execCordCommandReceipt (x : PathIn) (s : State) : Out :=
  let count (c : CordRt) : CordRt := if cordUp s then { c with bad := c.bad + 1 } else c
  let held := match x.lane with | .A => s.cord.pathA | .B => s.cord.pathB
  match x.got with
  | .copy => .next (cordReceive x.lane s)
  | .foreign => .next { s with cord := count s.cord }
  | .damaged =>
    if held.isNone then .next s
    else .next { s with cord := count (match x.lane with | .A => { s.cord with pathA := none } | .B => { s.cord with pathB := none }) }

/-- CORD_COMMAND_TIMEOUT (R462): no answer by the tenth T1 tick. -/
def execCordCommandTimeout (s : State) : Out :=
  .next (inRunning (fun l =>
    if fget l CRD_CRES_STATE = 1 ∧ 10 ≤ l.crdTicks then stkLate (fsetB (fset l CRD_CRES_STATE 3) CRD_STS_BUSY false) CRD_STK_CMDTO else l) s)

/-- CORD_THERMAL_SHUTDOWN (R467): transactions aborted, an event record, the last frame, and the stop. -/
def execCordThermalShutdown (s : State) : Out :=
  if !(cordUp s) then .next s
  else
    let c := cordStop { s.cord with fseq := (s.cord.fseq + 1) % 65536 }
    .next (cordDeliver .whole .whole (cordFrame c c.meas true) { s with cord := c })

/-- The Cord without its supply: open transactions close as aborted by a supply fall, and both paths are lost (R466). -/
def cordOff (c : CordRt) : CordRt :=
  if c.on then { (if c.stopped then c else closeAll c 1) with on := false, stopped := false, pathA := none, pathB := none } else c

/-- CORD_SUPPLY_FALL (R466): transactions closed as interrupted. -/
def execCordSupplyFall (s : State) : Out :=
  onCord s cordOff

/-- CORD_POWER_ON (R466, R467): a record of KIND power-on; after a thermal shut-down the Cord waits for its sensor to cool. -/
def execCordPowerOn (s : State) : Out :=
  onCord s fun c => 
    if c.on || !(s.pres.getLsbD 10) then c
    else
      let c := { c with on := true, stopped := false, answer := [], last := none, tlev := 0 }
      if c.shut then c else pushEvent c 2

/-- SEAL_JUMPER_FITTED (R457). -/
def execSealJumperFitted (s : State) : Out := onCord s fun c => if c.jumper then c else closeAll { c with jumper := true } 2

/-- SEAL_JUMPER_REMOVED (R455). -/
def execSealJumperRemoved (s : State) : Out := onCord s fun c => { c with jumper := false, staged := [] }

/-- Whether a line passes its check (R455): the CRC-16 over the characters before its four digits. -/
def lineOk {α : Type} (x : CalLine α) : Bool := match x.line with | none => true | some (t, crc) => decide (crc16Bytes t = crc)

/-- A line on the calibration port (R455): one whose CRC fails is answered with ERR 1. -/
def calLine {α : Type} (x : CalLine α) (s : State) (f : CordRt → CordRt) : Out :=
  onCord s fun c => if !(cordRuns c) then c else if lineOk x then f c else { c with cal := .err 1 }

/-- A calibration request that needs the seal jumper (R455). -/
def jumpered (f : CordRt → CordRt) (c : CordRt) : CordRt := if c.jumper then f c else { c with cal := .err 2 }

/-- The same for a request without an operand: its line arrives as sent. -/
def calSealed (s : State) (f : CordRt → CordRt) : Out := calLine (α := Unit) { arg := () } s (jumpered f)

/-- ID? (R455). -/
def execIdQuery (s : State) : Out :=
  calLine (α := Unit) { arg := () } s fun c => { c with cal := .id c.lver c.lchk c.serial c.audit }

/-- PAR? (R455). -/
def execParQuery (p : LegalPar) (ch : CalLine (Fin 4)) (s : State) : Out :=
  calLine ch s fun c => { c with cal := .par (parGet c p ch.arg) (stagedOf c p ch.arg) }

/-- PAR (R455). -/
def execPar (p : LegalPar) (ch : Fin 4) (v : CalLine Word) (s : State) : Out :=
  calLine v s (jumpered fun c => { (stage c p ch v.arg) with cal := .ok })

/-- The present bridge signal of a tension channel: its latest sample. -/
def bridgeNow (c : CordRt) (ch : Fin 4) : Int := (c.meas.sig.getD ch.1 []).getLastD 0

/-- ZERO (R455): TZERO from the present bridge signal. -/
def execZero (ch : CalLine (Fin 4)) (s : State) : Out :=
  calLine ch s (jumpered fun c => { (stage c .TZERO ch.arg (wordOf (uCode 32 (bridgeNow c ch.arg)))) with cal := .ok })

/-- SPAN (R455): TSPAN from the present signal and the reference load. -/
def execSpan (ch : Fin 4) (load : CalLine Word) (s : State) : Out :=
  calLine load s (jumpered fun c =>
    { (stage c .TSPAN ch (Config.cordSpan (bridgeNow c ch) ((stagedOf c .TZERO ch).getD (parGet c .TZERO ch)) load.arg)) with cal := .ok })

/-- COMMIT (R454, R456). -/
def execCommit (s : State) : Out :=
  calSealed s fun c =>
    let chg := c.staged.filter fun x => parGet c x.1 x.2.1 ≠ x.2.2
    let n := c.staged.foldl (fun (c : CordRt) x => parSet c x.1 x.2.1 x.2.2) c
    let bad := (allFin 4).any fun (ch : Fin 4) => decide ((parGet n .TRNG ch).toNat < 3000 * (parGet n .TDIV ch).toNat)
    if bad then { c with cal := .err Config.cordTdivErr }
    else if 1024 < c.alog.length + chg.length then { c with cal := .err 3 }
    else if chg.isEmpty then { c with staged := [], cal := .ok }
    else
      let a := c.audit + 1
      { n with
        staged := [], audit := a, cal := .ok
        alog := c.alog ++ chg.map fun x => AudEntry.par a x.1 x.2.1 (parGet c x.1 x.2.1) x.2.2 (c.time / 1000) }

/-- DISCARD (R455). -/
def execDiscard (s : State) : Out := calLine (α := Unit) { arg := () } s fun c => { c with staged := [], cal := .ok }

/-- AUD? (R455). -/
def execAudQuery (n : CalLine Nat) (s : State) : Out := calLine n s fun c => { c with cal := .aud c.alog[n.arg]? }

/-- An update of the legally relevant software (R456): LCHK is the CRC-16 over its code image (R449). -/
def execSoftwareUpdate (lver : BitVec 16) (code : List Byte) (s : State) : Out :=
  calSealed s fun c =>
    let lchk := crc16Bytes code
    if 1024 < c.alog.length + 1 then { c with cal := .err 3 }
    else { c with
      audit := c.audit + 1, lver := lver, lchk := lchk, code := code, cal := .ok
      alog := c.alog ++ [AudEntry.sw (c.audit + 1) (c.lchk ++ c.lver) (lchk ++ lver) (c.time / 1000)] }

end Sys2Proof.Machine
end

