-- ==== Sys2Proof/Machine/Enc.lean ====
section
/-!
DEFINITION. Instruction words as admission reads them (R47, R48, R51 to R57, R62): the reason codes 0x10 to 0x13 a word
breaks, and what the path analysis of R63 and R95 needs of a word.
-/
namespace Sys2Proof.Machine

/-- Fields of an instruction word (R47). -/
def iMaj (w : Nat) : Nat := bitsOf w 26 6
def iGuard (w : Nat) : Nat := bitsOf w 22 4
def iRd (w : Nat) : Nat := bitsOf w 17 5
def iRa (w : Nat) : Nat := bitsOf w 12 5
def iRb (w : Nat) : Nat := bitsOf w 7 5
def iFn (w : Nat) : Nat := bitsOf w 0 7
def iImm (w : Nat) : Nat := bitsOf w 0 12

/-- Reason 0x10: a reserved major opcode, fn, cond, kind, SPR, block index or encoding (R51). -/
def encReserved (w : Nat) : Bool :=
  let fn := iFn w
  match iMaj w with
  | 0x01 => decide (0x1B < fn)
  | 0x02 | 0x03 | 0x04 | 0x05 | 0x06 | 0x07 | 0x08 => false
  | 0x09 => fn = 7 || decide (0x0A < fn) || bitsOf w 17 2 = 3
  | 0x0A => bitsOf w 9 3 = 7 || bitsOf w 17 2 = 3
  | 0x0B => decide (4 < fn) && fn ≠ 8 && fn ≠ 9
  | 0x10 | 0x11 | 0x12 | 0x13 | 0x14 | 0x15 | 0x16 | 0x17 => false
  | 0x18 => decide (15 < fn)
  | 0x19 => decide (11 < fn)
  | 0x1A => decide (4 < fn)
  | 0x20 | 0x21 | 0x23 => false
  | 0x22 => decide (2 < fn)
  | 0x28 => decide (8 < fn)
  | 0x29 | 0x2A | 0x2B => false
  | 0x30 => decide (4 < bitsOf w 8 4)
  | 0x31 => decide (1 < fn)
  | 0x32 => decide (1 < fn)
  | 0x33 => false
  | 0x34 => decide (0x12 < bitsOf w 0 5)
  | 0x35 => fn = 3 || decide (5 < fn)
  | 0x36 => fn = 3 || fn = 6 || fn = 7 || decide (9 < fn)
  | 0x37 => decide (0xA < iImm w)
  | _ => true

/-- Reason 0x11: a non-zero reserved field (R47). -/
def encField (w : Nat) : Bool :=
  let fn := iFn w
  let rd := iRd w ≠ 0
  let ra := iRa w ≠ 0
  let rb := iRb w ≠ 0
  match iMaj w with
  | 0x01 => decide (0x18 ≤ fn) && decide (fn ≤ 0x1B) && rb
  | 0x06 => bitsOf w 7 5 ≠ 0
  | 0x0B =>
    if fn ≤ 3 then bitsOf w 7 6 ≠ 0
    else if fn = 4 then bitsOf w 7 9 ≠ 0
    else if fn = 8 then ra || rb
    else fn = 9 && (rd || rb)
  | 0x21 => bitsOf w 17 5 ≠ 0
  | 0x22 => decide (fn ≤ 2) && (rd || ra || rb)
  | 0x23 => bitsOf w 16 1 ≠ 0
  | 0x28 => decide (6 ≤ fn) && decide (fn ≤ 8) && rb
  | 0x29 | 0x2A => bitsOf w 5 7 ≠ 0
  | 0x30 => bitsOf w 8 4 = 1 && ra
  | 0x31 => (fn = 0 && rb) || (fn = 1 && (bitsOf w 20 2 ≠ 0 || rb))
  | 0x32 => (fn = 0 && (rd || ra || rb)) || (fn = 1 && (ra || rb))
  | 0x33 => rd || bitsOf w 5 7 ≠ 0
  | 0x34 => bitsOf w 5 7 ≠ 0
  | 0x35 => (fn = 4 && ra) || (fn = 5 && (rd || rb))
  | 0x36 =>
    (decide (fn ≤ 2) && (ra || rb)) || (fn = 4 && rd) || (fn = 5 && (ra || rb)) || ((fn = 8 || fn = 9) && rb)
  | 0x37 => ra
  | _ => false

/-- Reason 0x13: pd = p0 in CMP or CMPI, n16 = 0, off22 = 0, or a guarded ENDL (R55, R60, R62). -/
def encValue (w : Nat) : Bool :=
  match iMaj w with
  | 0x09 | 0x0A => bitsOf w 19 3 = 0
  | 0x20 => bitsOf w 0 22 = 0
  | 0x22 => iFn w = 1 && iGuard w ≠ 0
  | 0x23 => bitsOf w 0 16 = 0
  | _ => false

/-- The lowest reason code that applies to a word, if one does (R90 step 1). -/
def encFault (w : Nat) : Option Nat :=
  if encReserved w then some 0x10
  else if encField w then some 0x11
  else if iGuard w = 8 then some 0x12
  else if encValue w then some 0x13
  else none

/-- What the path analysis distinguishes. -/
inductive PKind where
  | op
  | br (off : Nat)
  | call (t : Nat)
  | ret
  | loop (n ra : Nat)
  | endl
  | brkl
  | wtick
  | wevt
  | waitt
  | post (kind slot : Nat)
  deriving DecidableEq, Repr

/-- The kind of an admitted word. -/
def pKind (w : Nat) : PKind :=
  match iMaj w with
  | 0x20 => .br (bitsOf w 0 22)
  | 0x21 => .call (bitsOf w 0 17)
  | 0x22 => if iFn w = 0 then .ret else if iFn w = 1 then .endl else .brkl
  | 0x23 => .loop (bitsOf w 0 16) (iRd w)
  | 0x30 => .post (bitsOf w 8 4) (bitsOf w 0 8)
  | 0x31 => if iFn w = 0 then .waitt else .op
  | 0x32 => if iFn w = 0 then .wtick else .wevt
  | _ => .op

/-- The stated cycle count of an admitted word, without slot wait and waits (R52 to R78). -/
def pCycles (w : Nat) : Nat :=
  let fn := iFn w
  match iMaj w with
  | 0x01 => if 0x14 ≤ fn ∧ fn ≤ 0x17 then 12 else 1
  | 0x1A => 2
  | 0x20 => 2
  | 0x21 => 2
  | 0x22 => if fn = 1 then 1 else 2
  | 0x23 => 2
  | 0x28 => if fn ≤ 2 then 2 else if fn = 3 then 3 else 1
  | 0x29 => 2
  | 0x2A => 2
  | 0x30 => 2
  | 0x33 => 2
  | 0x34 => 6
  | 0x35 => if fn ≤ 2 then 4 else if fn = 4 then 3 else 2
  | 0x36 => if fn = 8 ∨ fn = 9 then 3 else 2
  | _ => 1

/-- Whether the word takes a crossbar slot: major opcodes 0x10 to 0x1A (R57, R58). -/
def pMem (w : Nat) : Bool := 0x10 ≤ iMaj w && iMaj w ≤ 0x1A

/-- Whether the word is a load or an AMO, whose result is written late (R44). -/
def pLoad (w : Nat) : Bool := let m := iMaj w; (0x10 ≤ m && m ≤ 0x14) || m = 0x18 || m = 0x1A

/-- The word register an instruction writes, w0 for none. -/
def pDest (w : Nat) : Nat :=
  let fn := iFn w
  match iMaj w with
  | 0x01 | 0x02 | 0x03 | 0x04 | 0x05 | 0x06 | 0x07 | 0x08 => iRd w
  | 0x0B => if fn = 8 then iRd w else 0
  | 0x10 | 0x11 | 0x12 | 0x13 | 0x14 | 0x18 | 0x1A => iRd w
  | 0x28 | 0x29 | 0x2A | 0x2B | 0x30 => iRd w
  | 0x31 => if fn = 0 then iRd w else 0
  | 0x32 => if fn = 1 then iRd w else 0
  | 0x34 => iRd w
  | 0x35 => if fn = 5 then 0 else iRd w
  | 0x36 => if fn = 4 then 0 else iRd w
  | 0x37 => iRd w
  | _ => 0

/-- The word registers an instruction reads. -/
def pReads (w : Nat) : List Nat :=
  let fn := iFn w
  match iMaj w with
  | 0x01 => [iRa w, iRb w]
  | 0x02 | 0x03 | 0x04 | 0x05 | 0x06 | 0x07 => [iRa w]
  | 0x08 => if bitsOf w 16 1 = 1 then [iRd w] else []
  | 0x09 => [iRa w, iRb w]
  | 0x0A => [iRa w]
  | 0x0B => if fn = 9 then [iRa w] else []
  | 0x10 | 0x11 | 0x12 | 0x13 | 0x14 => [iRa w]
  | 0x15 | 0x16 | 0x17 => [iRd w, iRa w]
  | 0x18 => [iRa w, iRb w]
  | 0x19 => [iRd w, iRa w, iRb w]
  | 0x1A => [iRa w, iRb w]
  | 0x23 => [iRd w]
  | 0x28 => if fn = 3 then [iRd w, iRa w, iRb w] else [iRa w, iRb w]
  | 0x29 | 0x2A | 0x2B | 0x30 | 0x31 | 0x33 | 0x34 => [iRa w]
  | 0x35 => if fn = 4 then [iRb w] else if fn = 5 then [iRa w] else [iRa w, iRb w]
  | 0x36 => if fn = 4 then [iRa w, iRb w] else if fn = 8 ∨ fn = 9 then [iRa w] else []
  | _ => []

/-- The value an unguarded MOVL, MOVH or immediate arithmetic gives its register from known values (R95). -/
def pConst (w : Nat) (known : Nat → Option Nat) : Option Nat :=
  if iGuard w ≠ 0 then none
  else
    let imm := iImm w
    let sx := uCode 32 (sInt 12 imm)
    match iMaj w with
    | 0x02 => (known (iRa w)).map fun a => (a + sx) % 2 ^ 32
    | 0x03 => (known (iRa w)).map fun a => a &&& imm
    | 0x04 => (known (iRa w)).map fun a => a ||| imm
    | 0x05 => (known (iRa w)).map fun a => a ^^^ imm
    | 0x06 => (known (iRa w)).map fun a =>
        let v := BitVec.ofNat 32 a
        let k := bitsOf imm 0 5
        (match bitsOf imm 5 2 with
          | 0 => v <<< k
          | 1 => v >>> k
          | 2 => v.sshiftRight k
          | _ => v.rotateRight k).toNat
    | 0x07 => (known (iRa w)).map fun a => a * sx % 2 ^ 32
    | 0x08 =>
      if bitsOf w 16 1 = 0 then some (bitsOf w 0 16)
      else (known (iRd w)).map fun d => bitsOf w 0 16 * 65536 + d % 65536
    | _ => none

/-- Whether the address of a load is shown to lie outside the block register windows (R95, R40). -/
def pOutside (w : Nat) (known : Nat → Option Nat) : Bool :=
  let out := fun (a : Nat) => decide (a % 2 ^ 32 < 0x40000000) || decide (0x40130000 ≤ a % 2 ^ 32)
  match known (iRa w) with
  | none => false
  | some a =>
    if iMaj w = 0x1A then out a
    else if iMaj w = 0x18 then
      match known (iRb w) with
      | some b => out (a + b * 2 ^ bitsOf w 0 2)
      | none => false
    else out (a + uCode 32 (sInt 12 (iImm w)))

end Sys2Proof.Machine
end

