-- ==== Sys2Proof/Machine/Paths.lean ====
section
/-!
DEFINITION. Step 2 and step 6 of admission (R60 to R63, R73, R90, R94, R95): the words an image loads, the paths of each task
and where they fail, the POSTs a task reaches, and the path bound W.
-/
namespace Sys2Proof.Machine

/-- The word a section loads at an address, if it covers it. -/
def secWord (x : Section) (a : Nat) : Option Word :=
  let t := x.target.toNat
  if t ≤ a ∧ (a - t) % 4 = 0 ∧ a - t < x.len.toNat then x.body[(a - t) / 4]? else none

/-- The word the sections of one TYPE load at an address: a later section overwrites an earlier one (R411). -/
def imgWord (im : Image) (typ a : Nat) : Option Word :=
  (im.sections.reverse.filter fun x => decide (x.typ.toNat = typ)).findSome? fun x => secWord x a

/-- The byte after the last one that sections of a TYPE load. -/
def imgTop (im : Image) (typ : Nat) : Nat :=
  (im.sections.filter fun x => decide (x.typ.toNat = typ)).foldl (fun m x => max m (x.target.toNat + x.len.toNat)) 0

/-- A core's program (R60, R62): its slice, the words loaded, the LOOPs with their matching ENDLs, the starts of routines. -/
structure Prog where
  base   : Nat
  words  : List (Nat × Nat)
  pairs  : List (Nat × Nat)
  starts : List Nat
  deriving DecidableEq, Repr

/-- The words an image loads into the slice of core `c`, in rising address. -/
def sliceWords (im : Image) (c : Nat) : List (Nat × Nat) :=
  let b := 0x80000 * c
  (List.range ((min (imgTop im 1) (b + 0x80000) - b + 3) / 4)).filterMap fun i => (imgWord im 1 (b + 4 * i)).map fun w => (b + 4 * i, w.toNat)

/-- LOOPs with their matching ENDLs (R62): the LOOPs still open, innermost first, and the pairs found. -/
def pairScan (st : List Nat × List (Nat × Nat)) (x : Nat × Nat) : List Nat × List (Nat × Nat) :=
  match pKind x.2 with
  | .loop _ _ => (x.1 :: st.1, st.2)
  | .endl => match st.1 with
    | [] => st
    | lp :: rest => (rest, (lp, x.1) :: st.2)
  | _ => st

/-- The program of core `c` under the given task entries (R60). -/
def progOf (im : Image) (c : Nat) (entries : List Nat) : Prog :=
  let b := 0x80000 * c
  let ws := sliceWords im c
  { base := b
    words := ws
    pairs := (ws.foldl pairScan ([], [])).2
    starts := entries ++ ws.filterMap fun x => match pKind x.2 with | .call t => some (b + 4 * t) | _ => none }

/-- The end of the routine that starts at `a` (R60). -/
def routineEnd (p : Prog) (a : Nat) : Nat :=
  p.starts.foldl (fun m x => if a < x ∧ x < m then x else m) (p.base + 0x80000)

/-- Whether a BR at `pc` may go to `t` (R60): inside its routine, and in exactly the loop bodies that hold the BR. -/
def brOk (p : Prog) (fin pc t : Nat) : Bool :=
  decide (t < fin) && p.pairs.all fun x =>
    decide (x.1 + 4 ≤ pc ∧ pc ≤ x.2) == decide (x.1 + 4 ≤ t ∧ t ≤ x.2)

/-- A walk over the paths of one routine: what is still to be followed, in rising address, with the loops entered, innermost
first; failures as (address, reason, value); calls as (address, target, loops there); POSTs as (kind, slot). -/
structure Walk where
  todo  : List (Nat × List (List Nat))
  fails : List (Nat × Nat × Nat)
  calls : List (Nat × Nat × Nat)
  posts : List (Nat × Nat)
  deriving DecidableEq, Repr

/-- A failure is noted. -/
def walkFail (x : Walk) (a reason v : Nat) : Walk := { x with fails := x.fails ++ [(a, reason, v)] }

/-- A path goes on at `a`, or fails because it leaves its routine or slice (R63). -/
def walkGo (fin pc a : Nat) (lp : List Nat) (x : Walk) : Walk :=
  if fin ≤ a then walkFail x pc 0x18 0
  else
    let ls := (spFind x.todo a).getD []
    if ls.contains lp then x else { x with todo := spPut (spErase x.todo a) a (ls ++ [lp]) }

/-- One word of a path is followed (R49, R60 to R63, R73). `top` says that a RET stands at call depth 0, `ld` counts the loops
entered before the routine was called. -/
def walkStep (p : Prog) (bg top : Bool) (ld fin pc : Nat) (x : Walk) (lp : List Nat) : Walk :=
  match spFind p.words pc with
  | none => walkFail x pc 0x18 0
  | some w =>
    let next := walkGo fin pc (pc + 4) lp
    let maybe := fun (y : Walk) => if iGuard w ≠ 0 then next y else y
    match pKind w with
    | .br off =>
      let t := pc + 4 * off
      if brOk p fin pc t then maybe (walkGo fin pc t lp x) else walkFail x pc 0x14 t
    | .loop _ ra =>
      let n := ld + lp.length + 1
      if 8 < n then walkFail x pc 0x17 n
      else
        let y := walkGo fin pc (pc + 4) (pc :: lp) x
        match spFind p.pairs pc with
        | some e => if iGuard w ≠ 0 ∨ ra ≠ 0 then walkGo fin pc (e + 4) lp y else y
        | none => y
    | .endl => match lp with
      | lo :: rest => if spFind p.pairs lo = some pc then walkGo fin pc (pc + 4) rest x else walkFail x pc 0x17 0
      | [] => walkFail x pc 0x17 0
    | .brkl => match lp with
      | lo :: rest => match spFind p.pairs lo with
        | some e => maybe (walkGo fin pc (e + 4) rest x)
        | none => walkFail x pc 0x18 0
      | [] => walkFail x pc 0x17 0
    | .ret => if top then walkFail x pc 0x18 0 else maybe x
    | .wtick => maybe x
    | .wevt => if bg then next x else walkFail x pc 0x19 0
    | .call t => next { x with calls := x.calls ++ [(pc, p.base + 4 * t, lp.length)] }
    | .post k sl => next { x with posts := x.posts ++ [(k, sl)] }
    | _ => next x

/-- The paths of a routine are followed in rising address: every jump but that of ENDL goes forward. -/
def walkRun (p : Prog) (bg top : Bool) (ld fin : Nat) : Nat → Walk → Walk
  | 0, x => x
  | n + 1, x =>
    match x.todo with
    | [] => x
    | (pc, lps) :: rest => walkRun p bg top ld fin n (lps.foldl (walkStep p bg top ld fin pc) { x with todo := rest })

/-- The walk of the routine at `a`. -/
def walkOf (p : Prog) (bg top : Bool) (ld a : Nat) : Walk :=
  walkRun p bg top ld (routineEnd p a) 0x20001 { todo := [(a, [[]])], fails := [], calls := [], posts := [] }

/-- The failures a task's paths meet, through the routines it calls (R61, R63). The stack holds the routines entered. -/
def taskFails (p : Prog) (bg : Bool) : Nat → List Nat → Nat → Nat → List (Nat × Nat × Nat)
  | 0, _, _, _ => []
  | n + 1, stack, ld, a =>
    let x := walkOf p bg (stack.length ≤ 1) ld a
    x.fails ++ x.calls.flatMap fun c =>
      if stack.contains c.2.1 then [(c.1, 0x15, c.1)]
      else if 8 < stack.length then [(c.1, 0x16, stack.length)]
      else taskFails p bg n (c.2.1 :: stack) (ld + c.2.2) c.2.1

/-- The failure at the lowest address, of the lowest reason there (R90 step 2). -/
def firstFail (fs : List (Nat × Nat × Nat)) : Option (Nat × Nat × Nat) :=
  fs.foldl (fun m f => match m with
    | none => some f
    | some g => if f.1 < g.1 ∨ (f.1 = g.1 ∧ f.2.1 < g.2.1) then some f else m) none

/-- Step 2 of admission for the task that starts at `a`. -/
def taskPaths (p : Prog) (bg : Bool) (a : Nat) : Option (Nat × Nat × Nat) := firstFail (taskFails p bg 10 [a] 0 a)

/-- The POSTs a task reaches (R94). -/
def taskPosts (p : Prog) : Nat → Nat → List (Nat × Nat)
  | 0, _ => []
  | n + 1, a =>
    let x := walkOf p true false 0 a
    x.posts ++ x.calls.flatMap fun c => taskPosts p n c.2.1

/-! ## The path bound (R95) -/

/-- A point of a path: the cycles so far, the cycles until each register of a load is written, and the known constants. -/
structure PState where
  cost  : Nat
  pend  : List (Nat × Nat)
  known : List (Nat × Nat)
  deriving DecidableEq, Repr

/-- `n` cycles pass. -/
def psAdv (n : Nat) (s : PState) : PState :=
  { s with
    cost := s.cost + n
    pend := s.pend.filterMap fun x => if n < x.2 then some (x.1, x.2 - n) else none }

/-- The cycles until a register is written. -/
def psPend (s : PState) (r : Nat) : Nat := (spFind s.pend r).getD 0

/-- A known constant: w0 is zero. -/
def psKnown (s : PState) (r : Nat) : Option Nat := if r = 0 then some 0 else spFind s.known r

/-- Where paths join: the larger cost, the larger stalls, the constants both have. -/
def psJoin (x y : PState) : PState :=
  { cost := max x.cost y.cost
    pend := y.pend.foldl (fun m q => spPut (spErase m q.1) q.1 (max q.2 ((spFind m q.1).getD 0))) x.pend
    known := x.known.filter fun q => decide (spFind y.known q.1 = some q.2) }

/-- A join with a point that may not be reached yet. -/
def psMeet (x : Option PState) (y : PState) : Option PState := some (match x with | some z => psJoin z y | none => y)

/-- The largest of two costs that may be absent. -/
def costMeet (x : Option Nat) (y : Option Nat) : Option Nat :=
  match x, y with
  | some m, some n => some (max m n)
  | some m, none => some m
  | none, y => y

/-- What a longest-path pass collects: points still to be followed, the point at which it stops, the point after a BRKL that leaves
the body it passes, the point after a RET, and the cost at the end of a WTICK. -/
structure Bound where
  todo : List (Nat × PState)
  fin  : Option PState
  brk  : Option PState
  ret  : Option PState
  tick : Option Nat
  deriving DecidableEq, Repr

/-- A path of the pass goes on at `a`. -/
def boundGo (a : Nat) (s : PState) (b : Bound) : Bound :=
  { b with todo := spPut (spErase b.todo a) a (match spFind b.todo a with | some z => psJoin z s | none => s) }

/-- The body of a loop is passed until the stall with which it is entered covers the one its ENDL brings back. -/
def bodyFix (pass : PState → Bound) : Nat → PState → PState × Bound
  | 0, s => (s, pass s)
  | n + 1, s =>
    let b := pass s
    match b.fin with
    | none => (s, b)
    | some e =>
      let t := { psJoin s { psAdv 1 e with cost := 0 } with cost := 0 }
      if t = s then (s, b) else bodyFix pass n t

/-- One word of the pass. `sub` passes a loop body or a called routine from its start, to an address or to its RETs. A LOOP without an
ENDL in its slice is left by WTICK or RET alone. -/
def boundStep (p : Prog) (er : Nat) (sub : Nat → Option Nat → PState → Bound) (stop : Option Nat) (pc : Nat) (s0 : PState)
    (b : Bound) : Bound :=
  if stop = some pc then { b with fin := psMeet b.fin s0 }
  else
    match spFind p.words pc with
    | none => b
    | some w =>
      let s := psAdv ((pReads w).foldl (fun m r => max m (psPend s0 r)) 0) s0
      let guarded := decide (iGuard w ≠ 0)
      let t := psAdv (pCycles w) s
      let maybe := fun (b : Bound) => if guarded then boundGo (pc + 4) t b else b
      match pKind w with
      | .br off => maybe (boundGo (pc + 4 * off) t b)
      | .ret => maybe { b with ret := psMeet b.ret t }
      | .brkl => maybe { b with brk := psMeet b.brk t }
      | .wtick => maybe { b with tick := costMeet b.tick (some t.cost) }
      | .call q =>
        let r := sub (p.base + 4 * q) none { t with cost := 0 }
        let b := { b with tick := costMeet b.tick (r.tick.map fun c => t.cost + c) }
        let b := match r.ret with
          | some e => boundGo (pc + 4) { e with cost := t.cost + e.cost } b
          | none => b
        maybe b
      | .loop n ra =>
        let fin := spFind p.pairs pc
        let r := (bodyFix (sub (pc + 4) fin) 320 { t with cost := 0 }).2
        let costOf := fun (x : Option PState) => match x with | some y => y.cost | none => 0
        let body := max (costOf r.fin) (costOf r.brk)
        let last := t.cost + (n - 1) * (body + 1)
        let full := t.cost + n * (body + 1)
        let b := { b with tick := costMeet b.tick (r.tick.map fun c => last + c) }
        let b := match r.ret with
          | some x => { b with ret := psMeet b.ret { x with cost := last + x.cost } }
          | none => b
        match fin with
        | none => b
        | some e =>
          let b := match r.fin with | some x => boundGo (e + 4) { psAdv 1 x with cost := full } b | none => b
          let b := match r.brk with | some x => boundGo (e + 4) { x with cost := full } b | none => b
          if guarded || ra ≠ 0 then boundGo (e + 4) t b else b
      | .waitt => boundGo (pc + 4) { psAdv (1 + er) s with known := spErase s.known (pDest w) } b
      | _ =>
        let t := psAdv (pCycles w + (if pMem w then 3 else 0)) s
        let d := pDest w
        let late := (if pOutside w (psKnown s) then 2 else 8) - pCycles w
        let t := if pLoad w && d ≠ 0 then { t with pend := spPut (spErase t.pend d) d (max late (psPend t d)) } else t
        let t := if d = 0 then t else
          match pConst w (psKnown s) with
          | some v => { t with known := spPut (spErase s.known d) d v }
          | none => { t with known := spErase s.known d }
        boundGo (pc + 4) t b

/-- The pass over the words of a routine or a body in rising address. -/
def boundRun (p : Prog) (er : Nat) (sub : Nat → Option Nat → PState → Bound) (stop : Option Nat) : Nat → Bound → Bound
  | 0, b => b
  | n + 1, b =>
    match b.todo with
    | [] => b
    | (pc, s) :: rest => boundRun p er sub stop n (boundStep p er sub stop pc s { b with todo := rest })

/-- The pass from `a`, with at most `depth` loops and calls nested in it. -/
def boundOf (p : Prog) (er : Nat) : Nat → Nat → Option Nat → PState → Bound
  | 0, _, _, _ => { todo := [], fin := none, brk := none, ret := none, tick := none }
  | depth + 1, a, stop, s =>
    boundRun p er (boundOf p er depth) stop 0x20001 { todo := [(a, s)], fin := none, brk := none, ret := none, tick := none }

/-- The path bound W of the task that starts at `a` (R95), under the engine wait bound `er`. -/
def pathBound (p : Prog) (er a : Nat) : Nat :=
  ((boundOf p er 20 a none { cost := 0, pend := [], known := [] }).tick).getD 0

end Sys2Proof.Machine
end

