-- ==== Sys2Proof/Machine/Check.lean ====
section
/-!
DEFINITION. The image (R411, R412): the check of its sections, its items with their offsets, and steps 1 to 3 of admission up
to reason 0x23 (R90, R99): instruction words, control flow, task descriptors, reserved values.
-/
namespace Sys2Proof.Machine

/-- A refusal of admission (R99, R111): reason, ADM_RVAL, ADM_RADR, and the task or the axis it names. -/
structure Bad where
  reason : Nat
  val    : Nat
  adr    : Nat
  task   : Option Nat
  axis   : Option Nat
  deriving DecidableEq, Repr

/-- The first refusal of two checks. -/
def orBad (x : Option Bad) (y : Unit → Option Bad) : Option Bad := match x with | some b => some b | none => y ()

/-! ## Sections and items -/

/-- Sections with the offset of their first word in the image (R99, R411): they follow one another from 0x20. -/
def secOffsets : Nat → List Section → List (Nat × Section)
  | _, [] => []
  | o, x :: t => (o + 16, x) :: secOffsets (o + 16 + 4 * x.body.length) t

/-- The image's sections with their offsets. -/
def imgSecs (im : Image) : List (Nat × Section) := secOffsets 0x20 im.sections

/-- The sections of one TYPE with their offsets. -/
def secsOf (im : Image) (typ : Nat) : List (Nat × Section) := (imgSecs im).filter fun x => decide (x.2.typ.toNat = typ)

/-- Whether a section's target and length lie in the region of its TYPE (R40, R411, R412). -/
def secPlace (x : Section) : Bool :=
  let t := x.target.toNat
  let n := x.len.toNat
  match x.typ.toNat with
  | 1 => decide (t + n ≤ 0x00200000)
  | 2 => decide (0x01000000 ≤ t) && decide (t + n ≤ 0x01400000)
  | 3 => decide (0x02000000 ≤ t) && decide (t + n ≤ 0x02100000)
  | 4 => n % 8 = 0
  | 5 => n % 16 = 0 && decide (n ≤ 1024)
  | 6 => t = 0 && n = 112
  | _ => false

/-- Whether a section header passes (R411). -/
def secOk (x : Section) : Bool := secPlace x && x.target.toNat % 4 = 0 && x.len.toNat = 4 * x.body.length

/-- Whether the sections of an image pass the image check (FRSN 0x5, R411 to R413). -/
def sectionsOk (im : Image) : Bool :=
  let n := (im.sections.map fun x => 16 + 4 * x.body.length).foldl (fun m k => m + k) 0
  im.sections.all secOk && decide ((im.sections.filter fun x => decide (x.typ = 6#32)).length ≤ 1) &&
  decide (n ≤ im.len.toNat) && decide (im.len.toNat < n + 16)

/-- The words of the payload: sections back to back, then zeros up to LEN; too short a rest for a header is no section. -/
def payload (im : Image) : List Word :=
  let ws := im.sections.flatMap fun x => [x.typ, x.target, x.len, x.rsv] ++ x.body
  (ws ++ List.replicate (im.len.toNat / 4 - ws.length) 0#32).take (im.len.toNat / 4)

/-- Address and value words of descriptor pairs, with the offset of the address word. -/
def listPairs : Nat → List Word → List (Nat × Nat × Nat)
  | o, a :: v :: t => (o, a.toNat, v.toNat) :: listPairs (o + 8) t
  | _, _ => []

/-- The descriptor pairs of an image, in rising offset. -/
def imgPairs (im : Image) : List (Nat × Nat × Nat) := (secsOf im 4).flatMap fun x => listPairs x.1 x.2.body

/-- The offset of the last pair that names a register, zero without one (R99). -/
def pairAt (im : Image) (a : Nat) : Nat := match (imgPairs im).reverse.find? fun x => x.2.1 = a with | some x => x.1 | none => 0

/-- Whether the image's pairs write the register at `a` (R116). -/
def pairNames (im : Image) (a : Nat) : Bool := (imgPairs im).any fun x => x.2.1 = a

/-- Task descriptors: index, offset, and the words for ADM_TCFG and ADM_TENT (R86, R87). -/
def listTasks : Nat → Nat → List Word → List (Nat × Nat × Word × Word)
  | k, o, a :: b :: _ :: _ :: t => (k, o, a, b) :: listTasks (k + 1) (o + 16) t
  | _, _, _ => []

/-- The task descriptors of an image. -/
def imgTasks (im : Image) : List (Nat × Nat × Word × Word) := (secsOf im 5).flatMap fun x => listTasks 0 x.1 x.2.body

/-- The offset of task `n`'s descriptor. -/
def taskAt (im : Image) (n : Nat) : Nat := match (imgTasks im).reverse.find? fun x => x.1 = n with | some x => x.2.1 | none => 0

/-- The words of a section with their offsets and addresses. -/
def secWords (x : Nat × Section) : List (Nat × Nat × Word) :=
  x.2.body.zipIdx.map fun w => (x.1 + 4 * w.2, x.2.target.toNat + 4 * w.2, w.1)

/-- The offset of the last table word that covers an address (R99). -/
def wordAt (im : Image) (a : Nat) : Nat :=
  match ((secsOf im 3).flatMap secWords).reverse.find? fun x => x.2.1 = a with | some x => x.1 | none => 0

/-- The declarations' words with their offset (R412). -/
def declWords (im : Image) : Option (Nat × List Word) := (secsOf im 6).head?.map fun x => (x.1, x.2.body)

/-- Word `j` of the declarations; the defaults where the image has none (R412). -/
def declWord (im : Image) (j : Nat) : Nat :=
  match declWords im with
  | some x => (x.2.getD j 0#32).toNat
  | none => if j = 0 then 0x01400000 else if j = 1 then 1 else 0

/-- The offset of word `j` of the declarations, zero without any. -/
def declAt (im : Image) (j : Nat) : Nat := match declWords im with | some x => x.1 + 4 * j | none => 0

/-- The declarations of an image (R412). -/
def declOf (im : Image) : Decl :=
  { dtop := declWord im 0
    tabs := bitsOf (declWord im 1) 0 8 ||| 1
    items := (List.range 255).filter fun i => bit (declWord im (2 + i / 32)) (i % 32)
    wr := (List.range (min 8 (bitsOf (declWord im 10) 0 4))).map fun r => (declWord im (11 + 2 * r), declWord im (12 + 2 * r)) }

/-! ## The candidate: what the image would load -/

/-- The bits of the register at `a` that a descriptor pair loads; zero where no descriptor register stands (R411). -/
def descMask (a : Nat) : Nat := match findReg a with | some d => d.dsc | none => 0

/-- The register at `a` with its descriptor bits taken from `v`. -/
def loadDesc (l : Lane) (a v : Nat) : Lane :=
  let m := BitVec.ofNat 32 (descMask a)
  rset l a ((rget l a &&& ~~~m) ||| (BitVec.ofNat 32 v &&& m))

/-- Every descriptor register and the task table at their reset values. -/
def clearDesc (l : Lane) : Lane :=
  l.regs.foldl (fun l x =>
    let l := if descMask x.1 = 0 then l else loadDesc l x.1 (regDflt l.ident x.1).toNat
    if ADM_TCFG 0 ≤ x.1 ∧ x.1 < ADM_TCFG 64 then rset l x.1 (regDflt l.ident x.1) else l) l

/-- The words of one TYPE written to SRAM, later sections over earlier ones. -/
def loadSecs (im : Image) (typ : Nat) (l : Lane) : Lane :=
  ((secsOf im typ).flatMap secWords).foldl (fun l w => eccSet (mset32 l w.2.1 w.2.2) w.2.1 .none) l

/-- Program, table and coefficient SRAM before the sections of TYPES 1 and 3: a word that no section loads reads as zero, or as the
default table (R63, R123). -/
def clearTables (l : Lane) : Lane :=
  let out := fun (a : Nat) => decide (0x00200000 ≤ a ∧ a < 0x02000000 ∨ 0x02100000 ≤ a)
  { l with
    mem := l.mem.filter fun c => out c.1
    ecc := l.ecc.filter fun c => out c.1 }

/-- The lane with an image's sections, descriptors and task table loaded, no job begun and no tag taken (R90, R411, R412). -/
def candidate (l : Lane) (im : Image) : Lane :=
  let l := loadSecs im 3 (loadSecs im 2 (loadSecs im 1 (clearTables l)))
  let l := (imgPairs im).foldl (fun l x => if descMask x.2.1 = 0 then l else loadDesc l x.2.1 x.2.2) (clearDesc l)
  let l := (imgTasks im).foldl (fun l x => rset (rset l (ADM_TCFG x.1) x.2.2.1) (ADM_TENT x.1) x.2.2.2) l
  { l with decl := declOf im, cores := (Lane.zero l.ident).cores, tags := (Lane.zero l.ident).tags }

/-! ## Steps 1 and 2 -/

/-- Step 1 (R90): the first word of the program slices that breaks a rule. -/
def stepWords (im : Image) : Option Bad :=
  (List.range 4).findSome? fun c =>
    (sliceWords im c).findSome? fun w =>
      (encFault w.2).map fun r => { reason := r, val := w.2, adr := w.1, task := none, axis := none }

/-- The valid tasks, by index. -/
def validTasks (l : Lane) : List Nat := (List.range 64).filter fun n => fon l (ADM_TCFG_VALID n)

/-- Where a task starts (R87). -/
def entryOf (l : Lane) (n : Nat) : Nat := 0x80000 * (n / 16) + 4 * fget l (ADM_TENT_ENTRY n)

/-- A core's program under the candidate's task table. -/
def coreProg (l : Lane) (im : Image) (c : Nat) : Prog :=
  progOf im c (((validTasks l).filter fun n => n / 16 = c).map (entryOf l))

/-- Step 2 (R90): the tasks' paths, in rising task index. -/
def stepPaths (l : Lane) (im : Image) : Option Bad :=
  (validTasks l).findSome? fun n =>
    (taskPaths (coreProg l im (n / 16)) (decide (fget l (ADM_TCFG_CLASS n) = 4)) (entryOf l n)).map fun f =>
      { reason := f.2.1, val := f.2.2, adr := f.1, task := some n, axis := none }

/-! ## Step 3, first pass: task descriptors (R86, R99) -/

/-- Whether a task descriptor uses a reserved value, or a non-zero AXIS outside class T0 (R86), VALID or not. -/
def descBad (l : Lane) (n : Nat) : Bool :=
  let w := (rget l (ADM_TCFG n)).toNat
  let cls := fget l (ADM_TCFG_CLASS n)
  bitsOf w 14 2 ≠ 0 || bitsOf w 23 1 ≠ 0 || decide (4 < cls) || decide (64 < fget l (ADM_TCFG_TAGS n)) ||
  (cls ≠ 0 && fget l (ADM_TCFG_AXIS n) ≠ 0) || (rget l (ADM_TENT n)).toNat / 2 ^ 17 ≠ 0

/-- Reason 0x20: a reserved value, or an entry at which no word is loaded. -/
def taskBad (l : Lane) (im : Image) (n : Nat) : Bool :=
  let cls := fget l (ADM_TCFG_CLASS n)
  descBad l n || (cls = 0 && fget l (ADM_TCFG_ITEM n) ≠ 0xFF) || (imgWord im 1 (entryOf l n)).isNone

/-- An axis has an axis descriptor when the image's pairs write its AXS_CAR (R116). -/
def axisDesc (im : Image) (a : Nat) : Bool := pairNames im (AXS_CAR a)

/-- The first pass over the task descriptors. -/
def stepTasks (l : Lane) (im : Image) : Option Bad :=
  (List.range 64).findSome? fun n =>
    let w := (rget l (ADM_TCFG n)).toNat
    let a := fget l (ADM_TCFG_AXIS n)
    let b : Bad := { reason := 0x20, val := w, adr := taskAt im n, task := some n, axis := none }
    if !(fon l (ADM_TCFG_VALID n)) then (if descBad l n then some b else none)
    else if taskBad l im n then some b
    else if fget l (ADM_TCFG_CLASS n) = 0 && !(axisDesc im a) then some { b with reason := 0x21, val := a, axis := some a }
    else if fget l (ADM_TCFG_CLASS n) = 4 && fget l (ADM_TCFG_COMMIT n) ≠ 0 then some { b with reason := 0x22 }
    else none

/-! ## Step 3, second pass: reserved values (R9, R10, R99 reason 0x23) -/

/-- A BF32 descriptor word whose exponent lies outside −32 to +31 (R217). -/
def bfBad (v : Nat) : Bool := bfOut (BitVec.ofNat 32 v)

/-- A reserved response code of R247. -/
def respBad (c : Nat) : Bool := c = 5 || c = 7

/-- AXS: R115, R117, R131, R140, R147, R256, R257. -/
def axsBad (o v : Nat) : Bool :=
  match o with
  | 0x48 => bitsOf v 5 2 = 3
  | 0x54 => decide (bitsOf v 8 8 ≤ bitsOf v 0 8)
  | 0x58 => decide (20 < bitsOf v 16 5)
  | 0x60 | 0x64 | 0x68 | 0x6C => decide (8 < bitsOf v 0 4)
  | 0xF8 => bitsOf v 16 8 = 0
  | 0xFC => (List.range 7).any fun j => respBad (bitsOf v (4 * j) 3)
  | _ => false

/-- OBS: R177. -/
def obsBad (o v : Nat) : Bool :=
  match o with
  | 0x00 => bitsOf v 0 2 = 3
  | 0x08 => decide (bitsOf v 0 12 < 500) || decide (2000 < bitsOf v 0 12)
  | 0x10 => bitsOf v 16 8 = 0 || decide (bitsOf v 24 8 < 10) || decide (90 < bitsOf v 24 8)
  | 0x14 => decide (2000 < bitsOf v 0 12) || bitsOf v 12 4 = 0 || bitsOf v 16 12 = 0 || decide (2000 < bitsOf v 16 12)
  | 0x18 => bitsOf v 16 8 = 0
  | 0x28 => decide (bitsOf v 16 8 < 4) || decide (64 < bitsOf v 16 8)
  | _ => false

/-- LEG: R113, R134. -/
def legBad (a v : Nat) : Bool :=
  if LEG_CFG 0 ≤ a ∧ a < LEG_CFG 128 then
    let t := bitsOf v 0 2
    t = 3 || (t = 1 && bitsOf v 8 2 = 3) || (t ≠ 1 && (bitsOf v 3 5 ≠ 0 || bitsOf v 8 2 ≠ 0)) ||
    (t ≠ 2 && (bitsOf v 10 3 ≠ 0 || bitsOf v 13 4 ≠ 0))
  else if LEG_GTB 0 0 ≤ a ∧ a < LEG_GTB 32 0 ∧ a % 8 = 0 then decide (bitsOf v 24 8 < 10) || decide (160 < bitsOf v 24 8)
  else false

/-- LPE slot descriptors: R191, R193, R205, R217. -/
def lpeBad (o v : Nat) : Bool :=
  match o with
  | 0x00 => bitsOf v 0 2 = 3
  | 0x04 => bitsOf v 0 2 = 3 || decide (7 < bitsOf v 2 4) || bitsOf v 14 2 = 3 || decide (7 < bitsOf v 16 4)
  | 0x0C | 0x10 | 0x14 | 0x18 | 0x2C | 0x30 => bfBad v
  | 0x1C | 0x20 | 0x24 => bfBad v || bit v 31
  | _ => false

/-- FBK: R297, R313. A DIVC, NBIT or PLEN outside the range of its field is a reserved encoding (R10), whatever the channel's TYPE
(DEDUCED, see the assumption log). -/
def fbkBad (o v : Nat) : Bool :=
  match o with
  | 0x00 => bitsOf v 8 8 = 0 || bitsOf v 4 2 = 3
  | 0x10 => decide (bitsOf v 0 8 < 13) || decide (250 < bitsOf v 0 8) || decide (bitsOf v 8 6 < 8) || decide (48 < bitsOf v 8 6) ||
    decide (bitsOf v 22 6 < 8) || decide (32 < bitsOf v 22 6)
  | 0x14 => bitsOf v 16 8 = 0 || bitsOf v 24 8 = 0
  | 0x18 => bitsOf v 16 5 = 1 || bitsOf v 16 5 = 2 || decide (16 < bitsOf v 16 5)
  | 0x1C => bitsOf v 0 8 = 0 || bitsOf v 8 8 = 0
  | _ => false

/-- FIO: R335, R336. -/
def fioBad (a v : Nat) : Bool :=
  if FIO_ICFG 0 ≤ a ∧ a < FIO_ICFG 64 then
    let m := bitsOf v 0 3
    decide (4 < m) || bitsOf v 16 2 = 3 || ((m = 1 || m = 3) && bitsOf v 4 4 = 0) || ((m = 2 || m = 4) && bitsOf v 8 8 = 0) ||
    (m = 4 && bitsOf v 18 8 = 0)
  else if FIO_OCFG 0 ≤ a ∧ a < FIO_OCFG 32 then bitsOf v 0 2 = 3 || bitsOf v 8 8 = 0
  else if a = FIO_SCFG 0 ∨ a = FIO_SCFG 1 then bitsOf v 0 10 = 0 || decide (1000 < bitsOf v 0 10)
  else false

/-- CAN: R365, R368. -/
def canBad (o v : Nat) : Bool :=
  match o with
  | 0x010 => decide (5 < bitsOf v 0 3)
  | 0x014 => bitsOf v 8 8 = 0
  | 0x100 => bitsOf v 0 2 = 3
  | 0x104 => decide (bitsOf v 0 24 < 1000) || decide (10000000 < bitsOf v 0 24)
  | _ => false

/-- A reserved value in a descriptor pair (R10). -/
def valueBad (l : Lane) (a v : Nat) : Bool :=
  match blockOf a with
  | 0x03 => axsBad (a % 0x1000) v
  | 0x04 => legBad a v
  | 0x05 => if OBS_CFG 0 ≤ a then obsBad (a % 0x100) v else false
  | 0x06 => if LPE_CCH 0 ≤ a ∧ a < LPE_CCH 8 then decide (9 < bitsOf v 8 4) else if LPE_SCFG 0 ≤ a ∧ a < LPE_SCFG 256 then lpeBad (a % 0x40) v else false
  | 0x07 => SHR_BHOST 0 ≤ a && a < SHR_BHOST 8 && a % 0x20 = 0x1C && bitsOf v 4 4 = 0
  | 0x09 => if FBK_CFG 0 ≤ a then fbkBad (a % 0x100) v else false
  | 0x0A => fioBad a v
  | 0x0B => canBad ((a - CAN_STS 0) % 0x4000) v
  | 0x0C =>
    if a = THM_LCFG then v = 0
    else (List.range 16).any fun p => decide (a = THM_PIR p) && fget l (THM_PIN_TYPE p) = 3 && v / 65536 ≠ 0
  | 0x0D =>
    let k := (a - FLT_SEV 0) / 4
    FLT_SEV 0 ≤ a && a < FLT_SEV 256 && bitsOf v 0 3 = 7 && !(0x20 ≤ k && k ≤ 0x26)
  | _ => false

/-- A non-zero reserved bit of a declaration word (R412). -/
def declBad (j v : Nat) : Bool :=
  match j with
  | 1 => v / 256 ≠ 0
  | 9 => bit v 31
  | 10 => decide (8 < v)
  | _ => false

/-- A non-zero reserved bit of a word of table and coefficient SRAM: a declared sine table (R123), coefficients (R208). -/
def tableBad (d : Decl) (a v : Nat) : Bool :=
  if a < sineBase 8 then bit d.tabs ((a - sineBase 0) / 0x4000) && v / 2 ^ 24 ≠ 0
  else if 0x02040000 ≤ a ∧ a < 0x02080000 then
    let o := a % 0x400
    if o < 0x200 then
      if o % 0x40 < 0x20 then v / 2 ^ 24 ≠ 0 else if o % 0x40 = 0x20 then v / 2 ^ 8 ≠ 0 else v ≠ 0
    else decide (0x21C < o) && v ≠ 0
  else false

/-- Bits of a descriptor register that are not reserved though no pair loads them: AXS_WS.NACT, AXS_EN.BST and ZBANK,
LPE_MODE.CLR. What a pair holds there has no effect. -/
def liveMask (a : Nat) : Nat :=
  if blockOf a = 0x03 ∧ a % 0x1000 = 0x10 then 0x70
  else if blockOf a = 0x03 ∧ 0x60 ≤ a % 0x1000 ∧ a % 0x1000 ≤ 0x6C then 0xF0
  else if LPE_SCFG 0 ≤ a ∧ a < LPE_SCFG 256 ∧ a % 0x40 = 0x34 then 2
  else 0

/-- The second pass over one section. -/
def secReserved (l : Lane) (x : Nat × Section) : Option Bad :=
  let bad := fun (o v : Nat) => ({ reason := 0x23, val := v, adr := o, task := none, axis := none } : Bad)
  match x.2.typ.toNat with
  | 4 => ((listPairs x.1 x.2.body).find? fun p =>
      descMask p.2.1 ≠ 0 && ((BitVec.ofNat 32 p.2.2 &&& ~~~(BitVec.ofNat 32 (descMask p.2.1 ||| liveMask p.2.1)) ≠ 0#32) || valueBad l p.2.1 p.2.2)).map
      fun p => bad p.1 p.2.2
  | 6 => (x.2.body.zipIdx.find? fun w => declBad w.2 w.1.toNat).map fun w => bad (x.1 + 4 * w.2) w.1.toNat
  | 3 => ((secWords x).find? fun w => tableBad l.decl w.2.1 w.2.2.toNat).map fun w => bad w.1 w.2.2.toNat
  | _ => none

/-- A port whose ROLE is on while no pair gives it a reference period, which then stands outside its range (R368, R370): it is
reported at the pair that sets ROLE. -/
def roleBare (l : Lane) (im : Image) (p : Nat) : Bool :=
  decide (fget l (CAN_TSCFG_ROLE p) ≠ 0) && fget l (CAN_TSPER_REFPER p) = 0 && !(pairNames im (CAN_TSPER p))

/-- The second pass, in rising image offset. -/
def stepReserved (l : Lane) (im : Image) : Option Bad :=
  let first := (imgSecs im).findSome? (secReserved l)
  match (List.range 4).filter (roleBare l im), first with
  | [], _ => first
  | ps, _ =>
    let x := ps.foldl (fun (b : Nat × Nat) p =>
      if pairAt im (CAN_TSCFG p) < b.1 then (pairAt im (CAN_TSCFG p), (rget l (CAN_TSCFG p)).toNat) else b) (2 ^ 32, 0)
    if first.any fun b => decide (b.adr < x.1) then first
    else some { reason := 0x23, val := x.2, adr := x.1, task := none, axis := none }

end Sys2Proof.Machine
end

