-- ==== Sys2Proof/Machine/Check24.lean ====
section
/-!
DEFINITION. Step 3 of admission, third pass (R90): the consistency rules of the chapters in rising detail code, reason 0x24
(R116, R178, R221, R259, R316, R337, R370, R391, R412, R425).
-/
namespace Sys2Proof.Machine

/-- One detail: among objects in rising number, the first that fails, with the item and the axis it names. -/
def detail (code : Nat) (objs : List Nat) (bad : Nat → Bool) (adr : Nat → Nat) (axis : Nat → Option Nat) : Option Bad :=
  (objs.find? bad).map fun n => { reason := 0x24, val := code, adr := adr n, task := none, axis := axis n }

/-- The first refusal of a list of checks. -/
def firstBad : List (Unit → Option Bad) → Option Bad
  | [] => none
  | f :: t => match f () with | some b => some b | none => firstBad t

/-- No axis is named. -/
def noAxis (_ : Nat) : Option Nat := none

/-- The axes with an axis descriptor (R116). -/
def descAxes (im : Image) : List Nat := (List.range 16).filter (axisDesc im)

/-- Whether all elements of a list are equal. -/
def allSame (xs : List Nat) : Bool := match xs with | [] => true | x :: t => t.all fun y => decide (y = x)

/-! ## Legs and coppices (R116) -/

/-- The valid coppices. -/
def validCops (l : Lane) : List Nat := (List.range 32).filter (cpValid l)

/-- The buses whose mask names brick `b` (R238). -/
def busesOf (l : Lane) (b : Nat) : List Nat := (List.range 8).filter fun k => bit (fget l (SHR_BMSK_BMSK k)) b

/-- A brick's buses as one number. -/
def busKey (l : Lane) (b : Nat) : Nat := (busesOf l b).foldl (fun m k => m + 2 ^ k) 0

/-- The axis or host axis of a used leg. -/
def legAxis (l : Lane) (n : Nat) : Option Nat :=
  match fget l (LEG_CFG_TYPE n) with
  | 1 => some (fget l (LEG_CPC_AXIS (fget l (LEG_CFG_COPPICE n))))
  | 2 => some (fget l (LEG_CFG_HOST n))
  | _ => none

/-- The axes of a brick's used legs. -/
def brickAxes (l : Lane) (b : Nat) : List Nat := (List.range 4).filterMap fun p => legAxis l (4 * b + p)

/-- Details 0x0401 to 0x040A. -/
def legDetails (l : Lane) (im : Image) : List (Unit → Option Bad) :=
  let cpAxis := fun (c : Nat) => some (fget l (LEG_CPC_AXIS c))
  let ax := descAxes im
  let own := fun (n : Nat) => some n
  [fun _ => detail 0x0401 (validCops l) (fun c => (List.range 3).any fun x =>
      decide (((legsOf l c).filter fun (n : Fin 128) => fget l (LEG_CFG_PHASE n) = x).length ≠ 1)) (fun c => pairAt im (LEG_CPC c)) cpAxis,
   fun _ => detail 0x0402 (List.range 128) (fun n => fget l (LEG_CFG_TYPE n) = 1 && !(cpValid l (fget l (LEG_CFG_COPPICE n))))
      (fun n => pairAt im (LEG_CFG n)) noAxis,
   fun _ => detail 0x0402 (validCops l) (fun c => !(axisDesc im (fget l (LEG_CPC_AXIS c)))) (fun c => pairAt im (LEG_CPC c)) cpAxis,
   fun _ => detail 0x0403 (validCops l) (fun c => !(allSame ((legsOf l c).map fun n => busKey l (n.1 / 4))))
      (fun c => pairAt im (LEG_CPC c)) cpAxis,
   fun _ => detail 0x0404 (List.range 32) (fun b => !(allSame (brickAxes l b))) (fun b => pairAt im (LEG_CFG (4 * b))) noAxis,
   fun _ => detail 0x0405 (ax.flatMap fun a => (List.range 4).map fun s => 4 * a + s)
      (fun k => decide (fget l (AXS_WS_NCOP (k / 4) (k % 4)) ≠
        ((validCops l).filter fun c => fget l (LEG_CPC_AXIS c) = k / 4 && fget l (LEG_CPC_WSET c) = k % 4).length))
      (fun k => pairAt im (AXS_WS (k / 4) (k % 4))) (fun k => some (k / 4)),
   fun _ => detail 0x0406 ax (fun a =>
      let used := fun (s : Nat) => decide (fget l (AXS_WS_NCOP a s) ≠ 0)
      !(used 0) || (used 2 && !(used 1)) || (used 3 && !(used 2))) (fun a => pairAt im (AXS_WS a 0)) own,
   fun _ => detail 0x0407 ax (fun a => decide (fget l (AXS_CAR_HALF a) < 100000) || decide (1600000 < fget l (AXS_CAR_HALF a)))
      (fun a => pairAt im (AXS_CAR a)) own,
   fun _ => detail 0x0408 ax (fun a => fon l (AXS_WS_WSOFF a 0)) (fun a => pairAt im (AXS_WS a 0)) own,
   fun _ => detail 0x0409 ax (fun a => !(bit l.decl.tabs (fget l (AXS_MOD_TAB a)))) (fun a => pairAt im (AXS_MOD a)) own,
   fun _ => detail 0x040A (List.range 128) (fun n => fget l (LEG_CFG_TYPE n) = 2 && !(axisDesc im (fget l (LEG_CFG_HOST n))))
      (fun n => pairAt im (LEG_CFG n)) noAxis]

/-! ## Field control and observer (R178) -/

/-- Details 0x0501 to 0x0509. -/
def obsDetails (l : Lane) (im : Image) : List (Unit → Option Bad) :=
  let ax := descAxes im
  let own := fun (n : Nat) => some n
  let inj := fun (a : Nat) => fon l (OBS_CFG_INJ a)
  let ech := fun (a : Nat) => fget l (FBK_CFG_TYPE (fget l (OBS_CFG_ECH a)))
  [fun _ => detail 0x0501 ax (fun a => inj a && decide (3200000000 < 8 * fget l (OBS_INJ_FINJ a) * fget l (AXS_CAR_HALF a)))
      (fun a => pairAt im (OBS_INJ a)) own,
   fun _ => detail 0x0502 ax (fun a => inj a && decide (100 * fgetI l (AXS_LQ_LQ a) < 105 * fgetI l (AXS_LD_LD a)))
      (fun a => pairAt im (AXS_LQ a)) own,
   fun _ => detail 0x0503 ax (fun a => fon l (OBS_HOLD_HOLD a) && decide (fget l (OBS_HOLD_HOLD a) < fget l (OBS_HOLD_RAMPT a)))
      (fun a => pairAt im (OBS_HOLD a)) own,
   fun _ => detail 0x0504 ax (fun a => fon l (OBS_CFG_ENC a) && (ech a = 0 || (fget l (OBS_CFG_ENC a) = 1 && ech a = 3)))
      (fun a => pairAt im (OBS_CFG a)) own,
   fun _ => detail 0x0505 ax (fun a => inj a && decide (fget l (OBS_BLD_WB1 a) ≤ fget l (OBS_BLD_WB0 a)))
      (fun a => pairAt im (OBS_BLD a)) own,
   fun _ => detail 0x0506 ax (fun a => decide (fgetI l (AXS_LD_LD a) ≤ 0) || decide (fgetI l (AXS_LQ_LQ a) ≤ 0) ||
      decide (fgetI l (AXS_PSI_PSI a) ≤ 0) || decide (fgetI l (AXS_RS_RS a) < 0) || decide (fgetI l (AXS_KTQ_KTQ a) < 0x8000) ||
      decide (0x20000 < fgetI l (AXS_KTQ_KTQ a))) (fun a => pairAt im (AXS_LD a)) own,
   fun _ => detail 0x0507 ax (fun a => (setsUsed l (Fin.ofNat 16 a)).any fun s => (List.range 2).any fun j =>
      let n := fget l (AXS_CL_DSLOT a) + 2 * s.1 + j
      decide (255 < n) || (fon l (LPE_SCFG_BOUND n) && decide (fget l (LPE_SCFG_AXIS n) ≠ a))) (fun a => pairAt im (AXS_CL a)) own,
   fun _ => detail 0x0508 ax (fun a => !(fon l (AXS_PP_PP a)) || !(fon l (AXS_RATI_IR a)) || !(fon l (AXS_RATV_VR a)) ||
      !(fon l (AXS_RATN_NR a))) (fun a => pairAt im (AXS_PP a)) own,
   fun _ => detail 0x0509 (List.range (16 * 33)) (fun k => decide (0 < (mget32 l (0x02020000 + 0x100 * (k / 33) + 4 * (k % 33))).toInt))
      (fun k => wordAt im (0x02020000 + 0x100 * (k / 33) + 4 * (k % 33))) (fun k => some (k / 33))]

/-! ## Slots (R221) -/

/-- The used slots. -/
def usedSlots (l : Lane) : List Nat := (List.range 256).filter (slotUsed l)

/-- The first slots of stages (R190), an unused one among them where a descriptor marks it so. -/
def firstSlots (l : Lane) : List Nat := (List.range 256).filter fun s => fon l (LPE_SCFG_FIRST s)

/-- The slots of the stage that starts at `f`, as numbers that may run past 255. -/
def stageNums (l : Lane) (f : Nat) : List Nat := (List.range (fget l (LPE_SCFG_NSL f) + 1)).map fun j => f + j

/-- The last slot of a stage. -/
def lastNum (l : Lane) (f : Nat) : Nat := f + fget l (LPE_SCFG_NSL f)

/-- Whether a slot belongs to a stage. -/
def inStage (l : Lane) (s : Nat) : Bool := (firstSlots l).any fun f => decide (f ≤ s) && decide (s ≤ lastNum l f)

/-- Whether a stage uses its SRC (R191). -/
def usesSrc (l : Lane) (f : Nat) : Bool := fget l (LPE_SIN_SPSEL f) = 1 || fget l (LPE_SIN_FBSEL f) = 6

/-- The POSTs in the loaded words: address, kind, slot. -/
def imgPosts (im : Image) : List (Nat × Nat × Nat) :=
  (List.range 4).flatMap fun c => (sliceWords im c).filterMap fun w =>
    match pKind w.2 with | .post k s => some (w.1, k, s) | _ => none

/-- The current-loop slots of the described axes (R158). -/
def loopNums (l : Lane) (im : Image) : List (Nat × Nat) :=
  (descAxes im).flatMap fun a => (setsUsed l (Fin.ofNat 16 a)).flatMap fun s =>
    [(a, fget l (AXS_CL_DSLOT a) + 2 * s.1), (a, fget l (AXS_CL_DSLOT a) + 2 * s.1 + 1)]

/-- The slots that something names, with the item that names them (detail 0x0602). -/
def namedSlots (l : Lane) (im : Image) : List (Nat × Nat) :=
  ((firstSlots l).flatMap fun f => (stageNums l f).map fun s => (s, pairAt im (LPE_SCFG f))) ++
  ((firstSlots l).filter (usesSrc l)).map (fun f => (fget l (LPE_SIN_SRC f), pairAt im (LPE_SIN f))) ++
  (loopNums l im).map (fun x => (x.2, pairAt im (AXS_CL x.1))) ++
  (imgPosts im).map (fun x => (x.2.2, x.1)) ++
  ((List.range 8).filter fun j => pairNames im (LPE_CCH j)).map fun j => (fget l (LPE_CCH_SLOT j), pairAt im (LPE_CCH j))

/-- A coefficient as its exact value (R186). -/
def coefRat (l : Lane) (s r j : Nat) : Rat := dyRat { m := coefM l s r j, e := coefE l s r - 23 }

/-- The Jury criterion: whether the section's denominator has all its roots inside the unit circle (R182). -/
def jury (a1 a2 a3 : Rat) : Bool :=
  if a3 = 0 then decide (rabs a2 < 1) && decide (rabs a1 < 1 + a2)
  else decide (rabs a3 < 1) && decide (0 < 1 + a1 + a2 + a3) && decide (0 < 1 - a1 + a2 - a3) &&
    decide (rabs (a2 - a1 * a3) < 1 - a3 * a3)

/-- Detail 0x0603 in one region. -/
def poleBad (l : Lane) (s r : Nat) : Bool :=
  (fget l (LPE_SCFG_FORM s) = 1 && (decide (coefM l s r 3 ≠ 0) || decide (coefM l s r 6 ≠ 0))) ||
  !(jury (coefRat l s r 4) (coefRat l s r 5) (coefRat l s r 6))

/-- A current-loop slot arranged otherwise than R195 requires. -/
def loopBad (l : Lane) (a n : Nat) : Bool :=
  !(slotUsed l n && fon l (LPE_SCFG_FIRST n) && fget l (LPE_SCFG_NSL n) = 0 && fon l (LPE_SCFG_BOUND n) &&
    fget l (LPE_SCFG_AXIS n) = a && fget l (LPE_SCFG_DIV n) = 0 && fget l (LPE_SIN_SPSEL n) = 2 && fget l (LPE_SIN_FBSEL n) = 0 &&
    fget l (LPE_SIN_DEST n) = 0)

/-- The bound stages of an axis whose DEST is its torque reference (R193). -/
def destStages (l : Lane) (a : Nat) : List Nat :=
  (firstSlots l).filter fun f => fon l (LPE_SCFG_BOUND f) && fget l (LPE_SCFG_AXIS f) = a && fget l (LPE_SIN_DEST (lastNum l f)) = 1

/-- Detail 0x0605 for one stage. -/
def boundBad (l : Lane) (f : Nat) : Bool :=
  let axisOnly := fun (k : Nat) => decide (1 ≤ k) && decide (k ≤ 5)
  let sched := fun (k : Nat) => decide (1 ≤ k) && decide (k ≤ 4)
  let dest := fget l (LPE_SIN_DEST (lastNum l f))
  if fon l (LPE_SCFG_BOUND f) then dest = 1 && decide ((destStages l (fget l (LPE_SCFG_AXIS f))).head? ≠ some f)
  else axisOnly (fget l (LPE_SIN_FBSEL f)) || ((stageNums l f).any fun s => sched (fget l (LPE_SIN_SCHSEL s))) || dest = 1 || dest = 2

/-- Detail 0x060B: stage fields in a slot other than the first, or DEST in one other than the last. -/
def fieldBad (l : Lane) (s : Nat) : Bool :=
  let first := fon l (LPE_SCFG_FIRST s)
  let last := (firstSlots l).any fun f => decide (lastNum l f = s)
  (!first && (fon l (LPE_SCFG_BOUND s) || fon l (LPE_SCFG_AXIS s) || fon l (LPE_SCFG_DIV s) || fon l (LPE_SCFG_DPH s) ||
    fon l (LPE_SCFG_CHOLD s) || fon l (LPE_SIN_SPSEL s) || fon l (LPE_SIN_FBSEL s) || fon l (LPE_SIN_SRC s))) ||
  (!last && fon l (LPE_SIN_DEST s))

/-- A word of data SRAM below the data top (R217, detail 0x060D). -/
def dataWord (l : Lane) (a : Nat) : Bool := a % 4 = 0 && decide (0x01000000 ≤ a) && decide (a + 4 ≤ l.decl.dtop)

/-- Detail 0x060D for one used slot. -/
def adrBad (l : Lane) (s : Nat) : Bool :=
  let a := fget l (LPE_SADR_ADR s)
  (fon l (LPE_SCFG_FIRST s) && fget l (LPE_SIN_FBSEL s) = 7 && !(dataWord l a)) ||
  (fget l (LPE_SIN_SCHSEL s) = 6 && !(dataWord l (a + 4))) || (fget l (LPE_SIN_DEST s) = 2 && !(dataWord l (a + 8)))

/-- Details 0x0601 to 0x060D. -/
def slotDetails (l : Lane) (im : Image) : List (Unit → Option Bad) :=
  let cfg := fun (s : Nat) => pairAt im (LPE_SCFG s)
  let inp := fun (s : Nat) => pairAt im (LPE_SIN s)
  let used := usedSlots l
  let regions := fun (s : Nat) => List.range (fget l (LPE_SIN_NREG s) + 1)
  [fun _ => detail 0x0601 (List.range 256) (fun s => (fon l (LPE_SCFG_FIRST s) && (decide (255 < lastNum l s) ||
      (stageNums l s).any fun t => decide (t ≠ s) && fon l (LPE_SCFG_FIRST t))) || (slotUsed l s && !(inStage l s))) cfg noAxis,
   fun _ => (((namedSlots l im).filter fun x => !(slotUsed l x.1)).foldl (fun (m : Option (Nat × Nat)) x => match m with
      | some y => if x.1 < y.1 then some x else m
      | none => some x) none).map fun x => { reason := 0x24, val := 0x0602, adr := x.2, task := none, axis := none },
   fun _ => detail 0x0603 used (fun s => (regions s).any (poleBad l s)) (fun s =>
      wordAt im (coefBase s + 0x40 * ((regions s).find? (poleBad l s)).getD 0 + 0x10)) noAxis,
   fun _ => ((loopNums l im).find? fun x => loopBad l x.1 x.2).map fun x =>
      { reason := 0x24, val := 0x0604, adr := cfg x.2, task := none, axis := some x.1 },
   fun _ => detail 0x0605 (firstSlots l) (boundBad l) inp noAxis,
   fun _ => detail 0x0606 ((firstSlots l).filter (usesSrc l)) (fun f => !((firstSlots l).contains (fget l (LPE_SIN_SRC f)))) inp noAxis,
   fun _ => detail 0x0607 used (fun s => dyLt (bfVal (rget l (LPE_IHI s))) (bfVal (rget l (LPE_ILO s))) ||
      dyLt (bfVal (rget l (LPE_YHI s))) (bfVal (rget l (LPE_YLO s)))) (fun s =>
      pairAt im (if dyLt (bfVal (rget l (LPE_IHI s))) (bfVal (rget l (LPE_ILO s))) then LPE_ILO s else LPE_YLO s)) noAxis,
   fun _ => ((imgPosts im).find? fun x => decide (x.2.1 < 2) && (!((firstSlots l).contains x.2.2) || fon l (LPE_SCFG_BOUND x.2.2))).map
      fun x => { reason := 0x24, val := 0x0608, adr := x.1, task := none, axis := none },
   fun _ => detail 0x0609 used (fun s =>
      let n := fget l (LPE_SIN_NREG s)
      ((List.range (n - 1)).any fun j => decide (thrOf l s (j + 2) ≤ thrOf l s (j + 1))) || decide (hysOf l s < 0) ||
      (decide (0 < n) && fget l (LPE_SIN_SCHSEL s) = 0)) (fun s => wordAt im (coefBase s + 0x200)) noAxis,
   fun _ => detail 0x060A (firstSlots l) (fun s => decide (fget l (LPE_SCFG_DIV s) < fget l (LPE_SCFG_DPH s))) cfg noAxis,
   fun _ => detail 0x060B used (fieldBad l) cfg noAxis,
   fun _ => detail 0x060D used (adrBad l) (fun s => pairAt im (LPE_SADR s)) noAxis]

/-! ## Sharing and energy (R259) -/

/-- The bricks with a used leg. -/
def usedBricks (l : Lane) : List Nat := (List.range 32).filter (brickUsed l)

/-- The groups whose mode is not off. -/
def liveGroups (l : Lane) : List Nat := (List.range 8).filter fun g => fon l (SHR_GCFG_MODE g)

/-- The members of group `g`. -/
def groupNums (l : Lane) (g : Nat) : List Nat := bitsSet 16 (fget l (SHR_GCFG_MEMB g))

/-- Whether a bus has used bricks. -/
def busUsed (l : Lane) (k : Nat) : Bool := (usedBricks l).any fun b => bit (fget l (SHR_BMSK_BMSK k)) b

/-- Whether the thresholds of bus `k` rise in the order of R239. -/
def busRise (l : Lane) (k : Nat) : Bool :=
  let lt := fun (x y : Field) => decide (fget l x < fget l y)
  lt (SHR_BT4_VUV k) (SHR_BT5_VRT k) && lt (SHR_BT5_VRT k) (SHR_BT5_VRTX k) && lt (SHR_BT5_VRTX k) (SHR_BT1_VCHOFF k) &&
  lt (SHR_BT1_VCHOFF k) (SHR_BT1_VCHON k) && lt (SHR_BT1_VCHON k) (SHR_BT3_VFLX k) && lt (SHR_BT3_VFLX k) (SHR_BT2_VCHFULL k) &&
  decide (fget l (SHR_BT2_VCHFULL k) ≤ fget l (SHR_BT2_VREG0 k)) && lt (SHR_BT2_VREG0 k) (SHR_BT3_VREG1 k) &&
  lt (SHR_BT3_VREG1 k) (SHR_BT4_VTRIP k)

/-- Details 0x0701 to 0x070C. -/
def shareDetails (l : Lane) (im : Image) : List (Unit → Option Bad) :=
  let ax := descAxes im
  let own := fun (n : Nat) => some n
  let grp := fun (g : Nat) => pairAt im (SHR_GCFG g)
  [fun _ => detail 0x0701 (liveGroups l) (fun g => !(allSame ((groupNums l g).map fun a => fget l (AXS_RATN_NR a))) ||
      !(allSame ((groupNums l g).map fun a => fget l (AXS_CAR_HALF a)))) grp noAxis,
   fun _ => detail 0x0702 (usedBricks l) (fun b => decide ((busesOf l b).length ≠ 1)) (fun b => pairAt im (LEG_CFG (4 * b))) noAxis,
   fun _ => detail 0x0703 ax (fun a => !(allSame ((validCops l).flatMap fun c =>
      if fget l (LEG_CPC_AXIS c) = a then (legsOf l c).map fun n => busKey l (n.1 / 4) else []))) (fun a => pairAt im (AXS_CAR a)) own,
   fun _ => detail 0x0703 (List.range 128) (fun n => fget l (LEG_CFG_TYPE n) = 2 &&
      !((busesOf l (n / 4)).contains (fget l (LEG_CFG_BUS n)))) (fun n => pairAt im (LEG_CFG n)) noAxis,
   fun _ => detail 0x0704 (liveGroups l) (fun g => ((groupNums l g).any fun a => (liveGroups l).any fun h =>
      decide (h ≠ g) && (groupNums l h).contains a) || !((groupNums l g).contains (fget l (SHR_GCFG_LEAD g))) ||
      !((groupNums l g).contains (fget l (SHR_GCFG_ALT g)))) grp noAxis,
   fun _ => detail 0x0705 (List.range 8) (fun k => !(busRise l k)) (fun k => pairAt im (SHR_BT1 k)) noAxis,
   fun _ => detail 0x0706 (List.range 8) (fun k => busUsed l k && !(axisDesc im (fget l (SHR_BHOST_HOST k))))
      (fun k => pairAt im (SHR_BHOST k)) noAxis,
   fun _ => detail 0x0707 ax (fun a =>
      let fd := fget l (AXS_DOB_FD a)
      decide (500 < fd) || decide (3200000000 < 10 * fd * fget l (AXS_CAR_HALF a)) || (decide (0 < fd) && !(fon l (AXS_DOB_TM a))))
      (fun a => pairAt im (AXS_DOB a)) own,
   fun _ => detail 0x0708 ax (fun a =>
      (fon l (AXS_BRK_BRKEN a) && ax.any fun b => decide (b ≠ a) && fon l (AXS_BRK_BRKEN b) &&
        decide (fget l (AXS_BRK_DO b) = fget l (AXS_BRK_DO a))) ||
      (fon l (AXS_QR_QEN a) && ax.any fun b => decide (b ≠ a) && fon l (AXS_QR_QEN b) && decide (fget l (AXS_QR_DI b) = fget l (AXS_QR_DI a))) ||
      (fon l (AXS_QR_QEN a) && !(fon l (AXS_BRK_BRKEN a)))) (fun a => pairAt im (AXS_BRK a)) own,
   fun _ => detail 0x0709 ax (fun a => fon l (AXS_HRSP_ENPOS a) && (fget l (FBK_CFG_TYPE (fget l (OBS_CFG_ECH a))) = 0 ||
      decide (fgetI l (AXS_HPH_PHI a) ≤ fgetI l (AXS_HPL_PLO a)))) (fun a => pairAt im (AXS_HRSP a)) own,
   fun _ => detail 0x070A ax (fun a => !(fon l (AXS_HIC_IHL a)) || !(fon l (AXS_HSP_SPMAX a)) || !(fon l (SHR_APR_P a)))
      (fun a => pairAt im (if !(fon l (AXS_HIC_IHL a)) then AXS_HIC a else if !(fon l (AXS_HSP_SPMAX a)) then AXS_HSP a else SHR_APR a)) own,
   fun _ => detail 0x070A (List.range 8) (fun k => busUsed l k && !(fon l (SHR_BVR_VDCR k))) (fun k => pairAt im (SHR_BVR k)) noAxis,
   fun _ => detail 0x070B (List.range 16) (fun a =>
      let h := fget l (SHR_HVA_HADR a)
      fon l (SHR_HVC_HEN a) && (h % 4 ≠ 0 || decide (h < 0x01000000) || decide (l.decl.dtop ≤ h))) (fun a => pairAt im (SHR_HVA a)) own,
   fun _ => detail 0x070C ax (fun a => fon l (AXS_TENC_CSRC a) && !(fon l (AXS_TENR_TENR a))) (fun a => pairAt im (AXS_TENC a)) own]

/-! ## Feedback and field I/O (R316, R337) -/

/-- Detail 0x0902 for an SSI channel. -/
def ssiBad (l : Lane) (e : Nat) : Bool :=
  let plsb := fget l (FBK_SSI_PLSB e)
  let nbit := fget l (FBK_SSI_NBIT e)
  let een := fon l (FBK_SSI_EEN e)
  let clen := fget l (FBK_SS3_CLEN e)
  decide (nbit < plsb + fget l (FBK_SSI_PLEN e)) || (een && decide (nbit ≤ fget l (FBK_SS2_EBIT e))) ||
  (decide (0 < clen) && (decide (plsb < clen) || (een && decide (fget l (FBK_SS2_EBIT e) < clen))))

/-- Whether axis `a` uses the channel that OBS_CFG.ECH names: for its angle, its position window, or the position of a slot bound to it
(R165, R191, R247). -/
def usesChan (l : Lane) (a : Nat) : Bool :=
  fon l (OBS_CFG_ENC a) || fon l (AXS_HRSP_ENPOS a) ||
  (List.range 256).any fun s => fget l (LPE_SCFG_FORM s) ≠ 0 && fon l (LPE_SCFG_FIRST s) && fon l (LPE_SCFG_BOUND s) && fget l (LPE_SCFG_AXIS s) = a && fget l (LPE_SIN_FBSEL s) = 3

/-- Whether a described axis's speed limit overruns the line filter of channel `e` or 10 MHz (detail 0x0903). -/
def rateBad (l : Lane) (im : Image) (e : Nat) : Bool :=
  (descAxes im).any fun a =>
    let f : Rat := (fget l (AXS_HSP_SPMAX a) : Rat) * (fget l (FBK_CPR_CPR e) : Rat) / (65536 * 60)
    fget l (OBS_CFG_ECH a) = e && (decide (mkRat 100000000 (fget l (FBK_CFG_NFLT e) + 2) < f) || decide ((10000000 : Rat) < f)) &&
    usesChan l a

/-- Details 0x0901 to 0x0906 and 0x0A01 to 0x0A03. -/
def fieldDetails (l : Lane) (im : Image) : List (Unit → Option Bad) :=
  let ch := List.range 16
  let typ := fun (e : Nat) => fget l (FBK_CFG_TYPE e)
  let cfg := fun (e : Nat) => pairAt im (FBK_CFG e)
  let ax := descAxes im
  let own := fun (n : Nat) => some n
  [fun _ => detail 0x0901 ch (fun e => decide (typ e ≠ 1) && (fon l (FBK_CFG_ZEN e) || fon l (FBK_CFG_IREF e) || fon l (FBK_CFG_IPOL e)))
      cfg noAxis,
   fun _ => detail 0x0902 ch (fun e => typ e = 2 && ssiBad l e) (fun e => pairAt im (FBK_SSI e)) noAxis,
   fun _ => detail 0x0903 ch (fun e => decide (typ e ≠ 0) && rateBad l im e) (fun e => pairAt im (FBK_CPR e)) noAxis,
   fun _ => detail 0x0904 ch (fun e => decide (typ e ≠ 0) && (typ (fget l (FBK_CFG_PSRC e)) = 0 || typ (fget l (FBK_CFG_PSRC e)) = 3))
      cfg noAxis,
   fun _ => detail 0x0905 ch (fun e => typ e = 2 && decide (fget l (FBK_SS2_RATE e) * 5000 <
      (fget l (FBK_SSI_NBIT e) + 1) * 20 * fget l (FBK_SSI_DIVC e) + 1000 * fget l (FBK_SS2_MONO e))) (fun e => pairAt im (FBK_SS2 e)) noAxis,
   fun _ => detail 0x0906 ch (fun e => decide (typ e ≠ 0) && (decide (fget l (FBK_CPR_CPR e) < 6) ||
      decide (0x40000000 < fget l (FBK_CPR_CPR e)) || (typ e = 3 && decide (fget l (FBK_CPR_CPR e) % 6 ≠ 0))))
      (fun e => pairAt im (FBK_CPR e)) noAxis,
   fun _ => detail 0x0A01 (List.range 64) (fun n => fget l (FIO_ICFG_MODE n) = 4 && decide (8 ≤ n % 32)) (fun n => pairAt im (FIO_ICFG n)) noAxis,
   fun _ => detail 0x0A02 ax (fun a =>
      let safe := fget l (FIO_OCFG_SAFE (fget l (AXS_BRK_DO a)))
      fon l (AXS_BRK_BRKEN a) && (if fon l (AXS_BRK_POL a) then decide (safe = 1) else decide (safe = 0)))
      (fun a => pairAt im (FIO_OCFG (fget l (AXS_BRK_DO a)))) own,
   fun _ => detail 0x0A03 ax (fun a =>
      let m := fget l (FIO_ICFG_MODE (fget l (AXS_QR_DI a)))
      fon l (AXS_QR_QEN a) && (m = 0 || m = 4)) (fun a => pairAt im (FIO_ICFG (fget l (AXS_QR_DI a)))) own]

/-! ## CAN ports and temperature (R370, R391) -/

/-- Detail 0x0B01: bit times in engine clocks of 80 MHz (R343). -/
def bitBad (l : Lane) (p : Nat) : Bool :=
  let n := (fget l (CAN_NBT_NBRP p) + 1) * (fget l (CAN_NBT_NTSEG1 p) + fget l (CAN_NBT_NTSEG2 p) + 3)
  let d := (fget l (CAN_DBT_DBRP p) + 1) * (fget l (CAN_DBT_DTSEG1 p) + fget l (CAN_DBT_DTSEG2 p) + 3)
  decide (n < 80) || decide (8000 < n) || decide (d < 10) || decide (n < d) ||
  decide (fget l (CAN_NBT_NTSEG2 p) < fget l (CAN_NBT_NSJW p)) || decide (fget l (CAN_DBT_DTSEG2 p) < fget l (CAN_DBT_DSJW p))

/-- Details 0x0B01 to 0x0B05 and 0x0C01 to 0x0C03. -/
def portDetails (l : Lane) (im : Image) : List (Unit → Option Bad) :=
  let ports := List.range 4
  let mode := fun (p : Nat) => fget l (CAN_CFG_MODE p)
  let role := fun (p : Nat) => fget l (CAN_TSCFG_ROLE p)
  [fun _ => detail 0x0B01 ports (bitBad l) (fun p => pairAt im (CAN_NBT p)) noAxis,
   fun _ => detail 0x0B02 ports (fun p => fon l (CAN_CFG_PAIR p) && (!(fon l (CAN_CFG_PAIR ((p + 2) % 4))) || mode p = 0))
      (fun p => pairAt im (CAN_CFG p)) noAxis,
   fun _ => detail 0x0B03 ports (fun p => decide (role p ≠ 0) && (decide (fget l (CAN_TSCFG_REFID p) % 8 ≠ 0) ||
      decide (0x7FF < fget l (CAN_TSCFG_REFID p) + 7))) (fun p => pairAt im (CAN_TSCFG p)) noAxis,
   fun _ => detail 0x0B04 ports (fun p => (decide (role p ≠ 0) && decide (3 ≤ mode p)) || (role p = 2 && mode p = 2))
      (fun p => pairAt im (CAN_TSCFG p)) noAxis,
   fun _ => detail 0x0B05 (List.range 32) (fun k =>
      let i := bitsOf (rget l (if k % 8 < 4 then CAN_DITM0 (k / 8) else CAN_DITM1 (k / 8))).toNat (8 * (k % 4)) 8
      decide (i ≠ 0xFF) && !(l.decl.items.contains i)) (fun k => pairAt im (if k % 8 < 4 then CAN_DITM0 (k / 8) else CAN_DITM1 (k / 8))) noAxis,
   fun _ => detail 0x0C01 (List.range 150) (fun n => decide (fgetI l (THM_CFG_THROT n) ≤ fgetI l (THM_CFG_WARN n)) ||
      decide (fgetI l (THM_CSH_SHUT n) ≤ fgetI l (THM_CFG_THROT n))) (fun n => pairAt im (THM_CFG n)) noAxis,
   fun _ => detail 0x0C02 (List.range 16) (fun p => fon l (THM_PIN_OWNED p) &&
      (!(axisDesc im (fget l (THM_PIN_AXIS p))) || fget l (THM_PIN_TYPE p) = 0)) (fun p => pairAt im (THM_PIN p)) noAxis,
   fun _ => detail 0x0C03 (List.range 16) (fun p => (fget l (THM_PIN_TYPE p) = 1 && (!(fon l (THM_PIN_BETA p)) || !(fon l (THM_PIR_RNOM p)))) ||
      (fget l (THM_PIN_TYPE p) = 3 && decide (fget l (THM_PIR_RNOM p) % 65536 = 0))) (fun p => pairAt im (THM_PIN p)) noAxis]

/-! ## Declarations and fault descriptors (R411, R412, R425) -/

/-- Detail 0x0D03 for region `r`. -/
def regionBad (im : Image) (r : Nat) : Bool :=
  let s := declWord im (11 + 2 * r)
  let e := declWord im (12 + 2 * r)
  if r < declWord im 10 then decide (e ≤ s) || s % 4 ≠ 0 || e % 4 ≠ 0 || decide (s < 0x02000000) || decide (0x02100000 < e)
  else s ≠ 0 || e ≠ 0

/-- The last fault descriptor of each source that has one: source and value (R425). -/
def sevPairs (im : Image) : List (Nat × Nat) :=
  (List.range 256).filterMap fun k => ((imgPairs im).reverse.find? fun x => x.2.1 = FLT_SEV k).map fun x => (k, x.2.2)

/-- One rule over the fault descriptors. -/
def sevDetail (im : Image) (code : Nat) (bad : Nat → Nat → Bool) : Option Bad :=
  ((sevPairs im).find? fun x => bad x.1 x.2).map fun x =>
    { reason := 0x24, val := code, adr := pairAt im (FLT_SEV x.1), task := none, axis := none }

/-- Details 0x0D01 to 0x0D04 and 0x0E01 to 0x0E04. -/
def declDetails (l : Lane) (im : Image) : List (Unit → Option Bad) :=
  let top := declWord im 0
  [fun _ => ((imgPairs im).find? fun x => descMask x.2.1 = 0).map fun x =>
      { reason := 0x24, val := 0x0D01, adr := x.1, task := none, axis := none },
   fun _ => if top < 0x01000000 ∨ 0x01400000 < top ∨ top % 0x100 ≠ 0 then
        some { reason := 0x24, val := 0x0D02, adr := declAt im 0, task := none, axis := none }
      else ((secsOf im 2).find? fun x => decide (top < x.2.target.toNat + x.2.len.toNat)).map fun x =>
        { reason := 0x24, val := 0x0D02, adr := x.1, task := none, axis := none },
   fun _ => detail 0x0D03 (List.range 8) (regionBad im) (fun r => declAt im (11 + 2 * r)) noAxis,
   fun _ => ((validTasks l).find? fun n => decide (fget l (ADM_TCFG_ITEM n) ≠ 0xFF) && !(l.decl.items.contains (fget l (ADM_TCFG_ITEM n)))).map
      fun n => { reason := 0x24, val := 0x0D04, adr := taskAt im n, task := some n, axis := none },
   fun _ => sevDetail im 0x0E01 fun k v => srcValid k && decide (bitsOf v 0 3 < bitsOf (sevDefault k) 4 3),
   fun _ => sevDetail im 0x0E02 fun k _ => !(srcValid k),
   fun _ => sevDetail im 0x0E03 fun k v => k = 0x45 && decide (2 < bitsOf v 0 3),
   fun _ => sevDetail im 0x0E04 fun k v => decide (bitsOf v 4 4 ≠ bitsOf (sevDefault k) 4 4)]

/-- The third pass, in rising detail code. -/
def stepDetails (l : Lane) (im : Image) : Option Bad :=
  firstBad (legDetails l im ++ obsDetails l im ++ slotDetails l im ++ shareDetails l im ++ fieldDetails l im ++ portDetails l im ++
    declDetails l im)

end Sys2Proof.Machine
end

