-- ==== Sys2Proof/Machine/Admit.lean ====
section
/-!
DEFINITION. Steps 4 to 7 of admission (R92 to R98), the admission of an image (R90, R91), runtime requests (R101, R102) and
the removal of work (R103).
-/
namespace Sys2Proof.Machine

/-- A set of work (R84, R101): the active axes and the started injection points as masks, and the active items. -/
structure Work where
  axes  : Nat
  items : List Nat
  inj   : Nat
  deriving DecidableEq, Repr

/-- The work active in a lane. -/
def workOf (l : Lane) : Work :=
  { axes := (List.range 16).foldl (fun m a => if axEnabled l a then m + 2 ^ a else m) 0
    items := l.items
    inj := (allFin 4).foldl (fun m (p : Fin 4) => if fon l (LPE_ISTS_RUN p) || (vget l.inj p).pend then m + 2 ^ p.1 else m) 0 }

/-- Whether a valid task belongs to a set of work (R84). -/
def taskActive (l : Lane) (w : Work) (n : Nat) : Bool :=
  if fget l (ADM_TCFG_CLASS n) = 0 then bit w.axes (fget l (ADM_TCFG_AXIS n))
  else fget l (ADM_TCFG_ITEM n) = 0xFF || w.items.contains (fget l (ADM_TCFG_ITEM n))

/-- The active tasks, by index. -/
def activeTasks (l : Lane) (w : Work) : List Nat := (validTasks l).filter (taskActive l w)

/-- Engine cycles in core cycles: times 5/6, rounded up. -/
def toCore (n : Nat) : Nat := cdiv (5 * n) 6

/-- The engine cycles of a slot: c of R197. -/
def slotCost (l : Lane) (s : Nat) : Nat := if fget l (LPE_SCFG_FORM s) = 2 then 12 else 10

/-- The engine cycles of a stage computation: 6 + Σ c + 2 for each started injection point (R197). -/
def stageCost (l : Lane) (w : Work) (f : Nat) : Nat :=
  let ss := stageNums l f
  6 + ss.foldl (fun m s => m + slotCost l s) 0 +
    2 * ((List.range 4).filter fun p => bit w.inj p && ss.contains (fget l (LPE_ICFG_SLOT p))).length

/-- Lchain of an axis in engine cycles (R197). -/
def chainCost (l : Lane) (w : Work) (a : Axis) : Nat := 20 + (stagesOf l a).foldl (fun m s => m + stageCost l w s.1) 0

/-- Lop of a POST in engine cycles (R197). -/
def opCost (l : Lane) (w : Work) (kind s : Nat) : Nat :=
  match kind with
  | 0 | 1 => stageCost l w s
  | 2 => 6 + slotCost l s
  | 3 => 4
  | _ => 2

/-- The image a lane runs, empty when it has none. -/
def runImage (l : Lane) : Image :=
  l.image.getD { magic := 0#32, seq := 0#32, len := 0#32, compat := 0#32, icrc := 0#32, hcrc := 0#32, sections := [] }

/-- Lmax of a task in core cycles (R94). -/
def lmaxOf (l : Lane) (im : Image) (w : Work) (n : Nat) : Nat :=
  toCore ((taskPosts (coreProg l im (n / 16)) 10 (entryOf l n)).foldl (fun m x => max m (opCost l w x.1 x.2)) 0)

/-- The active axes. -/
def workAxes (w : Work) : List Axis := (allFin 16).filter fun a => bit w.axes a

/-- Σ Lchain over the active axes in core cycles (R93). -/
def chainLoad (l : Lane) (w : Work) : Nat := (workAxes w).foldl (fun m a => m + toCore (chainCost l w a)) 0

/-- One tenth of the shortest configured period of the active axes, in core cycles (R93); 0 with no active axis (DESIGN CHOICE,
see the assumption log). -/
def chainLimit (l : Lane) (w : Work) : Nat :=
  match (workAxes w).map fun (a : Axis) => fget l (AXS_CAR_HALF a) with
  | [] => 0
  | h :: t => t.foldl min h / 64

/-- The engine wait bound ER (R94). -/
def waitBound (l : Lane) (im : Image) (w : Work) : Nat :=
  (activeTasks l w).foldl (fun m n =>
    let g := fget l (ADM_TCFG_TAGS n)
    m + (if g = 0 then 0 else g * lmaxOf l im w n)) (chainLoad l w)

/-- The declared tags of the active tasks (R92), and of removed tasks until their last tag has returned (R71). -/
def tagSum (l : Lane) (w : Work) : Nat := tagDecl l (taskActive l w)

/-- The period of a periodic task for admission, in edge ticks (R85, R98). -/
def periodTicks (l : Lane) (n : Nat) : Nat :=
  match fget l (ADM_TCFG_CLASS n) with
  | 0 => fget l (AXS_CAR_HALF (fget l (ADM_TCFG_AXIS n)))
  | 1 => 3200000
  | 2 => 32000000
  | _ => 320000000

/-- T in core cycles, rounded down (R98). -/
def periodCycles (l : Lane) (n : Nat) : Nat := periodTicks l n * 5 / 32

/-- The commit instant of a release in edge ticks after it, for a period of `p` edge ticks (R85). -/
def commitAfter (l : Lane) (n p : Nat) : Nat := if fget l (ADM_TCFG_COMMIT n) = 0 then p else fget l (ADM_TCFG_COMMIT n) * p / 64

/-- The deadline D in core cycles, rounded down (R85). -/
def deadlineCycles (l : Lane) (n : Nat) : Nat := commitAfter l n (periodTicks l n) * 5 / 32

/-- The charged demand C' of a path bound (R96). -/
def charged (w : Nat) : Nat := cdiv (5 * (w + 48)) 4

/-- R98: the response time, or the first iterate above the deadline. Each round adds at least one cycle, so `D + 1` rounds
suffice. -/
def respIter (d c : Nat) (hp : List (Nat × Nat)) : Nat → Nat → Nat × Bool
  | 0, r => (r, true)
  | k + 1, r =>
    let new := hp.foldl (fun m x => m + cdiv r x.1 * x.2) (17 + c)
    if d < new then (new, false) else if new = r then (r, true) else respIter d c hp k new

/-- The response time of a task under the higher-priority tasks `hp`, as (T, C') (R98). An initial R above D is
the first iterate above D (DEDUCED, see the assumption log). -/
def respTime (d c : Nat) (hp : List (Nat × Nat)) : Nat × Bool :=
  let r := hp.foldl (fun m x => m + x.2) (17 + c)
  if d < r then (r, false) else respIter d c hp (d + 1) r

/-- Places a task index into a list by its place in the order of R88. -/
def prioInsert (l : Lane) (n : Nat) : List Nat → List Nat
  | [] => [n]
  | m :: t =>
    let key := fun (k : Nat) => prioKey l (Fin.ofNat 4 (k / 16)) (Fin.ofNat 16 k)
    if key n < key m then n :: m :: t else m :: prioInsert l n t

/-- The active periodic tasks of core `c` in falling priority. -/
def corePeriodic (l : Lane) (w : Work) (c : Nat) : List Nat :=
  ((activeTasks l w).filter fun n => n / 16 = c && decide (fget l (ADM_TCFG_CLASS n) ≠ 4)).foldl (fun m n => prioInsert l n m) []

/-- What the tests compute (R92 to R98): tags, chain load and limit, ER, W by task index, utilisation of each core, and for
each active periodic task in the order of the test its response time or first iterate above D, with whether it passed. -/
structure WorkVals where
  tags  : Nat
  chain : Nat
  limit : Nat
  er    : Nat
  wcet  : List (Nat × Nat)
  util  : List Nat
  resp  : List (List (Nat × Nat × Bool))
  deriving DecidableEq, Repr

/-- W of a task in a list, zero where it has none. -/
def wcetOf (ws : List (Nat × Nat)) (n : Nat) : Nat := (spFind ws n).getD 0

/-- The response times of tasks in falling priority; `hp` gathers those already passed. -/
def respList (l : Lane) (ws : List (Nat × Nat)) : List (Nat × Nat) → List Nat → List (Nat × Nat × Bool)
  | _, [] => []
  | hp, n :: t =>
    let c := charged (wcetOf ws n)
    let r := respTime (deadlineCycles l n) c hp
    (n, r.1, r.2) :: respList l ws (hp ++ [(periodCycles l n, c)]) t

/-- The values of R92 to R98 for a set of work. -/
def workVals (l : Lane) (im : Image) (w : Work) : WorkVals :=
  let er := waitBound l im w
  let ws := ((validTasks l).filter fun n => decide (fget l (ADM_TCFG_CLASS n) ≠ 4)).map fun n =>
    (n, pathBound (coreProg l im (n / 16)) er (entryOf l n))
  { tags := tagSum l w
    chain := chainLoad l w
    limit := chainLimit l w
    er := er
    wcet := ws
    util := (List.range 4).map fun c =>
      ((corePeriodic l w c).foldl (fun (u : Rat) n => u + mkRat (charged (wcetOf ws n)) (periodCycles l n)) 0 * 65536).ceil.toNat
    resp := (List.range 4).map fun c => respList l ws [] (corePeriodic l w c) }

/-- Steps 4 to 7 (R90), or the checks a runtime request repeats (R101): `image` adds step 6, `util` the utilisation. -/
def workBad (v : WorkVals) (image util : Bool) : Option Bad :=
  let bad := fun (r x : Nat) (t : Option Nat) => ({ reason := r, val := x, adr := 0, task := t, axis := none } : Bad)
  let core := fun (c : Nat) => orBad
    (if util ∧ 65536 < v.util.getD c 0 then some (bad 0x42 (v.util.getD c 0) none) else none)
    (fun _ => ((v.resp.getD c []).find? fun x => !x.2.2).map fun x => bad 0x43 x.2.1 (some x.1))
  firstBad [
    fun _ => if 64 < v.tags then some (bad 0x30 v.tags none) else none,
    fun _ => if v.limit < v.chain then some (bad 0x40 v.chain none) else none,
    fun _ => if image then (v.wcet.find? fun x => decide (2 ^ 31 < x.2)).map fun x => bad 0x41 0x80000000 (some x.1) else none,
    fun _ => core 0, fun _ => core 1, fun _ => core 2, fun _ => core 3]

/-- The registers that show the values of a test (R87, R94, R110, R111). -/
def showVals (l : Lane) (w : Work) (v : WorkVals) : Lane :=
  let l := rset (rset l ADM_EWAIT (wordOf v.er)) ADM_CHAIN (wordOf v.chain)
  let l := wantDomains (fset (rset l ADM_CHLIM (wordOf v.limit)) ADM_TAGSUM_SUM v.tags) (if v.tags = 0 then 0#9 else 8#9)
  let l := (List.range 4).foldl (fun l c => fset l (ADM_UTIL_U c) (v.util.getD c 0)) l
  let rs := v.resp.flatMap id
  (List.range 64).foldl (fun l n =>
    let l := rset l (ADM_TWCT n) (wordOf (wcetOf v.wcet n))
    rset l (ADM_TRSP n) (wordOf (match rs.find? fun x => x.1 = n with
      | some x => if taskActive l w n then x.2.1 else 0
      | none => 0))) l

/-- The result registers of a refusal or, without one, of a pass (R99, R102, R111). -/
def showRes (l : Lane) (b : Option Bad) (axis item : Option Nat) : Lane :=
  let b0 := b.getD { reason := 0, val := 0, adr := 0, task := none, axis := none }
  let l := fset (fset l ADM_RES_REASON b0.reason) ADM_RES_ITEM (item.getD 0xFF)
  let l := match b0.task with
    | some n => fsetB (fset (fset l ADM_RES_TASK (n % 16)) ADM_RES_CORE (n / 16)) ADM_RES_TVALID true
    | none => fsetB (fset (fset l ADM_RES_TASK 0) ADM_RES_CORE 0) ADM_RES_TVALID false
  let l := match (match axis with | some a => some a | none => b0.axis) with
    | some a => fsetB (fset l ADM_RES_AXIS a) ADM_RES_AVALID true
    | none => fsetB (fset l ADM_RES_AXIS 0) ADM_RES_AVALID false
  rset (rset l ADM_RADR (wordOf b0.adr)) ADM_RVAL (wordOf b0.val)

/-! ## Admission of an image (R90, R91) -/

/-- The whole check of a candidate: steps 1 to 3, then 4 to 7 for the always-active work. -/
def imageBad (c : Lane) (im : Image) (v : WorkVals) : Option Bad :=
  firstBad [fun _ => stepWords im, fun _ => stepPaths c im, fun _ => stepTasks c im, fun _ => stepReserved c im,
    fun _ => stepDetails c im, fun _ => workBad v true true]

/-- The run data of the program and the blocks start afresh with an admitted image (R37, R84, R186). -/
def freshRun (l : Lane) (now : Nat) : Lane :=
  let z := Lane.zero l.ident
  let used := (List.range 64).foldl (fun m n => if fget l (FIO_ICFG_MODE n) = 0 then m else m + 2 ^ n) 0
  { fsetB l ADM_STS_RQBUSY false with
    di := l.di &&& BitVec.ofNat 64 used
    cores := z.cores.map fun k => { k with cyc := cycleOf now }
    tags := z.tags, engq := [], items := [], request := none, starts := [], axes := z.axes, legs := z.legs, cops := z.cops,
    slots := z.slots, inj := z.inj, cap := z.cap, buses := z.buses, grps := z.grps, chans := z.chans, ins := z.ins,
    outs := z.outs, mreq := none }

/-- An admitted image takes over: fresh run data, TP in force (R118), feedback channels in use (R304), the axes whose EN the
image sets (R416), the command count of the Cord (R460), the first release of background tasks (R83). -/
def installImage (c : Lane) (now : Nat) (im : Image) (v : WorkVals) : Lane :=
  let l := { freshRun c now with image := some im }
  let l := (allFin 16).foldl (fun (l : Lane) (a : Axis) =>
    if axisDesc im a then rset l (AXS_TP a) (wordOf (nextPeriod l a)) else rset l (AXS_TP a) 0#32) l
  let l := (List.range 16).foldl (fun l e =>
    fset (fset l (FBK_CHST_STATE e) (if fget l (FBK_CFG_TYPE e) = 0 then 0 else 1)) (FBK_CHST_CAUSE e) 0) l
  let l := { l with starts := (descAxes im).filter fun a => fon l (AXS_EN_EN a) }
  let l := fset (rset l CRD_CRES 0#32) ADM_STS_STATE 2
  let l := showVals (showRes l none none none) { axes := 0, items := [], inj := 0 } v
  releaseBg l now

/-- Admission of an image (R90): admitted as a whole, or refused without a trace but for the result. -/
def admitImage (l : Lane) (now : Nat) (im : Image) : Lane × Bool :=
  let c := candidate l im
  let v := workVals c im { axes := 0, items := [], inj := 0 }
  match imageBad c im v with
  | some b => (showRes (stk l ADM_STK_REFUSED) (some b) none none, false)
  | none => (installImage c now im v, true)

/-! ## Runtime requests (R101, R102) -/

/-- The poster item that CAN_DITM names for a slot (R352). -/
def posterItem (l : Lane) (p k : Nat) : Nat :=
  bitsOf (rget l (if k < 4 then CAN_DITM0 p else CAN_DITM1 p)).toNat (8 * (k % 4)) 8

/-- The ports whose slots a request enables: both of a pair (R101, R359). -/
def pairPorts (l : Lane) (p : CanPort) : List CanPort :=
  if fon l (CAN_CFG_PAIR p) then [p, ⟨(p.1 + 2) % 4, Nat.mod_lt _ (by decide)⟩] else [p]

/-- What ADM_RES names of a request: the axis and the item (R102). -/
def reqNames (l : Lane) (r : Request) : Option Nat × Option Nat :=
  match r with
  | .axis a => (some a.1, none)
  | .inject p =>
    let s := fget l (LPE_ICFG_SLOT p)
    let f := match slotAt s with | some x => (stageFirst l x).1 | none => s
    (if fon l (LPE_SCFG_BOUND f) then some (fget l (LPE_SCFG_AXIS f)) else none, none)
  | .deadline p m => (none, some (posterItem l p ((bitsSet 8 m).headD 0)))
  | .item i => (none, some i.toNat)

/-- The work a request asks for. -/
def reqWork (l : Lane) (r : Request) : Work :=
  let w := workOf l
  let add := fun (is : List Nat) => { w with items := is.foldl (fun (m : List Nat) i => if i = 0xFF ∨ m.contains i then m else m ++ [i]) w.items }
  match r with
  | .axis a => if bit w.axes a then w else { w with axes := w.axes + 2 ^ a.1 }
  | .inject p => if bit w.inj p then w else { w with inj := w.inj + 2 ^ p.1 }
  | .deadline p m => add ((bitsSet 8 m).map (posterItem l p))
  | .item i => add [i.toNat]

/-- An injection start that R209 or R211 refuses (detail 0x060C). -/
def injectBad (l : Lane) (p : Fin 4) : Bool :=
  let s := fget l (LPE_ICFG_SLOT p)
  let f := match slotAt s with | some x => (stageFirst l x).1 | none => s
  let pt := fget l (LPE_ICFG_POINT p)
  !(slotUsed l s) || !(fon l (LPE_SCFG_BOUND f)) || pt = 3 || (pt = 2 && !(f = s && fget l (LPE_SIN_SPSEL s) = 0)) ||
  (fget l (LPE_ICFG_SIG p) = 1 && fget l (LPE_IDUR_ND p) = 0)

/-- What a request is refused for before the tests (R99, R101, R211). -/
def reqBad (l : Lane) (r : Request) : Option Bad :=
  let bad := fun (c v : Nat) => some ({ reason := c, val := v, adr := 0, task := none, axis := none } : Bad)
  match r with
  | .axis a => if axisDesc (runImage l) a then none else bad 0x21 a.1
  | .inject p =>
    if 4 < (bitsSet 4 (reqWork l r).inj).length then bad 0x53 4 else if injectBad l p then bad 0x24 0x060C else none
  | .deadline p m =>
    ((pairPorts l p).find? fun (q : CanPort) => decide (8 < (bitsSet 32 (fget l (CAN_DEN_EN q) ||| m)).length)).bind fun (q : CanPort) => bad 0x52 q.1
  | .item i => if i.toNat ≠ 0xFF ∧ l.decl.items.contains i.toNat then none else bad 0x50 i.toNat

/-- The first instant at or after `t` at which a running axis starts a P period (R119, R405). -/
def nextPStart (l : Lane) (b : Axis) (t : Nat) : Nat :=
  let x := vget l.axes b
  let tp := max 1 (tpOf l b)
  let base := match x.startS with | some s => s | none => if x.pper then x.t0 else x.t0 + tp
  if t ≤ base then base else base + cdiv (t - base) (2 * tp) * (2 * tp)

/-- The running axis whose carrier the start of `a` must share (R228, R405): a running member of its shaft group, or the axis
itself when its periods run for its bus. -/
def sharedCarrier (l : Lane) (a : Axis) : Option Axis :=
  if axPeriods l a then some a
  else (allFin 16).find? fun (b : Axis) => decide (b ≠ a) && axPeriods l b &&
    (List.range 8).any fun g => fon l (SHR_GCFG_MODE g) && bit (fget l (SHR_GCFG_MEMB g)) a && bit (fget l (SHR_GCFG_MEMB g)) b

/-- S of R405 for a request committed at `t0`. -/
def startAt (l : Lane) (a : Axis) (t0 : Nat) : Nat :=
  let s := ceilTo 128 (t0 + 800000 + cdiv (tpOf l a) 2)
  match sharedCarrier l a with
  | some b => nextPStart l b s
  | none => s

/-- The banked host of a bus that `a` joins becomes KEPT (R404): its periods start by the rule of R405. -/
def keepHosts (l : Lane) (t0 : Nat) (a : Axis) : Lane :=
  (allFin 8).foldl (fun (l : Lane) (b : Fin 8) =>
    let h : Axis := ⟨fget l (SHR_BHOST_HOST b) % 16, Nat.mod_lt _ (by decide)⟩
    if busOfAxis l a = some b && h ≠ a && !(axPeriods l h) then
      modAx (fset l (AXS_EN_BST h) 3) h fun x => { x with startS := some (startAt l h t0) }
    else l) l

/-- An admitted request takes effect (R102, R211, R352, R405). -/
def reqTake (l : Lane) (now t0 : Nat) (r : Request) : Lane :=
  match r with
  | .axis a =>
    let s := startAt l a t0
    let l := rset (fset (fsetB l (AXS_EN_EN a) true) (AXS_EN_BST a) 1) (AXS_ENT a) (wordOf (tbCode l s))
    keepHosts (modAx l a fun x => { x with startS := some s, disReq := false }) t0 a
  | .inject p => { (fsetB l (LPE_ICFG_START p) true) with inj := vmod l.inj p fun j => { j with pend := true, stop := false } }
  | .deadline p m =>
    let l := (pairPorts l p).foldl (fun (l : Lane) (q : CanPort) => fset l (CAN_DEN_EN q) (fget l (CAN_DEN_EN q) ||| m)) l
    releaseBg { l with items := (reqWork l r).items } now
  | .item _ => releaseBg { l with items := (reqWork l r).items } now

/-- The event source of a request's result (R421). -/
def reqRaise (l : Lane) (now : Nat) : Lane := raiseO l now 0x87 (fget l ADM_RES_REASON) 0 0#32

/-- A request is refused (R102). -/
def reqRefuse (l : Lane) (now : Nat) (r : Request) (b : Bad) : Lane :=
  let x := reqNames l r
  reqRaise (showRes (stkLate l ADM_STK_RQREF) (some b) x.1 x.2) now

/-- A runtime request is committed at `now` (R101, R102): another one in progress refuses it. -/
def reqSubmit (l : Lane) (now : Nat) (r : Request) : Lane :=
  match l.request with
  | some q => reqRefuse l now r { reason := 0x51, val := ((reqNames l q.1).2).getD 0xFF, adr := 0, task := none, axis := none }
  | none => wantDomains (fsetB { l with request := some (r, now) } ADM_STS_RQBUSY true) (match r with | .axis _ => 0x18#9 | _ => 0#9)

/-- The request in progress completes (R102): the checks of R101 are repeated for the new set of work. -/
def reqComplete (l : Lane) (now : Nat) : Lane :=
  match l.request with
  | none => l
  | some (r, t0) =>
    let w := reqWork l r
    let v := workVals l (runImage l) w
    let l := fsetB { l with request := none } ADM_STS_RQBUSY false
    let util := match r with | .inject _ => false | _ => true
    match orBad (reqBad l r) fun _ => workBad v false util with
    | some b => reqRefuse l now r b
    | none =>
      let x := reqNames l r
      let l := showVals (showRes (stkLate l ADM_STK_RQOK) none x.1 x.2) w v
      reqRaise (reqTake l now t0 r) now

/-- The bounds are recomputed after work is removed (R103). -/
def workRemoved (l : Lane) : Lane := let w := workOf l; showVals l w (workVals l (runImage l) w)

/-- Whether every brick of an axis is READY. -/
def bricksReady (l : Lane) (a : Axis) : Bool := (bricksOf l a).all fun b => fget l (BLK_BST_STATE b) = 3

/-- An axis whose EN the image set starts as a runtime request once its bricks are READY (R416). -/
def imageStarts (l : Lane) (now : Nat) : Lane :=
  match l.request with
  | some _ => l
  | none =>
    match (allFin 16).find? fun (a : Axis) => l.starts.contains a.1 && bricksReady l a with
    | some a => reqSubmit { l with starts := l.starts.filter fun n => decide (n ≠ a.1) } now (.axis a)
    | none => l

/-! ## Commands -/

/-- A committed EN = 1 (R101, R403, R405): a BANKED or KEPT axis asks to start; a pending banking is cancelled. -/
def axisEnable (l : Lane) (now : Nat) (a : Axis) : Lane :=
  if axEnabled l a then modAx (fsetB l (AXS_EN_EN a) true) a fun x => { x with disReq := false }
  else reqSubmit l now (.axis a)

/-- A committed EN = 0 (R103, R403): a running axis calls for STOP1 and banks at a later boundary. -/
def axisDisable (l : Lane) (a : Axis) : Lane :=
  let l := fsetB { l with starts := l.starts.filter fun n => decide (n ≠ a.1) } (AXS_EN_EN a) false
  if !(axEnabled l a) then l
  else
    let e := fget l (AXS_STS_ESTATE a)
    let l := modAx l a fun x => { x with disReq := true }
    if fget l (AXS_EN_BST a) = 2 ∧ (e = 0 ∨ e = 1 ∨ e = 2 ∨ e = 5) then axAsk l a 3 else l

end Sys2Proof.Machine
end

