-- ==== Sys2Proof/Machine/ReqCmd.lean ====
section
/-!
DEFINITION. The commands of runtime requests and of the removal of work (R101 to R103), as the committed fields that make them
act: axis enable, injection start, deadline-message enable, item activation.
-/
namespace Sys2Proof.Machine

/-- The standby lane's comparison with the active one (R100). -/
def verdictDiffers (x y : Lane) : Bool :=
  decide (fget x ADM_STS_STATE ≠ fget y ADM_STS_STATE) || decide (rget x ADM_RES ≠ rget y ADM_RES) ||
  (List.range 64).any fun n => decide (rget x (ADM_TWCT n) ≠ rget y (ADM_TWCT n)) || decide (rget x (ADM_TRSP n) ≠ rget y (ADM_TRSP n))

/-- A STANDBY lane `l` compares its verdict with that of the ACTIVE lane `p`: on a difference it enters FAULT (R100). -/
def judgeVerdict (now : Nat) (p l : Lane) : Lane :=
  if roleOf l = roleStandby ∧ laneActive p ∧ verdictDiffers l p then setRole now roleFault (stk l ADM_STK_VERDIFF) else l

/-- A committed LPE_ICFG.START (R211): a start of a point that does not run is a runtime request; a zero stops a running point
at its slot's next sample, and takes back a start that waits. -/
def injectCommit (l : Lane) (now : Nat) (p : Fin 4) (start : Bool) : Lane :=
  let j := vget l.inj p
  if start then
    (if (fon l (LPE_ISTS_RUN p) && !j.stop) || j.pend then l else reqSubmit l now (.inject p))
  else
    let l := fsetB l (LPE_ICFG_START p) false
    { l with inj := vset l.inj p { j with pend := false, stop := j.stop || fon l (LPE_ISTS_RUN p) } }

/-- A slot of a port is disabled (R352): its bit goes, and a pending frame is cancelled as by CCAN. -/
def slotDisable (l : Lane) (p : CanPort) (k : Fin 8) : Lane :=
  (portsOf l p).foldl (fun (l : Lane) (q : CanPort) =>
    (cancelSlot (fset l (CAN_DEN_EN q) (setBits (fget l (CAN_DEN_EN q)) k.1 1 0)) q k).1) l

/-- Whether an enabled slot of some port names the poster item `i`. -/
def itemPosted (l : Lane) (i : Nat) : Bool :=
  (allFin 4).any fun (p : CanPort) => (List.range 8).any fun k => bit (fget l (CAN_DEN_EN p)) k && posterItem l p k = i

/-- A committed CAN_DEN (R101, R103, R352, R359): the slots it turns off are disabled at once, their poster items leave the
work when no enabled slot names them; the slots it turns on are one runtime request. The follower's writes are ignored. -/
def denCommit (l : Lane) (now : Nat) (p : CanPort) (v : Nat) : Lane :=
  if isFollower l p then l
  else
    let old := fget l (CAN_DEN_EN p)
    let off := (allFin 8).filter fun (k : Fin 8) => bit old k && !(bit v k)
    let gone := off.map fun (k : Fin 8) => posterItem l p k
    let l := off.foldl (fun (l : Lane) (k : Fin 8) => slotDisable l p k) l
    let l := { l with items := l.items.filter fun i => !(gone.contains i) || itemPosted l i }
    let on := (List.range 8).foldl (fun m k => if bit v k && !(bit old k) then m + 2 ^ k else m) 0
    if on = 0 then l else reqSubmit l now (.deadline p on)

/-- A committed ADM_REQ (R101, R103, R110): OP 0b01 activates the item, OP 0b10 takes it out of the work. -/
def itemCommit (l : Lane) (now : Nat) (op : Nat) (item : Byte) : Lane :=
  match op with
  | 1 => reqSubmit l now (.item item)
  | 2 => { l with items := l.items.filter fun i => decide (i ≠ item.toNat) }
  | _ => l

/-- AXIS_ENABLE (R101, R403, R405). -/
def execAxisEnable (a : Axis) (s : State) : Out := .next (settle (inRunning (fun l => axisEnable l s.now a) s))

/-- AXIS_DISABLE (R103, R403). -/
def execAxisDisable (a : Axis) (s : State) : Out := .next (inRunning (fun l => axisDisable l a) s)

/-- INJECTION_START (R101, R211). -/
def execInjectionStart (p : Fin 4) (s : State) : Out := .next (settle (inRunning (fun l => injectCommit l s.now p true) s))

/-- INJECTION_STOP (R103, R211). -/
def execInjectionStop (p : Fin 4) (s : State) : Out := .next (inRunning (fun l => injectCommit l s.now p false) s)

/-- DEADLINE_MESSAGE_ENABLE (R101, R352). -/
def execDeadlineMessageEnable (p : CanPort) (k : Fin 8) (s : State) : Out :=
  .next (settle (inRunning (fun l => denCommit l s.now p (fget l (CAN_DEN_EN p) ||| 2 ^ k.1)) s))

/-- DEADLINE_MESSAGE_DISABLE (R103, R352). -/
def execDeadlineMessageDisable (p : CanPort) (k : Fin 8) (s : State) : Out :=
  .next (settle (inRunning (fun l => denCommit l s.now p (setBits (fget l (CAN_DEN_EN p)) k.1 1 0)) s))

/-- ITEM_ACTIVATION (R101). -/
def execItemActivation (item : Byte) (s : State) : Out := .next (settle (inRunning (fun l => itemCommit l s.now 1 item) s))

/-- ITEM_DEACTIVATION (R103). -/
def execItemDeactivation (item : Byte) (s : State) : Out := .next (inRunning (fun l => itemCommit l s.now 2 item) s)

/-- RUNTIME_REQUEST_COMPLETE (R102). -/
def execRuntimeRequestComplete (s : State) : Out :=
  let s := inRunning (fun l => moduleState (reqComplete l s.now)) s
  .next (settle { s with
    la := if laneRuns s.la then judgeVerdict s.now s.lb s.la else s.la
    lb := if laneRuns s.lb then judgeVerdict s.now s.la s.lb else s.lb })

/-- WORK_REMOVAL_RECOMPUTE (R103). -/
def execWorkRemovalRecompute (s : State) : Out := .next (inRunning workRemoved s)

end Sys2Proof.Machine
end

