-- ==== Sys2Proof/Machine/Boot.lean ====
section
/-!
DEFINITION. Start-up (R410 to R413), joining (R427, R428), domains and module state (R392, R397) in a lane, and the admission of
a bank's image as a command (R90, R100).
-/
namespace Sys2Proof.Machine

/-! ## Domains and module state -/

/-- Whether some axis of a lane is not banked, or asks to start (R392, R405). -/
def axisUp (l : Lane) : Bool :=
  ((allFin 16).any fun a => axPeriods l a) || (match l.request with | some (.axis _, _) => true | _ => false)

/-- The run condition of domain `d` + 1 in a lane that is awake (R392). -/
def domainWanted (l : Lane) (d : Nat) : Bool :=
  match d with
  | 3 => axisUp l || fon l ADM_TAGSUM_SUM || fon l LPE_CCTL_EN
  | 4 => axisUp l
  | 6 => (allFin 4).any fun (p : CanPort) => decide (fget l (CAN_CFG_MODE p) ≠ 0)
  | _ => true

/-- Kindling from a stopped Reference domain (R396, R410): with Ember, Reference and Core are released; every other domain waits for
its PLL_LOCK. -/
def kindleAll (l : Lane) : Lane := stk (fset { l with pllTry := 0#9, pllBad := 0#9 } CLK_DOM_RUN 7) CLK_STK_KINDLE

/-! ## What a lane reads of the world (R34, R407, R415, R441, R446, R447) -/

/-- SYS_CART follows the presence scan (R34). -/
def showCarts (s : State) (l : Lane) : Lane := fset (fset l SYS_CART_PRES s.pres.toNat) SYS_CART_OK s.okc.toNat

/-- The supply registers follow the status lines (R407, R408, R414, R415). -/
def showSupplies (s : State) (l : Lane) : Lane :=
  let one (l : Lane) (x : Fin 2) : Lane :=
    let p := vget s.sup x
    fsetB (fsetB (fset (fset l (CLK_PS_VIN x) p.vin.toNat) (CLK_PS_IOUT x) p.iout.toNat) (CLK_PS_INOK x) p.inok) (CLK_PS_OUTOK x) p.outok
  let a := vget s.sup 0
  let b := vget s.sup 1
  let l := one (one l 0) 1
  fsetB (fsetB (fsetB l CLK_STS_PSAOK (a.inok && a.outok)) CLK_STS_PSBOK (b.inok && b.outok)) CLK_STS_PFAIL (!a.inok && !b.inok)

/-- The registers that show frame memory (R446, R447). -/
def showFrame (s : State) (l : Lane) : Lane :=
  let l := fset (fset l PEAT_FMCFG_STO s.fm.sto) PEAT_FMCFG_RPER s.fm.rper
  rset (rset l BST_RNEXT (wordOf (s.fm.rnext % 2 ^ 32))) BST_RNEXTH (wordOf (s.fm.rnext / 2 ^ 32))

/-- Frame memory changed, and with it what powered lanes show of it. -/
def setFrame (f : FrameMem → FrameMem) (s : State) : State :=
  let s := { s with fm := f s.fm }
  let show_ (l : Lane) : Lane := if l.powered then showFrame s l else l
  { s with la := show_ s.la, lb := show_ s.lb }

/-- A brick as a lane that starts finds it (R286): UP ports call for IDENT and CAL, other locked ports show it as linking. -/
def findBricks (s : State) (l : Lane) : Lane :=
  (allFin 32).foldl (fun (l : Lane) (b : Brick) =>
    let ps := (vget s.bricks b).ports.toList
    if ps.any fun p => decide (p.lst = 3) then rediscoverLane (fset l (BLK_BST_STATE b) 2) b
    else if ps.any fun p => decide (1 ≤ p.lst) then fset l (BLK_BST_STATE b) 1
    else l) l

/-! ## Banks and images (R411, R413) -/

/-- The header failure of a bank, in the codes of R413: an empty bank has no MAGIC. -/
def headBad (compat : BitVec 16) (b : Option Image) : Option Nat :=
  match b with
  | none => some 1
  | some im =>
    let n := im.len.toNat
    if im.magic ≠ 0x4D49414B#32 ∨ im.hcrc ≠ crc32c [im.magic, im.seq, im.len, im.compat, im.icrc] then some 1
    else if im.compat.toNat ≠ 0x10000 + compat.toNat then some 2
    else if n < 16 ∨ 0x00800000 < n ∨ n % 16 ≠ 0 then some 3
    else none

/-- The bank the lane chooses (R411): the valid one with the greater SEQ, A when the two are equal. -/
def bankChoice (compat : BitVec 16) (l : Lane) : Option (Fin 2) :=
  let ok (k : Fin 2) : Bool := (headBad compat (vget l.banks k)).isNone
  let seq (k : Fin 2) : Nat := match vget l.banks k with | some im => im.seq.toNat | none => 0
  if ok 0 && ok 1 then some (if seq 0 < seq 1 then 1 else 0)
  else if ok 0 then some 0 else if ok 1 then some 1 else none

/-- Image check, load and admission of the bank `k` (R410, steps 4 and 5): the lane, and the failure if any. -/
def tryBank (l : Lane) (now : Nat) (k : Fin 2) : Lane × Option Nat :=
  match vget l.banks k with
  | none => (l, some 1)
  | some im =>
    if im.icrc ≠ crc32c (payload im) then (l, some 4)
    else if !(sectionsOk im) then (l, some 5)
    else
      let r := admitImage l now im
      if r.2 then (fset (rset r.1 CLK_BSEQ im.seq) CLK_BOOT_BANK k, none) else (r.1, some 6)

/-- The first failure of the two bank headers, in the codes of R413. -/
def headFirst (compat : BitVec 16) (l : Lane) : Option Nat :=
  match headBad compat (vget l.banks 0) with | some c => some c | none => headBad compat (vget l.banks 1)

/-- Steps 4 and 5 from bank `k` (R413): then the other one if it is valid; CLK_BOOT keeps the first failure, `first` if there was one. The
second part says that an image runs. -/
def bootFrom (compat : BitVec 16) (l : Lane) (now : Nat) (first : Option Nat) (k : Fin 2) : Lane × Bool :=
    let r := tryBank l now k
    let first := match first with | some c => some c | none => r.2
    let l := fset r.1 CLK_BOOT_FRSN (first.getD 0)
    if r.2.isNone then (l, true)
    else
      let k2 : Fin 2 := if k = 0 then 1 else 0
      if (headBad compat (vget l.banks k2)).isSome then (l, false)
      else
        let q := tryBank (stk l CLK_STK_FALLBK) now k2
        (q.1, q.2.isNone)

/-- Steps 3 to 5 (R411, R413), from the bank that step 3 chooses. -/
def bootBanks (compat : BitVec 16) (l : Lane) (now : Nat) : Lane × Bool :=
  match bankChoice compat l with
  | none => (fset l CLK_BOOT_FRSN ((headFirst compat l).getD 0), false)
  | some k => bootFrom compat l now (headFirst compat l) k

/-! ## Joining (R427, R428) -/

/-- The slot of a lane, as an index: S3 or S4. -/
def laneSlot (i : LaneId) : Nat := match i with | .A => 2 | .B => 3

/-- Whether a lane's cartridge is there (R34, R35). -/
def lanePresent (s : State) (i : LaneId) : Bool := s.pres.getLsbD (laneSlot i) && s.okc.getLsbD (laneSlot i)

/-- Whether two lanes run the same image (R428). -/
def sameImage (x y : Lane) : Bool :=
  decide (rget x CLK_BSEQ = rget y CLK_BSEQ) && decide ((x.image.map fun m => m.icrc) = (y.image.map fun m => m.icrc))

/-- A lane enters CATCH-UP (R429): its time base and ship time are those of the ACTIVE lane `p`, no unit has been copied. -/
def catchUp (now : Nat) (p l : Lane) : Lane :=
  setRole now roleCatchUp { l with
    waitPeer := false, starts := [], units := Vector.replicate 17 UnitSt.zero, tb0 := p.tb0, t1n := p.t1n
    ship := p.ship, shipRate := p.shipRate, slewNs := p.slewNs, slewT := p.slewT, shipLog := p.shipLog
    emb := p.emb, embShip := p.embShip }

/-- A lane that is READY and waits enters CATCH-UP or ACTIVE as far as R427 lets it; a differing image leaves it in OUT (R428). -/
def joinLane (i : LaneId) (s : State) : State :=
  let l := laneOf s i
  let o := otherLane i
  let p := laneOf s o
  let take (s : State) : State := bistOver i (modLane s i fun l => setRole s.now roleActive { l with waitPeer := false })
  if !(l.powered && l.waitPeer) then s
  else if laneActive p then
    (if !(xlnOn s) then s
     else if sameImage l p then modLane s i (catchUp s.now p)
     else modLane s i fun l => stk { l with waitPeer := false } XLN_STK_IMGDIF)
  else if p.powered && p.waitPeer then (if i = .A then take s else s)
  else if lanePresent s o && (!p.powered || p.bootLeft.isSome) then s
  else take s

/-- Both lanes' chances to join, LA first (R427). -/
def joinLanes (s : State) : State := settle (joinLane .A (joinLane .B (joinLane .A s)))

/-! ## Start-up (R410) -/

/-- A lane whose logic starts: registers at reset, memories tested and cleared, flash and the Peat log kept. -/
def freshLane (l : Lane) : Lane :=
  let z := { Lane.zero l.ident with
    powered := true, banks := l.banks, peat := l.peat, peatQ := l.peatQ, yields := l.yields
    tb0 := l.tb0, ship := l.ship, shipRate := 0, slewNs := 0, slewT := 0, emb := l.emb, embShip := l.embShip, memBad := l.memBad }
  let z := fsetB (rset (rset z PEAT_HEAD (rget l PEAT_HEAD)) PEAT_HELD (rget l PEAT_HELD)) PEAT_STS_WRAP (fon l PEAT_STS_WRAP)
  fsetB z PEAT_STS_BUSY (!l.peatQ.isEmpty)

/-- Step 7 (R410): READY and BANKED, the boot records, the time taken, which the manual only bounds. -/
def stepReady (s : State) (l : Lane) : Lane :=
  let l := fset (fsetB { l with bootLeft := none } CLK_STS_READY true) CLK_STS_MSTATE 1
  let l := rset l CLK_BTIME (wordOf ((Config.freeWord s.free).toNat % (if fon l CLK_STK_FALLBK then 1551 else 1501)))
  let l := peatWrite l s.now 3 1 0 1 (rget l CLK_BOOT) (rget l CLK_BSEQ)
  { (fmWrite l s.now 3 1 0 (rget l CLK_BOOT) (rget l CLK_BSEQ)) with waitPeer := true, waitAt := s.now }

/-- Whether every brick that the image uses is READY or FAULT (R286, R410). -/
def bricksFound (l : Lane) : Bool :=
  (List.range 32).all fun b => !(brickUsed l b) || fget l (BLK_BST_STATE b) = 3 || fget l (BLK_BST_STATE b) = 4

/-- A lane whose step 6 is over, its bricks found or its time up, is ready (R410). -/
def stepDone (i : LaneId) (s : State) : State :=
  let l := laneOf s i
  if coreRuns l && decide (roleOf l = roleOut) && (decide (l.bootLeft = some 0) || (l.bootLeft.isSome && bricksFound l)) then
    -- a restart after a test of its own is over; a rolling run goes on until the lane is in STANDBY (R444, R447)
    bistShow (bistKeep (fun b => !(decide (b.lane = i) && decide (b.stage = 3) && decide (b.roll = 0)))
      (putLane { s with free := s.free + 1 } i (stepReady s l)))
  else s

/-- Both lanes' step 7, and what joins after it (R410, R427). -/
def bootDone (s : State) : State := joinLanes (stepDone .B (stepDone .A s))

/-- The records of a memory BIST of start-up that fails (R413, R442): the lane enters FAULT, its Peat log has the result, an ACTIVE
peer raises 0x7D. The signature is free. -/
def memFailed (i : LaneId) (s : State) : State :=
  let x := match i with | .A => 0 | .B => 1
  let sig := Config.freeWord s.free
  let s := modLane { s with free := s.free + 1 } i fun l =>
    setRole s.now roleFault (peatWrite (stk (rset l (BST_MSIG x) sig) BST_STK_MFAIL) s.now 0 0x7D 0 1 (wordOf (x + 512)) 0#32)
  modLane s (otherLane i) fun l => if l.powered && laneActive l then raiseO l s.now 0x7D x 2 0#32 else l

/-- The bank that a lane runs from (R413). -/
def bankOf (l : Lane) : Fin 2 := if fget l CLK_BOOT_BANK = 0 then 0 else 1

/-- Start-up of a lane from its kindling to step 6, and as far as step 7 where no brick is to be found. A lane that comes from a passed
self-test goes on at step 4a with the bank it ran from (R442); otherwise the memory test runs (`memBist`), whose signature in
memory without fault is the golden one; a failure ends the start before any bank is tried (R413). -/
def startLane (i : LaneId) (memBist : Bool) (s : State) : State :=
  let l0 := laneOf s i
  let l := fsetB (kindleAll (shipMark (freshLane l0) s.now)) CLK_STS_EMBXT true
  let l := setRole s.now roleOut (fset l SYS_STS_LROLE (roleOf l0))
  let l := findBricks s (showFrame s (showSupplies s (showCarts s l)))
  let l := if memBist then rset l (BST_MSIG (match i with | .A => 0 | .B => 1)) Config.goldMemory else l
  if memBist && l.memBad then joinLanes (memFailed i (putLane s i (fset l CLK_BOOT_FRSN ((headFirst s.fm.compat l).getD 0))))
  else
  let r := if memBist then bootBanks s.fm.compat l s.now else bootFrom s.fm.compat l s.now none (bankOf l0)
  bootDone (putLane s i (if r.2 then { r.1 with bootLeft := some 10 } else r.1))

/-- The time base of a module that starts from rest starts at 0 (R393, R401); the model counts on from the next 1 ms boundary. -/
def restartBase (s : State) : State :=
  let t := ceilTo 3200000 s.now
  { (tickTo t s) with t1At := t }

/-- The diode of a re-inserted lane reads below THROT − HYT (R387), by the thresholds of the other lane where it runs. -/
def diodeCool (s : State) (x : PowerIn) : Bool :=
  let n : Nat := match x.lane with | .A => 144 | .B => 145
  let o := laneOf s (otherLane x.lane)
  let l := if laneRuns o then o else laneOf s x.lane
  match x.diode with
  | .volts vf dv => (ownDiode n vf dv).any (coolRead l n)
  | .missing => false

/-- POWER_ON (R410, R427): the logic rail of a lane comes up. -/
def execPowerOn (x : PowerIn) (s : State) : Out :=
  let i := x.lane
  if (laneOf s i).powered ∨ ¬ lanePresent s i ∨ ((laneOf s i).shut ∧ ¬ diodeCool s x) then .next s
  else
    let p := laneOf s (otherLane i)
    let s := if p.powered then modLane s i fun l => { l with tb0 := p.tb0 }
      else let s := restartBase s
           modLane { s with links := s.links.map fun k => { k with dark := k.shut } } i fun l => { l with tb0 := s.now }
    .next (startLane i true (modLane s i fun l => { l with ship := 0, emb := 0, embShip := 0, yields := [], peatQ := [], memBad := !x.memOk }))

/-- PEER_WAIT_TIMEOUT (R427): 500 ms have passed since the lane was READY, without the peer; it enters ACTIVE unless the peer has. -/
def execPeerWaitTimeout (i : LaneId) (s : State) : Out :=
  let l := laneOf s i
  if l.powered && l.waitPeer && !(laneActive (laneOf s (otherLane i))) then
    let s := tickTo (l.waitAt + 1600000000) s
    .next (joinLanes (bistOver i (modLane s i fun l => setRole s.now roleActive { l with waitPeer := false })))
  else .next (joinLanes s)

/-! ## Admission as a command -/

/-- IMAGE_ADMISSION (R90, R91, R100): the image of the bank the lane chooses is loaded, checked, and admitted or refused; a lane
in STANDBY whose result differs from the ACTIVE lane's enters FAULT. -/
def execImageAdmission (i : LaneId) (s : State) : Out :=
  let l := laneOf s i
  if !l.powered then .next s
  else match bankChoice s.fm.compat l with
  | none => .next s
  | some k =>
    let l := (tryBank l s.now k).1
    let p := laneOf s (otherLane i)
    .next (settle (putLane s i (moduleState (judgeVerdict s.now p l))))

end Sys2Proof.Machine
end

