-- ==== Sys2Proof/Machine/Clk.lean ====
section
/-!
DEFINITION. Clock domains, DORMANT and waking, supplies (R392 to R408) as commands.
-/
namespace Sys2Proof.Machine

/-! ## Domains (R396) -/

/-- PLL_LOCK (R396): the PLL of domain `d` + 1 of a lane locks; a domain whose run condition holds is released at the next
40 ns grid point. A lane that waits for XLN may join. -/
def execPllLock (i : LaneId) (d : Fin 9) (s : State) : Out :=
  let l := laneOf s i
  if l.powered && coreRuns l && domainWanted l d && !(bit (fget l CLK_DOM_RUN) d) then
    let s := tickTo (ceilTo 128 s.now) s
    .next (joinLanes (modLane s i fun l =>
      let l := { l with pllTry := l.pllTry &&& ~~~(1#9 <<< d.1), pllBad := l.pllBad &&& ~~~(1#9 <<< d.1), wasIdle := l.wasIdle &&& ~~~(1#9 <<< d.1) }
      stkSeen (fset l CLK_DOM_RUN (fget l CLK_DOM_RUN ||| 2 ^ d.1)) CLK_STK_KINDLE))
  else .next s

/-- PLL_FAULT (R396): a PLL fails to lock within 50 µs and is restarted once; a second failure raises the clock fault. -/
def execPllFault (i : LaneId) (d : Fin 9) (s : State) : Out :=
  let l := laneOf s i
  if !(l.powered && coreRuns l && domainWanted l d && !(bit (fget l CLK_DOM_RUN) d)) then .next s
  else .next (settle (modLane s i fun l =>
    if l.pllTry.getLsbD d then
      raiseO (stkSeen (chkFail { l with pllTry := l.pllTry &&& ~~~(1#9 <<< d.1), pllBad := l.pllBad ||| (1#9 <<< d.1) }) CLK_STK_PLLFLT) s.now 0x7C
        (match i with | .A => 0 | .B => 1) (d.1 + 1) 0#32
    else chkFail { l with pllTry := l.pllTry ||| (1#9 <<< d.1) }))

/-- The T1 tick that ends an interval (R396): a domain whose run condition was false for all of it stops. -/
def domainTick (l : Lane) : Lane :=
  let idle : BitVec 9 := BitVec.ofNat 9 ((List.range 9).foldl (fun m d => if domainWanted l d then m else m + 2 ^ d) 0)
  let stop := (idle &&& l.wasIdle).toNat
  let run := (List.range 9).foldl (fun m d => if bit stop d then m else if bit (fget l CLK_DOM_RUN) d then m + 2 ^ d else m) 0
  fset { l with wasIdle := idle } CLK_DOM_RUN run

/-! ## DORMANT (R398, R399) -/

/-- Whether a DORM write is accepted (R398). -/
def dormOk (l : Lane) (key : Bool) : Bool :=
  ((allFin 16).all fun a => !(axPeriods l a)) &&
  ((allFin 4).all fun (p : CanPort) => (vget l.cans p).fifo.isEmpty && (allFin 8).all fun (k : Fin 8) => decide (fget l (CAN_DS_STATE p k) ≠ 1)) &&
  (fget l LPE_CSTS_STATE = 0 || fget l LPE_CSTS_STATE = 3) && !(fon l ADM_STS_RQBUSY) && !key

/-- A write of one to CLK_MCMD.DORM (R398). -/
def dormWrite (key : Bool) (l : Lane) : Lane :=
  if dormOk l key then { l with dormReq := true } else stk l CLK_STK_DORMIGN

/-- DORM (R398). -/
def execDorm (i : LaneId) (s : State) : Out :=
  if laneRuns (laneOf s i) then .next (modLane s i (dormWrite s.key)) else .next s

/-- Whether a T1, T2 or T3 job is running. -/
def jobsRun (l : Lane) : Bool :=
  (allFin 4).any fun c => (allFin 16).any fun k =>
    let cl := fget l (ADM_TCFG_CLASS (tix c k))
    (cl = 1 || cl = 2 || cl = 3) && decide ((taskOf l c k).run ≠ .idle)

/-- A lane goes to sleep (R395, R399): a record, every domain but Ember stopped; ship time is carried in Ember's copy. -/
def sleep (now : Nat) (l : Lane) : Lane :=
  let l := peatWrite (emberTick l) now 4 1 0 1 0#32 0#32
  let l := fmWrite l now 4 1 0 0#32 0#32
  fset (fset { l with dormReq := false, wasIdle := 0#9, slewNs := 0, slewT := 0, dormAt := now } CLK_DOM_RUN 1) CLK_STS_MSTATE 3

/-- Whether a lane enters DORMANT at this T1 release. -/
def sleepy (l : Lane) : Bool := laneRuns l && l.dormReq && !(jobsRun l)

/-- DORMANT_ENTRY (R398, R399): the first T1 release without a T1, T2 or T3 job. Link transmitters go off, field cartridges enter
SAFE, CAN ports fall silent. -/
def execDormantEntry (s : State) : Out :=
  if sleepy s.la || sleepy s.lb then
    let t := nextT1 s
    let s := { (tickTo t s) with t1At := t }
    let s := (allFin 2).foldl (fun (s : State) (f : FieldNo) =>
      let s := if (vget s.fields f).safe then s else enterSafe f s
      inRunning (fun l => canSilent l s.now f) { s with fields := vmod s.fields f fun x => { x with mute := true } }) s
    let s := settle { s with
      la := if sleepy s.la then sleep s.now s.la else s.la
      lb := if sleepy s.lb then sleep s.now s.lb else s.lb }
    .next ((allFin 4).foldl (fun (s : State) (k : LinkNo) => linkDark k s) s)
  else .next s

/-! ## Waking (R400, R401) -/

/-- Whether a lane watches a wake source, with its code, input and port (R400). -/
def wakeCode (l : Lane) (w : WakeSrc) : Option (Nat × Nat × Nat) :=
  let on (b : Bool) (x : Nat × Nat × Nat) : Option (Nat × Nat × Nat) := if b then some x else none
  match w with
  | .di n => on (bit (rget l (if n.1 < 32 then CLK_WDI0 else CLK_WDI1)).toNat (n.1 % 32)) (1, n.1, 0)
  | .can p => on (bit (fget l CLK_WCFG_WCAN) p.1) (2, 0, p.1)
  | .key => on (fon l CLK_WCFG_WKEY) (3, 0, 0)
  | .presence => on (fon l CLK_WCFG_WPRES) (4, 0, 0)
  | .service => on (fon l CLK_WCFG_WSVC) (6, 0, 0)
  | .cartridge => on (fon l CLK_WCFG_WCART) (7, 0, 0)
  | .supply => some (8, 0, 0)

/-- A lane wakes (R401): the source recorded, domains kindled, bricks to be found again. MSTATE stays DORMANT until they are. -/
def wakeLane (now : Nat) (x : Nat × Nat × Nat) (l : Lane) : Lane :=
  let l := stkLate (fset (fset (fset l CLK_WAKE_SRC x.1) CLK_WAKE_DI x.2.1) CLK_WAKE_PORT x.2.2) CLK_STK_WAKE
  let l := shipMark { (kindleAll l) with tb0 := now } now
  let l := (List.range 32).foldl (fun l b =>
    fsetB (fsetB (if fget l (BLK_BST_STATE b) = 0 then l else fset l (BLK_BST_STATE b) 1) (BLK_BST_PRIUP b) false) (BLK_BST_SECUP b) false) l
  let l := peatWrite l now 4 2 0 1 (rget l CLK_WAKE) 0#32
  fmWrite l now 4 2 0 (rget l CLK_WAKE) 0#32

/-- The lanes that sleep wake by what each answers to `f`; the time base starts at 0, the link transmitters resume (R401). -/
def wakeBy (f : Lane → Option (Nat × Nat × Nat)) (s : State) : State :=
  let due (l : Lane) : Option (Nat × Nat × Nat) := if asleep l then f l else none
  if (due s.la).isNone ∧ (due s.lb).isNone then s
  else
    let s := restartBase s
    let up (l : Lane) : Lane := match due l with | some x => wakeLane s.now x l | none => l
    settle { s with la := up s.la, lb := up s.lb, links := s.links.map fun k => { k with dark := k.shut } }

/-- A wake source is seen (R398, R400): it wakes lanes that sleep, and cancels an entry that waits. -/
def wakeSeen (w : WakeSrc) (s : State) : State :=
  let stay (l : Lane) : Lane := if l.dormReq && (wakeCode l w).isSome then stkLate { l with dormReq := false } CLK_STK_DORMABT else l
  let s := { s with la := stay s.la, lb := stay s.lb }
  wakeBy (fun l => wakeCode l w) s

/-- WAKE_SOURCE (R400, R401). -/
def execWakeSource (w : WakeSrc) (s : State) : Out := .next (wakeSeen w s)

/-- The edge tick at which CLK_WTMR of a lane that sleeps expires (R400, R415): an Ember tick is 97,656.25 edge ticks. -/
def wakeDue (l : Lane) : Nat :=
  if asleep l && fon l CLK_WTMR_TICKS then l.dormAt + (fget l CLK_WTMR_TICKS * 390625 + 3) / 4 else 0

/-- WAKE_TIMER (R400, R415): CLK_WTMR expires. -/
def execWakeTimer (s : State) : Out :=
  .next (wakeBy (fun l => if fon l CLK_WTMR_TICKS then some (5, 0, 0) else none) (tickTo (max (wakeDue s.la) (wakeDue s.lb)) s))

/-- The state shown after waking becomes BANKED once every used brick is READY or FAULT, by 7 ms (R397, R401); RUNNING when an axis has
been enabled meanwhile. -/
def awakeTick (now : Nat) (l : Lane) : Lane :=
  if fget l CLK_STS_MSTATE = 3 && (bricksFound l || decide (l.tb0 + 22400000 ≤ now)) then moduleState (fset l CLK_STS_MSTATE 1) else l

/-! ## Supplies (R407, R408) -/

/-- A powered lane at a change of supply cartridge `x` (R407, R408): `ch` says that INOK or OUTOK changed, `fail` that both
inputs have failed now. -/
def supplyLane (s : State) (x : Fin 2) (ch fail : Bool) (l : Lane) : Lane :=
  if !l.powered then l
  else
    let l := showSupplies s l
    let l := if ch then
        let l := stkSeen l CLK_STK_PSLOSS
        if laneRuns l then raiseO l s.now 0x7E x.1 0 0#32 else l
      else l
    if fail then
      let l := stkSeen l CLK_STK_PFAIL
      let l := if laneRuns l then raiseO l s.now 0x7F 0xFF 0 0#32 else l
      fmWrite (peatWrite l s.now 4 3 0 1 0#32 0#32) s.now 4 3 0 0#32 0#32
    else l

/-- The status lines of supply cartridge `x` become `q` (R407, R408): a change shows, raises and wakes. -/
def setSupply (x : Fin 2) (q : Supply) (s : State) : State :=
  let p := vget s.sup x
  let ch := p.inok != q.inok || p.outok != q.outok
  let was := !(vget s.sup 0).inok && !(vget s.sup 1).inok
  let s := { s with sup := vset s.sup x q }
  let fail := !was && !(vget s.sup 0).inok && !(vget s.sup 1).inok
  let s := if ch then wakeSeen .supply s else s
  settle { s with la := supplyLane s x ch fail s.la, lb := supplyLane s x ch fail s.lb }

/-- INOK of a supply cartridge (R407): it goes at an input below 16.5 V or above 34 V, and comes back at 18 V to 32 V; `now` is the
state that the cartridge's filters let through. -/
def supplyIn (was now : Bool) (mv : Nat) : Bool :=
  if was then now || (decide (16500 ≤ mv) && decide (mv ≤ 34000)) else now && decide (18000 ≤ mv) && decide (mv ≤ 32000)

/-- SUPPLY_STATUS_CHANGE (R400, R407, R408); an output is off at an input above 36 V. -/
def execSupplyStatusChange (x : Fin 2) (inok outok : Bool) (mv : BitVec 16) (da : BitVec 8) (s : State) : Out :=
  -- a supply cartridge that is absent or not healthy gives nothing (R35)
  let here := s.pres.getLsbD x.1 && s.okc.getLsbD x.1
  let p := vget s.sup x
  let inok := supplyIn p.inok inok mv.toNat && here
  let outok := outok && here && decide (mv.toNat ≤ 36000)
  .next (setSupply x { inok := inok, outok := outok, vin := if here then mv else 0#16, iout := if here then da else 0#8 } s)

/-- The entry that has waited longest is written to flash; a full ring loses its oldest one (R439, R440). -/
def peatCommit (l : Lane) : Lane :=
  match l.peatQ with
  | [] => l
  | e :: t =>
    let p := l.peat ++ [e]
    let l := { l with peatQ := t, peat := p.drop (p.length - 65536) }
    let l := fset (fsetB l PEAT_STS_WRAP (fon l PEAT_STS_WRAP || decide (65536 < p.length))) PEAT_HELD_N (min p.length 65536)
    fsetB l PEAT_STS_BUSY (!t.isEmpty)

/-- The entries whose event lies 5 ms or more back are in flash by now (R440). -/
def peatDue (l : Lane) : Lane :=
  (l.peatQ.takeWhile fun e => decide (e.time + 5000000 ≤ shipNs l)).foldl (fun (l : Lane) _ => peatCommit l) l

/-- A lane whose logic rail is gone: registers and memories lost, flash and the Peat log kept; entries that waited for less than 5 ms
are lost. -/
def railOff (l : Lane) : Lane :=
  let l := peatDue l
  let z := { Lane.zero l.ident with banks := l.banks, peat := l.peat }
  fsetB (rset (rset z PEAT_HEAD (rget l PEAT_HEAD)) PEAT_HELD (rget l PEAT_HELD)) PEAT_STS_WRAP (fon l PEAT_STS_WRAP)

/-- A field cartridge without supply (R327): off and in SAFE; the STO channels are fed from outside (R329). -/
def fieldOff (x : FieldRt) : FieldRt := { FieldRt.zero with stoA := x.stoA, stoB := x.stoB, difAt := x.difAt, disc := x.disc, fend := x.fend }

/-- LOGIC_RAIL_COLLAPSE (R408): both lanes and every cartridge fed from the rail lose their state; the links go DOWN. -/
def execLogicRailCollapse (s : State) : Out :=
  let s := (allFin 4).foldl (fun (s : State) (k : LinkNo) => linkDark k s) s
  .next { s with
    la := railOff s.la, lb := railOff s.lb, ho := .none, hoOut := false, bist := [], presReq := none, svcOut := []
    links := s.links.map fun _ => { LinkRt.zero with dark := true }
    fields := s.fields.map fieldOff }

end Sys2Proof.Machine
end

