-- ==== Sys2Proof/Machine/Units.lean ====
section
/-!
DEFINITION. Hash units (R19, R20): the words each covers, their reduction, the comparison between the lanes, resynchronisation,
the copies of CATCH-UP (R429), and what a mismatch leads to (R435, R436).
-/
namespace Sys2Proof.Machine

/-! ## What a unit covers (R19) -/

/-- The unit of a slot's registers (R19): its stage's axis, or the module. -/
def slotUnit (l : Lane) (n : Nat) : Fin 17 :=
  match slotAt n with
  | none => 16
  | some s =>
    let f := stageFirst l s
    if fon l (LPE_SCFG_BOUND f) then ⟨fget l (LPE_SCFG_AXIS f) % 16, Nat.lt_trans (Nat.mod_lt _ (by decide)) (by decide)⟩ else 16

/-- The unit of a coppice: its axis, once it is described. -/
def copUnit (l : Lane) (c : Nat) : Option (Fin 17) :=
  if cpValid l c then some ⟨fget l (LEG_CPC_AXIS c) % 16, Nat.lt_trans (Nat.mod_lt _ (by decide)) (by decide)⟩ else none

/-- The unit of a leg: that of its coppice, or of the host of a chopper leg. -/
def legUnit (l : Lane) (n : Nat) : Option (Fin 17) :=
  match fget l (LEG_CFG_TYPE n) with
  | 1 => copUnit l (fget l (LEG_CFG_COPPICE n))
  | 2 => some ⟨fget l (LEG_CFG_HOST n) % 16, Nat.lt_trans (Nat.mod_lt _ (by decide)) (by decide)⟩
  | _ => none

/-- The unit of a shaft group's registers: that of its configured lead (log 67). -/
def groupUnit (l : Lane) (g : Nat) : Option (Fin 17) :=
  if fget l (SHR_GCFG_MEMB g) = 0 then none
  else some ⟨fget l (SHR_GCFG_LEAD g) % 16, Nat.lt_trans (Nat.mod_lt _ (by decide)) (by decide)⟩

/-- The bits of a register that a unit covers: all but those that differ between the lanes, which are the lane's role and number
(R78) and the FLT_STK bits that the grading of a local source sets in one lane alone (R421): the blocks CLK, FLT and XLN and the
responses (log 67). -/
def hashMask (a : Nat) : Nat :=
  if a = SYS_STS then 0x30 else if a = FLT_STK then 0x1FFFFFF - 0x1B8A002 else 0xFFFFFFFF

/-- A register as it enters its unit: of the counts of core exceptions, those of code ECC stay out (R421). -/
def hashWord (l : Lane) (a : Nat) : Word :=
  let ecc := (allFin 4).foldl (fun (n : Nat) (c : Fin 4) => if a = FLT_CNT (0x70 + c.1) then n + vget l.eccN c else n) 0
  wordOf ((rget l a).toNat - ecc) &&& wordOf (hashMask a)

/-- Registers of the module's windows that differ between the lanes and so stand outside its unit: what local sources leave (R421). -/
def laneLocal (l : Lane) (a : Nat) : Bool :=
  a = FLT_LSRC || a = FLT_LCTX0 || a = FLT_LCTX1 ||
  (decide (FLT_CNT 0 ≤ a) && decide (a < FLT_CNT 256) && fon l (FLT_SEV_LOCAL ((a - FLT_CNT 0) / 4)))

/-- The unit that covers the register at `a`, if one does (R19). -/
def unitOf (l : Lane) (a : Nat) : Option (Fin 17) :=
  let ax (n : Nat) : Option (Fin 17) := if h : n < 16 then some ⟨n, by omega⟩ else none
  match findReg a with
  | none => none
  | some d =>
    let i := if d.s1 = 0 then 0 else (a - d.base) / d.s1
    match blockOf a with
    | 0x03 => ax i
    | 0x04 => if d.n1 = 128 then legUnit l i else if LEG_CPC 0 ≤ a ∧ a < LEG_CPC 32 then copUnit l i else none
    | 0x05 => if d.n1 = 16 then ax i else none
    | 0x06 => if d.n1 = 256 then some (slotUnit l i) else none
    | 0x07 =>
      if d.n1 = 16 then ax i
      else if SHR_CW 0 ≤ a ∧ a < SHR_CW 32 then copUnit l i
      else if SHR_GCFG 0 ≤ a ∧ a < SHR_GCFG 8 then groupUnit l i
      else none
    | 0x00 | 0x09 | 0x0A | 0x0B | 0x0C | 0x0D | 0x10 => if laneLocal l a then none else some 16
    | _ => none

/-- The register addresses of the block windows, ascending (R41). -/
def windowAddrs (b : Nat) : List Nat := (List.range 0x4000).map fun k => 0x40000000 + 0x10000 * b + 4 * k

/-- The state words of a unit in ascending address order (R19). -/
def unitWords (l : Lane) (u : Fin 17) : List Word :=
  ((if u.1 = 16 then [0x00, 0x06, 0x09, 0x0A, 0x0B, 0x0C, 0x0D, 0x10] else [0x03, 0x04, 0x05, 0x06, 0x07]).flatMap windowAddrs).filterMap
    fun a => if unitOf l a = some u then some (hashWord l a) else none

/-- A unit is reduced (R19): the hash over its words and its store folds, each core's running register as it stands, which restart at
0xFFFF_FFFF (log 67). -/
def reduceUnit (u : Fin 17) (l : Lane) : Lane :=
  let h := crc32c (unitWords l u ++ (allFin 4).map fun c => vget (coreOf l c).folds u)
  { l with
    units := vmod l.units u fun x => { x with hash := some h, reds := x.reds + 1 }
    cores := l.cores.map fun k => { k with folds := vset k.folds u 0xFFFFFFFF#32 } }

/-! ## Copies between the lanes (R20, R429) -/

/-- Registers chosen by `sel` are taken over from lane `p`. -/
def takeRegs (sel : Nat → Bool) (p l : Lane) : Lane :=
  let own := l.regs.filter fun x => !(sel x.1)
  { l with regs := (p.regs.filter fun x => sel x.1).foldl (fun acc x => spPut acc x.1 x.2) own }

/-- The registers of unit `u` are taken over; of one that a unit covers in part, the bits it covers, and the lane's role and its view of
its peer stay its own. -/
def takeUnit (u : Fin 17) (p l : Lane) : Lane :=
  let l' := takeRegs (fun a => decide (unitOf p a = some u) && decide (hashMask a = 0xFFFFFFFF)) p l
  if u.1 = 16 then
    let m := wordOf (hashMask FLT_STK)
    rset l' FLT_STK ((rget l FLT_STK &&& ~~~m) ||| (rget p FLT_STK &&& m))
  else l'

/-- The contexts of the tasks whose stores belong to unit `u` are taken over, with the unit's store folds. -/
def takeTasks (u : Fin 17) (p l : Lane) : Lane :=
  (allFin 4).foldl (fun (l : Lane) (c : Fin 4) =>
    let x := coreOf p c
    let l := (allFin 16).foldl (fun (l : Lane) (k : Fin 16) => if foldUnit p c k = u then putTask l c k (vget x.tasks k) else l) l
    let y := coreOf l c
    putCore l c { y with folds := vset y.folds u (vget x.folds u) }) l

/-- A slot's run data taken over, its state words written with fresh check bits (R198). -/
def takeSlot (p l : Lane) (s : Slot) : Lane :=
  { l with slots := vset l.slots s { vget p.slots s with ecc := SlotRt.zero.ecc } }

/-- The run data of an axis unit (R19, R402): axis, legs, coppices, bricks as frames see them, slots, its shaft group and injection
points. -/
def takeAxis (a : Axis) (p l : Lane) : Lane :=
  let u : Fin 17 := ⟨a.1, by omega⟩
  let l := { l with axes := vset l.axes a (vget p.axes a) }
  let l := (allFin 128).foldl (fun (l : Lane) (n : Fin 128) =>
    if legUnit p n = some u then { l with legs := vset l.legs n (vget p.legs n) } else l) l
  let l := (allFin 32).foldl (fun (l : Lane) (c : Fin 32) =>
    if copUnit p c = some u then { l with cops := vset l.cops c (vget p.cops c) } else l) l
  let l := (bricksOf p a).foldl (fun (l : Lane) (b : Brick) =>
    let r := vget p.rx b
    { l with rx := vmod l.rx b fun x => { r with
      pri := x.pri, sec := x.sec, mpri := x.mpri, msec := x.msec, crc0 := x.crc0, crc1 := x.crc1, lateN := x.lateN, disc := x.disc } }) l
  let l := (allFin 256).foldl (fun (l : Lane) (s : Slot) =>
    if slotUnit p s = u then takeSlot p l s else l) l
  let l := (allFin 8).foldl (fun (l : Lane) (g : Fin 8) =>
    if groupUnit p g = some u then { l with grps := vset l.grps g (vget p.grps g) } else l) l
  (allFin 4).foldl (fun (l : Lane) (i : Fin 4) =>
    if slotUnit p (fget p (LPE_ICFG_SLOT i)) = u then { l with inj := vset l.inj i (vget p.inj i) } else l) l

/-- The run data of the module unit. -/
def takeModule (p l : Lane) : Lane :=
  let l := { l with
    di := p.di, chans := p.chans, ins := p.ins, outs := p.outs, fage := p.fage, crdIn := p.crdIn, crdTicks := p.crdTicks, crdFrom := p.crdFrom
    crdSeen := p.crdSeen, cans := p.cans, sens := p.sens, lsteps := p.lsteps, ltimes := p.ltimes, btimes := p.btimes, vis := p.vis, late := p.late, rep := p.rep, items := p.items
    safe := p.safe, request := p.request, mreq := p.mreq, mtag := p.mtag, eccN := p.eccN, buses := p.buses, cap := p.cap }
  (allFin 256).foldl (fun (l : Lane) (s : Slot) =>
    if slotUnit p s = 16 then takeSlot p l s else l) l

/-- Whether an address lies in data SRAM (R40). -/
def isData (a : Nat) : Bool := decide (0x01000000 ≤ a) && decide (a < 0x01400000)

/-- Data SRAM, of which the store folds speak (R19), is taken over, written with fresh check bits. -/
def takeData (p l : Lane) : Lane :=
  { l with
    mem := (p.mem.filter fun x => isData x.1).foldl (fun m x => spSet memDflt m x.1 x.2)
      ((l.mem.filter fun x => !(isData x.1)))
    ecc := l.ecc.filter fun x => !(isData x.1) }

/-- A flagged unit is resynchronised from the ACTIVE lane `p` (R20), its data among it; the outputs of its slots come with it (R204). -/
def resyncUnit (u : Fin 17) (p l : Lane) : Lane :=
  let l := takeData p (takeTasks u p (takeUnit u p l))
  let l := if h : u.1 < 16 then takeAxis ⟨u.1, h⟩ p l else takeModule p l
  (allFin 256).foldl (fun (l : Lane) (s : Slot) =>
    if slotUnit p s = u then { l with slots := vmod l.slots s fun z => { z with rcvY := some z.y } } else l) l

/-- Registers that a lane in CATCH-UP takes over with the module unit: all but the lane's own and the axis units' (R429). -/
def joinReg (p : Lane) (a : Nat) : Bool :=
  (match blockOf a with | 0x01 | 0x0E | 0x0F | 0x11 | 0x08 => false | _ => true) && (decide (hashMask a = 0xFFFFFFFF) || decide (a = FLT_STK)) &&
  (match unitOf p a with | some u => decide (u.1 = 16) | none => true)

/-- A unit's state is copied to the joining lane at its reduction (R429); with the module unit come memories, task contexts, tags,
the queue of operations and all FLT state. The lane's MSTATE follows the axes it now has (R397). -/
def catchUnit (u : Fin 17) (p l : Lane) : Lane :=
  let l := if h : u.1 < 16 then
      takeAxis ⟨u.1, h⟩ p (takeTasks u p (takeUnit u p l))
    else
      takeModule p { (takeRegs (joinReg p) p (takeUnit u p l)) with
        cores := p.cores, tags := p.tags, engq := p.engq, mem := p.mem, ecc := p.ecc, decl := p.decl, t1n := p.t1n }
  moduleState { l with units := vmod l.units u fun x => { UnitSt.zero with copied := true, copies := x.copies } }

/-- A unit comes to its reduction (R19, R20, R429): a joining lane is given its copy, a flagged unit of the STANDBY lane is
resynchronised, and every joined lane that runs the unit reduces it. -/
def unitEnd (u : Fin 17) (s : State) : State :=
  let feed (p l : Lane) : Lane :=
    if laneActive p && laneRuns l && xlnOn s then
      (if roleOf l = roleCatchUp && !(vget l.units u).copied then catchUnit u p l
       else if roleOf l = roleStandby && bit (rget l XLN_FLAG).toNat u.1 then resyncUnit u p l
       else l)
    else l
  let a := feed s.lb s.la
  let b := feed s.la s.lb
  let red (l : Lane) : Lane :=
    if laneRuns l && (decide (roleOf l ≠ roleCatchUp) || (vget l.units u).copied) then reduceUnit u l else l
  { s with la := red a, lb := red b }

/-! ## The comparison (R20, R429, R435, R436) -/

/-- The flag of unit `u` in a lane (R20, R445). -/
def setFlag (u : Fin 17) (on : Bool) (l : Lane) : Lane :=
  rset l XLN_FLAG (wordOf (setBits (rget l XLN_FLAG).toNat u.1 1 (b2n on)))

/-- The hashes match (R20, R429): flag and self-check record clear, and the run of matches goes on. -/
def unitMatch (u : Fin 17) (l : Lane) : Lane :=
  let l := setFlag u false l
  let l := { l with units := vmod l.units u fun x => { x with matchN := x.matchN + 1, chk := false, hash := none } }
  (allFin 256).foldl (fun (l : Lane) (s : Slot) =>
    if (slotOf l s).rcvY.isSome && slotUnit l s = u then { l with slots := vmod l.slots s fun z => { z with rcvY := none } } else l) l

/-- The hashes differ (R20): counted, flagged, raised; the mismatches within the latest 1,024 reductions are kept. -/
def unitDiffer (now : Nat) (u : Fin 17) (l : Lane) : Lane :=
  let l := setFlag u true (stkLate (fcount l XLN_CNT_MIS) XLN_STK_HASHMIS)
  raiseO { l with units := vmod l.units u fun x =>
    { x with matchN := 0, hash := none, mis := (x.mis.filter fun r => decide (x.reds < r + 1024)) ++ [x.reds] } } now 0x78 u.1 0 0#32

/-- The record of a mismatch outcome (R435, R439). -/
def outcomeRecord (now : Nat) (u : Fin 17) (row : Nat) (l : Lane) : Lane := peatWrite l now 1 3 0 1 (wordOf (u.1 + 256 * row)) 0#32

/-- Whether the match run of a joining lane is complete (R429). -/
def runComplete (l : Lane) : Bool := l.units.toList.all fun x => x.copied && decide (1024 ≤ x.matchN)

/-- A lane has reached STANDBY (R429, R444): a rolling self-test goes on with the hand-over, or is complete. -/
def rollOn (i : LaneId) (s : State) : State :=
  match testOf s i 3, activeLane s with
  | some b, some a =>
    let s := bistKeep (fun b => !(decide (b.lane = i) && decide (b.stage = 3))) s
    if b.roll = 1 then
      if s.bist.any fun b => decide (b.stage = 1) then
        bistShow { s with bist := s.bist.map fun b => if b.stage = 1 then { b with run := 3, roll := 2 } else b }
      else
        bistShow (wantHandover a 4 { s with
          bist := s.bist ++ [{ lane := a, run := 3, stage := 1, roll := 2, at_ := s.now, due := 0, own := false }] })
    else bistShow (inRunning (fun l => if b.roll = 2 then stkSeen l BST_STK_RDONE else l) s)
  | _, _ => s

/-- A match at a joining or STANDBY lane `i`. -/
def matchOutcome (i : LaneId) (u : Fin 17) (s : State) : State :=
  let s := { s with la := unitMatch u s.la, lb := unitMatch u s.lb }
  if roleOf (laneOf s i) = roleCatchUp ∧ runComplete (laneOf s i) then
    rollOn i (peers (modLane s i (setRole s.now roleStandby)))
  else s

/-- A mismatch at the joining or STANDBY lane `i`, `o` being the ACTIVE one; `xo`, `xi` are self-check failures that the event
brings for each (R429, R435, R436). -/
def differOutcome (i o : LaneId) (u : Fin 17) (xo xi : Bool) (s : State) : State :=
  let fo := (vget (laneOf s o).units u).chk || xo
  let fi := (vget (laneOf s i).units u).chk || xi
  let s := { s with la := unitDiffer s.now u s.la, lb := unitDiffer s.now u s.lb }
  if roleOf (laneOf s i) = roleCatchUp then
    modLane s i fun l =>
      let l := setFlag u false { l with units := vmod l.units u fun x => { x with copied := false, copies := x.copies + 1 } }
      if 3 ≤ (vget l.units u).copies then setRole s.now roleOut (stkSeen l XLN_STK_CUFAIL) else l
  else
    let row := match fo, fi with | false, false => 1 | false, true => 2 | true, false => 3 | true, true => 4
    let s := { s with la := outcomeRecord s.now u row s.la, lb := outcomeRecord s.now u row s.lb }
    let s := modLane s o fun l => fmWrite l s.now 1 3 0 (wordOf (u.1 + 256 * row)) 0#32
    if row = 3 then
      { (modLane s o fun l =>
          raiseO l s.now 0x7B (match o with | .A => 0 | .B => 1) ((Config.freeWord s.free).toNat % 256) 0#32) with free := s.free + 1 }
    else if row = 1 ∧ 3 ≤ (vget (laneOf s i).units u).mis.length then
      modLane { s with la := stkSeen s.la XLN_STK_REPMIS, lb := stkSeen s.lb XLN_STK_REPMIS } i (setRole s.now roleFault)
    else s

/-- HASH_EXCHANGE (R20, R429, R435, R436): the lanes compare their hashes of unit `u`; `exA`, `exB` say that the lane's record holds
a PLL lock excursion or a corrected XLN error. -/
def execHashExchange (u : Fin 17) (exA exB : Bool) (s : State) : Out :=
  let ha := (vget s.la.units u).hash
  let hb := (vget s.lb.units u).hash
  let pair : Option (LaneId × LaneId) :=
    if laneActive s.la ∧ laneRuns s.lb then some (.A, .B) else if laneActive s.lb ∧ laneRuns s.la then some (.B, .A) else none
  match pair, ha, hb with
  | some (o, i), some x, some y =>
    if !(xlnOn s) then .next s
    else if x = y then .next (settle (matchOutcome i u s))
    else .next (settle (differOutcome i o u (match o with | .A => exA | .B => exB) (match i with | .A => exA | .B => exB) s))
  | _, _, _ => .next s

end Sys2Proof.Machine
end

