-- ==== Sys2Proof/Machine/Lanes.lean ====
section
/-!
DEFINITION. The lane duplex as commands: hand-over (R430 to R434), XLN channels, cartridges (R12, R33 to R35), buttons and key
(R437, R438, R484), self-test (R442 to R444, R447), and the Peat log's flash (R440, R446).
-/
namespace Sys2Proof.Machine

/-! ## Hand-over (R430 to R434) -/

/-- After a selector change the link cartridges forward the latest frames of the lane they name now, when their PSTART lies more
than 3 µs ahead (R430). -/
def forwardHeld (i : LaneId) (s : State) : State :=
  (allFin 32).foldl (fun (s : State) (b : Brick) =>
    match (vget (laneOf s i).rx b).sent with
    | some f => if s.now + 9600 < f.pstart then sendFrame i 6400 [] s f else s
    | none => s) s

/-- The new ACTIVE lane keeps its own state for flagged units: their slots transfer from the outputs received (R204), and their flags
clear (R434). -/
def keepFlagged (l : Lane) : Lane :=
  let m := (rget l XLN_FLAG).toNat
  let l := if m = 0 then l else (allFin 256).foldl (fun (l : Lane) (s : Slot) =>
    if bit m (slotUnit l s).1 then { l with slots := vmod l.slots s fun z => { z with hoY := z.rcvY, rcvY := none } } else l) l
  rset l XLN_FLAG 0#32

/-- The registers and records of a hand-over to lane `j` in one lane (R431, R439, R445). -/
def handoverMarks (now cause : Nat) (j : LaneId) (l : Lane) : Lane :=
  let l := fset (fset l XLN_HOLAST_CAUSE cause) XLN_HOLAST_TO (match j with | .A => 0 | .B => 1)
  let l := fsetB (fcount (stkSeen (rset l XLN_HOT (wordOf (shipNs l % 2 ^ 32))) XLN_STK_HOVER) XLN_CNT_HO) XLN_STS_HOBUSY false
  let l := peatWrite l now 1 2 0 1 (wordOf cause) 0#32
  raiseO l now 0x85 cause 0 0#32

/-- Ship time of 24 h in ns. -/
def dayNs : Nat := 86400000000000

/-- A planned hand-over takes place (R432): roles and claims change, and what waited for it follows (R426, R435, R443, R444). -/
def handOver (i : LaneId) (cause : Nat) (s : State) : State :=
  let j := otherLane i
  let l := laneOf s i
  let ys := if cause = 6 then (l.yields.filter fun t => decide (shipNs l < t + dayNs)) ++ [shipNs l] else l.yields
  let role := if cause = 2 || s.hoOut then roleOut else if cause = 6 ∧ 3 ≤ ys.length then roleFault else roleStandby
  let s := modLane s i fun l => setRole s.now role (handoverMarks s.now cause j { l with yields := ys })
  let s := modLane s j fun l =>
    let l := setRole s.now roleActive (handoverMarks s.now cause j (keepFlagged l))
    fmWrite l s.now 1 2 0 (wordOf cause) 0#32
  let s := forwardHeld j (settle { s with ho := .none, hoOut := false })
  match s.bist.find? fun b => decide (b.stage = 1) with
  | some b => if role ≠ roleFault then bistBegin i b.run b.roll (bistKeep (fun b => decide (b.stage ≠ 1)) s) else bistShow (bistDrop s)
  | none => s

/-- HREQ (R431, R432): a waiting hand-over whose conditions hold is requested over XLN; causes 1 to 4 wait while a unit is
flagged. -/
def execHreq (s : State) : Out :=
  match s.ho, activeLane s with
  | .waiting cause _, some i =>
    if peerStandby s i && (!(decide (cause ≤ 4)) || !(anyFlag s)) then .next { s with ho := .hreq cause s.now } else .next s
  | _, _ => .next s

/-- HACK (R432): the STANDBY lane names Tsw, the first 40 ns grid point at or after 10 µs. -/
def execHack (s : State) : Out :=
  match s.ho, activeLane s with
  | .hreq cause t, some i =>
    if peerStandby s i then .next { s with ho := .acked cause (ceilTo 128 (t + 32000)) } else .next s
  | _, _ => .next s

/-- CLAIM_EXCHANGE (R432): at Tsw the lanes exchange claims and roles. -/
def execClaimExchange (s : State) : Out :=
  match s.ho, activeLane s with
  | .acked cause tsw, some i =>
    let s := tickTo tsw s
    if decide (roleOf (laneOf s (otherLane i)) = roleStandby) then .next (settle (handOver i cause s)) else .next (hoEnd s)
  | _, _ => .next s

/-- HANDOVER_WAIT_TIMEOUT (R431): causes 1 to 4 are refused after 100 ms. -/
def execHandoverWaitTimeout (s : State) : Out :=
  match s.ho, activeLane s with
  | .waiting cause since, some i =>
    if cause ≤ 4 then
      let s := tickTo (since + 320000000) s
      let s := modLane s i fun l => peatWrite (fsetB (stkSeen l XLN_STK_HOREF) XLN_STS_HOBUSY false) s.now 1 2 0 1 (wordOf cause) 0#32
      .next (settle (bistShow (bistDrop { s with ho := .none, hoOut := false })))
    else .next s
  | _, _ => .next s

/-- Whether a CATCH-UP lane can take over (R433): its copy complete, every unit of an enabled axis matched 16 times running. -/
def catchReady (l : Lane) : Bool :=
  (l.units.toList.all fun x => x.copied) &&
  (allFin 16).all fun (a : Axis) => !(axEnabled l a) || decide (16 ≤ (vget l.units ⟨a.1, by omega⟩).matchN)

/-- A lane takes over from one that has failed (R433, R434): it claims, enters ACTIVE, raises 0x7A. -/
def takeOver (j : LaneId) (s : State) : State :=
  let i := otherLane j
  let last := fget (laneOf s j) XLN_STS_PROLE
  -- a peer that still claims and has not failed otherwise has fallen silent: its clocks have stopped
  let s := if laneActive (laneOf s i) ∧ xlnOn s then modLane s i fun l => fset l CLK_DOM_RUN 1 else s
  let s := modLane s j fun l =>
    let l := setRole s.now roleActive (handoverMarks s.now 7 j (keepFlagged l))
    raiseO (fmWrite l s.now 1 2 0 7#32 0#32) s.now 0x7A last 0 0#32
  forwardHeld j (settle (bistShow (bistDrop (bistOver j (hoEnd s)))))

/-- ACTIVE_LANE_FAILED (R433): the STANDBY lane finds the ACTIVE lane silent, in FAULT or without its claim. -/
def execActiveLaneFailed (s : State) : Out :=
  let role (i : LaneId) : Nat := if laneRuns (laneOf s i) then roleOf (laneOf s i) else roleOut
  let one (r : Nat) : Option LaneId := if role .A = r then some .A else if role .B = r then some .B else none
  match one roleStandby, one roleCatchUp with
  | some j, _ => .next (takeOver j s)
  | none, some j =>
    if catchReady (laneOf s j) then .next (takeOver j s) else .next (settle (modLane s j (setRole s.now roleOut)))
  | none, none => .next s

/-! ## XLN channels (R14, R18) -/

/-- XLN_CHANNEL_DOWN. -/
def execXlnChannelDown (ch : Fin 2) (s : State) : Out :=
  if vget s.xlnUp ch then
    let s := { s with xlnUp := vset s.xlnUp ch false }
    -- a powered lane that does not run the program sets the bit alone
    let one (l : Lane) : Lane :=
      if laneRuns l then raiseO (stkLate l XLN_STK_CHDN) s.now 0x79 ch.1 0 0#32 else if l.powered then stk l XLN_STK_CHDN else l
    .next (settle { s with la := one s.la, lb := one s.lb })
  else .next s

/-- XLN_CHANNEL_UP. -/
def execXlnChannelUp (ch : Fin 2) (s : State) : Out :=
  .next (joinLanes (settle { s with xlnUp := vset s.xlnUp ch true }))

/-! ## Buttons, lever, key (R12, R431, R437, R438, R484) -/

/-- A source raised in every lane that runs. -/
def raiseAll (k obj detail : Nat) (s : State) : State := inRunning (fun l => raiseO l s.now k obj detail 0#32) s

/-- YIELD_BUTTON (R431, R484): a press of at least 50 ms. -/
def execYieldButton (i : LaneId) (ms : Nat) (s : State) : Out :=
  if ms < 50 ∨ ¬ (laneOf s i).powered then .next s
  else
    let s := raiseAll 0x84 (match i with | .A => 0 | .B => 1) 0 s
    if laneActive (laneOf s i) ∧ peerStandby s i then .next (settle (wantHandover i 1 s))
    else .next (settle (modLane s i fun l => stkSeen l XLN_STK_YIELDIGN))

/-- EXTRACTION_LEVER (R12, R426, R431): the ACTIVE lane asks for a hand-over; a STANDBY or CATCH-UP lane enters OUT. -/
def execExtractionLever (i : LaneId) (s : State) : Out :=
  let l := laneOf s i
  if laneActive l then .next (settle (wantHandover i 2 s))
  else if l.powered ∧ (roleOf l = roleStandby ∨ roleOf l = roleCatchUp) then .next (settle (modLane s i (setRole s.now roleOut)))
  else .next s

/-- SWAP (R431, R445): a committed XLN_CMD.SWAP acts in the ACTIVE lane. -/
def execSwap (s : State) : Out :=
  match activeLane s with
  | some i => .next (settle (wantHandover i 3 s))
  | none => .next s

/-! ## Self-test (R442 to R444) -/

/-- BIST_LOGIC, BIST_MEMORY, BIST_BOTH (R443, R447). -/
def execBistLogic (tgt : Bool) (s : State) : Out := .next (settle (bistCmd 1 tgt s))
def execBistMemory (tgt : Bool) (s : State) : Out := .next (settle (bistCmd 2 tgt s))
def execBistBoth (tgt : Bool) (s : State) : Out := .next (settle (bistCmd 3 tgt s))

/-- RNOW (R444, R447). -/
def execRnow (s : State) : Out := .next (settle (rollNow s))

/-- An hour of ship time in ns. -/
def hourNs : Nat := 3600000000000

/-- RLATE of a run that has been deferred by 24 h from `due` on (R444). -/
def rollLate (a : LaneId) (due : Int) (s : State) : State :=
  inRunning (fun l => stkSeenIf (decide (due + dayNs ≤ shipNs (laneOf s a))) l BST_STK_RLATE) s

/-- ROLLING_SELFTEST_DUE (R444): the due instant of frame memory; a run starts and the next due instant is set, or it is deferred. -/
def execRollingSelftestDue (s : State) : Out :=
  match activeLane s with
  | none => .next s
  | some a =>
    let later : State → State := setFrame fun f => { f with rnext := f.rnext + hourNs * f.rper }
    match s.bist.find? fun b => decide (b.stage = 0) with
    | some b =>
      -- a run that waits tries again
      if rollDeferred s a then .next (settle (rollLate a b.due s))
      else .next (settle ((if b.own then id else later) (rollStart b.due b.own (bistKeep (fun b => decide (b.stage ≠ 0)) s))))
    | none =>
      if s.fm.rper = 0 then .next s
      else
        let s := tickTo (shipReach (laneOf s a) s.now s.fm.rnext) s
        if rollDeferred s a then .next (settle (rollLate a s.fm.rnext (rollStart s.fm.rnext false s)))
        else .next (settle (later (rollStart s.fm.rnext false s)))

/-- What a finished test leaves in a lane's registers (R447). -/
def bistMarks (x run : Nat) (lsig msig : Word) (lf mf : Bool) (l : Lane) : Lane :=
  let l := if bit run 0 then rset l (BST_LSIG x) lsig else l
  let l := if bit run 1 then rset l (BST_MSIG x) msig else l
  stkIf mf (stkIf lf l BST_STK_LFAIL) BST_STK_MFAIL

/-- BIST_COMPLETE (R442 to R444): the signatures against the golden values. A pass restarts the lane at step 4a; a failure puts it
into FAULT and ends a rolling run. Its SRAM contents are destroyed. -/
def execBistComplete (i : LaneId) (lsig msig : Word) (s : State) : Out :=
  match testOf s i 2 with
  | none => .next s
  | some b =>
    if ¬ (laneOf s i).powered then .next s
    else
      let rest : State → State := bistKeep fun b => !(decide (b.lane = i) && decide (b.stage = 2))
      let lf := bit b.run 0 && decide (lsig ≠ rget (laneOf s i) BST_GOLD)
      let mf := bit b.run 1 && decide (msig ≠ rget (laneOf s i) BST_GOLD2)
      let x := match i with | .A => 0 | .B => 1
      let fail := lf || mf
      let src := if fail then 0x7D else 0x86
      let test := if fail then (if lf then 1 else 2) else b.run
      let s := modLane s (otherLane i) fun l =>
        if l.powered then
          let l := bistMarks x b.run lsig msig lf mf l
          if laneActive l then raiseO l s.now src x test 0#32 else l
        else l
      let s := modLane s i fun l => peatWrite l s.now 0 src 0 1 (wordOf (x + 256 * test)) 0#32
      if fail then
        .next (settle (bistShow (rest (modLane s i fun l =>
          setRole s.now roleFault (bistMarks x b.run lsig msig lf mf { l with mem := [], ecc := [] })))))
      else
        let s := { s with bist := s.bist.map fun c => if c.lane = i ∧ c.stage = 2 then { c with stage := 3 } else c }
        let s := startLane i false (settle s)
        let s := modLane s i (bistMarks x b.run lsig msig false false)
        -- a lane left in OUT with no image restarts no further
        let left := (laneOf s i).bootLeft.isNone && !(fon (laneOf s i) CLK_STS_READY)
        .next (bistShow (if left then bistKeep (fun b => !(decide (b.lane = i) && decide (b.stage = 3))) s else s))

/-! ## The Peat log (R440, R446) -/

/-- PEAT_RSEL (R446): a write loads the data registers later. -/
def peatSelect (l : Lane) (seq : Word) : Lane := fsetB (rset l PEAT_RSEL seq) PEAT_RSTS_VALID false

/-- PEAT_RSEL as a command. -/
def execPeatRsel (i : LaneId) (seq : Word) (s : State) : Out :=
  if laneRuns (laneOf s i) then .next (modLane s i fun l => peatSelect l seq) else .next s

/-- PEAT_READ_LOADED (R446): the selected entry stands in the data registers, or is not held. -/
def execPeatReadLoaded (i : LaneId) (s : State) : Out :=
  if !(laneOf s i).powered then .next s
  else .next (modLane s i fun l =>
    match l.peat.find? fun e => decide (e.seq % 2 ^ 32 = (rget l PEAT_RSEL).toNat) with
    | some e =>
      let l := (peatWords e).zipIdx.foldl (fun (l : Lane) w => rset l (PEAT_RDAT w.2) w.1) l
      fsetB (fsetB l PEAT_RSTS_VALID true) PEAT_RSTS_GONE false
    | none => fsetB (fsetB l PEAT_RSTS_VALID false) PEAT_RSTS_GONE true)

/-- PEAT_ENTRY_COMMIT (R439, R440): the entry that has waited longest is written to flash; a full ring loses its oldest one. FLERR
shows a write that was retried in the next sector. -/
def execPeatEntryCommit (c : FlashIn) (s : State) : Out :=
  let l := laneOf s c.lane
  if l.powered then
    .next (modLane s c.lane fun l => stkSeenIf (c.retried && !l.peatQ.isEmpty) (peatCommit l) PEAT_STK_FLERR)
  else .next s

/-! ## Cartridges (R33 to R35, R327, R374, R387) -/

/-- A link cartridge's diode reads below THROT − HYT in every lane that holds a reading (R387). -/
def linkCool (s : State) (k : LinkNo) : Bool :=
  let n := 146 + k.1
  let one (l : Lane) : Bool := !(laneRuns l) || (vget l.sens ⟨n, by omega⟩).hist.isEmpty ||
    decide (fgetI l (THM_T_TEMP n) < fgetI l (THM_CFG_THROT n) - (fget l (THM_CHY_HYT n) : Int))
  one s.la && one s.lb

/-- A present cartridge's parts after insertion: a lane waits for its power, a link or field cartridge starts afresh. -/
def cartStart (n : Fin 11) (s : State) : State :=
  if n.1 = 2 ∨ n.1 = 3 then
    let i : LaneId := if n.1 = 2 then .A else .B
    modLane s i fun l => if l.powered then l else { railOff l with shut := l.shut }
  else if h : 4 ≤ n.1 ∧ n.1 < 8 then
    let k : LinkNo := ⟨n.1 - 4, by omega⟩
    let hot := (vget s.links k).shut && !(linkCool s k)
    { s with links := vmod s.links k fun x => { LinkRt.zero with sel := x.sel, dark := hot, shut := hot } }
  else if h : 8 ≤ n.1 ∧ n.1 < 10 then
    { s with fields := vmod s.fields ⟨n.1 - 8, by omega⟩ fun x => { fieldOff x with sel := x.sel } }
  else s

/-- What the lanes show of the slots, and source 0x80 (R33, R34, R421). -/
def cartMarks (n : Fin 11) (in_ : Bool) (s : State) : State :=
  let one (l : Lane) : Lane :=
    if l.powered then
      let l := canPresence (stkSeen (showCarts s l) (if in_ then SYS_STK_CARTIN else SYS_STK_CARTOUT))
      if laneRuns l then raiseO l s.now 0x80 (n.1 + 1) (b2n in_) 0#32 else l
    else l
  { s with la := one s.la, lb := one s.lb }

/-- What a slot's contents leave behind when the slot is empty, or is treated as empty because its cartridge is not healthy (R12, R35,
R304, R327, R473): a lane is out of the module, ports are down, a field cartridge is silent, the Cord and a supply give nothing. -/
def cartEnd (n : Fin 11) (s : State) : State :=
  if n.1 = 2 ∨ n.1 = 3 then
    let i : LaneId := if n.1 = 2 then .A else .B
    bistShow (bistDrop (bistKeep (fun b => decide (b.lane ≠ i) || decide (b.stage < 2))
      (modLane (hoEnd s) i fun l => { railOff l with shut := l.shut })))
  else if h : 4 ≤ n.1 ∧ n.1 < 8 then linkDark ⟨n.1 - 4, by omega⟩ s
  else if h : 8 ≤ n.1 ∧ n.1 < 10 then
    let f : FieldNo := ⟨n.1 - 8, by omega⟩
    inRunning (fun l => canSilent (fbkAbsent (showCarts s l) s.now f) s.now f)
      { s with fields := vmod s.fields f fun x => { fieldOff x with sel := x.sel } }
  else if n.1 = 10 then { s with cord := cordOff s.cord }
  else setSupply (if n.1 = 0 then 0 else 1) { inok := false, outok := false, vin := 0#16, iout := 0#8 } s

/-- The lanes that have power show the slots as they are now (R34). -/
def cartShow (s : State) : State :=
  { s with
    la := if s.la.powered then canPresence (showCarts s s.la) else s.la
    lb := if s.lb.powered then canPresence (showCarts s s.lb) else s.lb }

/-- CARTRIDGE_INSERTED (R33 to R35): `ok` is the outcome of its identity and health check. In an occupied slot it is the check's new
outcome: a cartridge found healthy starts as one inserted, and one found unhealthy is treated as gone. -/
def execCartridgeInserted (n : Fin 11) (ok : Bool) (s : State) : Out :=
  let s0 := s
  let was := s.pres.getLsbD n.1
  let wasOk := s.okc.getLsbD n.1
  let bitN : BitVec 11 := 1#11 <<< n.1
  let s := { s with pres := s.pres ||| bitN, okc := if ok then s.okc ||| bitN else s.okc &&& ~~~bitN }
  if was then
    let s := if ok = wasOk then s else if ok then cartStart n s else cartEnd n s
    .next (bistShow (joinLanes (settle (permitLoss s0 (cartShow s)))))
  else .next (joinLanes (wakeSeen .cartridge (settle (permitLoss s0 (cartMarks n true (if ok then cartStart n s else s))))))

/-- CARTRIDGE_REMOVED (R12, R33 to R35, R304, R327, R473): a lane or a cartridge loses its supply and its channels. -/
def execCartridgeRemoved (n : Fin 11) (s : State) : Out :=
  if !(s.pres.getLsbD n.1) then .next s
  else
    let bitN : BitVec 11 := 1#11 <<< n.1
    let t := cartEnd n { s with pres := s.pres &&& ~~~bitN, okc := s.okc &&& ~~~bitN }
    .next (bistShow (joinLanes (wakeSeen .cartridge (settle (permitLoss s (cartMarks n false t))))))

end Sys2Proof.Machine
end

