-- ==== Sys2Proof/Machine/Period.lean ====
section
/-!
DEFINITION. One current-loop period (R22 to R28): the carrier boundary (R149), start and banking of an axis (R173, R174, R402 to
R405), phase A, the set-point latch with phase B (R158, R194), EDGE frames (R270, R275), the period's end.
-/
namespace Sys2Proof.Machine

/-! ## The carrier boundary (R149) -/

/-- Whether the chain, the observer and the T0 tasks of an axis run: it is enabled and its first period has begun (R84, R402). -/
def axRuns (l : Lane) (a : Axis) : Bool :=
  let x := vget l.axes a
  axEnabled l a && x.live && x.startS.isNone

/-- Every change that falls due at the carrier boundary at `t`, in the order of R149. TP is formed with the bands that take effect here
(R133). -/
def atBoundary (l : Lane) (t : Nat) (a : Axis) : Lane :=
  let l := (copsOfAxis l a).foldl (fun (l : Lane) (c : Fin 32) =>
    let l := if (vget l.cops c).back && fget l (LEG_CSTS_STATE c) = 2 then fset l (LEG_CSTS_STATE c) (b2n (axRuns l a)) else l
    modCop l c fun k => { k with back := false }) l
  let l := (bricksOf l a).foldl (fun (l : Lane) (b : Fin 32) => applyBand l t b) l
  let l := fset l (AXS_TP_TP a) (nextPeriod l a)
  let l := if axRuns l a then reform l a else l
  modAx l a fun x => { x with
    tab := fget l (AXS_MOD_TAB a), ovm := fget l (AXS_MOD_OVM a), dmod := fget l (AXS_MOD_DMOD a) }

/-- Whether the release ramp of BRAKING has ended (R252). -/
def brakingOver (l : Lane) (a : Axis) : Bool := fget l (AXS_STS_ESTATE a) = 4 && (vget l.axes a).brkT.isNone

/-- The lane as it will stand at the carrier boundary that begins the coming P period, so that the edges of that period are
computed with all of it in force (R149). The coming period starts when the present one ends, whatever the new TP. -/
def preview (l : Lane) (a : Axis) : Lane :=
  let t1 := (vget l.axes a).t0 + tpOf l a
  let p := atBoundary l t1 a
  let p := if brakingOver l a then fset p (AXS_STS_ESTATE a) 6 else p
  let p := rset (rset p LEG_STK (rget l LEG_STK)) FLT_STK (rget l FLT_STK)
  let tp := tpOf p a
  modAx p a fun x => { x with t0 := t1 - tp, obs := { x.obs with asc := x.obs.asc && !x.obs.ascEnd } }

/-- The lane in which the edges and frames of the coming period are formed. -/
def building (l : Lane) (a : Axis) : Lane := if (vget l.axes a).pper then l else preview l a

/-- What was computed on a preview `p` of `l` is kept; what takes effect at the boundary stays as it is now. -/
def keepComputed (l p : Lane) (a : Axis) : Lane :=
  let old (p : Lane) (ad : Nat) : Lane := rset p ad (rget l ad)
  let p := (allFin 4).foldl (fun (p : Lane) (s : Fin 4) => old p (AXS_WS a s)) (old p (AXS_TP a))
  let p := fset p (AXS_STS_ESTATE a) (fget l (AXS_STS_ESTATE a))
  let p := (copsOfAxis l a).foldl (fun (p : Lane) (c : Fin 32) =>
    modCop (old p (LEG_CSTS c)) c fun k =>
      { k with back := (vget l.cops c).back, inSet := (vget l.cops c).inSet }) p
  let p := (bricksOf l a).foldl (fun (p : Lane) (b : Fin 32) =>
    { (old p (LEG_BAND b)) with rx := vmod p.rx b fun r =>
      { r with band := (vget l.rx b).band, dt0 := (vget l.rx b).dt0, bandT := (vget l.rx b).bandT } }) p
  let p := (axisLegs l a).foldl (fun (p : Lane) (n : Fin 128) =>
    let g0 := vget l.legs n
    modLeg (old p (LEG_TRIM n)) n fun g => { g with tau := g0.tau, ecorP := g0.ecorP, ecorN := g0.ecorN }) p
  let x := vget l.axes a
  modAx p a fun y => { y with
    t0 := x.t0, tab := x.tab, ovm := x.ovm, dmod := x.dmod
    obs := { y.obs with asc := x.obs.asc, ascEnd := x.obs.ascEnd } }

/-! ## Start and banking (R173, R174, R402 to R405) -/

/-- The legs of an axis without edges, instants or currents. -/
def clearLegs (l : Lane) (a : Axis) : Lane :=
  (axisLegs l a).foldl (fun (l : Lane) (n : Fin 128) => modLeg l n fun g => { g with
    edge := none, hist := [], head := none, tail := none, tailZ := none, placed := none, smp := none, cur := 0, lvl := false }) l

/-- The observer's mode on an enable, and whether a running start is due at once (R174). -/
def startMode (l : Lane) (a : Axis) : Nat × Bool :=
  let enc := decide (fget l (OBS_CFG_ENC a) = 1)
  if enc && encHealthy l a then (moEncoder, true)
  else if !enc && !(fon l (OBS_CFG_FREN a)) && fon l (OBS_CFG_INJ a) && fon l (AXS_EN_ZBANK a) then (moInject, true)
  else (moAcquire, false)

/-- The coppices of an axis that leave OFF with period 0: NACT and positions are formed with their trims held (R146, R402). -/
def copsOn (l : Lane) (a : Axis) : Lane :=
  let l := (copsOfAxis l a).foldl (fun (l : Lane) (c : Fin 32) =>
    if fget l (LEG_CSTS_STATE c) = 0 && (legsOf l c).all (fun (n : Fin 128) => decide (fget l (BLK_BST_STATE (n.1 / 4)) = 3))
    then fset l (LEG_CSTS_STATE c) 1 else l) l
  (setsUsed l a).foldl (fun (l : Lane) (s : Fin 4) => fset l (AXS_WS_NACT a s) (copsRun l a s).length) l

/-- Period 0 of an axis that leaves BANKED or KEPT (R405), at edge tick `t`: enabled in STOPPED it enters RUN at its first latch;
from another state it returns by MODE = RUN alone (R249, R419). A host that is only KEPT takes its carrier alone. -/
def startPeriod0 (l : Lane) (now t : Nat) (a : Axis) : Lane :=
  let l := clearLegs l a
  let l := modAx l a fun x => { x with
    t0 := t, tp1 := tpOf l a, k := 0, pper := true, live := true, startS := none, ended := false, tailOut := false }
  if !(axEnabled l a) then l
  else
    let l := seedAxis (copsOn l a) a
    let (m, due) := startMode l a
    let l := modAx l a fun x => { x with
      ask := match x.ask with
        | some e => some e
        | none => if l.safe || fget l (AXS_STS_ESTATE a) ≠ 6 then none else some 0
      hPrev := 0
      zeroT := none, nTq := 0, nSlip := 0, iqd := 0, tstar := 0, tref := 0
      obs := { x.obs with
        mode := m, nmode := none, pmode := moOff, runDue := due, pulses := false, first := false, asc := false, ascEnd := false
        acq := 1, acqT := now, acqN := 0, acqV := [], tries := 0, aftLoss := false, lost := none, hold := none, ramp := none
        nRes := 0, nSlip := 0, nX := 0, fRes := none, fSlip := none, fX := none, pol := 0, polN := 0
        polOk := decide (m = moEncoder) || encValid l a, off := 0, six := false } }
    -- the configured lead of a group leads again (R233)
    (allFin 8).foldl (fun (l : Lane) (g : Fin 8) =>
      if fget l (SHR_GCFG_LEAD g) = a.1 && activeGroup l a = some g then
        modGrp l g fun x => { x with lead := none, gone := x.gone &&& (0xFFFF - 2 ^ a.1) } else l) l

/-- Whether an axis hosts a bus that an axis other than itself, not banked, lies on (R404). -/
def hostNeeded (l : Lane) (a : Axis) : Bool :=
  (allFin 8).any fun (b : Fin 8) => decide (fget l (SHR_BHOST_HOST b) = a.1) && busInUse l b &&
    (busAxes l b).any fun (c : Axis) => decide (c ≠ a) && axPeriods l c

/-- An axis leaves the running state at a boundary (R402 to R404): KEPT while its bus needs it, else BANKED. -/
def bankAxis (l : Lane) (a : Axis) : Lane :=
  let kept := hostNeeded l a
  let was := axEnabled l a
  let zero := zeroSpeed l a
  let l := fset l (AXS_EN_BST a) (if kept then 3 else 0)
  let l := if was then
      let l := fsetB l (AXS_EN_ZBANK a) zero
      let l := fset (fset l (AXS_FSTS_DID a) 0) (AXS_TD_TDH a) 0
      let l := fset (fset l (OBS_EST_MODE a) moOff) (OBS_EST_CONF a) 0
      let l := (copsOfAxis l a).foldl (fun (l : Lane) (c : Fin 32) =>
        if fget l (LEG_CSTS_STATE c) = 1 then fset l (LEG_CSTS_STATE c) 0 else l) l
      let l := showWeights l a
      let l := (allFin 4).foldl (fun (l : Lane) (s : Fin 4) => fset l (AXS_WS_NACT a s) 0) l
      let l := updateRating ((copsOfAxis l a).foldl (fun (l : Lane) (c : Fin 32) => modCop l c fun k => { k with inSet := false }) l) a
      modAx l a fun x => { x with
        disReq := false, tdh := 0, iqd := 0, tstar := 0, startS := none
        obs := { x.obs with
          mode := moOff, nmode := none, did := 0, pulses := false, first := false, runDue := false, injOn := false, asc := false
          ascEnd := false, hold := none, lost := none, six := false, off := 0 } }
    else modAx l a fun x => { x with disReq := false, startS := none }
  let l := if kept then l
    else
      let l := (axisLegs l a).foldl (fun (l : Lane) (n : Fin 128) => legOff l n) l
      modAx l a fun x => { x with tailOut := x.live, live := false }
  moduleState (legSummary (obsSummary l))

/-- A start ended by EN = 0 at a period start (R405): the axis is STOPPED again and banks. -/
def cancelStart (l : Lane) (now : Nat) (a : Axis) : Lane :=
  let l := modAx l a fun x => { x with ask := if x.ask = some 0 then none else x.ask }
  let l := if fget l (AXS_STS_ESTATE a) = 0 then
      setBrake (stopsLeft (raiseO (fset l (AXS_STS_ESTATE a) 6) now (0x90 + a.1) 6 0 0#32) a 6) a true
    else l
  bankAxis l a

/-- Whether an axis that is to be banked may be, at this carrier boundary (R403, R404). -/
def bankNow (l : Lane) (a : Axis) : Bool :=
  let x := vget l.axes a
  let e := fget l (AXS_STS_ESTATE a)
  if fget l (AXS_EN_BST a) = 3 then !(hostNeeded l a)
  else x.disReq && (e = 6 || e = 9 || (e = 8 && !x.obs.asc))

/-- The modes from which a running start builds edges (R173). -/
def startable (l : Lane) (a : Axis) : Bool :=
  let o := obsOf l a
  isRunMode o.mode || o.mode = moEncoder || (o.mode = moCaught && !o.aftLoss)

/-- A running start that is due takes place at a carrier boundary (R173). -/
def runningStart (l : Lane) (a : Axis) : Lane :=
  let o := obsOf l a
  if o.runDue && startable l a && !(isOffState (fget l (AXS_STS_ESTATE a)) && (vget l.axes a).ask ≠ some 0) then
    modObs l a fun o => { o with
      mode := if o.mode = moCaught then lamMode (lambdaOf l a o.we) else o.mode
      polOk := o.polOk || decide (o.mode = moCaught)
      runDue := false, pulses := true, first := true, ramp := some 0, tries := 0 }
  else l

/-- What a P period brings at its start to an axis that runs or is KEPT. -/
def boundaryStart (l : Lane) (now : Nat) (a : Axis) : Lane :=
  let l := updateRating (atBoundary l (vget l.axes a).t0 a) a
  let o := obsOf l a
  let l := if o.ascEnd then
      modObs l a fun o => { o with
        asc := false, ascEnd := false
        mode := if o.mode = moAsc then moAcquire else o.mode
        acq := if o.mode = moAsc then 1 else o.acq
        acqT := if o.mode = moAsc then now else o.acqT
        acqN := 0, acqV := [], tries := 0
        aftLoss := o.aftLoss || decide (o.mode = moAsc) }
    else l
  let l := if brakingOver l a then enterState l now a 6 else l
  if bankNow l a then bankAxis l a else if axRuns l a then runningStart l a else l

/-- The start of a period that is not period 0. -/
def nextPeriodStart (l : Lane) (now : Nat) (a : Axis) : Lane :=
  let x := vget l.axes a
  -- a mode change takes effect at the period start after its cause (R176)
  let l := modObs l a fun o => match o.nmode with | some m => { o with mode := m, nmode := none } | none => o
  let l :=
    if fget l (AXS_EN_BST a) = 1 then
      if x.disReq then cancelStart l now a else if x.startS.isSome then l else moduleState (fset l (AXS_EN_BST a) 2)
    else l
  if x.pper && (vget l.axes a).live then boundaryStart l now a else l

/-- The instant at which the next period of an axis starts (R22, R405), if it has one. -/
def nextStart (l : Lane) (a : Axis) : Option Nat :=
  let x := vget l.axes a
  if x.live then some (if x.ended then x.t0 else x.t0 + tpOf l a) else x.startS

/-- A period of the axis ends, if its end has not been reached yet: the next one starts there. -/
def endPeriod (l : Lane) (a : Axis) : Lane :=
  let tp := tpOf l a
  modAx l a fun x => if x.ended then x else { x with t0 := x.t0 + tp, tp1 := tp, k := x.k + 1, pper := !x.pper, ended := true }

/-- A lane at the start of a period of axis `a` (R23). -/
def periodStartLane (now : Nat) (a : Axis) (l : Lane) : Lane :=
  let x := vget l.axes a
  if !x.live && x.startS.isNone then l
  else
    let l := if fget l (ADM_AXCON_CONSEC a) ≠ 0 && !x.ovr then fset l (ADM_AXCON_CONSEC a) 0 else l
    let l := modAx (endPeriod l a) a fun y => { y with
      ovr := false, cutDone := false, latDone := false, chain := false, ended := false }
    let t := if x.live then (vget l.axes a).t0 else now
    let l := match x.startS with
      | some s =>
        if t < s then nextPeriodStart l now a
        else if x.disReq then cancelStart l now a
        else
          let l := startPeriod0 l now t a
          if axRuns l a then runningStart (updateRating (atBoundary (takeWeights l a) t a) a) a else atBoundary l t a
      | none => nextPeriodStart l now a
    -- the instants placed for this period's frame are those its samples use (R137, R138)
    let l := (axisLegs l a).foldl (fun (l : Lane) (n : Fin 128) =>
      modLeg l n fun g => { g with placed := usedInstant g.head g.tailZ }) l
    let l := (bricksOf l a).foldl (fun (l : Lane) (b : Fin 32) =>
      { l with rx := vmod l.rx b fun r => r.start r.seqN }) l
    let l := showRaises l
    if axRuns l a then releaseClass l now 0 (some a) else l

/-- The lane whose view of an axis gives the instants: the ACTIVE one, or the one that runs. -/
def refLane (s : State) : Option Lane :=
  match activeLane s with
  | some i => some (laneOf s i)
  | none => if laneRuns s.la then some s.la else if laneRuns s.lb then some s.lb else none

/-- The time base reaches an instant that the reference lane gives. -/
def tickBy (f : Lane → Option Nat) (s : State) : State :=
  match (refLane s).bind f with | some t => tickTo t s | none => s

/-! ## Sample cut-off and phase A (R23, R281) -/

/-- The copy of a brick's SAMPLE frame that lane `l` uses, `p` being its peer (R18, R281). -/
def copyOf (l p : Lane) (b : Brick) : Option (List Word) × Bool :=
  chooseCopy (vget l.rx b) (if fon l SYS_STS_SOLO then none else some (vget p.rx b))

/-- A brick's frame consumed in lane `l`, with the judgement of its ports; `ports` says for each side whether its link cartridge
reports it TIMED or UP, and the delay it shows. -/
def consumeBrick (l p : Lane) (now : Nat) (keep : Bool) (ports : Brick → Fin 2 → Bool × Nat) (b : Brick) : Lane :=
  let c := copyOf l p b
  let l := consume (stkIfLate c.2 l SYS_STK_INDROP) now b keep c.1
  let l := judgePorts l now b (ports b 0).1 (ports b 1).1
  let l := showDelays l b (ports b 0).2 (ports b 1).2
  if c.1.isSome then decideBand l b else l

/-- What the link cartridges report of the ports. -/
def portViews (s : State) (b : Brick) (i : Fin 2) : Bool × Nat :=
  let q := portOf s b i
  let up := decide (2 ≤ q.lst) && linkPresent s (linkOf b i)
  (up, if up then (delayOf q).toNat else 0)

/-- Phase A of an axis that runs (R23). In period 0 the phase currents are taken as zero (R405). -/
def phaseA (l : Lane) (now : Nat) (a : Axis) : Lane :=
  let l := governAngle (appliedAxis l a) a
  let l := if (vget l.axes a).k = 0 then
      (copsOfAxis l a).foldl (fun (l : Lane) (c : Fin 32) =>
        (legsOf l c).foldl (fun (l : Lane) (n : Fin 128) => modLeg l n fun g => { g with cur := 0 }) l) l
    else reconAxis l now a
  let l := modObs l a fun o => { o with sixRec := o.six }
  let l := hedgeCut (parkAxis l a) now a
  disturb (observe l now a) a

/-- A lane at the sample cut-off of axis `a`; `p` is its peer. -/
def cutoffLane (now : Nat) (a : Axis) (ports : Brick → Fin 2 → Bool × Nat) (p l : Lane) : Lane :=
  let x := vget l.axes a
  if !x.live || x.ended || x.cutDone then l
  else
    let l := blkSummary ((bricksOf l a).foldl (fun (l : Lane) (b : Fin 32) => consumeBrick l p now false ports b) l)
    -- the hedge of an axis whose periods run checks in any case (R246)
    modAx (if axRuns l a then phaseA l now a else hedgeCut l now a) a fun x => { x with cutDone := true }

/-- SAMPLE_CUTOFF (R23, R281): 25 % of the period. -/
def execSampleCutoff (a : Axis) (s : State) : Out :=
  let s := tickBy (fun l => let x := vget l.axes a
    if x.live && !x.ended then some (x.t0 + tpOf l a / 4) else none) s
  let ports := portViews s
  let la := if laneRuns s.la then cutoffLane s.now a ports s.lb s.la else s.la
  let lb := if laneRuns s.lb then cutoffLane s.now a ports s.la s.lb else s.lb
  .next (settle { s with la := la, lb := lb })

/-! ## Set-point latch and phase B (R23, R158, R194) -/

/-- Zero speed is watched for (R252). -/
def zeroWatch (l : Lane) (now : Nat) (a : Axis) : Lane :=
  if zeroSpeed l a then
    modAx l a fun x => { x with zeroT := if fon l (AXS_STS_ZERO a) then x.zeroT else some (x.zeroT.getD now) }
  else modAx (fsetB l (AXS_STS_ZERO a) false) a fun x => { x with zeroT := none }

/-- The part of an axis's torque that the disturbance term causes (R222, R230, R231): a member's share carries the term that stood in
the demand it was published from. -/
def distTorque (l : Lane) (a : Axis) : Rat :=
  let own (m : Axis) : Rat := q12 l (AXS_DOB2_KDFF m) * (vget l.axes m).tdh
  if !(takesDist l a) || isOffState (fget l (AXS_STS_ESTATE a)) || !(torqueReady l a) || (obsOf l a).first then 0
  else
    match activeGroup l a with
    | none => own a
    | some g =>
      let m := leadOf l g
      if fget l (SHR_GCFG_MODE g) = 3 then
        (if m = a then own a else q12 l (SHR_AWT_W a) * qdiv ((vget l.grps g).dP * powerOf l m) (powerOf l a))
      else if m = a then qdiv ((vget l.grps g).shareN.getD a.1 0) (vget l.grps g).tg * own a
      else qdiv ((vget l.grps g).share.getD a.1 0) (vget l.grps g).tgP * (vget l.grps g).dP

/-- vq_dist of R158 and R235, per unit, with the part of iq_r that the disturbance term causes kept. -/
def distVoltage (l : Lane) (a : Axis) (idr : Rat) : Lane × Rat :=
  let den := q16 l (AXS_KTQ_KTQ a) * (q16 l (AXS_PSI_PSI a) + (q16 l (AXS_LD_LD a) - q16 l (AXS_LQ_LQ a)) * idr)
  let i := qdiv (distTorque l a) den
  let v := q12 l (AXS_DOB2_KVD a) * q16 l (AXS_LQ_LQ a) * qdiv (i - (vget l.axes a).iqd) (tpPu l a)
  (modAx l a fun x => { x with iqd := i }, v)

/-- Vdc of a winding set in mV (R127). -/
def setVdc (l : Lane) (a : Axis) (s : Fin 4) : Rat := rmean ((copsRun l a s).map fun (c : Fin 32) => (copVdc l c).1)

/-- The modulation index that a voltage magnitude asks of a set (R127). -/
def askM (l : Lane) (a : Axis) (s : Fin 4) (v : Rat) : Rat :=
  qdiv (v * (fget l (AXS_RATV_VR a) : Rat) * Config.pi) (2 * setVdc l a s)

/-- The d-axis voltage added for injection (R163) and by the polarity test (R168), per unit. -/
def addedVd (l : Lane) (a : Axis) : Rat :=
  let o := obsOf l a
  let inj := if o.injOn && o.pulses then q12 l (OBS_INJ_VINJ a) * Config.cosT (turns (o.phi : Rat)) else 0
  let pol := if o.mode ≠ moPolarity then 0 else if o.pol = 2 ∨ o.pol = 3 then q12 l (OBS_XSAT_VPOL a)
    else if o.pol = 4 ∨ o.pol = 5 then -(q12 l (OBS_XSAT_VPOL a)) else 0
  inj + pol

/-- A component held to ±lim, a limited one reported to its slot as that slot's clamp (R158, R184). -/
def limitV (l : Lane) (s : Slot) (lim v : Rat) : Lane × Rat :=
  let c := rclamp (-lim) lim v
  (if c ≠ v then reportClamp l s (decide (lim < v)) else l, c)

/-- The current loops of one winding set and its voltage reference (R158). In the polarity test the loops are held at their output
(R168); a running start presets them so that vd = 0 and vq = ω_e × PSI (R173). Answers whether a component was limited. -/
def currentLoop (l : Lane) (now : Nat) (a : Axis) (idr iqr vqd : Rat) (w : Fin 4) (d q : Slot) : Lane × Bool :=
  let o := obsOf l a
  let z := vget (vget l.axes a).sets w
  let ld := q16 l (AXS_LD_LD a)
  let lq := q16 l (AXS_LQ_LQ a)
  let psi := q16 l (AXS_PSI_PSI a)
  let l := if o.first then
      modSlot (modSlot l d fun z' => { z' with preset := some (bfOfRat (o.w * lq * z.iq)) }) q fun z' =>
        { z' with preset := some (bfOfRat (-(o.w * ld * z.id))) }
    else l
  let l := if o.mode = moPolarity then l else loopStage (loopStage l now d (idr - z.id)) now q (iqr - z.iq)
  let out (s : Slot) : Rat := dyRat (bfVal (slotOf l s).y)
  let vd := out d - o.w * lq * z.iq + addedVd l a
  let vq := out q + o.w * (ld * z.id + psi) + vqd
  let vmax := boundM (vget l.axes a).ovm * (2 / Config.pi) * qdiv (setVdc l a w) (fget l (AXS_RATV_VR a) : Rat)
  let m := askM l a w (Config.sqrtR (vd * vd + vq * vq))
  -- a reference above what OVM permits is limited (R129)
  let l := stkIfLate (decide (boundM (vget l.axes a).ovm < m)) l LEG_STK_MCLAMP
  let (l, vd') := limitV l d vmax vd
  let (l, vq') := limitV l q (Config.sqrtR (vmax * vmax - vd' * vd')) vq
  (modAx l a fun x => { x with sets := vmod x.sets w fun z => { z with vdr := vd', vqr := vq', m := m } },
   decide (vd' ≠ vd) || decide (vq' ≠ vq))

/-- Steps 2 and 3 of phase B (R154, R158, R194). -/
def currentLoops (l : Lane) (now : Nat) (a : Axis) : Lane :=
  let o := obsOf l a
  let still := !o.pulses || o.first
  let (l, idr, iqr, clip) : Lane × Rat × Rat × Option Bool :=
    if still then (l, 0, 0, none) else currentRefs l a (vget l.axes a).tstar (rfOf l a)
  -- a clamp by the current circle is reported to the torque stage's last slot (R184)
  let l := match clip, torqueStage l a with
    | some up, some s => reportClamp l (stageLast l s) up
    | _, _ => l
  let (l, vqd) := distVoltage l a idr
  let r := (loopSlots l a).foldl (fun (acc : Lane × Bool) (x : Fin 4 × Slot × Slot) =>
    let (l, lim) := currentLoop acc.1 now a idr iqr vqd x.1 x.2.1 x.2.2
    (l, acc.2 || lim)) (l, false)
  modAx r.1 a fun x => { x with vlim := r.2 }

/-- Six-step is entered or left with the edges of the coming P period (R130, R156), by what the loops of set 0 ask for. -/
def sixStep (l : Lane) (a : Axis) : Lane :=
  let x := vget l.axes a
  let o := x.obs
  let m := (vget x.sets 0).m
  let sspd := q12 l (AXS_FW2_SSPD a)
  if o.six then
    if !o.pulses || x.ovm ≠ 3 || (rabs o.w < sspd - mkRat 1 50 && m < 1) then modObs l a fun o => { o with six := false } else l
  else if o.pulses && x.ovm = 3 && decide (sspd ≤ rabs o.w) && decide (1 ≤ m) then
    modObs (stkLate l OBS_STK_SIXSTEP) a fun o => { o with six := true }
  else l

/-- AXS_MIDX (R131): M of winding set 0, held to what OVM permits. -/
def showIndex (l : Lane) (a : Axis) : Lane :=
  let x := vget l.axes a
  let m : Rat := if x.obs.six then 1 else rmin (vget x.sets 0).m (boundM x.ovm)
  fset (fset l (AXS_MIDX_M a) (codeU 16 17 m)) (AXS_MIDX_REGION a) (if x.obs.six then 3 else min 2 (regionOf m))

/-- The modulator's part of phase B: edges, the hedge's check of them, and sample instants (R121 to R138, R248). -/
def modulate (l : Lane) (a : Axis) : Lane :=
  let o := obsOf l a
  let wt := wTick l a o.w
  let vr : Rat := (fget l (AXS_RATV_VR a) : Rat)
  let l := (setsUsed l a).foldl (fun (l : Lane) (s : Fin 4) =>
    let z := vget (vget l.axes a).sets s
    let v := Config.sqrtR (z.vdr * z.vdr + z.vqr * z.vqr) * vr / 1000
    (copsRun l a s).foldl (fun (l : Lane) (c : Fin 32) => modCoppice l a s wt v c) l) l
  checkModes l a

/-- What phase B computes of the coming period on the lane `p` in which that period's changes are in force. -/
def formEdges (p : Lane) (now : Nat) (a : Axis) : Lane :=
  let p := energyHost p now a
  let p := if axRuns p a then modulate (if (vget p.axes a).pper then p else sixStep p a) a else checkModes p a
  (axisLegs p a).foldl (fun (p : Lane) (n : Fin 128) => if legMode p n = 1 then p else placeInstants p a n) p

/-- A lane at the set-point latch of axis `a`, with phase B. A KEPT axis runs the energy controller of its buses alone (R404). `ups` are
the upsets that the chain finds in this lane's state memory (R198). -/
def latchLane (now : Nat) (a : Axis) (ups : List Upset) (l : Lane) : Lane :=
  let x := vget l.axes a
  if !x.live || x.ended || x.latDone then l
  else
    let l := (ups.filter fun u => u.lane = l.ident).foldl (fun l u => slotUpset l u.slot u.word u.err) l
    let l := if axRuns l a then
        let l := rotorLatch l now a x.tstar
        let l := stateLatch (zeroWatch (hedgeLatch l now a) now a) now a
        let l := heave (tension l a) now a
        let l := updateRating (takeWeights (chainStages l now a) a) a
        let l := if (obsOf l a).first then modAx l a fun x => { x with tstar := 0, tref := 0 } else formT l now a
        balance (currentLoops l now a) a
      else stateLatch (hedgeLatch l now a) now a
    let l := if x.pper then formEdges l now a else keepComputed l (formEdges (preview l a) now a) a
    let run := axRuns l a
    lpeSummary (modAx l a fun x => { x with latDone := true, chain := run, obs := { x.obs with first := false } })

/-! ## EDGE out (R23, R25, R270) -/

/-- An axis counts an overrun period, once only; three in a row raise its source (R108). -/
def axisOverrun (l : Lane) (now : Nat) (a : Axis) : Lane :=
  if (vget l.axes a).ovr then l
  else
    let l := modAx l a fun x => { x with ovr := true }
    let n := min 3 (fget l (ADM_AXCON_CONSEC a) + 1)
    let l := fset (fcount l (ADM_AXOVR_COUNT a)) (ADM_AXCON_CONSEC a) n
    if n = 3 then raiseO (stkLate l ADM_STK_AXSTOP) now 0x27 a.1 0 0#32 else l

/-- The frame of brick `b` for the period that starts at `t1`, recorded as sent; a late chain repeats the edges of the period
before with the hold bit (R25, R275). `p` is the lane in which that period's changes are in force. -/
def frameFor (late : Bool) (p l : Lane) (a : Axis) (t1 : Nat) (b : Fin 32) : Lane × EdgeFrame :=
  let new := edgeFrame p a t1 b
  match (if late then (vget l.rx b).sent else none) with
  | none => markSent l b new
  | some old =>
    let f := holdFrame p b new old
    let l := (List.range 4).foldl (fun (l : Lane) (j : Nat) =>
      let n : Fin 128 := ⟨4 * b.1 + j % 4, by omega⟩
      let o := old.legs.getD j legFrameOff
      if legMode p n = 0 then modLeg l n (holdLeg (t1 : Int) f.tp o)
      else modLeg l n fun g => { g with head := g.head.filter fun v => decide (v ≤ (old.close : Int)) }) l
    markSent l b f

/-- The frames of all bricks of an axis. -/
def framesOf (late : Bool) (p l : Lane) (a : Axis) (t1 : Nat) : Lane × List EdgeFrame :=
  (bricksOf l a).foldl (fun (acc : Lane × List EdgeFrame) (b : Fin 32) =>
    let (l, f) := frameFor late p acc.1 a t1 b; (l, acc.2 ++ [f])) (l, [])

/-- The results of the period's chain are published at 60 % (R23, R24, R179, R193, R218). -/
def publishAxis (l : Lane) (now : Nat) (a : Axis) : Lane :=
  let l := groupRelease (publishChain (publishObs (showIndex l a) a) a) a
  let x := vget l.axes a
  let l := fsetI l (AXS_TLIV_TSTAR a) (codeS 16 32 x.tstar)
  let l := fsetB (fsetB l (AXS_FSTS_TLIM a) x.tlim) (AXS_FSTS_VLIM a) x.vlim
  let l := fsetB (fsetB l (AXS_STS_REGL a) x.regl) (AXS_STS_PWRL a) x.pwrl
  let l := fsetI l (AXS_FSTS_DID a) (codeS 12 16 x.obs.did)
  let l := fsetI (fsetI l (AXS_TD_TDH a) (codeS 16 32 x.tdh)) (AXS_TEN_TEN a) (codeS 16 32 x.ten)
  legSummary (lpeSummary (obsSummary (capRecord l now a)))

/-- A lane at the EDGE-out instant of axis `a` (R23, R270), with the frames it sends. Before period 0 and after banking they hold
every leg in gates off (R403, R405). -/
def edgeOutLane (now : Nat) (a : Axis) (late : Bool) (l : Lane) : Lane × List EdgeFrame :=
  let x := vget l.axes a
  if x.live && !x.ended then
    let late := late && axRuns l a
    let l := lpeSummary (modAx l a fun x => { x with chain := false })
    let l := if late then axisOverrun (stkLate l ADM_STK_COVR) now a else l
    let (l, fs) := framesOf late (building l a) l a (x.t0 + tpOf l a)
    (energyHostEnd (if axRuns l a then publishAxis l now a else l) now a, fs)
  else if x.tailOut then
    let (l, fs) := framesOf false l l a (x.t0 + tpOf l a)
    let l := (bricksOf l a).foldl (fun (l : Lane) (b : Fin 32) =>
      { l with rx := vmod l.rx b fun r => r.start r.seqN }) l
    (modAx l a fun x => { x with tailOut := false }, fs)
  else
    match x.startS with
    | some t => framesOf false l l a t
    | none => (l, [])

/-- The EDGE-out instant that follows in an axis: 60 % of its period (R23), or 40 % of a period before period 0 (R405). -/
def edgeInstant (l : Lane) (a : Axis) : Option Nat :=
  let x := vget l.axes a
  let tp := tpOf l a
  if (x.live && !x.ended) || x.tailOut then some (x.t0 + 3 * tp / 5)
  else if x.live then none else x.startS.map fun t => t + 3 * tp / 5 - tp

/-- EDGE_OUT (R23, R25, R270): every lane composes its frames, and the link cartridges forward those of the lane their selector
names. `lateA`, `lateB` say that phase B of the lane has not completed; `down` is what befalls frames on the way. -/
def execEdgeOut (a : Axis) (laneA laneB : EdgeLane) (s : State) : Out :=
  let s := tickBy (fun l => edgeInstant l a) s
  let run (l : Lane) (late : Bool) : Lane × List EdgeFrame := if laneRuns l then edgeOutLane s.now a late l else (l, [])
  let ra := run s.la laneA.late
  let rb := run s.lb laneB.late
  let s := { s with la := ra.1, lb := rb.1 }
  let s := ra.2.foldl (fun (s : State) (f : EdgeFrame) => sendFrame .A downlink laneA.down s f) s
  let s := rb.2.foldl (fun (s : State) (f : EdgeFrame) => sendFrame .B downlink laneB.down s f) s
  .next (settle s)

end Sys2Proof.Machine
end

