-- ==== Sys2Proof/Machine/Ticks.lean ====
section
/-!
DEFINITION. The 1 ms tick (R83) with everything the manual does at it, and the T2 and T3 releases.
-/
namespace Sys2Proof.Machine

/-! ## Keep-alive frames (R116, R270) -/

/-- Whether a brick is served by keep-alive frames: it has no timing axis, or that axis has no periods (R116, R402). -/
def keepServed (l : Lane) (b : Brick) : Bool :=
  match timingAxis l b with | none => true | some a => !(vget l.axes a).live

/-- Whether a keep-alive frame is sent now: not before the gates-off frame that follows banking (R403), and not after the frame of
period 0 (R270, R405). -/
def keepDue (l : Lane) (now : Nat) (b : Brick) : Bool :=
  match timingAxis l b with
  | none => true
  | some a =>
    let x := vget l.axes a
    !x.live && !x.tailOut && (x.startS.isNone || (edgeInstant l a).all fun t => decide (now < t))

/-- The number that SAMPLE frames of the period that starts now carry: of the latest frame that has started. -/
def keepSeq (now : Nat) (r : RxRt) : Nat :=
  match r.sent with
  | some f => if f.pstart ≤ now then f.seq else (f.seq + 2 ^ 16 - 1) % 2 ^ 16
  | none => r.seqC

/-- The keep-alive frames of a lane for the millisecond that starts at `t1`. -/
def keepFrames (now t1 : Nat) (l : Lane) : Lane × List EdgeFrame :=
  (allFin 32).foldl (fun (acc : Lane × List EdgeFrame) (b : Brick) =>
    let l := acc.1
    if keepDue l now b then
      let (l, f) := markSent l b (keepFrame b.1 t1 (fget l (LEG_GTB_GPROF b (bandOf l b))) (deadTime l b))
      (l, acc.2 ++ [f])
    else acc) (l, [])

/-- A brick served by keep-alive frames at a T1 tick (R116, R281): its frame consumed, its band in force at once. -/
def keepBrick (p : Lane) (now : Nat) (ports : Brick → Fin 2 → Bool × Nat) (l : Lane) (b : Brick) : Lane :=
  if keepServed l b then
    let l := applyBand (consumeBrick l p now true ports b) now b
    { l with rx := vmod l.rx b fun r => r.start (keepSeq now r) }
  else l

/-! ## The tick -/

/-- The Cord result frames that a lane uses (R17, R459). -/
def cordUse (l p : Lane) : List (List Word) :=
  if fon l SYS_STS_SOLO then l.crdIn else l.crdIn.filter fun ws => p.crdIn.contains ws

/-- A state asked of an axis without periods takes effect at the tick: it has no set-point latch (R249). -/
def bankedAsk (now : Nat) (l : Lane) (a : Axis) : Lane :=
  let x := vget l.axes a
  match x.ask with
  | some e => if x.live || x.startS.isSome then l else enterState (modAx l a fun x => { x with ask := none }) now a e
  | none => l

/-- Management, discovery and the link registers at a T1 tick (R282, R286, R290). -/
def linkTick (now : Nat) (send : Nat) (p l : Lane) : Lane :=
  let l := (allFin 32).foldl (fun (l : Lane) (b : Brick) => mrspTick p l b) l
  let l := (allFin 32).foldl (fun (l : Lane) (b : Brick) => discTick l now b) l
  blkSummary (fset (mreqTick l) BLK_PERM_SEND send)

/-- A lane at a T1 tick; `p` is its peer, `send` the link cartridges that insert /P/. -/
def t1Lane (now : Nat) (d : T1In) (ports : Brick → Fin 2 → Bool × Nat) (send : Nat) (p l : Lane) : Lane :=
  let n := l.t1n + 1
  let l := (allFin 32).foldl (fun (l : Lane) (b : Brick) => keepBrick p now ports l b) l
  let l := thmTick (fbkTick l) now d
  let l := canPresence (cordTick now l (cordUse l p))
  let l := governBits (linkTick now send p l) now
  let l := awakeTick now (domainTick l)
  let l := (allFin 16).foldl (fun (l : Lane) (a : Axis) => bankedAsk now l a) l
  let l := imageStarts l now
  releaseClass (showRaises (emberTick { l with t1n := n })) now 1 none

/-- A lane in step 6 of its start-up at a T1 tick (R286, R410): it finds its bricks, in the ten ticks that the steps' times leave. -/
def bootLane (now : Nat) (ports : Brick → Fin 2 → Bool × Nat) (send : Nat) (p l : Lane) : Lane :=
  let l := (allFin 32).foldl (fun (l : Lane) (b : Brick) => keepBrick p now ports l b) l
  let l := showRaises (linkTick now send p l)
  { l with bootLeft := l.bootLeft.map fun n => n - 1 }

/-- What a T1 tick does in a lane, by what the lane is doing. -/
def tickLane (now : Nat) (d : T1In) (ports : Brick → Fin 2 → Bool × Nat) (send : Nat) (p l : Lane) : Lane :=
  if laneRuns l then t1Lane now d ports send p l else if laneLinks l then bootLane now ports send p l else l

/-- The hash units reduced at a T1 tick (R19, R402): the module's, and those of axes without periods. -/
def tickUnits (s : State) : State :=
  let still (a : Axis) : Bool := match refLane s with | some l => !(vget l.axes a).live | none => false
  (allFin 16).foldl (fun (s : State) (a : Axis) => if still a then unitEnd ⟨a.1, by omega⟩ s else s) (unitEnd 16 s)

/-- The keep-alive frames of both lanes are sent; `dn` is what befalls them. -/
def sendKeep (dn : List DownFault) (s : State) : State :=
  let run (l : Lane) : Lane × List EdgeFrame := if laneLinks l then keepFrames s.now (s.now + 3200000) l else (l, [])
  let ra := run s.la
  let rb := run s.lb
  let s := { s with la := ra.1, lb := rb.1 }
  let s := ra.2.foldl (fun (s : State) (f : EdgeFrame) => sendFrame .A downlink dn s f) s
  rb.2.foldl (fun (s : State) (f : EdgeFrame) => sendFrame .B downlink dn s f) s

end Sys2Proof.Machine
end

