-- ==== Sys2Proof/Machine/AxisCmd.lean ====
section
/-!
DEFINITION. Axis commands (R125, R131, R175, R227, R256) and the timers of an axis that end by themselves (R170, R172, R237, R245,
R252, R254); the commands of the loop engine (R196 to R204, R213, R216, R219).
-/
namespace Sys2Proof.Machine

/-! ## AXS_CMD (R227, R249, R256) -/

/-- Whether the cause that put a coppice in LOST has cleared (R227): both links of its bricks up, no desaturation latched, and no
brick above its shut-down threshold less hysteresis. -/
def copCleared (l : Lane) (c : Nat) : Bool :=
  (legsOf l c).all fun (n : Fin 128) =>
    let b := n.1 / 4
    fon l (BLK_BST_PRIUP b) && fon l (BLK_BST_SECUP b) && decide (fget l (BLK_BST_DESAT b) = 0) &&
    (List.range 4).all fun j =>
      let k := 4 * b + j
      decide (fgetI l (THM_T_TEMP k) ≤ (fgetI l (THM_CSH_SHUT k)) - ((fget l (THM_CHY_HYS k) : Nat) : Int))

/-- The coppices of an axis in LOST. -/
def lostCops (l : Lane) (a : Axis) : List (Fin 32) := (copsOfAxis l a).filter fun (c : Fin 32) => fget l (LEG_CSTS_STATE c) = 2

/-- CRET (R227): the LOST coppices whose cause has cleared return at the next carrier boundary; CRETPART where some stay. -/
def coppiceReturn (l : Lane) (a : Axis) : Lane :=
  let part := (lostCops l a).any fun (c : Fin 32) => !(copCleared l c)
  let l := (lostCops l a).foldl (fun (l : Lane) (c : Fin 32) =>
    if copCleared l c then modCop l c fun k => { k with back := true } else l) l
  stkIf part l (AXS_STK_CRETPART a)

/-- A committed write of AXS_CMD (R256): with CRET a coppice return alone, otherwise a MODE command. -/
def cmdCommit (l : Lane) (a : Axis) (v : Nat) : Lane :=
  if bit v 3 then coppiceReturn l a
  else modeCommand (fset l (AXS_CMD_MODE a) v) a (v % 8)

/-- A MODE row: AXS_CMD committed with the mode's code. -/
def modeRow (a : Axis) (m : Nat) (s : State) : Out := .next (settle (inRunning (fun l => cmdCommit l a m) s))

/-- MODE = RUN (R249, R256). -/
def execModeRun (a : Axis) (s : State) : Out := modeRow a 0 s
/-- MODE = PROFILE. -/
def execModeProfile (a : Axis) (s : State) : Out := modeRow a 1 s
/-- MODE = STOP2. -/
def execModeStop2 (a : Axis) (s : State) : Out := modeRow a 2 s
/-- MODE = STOP1. -/
def execModeStop1 (a : Axis) (s : State) : Out := modeRow a 3 s
/-- MODE = HOLD. -/
def execModeHold (a : Axis) (s : State) : Out := modeRow a 4 s
/-- MODE = IMSTOP. -/
def execModeImstop (a : Axis) (s : State) : Out := modeRow a 5 s
/-- CRET (R227). -/
def execCret (a : Axis) (s : State) : Out := .next (settle (inRunning (fun l => cmdCommit l a 8) s))

/-! ## Timers of an axis -/

/-- Edge ticks of a number of ms. -/
def msTicks (n : Nat) : Nat := n * 3200000

/-- A timer's row: the time base reaches the end of the timer, and every running lane in which it has run acts. A timer that does
not run changes nothing. -/
def timerRow (due : Lane → Option Nat) (act : Nat → Lane → Lane) (s : State) : Out :=
  let s := tickBy due s
  .next (settle (inRunning (fun l => match due l with | some t => if t ≤ s.now then act s.now l else l | none => l) s))

/-- The end of the zero-speed time (R252), while zero speed is not declared. -/
def zeroDue (a : Axis) (l : Lane) : Option Nat :=
  if fon l (AXS_STS_ZERO a) then none else (vget l.axes a).zeroT.map fun t => t + msTicks (fget l (AXS_SRG2_TZS a))

/-- ZERO_SPEED_DECLARED (R252): the state follows at the next set-point latch (R249). -/
def execZeroSpeedDeclared (a : Axis) (s : State) : Out := timerRow (zeroDue a) (fun _ l => fsetB l (AXS_STS_ZERO a) true) s

/-- The end of TBRK (R252). -/
def brakeDue (a : Axis) (l : Lane) : Option Nat :=
  let x := vget l.axes a
  if x.relTq.isSome then none else x.brkT.map fun t => t + msTicks (fget l (AXS_BRK_TBRK a))

/-- BRAKE_ENGAGE_END (R252): the torque held so far ramps towards zero. -/
def execBrakeEngageEnd (a : Axis) (s : State) : Out :=
  timerRow (brakeDue a) (fun _ l => modAx l a fun x => { x with relTq := some x.treq }) s

/-- The end of TREL (R252). -/
def releaseDue (a : Axis) (l : Lane) : Option Nat :=
  let x := vget l.axes a
  if x.relTq.isSome then x.brkT.map fun t => t + msTicks (fget l (AXS_BRK_TBRK a) + fget l (AXS_BRK_TREL a)) else none

/-- TORQUE_RELEASE_END (R252): pulses end and the axis is STOPPED at the next carrier boundary. -/
def execTorqueReleaseEnd (a : Axis) (s : State) : Out :=
  timerRow (releaseDue a) (fun _ l => modAx l a fun x => { x with brkT := none }) s

/-- The end of TRT in ride-through (R254). -/
def rideDue (a : Axis) (l : Lane) : Option Nat :=
  if fon l (AXS_STS_RIDE a) then (vget l.axes a).rideT.map fun t => t + msTicks (fget l (AXS_RT_TRT a)) else none

/-- RIDE_THROUGH_TIMEOUT (R254): the source is raised once in a ride-through. -/
def execRideThroughTimeout (a : Axis) (s : State) : Out :=
  timerRow (rideDue a) (fun now l =>
    raiseO (stkLate (modAx l a fun x => { x with rideT := none }) (AXS_STK_RTTO a)) now 0x2F a.1 0 0#32) s

/-- HEAVE_STALE (R237): with heave in use and entries that have been held. -/
def execHeaveStale (a : Axis) (s : State) : Out :=
  .next (settle (inRunning (fun l =>
    if fon l (SHR_HVC_HEN a) && (vget l.axes a).hv.toList.any Option.isSome then heaveStale l s.now a else l) s))

/-- FLUX_BRAKING_BUDGET (R245): FBACC has reached FBLIM. -/
def execFluxBrakingBudget (a : Axis) (s : State) : Out :=
  .next (inRunning (fun l =>
    if (vget l.axes a).fbOn then fluxEnd (modAx l a fun x => { x with fbAcc := (fget l (AXS_FB_FBLIM a) : Rat) }) a else l) s)

/-- The first set-point latch of an axis at or after the edge tick `t` (R23). -/
def latchFrom (l : Lane) (a : Axis) (t : Nat) : Nat :=
  let tp := tpOf l a
  let t1 := (vget l.axes a).t0 + tp / 2
  if t ≤ t1 then t1 else t1 + cdiv (t - t1) tp * tp

/-- HOLD_WINDOW_EXPIRY (R170): the branch at the first set-point latch at or after the end of the hold window; a re-lock
met by then resumes instead. -/
def execHoldWindowExpiry (a : Axis) (s : State) : Out :=
  timerRow (fun l => (obsOf l a).hold.map fun h => latchFrom l a (h.1 + 3200 * fget l (OBS_HOLD_HOLD a)))
    (fun now l => match (obsOf l a).hold with | some (_, f) => holdEnd l now a f (vget l.axes a).tstar true | none => l) s

/-- DECAY_TIMEOUT (R172): TDEC has passed in step 1 of acquisition. -/
def execDecayTimeout (a : Axis) (s : State) : Out :=
  timerRow (fun l => let o := obsOf l a
      if o.mode = moAcquire ∧ o.acq ≤ 1 then some (o.acqT + msTicks (fget l (OBS_FR_TDEC a))) else none)
    (fun _ l => modObs l a fun o => { o with acq := 2, acqN := 0, acqV := [] }) s

/-! ## AXS_OCMD and AXS_MOD (R125, R131, R175) -/

/-- RESUME and REACQ as a committed write of AXS_OCMD carries them (R173, R175). -/
def ocmdCommit (l : Lane) (now : Nat) (a : Axis) (v : Nat) : Lane :=
  let l := if bit v 0 && obsMode l a = moCaught then modObs l a fun o => { o with runDue := true, aftLoss := false } else l
  if bit v 1 && obsMode l a = moFailed then
    modObs (toMode l a moAcquire) a fun o => { o with acq := 1, acqT := now, acqN := 0, acqV := [], tries := 0 }
  else l

/-- RESUME: leave CAUGHT and run. -/
def execResume (a : Axis) (s : State) : Out := .next (inRunning (fun l => ocmdCommit l s.now a 1) s)

/-- REACQ: from FAILED, acquisition again. -/
def execReacq (a : Axis) (s : State) : Out := .next (inRunning (fun l => ocmdCommit l s.now a 2) s)

/-- A reference to a sine table that the image does not declare is ignored, with TABREF (R125). -/
def tabCommit (l : Lane) (a : Axis) (t : Nat) : Lane :=
  if bit l.decl.tabs t then fset l (AXS_MOD_TAB a) t else stk l LEG_STK_TABREF

/-- A committed write of AXS_MOD (R125, R131), in force from the next carrier boundary. -/
def modCommit (l : Lane) (a : Axis) (v : Nat) : Lane :=
  fset (fset (tabCommit l a (v % 8)) (AXS_MOD_OVM a) (bitsOf v 3 2)) (AXS_MOD_DMOD a) (bitsOf v 5 2)

/-- TAB. -/
def execTab (a : Axis) (t : BitVec 3) (s : State) : Out := .next (inRunning (fun l => tabCommit l a t.toNat) s)

/-- OVM and DMOD; DMOD 0b11 is reserved, and the write is ignored whole (R10). -/
def execOvmDmod (a : Axis) (ovm dmod : BitVec 2) (s : State) : Out :=
  .next (inRunning (fun l =>
    if dmod = 3#2 then stk l SYS_STK_RSVWR
    else fset (fset l (AXS_MOD_OVM a) ovm.toNat) (AXS_MOD_DMOD a) dmod.toNat) s)

/-! ## The loop engine -/

/-- A committed MODE of a slot: a change from MANUAL to AUTO makes a transfer at the slot's next sample (R201). -/
def slotMode (l : Lane) (k : Slot) (v : Nat) : Lane :=
  let back := fon l (LPE_MODE_MODE k) && !(bit v 0)
  modSlot (fset l (LPE_MODE_MODE k) v) k fun z => { z with toAuto := z.toAuto || back }

/-- A committed write of LPE_MODE (R203, R216, R217): MODE, and CLR on a stage's first slot. -/
def lpeModeCommit (l : Lane) (k : Slot) (v : Nat) : Lane :=
  let l := slotMode l k v
  if bit v 1 && stageFirst l k = k then modSlot l k fun z => { z with clr := true } else l

/-- MANUAL to AUTO (R201, R202). -/
def execModeToAuto (k : Slot) (s : State) : Out := .next (inRunning (fun l => slotMode l k 0) s)

/-- AUTO to MANUAL (R203). -/
def execModeToManual (k : Slot) (s : State) : Out := .next (inRunning (fun l => slotMode l k 1) s)

/-- CLR (R216). -/
def execClr (k : Slot) (s : State) : Out := .next (inRunning (fun l => lpeModeCommit l k (2 + fget l (LPE_MODE_MODE k))) s)

/-- A committed set-point (R200): with RSEED the ramp is seeded at the next sample. -/
def spCommit (l : Lane) (k : Slot) (v : Word) : Lane :=
  let changed := decide (rget l (LPE_SP k) ≠ v)
  let l := rset l (LPE_SP k) v
  if changed && fon l (LPE_SCFG_RSEED k) then modSlot l k fun z => { z with seed := true } else l

/-- ENGINE_OPERATION_COMPLETE (R198): the lane's engine completes the operation at the head of its queue. -/
def execEngineOperationComplete (i : LaneId) (up : Ecc) (s : State) : Out :=
  if laneRuns (laneOf s i) then .next (settle (modLane s i fun l => dispatchAll (engineDo l s.now up) s.now)) else .next s

/-- A write of LPE_CCTL (R213, R219): while records are being taken only EN and ARM act. -/
def cctlWrite (l : Lane) (v : Nat) : Lane :=
  let st := fget l LPE_CSTS_STATE
  let busy := decide (st = 1 ∨ st = 2)
  let keep := (rget l LPE_CCTL).toNat
  let body := if busy then keep / 4 * 4 else v % 2 ^ 28 / 4 * 4
  let l := wantDomains (rset l LPE_CCTL (wordOf (body + v % 2))) (if v % 2 = 1 then 8#9 else 0#9)
  if !(bit v 0) then capAbort l else if bit v 1 then capArm l else l

/-- ARM (R213), with EN at one. -/
def execArm (s : State) : Out :=
  .next (inRunning (fun l => cctlWrite l ((rget l LPE_CCTL).toNat / 4 * 4 + 3)) s)

/-- CAPTURE_ABORT (R213): EN is written with zero. -/
def execCaptureAbort (s : State) : Out :=
  .next (inRunning (fun l => cctlWrite l ((rget l LPE_CCTL).toNat / 4 * 4)) s)

/-! ## Chopper legs (R241) -/

/-- CHCLR; the bus's state follows in its next run (R239). -/
def execChclr (mask : Byte) (s : State) : Out := .next (inRunning (fun l => chopClear l mask.toNat) s)

end Sys2Proof.Machine
end

