-- ==== Sys2Proof/Machine/BlockFloat.lean ====
section
/-!
DEFINITION. The block-float instructions (R67), over the exact arithmetic and the one rounding of Machine/Bf32.lean.
-/
namespace Sys2Proof.Machine

/-- Word and flags of an exact value of inputs `ws`. -/
def bfResult (ws : List Word) (x : Dy) : Word × BfFlags :=
  let r := bfRound x
  (r.1, { r.2 with range := ws.any bfOut })

/-- FADD (R67). -/
def execFadd (i : Issue) (rd ra rb : RegNo) (s : State) : Out :=
  .next (issueBf i s 2 [ra, rb] rd fun t =>
    bfResult [getW t ra, getW t rb] (dyAdd (bfVal (getW t ra)) (bfVal (getW t rb))))

/-- FSUB (R67). -/
def execFsub (i : Issue) (rd ra rb : RegNo) (s : State) : Out :=
  .next (issueBf i s 2 [ra, rb] rd fun t =>
    bfResult [getW t ra, getW t rb] (dyAdd (bfVal (getW t ra)) (dyNeg (bfVal (getW t rb)))))

/-- FMUL (R67). -/
def execFmul (i : Issue) (rd ra rb : RegNo) (s : State) : Out :=
  .next (issueBf i s 2 [ra, rb] rd fun t =>
    bfResult [getW t ra, getW t rb] (dyMul (bfVal (getW t ra)) (bfVal (getW t rb))))

/-- FMAC: rd + ra × rb with one rounding (R67). -/
def execFmac (i : Issue) (rd ra rb : RegNo) (s : State) : Out :=
  .next (issueBf i s 3 [rd, ra, rb] rd fun t =>
    bfResult [getW t rd, getW t ra, getW t rb]
      (dyAdd (bfVal (getW t rd)) (dyMul (bfVal (getW t ra)) (bfVal (getW t rb)))))

/-- FMIN: the smaller value, canonicalised (R67). -/
def execFmin (i : Issue) (rd ra rb : RegNo) (s : State) : Out :=
  .next (issueBf i s 1 [ra, rb] rd fun t =>
    let a := bfVal (getW t ra)
    let b := bfVal (getW t rb)
    bfResult [getW t ra, getW t rb] (if dyLt b a then b else a))

/-- FMAX: the larger value, canonicalised (R67). -/
def execFmax (i : Issue) (rd ra rb : RegNo) (s : State) : Out :=
  .next (issueBf i s 1 [ra, rb] rd fun t =>
    let a := bfVal (getW t ra)
    let b := bfVal (getW t rb)
    bfResult [getW t ra, getW t rb] (if dyLt a b then b else a))

/-- FABS: the magnitude (R67). -/
def execFabs (i : Issue) (rd ra : RegNo) (s : State) : Out :=
  .next (issueBf i s 1 [ra] rd fun t => bfResult [getW t ra] (dyAbs (bfVal (getW t ra))))

/-- FNEG (R67). -/
def execFneg (i : Issue) (rd ra : RegNo) (s : State) : Out :=
  .next (issueBf i s 1 [ra] rd fun t => bfResult [getW t ra] (dyNeg (bfVal (getW t ra))))

/-- FNORM: the value canonicalised (R67). -/
def execFnorm (i : Issue) (rd ra : RegNo) (s : State) : Out :=
  .next (issueBf i s 1 [ra] rd fun t => bfResult [getW t ra] (bfVal (getW t ra)))

/-- FFIX: the value of ra × 2^k as a signed integer, saturated with BFOVF (R67). -/
def execFfix (i : Issue) (rd ra : RegNo) (k : BitVec 5) (s : State) : Out :=
  .next (issueBf i s 2 [ra] rd fun t =>
    let r := bfFix (bfVal (getW t ra)) k.toNat
    (r.1, { r.2 with range := bfOut (getW t ra) }))

/-- FFLT: the signed integer ra divided by 2^k (R67). -/
def execFflt (i : Issue) (rd ra : RegNo) (k : BitVec 5) (s : State) : Out :=
  .next (issueBf i s 2 [ra] rd fun t => bfRound { m := (getW t ra).toInt, e := -(k.toNat : Int) })

/-- FSCL: ra × 2^imm (R67). -/
def execFscl (i : Issue) (rd ra : RegNo) (imm : BitVec 12) (s : State) : Out :=
  .next (issueBf i s 1 [ra] rd fun t =>
    let a := bfVal (getW t ra)
    bfResult [getW t ra] { a with e := a.e + imm.toInt })

end Sys2Proof.Machine
end

