-- ==== Sys2Proof/Machine/Ctrl.lean ====
section
/-!
DEFINITION. Control flow (R60 to R62). The program counter is a byte address; a LOOP finds its matching ENDL in program
SRAM.
-/
namespace Sys2Proof.Machine

/-- The major opcode of an instruction word, bits [31:26] (R51). -/
def majorOf (w : Word) : Nat := w.toNat / 2 ^ 26

/-- Whether a word is an ENDL: major 0x22, fn 0x01. -/
def isEndl (w : Word) : Bool := decide (majorOf w = 0x22) && decide (w.toNat % 128 = 1)

/-- Whether a word is a LOOP: major 0x23. -/
def isLoop (w : Word) : Bool := decide (majorOf w = 0x23)

/-- The first ENDL from address `a` that no LOOP nested before it claims, within `n` words (R62). -/
def findEndl (l : Lane) : Nat → Nat → Nat → Option Nat
  | 0, _, _ => none
  | n + 1, a, depth =>
    let w := mget32 l a
    if isEndl w then (match depth with | 0 => some a | d + 1 => findEndl l n (a + 4) d)
    else if isLoop w then findEndl l n (a + 4) (depth + 1)
    else findEndl l n (a + 4) depth

/-- The end of core `c`'s program slice (R40). -/
def sliceEnd (c : Fin 4) : Nat := 0x80000 * c.1 + 0x80000

/-- A free word address, where the manual names none. -/
def freePc (pc : Nat) : Nat := 4 * (Config.noEndl pc % 2 ^ 30)

/-- The address of the ENDL that matches a LOOP at `pc`; where the slice has none the manual names no address, and the
value is free. -/
def endlOf (l : Lane) (c : Fin 4) (pc : Nat) : Nat :=
  match findEndl l ((sliceEnd c - (pc + 4)) / 4) (pc + 4) 0 with
  | some a => a
  | none => freePc pc

/-- A stack of 8 entries (R39) takes one more: beyond admission's bound (R61, R63) the oldest is lost. -/
def push8 {α : Type} (x : α) (xs : List α) : List α := (x :: xs).take 8

/-- BR: forward by off22 words; off22 = 0 is reserved (R60). -/
def execBr (i : Issue) (off : BitVec 22) (s : State) : Out :=
  .next (issueG i s (decide (off = 0#22)) 2 [] (skipNext i.core) fun l =>
    let t := curTask l i.core
    .ok (putCur l i.core { t with pc := (t.pc + 4 * off.toNat) % 2 ^ 32 }))

/-- CALL: PC + 4 is pushed; the target is a word of the core's own slice (R61). -/
def execCall (i : Issue) (target : BitVec 17) (s : State) : Out :=
  .next (issueG i s false 2 [] (skipNext i.core) fun l =>
    let t := curTask l i.core
    .ok (putCur l i.core { t with pc := 0x80000 * i.core.1 + 4 * target.toNat, calls := push8 ((t.pc + 4) % 2 ^ 32) t.calls }))

/-- RET: the call stack is popped into PC (R61). With an empty stack, which admission excludes (R63), PC stays a free
value's word address. -/
def execRet (i : Issue) (s : State) : Out :=
  .next (issueG i s false 2 [] (skipNext i.core) fun l =>
    let t := curTask l i.core
    match t.calls with
    | a :: r => .ok (putCur l i.core { t with pc := a, calls := r })
    | [] => .ok (putCur l i.core { t with pc := freePc t.pc }))

/-- LOOP (R62): LOOPMAX above the declared maximum, the body skipped at count zero. A false guard goes to the instruction
after the matching ENDL (R49). n16 = 0 is reserved. -/
def execLoop (i : Issue) (ra : RegNo) (n : BitVec 16) (s : State) : Out :=
  .next (issueG i s (decide (n = 0#16)) 2 [ra]
    (fun l => let t := curTask l i.core; putCur l i.core { t with pc := (endlOf l i.core t.pc + 4) % 2 ^ 32 })
    fun l =>
      let t := curTask l i.core
      let count := if ra = 0#5 then n.toNat else (getW t ra).toNat
      if n.toNat < count then .exc l excLoopMax 0 ((coreOf l i.core).cyc - 1)
      else if count = 0 then .ok (putCur l i.core { t with pc := (endlOf l i.core t.pc + 4) % 2 ^ 32 })
      else .ok (putCur l i.core { nextPc t with
        loops := push8 { count := count, start := (t.pc + 4) % 2 ^ 32, fin := endlOf l i.core t.pc } t.loops }))

/-- ENDL, always unguarded (R62): a guarded ENDL is a word R51 refuses. With no active loop, which admission excludes
(R63), it goes on. -/
def execEndl (i : Issue) (s : State) : Out :=
  .next (issueG i s (i.guard.neg || decide (i.guard.p ≠ 0#3)) 1 [] (skipNext i.core) fun l =>
    let t := curTask l i.core
    match t.loops with
    | f :: r =>
      if 0 < f.count - 1 then
        .ok (putCur l i.core { t with pc := f.start, loops := { f with count := f.count - 1 } :: r })
      else .ok (putCur l i.core { nextPc t with loops := r })
    | [] => .ok (putCur l i.core { t with pc := freePc t.pc }))

/-- BRKL: the loop is popped and PC goes past its ENDL (R62). -/
def execBrkl (i : Issue) (s : State) : Out :=
  .next (issueG i s false 2 [] (skipNext i.core) fun l =>
    let t := curTask l i.core
    match t.loops with
    | f :: r => .ok (putCur l i.core { t with pc := (f.fin + 4) % 2 ^ 32, loops := r })
    | [] => .ok (putCur l i.core { t with pc := freePc t.pc }))

/-- The issue of a word that admission would refuse: ILL, whatever its guard (R51). -/
def execIll (i : Issue) (s : State) : Out :=
  .next (issueG i s true 1 [] (skipNext i.core) fun l => .exc l excIll 0 (coreOf l i.core).cyc)

end Sys2Proof.Machine
end

