-- ==== Sys2Proof/Machine/Service.lean ====
section
/-!
DEFINITION. The service port, the key switch and the presence button (R13, R413, R419, R437, R438, R484), and the end of S6.
-/
namespace Sys2Proof.Machine

/-! ## The end of S6 (R419) -/

/-- Whether something a source reports lasts in the lane's view: a level, not an event (R421). -/
def sourcePresent (l : Lane) (k : Nat) : Bool :=
  let sensor (lo n : Nat) (f : Nat → Bool) : Bool := (List.range n).any fun j => f (lo + j)
  let grade (j n : Nat) : Bool := if j = 3 then fon l (THM_T_BROKEN n) else decide (j + 1 ≤ fget l (THM_T_LEVEL n))
  if 0x20 ≤ k ∧ k ≤ 0x26 then (allFin 16).any fun (a : Axis) => bit (vget l.axes a).hPrev (k - 0x20)
  else if k = 0x28 then (allFin 16).any fun (a : Axis) => (vget l.axes a).obs.hold.isSome
  else if k = 0x2B then (allFin 16).any fun (a : Axis) => decide (fget l (OBS_EST_MODE a) = 10)
  else if k = 0x2C then (allFin 128).any fun (n : Fin 128) =>
    (legAxis l n).any fun a => fget l (LEG_CFG_TYPE n) = 1 && decide (fget l (AXS_PRL_PRFAULT a) < fget l (LEG_RUN_RUN n))
  else if k = 0x2F then (allFin 16).any fun (a : Axis) => fon l (AXS_STS_RIDE a) && (vget l.axes a).rideT.isNone
  else if k = 0x2E then (allFin 16).any fun (a : Axis) => (vget l.axes a).hvOld
  else if k ≤ 0x2F then (k = 0x2D) && ((allFin 256).any fun (n : Slot) => (vget l.slots n).satHit)
  else if k ≤ 0x33 then sensor 0 128 (grade (k - 0x30))
  else if k ≤ 0x37 then sensor 128 16 (grade (k - 0x34))
  else if k ≤ 0x3B then sensor 144 2 (grade (k - 0x38))
  else if k ≤ 0x3F then sensor 146 4 (grade (k - 0x3C))
  else if k = 0x40 then sensor 0 32 fun b => brickUsed l b && fget l (BLK_BST_STATE b) = 1
  else if k = 0x41 then sensor 0 32 fun b => fon l (BLK_BST_DESAT b)
  else if k = 0x42 then sensor 0 32 fun b => fon l (BLK_BST_GSUP b)
  else if k = 0x43 then sensor 0 32 fun b => fget l (BLK_BST_STATE b) = 4
  else if k = 0x44 then (allFin 128).any fun (n : Fin 128) => (vget l.legs n).chFlt
  else if k = 0x48 then sensor 0 16 fun e => fget l (FBK_CHST_STATE e) = 2
  else if k = 0x50 then fon l FIO_STS_ANYWB
  else if k = 0x51 then fon l FIO_STS_ANYLATCH
  else if k = 0x52 then (allFin 2).any fun (f : FieldNo) => fon l (FIO_SSTS_SAFE f)
  else if k = 0x53 then (allFin 2).any fun (f : FieldNo) => bit (fget l SYS_CART_OK) (8 + f.1) && !(fon l (FIO_SSTS_PAIR f))
  else if k = 0x54 then (allFin 2).any fun (f : FieldNo) => fon l (FIO_SSTS_DISC f)
  else if 0x58 ≤ k ∧ k ≤ 0x5B then fget l (CAN_STS_ESTATE (k - 0x58)) = 2
  else if k = 0x68 then (allFin 4).any fun (p : CanPort) => (vget l.cans p).pairAt.isSome && !(fon l (CAN_TSSTS_ALIGNED p)) && fget l (CAN_TSSTS_STATE p) ≠ 2
  else if k = 0x69 then (allFin 256).any fun (n : Slot) => (vget l.slots n).satHit
  else if k = 0x6A then (allFin 256).any fun (n : Slot) => (vget l.slots n).fault
  else if k = 0x78 then decide (rget l XLN_FLAG ≠ 0#32)
  else if k = 0x79 then !(fon l XLN_STS_CH0UP) || !(fon l XLN_STS_CH1UP)
  else if k = 0x7A then fon l SYS_STS_SOLO
  else if k = 0x7C then decide (l.pllBad ≠ 0#9)
  else if k = 0x7E then !(fon l CLK_STS_PSAOK) || !(fon l CLK_STS_PSBOK)
  else if k = 0x7F then fon l CLK_STS_PFAIL
  else if k = 0x81 then l.crdSeen && !(fon l CRD_STS_PRES)
  else false

/-- Whether a source graded S6 lasts; a hedge source takes its severity from the axis. -/
def anyS6 (l : Lane) : Bool :=
  (List.range 256).any fun k =>
    if 0x20 ≤ k ∧ k ≤ 0x26 then
      (allFin 16).any fun (a : Axis) => bit (vget l.axes a).hPrev (k - 0x20) && decide (srcSev l k (wordOf a.1) = 6)
    else decide (srcSev l k 0#32 = 6) && sourcePresent l k

/-- S6 has ended in a lane (R419). -/
def noSafe (l : Lane) : Lane := fsetB { l with safe := false } FLT_STS_SAFE false

/-- A committed FLT_CMD.SAFECLR in a lane (R419, R424). -/
def safeClear (key : Bool) (l : Lane) : Lane := if key && !(anyS6 l) then noSafe l else fltStk l (2 ^ 22)

/-- The link cartridges resume /P/ where the STO condition allows (R419). -/
def resumePermits (s : State) : State :=
  { s with links := Vector.ofFn fun (k : Fin 4) =>
    let x := vget s.links k
    { x with send := linkPresent s k && stoCondition s && !(safeCommanded s) && !x.dark } }

/-- SAFECLR (R419). -/
def execSafeclr (s : State) : Out := .next (resumePermits (inRunning (safeClear s.key) s))

/-! ## Protected commands (R437, R438) -/

/-- The records of a protected command: an entry in every powered lane's log, one in frame memory. -/
def protRec (code res : Nat) (s : State) : State :=
  let c0 := wordOf (code + 256 * res)
  let one (l : Lane) : Lane := if l.powered then peatWrite l s.now 2 code 0 1 c0 0#32 else l
  let i : LaneId := match activeLane s with | some i => i | none => if s.la.powered then .A else .B
  let s := { s with la := one s.la, lb := one s.lb }
  settle (modLane s i fun l => if l.powered then fmWrite l s.now 2 code 0 c0 0#32 else l)

/-- A key command: refused without the key, otherwise carried out with its result. -/
def keyCmd (code : Nat) (f : State → State × Nat) (s : State) : Out :=
  if !s.key then .next (protRec code 1 s) else .next (protRec code (f s).2 (f s).1)

/-- Whether every axis is banked in every lane that runs. -/
def allBanked (s : State) : Bool :=
  let one (l : Lane) : Bool := !(laneRuns l) || (allFin 16).all fun a => !(axPeriods l a)
  one s.la && one s.lb

/-- Whether a lane takes an image load: ACTIVE, STANDBY, or OUT with no program (R413, R437). -/
def loadable (l : Lane) : Bool :=
  l.powered && (decide (roleOf l = roleActive) || decide (roleOf l = roleStandby) || (decide (roleOf l = roleOut) && l.image.isNone))

/-- An image enters a lane's inactive bank. -/
def loadBank (im : Image) (l : Lane) : Lane :=
  let k : Fin 2 := if fget l CLK_BOOT_BANK = 0 then 1 else 0
  { l with banks := vset l.banks k (some im) }

/-- The check of an image (R411). -/
def loadBad (s : State) (im : Image) : Bool :=
  (headBad s.fm.compat (some im)).isSome || decide (im.icrc ≠ crc32c (payload im)) || !(sectionsOk im)

/-- IMAGE_LOAD (R413, R437). -/
def execImageLoad (im : Image) (s : State) : Out :=
  keyCmd 1 (fun s =>
    if loadBad s im then (s, 5)
    else if !(loadable s.la || loadable s.lb) then (s, 3)
    else
      let put (l : Lane) : Lane := if loadable l then loadBank im l else l
      ({ s with la := put s.la, lb := put s.lb }, 0)) s

/-- A lane restarts from step 3 of R410. -/
def restartLane (i : LaneId) (s : State) : State :=
  let l := laneOf s i
  if l.powered && decide (roleOf l ≠ roleFault) then startLane i true (settle (modLane s i (setRole s.now roleOut))) else s

/-- Image activation at its execution: every axis banked, then both lanes restart. -/
def activate (s : State) : State × Nat :=
  if !(allBanked s) then (s, 3)
  else
    let out (l : Lane) : Lane := if l.powered && decide (roleOf l ≠ roleFault) then setRole s.now roleOut l else l
    let s := settle { s with la := out s.la, lb := out s.lb, ho := .none, hoOut := false, bist := [] }
    let s := restartLane .B (restartLane .A s)
    let bad (l : Lane) : Bool := l.powered && decide (roleOf l ≠ roleFault) && (l.image.isNone || decide (4 ≤ fget l CLK_BOOT_FRSN))
    (s, if bad s.la || bad s.lb then 5 else 0)

/-- ROLLING_SELFTEST_PERIOD (R437, R441): the period, and the next due instant one period from now. -/
def execRollingSelftestPeriod (hours : Byte) (s : State) : Out :=
  keyCmd 3 (fun s =>
    let t := match activeLane s with | some i => shipNs (laneOf s i) | none => 0
    (setFrame (fun f => { f with rper := hours.toNat, rnext := t + hourNs * hours.toNat }) s, 0)) s

/-- BIST_ACTIVE_LANE (R437, R443): open while a peer is in STANDBY, otherwise with the key and every axis banked. -/
def execBistActiveLane (s : State) : Out :=
  match activeLane s with
  | none => .next (protRec 4 (if s.key then 3 else 1) s)
  | some a =>
    if peerStandby s a then .next (settle (bistCmd 3 true s))
    else keyCmd 4 (fun s => if allBanked s then (settle (bistCmd 3 true s), 0) else (s, 3)) s

/-- A lane's diode reads below THROT − HYT, in the other lane's registers where it runs, else in the lane's own (R387). -/
def laneCool (s : State) (i : LaneId) : Bool :=
  let n : Fin 150 := match i with | .A => 144 | .B => 145
  let o := laneOf s (otherLane i)
  let l := if laneRuns o then o else laneOf s i
  match (vget l.sens n).got with
  | some (some t) => coolRead l n t
  | some none => false
  | none => true

/-- LANE_RESTART (R387, R419, R437): of an OUT or FAULT lane whose diode is cool. -/
def execLaneRestart (i : LaneId) (s : State) : Out :=
  keyCmd 5 (fun s =>
    let l := laneOf s i
    let test := (testOf s i 2).isSome
    if l.powered && (decide (roleOf l = roleOut) || decide (roleOf l = roleFault)) && !test && laneCool s i then
      (startLane i true (modLane s i fun l => { l with shut := false, bootLeft := none }), 0)
    else (s, 3)) s

/-- IMAGE_SYNC (R428, R437): the ACTIVE lane's image is copied to an OUT lane, which restarts from it. -/
def execImageSync (i : LaneId) (s : State) : Out :=
  keyCmd 6 (fun s =>
    let l := laneOf s i
    let p := laneOf s (otherLane i)
    match p.image with
    | some im =>
      if l.powered && decide (roleOf l = roleOut) && laneActive p then
        (startLane i true (modLane s i (loadBank im)), 0)
      else (s, 3)
    | none => (s, 3)) s

/-- S6_RELEASE (R419, R437): an S6 in force ends when no S6 source is present. -/
def execS6Release (s : State) : Out :=
  keyCmd 7 (fun s =>
    let one (l : Lane) : Bool := laneRuns l && l.safe
    if (one s.la || one s.lb) && !(laneRuns s.la && anyS6 s.la) && !(laneRuns s.lb && anyS6 s.lb) then
      (resumePermits (inRunning noSafe s), 0)
    else (s, 3)) s

/-! ## Key and button -/

/-- Codes of the commands of class key and button (R437). -/
def protCode (c : ProtCmd) : Nat :=
  match c with
  | .activation => 2
  | .peatClear => 8
  | .fmClear => 9
  | .stoConfig _ => 10
  | .forceRoles _ _ => 11

/-- Force roles (R426, R437): a named lane ACTIVE by a planned hand-over, or a named lane OUT. -/
def forceRole (i : LaneId) (active : Bool) (s : State) : State × Nat :=
  let l := laneOf s i
  if active then
    (if laneActive l then (s, 0)
     else if laneActive (laneOf s (otherLane i)) && peerStandby s (otherLane i) && hoTakes 8 s.ho then (settle (wantHandover (otherLane i) 8 s), 0)
     else (s, 3))
  else if l.powered && (decide (roleOf l = roleStandby) || decide (roleOf l = roleCatchUp)) then
    (settle (modLane s i (setRole s.now roleOut)), 0)
  else if l.powered && decide (roleOf l = roleOut) then (s, 0)
  else (s, 3)

/-- A confirmed command is carried out. -/
def protExec (c : ProtCmd) (s : State) : State × Nat :=
  match c with
  | .activation => activate s
  | .peatClear =>
    let one (l : Lane) : Lane :=
      if l.powered then
        stk (fsetB (fsetB (fset (fset { l with peat := [], peatQ := [] } PEAT_HELD_N 0) PEAT_RSTS_VALID 0) PEAT_STS_WRAP false)
          PEAT_STS_BUSY false) PEAT_STK_CLEARED
      else l
    ({ s with la := one s.la, lb := one s.lb }, 0)
  | .fmClear => (fmRing s [] 0, 0)
  | .stoConfig cfg => (permitLoss s (setFrame (fun f => { f with sto := cfg.toNat }) s), 0)
  | .forceRoles i active => forceRole i active s

/-- A key-and-button command is accepted, or refused: 1 without the key, 4 while another one waits (R438). -/
def protAsk (c : ProtCmd) (s : State) : Out :=
  if !s.key then .next (protRec (protCode c) 1 s)
  else match s.presReq with
  | some _ => .next (protRec (protCode c) 4 s)
  | none => .next { s with presReq := some { cmd := c, since := s.now } }

/-- IMAGE_ACTIVATION, PEAT_LOG_CLEAR, FRAME_MEMORY_EVENT_CLEAR, STO_CONFIGURATION, FORCE_ROLES (R437, R438). -/
def execImageActivation (s : State) : Out := protAsk .activation s
def execPeatLogClear (s : State) : Out := protAsk .peatClear s
def execFrameMemoryEventClear (s : State) : Out := protAsk .fmClear s
def execStoConfiguration (cfg : BitVec 2) (s : State) : Out := protAsk (.stoConfig cfg) s
def execForceRoles (i : LaneId) (active : Bool) (s : State) : Out := protAsk (.forceRoles i active) s

/-- 30 s in edge ticks: the wait for a press (R437). -/
def pressWait : Nat := 96000000000

/-- PRESENCE_BUTTON (R400, R438, R484): a press of 50 ms or more raises 0x83 and confirms the request that waits. -/
def execPresenceButton (ms : Nat) (s : State) : Out :=
  if ms < 50 then .next s
  else
    let s := wakeSeen .presence (settle (raiseAll 0x83 0xFF 0 s))
    match s.presReq with
    | none => .next s
    | some r =>
      let s := { s with presReq := none }
      let q := if r.since + pressWait < s.now then (s, 2) else if s.key then protExec r.cmd s else (s, 1)
      .next (protRec (protCode r.cmd) q.2 q.1)

/-- PRESENCE_REQUEST_TIMEOUT (R438): 30 s without a press. -/
def execPresenceRequestTimeout (s : State) : Out :=
  match s.presReq with
  | none => .next s
  | some r => .next (protRec (protCode r.cmd) 2 (tickTo (r.since + pressWait) { s with presReq := none }))

/-- KEY_SWITCH_CHANGE (R400, R438, R484): 0x82, and a waiting request is refused when the key returns to RUN. -/
def execKeySwitchChange (service : Bool) (s : State) : Out :=
  if s.key = service then .next s
  else
    let s := wakeSeen .key (settle (raiseAll 0x82 (b2n service) 0 { s with key := service }))
    match s.presReq with
    | some r => if service then .next s else .next (protRec (protCode r.cmd) 1 { s with presReq := none })
    | none => .next s

/-! ## Reads (R437) -/

/-- PEAT_LOG_READ: the entry with a number, none if the log does not hold it. -/
def execPeatLogRead (i : LaneId) (seq : Word) (s : State) : Out :=
  .next { s with svcOut := match (laneOf s i).peat.find? fun e => e.seq % 2 ^ 32 = seq.toNat with | some e => peatWords e | none => [] }

/-- FRAME_MEMORY_READ: the ring's slot `n`, counted from the slot the ring started in (R441). -/
def execFrameMemoryRead (n : Nat) (s : State) : Out :=
  let r := s.fm.ring
  let k := (n + r.length + 256 - s.fm.head % 256) % 256
  .next { s with svcOut := match r[k]? with | some e => peatWords e | none => [] }

/-- CAPTURE_UPLOAD: one record of the capture area (R212, R214); uploads pause while the lane is throttled (R380). -/
def execCaptureUpload (i : LaneId) (rec : Nat) (s : State) : Out :=
  let l := laneOf s i
  let b := capBase l + 64 + rec * capSize l
  if l.powered && fon l THM_STS_LSTEP then .next s
  else .next { s with svcOut := if l.powered ∧ rec < capCapacity l then (List.range (capSize l / 4)).map fun j => mget32 l (b + 4 * j) else [] }

end Sys2Proof.Machine
end

