-- ==== Sys2Proof/Machine/Commit.lean ====
section
/-!
DEFINITION. Committed stores (R59, R104 to R106): what each committed field does when it takes effect, a task's commit instant, and
overruns (R107, R108).
-/
namespace Sys2Proof.Machine

/-! ## Reserved encodings (R10) -/

/-- Whether a write of `v` to the register at `a` carries a reserved encoding in one of its fields (R10). A write of
AXS_CMD with CRET = 1 carries no MODE (R256). -/
def writeReserved (a v : Nat) : Bool :=
  match blockOf a with
  | 0x02 => a = ADM_REQ && (bitsOf v 8 2 = 0 || bitsOf v 8 2 = 3)
  | 0x03 =>
    let n := (a - AXS_STS 0) / 0x1000
    (a = AXS_MOD n && bitsOf v 5 2 = 3) || (a = AXS_CMD n && !(bit v 3) && decide (6 ≤ bitsOf v 0 3))
  | 0x06 =>
    let p := (a - LPE_ICFG 0) / 0x20
    (a = LPE_CCTL && decide (6 ≤ bitsOf v 17 3)) ||
    (LPE_CCH 0 ≤ a && a < LPE_CCH 8 && decide (10 ≤ bitsOf v 8 4)) ||
    (decide (p < 4) && a = LPE_ICFG p && ((bitsOf v 8 2 = 3 && !(bit v 24)) || bitsOf v 10 2 = 3 || decide (6 ≤ bitsOf v 12 3) || bitsOf v 16 8 = 0))
  | 0x08 => a = BLK_MREQ && (bitsOf v 8 8 ≤ 1 || decide (8 ≤ bitsOf v 8 8))
  | 0x09 => a = FBK_CMC ((a - FBK_CFG 0) / 0x100) && bitsOf v 4 12 = 0
  | 0x10 => a = CRD_CMD && bitsOf v 0 2 = 0
  | 0x11 => a = BST_CMD && (decide (bitsOf v 0 2 = 0) != bit v 3)
  | _ => false

/-! ## What a committed field does -/

/-- The key of a DOUT entry in a commit buffer: one entry per output (R105). -/
def doutKey (n : Nat) : Nat := 0x500000000 + n

/-- A committed output (R324): the brake output of an axis is the axis's own, and the write is ignored with BRKWR (R252). -/
def doutCommit (l : Lane) (o : Fin 32) (on : Bool) : Lane :=
  match (allFin 16).find? fun (a : Axis) => fon l (AXS_BRK_BRKEN a) && fget l (AXS_BRK_DO a) = o.1 with
  | some a => stk l (AXS_STK_BRKWR a)
  | none => driveOutput l o on

/-- The value a buffer holds for an address. -/
def bufFind (buf : List (Nat × Word)) (a : Nat) : Option Word := (buf.find? fun e => e.1 = a).map fun e => e.2

/-- The committed fields of the register at `a` take the value `v`. -/
def takeFields (l : Lane) (a : Nat) (v : Word) : Lane :=
  match findReg a with
  | some d => rset l a ((rget l a &&& ~~~(BitVec.ofNat 32 d.com)) ||| (v &&& BitVec.ofNat 32 d.com))
  | none => l

/-- Committed fields of the AXS window (R104, R125, R175, R256, R416). -/
def axsCommit (l : Lane) (now a : Nat) (v : Word) : Lane :=
  let n : Axis := ⟨(a - AXS_STS 0) / 0x1000 % 16, Nat.mod_lt _ (by decide)⟩
  if a = AXS_EN n then (if bit v.toNat 0 then axisEnable l now n else axisDisable l n)
  else if a = AXS_MOD n then modCommit l n v.toNat
  else if a = AXS_OCMD n then ocmdCommit l now n v.toNat
  else if a = AXS_CMD n then cmdCommit l n v.toNat
  else takeFields l a v

/-- Committed fields of the LPE window (R211, R217). -/
def lpeCommit (l : Lane) (now a : Nat) (v : Word) : Lane :=
  if LPE_SCFG 0 ≤ a then
    let k : Slot := ⟨(a - LPE_SCFG 0) / 0x40 % 256, Nat.mod_lt _ (by decide)⟩
    if a = LPE_SP k then spCommit l k v
    else if a = LPE_MODE k then lpeModeCommit l k v.toNat
    else takeFields l a v
  else injectCommit l now ⟨(a - LPE_ICFG 0) / 0x20 % 4, Nat.mod_lt _ (by decide)⟩ (bit v.toNat 24)

/-- Committed fields of the SHR window; a heave entry is complete with the last of its words in the buffer (R237, R258). -/
def shrCommit (rest : List (Nat × Word)) (l : Lane) (a : Nat) (v : Word) : Lane :=
  if a = SHR_BCMD then chopClear l (v.toNat % 256)
  else
    let l := takeFields l a v
    let o := a - SHR_HVE_TLO 0 0
    if SHR_HVE_TLO 0 0 ≤ a ∧ a < SHR_HVE_TLO 15 7 + 16 ∧ ¬ (rest.any fun e => e.1 / 16 = a / 16) then
      heaveEntry l ⟨o / 0x100 % 16, Nat.mod_lt _ (by decide)⟩ (o % 0x100 / 0x10)
    else l

/-- Committed fields of the FBK window (R305 to R311, R314): what one instant commits to a compare takes effect together. -/
def fbkCommit (l : Lane) (now a : Nat) (v : Word) : Lane :=
  let e : FbkCh := ⟨(a - FBK_CFG 0) / 0x100 % 16, Nat.mod_lt _ (by decide)⟩
  let c : CmpCommit := { at_ := now, cmp := none, cmc := none, cinc := none }
  fbkSummary (
    if a = FBK_CMP e then compareCommit l e { c with cmp := some v }
    else if a = FBK_CMC e then compareCommit l e { c with cmc := some v }
    else if a = FBK_CINC e then compareCommit l e { c with cinc := some v }
    else if a = FBK_POUT e then pulseCommit l now e v
    else if a = FBK_CCMD e then
      let l := if bit v.toNat 0 then chanClear l e else l
      if bit v.toNat 1 then probeArm l now e else l
    else takeFields l a v)

/-- Committed fields of the FIO window (R321, R326, R328, R334). -/
def fioCommit (l : Lane) (now a : Nat) (v : Word) : Lane :=
  if a = FIO_CMD then srelLane l (v.toNat % 4)
  else if a = FIO_OCLR then oclrLane l v.toNat
  else if a = FIO_CCMD then counterClear l now (v.toNat % 65536)
  else takeFields l a v

/-- One entry of a buffer takes effect (R106); `whole` is the buffer and `rest` what follows the entry in it. -/
def applyEntry (key : Bool) (now : Nat) (whole rest : List (Nat × Word)) (l : Lane) (a : Nat) (v : Word) : Lane :=
  if doutKey 0 ≤ a then doutCommit l ⟨(a - doutKey 0) % 32, Nat.mod_lt _ (by decide)⟩ (bit v.toNat 0)
  else if writeReserved a v.toNat then stk l SYS_STK_RSVWR
  else
    match blockOf a with
    | 0x02 => itemCommit l now (bitsOf v.toNat 8 2) (v.setWidth 8)
    | 0x03 => axsCommit l now a v
    | 0x06 => lpeCommit l now a v
    | 0x07 => shrCommit rest l a v
    | 0x08 => rediscoverLane l ⟨v.toNat % 32, Nat.mod_lt _ (by decide)⟩
    | 0x09 => fbkCommit l now a v
    | 0x0A => fioCommit l now a v
    | 0x0B => denCommit l now ⟨(a - CAN_STS 0) / 0x4000 % 4, Nat.mod_lt _ (by decide)⟩ (v.toNat % 256)
    | 0x0D => if bit v.toNat 0 then safeClear key l else l
    | 0x0F => if bit v.toNat 0 then ask l (.handover 3) else l
    | 0x10 => if a = CRD_CMD then cordIssue now l (v.toNat % 16) ((bufFind whole CRD_CARG).getD (rget l CRD_CARG)) else takeFields l a v
    | 0x11 =>
      if a = BST_CMD then ask l (if bit v.toNat 3 then .rnow else .bist (v.toNat % 4) (bit v.toNat 2)) else takeFields l a v
    | _ => takeFields l a v

/-- A buffer takes effect in program order (R106). -/
def applyBuf (key : Bool) (now : Nat) (whole : List (Nat × Word)) : List (Nat × Word) → Lane → Lane
  | [], l => l
  | e :: rest, l => applyBuf key now whole rest (applyEntry key now whole rest l e.1 e.2)

/-- The commit buffer of a task takes effect and is empty. -/
def takeBuffer (key : Bool) (now : Nat) (l : Lane) (c : Fin 4) (k : Fin 16) : Lane :=
  let b := (taskOf l c k).buf
  let l := applyBuf key now b b l
  putTask l c k { taskOf l c k with buf := [] }

/-- A store to a committed field enters the buffer of the core's task (R59, R105): a later store to the same field replaces its entry,
and a 65th entry is discarded. Answers whether it was taken. -/
def bufferStore (l : Lane) (c : Fin 4) (a : Nat) (v : Word) : Lane × Bool :=
  let t := curTask l c
  if t.buf.any fun e => e.1 = a then
    (putCur l c { t with buf := t.buf.map fun e => if e.1 = a then (a, v) else e }, true)
  else if 64 ≤ t.buf.length then (stk l ADM_STK_CBFULL, false)
  else (putCur l c { t with buf := t.buf ++ [(a, v)] }, true)

/-- What a committed write brings beyond the lanes: permits resume where S6 has ended (R419), and all requests are carried out. -/
def afterCommit (old s : State) : State :=
  let ended (x y : Lane) : Bool := x.safe && !(y.safe)
  settle (if ended old.la s.la || ended old.lb s.lb then resumePermits s else s)

/-! ## The commit instant (R85, R106 to R108) -/

/-- Core and number of a task index (R86). -/
def tixCore (t : TaskIx) : Fin 4 := ⟨t.1 / 16, by omega⟩
def tixTask (t : TaskIx) : Fin 16 := ⟨t.1 % 16, Nat.mod_lt _ (by decide)⟩

/-- The commit instant of a task's latest job (R85): of a T0 task by AXS_TPn.TP in force; a background task has none. -/
def commitDue (t : TaskIx) (l : Lane) : Option Nat :=
  let x := taskOf l (tixCore t) (tixTask t)
  let p := if fget l (ADM_TCFG_CLASS t.1) = 0 then tpOf l (fget l (ADM_TCFG_AXIS t.1)) else periodTicks l t.1
  if x.act && !(isBg l (tixCore t) (tixTask t)) then some (x.relNow + commitAfter l t.1 p) else none

/-- A task overruns (R107, R108): nothing is committed; the task and, for a T0 task, its axis count it. -/
def taskOverrun (l : Lane) (now : Nat) (t : TaskIx) : Lane :=
  let c := tixCore t
  let k := tixTask t
  let l := putTask l c k { taskOf l c k with buf := [], ovrun := true }
  let l := fcount (stkLate l ADM_STK_TOVR) (ADM_TOVR_COUNT t.1)
  if fget l (ADM_TCFG_CLASS t.1) = 0 then axisOverrun l now ⟨fget l (ADM_TCFG_AXIS t.1) % 16, Nat.mod_lt _ (by decide)⟩
  else raiseO l now 0x74 t.1 0 0#32

/-- A lane at the commit instant of a task. -/
def commitLane (key : Bool) (now : Nat) (t : TaskIx) (l : Lane) : Lane :=
  match commitDue t l with
  | none => l
  | some d =>
    let x := taskOf l (tixCore t) (tixTask t)
    if now < d ∨ x.ovrun then l
    else if x.run = .idle then takeBuffer key now l (tixCore t) (tixTask t)
    else taskOverrun l now t

end Sys2Proof.Machine
end

