-- ==== Sys2Proof/Machine/Instants.lean ====
section
/-!
DEFINITION. The instants at which commits and other events coincide (R85, R106): the buffers due at an instant take effect in rising
priority, before a set-point latch, a hash reduction and the releases of the same instant.
-/
namespace Sys2Proof.Machine

/-! ## The buffers due at an instant (R106) -/

/-- Whether a task's commit instant has come with a buffer to take, or with a job that has not ended and not overrun yet. -/
def taskDue (now : Nat) (l : Lane) (t : TaskIx) : Bool :=
  let x := taskOf l (tixCore t) (tixTask t)
  match commitDue t l with
  | some d => decide (d ≤ now) && !x.ovrun && (decide (x.run ≠ .idle) || decide (x.buf ≠ []))
  | none => false

/-- The order in which the buffers of two tasks take effect: rising priority, and the higher core last between equal ones. -/
def commitsBefore (l : Lane) (t u : TaskIx) : Bool :=
  let p := prioKey l (tixCore t) (tixTask t)
  let q := prioKey l (tixCore u) (tixTask u)
  decide (q < p) || (decide (p = q) && decide ((tixCore t).1 < (tixCore u).1))

/-- A task takes its place among tasks in order. -/
def placeDue (l : Lane) (t : TaskIx) : List TaskIx → List TaskIx
  | [] => [t]
  | u :: us => if commitsBefore l t u then t :: u :: us else u :: placeDue l t us

/-- The tasks whose commit instant has come, in the order of R106. -/
def dueTasks (now : Nat) (l : Lane) : List TaskIx := ((allFin 64).filter (taskDue now l)).foldl (fun ts t => placeDue l t ts) []

/-- The buffers due take effect, and jobs that have not ended overrun (R106, R107). -/
def commitsLane (key : Bool) (now : Nat) (l : Lane) : Lane := (dueTasks now l).foldl (fun l t => commitLane key now t l) l

/-- The commits due in the lanes that run, and what they ask of the world outside. -/
def commitsDue (s : State) : State :=
  if [s.la, s.lb].any fun l => laneRuns l && !(dueTasks s.now l).isEmpty then
    afterCommit s (inRunning (commitsLane s.key s.now) s)
  else s

/-- COMMIT_INSTANT (R106): the buffers of jobs that have ended take effect; a job that has not ended overruns. -/
def execCommitInstant (t : TaskIx) (s : State) : Out := .next (commitsDue (tickBy (commitDue t) s))

/-! ## The instants of a period (R22, R23) -/

/-- PERIOD_START (R22, R23): the edges computed in the period before take effect at the bricks. -/
def execPeriodStart (a : Axis) (s : State) : Out :=
  let s := bricksPeriod (commitsDue (tickBy (fun l => nextStart l a) s))
  .next (settle (inRunning (periodStartLane s.now a) s))

/-- SETPOINT_LATCH (R23): 50 % of the period. -/
def execSetpointLatch (x : LatchIn) (s : State) : Out :=
  let a := x.axis
  let s := tickBy (fun l => let x := vget l.axes a
    if x.live && !x.ended then some (x.t0 + tpOf l a / 2) else none) s
  let s := commitsDue s
  .next (settle (inRunning (latchLane s.now a x.ups) s))

/-- PERIOD_END (R19, R23): the hash unit of the axis is reduced, after the commits at the period's end. -/
def execPeriodEnd (a : Axis) (s : State) : Out :=
  let runs (l : Lane) : Bool := let x := vget l.axes a; x.live && !x.ended
  let s := commitsDue (tickBy (fun l => if runs l then some ((vget l.axes a).t0 + tpOf l a) else none) s)
  if (refLane s).any runs then .next (inRunning (fun l => endPeriod l a) (unitEnd ⟨a.1, by omega⟩ s)) else .next s

/-! ## The ticks (R83) -/

/-- T1_TICK (R83): the next 1 ms boundary. -/
def execT1Tick (d : T1In) (s : State) : Out :=
  let t := nextT1 s
  let s := bricksPeriod (commitsDue { (tickTo t s) with t1At := t })
  let ports := portViews s
  let send := (List.range 4).foldl (fun m k => if h : k < 4 then (if (vget s.links ⟨k, h⟩).send then m + 2 ^ k else m) else m) 0
  let s := { s with la := tickLane t d ports send s.lb s.la, lb := tickLane t d ports send s.la s.lb }
  .next (bistShow (bootDone (sendKeep d.down (tickUnits (settle s)))))

/-- T2_RELEASE (R83): it coincides with every tenth T1 release. -/
def execT2Release (s : State) : Out :=
  let s := commitsDue s
  .next (inRunning (fun l => if l.t1n % 10 = 0 then releaseClass l s.now 2 none else l) s)

/-- T3_RELEASE (R83): it coincides with every tenth T2 release. -/
def execT3Release (s : State) : Out :=
  let s := commitsDue s
  .next (inRunning (fun l => if l.t1n % 100 = 0 then releaseClass l s.now 3 none else l) s)

end Sys2Proof.Machine
end

