-- ==== Sys2Proof/Machine/RegWrite.lean ====
section
/-!
DEFINITION. Reads and writes of the block registers (R6 to R10, R43), and the commands that write one by the program or read one over a service
port.
-/
namespace Sys2Proof.Machine

/-- The register's word as a load returns it (R7): fields marked WO read as zero; zero where no register stands (R43). -/
def regRead (l : Lane) (a : Nat) : Word :=
  match findReg a with
  | some d => rget l a &&& ~~~(BitVec.ofNat 32 (d.wo &&& (0xFFFFFFFF - d.rw)))
  | none => 0#32

/-- The bits that the hardware set, and the counting fields it advanced, in the present core cycle (R8). -/
def justDone (l : Lane) (a : Nat) : Nat := (l.cyc.at_ a).foldl (fun m e => m ||| e.mask) 0

/-- A word read in the core cycle of an event: the field as it was before the event (R8). The latest event comes first, so that
the earliest of the cycle decides. -/
def beforeEv (w : Word) (e : CycEv) : Word :=
  (w &&& ~~~(BitVec.ofNat 32 e.mask)) ||| (BitVec.ofNat 32 (e.prev &&& e.mask))

/-- A read of the count of a core's exceptions clears the part of it that ECC exceptions made (R421). -/
def eccCleared (l : Lane) (a : Nat) : Lane :=
  { l with eccN := Vector.ofFn fun (c : Fin 4) => if a = FLT_CNT (0x70 + c.1) then 0 else vget l.eccN c }

/-- A load from a register (R7): counters marked RC are cleared by it. One that counts in the same core cycle is read as it was
before the event, and restarts at 1 (R8). -/
def regLoad (l : Lane) (a : Nat) : Lane × Word :=
  match findReg a with
  | some d =>
    if d.rc = 0 then (l, regRead l a)
    else
      let es := (l.cyc.at_ a).filter fun e => decide (e.mask &&& d.rc ≠ 0)
      ({ rset (eccCleared l a) a ((rget l a &&& ~~~(BitVec.ofNat 32 d.rc)) ||| BitVec.ofNat 32 (es.foldl (fun m e => m ||| e.one) 0)) with
         cyc := l.cyc.reread a },
       es.foldl beforeEv (regRead l a))
  | none => (l, 0#32)

/-- The fields of a write that take effect at its slot (R7, R9): RW fields are set, W1C bits cleared but for those that the
hardware set in the same core cycle (R8), all others unchanged. -/
def plainWrite (l : Lane) (a : Nat) (v : Word) : Lane :=
  match findReg a with
  | some d =>
    let rw := BitVec.ofNat 32 (d.rw &&& (0xFFFFFFFF - d.com))
    rset l a ((((rget l a) &&& ~~~rw) ||| (v &&& rw)) &&&
      ~~~(v &&& BitVec.ofNat 32 d.w1c &&& ~~~(BitVec.ofNat 32 (justDone l a))))
  | none => l

/-- Whether capture is taking records (R213). -/
def capBusy (l : Lane) : Bool := let st := fget l LPE_CSTS_STATE; st = 1 || st = 2

/-- The plain fields of the LPE window: the guards of injection points that run (R211) and of a capture under way (R219). -/
def lpeWrite (l : Lane) (a : Nat) (v : Word) : Lane :=
  if a = LPE_CCTL then cctlWrite l v.toNat
  else if a = LPE_CLVL ∨ a = LPE_CPRE ∨ a = LPE_CPOST ∨ (LPE_CCH 0 ≤ a ∧ a < LPE_CCH 8) then
    (if capBusy l then l else plainWrite l a v)
  else if LPE_ICFG 0 ≤ a ∧ a < LPE_ICFG 4 then
    let p := (a - LPE_ICFG 0) / 0x20
    if a = LPE_ISTS p then l
    else if fon l (LPE_ISTS_RUN p) then
      (if a = LPE_ICFG p ∧ bitsOf v.toNat 0 24 = bitsOf (rget l a).toNat 0 24 then l else stk l LPE_STK_INJWR)
    else plainWrite l a v
  else plainWrite l a v

/-- The effect of a write at its slot: everything of it that is not committed (R7, R9, R59). -/
def slotWrite (key : Bool) (l : Lane) (a : Nat) (v : Word) : Lane :=
  if writeReserved a v.toNat then stk l SYS_STK_RSVWR
  else if a = BLK_MREQ then mreqStart l ⟨v.toNat % 32, Nat.mod_lt _ (by decide)⟩ (bitsOf v.toNat 8 8) (bitsOf v.toNat 16 16)
  else if a = CLK_MCMD then (if bit v.toNat 0 then dormWrite key l else l)
  else if a = PEAT_RSEL then peatSelect l v
  else if blockOf a = 0x06 then lpeWrite l a v
  else
    match (allFin 4).find? fun (c : Fin 4) => decide (a = SYS_CSTK c) with
    | some c =>
      let w := plainWrite l a v
      if bit v.toNat 6 then fset w (SYS_CEXC_COUNT c) (b2n (bit (justDone l a) 6)) else w
    | none => plainWrite l a v

/-- Whether the register at `a` has committed fields, and whether it has other fields that a write acts on. -/
def hasCommitted (a : Nat) : Bool := match findReg a with | some d => decide (d.com ≠ 0) | none => false
def hasPlain (a : Nat) : Bool :=
  match findReg a with | some d => decide (((d.rw ||| d.w1c ||| d.wo) &&& (0xFFFFFFFF - d.com)) ≠ 0) | none => false

/-- A store of the core's task to a register (R45, R59): plain fields take effect at the slot, committed ones enter the buffer.
A reserved encoding among the plain fields discards the write there (R10). Answers whether a committed store was taken. -/
def regStore (key : Bool) (l : Lane) (c : Fin 4) (a : Nat) (v : Word) : Lane × Bool :=
  if hasCommitted a then
    if hasPlain a then
      (if writeReserved a v.toNat then (stk l SYS_STK_RSVWR, true) else
        -- a store that finds the buffer full is discarded whole (R105)
        let q := bufferStore l c a v
        if q.2 then bufferStore (slotWrite key l a v) c a v else q)
    else bufferStore l c a v
  else (slotWrite key l a v, true)

/-- A write of the program that reaches its register (R7 to R10): a committed field acts, as at its commit instant. -/
def progWrite (key : Bool) (now : Nat) (l : Lane) (a : Nat) (v : Word) : Lane :=
  if writeReserved a v.toNat then stk l SYS_STK_RSVWR
  else
    let l := if hasPlain a || !(hasCommitted a) then slotWrite key l a v else l
    if hasCommitted a then applyEntry key now [(a, v)] [] l a v else l

/-! ## Commands -/

/-- An address as a word address of the block windows (R41, R43); `none` outside them. -/
def windowAddr (a : Word) : Option Nat :=
  if 0x40000000 ≤ a.toNat ∧ a.toNat < 0x40130000 then some (a.toNat / 4 * 4) else none

/-- REGISTER_WRITE (R7 to R10): a write of the program, in a lane that runs it. No write comes over a service port, whose classes hold none
(R437). -/
def execRegisterWrite (i : LaneId) (addr val : Word) (s : State) : Out :=
  if laneRuns (laneOf s i) then
    match windowAddr addr with
    | some a => .next (afterCommit s (modLane s i fun l => progWrite s.key s.now l a val))
    | none => .next s
  else .next s

/-- RC_READ (R7): the count is returned and cleared. -/
def execRcRead (i : LaneId) (addr : Word) (s : State) : Out :=
  if (laneOf s i).powered then
    match windowAddr addr with
    | some a => let r := regLoad (laneOf s i) a; .next { (putLane s i r.1) with svcOut := [r.2] }
    | none => .next s
  else .next s

/-- EXC_CLEAR (R82): a write of one to SYS_CSTK.EXC by the program. -/
def execExcClear (i : LaneId) (c : Fin 4) (s : State) : Out :=
  if laneRuns (laneOf s i) then .next (modLane s i fun l => slotWrite s.key l (SYS_CSTK c) 0x40#32) else .next s

end Sys2Proof.Machine
end

