-- ==== Sys2Proof/Machine/Mem.lean ====
section
/-!
DEFINITION. The address space as the cores meet it (R40 to R46): rights, alignment, crossbar slots, error correction, and the
effects of a load, a store and an atomic operation.
-/
namespace Sys2Proof.Machine

/-! ## Rights (R42) -/

/-- The regions of R40. -/
def inData (a : Nat) : Bool := decide (0x01000000 ≤ a) && decide (a < 0x01400000)
def inTable (a : Nat) : Bool := decide (0x02000000 ≤ a) && decide (a < 0x02100000)
def inQueue (a : Nat) : Bool := decide (0x03000000 ≤ a) && decide (a < 0x03100000)
def inWindow (a : Nat) : Bool := decide (0x40000000 ≤ a) && decide (a < 0x40130000)

/-- The capture area while capture is enabled (R42). -/
def inCapture (l : Lane) (a : Nat) : Bool := fon l LPE_CCTL_EN && decide (l.decl.dtop ≤ a)

/-- A transmit staging area of some port (R42, R345). -/
def inStaging (a : Nat) : Bool :=
  decide (0x03000000 ≤ a) && decide (a < 0x03020000) && decide (0x7800 ≤ a % 0x8000) && decide (a % 0x8000 < 0x7E00)

/-- A table or coefficient in use (R125, R155, R208): a sine table that an enabled axis selects, the MTPA table of an enabled axis, the
region in force and the schedule block of a slot whose stage is bound to an enabled axis, as its first slot says (R190). -/
def tableInUse (l : Lane) (a : Nat) : Bool :=
  (allFin 16).any (fun (x : Axis) => axEnabled l x &&
    ((decide (sineBase (fget l (AXS_MOD_TAB x)) ≤ a) && decide (a < sineBase (fget l (AXS_MOD_TAB x) + 1))) ||
     (decide (0x02020000 + 0x100 * x.1 ≤ a) && decide (a < 0x02020000 + 0x100 * x.1 + 132)))) ||
  (decide (0x02040000 ≤ a) && decide (a < 0x02080000) &&
    (let s : Slot := ⟨(a - 0x02040000) / 0x400 % 256, Nat.mod_lt _ (by decide)⟩
     let o := a % 0x400
     let f := stageFirst l s
     slotUsed l s && fon l (LPE_SCFG_BOUND f) && axEnabled l (fget l (LPE_SCFG_AXIS f)) &&
     (decide (o / 0x40 = (slotOf l s).reg) || (decide (0x200 ≤ o) && decide (o < 0x220)))))

/-- Whether a load of `n` bytes is permitted. -/
def mayLoad (a n : Nat) : Bool := inData a || inTable a || inQueue a || (inWindow a && decide (n = 4))

/-- Whether a store of `n` bytes is permitted. -/
def mayStore (l : Lane) (a n : Nat) : Bool :=
  (inData a && !(inCapture l a)) ||
  (inTable a && (l.decl.wr.any fun r => decide (r.1 ≤ a) && decide (a < r.2)) && !(tableInUse l a)) ||
  inStaging a || (inWindow a && decide (n = 4))

/-- Whether an atomic operation is permitted (R42, R58). -/
def mayAmo (l : Lane) (a : Nat) : Bool := inData a && !(inCapture l a)

/-! ## Slots (R44) -/

/-- The first cycle at or after `t` that core `c` owns. -/
def slotAfter (c : Fin 4) (t : Nat) : Nat := t + (c.1 + 4 - t % 4) % 4

/-- The cycle at which an instruction of the stated cost has issued, and its slot. -/
def issuedAt (l : Lane) (c : Fin 4) (cost : Nat) : Nat := (coreOf l c).cyc - cost - idleCycles l c
def memSlot (l : Lane) (c : Fin 4) (cost : Nat) : Nat := slotAfter c (issuedAt l c cost)

/-- The core waits for its slot, in whose core cycle the access takes effect (R8, R44). -/
def waitSlot (l : Lane) (c : Fin 4) (cost : Nat) : Lane :=
  atCycle (memSlot l c cost) (setCyc l c (memSlot l c cost + cost + idleCycles l c))

/-- A loaded word goes to `rd`, written `lat` cycles after the slot (R44); the instruction is done. -/
def land (l : Lane) (c : Fin 4) (slot lat : Nat) (rd : RegNo) (v : Word) : Lane :=
  let l := putCur l c (nextPc (setW (curTask l c) rd v))
  if rd = 0#5 then l
  else let x := coreOf l c; putCore l c { x with avail := vset x.avail rd.toFin (slot + lat) }

/-! ## Error correction (R46) -/

/-- An access reads the word at `a`: a single-bit error is corrected and costs a replay; `none` for a double-bit error. -/
def eccRead (l : Lane) (c : Fin 4) (a : Nat) (up : Ecc) : Option (Lane × Nat) :=
  match eccAt l a up with
  | .none => some (l, 0)
  | .single => some (eccReplay (eccSet l a .none) c, 16)
  | .double => none

/-- What is taken from a word in memory: `n` bytes at `a` as an unsigned number (R43). -/
def memPart (l : Lane) (a n : Nat) : Nat := bitsOf (mget32 l (a / 4 * 4)).toNat (8 * (a % 4)) (8 * n)

/-- The word at `a` with `n` of its bytes replaced by the low bytes of `v`. -/
def memMerge (l : Lane) (a n : Nat) (v : Word) : Lane :=
  mset32 l (a / 4 * 4) (wordOf (setBits (mget32 l (a / 4 * 4)).toNat (8 * (a % 4)) (8 * n) (v.toNat % 2 ^ (8 * n))))

/-! ## Effects -/

/-- A load of `n` bytes (R42 to R46, R57); `conv` extends what was read. -/
def loadEff (i : Issue) (rd : RegNo) (a n : Nat) (conv : Nat → Word) (up : Ecc) (l0 : Lane) : Eff :=
  let c := i.core
  let slot := memSlot l0 c 1
  let l := waitSlot l0 c 1
  if !(mayLoad a n) then .exc l0 excAddr a (issuedAt l0 c 1 + 1)
  else if a % n ≠ 0 then .exc l0 excAlign a (issuedAt l0 c 1 + 1)
  else if inWindow a then let r := regLoad l a; .ok (land r.1 c slot 8 rd r.2)
  else
    match eccRead l c a up with
    | none => .exc (eccSet l a .double) excEcc a (slot + 2)
    | some (l, pen) => .ok (land l c slot (2 + pen) rd (conv (memPart l a n)))

/-- A store of the low `n` bytes of `v` (R42 to R46, R57, R59). The store fold takes it in (R19). -/
def storeEff (i : Issue) (key : Bool) (a n : Nat) (v : Word) (up : Ecc) (l0 : Lane) : Eff :=
  let c := i.core
  let slot := memSlot l0 c 1
  let l := waitSlot l0 c 1
  let done (l : Lane) : Eff := .ok (putCur l c (nextPc (curTask l c)))
  let d := wordOf (v.toNat % 2 ^ (8 * n))
  if !(mayStore l a n) then .exc l0 excAddr a (issuedAt l0 c 1 + 1)
  else if a % n ≠ 0 then .exc l0 excAlign a (issuedAt l0 c 1 + 1)
  else if inWindow a then let r := regStore key l c a v; done (if r.2 then foldStore r.1 c a d else r.1)
  else if n = 4 then done (foldStore (mset32 (eccSet l a .none) a v) c a d)
  else
    match eccRead l c a up with
    | none => .exc (eccSet l a .double) excEcc a (slot + 2)
    | some (l, _) => done (foldStore (memMerge l a n v) c a d)

/-- An atomic operation on the word at `a` (R58): `f` gives the new word from the old one. -/
def amoEff (i : Issue) (rd : RegNo) (a : Nat) (f : Word → Word) (up : Ecc) (l0 : Lane) : Eff :=
  let c := i.core
  let slot := memSlot l0 c 2
  let l := waitSlot l0 c 2
  if !(mayAmo l a) then .exc l0 excAddr a (issuedAt l0 c 2 + 1)
  else if a % 4 ≠ 0 then .exc l0 excAlign a (issuedAt l0 c 2 + 1)
  else
    match eccRead l c a up with
    | none => .exc (eccSet l a .double) excEcc a (slot + 2)
    | some (l, pen) =>
      let old := mget32 l a
      .ok (land (foldStore (mset32 l a (f old)) c a (f old)) c slot (2 + pen) rd old)

/-- The retry of a crossbar transfer that failed its parity check (R46): one frame of four cycles later, with XBREP; the self-check
record notes it (R435). -/
def crossbarRetryLane (c : Fin 4) (l : Lane) : Lane :=
  let x := coreOf l c
  let x := { x with cyc := x.cyc + 4, avail := x.avail.map fun t => if x.cyc ≤ t then t + 4 else t }
  chkFail (stk (putCore l c x) (SYS_CSTK_XBREP c))

end Sys2Proof.Machine
end

