-- ==== Sys2Proof/Machine/MemInstr.lean ====
section
/-!
DEFINITION. The memory instructions (R57, R58): loads, stores, indexed forms and atomic operations, and the crossbar's retry (R46).
-/
namespace Sys2Proof.Machine

/-- The address of an I form: ra plus the sign-extended immediate (R57). -/
def immAddr (t : TaskCtx) (ra : RegNo) (imm : BitVec 12) : Nat := (getW t ra + sext12 imm).toNat

/-- The address of an indexed form: ra plus rb shifted left by fn[1:0] (R57). -/
def idxAddr (t : TaskCtx) (ra rb : RegNo) (fn : BitVec 7) : Nat := (getW t ra + (getW t rb <<< (fn.toNat % 4))).toNat

/-- Extensions of what a load reads. -/
def extW (v : Nat) : Word := wordOf v
def extH (v : Nat) : Word := (BitVec.ofNat 16 v).signExtend 32
def extB (v : Nat) : Word := (BitVec.ofNat 8 v).signExtend 32

/-- A load in the I form. -/
def loadImm (i : Issue) (rd ra : RegNo) (imm : BitVec 12) (n : Nat) (conv : Nat → Word) (up : Ecc) (s : State) : Out :=
  .next (issueG i s false 1 [ra] (skipNext i.core) fun l => loadEff i rd (immAddr (curTask l i.core) ra imm) n conv up l)

/-- A store in the I form. -/
def storeImm (i : Issue) (rs ra : RegNo) (imm : BitVec 12) (n : Nat) (up : Ecc) (s : State) : Out :=
  .next (issueG i s false 1 [rs, ra] (skipNext i.core) fun l =>
    let t := curTask l i.core
    storeEff i s.key (immAddr t ra imm) n (getW t rs) up l)

/-- LD: a word. -/
def execLd (i : Issue) (rd ra : RegNo) (imm : BitVec 12) (up : Ecc) (s : State) : Out := loadImm i rd ra imm 4 extW up s
/-- LDH: a halfword, sign-extended. -/
def execLdh (i : Issue) (rd ra : RegNo) (imm : BitVec 12) (up : Ecc) (s : State) : Out := loadImm i rd ra imm 2 extH up s
/-- LDHU: a halfword, zero-extended. -/
def execLdhu (i : Issue) (rd ra : RegNo) (imm : BitVec 12) (up : Ecc) (s : State) : Out := loadImm i rd ra imm 2 extW up s
/-- LDB: a byte, sign-extended. -/
def execLdb (i : Issue) (rd ra : RegNo) (imm : BitVec 12) (up : Ecc) (s : State) : Out := loadImm i rd ra imm 1 extB up s
/-- LDBU: a byte, zero-extended. -/
def execLdbu (i : Issue) (rd ra : RegNo) (imm : BitVec 12) (up : Ecc) (s : State) : Out := loadImm i rd ra imm 1 extW up s

/-- ST: a word. -/
def execSt (i : Issue) (rs ra : RegNo) (imm : BitVec 12) (up : Ecc) (s : State) : Out := storeImm i rs ra imm 4 up s
/-- STH: a halfword. -/
def execSth (i : Issue) (rs ra : RegNo) (imm : BitVec 12) (up : Ecc) (s : State) : Out := storeImm i rs ra imm 2 up s
/-- STB: a byte. -/
def execStb (i : Issue) (rs ra : RegNo) (imm : BitVec 12) (up : Ecc) (s : State) : Out := storeImm i rs ra imm 1 up s

/-- Whether an indexed form's fn is reserved (R57): fn[6:4] not zero, or STX with size code 0b11. -/
def idxIll (fn : BitVec 7) (store : Bool) : Bool := decide (fn.toNat / 16 ≠ 0) || (store && decide (fn.toNat / 4 % 4 = 3))

/-- LDX: the size and extension by fn[3:2]. -/
def execLdx (i : Issue) (rd ra rb : RegNo) (fn : BitVec 7) (up : Ecc) (s : State) : Out :=
  .next (issueG i s (idxIll fn false) 1 [ra, rb] (skipNext i.core) fun l =>
    let a := idxAddr (curTask l i.core) ra rb fn
    match fn.toNat / 4 % 4 with
    | 0 => loadEff i rd a 4 extW up l
    | 1 => loadEff i rd a 2 extH up l
    | 2 => loadEff i rd a 2 extW up l
    | _ => loadEff i rd a 1 extW up l)

/-- STX: the size by fn[3:2]. -/
def execStx (i : Issue) (rs ra rb : RegNo) (fn : BitVec 7) (up : Ecc) (s : State) : Out :=
  .next (issueG i s (idxIll fn true) 1 [rs, ra, rb] (skipNext i.core) fun l =>
    let t := curTask l i.core
    let a := idxAddr t ra rb fn
    match fn.toNat / 4 % 4 with
    | 0 => storeEff i s.key a 4 (getW t rs) up l
    | 1 => storeEff i s.key a 2 (getW t rs) up l
    | _ => storeEff i s.key a 1 (getW t rs) up l)

/-- CROSSBAR_RETRY (R46). -/
def execCrossbarRetry (lane : LaneId) (core : Fin 4) (s : State) : Out :=
  if laneRuns (laneOf s lane) then .next (modLane s lane (crossbarRetryLane core)) else .next s

/-- An atomic operation (R58): `f` from the old word and rb. -/
def amo (i : Issue) (rd ra rb : RegNo) (f : Word → Word → Word) (up : Ecc) (s : State) : Out :=
  .next (issueG i s false 2 [ra, rb] (skipNext i.core) fun l =>
    let t := curTask l i.core
    amoEff i rd (getW t ra).toNat (fun old => f old (getW t rb)) up l)

/-- AMOSWP: the new word is rb. -/
def execAmoswp (i : Issue) (rd ra rb : RegNo) (up : Ecc) (s : State) : Out := amo i rd ra rb (fun _ b => b) up s
/-- AMOADD: old + rb. -/
def execAmoadd (i : Issue) (rd ra rb : RegNo) (up : Ecc) (s : State) : Out := amo i rd ra rb (fun o b => o + b) up s
/-- AMOAND: old AND rb. -/
def execAmoand (i : Issue) (rd ra rb : RegNo) (up : Ecc) (s : State) : Out := amo i rd ra rb (fun o b => o &&& b) up s
/-- AMOOR: old OR rb. -/
def execAmoor (i : Issue) (rd ra rb : RegNo) (up : Ecc) (s : State) : Out := amo i rd ra rb (fun o b => o ||| b) up s
/-- AMOMAX: the signed maximum of old and rb. -/
def execAmomax (i : Issue) (rd ra rb : RegNo) (up : Ecc) (s : State) : Out := amo i rd ra rb (fun o b => if o.slt b then b else o) up s

end Sys2Proof.Machine
end

