-- ==== Sys2Proof/Machine/TaskInstr.lean ====
section
/-!
DEFINITION. Engine operations and tags (R68 to R71), the task, fault and sticky instructions (R72 to R75), the CAN and field-I/O
groups (R76, R77, R322) and MFS (R78).
-/
namespace Sys2Proof.Machine

/-- An instruction whose effect may ask something of the world outside the lane. -/
def issueS (i : Issue) (s : State) (ill : Bool) (cost : Nat) (srcs : List RegNo) (eff : Lane → Eff) : Out :=
  .next (afterCommit s (issueG i s ill cost srcs (skipNext i.core) eff))

/-! ## Tags (R68 to R70) -/

/-- The lowest-numbered free tag (R69). -/
def freeTag (l : Lane) : Option (Fin 64) := (allFin 64).find? fun (g : Fin 64) => decide (vget l.tags g = .free)

/-- POST (R68, R69): the lowest free tag is taken and the operation waits for the engine, its inputs taken now (R192). More tags than
the task declares raise TAGX. -/
def post (i : Issue) (rd ra : RegNo) (kind : OpKind) (k : Slot) (s : State) : Out :=
  .next (issueG i s false 2 [ra] (skipNext i.core) fun l =>
    let c := i.core
    let t := (coreOf l c).cur
    let x := curTask l c
    let exc : Eff := .exc l excTagX 0 ((coreOf l c).cyc - 1)
    if fget l (ADM_TCFG_TAGS (tix c t)) < tagCount l c t + 1 then exc
    else
      match freeTag l with
      | none => exc
      | some g =>
        let l := { l with
          tags := vset l.tags g (.busy c t kind k (getW x ra) false)
          engq := l.engq ++ [{ tag := g, inp := takeIn l k }] }
        .ok (putCur l c (nextPc (setW x rd (wordOf g.1)))))

/-- POST RUN: the stage takes the BF32 word in ra as its input. -/
def execPostRun (i : Issue) (rd ra : RegNo) (k : Slot) (s : State) : Out := post i rd ra .run k s
/-- POST RUNC: the stage takes its configured input. -/
def execPostRunc (i : Issue) (rd : RegNo) (k : Slot) (s : State) : Out := post i rd 0#5 .runc k s
/-- POST PRESET: the output the slot is to hold at transfer. -/
def execPostPreset (i : Issue) (rd ra : RegNo) (k : Slot) (s : State) : Out := post i rd ra .preset k s
/-- POST REGION: the gain region in ra[2:0]. -/
def execPostRegion (i : Issue) (rd ra : RegNo) (k : Slot) (s : State) : Out := post i rd ra .region k s
/-- POST READ: the state word with index ra[1:0]. -/
def execPostRead (i : Issue) (rd ra : RegNo) (k : Slot) (s : State) : Out := post i rd ra .read k s

/-- The tag a register names when the core's task holds it (R70). -/
def heldTag (l : Lane) (c : Fin 4) (w : Word) : Option (Fin 64) :=
  if h : w.toNat < 64 then
    (if tagHeld c (coreOf l c).cur (vget l.tags ⟨w.toNat, h⟩) then some ⟨w.toNat, h⟩ else none)
  else none

/-- WAITT (R70): the result word is taken and the tag returned; while the operation runs the task waits. -/
def execWaitt (i : Issue) (rd ra : RegNo) (s : State) : Out :=
  .next (issueG i s false 1 [ra] (skipNext i.core) fun l =>
    let c := i.core
    let x := curTask l c
    match heldTag l c (getW x ra) with
    | none => .exc l excTagW 0 (coreOf l c).cyc
    | some g =>
      match vget l.tags g with
      | .done _ _ r => .ok (putCur { l with tags := vset l.tags g .free } c (nextPc (setW x rd r)))
      | _ => .ok (dispatch (putCur l c { x with run := .waitTag rd g }) s.now c))

/-- TESTT (R70): whether the operation has completed. -/
def execTestt (i : Issue) (pd : PredNo) (ra : RegNo) (s : State) : Out :=
  .next (issueG i s false 1 [ra] (skipNext i.core) fun l =>
    let c := i.core
    let x := curTask l c
    match heldTag l c (getW x ra) with
    | none => .exc l excTagW 0 (coreOf l c).cyc
    | some g =>
      let ready := match vget l.tags g with | .done _ _ _ => true | _ => false
      .ok (putCur l c (nextPc (setP x pd ready))))

/-! ## Task, fault and sticky instructions (R72 to R75) -/

/-- WTICK (R72, R106): the job ends. A background job's buffer takes effect now, and its task is released again at once. -/
def execWtick (i : Issue) (s : State) : Out :=
  issueS i s false 1 [] fun l =>
    let c := i.core
    let k := (coreOf l c).cur
    if isBg l c k then
      let l := endJob (takeBuffer s.key s.now l c k) c k false
      .ok (dispatch (releaseTask (nextTurn l c k) s.now (max (coreOf l c).cyc (cycleOf s.now)) c k) s.now c)
    else .ok (dispatch (endJob l c k true) s.now c)

/-- WEVT (R73, R423): the lowest pending source of the task is taken and acknowledged; with none the task waits. -/
def execWevt (i : Issue) (rd : RegNo) (s : State) : Out :=
  .next (issueG i s false 1 [] (skipNext i.core) fun l =>
    let c := i.core
    let k := (coreOf l c).cur
    let l := putCur l c { curTask l c with run := .waitEvt rd }
    .ok (dispatch (if (wakePending l (tix c k)).isSome then resumeTask (nextTurn l c k) c k else nextTurn l c k) s.now c))

/-- RAISE (R74): program fault source PFf with ra as context word 0. -/
def execRaise (i : Issue) (ra : RegNo) (f : BitVec 5) (s : State) : Out :=
  issueS i s false 2 [ra] fun l =>
    let x := curTask l i.core
    .ok (raise (putCur l i.core (nextPc x)) s.now f.toNat (getW x ra) 0#32)

/-- RSTK (R75): a block's STK register is read and the bits that are one in ra are cleared, in one step. -/
def execRstk (i : Issue) (rd ra : RegNo) (b : BitVec 5) (s : State) : Out :=
  .next (issueG i s (decide (0x13 ≤ b.toNat)) 6 [ra] (skipNext i.core) fun l =>
    let a := 0x40000004 + 0x10000 * b.toNat
    let x := curTask l i.core
    let v := regRead l a
    .ok (putCur (plainWrite l a (getW x ra)) i.core (nextPc (setW x rd v))))

/-! ## The CAN group (R76) -/

/-- A CAN instruction: `f` on the port that rb names; with rb[31:3] not zero it has no effect and returns all ones. -/
def canIssue (i : Issue) (cost : Nat) (rd ra rb : RegNo) (f : Lane → CanPort → Word → Word → Lane × Word) (s : State) : Out :=
  issueS i s false cost [ra, rb] fun l =>
    let x := curTask l i.core
    let b := getW x rb
    if b.toNat / 8 ≠ 0 then .ok (putCur l i.core (nextPc (setW x rd 0xFFFFFFFF#32)))
    else
      let r := f l ⟨b.toNat % 4, Nat.mod_lt _ (by decide)⟩ (getW x ra) b
      .ok (putCur r.1 i.core (nextPc (setW x rd r.2)))

/-- CTXQ: the frame whose descriptor is at ra is queued. -/
def execCtxq (i : Issue) (rd ra rb : RegNo) (s : State) : Out :=
  canIssue i 4 rd ra rb (fun l p a _ => queueTx l s.now p a.toNat) s
/-- CTXD: the frame at ra is placed in a deadline slot. -/
def execCtxd (i : Issue) (rd ra rb : RegNo) (s : State) : Out :=
  canIssue i 4 rd ra rb (fun l p a _ => deadlineTx l s.now p a.toNat) s
/-- CCAN: deadline slot ra[2:0] is cancelled. -/
def execCcan (i : Issue) (rd ra rb : RegNo) (s : State) : Out :=
  canIssue i 4 rd ra rb (fun l p a _ => cancelTx l p ⟨a.toNat % 8, Nat.mod_lt _ (by decide)⟩) s
/-- CRX: the oldest unowned entry of queue rb[2]. -/
def execCrx (i : Issue) (rd rb : RegNo) (s : State) : Out :=
  canIssue i 3 rd 0#5 rb (fun l p _ b => takeEntry l p (b.toNat / 4)) s
/-- CACK: the entry at ra is returned. -/
def execCack (i : Issue) (ra : RegNo) (s : State) : Out :=
  issueS i s false 2 [ra] fun l =>
    let x := curTask l i.core
    .ok (putCur (ackEntry l (getW x ra).toNat) i.core (nextPc x))

/-! ## The field-I/O group (R77, R322) -/

/-- An instruction that gives rd a value of the lane. -/
def issueVal (i : Issue) (s : State) (cost : Nat) (srcs : List RegNo) (rd : RegNo) (f : Lane → Lane × Word) : Out :=
  .next (issueG i s false cost srcs (skipNext i.core) fun l =>
    let r := f l
    .ok (putCur r.1 i.core (nextPc (setW (curTask r.1 i.core) rd r.2))))

/-- DIN0: the states of DI0 to DI31. -/
def execDin0 (i : Issue) (rd : RegNo) (s : State) : Out := issueVal i s 2 [] rd fun l => (l, l.di.setWidth 32)
/-- DIN1: the states of DI32 to DI63. -/
def execDin1 (i : Issue) (rd : RegNo) (s : State) : Out := issueVal i s 2 [] rd fun l => (l, (l.di >>> 32).setWidth 32)

/-- DSTAL: the age of each cartridge's data in field frames. -/
def execDstal (i : Issue) (rd : RegNo) (s : State) : Out :=
  issueVal i s 2 [] rd fun l =>
    let a := vget l.fage 0
    let b := vget l.fage 1
    (l, wordOf (b2n (decide (a ≠ 0)) + 2 * b2n (decide (b ≠ 0)) + 256 * satNat 255 a + 65536 * satNat 255 b))

/-- DOUT: for each bit set in rb, the output takes ra's bit, committed (R59, R105). Of a mask with more outputs than the
buffer has free entries, those that fit stay (DESIGN CHOICE, see the assumption log). -/
def execDout (i : Issue) (ra rb : RegNo) (s : State) : Out :=
  .next (issueG i s false 2 [ra, rb] (skipNext i.core) fun l =>
    let c := i.core
    let v := (getW (curTask l c) ra).toNat
    let m := (getW (curTask l c) rb).toNat
    let l := (List.range 32).foldl (fun (l : Lane) n =>
      if bit m n then (bufferStore l c (doutKey n) (wordOf (b2n (bit v n)))).1 else l) l
    .ok (putCur l c (nextPc (curTask l c))))

/-- DORB: the readback of the outputs. -/
def execDorb (i : Issue) (rd : RegNo) (s : State) : Out :=
  issueVal i s 2 [] rd fun l =>
    (l, wordOf ((List.range 32).foldl (fun m n => if fon l (FIO_OSTS_RB n) then m + 2 ^ n else m) 0))

/-- The counter of the input that a register names, in count mode (R77, R322). -/
def counterNamed (l : Lane) (w : Word) : Option (Fin 64 × Nat) :=
  if h : w.toNat < 64 then
    (if fget l (FIO_ICFG_MODE w.toNat) = 4 then (counterOf w.toNat).map fun k => (⟨w.toNat, h⟩, k) else none)
  else none

/-- CNT and FREQ: an input without a counter function gives zero and FIOARG. -/
def counterIssue (i : Issue) (rd ra : RegNo) (f : Lane → Fin 64 → Nat → Lane × Word) (s : State) : Out :=
  issueVal i s 3 [ra] rd fun l =>
    match counterNamed l (getW (curTask l i.core) ra) with
    | some (n, k) => f l n k
    | none => (stk l (SYS_CSTK_FIOARG i.core), 0#32)

/-- CNT: the count at the latest consumption. -/
def execCnt (i : Issue) (rd ra : RegNo) (s : State) : Out := counterIssue i rd ra (fun l _ k => (l, rget l (FIO_CNT k))) s

/-- FREQ: the frequency in Hz as Q16.16, saturating with FSAT. -/
def execFreq (i : Issue) (rd ra : RegNo) (s : State) : Out :=
  counterIssue i rd ra (fun l n _ =>
    let q := rround ((vget l.ins n).freq * 65536)
    if 0x7FFFFFFF < q then (stk l FIO_STK_FSAT, 0x7FFFFFFF#32) else (l, wordOf q.toNat)) s

/-! ## Special registers (R78) -/

/-- The value of special register `n`; `none` for a reserved number. -/
def specialReg (l : Lane) (c : Fin 4) (n : Nat) : Option Word :=
  let k := (coreOf l c).cur
  let t := curTask l c
  let m := tix c k
  let t0 := decide (fget l (ADM_TCFG_CLASS m) = 0)
  let a : Axis := ⟨fget l (ADM_TCFG_AXIS m) % 16, Nat.mod_lt _ (by decide)⟩
  let cyc := issuedAt l c 1
  match n with
  | 0 => some (wordOf c.1)
  | 1 => some (wordOf k.1)
  | 2 => some (if t0 then wordOf a.1 else 0xFFFFFFFF#32)
  | 3 => some (wordOf t.jobs)
  | 4 => some (wordOf (cyc - t.relC))
  | 5 => some (wordOf (t.relSh % 2 ^ 32))
  | 6 => some (wordOf (t.relSh / 2 ^ 32))
  | 7 => some (if t0 then wordOf (32 * cyc / 5 - (vget l.axes a).t0) else 0#32)
  | 8 => some (wordOf (tagCount l c k))
  | 9 => some (wordOf t.loops.length)
  | 10 => some (wordOf t.calls.length)
  | _ => none

/-- MFS (R78); a reserved number is a word R51 refuses. -/
def execMfs (i : Issue) (rd : RegNo) (n : BitVec 12) (s : State) : Out :=
  .next (issueG i s (decide (10 < n.toNat)) 1 [] (skipNext i.core) fun l =>
    match specialReg l i.core n.toNat with
    | some v => .ok (putCur l i.core (nextPc (setW (curTask l i.core) rd v)))
    | none => .exc l excIll 0 (coreOf l i.core).cyc)

end Sys2Proof.Machine
end

