-- ==== Sys2Proof/Machine/Dispatch.lean ====
section
/-!
DEFINITION. One arm for each command of spec/opcode_table.json: a call of its meaning.
-/
namespace Sys2Proof.Machine

/-- The effect of a command on everything but the queue. -/
def exec (i : Instr) (s : State) : Host.Outcome State Fault Refusal :=
  match i with
  | .add u rd ra rb => Sys2Proof.Machine.execAdd u rd ra rb s
  | .sub u rd ra rb => Sys2Proof.Machine.execSub u rd ra rb s
  | .and u rd ra rb => Sys2Proof.Machine.execAnd u rd ra rb s
  | .or u rd ra rb => Sys2Proof.Machine.execOr u rd ra rb s
  | .xor u rd ra rb => Sys2Proof.Machine.execXor u rd ra rb s
  | .andn u rd ra rb => Sys2Proof.Machine.execAndn u rd ra rb s
  | .shl u rd ra rb => Sys2Proof.Machine.execShl u rd ra rb s
  | .shr u rd ra rb => Sys2Proof.Machine.execShr u rd ra rb s
  | .sar u rd ra rb => Sys2Proof.Machine.execSar u rd ra rb s
  | .ror u rd ra rb => Sys2Proof.Machine.execRor u rd ra rb s
  | .min u rd ra rb => Sys2Proof.Machine.execMin u rd ra rb s
  | .max u rd ra rb => Sys2Proof.Machine.execMax u rd ra rb s
  | .minu u rd ra rb => Sys2Proof.Machine.execMinu u rd ra rb s
  | .maxu u rd ra rb => Sys2Proof.Machine.execMaxu u rd ra rb s
  | .sadd u rd ra rb => Sys2Proof.Machine.execSadd u rd ra rb s
  | .ssub u rd ra rb => Sys2Proof.Machine.execSsub u rd ra rb s
  | .mul u rd ra rb => Sys2Proof.Machine.execMul u rd ra rb s
  | .mulhs u rd ra rb => Sys2Proof.Machine.execMulhs u rd ra rb s
  | .mulhu u rd ra rb => Sys2Proof.Machine.execMulhu u rd ra rb s
  | .mulq u rd ra rb => Sys2Proof.Machine.execMulq u rd ra rb s
  | .div u rd ra rb => Sys2Proof.Machine.execDiv u rd ra rb s
  | .divu u rd ra rb => Sys2Proof.Machine.execDivu u rd ra rb s
  | .rem u rd ra rb => Sys2Proof.Machine.execRem u rd ra rb s
  | .remu u rd ra rb => Sys2Proof.Machine.execRemu u rd ra rb s
  | .clz u rd ra => Sys2Proof.Machine.execClz u rd ra s
  | .abs u rd ra => Sys2Proof.Machine.execAbs u rd ra s
  | .sextb u rd ra => Sys2Proof.Machine.execSextb u rd ra s
  | .sexth u rd ra => Sys2Proof.Machine.execSexth u rd ra s
  | .addi u rd ra imm => Sys2Proof.Machine.execAddi u rd ra imm s
  | .andi u rd ra imm => Sys2Proof.Machine.execAndi u rd ra imm s
  | .ori u rd ra imm => Sys2Proof.Machine.execOri u rd ra imm s
  | .xori u rd ra imm => Sys2Proof.Machine.execXori u rd ra imm s
  | .shli u rd ra amt => Sys2Proof.Machine.execShli u rd ra amt s
  | .shri u rd ra amt => Sys2Proof.Machine.execShri u rd ra amt s
  | .sari u rd ra amt => Sys2Proof.Machine.execSari u rd ra amt s
  | .rori u rd ra amt => Sys2Proof.Machine.execRori u rd ra amt s
  | .muli u rd ra imm => Sys2Proof.Machine.execMuli u rd ra imm s
  | .movl u rd imm => Sys2Proof.Machine.execMovl u rd imm s
  | .movh u rd imm => Sys2Proof.Machine.execMovh u rd imm s
  | .cmp u pd cm ra rb fn => Sys2Proof.Machine.execCmp u pd cm ra rb fn s
  | .cmpi u pd cm ra cond imm => Sys2Proof.Machine.execCmpi u pd cm ra cond imm s
  | .pand u pd pa pb => Sys2Proof.Machine.execPand u pd pa pb s
  | .por u pd pa pb => Sys2Proof.Machine.execPor u pd pa pb s
  | .pxor u pd pa pb => Sys2Proof.Machine.execPxor u pd pa pb s
  | .pandn u pd pa pb => Sys2Proof.Machine.execPandn u pd pa pb s
  | .pnot u pd pa => Sys2Proof.Machine.execPnot u pd pa s
  | .ptow u rd => Sys2Proof.Machine.execPtow u rd s
  | .wtop u ra => Sys2Proof.Machine.execWtop u ra s
  | .ld u rd ra imm up => Sys2Proof.Machine.execLd u rd ra imm up s
  | .ldh u rd ra imm up => Sys2Proof.Machine.execLdh u rd ra imm up s
  | .ldhu u rd ra imm up => Sys2Proof.Machine.execLdhu u rd ra imm up s
  | .ldb u rd ra imm up => Sys2Proof.Machine.execLdb u rd ra imm up s
  | .ldbu u rd ra imm up => Sys2Proof.Machine.execLdbu u rd ra imm up s
  | .st u rs ra imm up => Sys2Proof.Machine.execSt u rs ra imm up s
  | .sth u rs ra imm up => Sys2Proof.Machine.execSth u rs ra imm up s
  | .stb u rs ra imm up => Sys2Proof.Machine.execStb u rs ra imm up s
  | .ldx u rd ra rb fn up => Sys2Proof.Machine.execLdx u rd ra rb fn up s
  | .stx u rs ra rb fn up => Sys2Proof.Machine.execStx u rs ra rb fn up s
  | .crossbarRetry lane core => Sys2Proof.Machine.execCrossbarRetry lane core s
  | .amoswp u rd ra rb up => Sys2Proof.Machine.execAmoswp u rd ra rb up s
  | .amoadd u rd ra rb up => Sys2Proof.Machine.execAmoadd u rd ra rb up s
  | .amoand u rd ra rb up => Sys2Proof.Machine.execAmoand u rd ra rb up s
  | .amoor u rd ra rb up => Sys2Proof.Machine.execAmoor u rd ra rb up s
  | .amomax u rd ra rb up => Sys2Proof.Machine.execAmomax u rd ra rb up s
  | .br u off => Sys2Proof.Machine.execBr u off s
  | .call u target => Sys2Proof.Machine.execCall u target s
  | .ret u => Sys2Proof.Machine.execRet u s
  | .loop u ra n => Sys2Proof.Machine.execLoop u ra n s
  | .endl u => Sys2Proof.Machine.execEndl u s
  | .brkl u => Sys2Proof.Machine.execBrkl u s
  | .fadd u rd ra rb => Sys2Proof.Machine.execFadd u rd ra rb s
  | .fsub u rd ra rb => Sys2Proof.Machine.execFsub u rd ra rb s
  | .fmul u rd ra rb => Sys2Proof.Machine.execFmul u rd ra rb s
  | .fmac u rd ra rb => Sys2Proof.Machine.execFmac u rd ra rb s
  | .fmin u rd ra rb => Sys2Proof.Machine.execFmin u rd ra rb s
  | .fmax u rd ra rb => Sys2Proof.Machine.execFmax u rd ra rb s
  | .fabs u rd ra => Sys2Proof.Machine.execFabs u rd ra s
  | .fneg u rd ra => Sys2Proof.Machine.execFneg u rd ra s
  | .fnorm u rd ra => Sys2Proof.Machine.execFnorm u rd ra s
  | .ffix u rd ra k => Sys2Proof.Machine.execFfix u rd ra k s
  | .fflt u rd ra k => Sys2Proof.Machine.execFflt u rd ra k s
  | .fscl u rd ra imm => Sys2Proof.Machine.execFscl u rd ra imm s
  | .postRun u rd ra slot => Sys2Proof.Machine.execPostRun u rd ra slot s
  | .postRunc u rd slot => Sys2Proof.Machine.execPostRunc u rd slot s
  | .postPreset u rd ra slot => Sys2Proof.Machine.execPostPreset u rd ra slot s
  | .postRegion u rd ra slot => Sys2Proof.Machine.execPostRegion u rd ra slot s
  | .postRead u rd ra slot => Sys2Proof.Machine.execPostRead u rd ra slot s
  | .waitt u rd ra => Sys2Proof.Machine.execWaitt u rd ra s
  | .testt u pd ra => Sys2Proof.Machine.execTestt u pd ra s
  | .wtick u => Sys2Proof.Machine.execWtick u s
  | .wevt u rd => Sys2Proof.Machine.execWevt u rd s
  | .raise u ra f => Sys2Proof.Machine.execRaise u ra f s
  | .rstk u rd ra b => Sys2Proof.Machine.execRstk u rd ra b s
  | .ctxq u rd ra rb => Sys2Proof.Machine.execCtxq u rd ra rb s
  | .ctxd u rd ra rb => Sys2Proof.Machine.execCtxd u rd ra rb s
  | .ccan u rd ra rb => Sys2Proof.Machine.execCcan u rd ra rb s
  | .crx u rd rb => Sys2Proof.Machine.execCrx u rd rb s
  | .cack u ra => Sys2Proof.Machine.execCack u ra s
  | .din0 u rd => Sys2Proof.Machine.execDin0 u rd s
  | .din1 u rd => Sys2Proof.Machine.execDin1 u rd s
  | .dstal u rd => Sys2Proof.Machine.execDstal u rd s
  | .dout u ra rb => Sys2Proof.Machine.execDout u ra rb s
  | .dorb u rd => Sys2Proof.Machine.execDorb u rd s
  | .cnt u rd ra => Sys2Proof.Machine.execCnt u rd ra s
  | .freq u rd ra => Sys2Proof.Machine.execFreq u rd ra s
  | .mfs u rd n => Sys2Proof.Machine.execMfs u rd n s
  | .ill u => Sys2Proof.Machine.execIll u s
  | .t1Tick d => Sys2Proof.Machine.execT1Tick d s
  | .t2Release => Sys2Proof.Machine.execT2Release s
  | .t3Release => Sys2Proof.Machine.execT3Release s
  | .commitInstant t => Sys2Proof.Machine.execCommitInstant t s
  | .periodStart a => Sys2Proof.Machine.execPeriodStart a s
  | .sampleCutoff a => Sys2Proof.Machine.execSampleCutoff a s
  | .setpointLatch x => Sys2Proof.Machine.execSetpointLatch x s
  | .edgeOut a laneA laneB => Sys2Proof.Machine.execEdgeOut a laneA laneB s
  | .periodEnd a => Sys2Proof.Machine.execPeriodEnd a s
  | .hashExchange u exA exB => Sys2Proof.Machine.execHashExchange u exA exB s
  | .sampleFrame lane b sec m c => Sys2Proof.Machine.execSampleFrame lane b sec m c s
  | .fieldFrameConsumption f heldA heldB d => Sys2Proof.Machine.execFieldFrameConsumption f heldA heldB d s
  | .comparePulseEnd e => Sys2Proof.Machine.execComparePulseEnd e s
  | .ssiTransferStart e => Sys2Proof.Machine.execSsiTransferStart e s
  | .pulsedWindow f rd => Sys2Proof.Machine.execPulsedWindow f rd s
  | .forcedHigh o => Sys2Proof.Machine.execForcedHigh o s
  | .onlow o => Sys2Proof.Machine.execOnlow o s
  | .retryReset o => Sys2Proof.Machine.execRetryReset o s
  | .fieldSilenceTimeout f => Sys2Proof.Machine.execFieldSilenceTimeout f s
  | .stoChannelChange f chB r => Sys2Proof.Machine.execStoChannelChange f chB r s
  | .stoDiscrepancy f => Sys2Proof.Machine.execStoDiscrepancy f s
  | .permitConditionChange l => Sys2Proof.Machine.execPermitConditionChange l s
  | .gatePermit p => Sys2Proof.Machine.execGatePermit p s
  | .linkLocked p => Sys2Proof.Machine.execLinkLocked p s
  | .linkLoss p => Sys2Proof.Machine.execLinkLoss p s
  | .delayRequest p => Sys2Proof.Machine.execDelayRequest p s
  | .delayResponse p echo rt ta => Sys2Proof.Machine.execDelayResponse p echo rt ta s
  | .timebaseSync p => Sys2Proof.Machine.execTimebaseSync p s
  | .discover p => Sys2Proof.Machine.execDiscover p s
  | .ident b x => Sys2Proof.Machine.execIdent b x s
  | .cal b x => Sys2Proof.Machine.execCal b x s
  | .cntr b x => Sys2Proof.Machine.execCntr b x s
  | .cntclr b x => Sys2Proof.Machine.execCntclr b x s
  | .clrlatch b mask x => Sys2Proof.Machine.execClrlatch b mask x s
  | .diag b arg x => Sys2Proof.Machine.execDiag b arg x s
  | .mreqTimeout => Sys2Proof.Machine.execMreqTimeout s
  | .rediscover b => Sys2Proof.Machine.execRediscover b s
  | .canReportDelivery p r => Sys2Proof.Machine.execCanReportDelivery p r s
  | .laneExpiryRecord p k => Sys2Proof.Machine.execLaneExpiryRecord p k s
  | .busOffRecovery p => Sys2Proof.Machine.execBusOffRecovery p s
  | .referencePost p => Sys2Proof.Machine.execReferencePost p s
  | .masterTimeout p => Sys2Proof.Machine.execMasterTimeout p s
  | .alignmentLost p => Sys2Proof.Machine.execAlignmentLost p s
  | .cordResultFrame x => Sys2Proof.Machine.execCordResultFrame x s
  | .cordResultsLost => Sys2Proof.Machine.execCordResultsLost s
  | .cordStart m => Sys2Proof.Machine.execCordStart m s
  | .cordEnd m => Sys2Proof.Machine.execCordEnd m s
  | .cordRecord rseq => Sys2Proof.Machine.execCordRecord rseq s
  | .cordCommandReceipt x => Sys2Proof.Machine.execCordCommandReceipt x s
  | .cordCommandTimeout => Sys2Proof.Machine.execCordCommandTimeout s
  | .cordThermalShutdown => Sys2Proof.Machine.execCordThermalShutdown s
  | .cordSupplyFall => Sys2Proof.Machine.execCordSupplyFall s
  | .cordPowerOn => Sys2Proof.Machine.execCordPowerOn s
  | .sealJumperFitted => Sys2Proof.Machine.execSealJumperFitted s
  | .sealJumperRemoved => Sys2Proof.Machine.execSealJumperRemoved s
  | .idQuery => Sys2Proof.Machine.execIdQuery s
  | .parQuery p ch => Sys2Proof.Machine.execParQuery p ch s
  | .par p ch v => Sys2Proof.Machine.execPar p ch v s
  | .zero ch => Sys2Proof.Machine.execZero ch s
  | .span ch load => Sys2Proof.Machine.execSpan ch load s
  | .commit => Sys2Proof.Machine.execCommit s
  | .discard => Sys2Proof.Machine.execDiscard s
  | .audQuery n => Sys2Proof.Machine.execAudQuery n s
  | .softwareUpdate lver code => Sys2Proof.Machine.execSoftwareUpdate lver code s
  | .throttleStep o => Sys2Proof.Machine.execThrottleStep o s
  | .readingStale n => Sys2Proof.Machine.execReadingStale n s
  | .laneShutdownAbandon lane => Sys2Proof.Machine.execLaneShutdownAbandon lane s
  | .laneStop lane => Sys2Proof.Machine.execLaneStop lane s
  | .pllLock lane d => Sys2Proof.Machine.execPllLock lane d s
  | .pllFault lane d => Sys2Proof.Machine.execPllFault lane d s
  | .dorm lane => Sys2Proof.Machine.execDorm lane s
  | .dormantEntry => Sys2Proof.Machine.execDormantEntry s
  | .wakeSource w => Sys2Proof.Machine.execWakeSource w s
  | .wakeTimer => Sys2Proof.Machine.execWakeTimer s
  | .supplyStatusChange x inok outok mv da => Sys2Proof.Machine.execSupplyStatusChange x inok outok mv da s
  | .powerOn x => Sys2Proof.Machine.execPowerOn x s
  | .peerWaitTimeout lane => Sys2Proof.Machine.execPeerWaitTimeout lane s
  | .imageAdmission lane => Sys2Proof.Machine.execImageAdmission lane s
  | .axisEnable a => Sys2Proof.Machine.execAxisEnable a s
  | .axisDisable a => Sys2Proof.Machine.execAxisDisable a s
  | .injectionStart p => Sys2Proof.Machine.execInjectionStart p s
  | .injectionStop p => Sys2Proof.Machine.execInjectionStop p s
  | .deadlineMessageEnable p k => Sys2Proof.Machine.execDeadlineMessageEnable p k s
  | .deadlineMessageDisable p k => Sys2Proof.Machine.execDeadlineMessageDisable p k s
  | .itemActivation item => Sys2Proof.Machine.execItemActivation item s
  | .itemDeactivation item => Sys2Proof.Machine.execItemDeactivation item s
  | .runtimeRequestComplete => Sys2Proof.Machine.execRuntimeRequestComplete s
  | .workRemovalRecompute => Sys2Proof.Machine.execWorkRemovalRecompute s
  | .modeRun a => Sys2Proof.Machine.execModeRun a s
  | .modeProfile a => Sys2Proof.Machine.execModeProfile a s
  | .modeStop2 a => Sys2Proof.Machine.execModeStop2 a s
  | .modeStop1 a => Sys2Proof.Machine.execModeStop1 a s
  | .modeHold a => Sys2Proof.Machine.execModeHold a s
  | .modeImstop a => Sys2Proof.Machine.execModeImstop a s
  | .cret a => Sys2Proof.Machine.execCret a s
  | .zeroSpeedDeclared a => Sys2Proof.Machine.execZeroSpeedDeclared a s
  | .brakeEngageEnd a => Sys2Proof.Machine.execBrakeEngageEnd a s
  | .torqueReleaseEnd a => Sys2Proof.Machine.execTorqueReleaseEnd a s
  | .rideThroughTimeout a => Sys2Proof.Machine.execRideThroughTimeout a s
  | .heaveStale a => Sys2Proof.Machine.execHeaveStale a s
  | .fluxBrakingBudget a => Sys2Proof.Machine.execFluxBrakingBudget a s
  | .holdWindowExpiry a => Sys2Proof.Machine.execHoldWindowExpiry a s
  | .decayTimeout a => Sys2Proof.Machine.execDecayTimeout a s
  | .resume a => Sys2Proof.Machine.execResume a s
  | .reacq a => Sys2Proof.Machine.execReacq a s
  | .tab a t => Sys2Proof.Machine.execTab a t s
  | .ovmDmod a ovm dmod => Sys2Proof.Machine.execOvmDmod a ovm dmod s
  | .modeToAuto n => Sys2Proof.Machine.execModeToAuto n s
  | .modeToManual n => Sys2Proof.Machine.execModeToManual n s
  | .clr n => Sys2Proof.Machine.execClr n s
  | .engineOperationComplete lane up => Sys2Proof.Machine.execEngineOperationComplete lane up s
  | .arm => Sys2Proof.Machine.execArm s
  | .captureAbort => Sys2Proof.Machine.execCaptureAbort s
  | .chclr mask => Sys2Proof.Machine.execChclr mask s
  | .parm e => Sys2Proof.Machine.execParm e s
  | .channelClear e => Sys2Proof.Machine.execChannelClear e s
  | .compareArm e cpos cmc => Sys2Proof.Machine.execCompareArm e cpos cmc s
  | .pulseRatio e num den => Sys2Proof.Machine.execPulseRatio e num den s
  | .srel mask => Sys2Proof.Machine.execSrel mask s
  | .oclr mask => Sys2Proof.Machine.execOclr mask s
  | .counterClear mask => Sys2Proof.Machine.execCounterClear mask s
  | .safeclr => Sys2Proof.Machine.execSafeclr s
  | .swap => Sys2Proof.Machine.execSwap s
  | .bistLogic tgt => Sys2Proof.Machine.execBistLogic tgt s
  | .bistMemory tgt => Sys2Proof.Machine.execBistMemory tgt s
  | .bistBoth tgt => Sys2Proof.Machine.execBistBoth tgt s
  | .rnow => Sys2Proof.Machine.execRnow s
  | .bistComplete lane lsig msig => Sys2Proof.Machine.execBistComplete lane lsig msig s
  | .rollingSelftestDue => Sys2Proof.Machine.execRollingSelftestDue s
  | .peatRsel lane seq => Sys2Proof.Machine.execPeatRsel lane seq s
  | .peatReadLoaded lane => Sys2Proof.Machine.execPeatReadLoaded lane s
  | .peatEntryCommit c => Sys2Proof.Machine.execPeatEntryCommit c s
  | .hreq => Sys2Proof.Machine.execHreq s
  | .hack => Sys2Proof.Machine.execHack s
  | .claimExchange => Sys2Proof.Machine.execClaimExchange s
  | .activeLaneFailed => Sys2Proof.Machine.execActiveLaneFailed s
  | .handoverWaitTimeout => Sys2Proof.Machine.execHandoverWaitTimeout s
  | .xlnChannelDown ch => Sys2Proof.Machine.execXlnChannelDown ch s
  | .yieldButton lane ms => Sys2Proof.Machine.execYieldButton lane ms s
  | .extractionLever lane => Sys2Proof.Machine.execExtractionLever lane s
  | .cartridgeInserted slot ok => Sys2Proof.Machine.execCartridgeInserted slot ok s
  | .cartridgeRemoved slot => Sys2Proof.Machine.execCartridgeRemoved slot s
  | .keySwitchChange service => Sys2Proof.Machine.execKeySwitchChange service s
  | .presenceButton ms => Sys2Proof.Machine.execPresenceButton ms s
  | .presenceRequestTimeout => Sys2Proof.Machine.execPresenceRequestTimeout s
  | .imageLoad img => Sys2Proof.Machine.execImageLoad img s
  | .imageActivation => Sys2Proof.Machine.execImageActivation s
  | .rollingSelftestPeriod hours => Sys2Proof.Machine.execRollingSelftestPeriod hours s
  | .bistActiveLane => Sys2Proof.Machine.execBistActiveLane s
  | .laneRestart lane => Sys2Proof.Machine.execLaneRestart lane s
  | .imageSync lane => Sys2Proof.Machine.execImageSync lane s
  | .s6Release => Sys2Proof.Machine.execS6Release s
  | .peatLogClear => Sys2Proof.Machine.execPeatLogClear s
  | .frameMemoryEventClear => Sys2Proof.Machine.execFrameMemoryEventClear s
  | .stoConfiguration cfg => Sys2Proof.Machine.execStoConfiguration cfg s
  | .forceRoles lane active => Sys2Proof.Machine.execForceRoles lane active s
  | .peatLogRead lane seq => Sys2Proof.Machine.execPeatLogRead lane seq s
  | .frameMemoryRead n => Sys2Proof.Machine.execFrameMemoryRead n s
  | .captureUpload lane rec => Sys2Proof.Machine.execCaptureUpload lane rec s
  | .excClear lane core => Sys2Proof.Machine.execExcClear lane core s
  | .rcRead lane addr => Sys2Proof.Machine.execRcRead lane addr s
  | .registerWrite lane addr val => Sys2Proof.Machine.execRegisterWrite lane addr val s
  | .xlnChannelUp ch => Sys2Proof.Machine.execXlnChannelUp ch s
  | .logicRailCollapse => Sys2Proof.Machine.execLogicRailCollapse s

end Sys2Proof.Machine
end

