-- ==== Sys2Proof/Machine/Rylin.lean ====
section
/-!
DEFINITION. The words of Rylin instructions (R47, R48, R51 to R78): which command a word in program SRAM spells when core
`core` of lane `lane` issues it, and the word of a command. A word that admission would refuse spells ILL (R51).
-/
namespace Sys2Proof.Machine

/-! ## Fields of a word (R47) -/

/-- Bits [31:26]. -/
def wMaj (w : Word) : BitVec 6 := w.extractLsb' 26 6
/-- The guard, bits [25:22] (R48). -/
def wGuard (w : Word) : Guard := { neg := w.getLsbD 25, p := w.extractLsb' 22 3 }
/-- rd or rs, bits [21:17]. -/
def wRd (w : Word) : RegNo := w.extractLsb' 17 5
/-- ra, bits [16:12]. -/
def wRa (w : Word) : RegNo := w.extractLsb' 12 5
/-- rb, bits [11:7]. -/
def wRb (w : Word) : RegNo := w.extractLsb' 7 5
/-- fn, bits [6:0]. -/
def wFn (w : Word) : BitVec 7 := w.extractLsb' 0 7
/-- imm12, bits [11:0]. -/
def wImm (w : Word) : BitVec 12 := w.extractLsb' 0 12
/-- pd, bits [21:19]. -/
def wPd (w : Word) : PredNo := w.extractLsb' 19 3
/-- cm, bits [18:17]. -/
def wCm (w : Word) : BitVec 2 := w.extractLsb' 17 2
/-- The low five bits of imm12. -/
def wImm5 (w : Word) : BitVec 5 := w.extractLsb' 0 5

/-! ## From a word to a command -/

/-- The ALU group (R52). -/
def aluOf (i : Issue) (w : Word) : Instr :=
  match (wFn w).toNat with
  | 0x00 => .add i (wRd w) (wRa w) (wRb w)
  | 0x01 => .sub i (wRd w) (wRa w) (wRb w)
  | 0x02 => .and i (wRd w) (wRa w) (wRb w)
  | 0x03 => .or i (wRd w) (wRa w) (wRb w)
  | 0x04 => .xor i (wRd w) (wRa w) (wRb w)
  | 0x05 => .andn i (wRd w) (wRa w) (wRb w)
  | 0x06 => .shl i (wRd w) (wRa w) (wRb w)
  | 0x07 => .shr i (wRd w) (wRa w) (wRb w)
  | 0x08 => .sar i (wRd w) (wRa w) (wRb w)
  | 0x09 => .ror i (wRd w) (wRa w) (wRb w)
  | 0x0A => .min i (wRd w) (wRa w) (wRb w)
  | 0x0B => .max i (wRd w) (wRa w) (wRb w)
  | 0x0C => .minu i (wRd w) (wRa w) (wRb w)
  | 0x0D => .maxu i (wRd w) (wRa w) (wRb w)
  | 0x0E => .sadd i (wRd w) (wRa w) (wRb w)
  | 0x0F => .ssub i (wRd w) (wRa w) (wRb w)
  | 0x10 => .mul i (wRd w) (wRa w) (wRb w)
  | 0x11 => .mulhs i (wRd w) (wRa w) (wRb w)
  | 0x12 => .mulhu i (wRd w) (wRa w) (wRb w)
  | 0x13 => .mulq i (wRd w) (wRa w) (wRb w)
  | 0x14 => .div i (wRd w) (wRa w) (wRb w)
  | 0x15 => .divu i (wRd w) (wRa w) (wRb w)
  | 0x16 => .rem i (wRd w) (wRa w) (wRb w)
  | 0x17 => .remu i (wRd w) (wRa w) (wRb w)
  | 0x18 => .clz i (wRd w) (wRa w)
  | 0x19 => .abs i (wRd w) (wRa w)
  | 0x1A => .sextb i (wRd w) (wRa w)
  | 0x1B => .sexth i (wRd w) (wRa w)
  | _ => .ill i

/-- The shifts by an immediate amount (R54): imm12[6:5] selects. -/
def shiOf (i : Issue) (w : Word) : Instr :=
  match (w.extractLsb' 5 2).toNat with
  | 0 => .shli i (wRd w) (wRa w) (wImm5 w)
  | 1 => .shri i (wRd w) (wRa w) (wImm5 w)
  | 2 => .sari i (wRd w) (wRa w) (wImm5 w)
  | _ => .rori i (wRd w) (wRa w) (wImm5 w)

/-- The predicate group (R56). -/
def prdOf (i : Issue) (w : Word) : Instr :=
  let pa : PredNo := w.extractLsb' 16 3
  let pb : PredNo := w.extractLsb' 13 3
  match (wFn w).toNat with
  | 0x00 => .pand i (wPd w) pa pb
  | 0x01 => .por i (wPd w) pa pb
  | 0x02 => .pxor i (wPd w) pa pb
  | 0x03 => .pandn i (wPd w) pa pb
  | 0x04 => .pnot i (wPd w) pa
  | 0x08 => .ptow i (wRd w)
  | 0x09 => .wtop i (wRa w)
  | _ => .ill i

/-- The atomic group (R58). -/
def amoOf (i : Issue) (w : Word) (up : Ecc) : Instr :=
  match (wFn w).toNat with
  | 0x00 => .amoswp i (wRd w) (wRa w) (wRb w) up
  | 0x01 => .amoadd i (wRd w) (wRa w) (wRb w) up
  | 0x02 => .amoand i (wRd w) (wRa w) (wRb w) up
  | 0x03 => .amoor i (wRd w) (wRa w) (wRb w) up
  | 0x04 => .amomax i (wRd w) (wRa w) (wRb w) up
  | _ => .ill i

/-- The block-float group (R67). -/
def fprOf (i : Issue) (w : Word) : Instr :=
  match (wFn w).toNat with
  | 0x00 => .fadd i (wRd w) (wRa w) (wRb w)
  | 0x01 => .fsub i (wRd w) (wRa w) (wRb w)
  | 0x02 => .fmul i (wRd w) (wRa w) (wRb w)
  | 0x03 => .fmac i (wRd w) (wRa w) (wRb w)
  | 0x04 => .fmin i (wRd w) (wRa w) (wRb w)
  | 0x05 => .fmax i (wRd w) (wRa w) (wRb w)
  | 0x06 => .fabs i (wRd w) (wRa w)
  | 0x07 => .fneg i (wRd w) (wRa w)
  | 0x08 => .fnorm i (wRd w) (wRa w)
  | _ => .ill i

/-- POST (R68): imm12[11:8] is the kind, imm12[7:0] the slot. -/
def postOf (i : Issue) (w : Word) : Instr :=
  let k : Slot := (w.extractLsb' 0 8).toFin
  match (w.extractLsb' 8 4).toNat with
  | 0 => .postRun i (wRd w) (wRa w) k
  | 1 => .postRunc i (wRd w) k
  | 2 => .postPreset i (wRd w) (wRa w) k
  | 3 => .postRegion i (wRd w) (wRa w) k
  | 4 => .postRead i (wRd w) (wRa w) k
  | _ => .ill i

/-- The CAN group (R76). -/
def canOf (i : Issue) (w : Word) : Instr :=
  match (wFn w).toNat with
  | 0 => .ctxq i (wRd w) (wRa w) (wRb w)
  | 1 => .ctxd i (wRd w) (wRa w) (wRb w)
  | 2 => .ccan i (wRd w) (wRa w) (wRb w)
  | 4 => .crx i (wRd w) (wRb w)
  | 5 => .cack i (wRa w)
  | _ => .ill i

/-- The field-I/O group (R77). -/
def fioOf (i : Issue) (w : Word) : Instr :=
  match (wFn w).toNat with
  | 0 => .din0 i (wRd w)
  | 1 => .din1 i (wRd w)
  | 2 => .dstal i (wRd w)
  | 4 => .dout i (wRa w) (wRb w)
  | 5 => .dorb i (wRd w)
  | 8 => .cnt i (wRd w) (wRa w)
  | 9 => .freq i (wRd w) (wRa w)
  | _ => .ill i

/-- The command a word that no rule refuses spells, by its major opcode (R51). -/
def groupOfWord (i : Issue) (w : Word) (up : Ecc) : Instr :=
  match (wMaj w).toNat with
  | 0x01 => aluOf i w
  | 0x02 => .addi i (wRd w) (wRa w) (wImm w)
  | 0x03 => .andi i (wRd w) (wRa w) (wImm w)
  | 0x04 => .ori i (wRd w) (wRa w) (wImm w)
  | 0x05 => .xori i (wRd w) (wRa w) (wImm w)
  | 0x06 => shiOf i w
  | 0x07 => .muli i (wRd w) (wRa w) (wImm w)
  | 0x08 => if w.getLsbD 16 then .movh i (wRd w) (w.extractLsb' 0 16) else .movl i (wRd w) (w.extractLsb' 0 16)
  | 0x09 => .cmp i (wPd w) (wCm w) (wRa w) (wRb w) (wFn w)
  | 0x0A => .cmpi i (wPd w) (wCm w) (wRa w) (w.extractLsb' 9 3) (w.extractLsb' 0 9)
  | 0x0B => prdOf i w
  | 0x10 => .ld i (wRd w) (wRa w) (wImm w) up
  | 0x11 => .ldh i (wRd w) (wRa w) (wImm w) up
  | 0x12 => .ldhu i (wRd w) (wRa w) (wImm w) up
  | 0x13 => .ldb i (wRd w) (wRa w) (wImm w) up
  | 0x14 => .ldbu i (wRd w) (wRa w) (wImm w) up
  | 0x15 => .st i (wRd w) (wRa w) (wImm w) up
  | 0x16 => .sth i (wRd w) (wRa w) (wImm w) up
  | 0x17 => .stb i (wRd w) (wRa w) (wImm w) up
  | 0x18 => .ldx i (wRd w) (wRa w) (wRb w) (wFn w) up
  | 0x19 => .stx i (wRd w) (wRa w) (wRb w) (wFn w) up
  | 0x1A => amoOf i w up
  | 0x20 => .br i (w.extractLsb' 0 22)
  | 0x21 => .call i (w.extractLsb' 0 17)
  | 0x22 => match (wFn w).toNat with | 0 => .ret i | 1 => .endl i | 2 => .brkl i | _ => .ill i
  | 0x23 => .loop i (wRd w) (w.extractLsb' 0 16)
  | 0x28 => fprOf i w
  | 0x29 => .ffix i (wRd w) (wRa w) (wImm5 w)
  | 0x2A => .fflt i (wRd w) (wRa w) (wImm5 w)
  | 0x2B => .fscl i (wRd w) (wRa w) (wImm w)
  | 0x30 => postOf i w
  | 0x31 => match (wFn w).toNat with | 0 => .waitt i (wRd w) (wRa w) | 1 => .testt i (w.extractLsb' 17 3) (wRa w) | _ => .ill i
  | 0x32 => match (wFn w).toNat with | 0 => .wtick i | 1 => .wevt i (wRd w) | _ => .ill i
  | 0x33 => .raise i (wRa w) (wImm5 w)
  | 0x34 => .rstk i (wRd w) (wRa w) (wImm5 w)
  | 0x35 => canOf i w
  | 0x36 => fioOf i w
  | 0x37 => .mfs i (wRd w) (wImm w)
  | _ => .ill i

/-- The command that a word spells when a core issues it. `fetch` and `up` are the upsets its fetch and its access to memory
meet (R46). -/
def rylinOf (lane : LaneId) (core : Fin 4) (fetch up : Ecc) (w : Word) : Instr :=
  let i : Issue := { lane := lane, core := core, guard := wGuard w, fetch := fetch }
  match encFault w.toNat with
  | some _ => .ill i
  | none => groupOfWord i w up

/-- The command the core issues next: that of the word at its program counter in program SRAM (R38, R43). -/
def nextRylin (l : Lane) (core : Fin 4) (fetch up : Ecc) : Instr :=
  let x := vget l.cores core
  rylinOf l.ident core fetch up (mget32 l (vget x.tasks x.cur).pc)

/-! ## From a command to its word -/

/-- The guard's four bits (R48). -/
def guardBits (g : Guard) : BitVec 4 := BitVec.ofBool g.neg ++ g.p

/-- A slot number as imm12[7:0] (R68). -/
def slotBits (k : Slot) : BitVec 8 := BitVec.ofNat 8 k.1

/-- Format R (R47). -/
def encR (maj : BitVec 6) (i : Issue) (rd ra rb : RegNo) (fn : BitVec 7) : Option Word :=
  some (maj ++ guardBits i.guard ++ rd ++ ra ++ rb ++ fn)

/-- Format I (R47). -/
def encI (maj : BitVec 6) (i : Issue) (rd ra : RegNo) (imm : BitVec 12) : Option Word :=
  some (maj ++ guardBits i.guard ++ rd ++ ra ++ imm)

/-- Format P (R47). -/
def encP (i : Issue) (pd pa pb : PredNo) (fn : BitVec 7) : Option Word :=
  some (0x0B#6 ++ guardBits i.guard ++ pd ++ pa ++ pb ++ 0#6 ++ fn)

/-- The word of a command that is a Rylin instruction; `none` for the other commands and for ILL, which many words spell. -/
def rylinWord (c : Instr) : Option Word :=
  match c with
  | .add i d a b => encR 0x01 i d a b 0x00
  | .sub i d a b => encR 0x01 i d a b 0x01
  | .and i d a b => encR 0x01 i d a b 0x02
  | .or i d a b => encR 0x01 i d a b 0x03
  | .xor i d a b => encR 0x01 i d a b 0x04
  | .andn i d a b => encR 0x01 i d a b 0x05
  | .shl i d a b => encR 0x01 i d a b 0x06
  | .shr i d a b => encR 0x01 i d a b 0x07
  | .sar i d a b => encR 0x01 i d a b 0x08
  | .ror i d a b => encR 0x01 i d a b 0x09
  | .min i d a b => encR 0x01 i d a b 0x0A
  | .max i d a b => encR 0x01 i d a b 0x0B
  | .minu i d a b => encR 0x01 i d a b 0x0C
  | .maxu i d a b => encR 0x01 i d a b 0x0D
  | .sadd i d a b => encR 0x01 i d a b 0x0E
  | .ssub i d a b => encR 0x01 i d a b 0x0F
  | .mul i d a b => encR 0x01 i d a b 0x10
  | .mulhs i d a b => encR 0x01 i d a b 0x11
  | .mulhu i d a b => encR 0x01 i d a b 0x12
  | .mulq i d a b => encR 0x01 i d a b 0x13
  | .div i d a b => encR 0x01 i d a b 0x14
  | .divu i d a b => encR 0x01 i d a b 0x15
  | .rem i d a b => encR 0x01 i d a b 0x16
  | .remu i d a b => encR 0x01 i d a b 0x17
  | .clz i d a => encR 0x01 i d a 0 0x18
  | .abs i d a => encR 0x01 i d a 0 0x19
  | .sextb i d a => encR 0x01 i d a 0 0x1A
  | .sexth i d a => encR 0x01 i d a 0 0x1B
  | .addi i d a v => encI 0x02 i d a v
  | .andi i d a v => encI 0x03 i d a v
  | .ori i d a v => encI 0x04 i d a v
  | .xori i d a v => encI 0x05 i d a v
  | .shli i d a v => encI 0x06 i d a (0#5 ++ 0#2 ++ v)
  | .shri i d a v => encI 0x06 i d a (0#5 ++ 1#2 ++ v)
  | .sari i d a v => encI 0x06 i d a (0#5 ++ 2#2 ++ v)
  | .rori i d a v => encI 0x06 i d a (0#5 ++ 3#2 ++ v)
  | .muli i d a v => encI 0x07 i d a v
  | .movl i d v => some (0x08#6 ++ guardBits i.guard ++ d ++ 0#1 ++ v)
  | .movh i d v => some (0x08#6 ++ guardBits i.guard ++ d ++ 1#1 ++ v)
  | .cmp i p m a b fn => some (0x09#6 ++ guardBits i.guard ++ p ++ m ++ a ++ b ++ fn)
  | .cmpi i p m a cond v => some (0x0A#6 ++ guardBits i.guard ++ p ++ m ++ a ++ cond ++ v)
  | .pand i d a b => encP i d a b 0x00
  | .por i d a b => encP i d a b 0x01
  | .pxor i d a b => encP i d a b 0x02
  | .pandn i d a b => encP i d a b 0x03
  | .pnot i d a => encP i d a 0 0x04
  | .ptow i d => encR 0x0B i d 0 0 0x08
  | .wtop i a => encR 0x0B i 0 a 0 0x09
  | .ld i d a v _ => encI 0x10 i d a v
  | .ldh i d a v _ => encI 0x11 i d a v
  | .ldhu i d a v _ => encI 0x12 i d a v
  | .ldb i d a v _ => encI 0x13 i d a v
  | .ldbu i d a v _ => encI 0x14 i d a v
  | .st i d a v _ => encI 0x15 i d a v
  | .sth i d a v _ => encI 0x16 i d a v
  | .stb i d a v _ => encI 0x17 i d a v
  | .ldx i d a b fn _ => encR 0x18 i d a b fn
  | .stx i d a b fn _ => encR 0x19 i d a b fn
  | .amoswp i d a b _ => encR 0x1A i d a b 0x00
  | .amoadd i d a b _ => encR 0x1A i d a b 0x01
  | .amoand i d a b _ => encR 0x1A i d a b 0x02
  | .amoor i d a b _ => encR 0x1A i d a b 0x03
  | .amomax i d a b _ => encR 0x1A i d a b 0x04
  | .br i off => some (0x20#6 ++ guardBits i.guard ++ off)
  | .call i t => some (0x21#6 ++ guardBits i.guard ++ 0#5 ++ t)
  | .ret i => encR 0x22 i 0 0 0 0x00
  | .endl i => encR 0x22 i 0 0 0 0x01
  | .brkl i => encR 0x22 i 0 0 0 0x02
  | .loop i a n => some (0x23#6 ++ guardBits i.guard ++ a ++ 0#1 ++ n)
  | .fadd i d a b => encR 0x28 i d a b 0x00
  | .fsub i d a b => encR 0x28 i d a b 0x01
  | .fmul i d a b => encR 0x28 i d a b 0x02
  | .fmac i d a b => encR 0x28 i d a b 0x03
  | .fmin i d a b => encR 0x28 i d a b 0x04
  | .fmax i d a b => encR 0x28 i d a b 0x05
  | .fabs i d a => encR 0x28 i d a 0 0x06
  | .fneg i d a => encR 0x28 i d a 0 0x07
  | .fnorm i d a => encR 0x28 i d a 0 0x08
  | .ffix i d a k => encI 0x29 i d a (0#7 ++ k)
  | .fflt i d a k => encI 0x2A i d a (0#7 ++ k)
  | .fscl i d a v => encI 0x2B i d a v
  | .postRun i d a k => encI 0x30 i d a (0#4 ++ slotBits k)
  | .postRunc i d k => encI 0x30 i d 0 (1#4 ++ slotBits k)
  | .postPreset i d a k => encI 0x30 i d a (2#4 ++ slotBits k)
  | .postRegion i d a k => encI 0x30 i d a (3#4 ++ slotBits k)
  | .postRead i d a k => encI 0x30 i d a (4#4 ++ slotBits k)
  | .waitt i d a => encR 0x31 i d a 0 0x00
  | .testt i p a => encR 0x31 i (0#2 ++ p) a 0 0x01
  | .wtick i => encR 0x32 i 0 0 0 0x00
  | .wevt i d => encR 0x32 i d 0 0 0x01
  | .raise i a f => encI 0x33 i 0 a (0#7 ++ f)
  | .rstk i d a b => encI 0x34 i d a (0#7 ++ b)
  | .ctxq i d a b => encR 0x35 i d a b 0x00
  | .ctxd i d a b => encR 0x35 i d a b 0x01
  | .ccan i d a b => encR 0x35 i d a b 0x02
  | .crx i d b => encR 0x35 i d 0 b 0x04
  | .cack i a => encR 0x35 i 0 a 0 0x05
  | .din0 i d => encR 0x36 i d 0 0 0x00
  | .din1 i d => encR 0x36 i d 0 0 0x01
  | .dstal i d => encR 0x36 i d 0 0 0x02
  | .dout i a b => encR 0x36 i 0 a b 0x04
  | .dorb i d => encR 0x36 i d 0 0 0x05
  | .cnt i d a => encR 0x36 i d a 0 0x08
  | .freq i d a => encR 0x36 i d a 0 0x09
  | .mfs i d n => encI 0x37 i d 0 n
  | _ => none

/-- Whether a command's operands are such as an admitted word can carry (R48, R51, R55, R57, R60, R62, R75, R78): no value that a
rule reserves. -/
def rylinFits (c : Instr) : Bool :=
  match c with
  | .cmp _ p m _ _ fn => p != 0#3 && m != 3#2 && (decide (fn.toNat ≤ 6) || (decide (8 ≤ fn.toNat) && decide (fn.toNat ≤ 10)))
  | .cmpi _ p m _ cond _ => p != 0#3 && m != 3#2 && cond != 7#3
  | .ldx _ _ _ _ fn _ => decide (fn.toNat < 16)
  | .stx _ _ _ _ fn _ => decide (fn.toNat < 12)
  | .br _ off => off != 0#22
  | .loop _ _ n => n != 0#16
  | .endl i => !i.guard.neg && decide (i.guard.p = 0#3)
  | .rstk _ _ _ b => decide (b.toNat ≤ 0x12)
  | .mfs _ _ n => decide (n.toNat ≤ 10)
  | _ => true

end Sys2Proof.Machine
end

