-- ==== Sys2Proof/Safety.lean ====
section
/-!
DEFINITION. What statements are said in: the canonical form of the sparse stores, the invariants of the block, when an instruction
issues and takes effect, and what it leaves as it was.
-/
namespace Sys2Proof.Machine

/-! ## Stores and invariants -/

/-- The canonical form of a lane's memory: rising addresses, no byte listed that reads the same unlisted (R40). -/
def Memory.wf (m : List Host.Cell) : Bool := spWfFrom memDflt none m

/-- The canonical form of a register set. -/
def Regs.wf (i : LaneId) (r : Regs) : Bool := spWfFrom (regDflt i) none r

/-- The canonical form of the latent memory errors. -/
def Upsets.wf (e : List (Nat × Ecc)) : Bool := spWfFrom (fun _ => Ecc.none) none e

/-- A lane's stores are in canonical form. -/
def Lane.wf (l : Lane) : Bool := Regs.wf l.ident l.regs && Memory.wf l.mem && Upsets.wf l.ecc

/-- Both lanes' stores are in canonical form and the lanes keep their identities (R3). -/
def State.wf (s : State) : Bool :=
  s.la.wf && s.lb.wf && decide (s.la.ident = .A) && decide (s.lb.ident = .B)

/-- Frame memory's ring holds at most 256 entries and its head names one of them (R441). -/
def RingInv (s : State) : Prop := s.fm.ring.length ≤ 256 ∧ s.fm.head < 256

/-! ## What the lanes' requests may change -/

/-- The registers that carrying out the lanes' requests and their views of each other may change: roles, hand-over, safe state,
records, self-test, and sticky conditions (R6, R18, R386, R426, R431, R440, R447). -/
def SettleReg (a : Nat) : Prop :=
  a ∈ [SYS_STS, SYS_STK, XLN_STS, XLN_STK, FLT_STS, FLT_STK, PEAT_STS, PEAT_STK, PEAT_HEAD, THM_STK, BST_STS, BST_STK] ∨
  ∃ x : Axis, a = AXS_STK x

/-- A lane changed at most in those registers and the record of the core cycle (R8), in what it asks of the world, in records and sticky conditions of those registers that wait, and in what its axes
are asked and whether a yield that found no peer asked it. -/
structure Quiet (l m : Lane) : Prop where
  rest : m = { l with regs := m.regs, cyc := m.cyc, out := m.out, peatQ := m.peatQ, axes := m.axes, late := m.late }
  axes : ∀ x, { vget m.axes x with ask := none, stopNy := false } = { vget l.axes x with ask := none, stopNy := false }
  regs : ∀ a, ¬ SettleReg a → rget m a = rget l a
  late : ∃ x, m.late = l.late ++ x ∧ ∀ e ∈ x, SettleReg e.1

/-- A state changed at most as the lanes' requests change it: a hand-over or a self-test begins, link cartridges go dark, cartridges
follow another lane, switch commands are on their way to outputs, a cartridge leaves SAFE, commands go to the Cord, frame memory takes entries. All else stays,
and the lanes are changed quietly. -/
structure Calm (s t : State) : Prop where
  pending : t.pending = s.pending
  now : t.now = s.now
  t1At : t.t1At = s.t1At
  free : t.free = s.free
  key : t.key = s.key
  presReq : t.presReq = s.presReq
  sup : t.sup = s.sup
  pres : t.pres = s.pres
  okc : t.okc = s.okc
  xlnUp : t.xlnUp = s.xlnUp
  svcOut : t.svcOut = s.svcOut
  cord : { t.cord with pathA := s.cord.pathA, pathB := s.cord.pathB } = s.cord
  fm : { t.fm with ring := s.fm.ring, head := s.fm.head, hcrc := s.fm.hcrc } = s.fm
  fields : ∀ f, { vget t.fields f with
      sel := (vget s.fields f).sel, safe := (vget s.fields f).safe, pend := (vget s.fields f).pend } = vget s.fields f
  links : ∀ k, (vget t.links k).n = (vget s.links k).n
  bricks : ∀ b, { vget t.bricks b with ports := (vget s.bricks b).ports, tbase := (vget s.bricks b).tbase } = vget s.bricks b
  lanes : ∀ i, Quiet (laneOf s i) (laneOf t i)

/-- Every lane that runs is changed as `P` says; a lane that does not run, and everything outside the lanes, stay as they were. -/
structure Lanewise (s t : State) (P : Lane → Lane → Prop) : Prop where
  world : t = { s with la := t.la, lb := t.lb }
  runs : ∀ i, laneRuns (laneOf s i) = true → P (laneOf s i) (laneOf t i)
  rests : ∀ i, laneRuns (laneOf s i) = false → laneOf t i = laneOf s i

/-- The lanes that run are changed as `P` says, and then the lanes' requests are carried out. -/
def Settled (s t : State) (P : Lane → Lane → Prop) : Prop := ∃ u, Lanewise s u P ∧ Calm u t

/-- Only registers of a lane change, and only those of `A`; the record of the core cycle's events goes with them (R8). -/
structure RegsOnly (l m : Lane) (A : List Nat) : Prop where
  rest : m = { l with regs := m.regs, cyc := m.cyc }
  regs : ∀ a, a ∉ A → rget m a = rget l a

/-- The lane holds a sticky condition whose source has been raised, for the next boundary to show (R31). -/
def SetLate (f : Field) (l : Lane) : Prop := (f.addr, (2 ^ f.w - 1) * 2 ^ f.lo) ∈ l.late

/-- A counting field goes one up and stands still at all ones (R82, R112). -/
def Counted (f : Field) (l m : Lane) : Prop := fget m f = min (2 ^ f.w - 1) (fget l f + 1)

/-- A task has just been released at `now` (R37, R83): its job stands at its entry with empty stacks and an empty commit buffer. -/
def Released (l : Lane) (now : Nat) (c : Fin 4) (k : Fin 16) : Prop :=
  let x := taskOf l c k
  x.run = .live ∧ x.pc = 0x80000 * c.1 + 4 * fget l (ADM_TENT_ENTRY (tix c k)) ∧ x.calls = [] ∧ x.loops = [] ∧ x.buf = [] ∧
  x.relNow = now

/-- The tasks of a class that belong to the set of work have just been released. -/
def ClassReleased (l : Lane) (now cls : Nat) : Prop :=
  ∀ c k, fget l (ADM_TCFG_CLASS (tix c k)) = cls → taskInSet l (tix c k) = true → Released l now c k

/-! ## Instructions of a core -/

/-- The instruction issues and takes effect: its lane is not DORMANT (R399), its fetch meets no double-bit error (R46), its guard is not 0b1000, and the guard's
condition is true (R48). -/
def Issues (i : Issue) (s : State) : Prop :=
  asleep (laneOf s i.lane) = false ∧ i.fetch ≠ .double ∧ guardNever i.guard = false ∧
  guardOn (curTask (laneOf s i.lane) i.core) i.guard = true

/-- The context loaded in the core that issues. -/
def ctxOf (i : Issue) (s : State) : TaskCtx := curTask (laneOf s i.lane) i.core

/-- The lane that issues. -/
def laneAt (i : Issue) (s : State) : Lane := laneOf s i.lane

/-- The register at `a` in the lane that issues. -/
def regAt (i : Issue) (s : State) (a : Nat) : Word := rget (laneOf s i.lane) a

/-- The cycle at which the core stands after an instruction of `cost` cycles that reads `srcs`: the wait for load results (R44),
the cost, idle cycles under throttling (R380), and the replay of a corrected fetch (R46). -/
def cycAfter (i : Issue) (s : State) (cost : Nat) (srcs : List RegNo) : Nat :=
  issueCycle (coreOf (laneOf s i.lane) i.core) srcs + cost + idleCycles (laneOf s i.lane) i.core +
  (if i.fetch = .single then 16 else 0)

/-- What an instruction that changes its loaded context leaves as it was. `A` are the registers it may change; a corrected fetch
sets ECCREP and the self-check record besides (R46, R435). -/
structure Kept (i : Issue) (s t : State) (A : List Nat) : Prop where
  /-- everything outside the lane -/
  world : t = putLane s i.lane (laneOf t i.lane)
  /-- everything in the lane but cores, registers with the cycle record, and hash units: all of memory, tags, axes, ports -/
  lane : laneOf t i.lane =
    { laneOf s i.lane with
      cores := (laneOf t i.lane).cores, regs := (laneOf t i.lane).regs, cyc := (laneOf t i.lane).cyc
      units := (laneOf t i.lane).units }
  units : i.fetch ≠ .single → (laneOf t i.lane).units = (laneOf s i.lane).units
  /-- every register not named -/
  regs : ∀ a, a ∉ A → (i.fetch = .single → a ≠ SYS_CSTK i.core ∧ a ≠ FLT_STK) → regAt i t a = regAt i s a
  /-- the other cores -/
  cores : ∀ c, c ≠ i.core → coreOf (laneOf t i.lane) c = coreOf (laneOf s i.lane) c
  /-- the core but its contexts and its cycle -/
  core : coreOf (laneOf t i.lane) i.core =
    { coreOf (laneOf s i.lane) i.core with
      tasks := (coreOf (laneOf t i.lane) i.core).tasks, cyc := (coreOf (laneOf t i.lane) i.core).cyc }
  /-- the contexts of the core's other tasks -/
  tasks : ∀ k, k ≠ (coreOf (laneOf s i.lane) i.core).cur →
    taskOf (laneOf t i.lane) i.core k = taskOf (laneOf s i.lane) i.core k

/-- The instruction answers `t` with the loaded context changed by `f`, one instruction further on, and nothing else changed but the
registers `A`. -/
def Ran (i : Issue) (s t : State) (cost : Nat) (srcs : List RegNo) (A : List Nat) (f : TaskCtx → TaskCtx) : Prop :=
  ctxOf i t = nextPc (f (ctxOf i s)) ∧ (coreOf (laneOf t i.lane) i.core).cyc = cycAfter i s cost srcs ∧ Kept i s t A

/-- What an access to memory leaves as it was: everything outside the lane; in the lane everything but cores, registers with the cycle record, hash units,
memory and its check bits; every register but SYS_CSTKn and the summary of sticky conditions FLT_STK; the other cores; of the core
everything but contexts, cycle, result times and store folds; the contexts of its other tasks. -/
structure AccessKept (i : Issue) (s t : State) : Prop where
  world : t = putLane s i.lane (laneOf t i.lane)
  lane : laneAt i t =
    { laneAt i s with
      cores := (laneAt i t).cores, regs := (laneAt i t).regs, cyc := (laneAt i t).cyc, units := (laneAt i t).units
      mem := (laneAt i t).mem, ecc := (laneAt i t).ecc }
  regs : ∀ a, a ≠ SYS_CSTK i.core → a ≠ FLT_STK → regAt i t a = regAt i s a
  cores : ∀ c, c ≠ i.core → coreOf (laneAt i t) c = coreOf (laneAt i s) c
  core : coreOf (laneAt i t) i.core =
    { coreOf (laneAt i s) i.core with
      tasks := (coreOf (laneAt i t) i.core).tasks, cyc := (coreOf (laneAt i t) i.core).cyc
      avail := (coreOf (laneAt i t) i.core).avail, folds := (coreOf (laneAt i t) i.core).folds }
  tasks : ∀ k, k ≠ (coreOf (laneAt i s) i.core).cur → taskOf (laneAt i t) i.core k = taskOf (laneAt i s) i.core k

/-- The crossbar slot of an access whose core issues at cycle `t`: the core's first owned cycle from there (R44). -/
def IsSlot (c : Fin 4) (t slot : Nat) : Prop := t ≤ slot ∧ slot < t + 4 ∧ slot % 4 = c.1

/-- Byte `x` of the number `v` stored at `a`. -/
def storedByte (a : Nat) (v : Word) (x : Nat) : Byte := BitVec.ofNat 8 (v.toNat / 2 ^ (8 * (x - a)))

/-- An exception is taken (R79 to R82): the job of the task that ran ends with its stacks and commit buffer empty, word registers and
predicates as they were; code, task, count, pc and address are recorded, EXC is set, and the core-exception source is raised. -/
structure TookException (i : Issue) (s t : State) (code adr : Nat) : Prop where
  code : regAt i t (SYS_CEXC i.core) &&& 0xF0F#32 =
    BitVec.ofNat 32 (code + 256 * (coreOf (laneAt i s) i.core).cur.1)
  count : fget (laneAt i t) (SYS_CEXC_COUNT i.core) = min 255 (fget (laneAt i s) (SYS_CEXC_COUNT i.core) + 1)
  pc : regAt i t (SYS_CPC i.core) = wordOf (ctxOf i s).pc
  adr : regAt i t (SYS_CADR i.core) = wordOf adr
  exc : fget (laneAt i t) (SYS_CSTK_EXC i.core) = 1
  raised : ∃ r ∈ (laneAt i t).vis, r.src = 0x70 + i.core.1
  mem : (laneAt i t).mem = (laneAt i s).mem
  ctx : let k := (coreOf (laneAt i s) i.core).cur
    let x := taskOf (laneAt i t) i.core k
    x.w = (ctxOf i s).w ∧ x.p = (ctxOf i s).p ∧ x.calls = [] ∧ x.loops = [] ∧ x.buf = [] ∧
    (isBg (laneAt i s) i.core k = false → x.run = .idle) ∧
    (isBg (laneAt i s) i.core k = true → taskInSet (laneAt i s) (tix i.core k) = true →
      x.run = .live ∧ x.pc = 0x80000 * i.core.1 + 4 * fget (laneAt i s) (ADM_TENT_ENTRY (tix i.core k)))

/-- What an instruction of the task, fault and bus groups leaves as it was: time and queue, memory, the other cores, what the other lane
holds but for what the lanes show of each other, and every register but `A`, SYS_CSTKn and those of `SettleReg`. -/
structure SysKept (i : Issue) (s t : State) (A : List Nat) : Prop where
  now : t.now = s.now
  pending : t.pending = s.pending
  mem : (laneAt i t).mem = (laneAt i s).mem
  regs : ∀ a, ¬ SettleReg a → a ∉ A → a ≠ SYS_CSTK i.core → regAt i t a = regAt i s a
  cores : ∀ c, c ≠ i.core → coreOf (laneAt i t) c = coreOf (laneAt i s) c
  other : Quiet (laneOf s (otherLane i.lane)) (laneOf t (otherLane i.lane))

/-! ## Forms of statements -/

/-- The command answers a next state of which `P` holds. -/
def Answers (c : Instr) (s : State) (P : State → Prop) : Prop := ∃ t, exec c s = .next t ∧ P t

/-- An instruction of two source registers that issues writes into `rd` a value that `V` relates to its sources, after `cost` cycles,
and changes nothing else (R39, R47, R50). -/
def RunsRR (mk : Issue → RegNo → RegNo → RegNo → Instr) (cost : Nat) (V : Word → Word → Word → Prop) : Prop :=
  ∀ (i : Issue) (s : State) (rd ra rb : RegNo), Issues i s →
    Answers (mk i rd ra rb) s fun t =>
      ∃ v, V (getW (ctxOf i s) ra) (getW (ctxOf i s) rb) v ∧ Ran i s t cost [ra, rb] [] fun c => setW c rd v

/-- The same for an instruction of one source register. -/
def RunsR (mk : Issue → RegNo → RegNo → Instr) (cost : Nat) (V : Word → Word → Prop) : Prop :=
  ∀ (i : Issue) (s : State) (rd ra : RegNo), Issues i s →
    Answers (mk i rd ra) s fun t => ∃ v, V (getW (ctxOf i s) ra) v ∧ Ran i s t cost [ra] [] fun c => setW c rd v

/-- A word with the guard `g`, written out from the manual's encoding, spells the instruction `c`, whatever core issues it (R47, R51). -/
def Spelled (g : Guard) (w : Word) (c : Issue → Instr) : Prop :=
  guardNever g = false → ∀ (lane : LaneId) (core : Fin 4) (fetch up : Ecc),
    rylinOf lane core fetch up w = c { lane := lane, core := core, guard := g, fetch := fetch }

/-- A number held between the bounds of a signed word. -/
def clamp32 (v : Int) : Int := max (-2147483648) (min 2147483647 v)

end Sys2Proof.Machine
end

