-- ==== Sys2Proof/Certificates/Slice0/Obligations.lean ====
section
/-!
DEFINITION. The statements for the provers. Each is a `def Obligations.<Name> : Prop`; OBLIGATIONS.json lists them.
-/
open Sys2Proof Sys2Proof.Machine

/-! ## The machine -/

/-- A step takes the command at the front of the queue and runs it on the state with the queue's rest. Choices and readings of the model
in it: log 1, 2, 62. -/
def Obligations.StepRunsFrontCommand : Prop :=
  ∀ (c : Instr) (s : State), step { s with pending := c :: s.pending } = exec c s

/-- R39: a word register reads as what was written to it and w0 as zero; a predicate likewise and p0 as true; a write reaches no other
register, and a write to w0 or p0 is discarded. -/
def Obligations.RegistersReadAsWritten : Prop :=
  ∀ (c : TaskCtx) (r q : RegNo) (p o : PredNo) (v : Word) (b : Bool),
    getW (setW c r v) q = (if q = 0#5 then 0#32 else if q = r then v else getW c q) ∧
    getP (setP c p b) o = (if o = 0#3 then true else if o = p then b else getP c o) ∧
    setW c 0#5 v = c ∧ setP c 0#3 b = c ∧
    (∀ k, getP (setW c r v) k = getP c k) ∧ (∀ k, getW (setP c p b) k = getW c k)

/-! ## Integer instructions -/

/-- R52, R54: the register forms that give their low word modulo 2^32, the logical operations, shifts, minima and maxima, saturated sums
and high products, the unary operations and the immediate forms; each runs in one cycle and changes rd alone. The encodings of the
immediate forms. Choices and readings of the model in it: log 11. -/
def Obligations.IntegerOperations : Prop :=
  RunsRR .add 1 (fun a b v => v.toNat = (a.toNat + b.toNat) % 2 ^ 32) ∧
  RunsRR .sub 1 (fun a b v => v.toNat = (a.toNat + 2 ^ 32 - b.toNat) % 2 ^ 32) ∧
  RunsRR .and 1 (fun a b v => ∀ k, v.getLsbD k = (a.getLsbD k && b.getLsbD k)) ∧
  RunsRR .or 1 (fun a b v => ∀ k, v.getLsbD k = (a.getLsbD k || b.getLsbD k)) ∧
  RunsRR .xor 1 (fun a b v => ∀ k, v.getLsbD k = (a.getLsbD k != b.getLsbD k)) ∧
  RunsRR .andn 1 (fun a b v => ∀ k < 32, v.getLsbD k = (a.getLsbD k && !b.getLsbD k)) ∧
  RunsRR .shl 1 (fun a b v => v.toNat = a.toNat * 2 ^ (b.toNat % 32) % 2 ^ 32) ∧
  RunsRR .shr 1 (fun a b v => v.toNat = a.toNat / 2 ^ (b.toNat % 32)) ∧
  RunsRR .sar 1 (fun a b v => v.toInt = a.toInt / 2 ^ (b.toNat % 32)) ∧
  RunsRR .ror 1 (fun a b v => ∀ k < 32, v.getLsbD k = a.getLsbD ((k + b.toNat % 32) % 32)) ∧
  RunsRR .min 1 (fun a b v => v.toInt = min a.toInt b.toInt) ∧
  RunsRR .max 1 (fun a b v => v.toInt = max a.toInt b.toInt) ∧
  RunsRR .minu 1 (fun a b v => v.toNat = min a.toNat b.toNat) ∧
  RunsRR .maxu 1 (fun a b v => v.toNat = max a.toNat b.toNat) ∧
  RunsRR .sadd 1 (fun a b v => v.toInt = clamp32 (a.toInt + b.toInt)) ∧
  RunsRR .ssub 1 (fun a b v => v.toInt = clamp32 (a.toInt - b.toInt)) ∧
  RunsRR .mul 1 (fun a b v => v.toNat = a.toNat * b.toNat % 2 ^ 32) ∧
  RunsRR .mulhs 1 (fun a b v => v.toInt = a.toInt * b.toInt / 2 ^ 32) ∧
  RunsRR .mulhu 1 (fun a b v => v.toNat = a.toNat * b.toNat / 2 ^ 32) ∧
  RunsRR .mulq 1 (fun a b v =>
    -- nearest to the product over 2^16, a tie away from zero
    ∃ r : Int, v.toInt = clamp32 r ∧ 2 * (r * 2 ^ 16 - a.toInt * b.toInt).natAbs ≤ 2 ^ 16 ∧
      (2 * (r * 2 ^ 16 - a.toInt * b.toInt).natAbs = 2 ^ 16 → (a.toInt * b.toInt).natAbs ≤ (r * 2 ^ 16).natAbs)) ∧
  RunsR .clz 1 (fun a v => v.toNat ≤ 32 ∧ a.toNat < 2 ^ (32 - v.toNat) ∧ (v.toNat < 32 → 2 ^ (31 - v.toNat) ≤ a.toNat)) ∧
  RunsR .abs 1 (fun a v => v.toInt = clamp32 a.toInt.natAbs) ∧
  RunsR .sextb 1 (fun a v => v.toInt = (a.setWidth 8).toInt) ∧
  RunsR .sexth 1 (fun a v => v.toInt = (a.setWidth 16).toInt) ∧
  (∀ imm : BitVec 12, RunsR (fun i rd ra => .addi i rd ra imm) 1 (fun a v => v = BitVec.ofInt 32 (a.toInt + imm.toInt))) ∧
  (∀ imm : BitVec 12, RunsR (fun i rd ra => .andi i rd ra imm) 1 (fun a v => ∀ k, v.getLsbD k = (a.getLsbD k && imm.getLsbD k))) ∧
  (∀ imm : BitVec 12, RunsR (fun i rd ra => .ori i rd ra imm) 1 (fun a v => ∀ k, v.getLsbD k = (a.getLsbD k || imm.getLsbD k))) ∧
  (∀ imm : BitVec 12, RunsR (fun i rd ra => .xori i rd ra imm) 1 (fun a v => ∀ k, v.getLsbD k = (a.getLsbD k != imm.getLsbD k))) ∧
  (∀ imm : BitVec 12, RunsR (fun i rd ra => .muli i rd ra imm) 1 (fun a v => v = BitVec.ofInt 32 (a.toInt * imm.toInt))) ∧
  (∀ k : BitVec 5, RunsR (fun i rd ra => .shli i rd ra k) 1 (fun a v => v.toNat = a.toNat * 2 ^ k.toNat % 2 ^ 32)) ∧
  (∀ k : BitVec 5, RunsR (fun i rd ra => .shri i rd ra k) 1 (fun a v => v.toNat = a.toNat / 2 ^ k.toNat)) ∧
  (∀ k : BitVec 5, RunsR (fun i rd ra => .sari i rd ra k) 1 (fun a v => v.toInt = a.toInt / 2 ^ k.toNat)) ∧
  (∀ k : BitVec 5, RunsR (fun i rd ra => .rori i rd ra k) 1 (fun a v => ∀ j < 32, v.getLsbD j = a.getLsbD ((j + k.toNat) % 32))) ∧
  (∀ (i : Issue) (s : State) (rd : RegNo) (imm : BitVec 16), Issues i s →
    Answers (.movl i rd imm) s (fun t => ∃ v : Word, v.toNat = imm.toNat ∧ Ran i s t 1 [] [] fun c => setW c rd v) ∧
    Answers (.movh i rd imm) s (fun t => ∃ v : Word,
      v.toNat = imm.toNat * 2 ^ 16 + (getW (ctxOf i s) rd).toNat % 2 ^ 16 ∧ Ran i s t 1 [rd] [] fun c => setW c rd v)) ∧
  (∀ (g : Guard) (rd ra : RegNo) (imm : BitVec 12) (k : BitVec 5) (v : BitVec 16),
    let form (major : BitVec 6) (x : BitVec 12) (c : Issue → Instr) : Prop := Spelled g (major ++ guardBits g ++ rd ++ ra ++ x) c
    form 0x02#6 imm (fun i => .addi i rd ra imm) ∧ form 0x03#6 imm (fun i => .andi i rd ra imm) ∧
    form 0x04#6 imm (fun i => .ori i rd ra imm) ∧ form 0x05#6 imm (fun i => .xori i rd ra imm) ∧
    form 0x06#6 (0#5 ++ 0#2 ++ k) (fun i => .shli i rd ra k) ∧ form 0x06#6 (0#5 ++ 1#2 ++ k) (fun i => .shri i rd ra k) ∧
    form 0x06#6 (0#5 ++ 2#2 ++ k) (fun i => .sari i rd ra k) ∧ form 0x06#6 (0#5 ++ 3#2 ++ k) (fun i => .rori i rd ra k) ∧
    (∀ (z : BitVec 5) (op : BitVec 2), z ≠ 0#5 → form 0x06#6 (z ++ op ++ k) fun i => .ill i) ∧
    form 0x07#6 imm (fun i => .muli i rd ra imm) ∧
    Spelled g (0x08#6 ++ guardBits g ++ rd ++ 0#1 ++ v) (fun i => .movl i rd v) ∧
    Spelled g (0x08#6 ++ guardBits g ++ rd ++ 1#1 ++ v) (fun i => .movh i rd v))

/-- R53 and the quotients of R52: a division runs in 12 cycles, writes rd, and sets SYS_CSTKn.DIVZ exactly when the divisor is zero; no
other register changes than SYS_CSTKn and the summary of sticky conditions FLT_STK. Choices and readings of the model in it: log 11. -/
def Obligations.Divisions : Prop :=
  ∀ (i : Issue) (s : State) (rd ra rb : RegNo), Issues i s →
    let a := getW (ctxOf i s) ra
    let b := getW (ctxOf i s) rb
    let run (c : Instr) (V : Word → Prop) : Prop := Answers c s fun t =>
      (∃ v, V v ∧ Ran i s t 12 [ra, rb] [SYS_CSTK i.core, FLT_STK] fun c => setW c rd v) ∧
      (b = 0#32 → fget (laneAt i t) (SYS_CSTK_DIVZ i.core) = 1) ∧
      (b ≠ 0#32 → i.fetch ≠ .single → regAt i t (SYS_CSTK i.core) = regAt i s (SYS_CSTK i.core) ∧ regAt i t FLT_STK = regAt i s FLT_STK)
    run (.div i rd ra rb) (fun v =>
      if b = 0#32 then v = (if 0 ≤ a.toInt then 0x7FFFFFFF#32 else 0x80000000#32)
      else if a = 0x80000000#32 ∧ b = 0xFFFFFFFF#32 then v = 0x7FFFFFFF#32
      else v.toInt = a.toInt.tdiv b.toInt) ∧
    run (.divu i rd ra rb) (fun v => if b = 0#32 then v = 0xFFFFFFFF#32 else v.toNat = a.toNat / b.toNat) ∧
    run (.rem i rd ra rb) (fun v =>
      if b = 0#32 then v = a
      else if a = 0x80000000#32 ∧ b = 0xFFFFFFFF#32 then v = 0#32
      else v.toInt = a.toInt - a.toInt.tdiv b.toInt * b.toInt) ∧
    run (.remu i rd ra rb) (fun v => if b = 0#32 then v = a else v.toNat = a.toNat % b.toNat)

/-! ## Comparison and predicates -/

/-- R55, R56: what CMP and CMPI compare. The three block-float comparisons are of the values of R65, and set SYS_CSTKn.BFRANGE where an
exponent lies outside −32 to +31. Operations on predicates; PTOW and WTOP pack and unpack them; a write to p0 is discarded; how these
are encoded. Choices and readings of the model in it: log 11. -/
def Obligations.ComparisonsAndPredicates : Prop :=
  (∀ (i : Issue) (s : State) (pd : PredNo) (cm : BitVec 2) (ra rb : RegNo), Issues i s → pd ≠ 0#3 → cm ≠ 3#2 →
     let x := getW (ctxOf i s) ra
     let comb (o : Bool) : TaskCtx → TaskCtx := fun c =>
       setP c pd (if cm = 0#2 then o else if cm = 1#2 then getP (ctxOf i s) pd && o else getP (ctxOf i s) pd || o)
     let outcome (n : Nat) (y : Word) (o : Bool) : Prop :=
       (n = 0 → o = decide (x = y)) ∧ (n = 1 → o = decide (x ≠ y)) ∧
       (n = 2 → o = decide (x.toInt < y.toInt)) ∧ (n = 3 → o = decide (y.toInt ≤ x.toInt)) ∧
       (n = 4 → o = decide (x.toNat < y.toNat)) ∧ (n = 5 → o = decide (y.toNat ≤ x.toNat)) ∧
       (n = 6 → o = decide (x &&& y ≠ 0#32))
     (∀ fn : BitVec 7, fn.toNat ≤ 6 → Answers (.cmp i pd cm ra rb fn) s fun t =>
       ∃ o, outcome fn.toNat (getW (ctxOf i s) rb) o ∧ Ran i s t 1 [ra, rb] [] (comb o)) ∧
     (∀ fn : BitVec 7, 8 ≤ fn.toNat → fn.toNat ≤ 10 → Answers (.cmp i pd cm ra rb fn) s fun t =>
       let y := getW (ctxOf i s) rb
       ∃ o, (fn.toNat = 8 → o = dyEq (bfVal x) (bfVal y)) ∧ (fn.toNat = 9 → o = dyLt (bfVal x) (bfVal y)) ∧
         (fn.toNat = 10 → o = !(dyLt (bfVal y) (bfVal x))) ∧
         Ran i s t 1 [ra, rb] [SYS_CSTK i.core, FLT_STK] (comb o) ∧
         (bfOut x || bfOut y → fget (laneAt i t) (SYS_CSTK_BFRANGE i.core) = 1)) ∧
     (∀ (cond : BitVec 3) (imm : BitVec 9), cond ≠ 7#3 → Answers (.cmpi i pd cm ra cond imm) s fun t =>
       ∃ o, outcome cond.toNat (if cond = 6#3 then imm.setWidth 32 else imm.signExtend 32) o ∧ Ran i s t 1 [ra] [] (comb o))) ∧
  (∀ (i : Issue) (s : State) (pd pa pb : PredNo) (rd ra : RegNo), Issues i s →
     let p := getP (ctxOf i s) pa
     let q := getP (ctxOf i s) pb
     Answers (.pand i pd pa pb) s (fun t => Ran i s t 1 [] [] fun c => setP c pd (p && q)) ∧
     Answers (.por i pd pa pb) s (fun t => Ran i s t 1 [] [] fun c => setP c pd (p || q)) ∧
     Answers (.pxor i pd pa pb) s (fun t => Ran i s t 1 [] [] fun c => setP c pd (p != q)) ∧
     Answers (.pandn i pd pa pb) s (fun t => Ran i s t 1 [] [] fun c => setP c pd (p && !q)) ∧
     Answers (.pnot i pd pa) s (fun t => Ran i s t 1 [] [] fun c => setP c pd (!p)) ∧
     Answers (.ptow i rd) s (fun t => ∃ v : Word,
       (∀ k : PredNo, v.getLsbD k.toNat = getP (ctxOf i s) k) ∧ v.toNat < 256 ∧ Ran i s t 1 [] [] fun c => setW c rd v) ∧
     Answers (.wtop i ra) s (fun t => ∃ m : BitVec 8,
       (∀ k : PredNo, k ≠ 0#3 → getP { ctxOf i s with p := m } k = (getW (ctxOf i s) ra).getLsbD k.toNat) ∧
       Ran i s t 1 [ra] [] fun c => { c with p := m })) ∧
  (∀ (c : TaskCtx) (b : Bool), setP c 0#3 b = c ∧ getP c 0#3 = true) ∧
  (∀ (g : Guard) (pd pa pb : PredNo) (r : RegNo),
    let form (fn : BitVec 7) (pb : PredNo) (c : Issue → Instr) : Prop :=
      Spelled g (0x0B#6 ++ guardBits g ++ pd ++ pa ++ pb ++ 0#1 ++ 0#5 ++ fn) c
    form 0#7 pb (fun i => .pand i pd pa pb) ∧ form 1#7 pb (fun i => .por i pd pa pb) ∧ form 2#7 pb (fun i => .pxor i pd pa pb) ∧
    form 3#7 pb (fun i => .pandn i pd pa pb) ∧ form 4#7 0#3 (fun i => .pnot i pd pa) ∧ (pb ≠ 0#3 → form 4#7 pb fun i => .ill i) ∧
    (∀ fn : BitVec 7, fn ∉ [0#7, 1#7, 2#7, 3#7, 4#7, 8#7, 9#7] → form fn pb fun i => .ill i) ∧
    Spelled g (0x0B#6 ++ guardBits g ++ r ++ 0#5 ++ 0#5 ++ 8#7) (fun i => .ptow i r) ∧
    Spelled g (0x0B#6 ++ guardBits g ++ 0#5 ++ r ++ 0#5 ++ 9#7) (fun i => .wtop i r))

/-! ## Memory -/

/-- R43, R44, R57, R59: a load from SRAM puts the bytes at its address, least significant first and extended as its form says, into rd;
the access takes place at the core's slot, and the result is written two cycles later. Memory and every register stay as they were, but
for the sticky conditions of a corrected error. A word loaded from a register window is the register's value, whatever the commit buffer
holds, written eight cycles after the slot; read-clear bits are cleared by it and no other register changes. Choices and readings of the
model in it: log 7, 17. -/
def Obligations.LoadsReadMemory : Prop :=
  ∀ (i : Issue) (s : State) (rd ra rb : RegNo) (imm : BitVec 12) (fn : BitVec 7) (up : Ecc), Issues i s →
    let byte (a : Nat) : Byte := mget8 (laneAt i s) a
    let readable (a : Nat) : Prop :=
      (0x01000000 ≤ a ∧ a < 0x01400000) ∨ (0x02000000 ≤ a ∧ a < 0x02100000) ∨ (0x03000000 ≤ a ∧ a < 0x03100000)
    let loads (c : Instr) (srcs : List RegNo) (a n : Nat) (v : Word) : Prop :=
      readable a → a % n = 0 → eccAt (laneAt i s) a up ≠ .double → Answers c s fun t =>
        ctxOf i t = nextPc (setW (ctxOf i s) rd v) ∧ AccessKept i s t ∧ (laneAt i t).mem = (laneAt i s).mem ∧
        (i.fetch = .none → eccAt (laneAt i s) a up = .none → idleCycles (laneAt i s) i.core = 0 →
          ∃ slot, IsSlot i.core (issueCycle (coreOf (laneAt i s) i.core) srcs) slot ∧
            (coreOf (laneAt i t) i.core).cyc = slot + 1 ∧
            (rd ≠ 0#5 → vget (coreOf (laneAt i t) i.core).avail rd.toFin = slot + 2))
    let a := (getW (ctxOf i s) ra + imm.signExtend 32).toNat
    let x := (getW (ctxOf i s) ra + getW (ctxOf i s) rb <<< (fn.toNat % 4)).toNat
    let word (a : Nat) : Word := byte (a + 3) ++ byte (a + 2) ++ byte (a + 1) ++ byte a
    let half (a : Nat) : BitVec 16 := byte (a + 1) ++ byte a
    loads (.ld i rd ra imm up) [ra] a 4 (word a) ∧
    loads (.ldh i rd ra imm up) [ra] a 2 ((half a).signExtend 32) ∧
    loads (.ldhu i rd ra imm up) [ra] a 2 ((half a).setWidth 32) ∧
    loads (.ldb i rd ra imm up) [ra] a 1 ((byte a).signExtend 32) ∧
    loads (.ldbu i rd ra imm up) [ra] a 1 ((byte a).setWidth 32) ∧
    (fn.toNat / 4 = 0 → loads (.ldx i rd ra rb fn up) [ra, rb] x 4 (word x)) ∧
    (fn.toNat / 4 = 1 → loads (.ldx i rd ra rb fn up) [ra, rb] x 2 ((half x).signExtend 32)) ∧
    (fn.toNat / 4 = 2 → loads (.ldx i rd ra rb fn up) [ra, rb] x 2 ((half x).setWidth 32)) ∧
    (fn.toNat / 4 = 3 → loads (.ldx i rd ra rb fn up) [ra, rb] x 1 ((byte x).setWidth 32)) ∧
    (let window (c : Instr) (srcs : List RegNo) (a : Nat) : Prop :=
       0x40000000 ≤ a → a < 0x40130000 → a % 4 = 0 → i.fetch = .none → (∀ e ∈ (laneAt i s).cyc.evs, e.addr ≠ a) → Answers c s fun t =>
         t = putLane s i.lane (laneAt i t) ∧ (laneAt i t).mem = (laneAt i s).mem ∧ (∀ y, y ≠ a → regAt i t y = regAt i s y) ∧
         (∃ v, ctxOf i t = nextPc (setW (ctxOf i s) rd v) ∧
           (findReg a = none → v = 0#32 ∧ regAt i t a = regAt i s a) ∧
           (∀ d, findReg a = some d → v = regAt i s a &&& ~~~(BitVec.ofNat 32 (d.wo &&& (0xFFFFFFFF - d.rw))) ∧
             regAt i t a = regAt i s a &&& ~~~(BitVec.ofNat 32 d.rc))) ∧
         (idleCycles (laneAt i s) i.core = 0 → ∃ slot, IsSlot i.core (issueCycle (coreOf (laneAt i s) i.core) srcs) slot ∧
           (coreOf (laneAt i t) i.core).cyc = slot + 1 ∧
           (rd ≠ 0#5 → vget (coreOf (laneAt i t) i.core).avail rd.toFin = slot + 8))
     window (.ld i rd ra imm up) [ra] a ∧ (fn.toNat / 4 = 0 → window (.ldx i rd ra rb fn up) [ra, rb] x))

/-- R43, R45, R57: a store that R42 permits in SRAM writes the low bytes of rs at its address, least significant first, and no other
byte; nothing else changes but the pc, the cycle, the store fold and the sticky conditions of a corrected error. A word stored to a
register whose fields are committed, and each output that DOUT names, enters the task's commit buffer and changes no register at the
instruction (R59); it replaces the entry of that register, and one that finds the 64 entries taken is discarded with CBFULL (R105). A
word stored to a register without committed fields changes its writable bits at the slot, and its W1C bits where the word has ones.
Choices and readings of the model in it: log 7, 25. -/
def Obligations.StoresTakeEffect : Prop :=
  (∀ (i : Issue) (s : State) (rs ra rb : RegNo) (imm : BitVec 12) (fn : BitVec 7) (up : Ecc), Issues i s →
     let v := getW (ctxOf i s) rs
     let stores (c : Instr) (a n : Nat) : Prop :=
       mayStore (laneAt i s) a n = true → a < 0x40000000 → a % n = 0 → (n = 4 ∨ eccAt (laneAt i s) a up ≠ .double) →
         Answers c s fun t =>
           ctxOf i t = nextPc (ctxOf i s) ∧ AccessKept i s t ∧
           ∀ x, mget8 (laneAt i t) x = if a ≤ x ∧ x < a + n then storedByte a v x else mget8 (laneAt i s) x
     let a := (getW (ctxOf i s) ra + imm.signExtend 32).toNat
     let x := (getW (ctxOf i s) ra + getW (ctxOf i s) rb <<< (fn.toNat % 4)).toNat
     stores (.st i rs ra imm up) a 4 ∧ stores (.sth i rs ra imm up) a 2 ∧ stores (.stb i rs ra imm up) a 1 ∧
     (fn.toNat / 4 = 0 → stores (.stx i rs ra rb fn up) x 4) ∧
     (fn.toNat / 4 = 1 → stores (.stx i rs ra rb fn up) x 2) ∧
     (fn.toNat / 4 = 2 → stores (.stx i rs ra rb fn up) x 1)) ∧
  (∀ (i : Issue) (s : State) (rs ra rb : RegNo) (imm : BitVec 12) (fn : BitVec 7) (up : Ecc), Issues i s → i.fetch = .none →
     let v := getW (ctxOf i s) rs
     let buf := (ctxOf i s).buf
     let window (c : Instr) (a : Nat) : Prop := 0x40000000 ≤ a → a < 0x40130000 → a % 4 = 0 →
       (hasCommitted a = true → hasPlain a = false →
         ((∀ e ∈ buf, e.1 ≠ a) → buf.length < 64 → Answers c s fun t =>
           ctxOf i t = nextPc { ctxOf i s with buf := buf ++ [(a, v)] } ∧ ∀ x, regAt i t x = regAt i s x) ∧
         ((∃ e ∈ buf, e.1 = a) → Answers c s fun t =>
           ctxOf i t = nextPc { ctxOf i s with buf := (ctxOf i t).buf } ∧ (ctxOf i t).buf.length = buf.length ∧
           (a, v) ∈ (ctxOf i t).buf ∧ (∀ w, (a, w) ∈ (ctxOf i t).buf → w = v) ∧
           (∀ e : Nat × Word, e.1 ≠ a → (e ∈ (ctxOf i t).buf ↔ e ∈ buf)) ∧ ∀ x, regAt i t x = regAt i s x) ∧
         ((∀ e ∈ buf, e.1 ≠ a) → 64 ≤ buf.length → Answers c s fun t =>
           ctxOf i t = nextPc (ctxOf i s) ∧ fget (laneAt i t) ADM_STK_CBFULL = 1 ∧
           ∀ x, x ≠ ADM_STK → x ≠ FLT_STK → regAt i t x = regAt i s x)) ∧
       (∀ d, findReg a = some d → d.com = 0 → writeReserved a v.toNat = false → blockOf a ≠ 0x06 →
         a ∉ [BLK_MREQ, CLK_MCMD, PEAT_RSEL, SYS_CSTK 0, SYS_CSTK 1, SYS_CSTK 2, SYS_CSTK 3] →
         (∀ e ∈ (laneAt i s).cyc.evs, e.addr ≠ a) → Answers c s fun t =>
           ctxOf i t = nextPc (ctxOf i s) ∧ t = putLane s i.lane (laneAt i t) ∧ (laneAt i t).mem = (laneAt i s).mem ∧
           (∀ x, x ≠ a → regAt i t x = regAt i s x) ∧
           ∀ j : Fin 32, (regAt i t a).getLsbD j =
             if bit d.w1c j = true ∧ v.getLsbD j = true then false
             else if bit d.rw j = true then v.getLsbD j else (regAt i s a).getLsbD j)
     window (.st i rs ra imm up) (getW (ctxOf i s) ra + imm.signExtend 32).toNat ∧
     (fn.toNat / 4 = 0 → window (.stx i rs ra rb fn up) (getW (ctxOf i s) ra + getW (ctxOf i s) rb <<< (fn.toNat % 4)).toNat) ∧
     ((ctxOf i s).buf = [] → Answers (.dout i ra rb) s fun t =>
       (∀ x, regAt i t x = regAt i s x) ∧
       (ctxOf i t).buf = ((List.range 32).filter fun n => (getW (ctxOf i s) rb).getLsbD n).map fun n =>
         (doutKey n, if (getW (ctxOf i s) ra).getLsbD n then 1#32 else 0#32)))

/-- R46, R58: an atomic operation on data SRAM returns the old word in rd and leaves the new word in memory; no other byte changes. A
crossbar transfer that fails its parity check is retried one frame of four cycles later, and XBREP is set; contexts and memory stay as
they were. Choices and readings of the model in it: log 7, 19. -/
def Obligations.AtomicsAndCrossbarRetries : Prop :=
  (∀ (i : Issue) (s : State) (rd ra rb : RegNo) (up : Ecc), Issues i s →
    let a := (getW (ctxOf i s) ra).toNat
    let b := getW (ctxOf i s) rb
    let old := mget32 (laneAt i s) a
    let swaps (c : Instr) (new : Word) : Prop :=
      0x01000000 ≤ a → a < 0x01400000 → inCapture (laneAt i s) a = false → a % 4 = 0 → eccAt (laneAt i s) a up ≠ .double →
        Answers c s fun t =>
          ctxOf i t = nextPc (setW (ctxOf i s) rd old) ∧ AccessKept i s t ∧ mget32 (laneAt i t) a = new ∧
          ∀ x, (x < a ∨ a + 4 ≤ x) → mget8 (laneAt i t) x = mget8 (laneAt i s) x
    swaps (.amoswp i rd ra rb up) b ∧ swaps (.amoadd i rd ra rb up) (old + b) ∧ swaps (.amoand i rd ra rb up) (old &&& b) ∧
    swaps (.amoor i rd ra rb up) (old ||| b) ∧
    swaps (.amomax i rd ra rb up) (if old.toInt < b.toInt then b else old)) ∧
  (∀ (x : LaneId) (c : Fin 4) (s : State), laneRuns (laneOf s x) = true →
    Answers (.crossbarRetry x c) s fun t =>
      t = putLane s x (laneOf t x) ∧ (coreOf (laneOf t x) c).cyc = (coreOf (laneOf s x) c).cyc + 4 ∧
      fget (laneOf t x) (SYS_CSTK_XBREP c) = 1 ∧ (coreOf (laneOf t x) c).tasks = (coreOf (laneOf s x) c).tasks ∧
      (∀ d, d ≠ c → coreOf (laneOf t x) d = coreOf (laneOf s x) d) ∧ (laneOf t x).mem = (laneOf s x).mem ∧
      ∀ a, a ≠ SYS_CSTK c → a ≠ FLT_STK → rget (laneOf t x) a = rget (laneOf s x) a)

/-- R42, R43, R46, R79 to R82: which accesses are permitted. Loads: data, table and queue SRAM, and words of the register windows.
Stores: data SRAM outside the capture area, exactly what the image declares writable of the tables and no enabled axis uses, the
transmit staging areas, and words of the windows. Atomic operations: data SRAM outside the capture area. Nothing else, so no program
slice and no unmapped address. An access that is not permitted takes ADDR, one that is permitted at a misaligned address takes ALIGN,
and one that reads a word with a double-bit error takes ECC; SYS_CADRn holds the address. Choices and readings of the model in it: log
7, 18, 121, 124. -/
def Obligations.AccessRightsAndExceptions : Prop :=
  (∀ (l : Lane) (a n : Nat),
     (mayLoad a n = true ↔
       (0x01000000 ≤ a ∧ a < 0x01400000) ∨ (0x02000000 ≤ a ∧ a < 0x02100000) ∨ (0x03000000 ≤ a ∧ a < 0x03100000) ∨
       (0x40000000 ≤ a ∧ a < 0x40130000 ∧ n = 4)) ∧
     (mayAmo l a = true ↔ 0x01000000 ≤ a ∧ a < 0x01400000 ∧ (fget l LPE_CCTL_EN = 0 ∨ a < l.decl.dtop)) ∧
     (a < 0x02000000 → (mayStore l a n = true ↔ 0x01000000 ≤ a ∧ a < 0x01400000 ∧ (fget l LPE_CCTL_EN = 0 ∨ a < l.decl.dtop))) ∧
     (0x02000000 ≤ a → a < 0x03000000 →
       (mayStore l a n = true ↔ a < 0x02100000 ∧ (∃ r ∈ l.decl.wr, r.1 ≤ a ∧ a < r.2) ∧ tableInUse l a = false)) ∧
     ((∀ x : Axis, axEnabled l x = false) → tableInUse l a = false) ∧
     (0x03000000 ≤ a → a < 0x40000000 → (mayStore l a n = true ↔
       a < 0x03020000 ∧ 0x7800 ≤ a % 0x8000 ∧ a % 0x8000 < 0x7E00)) ∧
     (0x40000000 ≤ a → (mayStore l a n = true ↔ a < 0x40130000 ∧ n = 4))) ∧
  (∀ (i : Issue) (s : State) (r ra rb : RegNo) (imm : BitVec 12) (fn : BitVec 7) (up : Ecc), Issues i s →
     let l := laneAt i s
     let a := (getW (ctxOf i s) ra + imm.signExtend 32).toNat
     let x := (getW (ctxOf i s) ra + getW (ctxOf i s) rb <<< (fn.toNat % 4)).toNat
     let d := (getW (ctxOf i s) ra).toNat
     let size : Nat := if fn.toNat / 4 = 0 then 4 else if fn.toNat / 4 = 3 then 1 else 2
     let sizeS : Nat := if fn.toNat / 4 = 0 then 4 else if fn.toNat / 4 = 1 then 2 else 1
     let takes (c : Instr) (a n : Nat) (may reads : Bool) : Prop :=
       (may = false → Answers c s fun t => TookException i s t 2 a) ∧
       (may = true → a % n ≠ 0 → Answers c s fun t => TookException i s t 1 a) ∧
       (may = true → a % n = 0 → a < 0x40000000 → reads = true → eccAt l a up = .double →
         Answers c s fun t => TookException i s t 3 a)
     (∀ f ∈ [(Instr.ld i r ra imm up, 4), (.ldh i r ra imm up, 2), (.ldhu i r ra imm up, 2), (.ldb i r ra imm up, 1),
         (.ldbu i r ra imm up, 1)], takes f.1 a f.2 (mayLoad a f.2) true) ∧
     (fn.toNat < 16 → takes (.ldx i r ra rb fn up) x size (mayLoad x size) true) ∧
     takes (.st i r ra imm up) a 4 (mayStore l a 4) false ∧ takes (.sth i r ra imm up) a 2 (mayStore l a 2) true ∧
     takes (.stb i r ra imm up) a 1 (mayStore l a 1) true ∧
     (fn.toNat < 12 → takes (.stx i r ra rb fn up) x sizeS (mayStore l x sizeS) (decide (sizeS ≠ 4))) ∧
     (∀ c ∈ [Instr.amoswp i r ra rb up, .amoadd i r ra rb up, .amoand i r ra rb up, .amoor i r ra rb up, .amomax i r ra rb up],
       takes c d 4 (mayAmo l d) true))

/-! ## Control flow -/

/-- R60, R61: BR goes forward by off22 words; CALL pushes the address after it on the call stack of 8 entries and goes to a word of the
core's own slice; RET pops the call stack into the pc. Each takes two cycles. Choices and readings of the model in it: log 11, 16. -/
def Obligations.BranchCallReturn : Prop :=
  ∀ (i : Issue) (s : State) (off : BitVec 22) (target : BitVec 17), Issues i s →
    let jumps (c : Instr) (x : TaskCtx) : Prop := Answers c s fun t =>
      ctxOf i t = x ∧ (coreOf (laneAt i t) i.core).cyc = cycAfter i s 2 [] ∧ Kept i s t []
    (off ≠ 0#22 → jumps (.br i off) { ctxOf i s with pc := ((ctxOf i s).pc + 4 * off.toNat) % 2 ^ 32 }) ∧
    jumps (.call i target) { ctxOf i s with
      pc := 0x80000 * i.core.1 + 4 * target.toNat, calls := (((ctxOf i s).pc + 4) % 2 ^ 32 :: (ctxOf i s).calls).take 8 } ∧
    (∀ a r, (ctxOf i s).calls = a :: r → jumps (.ret i) { ctxOf i s with pc := a, calls := r })

/-- R62: LOOP pushes its count, start and end; ENDL counts down and goes back to the start, or pops when the count is used up; BRKL pops
and goes past the ENDL. A LOOP whose count is zero goes past its ENDL, and one whose count is above n16 takes LOOPMAX. Choices and
readings of the model in it: log 16, 124. -/
def Obligations.BoundedLoops : Prop :=
  ∀ (i : Issue) (s : State) (ra : RegNo) (n : BitVec 16), Issues i s →
    let x := ctxOf i s
    let goes (c : Instr) (cost : Nat) (srcs : List RegNo) (y : TaskCtx) : Prop := Answers c s fun t =>
      ctxOf i t = y ∧ (coreOf (laneAt i t) i.core).cyc = cycAfter i s cost srcs ∧ Kept i s t []
    let count := if ra = 0#5 then n.toNat else (getW x ra).toNat
    let last := endlOf (laneAt i s) i.core x.pc
    (n ≠ 0#16 → 0 < count → count ≤ n.toNat → goes (.loop i ra n) 2 [ra]
      { nextPc x with loops := ({ count := count, start := (x.pc + 4) % 2 ^ 32, fin := last } :: x.loops).take 8 }) ∧
    (n ≠ 0#16 → count = 0 → goes (.loop i ra n) 2 [ra] { x with pc := (last + 4) % 2 ^ 32 }) ∧
    (n ≠ 0#16 → n.toNat < count → Answers (.loop i ra n) s fun t => TookException i s t 4 0) ∧
    (∀ f r, x.loops = f :: r → i.guard = { neg := false, p := 0#3 } →
      (1 < f.count → goes (.endl i) 1 [] { x with pc := f.start, loops := { f with count := f.count - 1 } :: r }) ∧
      (f.count ≤ 1 → goes (.endl i) 1 [] { nextPc x with loops := r })) ∧
    (∀ f r, x.loops = f :: r → goes (.brkl i) 2 [] { x with pc := (f.fin + 4) % 2 ^ 32, loops := r })

/-! ## Guards, words that no program holds -/

/-- R49: an instruction whose guard is false takes its stated cycles, without slot, tag or event wait, and goes on to the next
instruction, and nothing else changes: every instruction but ENDL, whose guard is always true, and ILL, which no guard hides (R48, R51).
A LOOP goes past its ENDL. Choices and readings of the model in it: log 16, 62, 122. -/
def Obligations.FalseGuardsHaveNoEffect : Prop :=
  ∀ (i : Issue) (s : State) (r a b : RegNo) (pd pa pb : PredNo) (cm : BitVec 2) (fn : BitVec 7) (cond : BitVec 3) (f5 : BitVec 5)
    (i9 : BitVec 9) (imm : BitVec 12) (n : BitVec 16) (target : BitVec 17) (off : BitVec 22) (k : Slot) (up : Ecc),
    asleep (laneAt i s) = false → i.fetch ≠ .double → guardNever i.guard = false → guardOn (ctxOf i s) i.guard = false →
    let skips (cost : Nat) (srcs : List RegNo) (cs : List Instr) : Prop :=
      ∀ c ∈ cs, rylinFits c = true → Answers c s fun t => Ran i s t cost srcs [] id
    -- the same, after which the lanes' requests are carried out
    let passes (cost : Nat) (srcs : List RegNo) (cs : List Instr) : Prop :=
      ∀ c ∈ cs, Answers c s fun t => ∃ u, Ran i s u cost srcs [] id ∧ Calm u t
    skips 1 [a, b] [.add i r a b, .sub i r a b, .and i r a b, .or i r a b, .xor i r a b, .andn i r a b, .shl i r a b, .shr i r a b,
      .sar i r a b, .ror i r a b, .min i r a b, .max i r a b, .minu i r a b, .maxu i r a b] ∧
    skips 1 [a, b] [.sadd i r a b, .ssub i r a b, .mul i r a b, .mulhs i r a b, .mulhu i r a b, .mulq i r a b, .cmp i pd cm a b fn,
      .fmin i r a b, .fmax i r a b, .ldx i r a b fn up] ∧
    skips 12 [a, b] [.div i r a b, .divu i r a b, .rem i r a b, .remu i r a b] ∧
    skips 1 [a] [.clz i r a, .abs i r a, .sextb i r a, .sexth i r a, .addi i r a imm, .andi i r a imm, .ori i r a imm, .xori i r a imm,
      .shli i r a f5, .shri i r a f5, .sari i r a f5, .rori i r a f5, .muli i r a imm] ∧
    skips 1 [a] [.cmpi i pd cm a cond i9, .wtop i a, .ld i r a imm up, .ldh i r a imm up, .ldhu i r a imm up, .ldb i r a imm up,
      .ldbu i r a imm up, .fabs i r a, .fneg i r a, .fnorm i r a, .fscl i r a imm, .waitt i r a, .testt i pd a] ∧
    skips 1 [] [.movl i r n, .pand i pd pa pb, .por i pd pa pb, .pxor i pd pa pb, .pandn i pd pa pb, .pnot i pd pa, .ptow i r, .wevt i r,
      .mfs i r imm] ∧
    skips 1 [r] [.movh i r n] ∧
    skips 1 [r, a] [.st i r a imm up, .sth i r a imm up, .stb i r a imm up] ∧ skips 1 [r, a, b] [.stx i r a b fn up] ∧
    skips 2 [a, b] [.amoswp i r a b up, .amoadd i r a b up, .amoand i r a b up, .amoor i r a b up, .amomax i r a b up, .fadd i r a b,
      .fsub i r a b, .fmul i r a b, .dout i a b] ∧
    skips 2 [] [.br i off, .call i target, .ret i, .brkl i, .din0 i r, .din1 i r, .dstal i r, .dorb i r] ∧
    skips 3 [r, a, b] [.fmac i r a b] ∧
    skips 2 [a] [.ffix i r a f5, .fflt i r a f5, .postRun i r a k, .postPreset i r a k, .postRegion i r a k, .postRead i r a k] ∧
    skips 2 [0#5] [.postRunc i r k] ∧ skips 6 [a] [.rstk i r a f5] ∧ skips 3 [a] [.cnt i r a, .freq i r a] ∧
    passes 1 [] [.wtick i] ∧ passes 2 [a] [.raise i a f5, .cack i a] ∧
    passes 4 [a, b] [.ctxq i r a b, .ctxd i r a b, .ccan i r a b] ∧ passes 3 [0#5, b] [.crx i r b] ∧
    (n ≠ 0#16 → Answers (.loop i a n) s fun t =>
      ctxOf i t = { ctxOf i s with pc := (endlOf (laneAt i s) i.core (ctxOf i s).pc + 4) % 2 ^ 32 } ∧ Kept i s t [])

/-- R51, R48, R46: a word that admission refuses takes ILL whatever its guard, and so do the guard 0b1000 and the reserved operand
values of CMP, CMPI, LDX, STX, BR, LOOP, RSTK, MFS and a guarded ENDL; a fetch that meets a double-bit error takes ECC at the fetch
address. Choices and readings of the model in it: log 18, 62, 124. -/
def Obligations.RefusedWordsTakeIll : Prop :=
  ∀ (i : Issue) (s : State) (r a b : RegNo) (pd : PredNo) (cm : BitVec 2) (fn : BitVec 7) (cond : BitVec 3) (imm : BitVec 9)
    (f5 : BitVec 5) (n : BitVec 12), asleep (laneAt i s) = false →
    (i.fetch = .double → ∀ c ∈ [Instr.ill i, .add i r a b, .wtick i, .ret i], Answers c s fun t => TookException i s t 3 (ctxOf i s).pc) ∧
    (i.fetch ≠ .double →
      Answers (.ill i) s (fun t => TookException i s t 7 0) ∧
      (∀ c ∈ [Instr.cmp i pd cm a b fn, .cmpi i pd cm a cond imm, .ldx i r a b fn .none, .stx i r a b fn .none, .br i 0, .loop i a 0,
          .endl i, .rstk i r a f5, .mfs i r n],
        rylinFits c = false → Answers c s fun t => TookException i s t 7 0) ∧
      (guardNever i.guard = true → Answers (.add i r a b) s fun t => TookException i s t 7 0))

/-! ## Block float -/

/-- R64 to R67: the instructions on block-float words take each source at its value, compute exactly, round once and write rd; overflow,
underflow and exponents out of range set their sticky conditions, and nothing else changes. The word the one rounding gives is
canonical; an exact value that is a canonical word's value comes back as that word without a flag; zero gives 0x0000_00E0; a value
beyond the largest saturates with overflow. A result without a flag is the multiple nearest to the exact value, a tie away from zero, of
the weight that the last of 23 bits has in it; what overflows and what underflows is decided after rounding. FFIX gives the nearest
integer, a tie away from zero, between the bounds of a word. Choices and readings of the model in it: log 11, 83. -/
def Obligations.BlockFloatInstructions : Prop :=
  (∀ (i : Issue) (s : State) (rd ra rb : RegNo) (k : BitVec 5) (imm : BitVec 12), Issues i s →
     let d := getW (ctxOf i s) rd
     let a := getW (ctxOf i s) ra
     let b := getW (ctxOf i s) rb
     let gives (c : Instr) (cost : Nat) (srcs : List RegNo) (r : Word × BfFlags) (out : Bool) : Prop := Answers c s fun t =>
       Ran i s t cost srcs [SYS_CSTK i.core, FLT_STK] (fun c => setW c rd r.1) ∧
       (out = true → fget (laneAt i t) (SYS_CSTK_BFRANGE i.core) = 1) ∧
       (r.2.ovf = true → fget (laneAt i t) (SYS_CSTK_BFOVF i.core) = 1) ∧
       (r.2.und = true → fget (laneAt i t) (SYS_CSTK_BFUND i.core) = 1) ∧
       (out = false → r.2.ovf = false → r.2.und = false → i.fetch ≠ .single → regAt i t (SYS_CSTK i.core) = regAt i s (SYS_CSTK i.core))
     gives (.fadd i rd ra rb) 2 [ra, rb] (bfRound (dyAdd (bfVal a) (bfVal b))) (bfOut a || bfOut b) ∧
     gives (.fsub i rd ra rb) 2 [ra, rb] (bfRound (dyAdd (bfVal a) (dyNeg (bfVal b)))) (bfOut a || bfOut b) ∧
     gives (.fmul i rd ra rb) 2 [ra, rb] (bfRound (dyMul (bfVal a) (bfVal b))) (bfOut a || bfOut b) ∧
     gives (.fmac i rd ra rb) 3 [rd, ra, rb] (bfRound (dyAdd (bfVal d) (dyMul (bfVal a) (bfVal b))))
       (bfOut d || bfOut a || bfOut b) ∧
     gives (.fmin i rd ra rb) 1 [ra, rb] (bfRound (if dyLt (bfVal b) (bfVal a) then bfVal b else bfVal a)) (bfOut a || bfOut b) ∧
     gives (.fmax i rd ra rb) 1 [ra, rb] (bfRound (if dyLt (bfVal a) (bfVal b) then bfVal b else bfVal a)) (bfOut a || bfOut b) ∧
     gives (.fabs i rd ra) 1 [ra] (bfRound (dyAbs (bfVal a))) (bfOut a) ∧
     gives (.fneg i rd ra) 1 [ra] (bfRound (dyNeg (bfVal a))) (bfOut a) ∧
     gives (.fnorm i rd ra) 1 [ra] (bfRound (bfVal a)) (bfOut a) ∧
     gives (.ffix i rd ra k) 2 [ra] (bfFix (bfVal a) k.toNat) (bfOut a) ∧
     gives (.fflt i rd ra k) 2 [ra] (bfRound { m := a.toInt, e := -(k.toNat : Int) }) false ∧
     gives (.fscl i rd ra imm) 1 [ra] (bfRound { m := (bfVal a).m, e := (bfVal a).e + imm.toInt }) (bfOut a)
 ) ∧
  (∀ x : Dy, bfCanon (bfRound x).1 = true) ∧
  (∀ w : Word, bfCanon w = true → bfRound (bfVal w) = (w, BfFlags.none)) ∧
  (∀ x : Dy, x.m = 0 → bfRound x = (0x000000E0#32, BfFlags.none)) ∧
  (∀ x : Dy, 8 ≤ x.e → 0x800000 ≤ x.m → bfRound x = (0x7FFFFF1F#32, { BfFlags.none with ovf := true })) ∧
  (∀ x : Dy, 8 ≤ x.e → x.m < -0x800000 → bfRound x = (0x8000001F#32, { BfFlags.none with ovf := true })) ∧
  (∀ x : Dy, x.e ≤ -58 → 0 < x.m → x.m ≤ 0xFFFFFF → bfRound x = (0x000000E0#32, { BfFlags.none with und := true })) ∧
  (∀ (x : Dy) (w : Word) (n : Nat), 2 ^ n ≤ x.m.natAbs → x.m.natAbs < 2 ^ (n + 1) → bfRound x = (w, BfFlags.none) → w ≠ 0xBFFFFFE0#32 →
    -- both values, and the weight of the last bit, in units of the lesser exponent
    let c := min x.e (bfVal w).e
    let y := (bfVal w).m * pow2 ((bfVal w).e - c)
    let v := x.m * pow2 (x.e - c)
    let last := (2 : Int) ^ (n - 22) * pow2 (x.e - c)
    (n < 22 → y = v) ∧
    (22 ≤ n → (∃ r : Int, y = r * last) ∧ 2 * (y - v).natAbs ≤ last.natAbs ∧ (2 * (y - v).natAbs = last.natAbs → v.natAbs ≤ y.natAbs))) ∧
  bfRound { m := -1, e := -33 } = (0xBFFFFFE0#32, BfFlags.none) ∧
  (∀ m : Int, (bfRound { m := m, e := 0 }).2.ovf = true ↔ 2 ^ 31 - 2 ^ 7 ≤ m ∨ m ≤ -(2 ^ 31 + 2 ^ 8)) ∧
  (∀ m : Int, (bfRound { m := m, e := -70 }).2.und = true ↔ m ≠ 0 ∧ m.natAbs < 2 ^ 37 - 2 ^ 13) ∧
  (∀ (x : Dy) (k : Nat),
    let e := x.e + (k : Int)
    let r := bfFix x k
    (0 ≤ e → r.1.toInt = clamp32 (x.m * 2 ^ e.toNat) ∧ (r.2.ovf = true ↔ clamp32 (x.m * 2 ^ e.toNat) ≠ x.m * 2 ^ e.toNat)) ∧
    (e < 0 → ∃ q : Int, r.1.toInt = clamp32 q ∧ (r.2.ovf = true ↔ clamp32 q ≠ q) ∧
      2 * (q * 2 ^ (-e).toNat - x.m).natAbs ≤ 2 ^ (-e).toNat ∧
      (2 * (q * 2 ^ (-e).toNat - x.m).natAbs = 2 ^ (-e).toNat → x.m.natAbs ≤ (q * 2 ^ (-e).toNat).natAbs)))

/-! ## Engine operations and tags -/

/-- R68, R69: POST takes the lowest-numbered free tag for its operation, which waits for the engine with the word of ra, and writes the
tag to rd; with as many tags in use as the task declares it takes TAGX. Choices and readings of the model in it: log 21, 31, 124. -/
def Obligations.PostTakesLowestFreeTag : Prop :=
  ∀ (i : Issue) (s : State) (rd ra : RegNo) (k : Slot), Issues i s →
    let l := laneAt i s
    let me := (coreOf l i.core).cur
    let x := getW (ctxOf i s) ra
    ∀ f ∈ [(Instr.postRun i rd ra k, OpKind.run, x, [ra]), (.postRunc i rd k, .runc, 0#32, [0#5]), (.postPreset i rd ra k, .preset, x, [ra]),
        (.postRegion i rd ra k, .region, x, [ra]), (.postRead i rd ra k, .read, x, [ra])],
      (∀ g, tagCount l i.core me < fget l (ADM_TCFG_TAGS (tix i.core me)) → vget l.tags g = .free →
          (∀ h, h < g → vget l.tags h ≠ .free) →
        Answers f.1 s fun t =>
          ctxOf i t = nextPc (setW (ctxOf i s) rd (wordOf g.1)) ∧
          (coreOf (laneAt i t) i.core).cyc = cycAfter i s 2 f.2.2.2 ∧
          vget (laneAt i t).tags g = .busy i.core me f.2.1 k f.2.2.1 false ∧
          (∀ h, h ≠ g → vget (laneAt i t).tags h = vget l.tags h) ∧
          (∃ inp, (laneAt i t).engq = l.engq ++ [{ tag := g, inp := inp }]) ∧
          (laneAt i t).mem = l.mem ∧ (i.fetch ≠ .single → ∀ a, regAt i t a = regAt i s a)) ∧
      (fget l (ADM_TCFG_TAGS (tix i.core me)) ≤ tagCount l i.core me → Answers f.1 s fun t => TookException i s t 5 0)

/-- R70: WAITT on the tag of a completed operation writes its result to rd and returns the tag; while the operation runs the task waits.
TESTT sets its predicate to whether the operation has completed and keeps the tag. Either takes TAGW on a tag the task does not hold.
Choices and readings of the model in it: log 11, 124. -/
def Obligations.WaitAndTestTags : Prop :=
  ∀ (i : Issue) (s : State) (rd ra : RegNo) (pd : PredNo), Issues i s →
    let l := laneAt i s
    let me := (coreOf l i.core).cur
    let w := getW (ctxOf i s) ra
    (∀ g : Fin 64, w.toNat = g.1 → tagHeld i.core me (vget l.tags g) = true →
      (∀ c k r, vget l.tags g = .done c k r →
        Answers (.waitt i rd ra) s (fun t =>
          ctxOf i t = nextPc (setW (ctxOf i s) rd r) ∧ vget (laneAt i t).tags g = .free ∧
          (∀ h, h ≠ g → vget (laneAt i t).tags h = vget l.tags h) ∧ (laneAt i t).mem = l.mem ∧
          (i.fetch ≠ .single → ∀ a, regAt i t a = regAt i s a)) ∧
        Answers (.testt i pd ra) s (fun t => Ran i s t 1 [ra] [] fun c => setP c pd true)) ∧
      ((∀ c k r, vget l.tags g ≠ .done c k r) →
        Answers (.waitt i rd ra) s (fun t =>
          taskOf (laneAt i t) i.core me = { ctxOf i s with run := .waitTag rd g } ∧ vget (laneAt i t).tags g = vget l.tags g ∧
          (laneAt i t).mem = l.mem) ∧
        Answers (.testt i pd ra) s (fun t => Ran i s t 1 [ra] [] fun c => setP c pd false))) ∧
    ((∀ g : Fin 64, w.toNat = g.1 → tagHeld i.core me (vget l.tags g) = false) →
      Answers (.waitt i rd ra) s (fun t => TookException i s t 6 0) ∧ Answers (.testt i pd ra) s (fun t => TookException i s t 6 0))

/-! ## Tasks, faults, sticky conditions -/

/-- R72, R106: WTICK ends the job. A tick-bound task keeps its commit buffer for the commit instant and has no job until its next
release; a background task starts again at its entry at once. Word registers and predicates keep their values. Choices and readings of
the model in it: log 20. -/
def Obligations.WtickEndsJob : Prop :=
  ∀ (i : Issue) (s : State), Issues i s →
    let l := laneAt i s
    let me := (coreOf l i.core).cur
    let x := ctxOf i s
    (isBg l i.core me = false → Answers (.wtick i) s fun t =>
      let y := taskOf (laneAt i t) i.core me
      y.run = .idle ∧ y.w = x.w ∧ y.p = x.p ∧ y.calls = [] ∧ y.loops = [] ∧ (x.ovrun = false → y.buf = x.buf) ∧
      (laneAt i t).mem = l.mem) ∧
    (isBg l i.core me = true → taskInSet l (tix i.core me) = true → x.buf = [] → Answers (.wtick i) s fun t =>
      let y := taskOf (laneAt i t) i.core me
      y.run = .live ∧ y.pc = 0x80000 * i.core.1 + 4 * fget l (ADM_TENT_ENTRY (tix i.core me)) ∧ y.w = x.w ∧ y.p = x.p ∧
      y.calls = [] ∧ y.loops = [] ∧ y.jobs = (x.jobs + 1) % 2 ^ 32 ∧ (laneAt i t).mem = l.mem)

/-- R73, R423: WEVT takes the lowest pending source of the task, writes its number to rd and acknowledges it; with none pending the task
waits. Choices and readings of the model in it: log 20. -/
def Obligations.WevtTakesLowestSource : Prop :=
  ∀ (i : Issue) (s : State) (rd : RegNo), Issues i s →
    let l := laneAt i s
    let me := (coreOf l i.core).cur
    let n := tix i.core me
    (∀ k : Nat, k < 256 → (rget l (FLT_WP n (k / 32))).getLsbD (k % 32) = true →
      (∀ j < k, (rget l (FLT_WP n (j / 32))).getLsbD (j % 32) = false) →
      Answers (.wevt i rd) s fun t =>
        taskOf (laneAt i t) i.core me = { nextPc (setW (ctxOf i s) rd (wordOf k)) with run := .live } ∧
        (rget (laneAt i t) (FLT_WP n (k / 32))).getLsbD (k % 32) = false ∧ (laneAt i t).mem = l.mem) ∧
    ((∀ k < 256, (rget l (FLT_WP n (k / 32))).getLsbD (k % 32) = false) →
      Answers (.wevt i rd) s fun t =>
        taskOf (laneAt i t) i.core me = { ctxOf i s with run := .waitEvt rd } ∧ (laneAt i t).mem = l.mem)

/-- R74, R75: RAISE raises program fault source PFf with the word of ra as context word 0, and the job goes on. RSTK reads a block's
sticky register into rd and clears the W1C bits that are one in ra; a bit that the hardware sets in that clock stays set. Choices and
readings of the model in it: log 11. -/
def Obligations.RaiseAndReadSticky : Prop :=
  ∀ (i : Issue) (s : State) (rd ra : RegNo) (f b : BitVec 5), Issues i s →
    let w := getW (ctxOf i s) ra
    Answers (.raise i ra f) s (fun t =>
      ctxOf i t = nextPc (ctxOf i s) ∧
      (∃ r, (laneAt i t).vis = (laneAt i s).vis ++ [r] ∧ r.src = f.toNat ∧ r.ctx0 = w ∧ r.sev = srcSev (laneAt i s) f.toNat w) ∧
      (laneAt i t).mem = (laneAt i s).mem) ∧
    (b.toNat < 0x13 → i.fetch = .none → Answers (.rstk i rd ra b) s fun t =>
      let a := 0x40000004 + 0x10000 * b.toNat
      -- the service window has no sticky register, and reads as zero (R43)
      Ran i s t 6 [ra] [a] (fun c => setW c rd (if b.toNat = 0x12 then 0#32 else regAt i s a)) ∧
      (∀ k, w.getLsbD k = false → (regAt i t a).getLsbD k = (regAt i s a).getLsbD k) ∧
      let own := ((laneAt i s).cyc.evs.filter fun e => e.addr = a && e.cyc = issueCycle (coreOf (laneAt i s) i.core) [ra])
      (∀ k, w.getLsbD k = true → (∃ d, findReg a = some d ∧ bit d.w1c k = true) →
        ((∀ e ∈ own, e.mask.testBit k = false) → (regAt i t a).getLsbD k = false) ∧
        ((∃ e ∈ own, e.mask.testBit k = true) → (regAt i t a).getLsbD k = (regAt i s a).getLsbD k)))

/-! ## CAN group -/

/-- R76, R346, R349, R352, R355: with rb[31:3] not zero a CAN instruction returns all ones and does nothing. CTXQ appends the frame of a
good descriptor to a FIFO that has room and returns 1, or returns 0 where it is full; CTXD places it in the lowest free enabled slot, or
returns all ones; CCAN cancels a pending slot whose frame has not begun; CRX takes the oldest unowned entry, or returns 0. Choices and
readings of the model in it: log 58, 85, 86. -/
def Obligations.CanInstructions : Prop :=
  ∀ (i : Issue) (s : State) (rd ra rb : RegNo), Issues i s →
    let l := laneAt i s
    let a := getW (ctxOf i s) ra
    let b := getW (ctxOf i s) rb
    let returns (c : Instr) (v : Word) (A : List Nat) (P : Lane → Prop) : Prop := Answers c s fun t =>
      ctxOf i t = nextPc (setW (ctxOf i s) rd v) ∧ SysKept i s t A ∧ P (laneAt i t)
    (b.toNat / 8 ≠ 0 → ∀ c ∈ [Instr.ctxq i rd ra rb, .ctxd i rd ra rb, .ccan i rd ra rb, .crx i rd rb],
      returns c 0xFFFFFFFF#32 [] fun m => m.cans = l.cans) ∧
    (b.toNat / 8 = 0 → ∀ p : CanPort, p.1 = b.toNat % 4 →
      let x := vget l.cans p
      let regs := [CAN_QSTS p, CAN_TXSTS p]
      -- both ports of a pair, from its leader (R359)
      let ps := portsOf l p
      let all (k : Fin 8) : List Nat := ps.flatMap fun (q : CanPort) => [CAN_QSTS q, CAN_TXSTS q, CAN_DS q k, CAN_DT q k]
      (∀ d, readDesc l p a.toNat = some d → x.fifo.length < 32 → returns (.ctxq i rd ra rb) 1#32 regs fun m =>
        ∃ f, (vget m.cans p).fifo = x.fifo ++ [f] ∧ f.w0 = d.1 ∧ f.w1 = d.2.1 ∧ f.data = d.2.2.2) ∧
      (∀ d, readDesc l p a.toNat = some d → 32 ≤ x.fifo.length → returns (.ctxq i rd ra rb) 0#32 [] fun m => m.cans = l.cans) ∧
      (readDesc l p a.toNat = none → returns (.ctxq i rd ra rb) 0xFFFFFFFF#32 [CAN_STK p] fun m =>
        m.cans = l.cans ∧ fget m (CAN_STK_BADDESC p) = 1) ∧
      (isFollower l p = true → ∀ c ∈ [Instr.ctxd i rd ra rb, .ccan i rd ra rb],
        returns c 0xFFFFFFFF#32 [CAN_STK p] fun m => m.cans = l.cans ∧ fget m (CAN_STK_PAIRERR p) = 1) ∧
      (isFollower l p = false → ∀ d, readDesc l p a.toNat = some d →
        (∀ k : Fin 8, (fget l (CAN_DEN_EN p)).testBit k = true → (∀ q ∈ ps, fget l (CAN_DS_STATE q k) ≠ 1) →
          (∀ j : Fin 8, j < k → (fget l (CAN_DEN_EN p)).testBit j = false ∨ ∃ q ∈ ps, fget l (CAN_DS_STATE q j) = 1) →
          returns (.ctxd i rd ra rb) (wordOf k) (all k) fun m => ∀ q ∈ ps, fget m (CAN_DS_STATE q k) = 1 ∧
            ∃ f, vget (vget m.cans q).slots k = some f ∧ f.w0 = d.1 ∧ f.w1 = d.2.1 ∧ f.dl = d.2.2.1 ∧ f.data = d.2.2.2) ∧
        ((∀ k : Fin 8, (fget l (CAN_DEN_EN p)).testBit k = false ∨ ∃ q ∈ ps, fget l (CAN_DS_STATE q k) = 1) →
          returns (.ctxd i rd ra rb) 0xFFFFFFFF#32 [] fun m => m.cans = l.cans)) ∧
      (isFollower l p = false → ∀ k : Fin 8, k.1 = a.toNat % 8 →
        let open' (q : CanPort) : Prop := ∃ f, txFrame l q (.slot k) = some f ∧ f.begun = false
        ((∃ q ∈ ps, open' q) → returns (.ccan i rd ra rb) 1#32 (all k) fun m => ∀ q ∈ ps, open' q → fget m (CAN_DS_STATE q k) = 4) ∧
        ((∀ q ∈ ps, ¬ open' q) → returns (.ccan i rd ra rb) 0#32 [] fun m => m.cans = l.cans)) ∧
      (b.toNat / 4 = 0 → (∀ e r, x.full0 = e :: r → returns (.crx i rd rb) (wordOf (entryAddr p 0 e)) regs fun m =>
        (vget m.cans p).full0 = r ∧ (vget m.cans p).own0 = x.own0 ++ [e]) ∧
        (x.full0 = [] → returns (.crx i rd rb) 0#32 [] fun m => m.cans = l.cans)) ∧
      (b.toNat / 4 = 1 → (∀ e r, x.full1 = e :: r → returns (.crx i rd rb) (wordOf (entryAddr p 1 e)) regs fun m =>
        (vget m.cans p).full1 = r ∧ (vget m.cans p).own1 = x.own1 ++ [e]) ∧
        (x.full1 = [] → returns (.crx i rd rb) 0#32 [] fun m => m.cans = l.cans)))

/-- R346: CACK returns the entry at its address to the hardware. An address at which no OWNED entry of any port begins, so that of an
entry that is FREE or FULL, one inside an entry and one outside queue SRAM too, sets BADACK of the port in whose memory it lies, and
nothing else. Choices and readings of the model in it: log 58. -/
def Obligations.CackReturnsEntry : Prop :=
  ∀ (i : Issue) (s : State) (ra : RegNo), Issues i s →
    let l := laneAt i s
    let a := (getW (ctxOf i s) ra).toNat
    (∀ (p : CanPort) (e : Nat), e < 64 → a = entryAddr p 0 e → e ∈ (vget l.cans p).own0 →
      Answers (.cack i ra) s fun t => ctxOf i t = nextPc (ctxOf i s) ∧ SysKept i s t [CAN_QSTS p, CAN_TXSTS p] ∧
        (vget (laneAt i t).cans p).own0 = (vget l.cans p).own0.filter (fun j => j ≠ e) ∧
        (vget (laneAt i t).cans p).own1 = (vget l.cans p).own1) ∧
    (∀ (p : CanPort) (e : Nat), e < 256 → a = entryAddr p 1 e → e ∈ (vget l.cans p).own1 →
        (∀ j ∈ (vget l.cans p).own0, entryAddr p 0 j ≠ a) →
      Answers (.cack i ra) s fun t => ctxOf i t = nextPc (ctxOf i s) ∧ SysKept i s t [CAN_QSTS p, CAN_TXSTS p] ∧
        (vget (laneAt i t).cans p).own1 = (vget l.cans p).own1.filter (fun j => j ≠ e) ∧
        (vget (laneAt i t).cans p).own0 = (vget l.cans p).own0) ∧
    (∀ p : CanPort, (0x03000000 ≤ a ∧ a < 0x03020000 → p.1 = (a - 0x03000000) / 0x8000) →
        (a < 0x03000000 ∨ 0x03020000 ≤ a → p = 0) →
        (∀ q : CanPort, (∀ e ∈ (vget l.cans q).own0, entryAddr q 0 e ≠ a) ∧ ∀ e ∈ (vget l.cans q).own1, entryAddr q 1 e ≠ a) →
      Answers (.cack i ra) s fun t => ctxOf i t = nextPc (ctxOf i s) ∧ SysKept i s t [CAN_STK p] ∧ (laneAt i t).cans = l.cans ∧
        fget (laneAt i t) (CAN_STK_BADACK p) = 1)

/-! ## Field I/O and special registers -/

/-- R77, R322: DIN0, DIN1, DSTAL and DORB give the consumed line states, the age of each cartridge's data, and the readback; CNT and
FREQ give the count and the frequency of an input in count mode, and zero with FIOARG of any other. Choices and readings of the model in
it: log 72. -/
def Obligations.FieldInputInstructions : Prop :=
  ∀ (i : Issue) (s : State) (rd ra : RegNo), Issues i s →
    let l := laneAt i s
    let gives (c : Instr) (cost : Nat) (srcs : List RegNo) (A : List Nat) (V : Word → Prop) (P : State → Prop) : Prop :=
      Answers c s fun t => (∃ v, V v ∧ Ran i s t cost srcs A fun c => setW c rd v) ∧ P t
    let none (_ : State) : Prop := True
    gives (.din0 i rd) 2 [] [] (fun v => ∀ n < 32, v.getLsbD n = l.di.getLsbD n) none ∧
    gives (.din1 i rd) 2 [] [] (fun v => ∀ n < 32, v.getLsbD n = l.di.getLsbD (32 + n)) none ∧
    gives (.dstal i rd) 2 [] [] (fun v =>
      (v.getLsbD 0 = decide (vget l.fage 0 ≠ 0)) ∧ (v.getLsbD 1 = decide (vget l.fage 1 ≠ 0)) ∧ v.toNat / 4 % 64 = 0 ∧
      v.toNat / 256 % 256 = min 255 (vget l.fage 0) ∧ v.toNat / 65536 = min 255 (vget l.fage 1)) none ∧
    gives (.dorb i rd) 2 [] [] (fun v => ∀ n < 32, v.getLsbD n = decide (fget l (FIO_OSTS_RB n) ≠ 0)) none ∧
    (∀ (n : Fin 64) (k : Nat), (getW (ctxOf i s) ra).toNat = n.1 → fget l (FIO_ICFG_MODE n) = 4 → counterOf n.1 = some k →
      gives (.cnt i rd ra) 3 [ra] [] (fun v => v = rget l (FIO_CNT k)) none ∧
      gives (.freq i rd ra) 3 [ra] [FIO_STK, FLT_STK]
        (fun v => v = wordOf (min 0x7FFFFFFF (rround ((vget l.ins n).freq * 65536))).toNat)
        (fun t => 0x7FFFFFFF < rround ((vget l.ins n).freq * 65536) → fget (laneAt i t) FIO_STK_FSAT = 1)) ∧
    ((∀ (n : Fin 64), (getW (ctxOf i s) ra).toNat = n.1 → fget l (FIO_ICFG_MODE n) ≠ 4 ∨ counterOf n.1 = Option.none) →
      ∀ c ∈ [Instr.cnt i rd ra, .freq i rd ra],
        gives c 3 [ra] [SYS_CSTK i.core, FLT_STK] (fun v => v = 0#32) fun t => fget (laneAt i t) (SYS_CSTK_FIOARG i.core) = 1)

/-- R78: the special registers. Choices and readings of the model in it: log 22. -/
def Obligations.SpecialRegisters : Prop :=
  ∀ (i : Issue) (s : State) (rd : RegNo) (n : BitVec 12), Issues i s → i.fetch = .none → n.toNat ≤ 10 →
    let l := laneAt i s
    let me := (coreOf l i.core).cur
    let x := ctxOf i s
    let t0 : Prop := fget l (ADM_TCFG_CLASS (tix i.core me)) = 0
    Answers (.mfs i rd n) s fun t => ∃ v : Word, Ran i s t 1 [] [] (fun c => setW c rd v) ∧
      (n.toNat = 0 → v = wordOf i.core.1) ∧ (n.toNat = 1 → v = wordOf me.1) ∧
      (n.toNat = 2 → t0 → v = wordOf (fget l (ADM_TCFG_AXIS (tix i.core me)))) ∧ (n.toNat = 2 → ¬ t0 → v = 0xFFFFFFFF#32) ∧
      (n.toNat = 3 → v = wordOf x.jobs) ∧ (n.toNat = 4 → v = wordOf ((coreOf l i.core).cyc - x.relC)) ∧
      (n.toNat = 5 → v = wordOf (x.relSh % 2 ^ 32)) ∧ (n.toNat = 6 → v = wordOf (x.relSh / 2 ^ 32)) ∧
      (n.toNat = 7 → ¬ t0 → v = 0#32) ∧
      (n.toNat = 7 → t0 → ∀ a : Axis, a.1 = fget l (ADM_TCFG_AXIS (tix i.core me)) →
        v = wordOf (32 * (coreOf l i.core).cyc / 5 - (vget l.axes a).t0)) ∧
      (n.toNat = 8 → v = wordOf (tagCount l i.core me)) ∧ (n.toNat = 9 → v = wordOf x.loops.length) ∧
      (n.toNat = 10 → v = wordOf x.calls.length)

/-! ## Ticks, releases, commits -/

/-- R83, R106, R107, R420: T1_TICK comes at the next 1 ms boundary. The commits that are due there come first. In a lane that runs,
alone or beside another, and takes no state over from it there, raised sources become visible and every T1 task of the set of work is
released. T2 and T3 releases coincide with every tenth and every hundredth T1 release and release their class. Choices and readings of
the model in it: log 26, 43. -/
def Obligations.TicksReleaseTasks : Prop :=
  ∀ (i : LaneId) (s : State),
    (let u := commitsDue { tickTo (nextT1 s) s with t1At := nextT1 s }
     let l := laneOf u i
     -- a CATCH-UP lane and a flagged unit of a STANDBY one take the ACTIVE lane's state over (R20, R429)
     let own : Prop := (laneOf u (otherLane i)).powered = false ∨
       (l.waitPeer = false ∧ roleOf l ≠ roleCatchUp ∧ (roleOf l = roleStandby → rget l XLN_FLAG = 0#32))
     laneRuns l = true → own → ∀ d, Answers (.t1Tick d) s fun t =>
       let m := laneOf t i
       t.now = nextT1 s ∧ t.t1At = nextT1 s ∧ m.t1n = (laneOf u i).t1n + 1 ∧ m.vis = [] ∧ ClassReleased m t.now 1) ∧
    (∀ f ∈ [(Instr.t2Release, 2, 10), (.t3Release, 3, 100)], Answers f.1 s fun t => Lanewise (commitsDue s) t fun l m =>
      (l.t1n % f.2.2 = 0 → ClassReleased m s.now f.2.1) ∧ (l.t1n % f.2.2 ≠ 0 → m = l))

/-- R106, R107, R108: a commit instant comes when the task's is due, in every state, and carries out what is due then, in the order of
R106; with nothing due it changes nothing else. The buffer of a job that has ended takes effect and is empty: every register it names of
the leg and observer blocks takes its committed bits from it. A job that has not ended overruns: nothing is committed, the buffer is
discarded, and the overrun is counted and shown from the next boundary. Choices and readings of the model in it: log 25, 26. -/
def Obligations.CommitInstantTakesBuffer : Prop :=
  (∀ (s : State) (n : TaskIx), Answers (.commitInstant n) s fun t =>
    let u := tickBy (commitDue n) s
    t.now = u.now ∧ t.pending = s.pending ∧
    ((∀ i, laneRuns (laneOf u i) = true → dueTasks u.now (laneOf u i) = []) → t = u)) ∧
  (∀ (i : LaneId) (s : State) (n : TaskIx),
    let c := tixCore n
    let k := tixTask n
    let u := tickBy (commitDue n) s
    let l := laneOf u i
    let x := taskOf l c k
    laneRuns l = true → dueTasks u.now l = [n] →
      (x.run = .idle → Answers (.commitInstant n) s fun t =>
        let m := laneOf t i
        (taskOf m c k).buf = [] ∧
        ((x.buf.map fun e => e.1).Nodup → (∀ e ∈ x.buf, ∃ d, findReg e.1 = some d ∧ (blockOf e.1 = 4 ∨ blockOf e.1 = 5)) →
          (∀ a v d, (a, v) ∈ x.buf → findReg a = some d →
            (∀ j, bit d.com j = true → (rget m a).getLsbD j = v.getLsbD j) ∧
            (∀ j, bit d.com j = false → (rget m a).getLsbD j = (rget l a).getLsbD j)) ∧
          (∀ b, (∀ e ∈ x.buf, e.1 ≠ b) → ¬ SettleReg b → rget m b = rget l b))) ∧
      (x.run ≠ .idle → Answers (.commitInstant n) s fun t =>
        let m := laneOf t i
        (taskOf m c k).buf = [] ∧ (taskOf m c k).ovrun = true ∧
        fget m (ADM_TOVR_COUNT n) = min 0xFFFF (fget l (ADM_TOVR_COUNT n) + 1) ∧ fget (showLate m) ADM_STK_TOVR = 1 ∧
        m.mem = l.mem))

/-! ## A current-loop period -/

/-- R22, R23, R83, R106, R420: PERIOD_START comes where the period starts; the commits due there come first; raised sources become
visible there, and the T0 tasks of an axis that runs are released. Choices and readings of the model in it: log 2, 26. -/
def Obligations.PeriodStartReleases : Prop :=
  ∀ (i : LaneId) (s : State) (a : Axis),
    let u := commitsDue (tickBy (fun l => nextStart l a) s)
    let x := vget (laneOf u i).axes a
    laneRuns (laneOf u i) = true →
      ((x.live = true ∨ x.startS.isSome = true) → Answers (.periodStart a) s fun t =>
        let m := laneOf t i
        t.now = u.now ∧ t.pending = s.pending ∧ m.vis = [] ∧
        (axRuns m a = true → ∀ c k, fget m (ADM_TCFG_CLASS (tix c k)) = 0 → fget m (ADM_TCFG_AXIS (tix c k)) = a.1 →
          taskInSet m (tix c k) = true → Released m t.now c k)) ∧
      (x.live = false → x.startS = none → Answers (.periodStart a) s fun t => Quiet (laneOf u i) (laneOf t i))

/-- R23, R106, R281: the sample cut-off comes at 25 % of the period and the set-point latch at 50 %, after the commits due then, once in
each period of an axis whose periods run. Choices and readings of the model in it: log 2, 26, 97, 126. -/
def Obligations.CutoffAndLatch : Prop :=
  ∀ (i : LaneId) (s : State) (a : Axis),
    let running (l : Lane) : Bool := (vget l.axes a).live && !(vget l.axes a).ended
    let at_ (n : Nat) (l : Lane) : Option Nat := if running l then some ((vget l.axes a).t0 + tpOf l a / n) else none
    (let u := tickBy (at_ 4) s
     let l := laneOf u i
     laneRuns l = true → Answers (.sampleCutoff a) s fun t =>
       t.now = u.now ∧ t.pending = s.pending ∧
       (running l = true → (vget (laneOf t i).axes a).cutDone = true) ∧
       (running l = false ∨ (vget l.axes a).cutDone = true → Quiet l (laneOf t i))) ∧
    (let u := commitsDue (tickBy (at_ 2) s)
     let l := laneOf u i
     laneRuns l = true → ∀ ups, Answers (.setpointLatch { axis := a, ups := ups }) s fun t =>
       t.now = u.now ∧ t.pending = s.pending ∧
       (running l = true → (vget l.axes a).latDone = false →
         (vget (laneOf t i).axes a).latDone = true ∧ (vget (laneOf t i).axes a).obs.first = false) ∧
       (running l = false ∨ (vget l.axes a).latDone = true → Quiet l (laneOf t i)))

/-- R23, R25, R270, R275: at EDGE out every brick of the axis is sent the next numbered frame for the period that follows, with the hold
bit where phase B is late and a frame was sent before. Choices and readings of the model in it: log 45, 102. -/
def Obligations.EdgeOutSendsFrames : Prop :=
  ∀ (i : LaneId) (s : State) (a : Axis) (laneA laneB : EdgeLane) (b : Brick),
    let u := tickBy (fun l => edgeInstant l a) s
    let l := laneOf u i
    let x := vget l.axes a
    let late := match i with | .A => laneA.late | .B => laneB.late
    laneRuns l = true → x.live = true → x.ended = false → timingAxis l b = some a →
      Answers (.edgeOut a laneA laneB) s fun t =>
        let r := vget (laneOf t i).rx b
        t.now = u.now ∧ t.pending = s.pending ∧ r.seqN = ((vget l.rx b).seqN + 1) % 2 ^ 16 ∧
        ∃ f, r.sent = some f ∧ f.seq = r.seqN ∧ f.brick = b.1 ∧ f.keep = false ∧ f.pstart = x.t0 + tpOf l a ∧
          (f.hold = true ↔ late = true ∧ axRuns l a = true ∧ (vget l.rx b).sent.isSome = true)

/-- R19, R20, R22, R23, R429: a period ends after TP; the next one starts there with the other half of the carrier, and the axis's hash
unit is reduced, in every lane that runs and takes no state over there. A CATCH-UP lane that has not copied the unit copies it from the
ACTIVE one. Choices and readings of the model in it: log 26, 67. -/
def Obligations.PeriodEndReducesUnit : Prop :=
  ∀ (i : LaneId) (s : State) (a : Axis),
    let run (l : Lane) : Bool := (vget l.axes a).live && !(vget l.axes a).ended
    let u := commitsDue (tickBy (fun l => if run l then some ((vget l.axes a).t0 + tpOf l a) else none) s)
    let l := laneOf u i
    let x := vget l.axes a
    let h : Fin 17 := ⟨a.1, Nat.lt_trans a.2 (by decide)⟩
    let o := otherLane i
    laneRuns l = true → roleOf l ≠ roleCatchUp → (roleOf l = roleStandby → (rget l XLN_FLAG).getLsbD h = false) → run l = true →
      (laneRuns (laneOf u o) = true ∨ laneActive (laneOf u o) = true → run (laneOf u o) = true) →
      Answers (.periodEnd a) s fun t =>
        let m := laneOf t i
        (laneActive l = true → laneRuns (laneOf u o) = true → roleOf (laneOf u o) = roleCatchUp → xlnOn u = true →
          (vget (laneOf t o).units h).copied = true) ∧
        t.now = u.now ∧ t.pending = s.pending ∧
        vget m.axes a = { x with t0 := x.t0 + tpOf l a, tp1 := tpOf l a, k := x.k + 1, pper := !x.pper, ended := true } ∧
        (∀ b, b ≠ a → vget m.axes b = vget l.axes b) ∧
        vget m.units h = { vget l.units h with
          hash := some (crc32c (unitWords l h ++ (allFin 4).map fun c => vget (coreOf l c).folds h))
          reds := (vget l.units h).reds + 1 } ∧
        (∀ c, vget (coreOf m c).folds h = 0xFFFFFFFF#32) ∧ (∀ r, rget m r = rget l r) ∧ m.mem = l.mem

/-- R20: hashes that match clear the unit's flag in both lanes and its run of matches goes on; hashes that differ flag the unit in both
lanes, and its run of matches starts again. Choices and readings of the model in it: log 67. -/
def Obligations.HashesCompared : Prop :=
  ∀ (o : LaneId) (s : State) (h : Fin 17) (exA exB : Bool) (x y : Word),
    let p := otherLane o
    laneActive (laneOf s o) = true → laneRuns (laneOf s p) = true → roleOf (laneOf s p) = roleStandby → xlnOn s = true →
    (vget (laneOf s o).units h).hash = some x → (vget (laneOf s p).units h).hash = some y →
      Answers (.hashExchange h exA exB) s fun t => t.now = s.now ∧ t.pending = s.pending ∧ ∀ j,
        let m := laneOf t j
        let v := vget (laneOf s j).units h
        let w := vget m.units h
        w.hash = none ∧
        (x = y → (rget m XLN_FLAG).getLsbD h = false ∧ w.chk = false ∧ w.matchN = v.matchN + 1) ∧
        (x ≠ y → (rget m XLN_FLAG).getLsbD h = true ∧ w.matchN = 0) ∧
        (∀ g, g ≠ h → (rget m XLN_FLAG).getLsbD g = (rget (laneOf s j) XLN_FLAG).getLsbD g)

/-! ## Billet links -/

/-- R264, R274, R279, R281: a brick latches the SAMPLE frame of its period with what it reports; each lane receives the copy that a port
carries to it. A good copy of the expected brick and number that is not late is held until the cut-off; a late one, or one of the period
before, is counted as late; one whose check fails is discarded and counted; a lost one leaves the lane as it was. What these set of
BLK_STK waits for the next boundary (R31, R420). Choices and readings of the model in it: log 48, 49, 76, 102, 106. -/
def Obligations.SampleCopiesHeldOrCounted : Prop :=
  (∀ (i : LaneId) (s : State) (b : Brick) (sec : Bool) (v : BrickMeas) (old : Bool) (copy : Copy) (f : List Word),
    let l := laneOf s i
    let r := vget l.rx b
    let x := if old then vget s.bricks b else brickSample v (vget s.bricks b)
    laneRuns l = true → portCarries s b (if sec then 1 else 0) = true → (if old then x.smpP else x.smpC) = some f →
      let gives (P : State → Prop) : Prop := Answers (.sampleFrame i b sec v { old := old, copy := copy }) s fun t =>
        vget t.bricks b = { x with ports := (vget t.bricks b).ports, tbase := (vget t.bricks b).tbase } ∧
        Quiet (laneOf s (otherLane i)) (laneOf t (otherLane i)) ∧ P t
      (copyWords copy f = none → gives fun t => laneOf t i = l) ∧
      ∀ ws, copyWords copy f = some ws →
        let w0 := (ws.getD 0 0#32).toNat
        let seq := w0 / 2 ^ 16 % 2 ^ 16
        let self := (ws.getD 10 0#32).getLsbD 27
        let cut : Prop := ∃ a, timingAxis l b = some a ∧ axPeriods l a = true ∧ (vget l.axes a).cutDone = true
        (sampleOk ws (crc16Words f) = true → w0 / 16 % 32 = b.1 → seq = r.seqC → ¬ cut → gives fun t =>
          let m := laneOf t i
          vget m.rx b = (if sec then { r with sec := some ws } else { r with pri := some ws }) ∧
          (∀ c, c ≠ b → vget m.rx c = vget l.rx c) ∧ (∀ a, ¬ SettleReg a → rget m a = rget l a) ∧ m.mem = l.mem) ∧
        (sampleOk ws (crc16Words f) = true → w0 / 16 % 32 = b.1 →
          (seq = r.seqC ∧ cut) ∨ (seq ≠ r.seqC ∧ self = false ∧ seq = r.seqP) → gives fun t =>
          let m := laneOf t i
          vget m.rx b = { r with lateN := r.lateN + 1 } ∧ (∀ c, c ≠ b → vget m.rx c = vget l.rx c) ∧ SetLate BLK_STK_LATE m) ∧
        (sampleOk ws (crc16Words f) = false → gives fun t =>
          let m := laneOf t i
          vget m.rx b = (if sec then { r with crc1 := r.crc1 + 1 } else { r with crc0 := r.crc0 + 1 }) ∧
          (∀ c, c ≠ b → vget m.rx c = vget l.rx c) ∧ SetLate BLK_STK_CRCUP m)) ∧
  (∀ (v : BrickMeas) (x : BrickRt), x.runs = true → x.smpC = none →
    let y := brickSample v x
    y.desat = x.desat ||| v.desat.toNat ∧ y.gsup = v.gsup.toNat ∧
    ∃ f, y.smpC = some f ∧ f.length = 11 ∧ (f.getD 0 0#32).toNat % 16 = 2)

/-- R262, R266, R381: each end of a port that was DOWN locks, and is DOWN again when it loses its link; a delay request comes at its
interval after the one before and waits for the response with its echo number, and the response is a measurement within 32 edge ticks of
the mean of the accepted ones, or is rejected. Choices and readings of the model in it: log 47. -/
def Obligations.PortsLockAndMeasure : Prop :=
  ∀ (p : PortRef) (s : State),
    let b := portBrick p
    let i := portSide p
    let q := portOf s b i
    let onlyBrick (t : State) : Prop := t = { s with bricks := t.bricks } ∧ ∀ c, c ≠ b → vget t.bricks c = vget s.bricks c
    let onlyPort (t : State) : Prop := onlyBrick t ∧ portOf t b (1 - i) = portOf s b (1 - i)
    (linkPresent s p.link = true → (vget s.links p.link).dark = false →
      (q.lst = 0 → Answers (.linkLocked { port := p, fin := .cartridge }) s fun t =>
        portOf t b i = { q with lst := 1, burst := true } ∧ portOf t b (1 - i) = portOf s b (1 - i) ∧
        ∀ j, laneRuns (laneOf s j) = true →
          RegsOnly (laneOf s j) (laneOf t j) [BLK_BST b] ∧
          fget (laneOf t j) (BLK_BST_STATE b) =
            (if fget (laneOf s j) (BLK_BST_STATE b) = 0 then 1 else fget (laneOf s j) (BLK_BST_STATE b))) ∧
      (q.bst = 0 → Answers (.linkLocked { port := p, fin := .brick }) s fun t => onlyPort t ∧ portOf t b i = { q with bst := 1 })) ∧
    Answers (.linkLoss { port := p, fin := .cartridge }) s (fun t => onlyPort t ∧
      portOf t b i = { q with
        lst := 0, dls := [], rej := 0, burst := false, nAcc := 0, echo := 0, wait := false, eAt := none
        mDn := none, mUp := none, sAt := none, sN := 0 }) ∧
    Answers (.linkLoss { port := p, fin := .brick }) s (fun t => onlyBrick t ∧
      (portOf t b i).bst = 0 ∧ (portOf t b i).pn = none ∧ (portOf t b i).seen = none ∧ (portOf t b i).lst = q.lst ∧
      ((portOf s b (1 - i)).bst = 0 → (vget t.bricks b).tbase = false) ∧
      ((portOf s b (1 - i)).bst < 2 → (vget t.bricks b).permit = false)) ∧
    (1 ≤ q.lst → Answers (.delayRequest p) s fun t =>
      let u := tickTo t.now s
      (∀ v, q.eAt = some v →
        t.now = max s.now (v + if q.burst then 32000 else if linkHot s p.link then 32000000 else 3200000)) ∧
      t = { u with bricks := t.bricks } ∧ (∀ c, c ≠ b → vget t.bricks c = vget s.bricks c) ∧ portOf t b (1 - i) = portOf s b (1 - i) ∧
      portOf t b i = { q with echo := (q.echo + 1) % 256, wait := true, eAt := some t.now }) ∧
    (∀ (echo : Byte) (rt : Nat) (ta : BitVec 16) (m : Int), m = rdiv ((rt : Int) - (ta.toNat : Int)) 2 → 1 ≤ q.lst → q.wait = true →
      q.echo = echo.toNat →
      -- how far the measurement lies from the mean, times their number
      let n := q.dls.length
      let far := (m * (n : Int) - q.dls.foldl (fun x y => x + y) 0).natAbs
      (far ≤ 32 * n → Answers (.delayResponse p echo rt ta) s fun t =>
        let ds := (q.dls ++ [m]).drop ((q.dls ++ [m]).length - 8)
        onlyPort t ∧ portOf t b i =
          { q with
            dls := ds, rej := 0, nAcc := min 8 (q.nAcc + 1), burst := q.burst && decide (q.nAcc < 7), wait := false
            lst := if q.lst = 1 ∧ ds.length = 8 then 2 else q.lst
            -- the cadence of /S/ starts (R267)
            sAt := if q.lst = 1 ∧ ds.length = 8 then some s.now else q.sAt
            sN := if q.lst = 1 ∧ ds.length = 8 then 0 else q.sN }) ∧
      (32 * n < far → Answers (.delayResponse p echo rt ta) s fun t =>
        onlyPort t ∧ portOf t b i =
          { q with
            rej := if q.rej < 7 then q.rej + 1 else 0, burst := q.burst || decide (7 ≤ q.rej)
            nAcc := if q.rej < 7 then q.nAcc else 0, wait := false }))

/-- R267, R269, R286: /S/ come every 10 µs ten times and then every 1 ms, on the 40 ns grid. A brick takes its timebase from the first
/S/, a second one that agrees makes the port TIMED, and in a TIMED port a difference of up to 64 edge ticks is stepped and counted while
a greater one is taken over and ends TIMED; discovery gives a brick its number, or finds that it holds another brick's, which BLK_STK
shows from the next boundary (R31, R420). Choices and readings of the model in it: log 47, 76, 103, 104, 134. -/
def Obligations.TimebaseAndDiscovery : Prop :=
  ∀ (p : PortRef) (s : State),
    let b := portBrick p
    let i := portSide p
    let q := portOf s b i
    let x := vget s.bricks b
    (2 ≤ q.lst → 1 ≤ q.bst → ∀ path : Nat,
      -- the brick's timebase less what it must read, when the fibre takes `path` edge ticks
      let d := syncDiff x.tb path (delayOf q)
      let sync (P : State → BrickRt → PortRt → Prop) : Prop := Answers (.timebaseSync { port := p, path := path }) s fun t =>
        (∀ v, q.sAt = some v → t.now = max s.now (ceilTo 128 (v + if q.sN < 10 then 32000 else 3200000))) ∧
        (portOf t b i).sAt = some t.now ∧ (portOf t b i).sN = min 10 (q.sN + 1) ∧
        (∀ c, c ≠ b → vget t.bricks c = vget s.bricks c) ∧ t = { tickTo t.now s with bricks := t.bricks } ∧
        P t (vget t.bricks b) (portOf t b i)
      (x.tbase = false → sync fun _ y r => y.tbase = true ∧ y.tb = x.tb - d ∧ r.agr = 0 ∧ r.bst = q.bst) ∧
      (x.tbase = true → q.bst = 1 → d.natAbs ≤ 1 → sync fun _ _ r => r.agr = q.agr + 1 ∧ r.bst = (if 1 ≤ q.agr then 2 else 1)) ∧
      (x.tbase = true → q.bst = 1 → 1 < d.natAbs → sync fun _ _ r => r.agr = 0 ∧ r.bst = 1) ∧
      (x.tbase = true → 2 ≤ q.bst → d.natAbs ≤ 64 → sync fun _ y r => y.tbase = true ∧ y.tb = x.tb - d ∧ r.bst = q.bst ∧
        vget y.cnt 9 = (if d = 0 then vget x.cnt 9 else min 0xFFFFFFFF (vget x.cnt 9 + 1))) ∧
      (x.tbase = true → 2 ≤ q.bst → 64 < d.natAbs → sync fun _ y r =>
        y.tb = x.tb - d ∧ r.bst = 1 ∧ r.agr = 0 ∧ y.untimed = true ∧ y.idle = true)) ∧
    (2 ≤ q.lst → 2 ≤ q.bst → ¬ (q.lst = 3 ∧ q.bst = 3) → ∀ adopted : Option Brick,
      -- the number the brick has: its own, or the one that a mis-wired fibre shows
      let num : Option Brick := match adopted with | some n => some n | none => x.num
      (num = none ∨ num = some b → Answers (.discover { port := p, adopted := adopted }) s fun t =>
        (vget t.bricks b).num = some b ∧ portOf t b i = { q with lst := 3, bst := 3 } ∧
        ∀ j, laneLinks (laneOf s j) = true →
          let l := laneOf s j
          let m := laneOf t j
          (fget l (BLK_BST_STATE b) = 3 → m = l) ∧
          (fget l (BLK_BST_STATE b) ≠ 3 → fget m (BLK_BST_STATE b) = 2 ∧ (vget m.rx b).disc.step = 1 ∧
            (∀ c, c ≠ b → vget m.rx c = vget l.rx c) ∧ ∀ a, a ≠ BLK_BST b → rget m a = rget l a)) ∧
      (∀ n, num = some n → n ≠ b → Answers (.discover { port := p, adopted := adopted }) s fun t =>
        t = { s with la := t.la, lb := t.lb } ∧ ∀ j, let l := laneOf s j; let m := laneOf t j
          (laneLinks l = true → m = { l with late := m.late } ∧ SetLate BLK_STK_WIRE m) ∧ (laneLinks l = false → m = l)))

/-- R13, R268, R269, R317, R329 to R331, R417: a link cartridge inserts permit pulses while one configured field cartridge is present,
every one that is present has both channels of its STO pair energised without a discrepancy, and no ACTIVE lane stands in S6; a channel
follows a level that has stood for 1 ms, and channels that have differed for more than 20 ms latch a discrepancy. Each pulse carries the
next count and its complement; a port that gets another byte or none takes no count from it. A brick holds its permit exactly while
every timed port has had eight counts in order since its last failure and the latest within 4.096 µs. Choices and readings of the model
in it: log 48, 56. -/
def Obligations.GatePermits : Prop :=
  ∀ (s : State) (k : LinkNo) (f : FieldNo),
    let x := vget s.fields f
    let conf (g : FieldNo) : Prop := fieldPresent s g = true ∧ (s.fm.sto % 4 = 0 ∨ s.fm.sto.testBit g = true)
    let on (g : FieldNo) : Prop := (vget s.fields g).stoA = true ∧ (vget s.fields g).stoB = true ∧ (vget s.fields g).disc = false
    (∀ chB r held v,
      ((11000 ≤ r.mv ∧ 2000 ≤ r.ua → v = true) ∧ (r.mv ≤ 5000 ∨ r.ua ≤ 1500 → v = false) ∧
        (¬ (11000 ≤ r.mv ∧ 2000 ≤ r.ua) → ¬ (r.mv ≤ 5000 ∨ r.ua ≤ 1500) → v = if chB then x.stoB else x.stoA)) →
      let a := if chB then x.stoA else v
      let b := if chB then v else x.stoB
      (3200000 ≤ held → Answers (.stoChannelChange f chB { level := r, held := held }) s fun t => t = { s with fields := t.fields } ∧
        (∀ g, g ≠ f → vget t.fields g = vget s.fields g) ∧
        vget t.fields f =
          { x with stoA := a, stoB := b, disc := x.disc && (a || b), difAt := if a = b then none else some (x.difAt.getD s.now) }) ∧
      (held < 3200000 → Answers (.stoChannelChange f chB { level := r, held := held }) s fun t => t = s)) ∧
    (∀ since, x.difAt = some since → Answers (.stoDiscrepancy f) s fun t =>
      t.now = max s.now (since + 64000001) ∧ t.pending = s.pending ∧ t.links = s.links ∧ t.bricks = s.bricks ∧
      (∀ g, g ≠ f → vget t.fields g = vget s.fields g) ∧ vget t.fields f = { x with disc := true }) ∧
    (x.difAt = none → Answers (.stoDiscrepancy f) s fun t => t = s) ∧
    Answers (.permitConditionChange k) s (fun t => t = { s with links := t.links } ∧
      (∀ j, j ≠ k → vget t.links j = vget s.links j) ∧ vget t.links k = { vget s.links k with send := (vget t.links k).send } ∧
      ((vget t.links k).send = true ↔ linkPresent s k = true ∧ (vget s.links k).dark = false ∧ (∃ g, conf g) ∧ (∀ g, conf g → on g) ∧
        ∀ i, laneActive (laneOf s i) = true → (laneOf s i).safe = false)) ∧
    (∀ faults : List PulseFault, Answers (.gatePermit { link := k, faults := faults }) s fun t => t = { s with links := t.links, bricks := t.bricks } ∧
      (∀ j, j ≠ k → vget t.links j = vget s.links j) ∧
      (∀ b, (vget t.bricks b).permit = true ↔ (∃ i, 2 ≤ (portOf t b i).bst) ∧
        ∀ i, 2 ≤ (portOf t b i).bst → (portOf t b i).pOk = true ∧ s.now ≤ (portOf t b i).pAt + 13107) ∧
      ((vget s.links k).send = true → linkPresent s k = true → (vget s.links k).dark = false →
        (vget t.links k).n = ((vget s.links k).n + 1) % 16 ∧
        ∀ q : Fin 16, let p : PortRef := { link := k, port := q }
          let r := portOf s (portBrick p) (portSide p)
          let r' := portOf t (portBrick p) (portSide p)
          1 ≤ r.bst →
            ((∀ e ∈ faults, e.port ≠ q) → r'.pn = some (vget t.links k).n) ∧
            ∀ e, faults.find? (fun e => decide (e.port = q)) = some e →
              (e.byte = none → r'.pn = r.pn) ∧
              (∀ v, e.byte = some v → v.toNat / 16 + v.toNat % 16 ≠ 15 → r'.pn = r.pn ∧ r'.pRun = 0) ∧
              ∀ v, e.byte = some v → v.toNat / 16 + v.toNat % 16 = 15 → r'.pn = some (v.toNat % 16)) ∧
      ((vget s.links k).send = false → t.links = s.links))

/-- R264, R282 to R286, R291, R381: a management request that no lane waits for starts one. A request that reaches its brick whole is
carried out once, and the answer, with its tag, is held by the lane that waits for it; the answer's use ends the wait. A repeat of the
request is answered again and not carried out again. One without an answer for two T1 ticks is given up, which BLK_STK shows from the
next boundary (R31, R420). A cartridge that is throttled carries one management frame a millisecond each way on a port. Choices and
readings of the model in it: log 47, 76, 105, 133. -/
def Obligations.ManagementRequests : Prop :=
  ∀ (i : LaneId) (s : State) (b : Brick) (tag : Nat),
    let l := laneOf s i
    let x := vget s.bricks b
    let free : Prop := laneRuns l = true ∧ fget l BLK_MRSP_STATE ≠ 1
    let whole : MgmtFaults := { down := [], up := [] }
    let word0 (op : Nat) : Nat := 3 + 16 * b.1 + 2 ^ 16 * op + 2 ^ 24 * tag
    -- the lane waits for the answer; port `k` alone carries the request, from this lane, to a brick that knows its number
    let waits (op arg : Nat) (k : Fin 2) : Prop := laneRuns l = true ∧ tag < 256 ∧ x.num = some b ∧
      portCarries s b k = true ∧ portCarries s b (1 - k) = false ∧
      (vget s.links (linkOf b k)).dark = false ∧ (vget s.links (linkOf b k)).sel = i ∧
      mgmtFree s b k (portOf s b k).mDn = true ∧ mgmtFree s b k (portOf s b k).mUp = true ∧
      (vget l.rx b).disc.step ≠ 2 ∧ (vget l.rx b).disc.step ≠ 4 ∧
      ∃ n, l.mreq = some { brick := b, op := op, arg := arg, tag := tag, ticks := n, ans := none }
    let isNew (op : Nat) : Prop := ∀ d, x.done = some d → d.1 ≠ word0 op
    let holds (k : Fin 2) (ws : List Word) (t : State) : Prop :=
      let r := vget (laneOf t i).rx b
      let r0 := vget l.rx b
      if k = 1 then r.msec = r0.msec ++ [ws] else r.mpri = r0.mpri ++ [ws]
    let answered (op : Nat) (k : Fin 2) (res : Nat) (ws : List Word) (t : State) : Prop :=
      holds k (mrspWords b op tag res ws) t ∧ (vget t.bricks b).done = some (word0 op, mrspWords b op tag res ws)
    (∀ (mask : BitVec 4) (arg : BitVec 16) (e : MgmtFaults),
      ∀ f ∈ [(Instr.ident b ⟨none, e⟩, 2, 0), (.cal b ⟨none, e⟩, 3, 0), (.cntr b ⟨false, e⟩, 4, 0), (.cntclr b ⟨false, e⟩, 5, 0),
          (.clrlatch b mask ⟨false, e⟩, 6, mask.toNat), (.diag b arg ⟨none, e⟩, 7, arg.toNat)],
        free → mreqFor l b f.2.1 f.2.2 = none → Answers f.1 s fun t =>
          let m := laneOf t i
          let n := (l.mtag + 1) % 256
          m.mreq = some { brick := b, op := f.2.1, arg := f.2.2, tag := n, ticks := 0, ans := none } ∧ fget m BLK_MRSP_STATE = 1 ∧
          m.mtag = n ∧ (∀ a, ¬ SettleReg a → a ≠ BLK_MRSP → rget m a = rget l a) ∧ m.mem = l.mem ∧
          (vget t.bricks b).done = x.done ∧ (vget t.bricks b).desat = x.desat) ∧
    (∀ (k : Fin 2) (ws : List Word),
      (payloadOk 2 ws = true → waits 2 0 k → isNew 2 → Answers (.ident b ⟨some ws, whole⟩) s (answered 2 k 0 ws)) ∧
      (payloadOk 3 ws = true → waits 3 0 k → isNew 3 → Answers (.cal b ⟨some ws, whole⟩) s (answered 3 k 0 ws)) ∧
      (∀ arg : BitVec 16, ws.length ≤ 14 → waits 7 arg.toNat k → isNew 7 → Answers (.diag b arg ⟨some ws, whole⟩) s (answered 7 k 0 ws)) ∧
      (waits 4 0 k → isNew 4 → Answers (.cntr b ⟨true, whole⟩) s fun t =>
        answered 4 k 0 (x.cnt.toList.map wordOf) t ∧ (vget t.bricks b).cnt = x.cnt) ∧
      (waits 5 0 k → isNew 5 → Answers (.cntclr b ⟨true, whole⟩) s fun t => answered 5 k 0 [] t ∧
        vget t.bricks b = { x with
          cnt := Vector.replicate 10 0, done := (vget t.bricks b).done
          ports := vset x.ports k { portOf s b k with mDn := some s.now, mUp := some s.now } }) ∧
      (waits 5 0 k → x.done = some (word0 5, mrspWords b 5 tag 0 []) → Answers (.cntclr b ⟨true, whole⟩) s fun t =>
        holds k (mrspWords b 5 tag 0 []) t ∧ { vget t.bricks b with ports := x.ports } = x) ∧
      (∀ v, linkHot s (linkOf b k) = true → (portOf s b k).mDn = some v → s.now < v + 3200000 → portCarries s b (1 - k) = false →
        laneRuns l = true → (mreqFor l b 4 0).isSome = true → laneRuns (laneOf s (otherLane i)) = false →
        Answers (.cntr b ⟨true, whole⟩) s fun t => t = s) ∧
      (∀ mask : BitVec 4, waits 6 mask.toNat k → isNew 6 →
        let off : Prop := ∀ p < 4, mask.getLsbD p = true → ∀ f, x.cur = some f → (f.legs.getD p legFrameOff).lmode = 1
        (off → Answers (.clrlatch b mask ⟨true, whole⟩) s fun t => answered 6 k 0 [] t ∧
          ∀ j < 4, (vget t.bricks b).desat.testBit j = (x.desat.testBit j && !(mask.getLsbD j))) ∧
        (¬ off → Answers (.clrlatch b mask ⟨true, whole⟩) s fun t => answered 6 k 1 [] t ∧ (vget t.bricks b).desat = x.desat)) ∧
      (∀ op arg res, op < 256 → res < 256 → tag < 256 → waits op arg k →
        ∃ n, (mrspTake b l (mrspWords b op tag res ws)).mreq =
          some { brick := b, op := op, arg := arg, tag := tag, ticks := n, ans := some (res, ws) })) ∧
    (laneRuns l = true → ∀ r, l.mreq = some r → Answers .mreqTimeout s fun t =>
      (2 ≤ r.ticks → (laneOf t i).mreq = none ∧ fget (laneOf t i) BLK_MRSP_STATE = 3 ∧ SetLate BLK_STK_MTO (laneOf t i)) ∧
      (r.ticks < 2 → (laneOf t i).mreq = some r ∧ fget (laneOf t i) BLK_MRSP_STATE = fget l BLK_MRSP_STATE)) ∧
    Answers (.rediscover b) s (fun t => Lanewise s t fun l m =>
      m = { l with rx := m.rx } ∧ (∀ c, c ≠ b → vget m.rx c = vget l.rx c) ∧
      ∃ d, vget m.rx b = { vget l.rx b with disc := d } ∧ d.step = 1 ∧ d.ticks = 0 ∧ d.ans = none)

/-! ## Field cartridges -/

/-- R16, R17, R298, R307, R319, R323: field frames end every 5 µs; a frame both lanes hold, or a lane that stands alone, is consumed and
its age is 0, otherwise the age counts on. A pulsed window closes 20 µs after a 250 µs boundary and its readings come 5 µs later; a
compare pulse ends 12 µs after its width, whatever else is on its way to the cartridge's outputs; an SSI transfer starts with the next
RATE-th field frame. Choices and readings of the model in it: log 52, 54, 57, 108, 135. -/
def Obligations.FieldFramesConsumed : Prop :=
  ∀ (s : State) (f : FieldNo) (i : LaneId),
    let x := vget s.fields f
    (∀ (hA hB : Bool) (d : FieldFrame), laneRuns (laneOf s i) = true →
      let l := laneOf s i
      let mine := match i with | .A => hA | .B => hB
      let other := match i with | .A => hB | .B => hA
      let used : Prop := fieldPresent s f = true ∧ mine = true ∧ (fget l SYS_STS_SOLO = 1 ∨ other = true)
      Answers (.fieldFrameConsumption f hA hB d) s fun t =>
        t.now = max (ceilTo 16000 s.now) (x.fend + 16000) ∧ t.pending = s.pending ∧ (vget t.fields f).fend = t.now ∧
        (used → vget (laneOf t i).fage f = 0) ∧ (¬ used → vget (laneOf t i).fage f = vget l.fage f + 1)) ∧
    (∀ rd, fieldPresent s f = true → Answers (.pulsedWindow f rd) s fun t =>
      (∃ n, t.now = 800000 * n + 64000 ∧ vget t.fields f = { x with win := some (800000 * n + 80000, rd) }) ∧
      s.now ≤ t.now ∧ (64000 ≤ s.now → t.now < s.now + 800000) ∧ ∀ g, g ≠ f → vget t.fields g = vget s.fields g) ∧
    (∀ e : FbkCh, Answers (.comparePulseEnd e) s fun t =>
      let c : FieldNo := ⟨e.1 / 8, by omega⟩
      (∀ j, laneRuns (laneOf s j) = true → ∀ u, (vget (laneOf s j).chans e).xcEnd = some u → u + 38400 ≤ t.now) ∧
      (vget t.fields c).xc.getLsbD (e.1 % 8) = false ∧
      (∀ k, k ≠ e.1 % 8 → (vget t.fields c).xc.getLsbD k = (fieldAt t.now (vget s.fields c)).xc.getLsbD k) ∧
      (∀ g, g ≠ c → vget t.fields g = vget s.fields g) ∧
      (∀ j, laneRuns (laneOf s j) = true → vget (laneOf t j).chans e = { vget (laneOf s j).chans e with xcEnd := none } ∧
        ∀ a, rget (laneOf t j) a = rget (laneOf s j) a)) ∧
    (∀ e : FbkCh, laneRuns (laneOf s i) = true → laneRuns (laneOf s (otherLane i)) = false → fget (laneOf s i) (FBK_CFG_TYPE e) = 2 →
      (laneOf s i).tb0 ≤ s.now → Answers (.ssiTransferStart e) s fun t =>
        let l := laneOf s i
        let m := laneOf t i
        (∃ n, t.now = l.tb0 + 16000 * max 1 (fget l (FBK_SS2_RATE e)) * n) ∧ s.now ≤ t.now ∧
        t.now < s.now + 16000 * max 1 (fget l (FBK_SS2_RATE e)) ∧
        (∃ v, vget m.chans e = { vget l.chans e with
          ssi := (vget l.chans e).ssi ++ [{ t0 := t.now / 32, lv0 := v, chg := [], gap := false }] }) ∧
        (∀ g, g ≠ e → vget m.chans g = vget l.chans g) ∧ ∀ a, rget m a = rget l a)

/-- R321, R324, R326, R327, R328, R341: what forces, latches, clears and releases outputs once the time it asks for has passed, what a
counter's clear does, and what a cartridge does that has heard no valid frame for its time-out: it enters the safe state of its table,
and its CAN engines have no candidate. A release from SAFE sends every output its committed state, and is ignored of a cartridge that is
not in SAFE or not in order. FORCED, ONLOW and SILENT, events of the hardware, show from the next boundary (R31, R420). Choices and
readings of the model in it: log 55, 76, 110, 111. -/
def Obligations.OutputsAndSafeState : Prop :=
  ∀ (s : State) (o : Fin 32),
    let stood (since : Option Nat) (d : Nat) : Prop := ∃ u, since = some u ∧ u + d ≤ s.now
    Answers (.forcedHigh o) s (fun t => Lanewise s t fun l m =>
      let off : Prop := fget l (FIO_OSTS_STATE o) = 0 ∨ (fget l (FIO_OSTS_STATE o) = 3 ∧ fget l (FIO_OSTS_CMD o) = 0)
      -- high since the off took effect for TBLK, and at a consumption after that
      let forced : Prop := off ∧ fget l (FIO_OSTS_RB o) = 1 ∧ fget l (FIO_OSTS_FORCED o) = 0 ∧
        ∃ u, (vget l.outs o).hiT = some u ∧ u + 3200000 * fget l (FIO_OCFG_TBLK o) < min s.now (vget l.outs o).hiC
      m = { l with regs := m.regs, late := m.late } ∧ (∀ a, a ∉ [FIO_OSTS o, FIO_STS] → rget m a = rget l a) ∧
      (forced → fget m (FIO_OSTS_FORCED o) = 1 ∧ SetLate FIO_STK_FORCED m ∧ fget m FIO_STS_ANYFORCE = 1) ∧
      (¬ forced → rget m (FIO_OSTS o) = rget l (FIO_OSTS o) ∧ m.late = l.late)) ∧
    Answers (.onlow o) s (fun t => Lanewise s t fun l m =>
      let low : Prop := fget l (FIO_OSTS_STATE o) = 1 ∧ fget l (FIO_OSTS_RB o) = 0 ∧ fget l (FIO_GRP_OK (o.1 / 8)) = 1 ∧
        stood (vget l.outs o).lowT 6400000
      (low → m = { l with late := m.late } ∧ SetLate FIO_STK_ONLOW m) ∧ (¬ low → m = l)) ∧
    Answers (.retryReset o) s (fun t => Lanewise s t fun l m =>
      let good : Prop := fget l (FIO_OSTS_STATE o) = 1 ∧ stood (vget l.outs o).okT 320000000
      (good → m = { l with regs := m.regs, outs := m.outs } ∧ fget m (FIO_OSTS_RETRY o) = 0 ∧
        vget m.outs o = { vget l.outs o with lim := false, lims := 0 } ∧ (∀ a, a ≠ FIO_OSTS o → rget m a = rget l a)) ∧
      (¬ good → m = l)) ∧
    (∀ mask, Answers (.oclr mask) s fun t => Settled s t fun l m =>
      (mask.getLsbD o = true → fget l (FIO_OSTS_STATE o) = 3 →
        fget m (FIO_OSTS_STATE o) = fget l (FIO_OSTS_CMD o) ∧ fget m (FIO_OSTS_RETRY o) = 0 ∧
        vget m.outs o = { lim := false, lims := 0, hiT := none, hiC := 0, lowT := none, okT := none } ∧
        LaneReq.output o (fon l (FIO_OSTS_CMD o)) ∈ m.out) ∧
      (mask.getLsbD o = false ∨ fget l (FIO_OSTS_STATE o) ≠ 3 → rget m (FIO_OSTS o) = rget l (FIO_OSTS o) ∧ vget m.outs o = vget l.outs o)) ∧
    (∀ (mask : BitVec 2) (f : FieldNo) (i : LaneId), let l := laneOf s i
      laneRuns l = true → mask.getLsbD f = true →
        (fget l (FIO_SSTS_SAFE f) = 1 → slotUp l (8 + f) = true → fieldPresent s f = true → (vget s.fields f).sel = i →
          Answers (.srel mask) s fun t => (vget t.fields f).safe = false ∧
            ((vget s.fields f).safe = true → ∀ j : Fin 16,
              (s.now + 38400, OutEv.sw j (decide (fget l (FIO_OSTS_CMD (16 * f.1 + j.1)) ≠ 0 ∧ fget l (FIO_OSTS_STATE (16 * f.1 + j.1)) ≠ 3))) ∈
                (vget t.fields f).pend)) ∧
        (fget l (FIO_SSTS_SAFE f) = 0 ∨ fget l SYS_CART_OK / 2 ^ (8 + f.1) % 2 = 0 → Answers (.srel mask) s fun t => fget (laneOf t i) FIO_STK_SRELIGN = 1)) ∧
    (∀ mask : BitVec 16, Answers (.counterClear mask) s fun t => Lanewise s t fun l m =>
      m = { l with regs := m.regs, ins := m.ins } ∧
      (∀ k : Fin 16, rget m (FIO_CNT k) = if mask.getLsbD k then 0#32 else rget l (FIO_CNT k)) ∧
      (∀ a, (∀ k : Fin 16, a ≠ FIO_CNT k) → rget m a = rget l a)) ∧
    (∀ f : FieldNo, let x := vget s.fields f
      (fieldPresent s f = true → x.mute = false → Answers (.fieldSilenceTimeout f) s fun t =>
        let x0 := fieldAt t.now x
        let y := vget t.fields f
        t.now = max s.now (x.heard + x.tout) ∧ t.pending = s.pending ∧ (∀ g, g ≠ f → vget t.fields g = vget s.fields g) ∧
        y.safe = true ∧ y.mute = true ∧ y.table = x.table ∧
        (x.safe = true → y = { x with mute := true }) ∧
        (x.safe = false → x.table = none → y.out = 0#16) ∧
        (∀ v, x.safe = false → x.table = some v → ∀ j < 16,
          y.out.getLsbD j = (if v.getD j 0 = 1 then true else v.getD j 0 = 2 && x0.out.getLsbD j)) ∧
        ∀ i, laneRuns (laneOf s i) = true → ∀ p : CanPort, p.1 / 2 = f.1 → fget (laneOf s i) (CAN_CFG_MODE p) ≠ 0 →
          let c := vget (laneOf t i).cans p
          SetLate (CAN_STK_SILENT p) (laneOf t i) ∧ c.cand = none ∧ c.quiet = true ∧
          c = { vget (laneOf s i).cans p with cand := none, gone := c.gone, quiet := true }) ∧
      (fieldPresent s f = false ∨ x.mute = true → Answers (.fieldSilenceTimeout f) s fun t => t = s))

/-- R305, R306, R308 to R311, R10: arming a probe, clearing a channel's fault, arming the compare, and setting the ratio of a pulse
output. The instant a compare setting was committed stays with it until the frame it falls in is consumed; there a position that is
already passed sets CMPBEHIND, and fires at once only with FIREPASSED; CMPFIRE, an event of the hardware, shows from the next boundary
(R31, R420). Choices and readings of the model in it: log 50, 51, 53, 76, 108. -/
def Obligations.FeedbackCommands : Prop :=
  (∀ (s : State) (e : FbkCh),
    Answers (.parm e) s (fun t => Lanewise s t fun l m =>
      (fget l (FBK_CFG_NPRB e) ≠ 0 → m = { l with regs := m.regs, chans := m.chans } ∧ fget m (FBK_CHST_PARMD e) = 1 ∧
        vget m.chans e = { vget l.chans e with arms := (vget l.chans e).arms ++ [s.now] } ∧ (∀ a, a ≠ FBK_CHST e → rget m a = rget l a)) ∧
      (fget l (FBK_CFG_NPRB e) = 0 → m = l)) ∧
    Answers (.channelClear e) s (fun t => Lanewise s t fun l m =>
      let clears : Prop := fget l (FBK_CHST_STATE e) = 2 ∧ chanCauses l e = []
      m = { l with regs := m.regs, cyc := m.cyc, chans := m.chans } ∧
      (∀ a, a ∉ [FBK_CHST e, FBK_STS, FBK_STK, FLT_STK] → rget m a = rget l a) ∧
      (clears → fget m (FBK_CHST_STATE e) = 1 ∧ fget m (FBK_CHST_CAUSE e) = 0 ∧ (vget m.chans e).good = none) ∧
      (¬ clears → fget m FBK_STK_CLRIGN = 1 ∧ rget m (FBK_CHST e) = rget l (FBK_CHST e) ∧ m.chans = l.chans)) ∧
    (∀ pos cmc : Word, Answers (.compareArm e pos cmc) s fun t => Settled s t fun l m =>
      let dir := cmc.toNat % 4
      let cpw := cmc.toNat / 16 % 4096
      let x := vget l.chans e
      let b := x.cbase.getD { cmp := rget l (FBK_CMP e), cmc := rget l (FBK_CMC e), cinc := rget l (FBK_CINC e) }
      m = { l with regs := m.regs, cyc := m.cyc, chans := m.chans } ∧ (∀ g, g ≠ e → vget m.chans g = vget l.chans g) ∧
      rget m (FBK_CMP e) = pos ∧ (vget m.chans e).cbase = some b ∧
      (∃ c, (vget m.chans e).cmpQ.getLast? = some c ∧ c.at_ = s.now ∧ c.cmp = some pos ∧ (cpw ≠ 0 → c.cmc = some cmc)) ∧
      (cpw ≠ 0 → fget m (FBK_CMC_DIR e) = dir ∧ fget m (FBK_CMC_FIREPASSED e) = cmc.toNat / 4 % 2 ∧ fget m (FBK_CMC_CPW e) = cpw ∧
        (fget m (FBK_CHST_ARMED e) = 1 ↔ dir ≠ 0) ∧ ∀ a, a ∉ [FBK_CMP e, FBK_CMC e, FBK_CHST e, FBK_STS] → rget m a = rget l a) ∧
      (cpw = 0 → fget m SYS_STK_RSVWR = 1 ∧ rget m (FBK_CMC e) = rget l (FBK_CMC e))) ∧
    (∀ num den : BitVec 16, Answers (.pulseRatio e num den) s fun t => Lanewise s t fun l m =>
      let bad : Prop := den = 0#16 ∨ den.toNat < num.toInt.natAbs
      (bad → RegsOnly l m [FBK_STK, FLT_STK, FBK_STS] ∧ fget m FBK_STK_RATIO = 1) ∧
      (¬ bad → m = { l with regs := m.regs, chans := m.chans } ∧ fget m (FBK_POUT_NUM e) = num.toNat ∧ fget m (FBK_POUT_DEN e) = den.toNat ∧
        (vget m.chans e).rats.head? = some (s.now, den.toNat * 2 ^ 16 + num.toNat) ∧
        (∀ g, g ≠ e → vget m.chans g = vget l.chans g) ∧ (∀ a, a ∉ [FBK_POUT e, FBK_STS] → rget m a = rget l a)))) ∧
  (∀ (l : Lane) (now u : Nat) (e : FbkCh) (pos cmc : Word),
    let dir := cmc.toNat % 4
    let cnt := fgetI l (FBK_CNT_CNT e)
    let up : Prop := dir = 1 ∨ dir = 3 ∧ 0 ≤ fgetI l (FBK_VEL_VEL e)
    let passed : Prop := dir ≠ 0 ∧ (up → pos.toInt ≤ cnt) ∧ (¬ up → cnt ≤ pos.toInt)
    let m := compareTake now e l { at_ := u, cmp := some pos, cmc := some cmc, cinc := none }
    let w := 3200 * (cmc.toNat / 16 % 4096)
    (¬ passed → m.out = l.out ∧ rget m FBK_STK = rget l FBK_STK ∧ m.late = l.late) ∧
    (passed → cmc.getLsbD 2 = false → m.out = l.out ∧ fget m FBK_STK_CMPBEHIND = 1 ∧ m.late = l.late ∧
      fget m (FBK_CMC_DIR e) = dir) ∧
    (passed → cmc.getLsbD 2 = true → fget m FBK_STK_CMPBEHIND = 1 ∧ SetLate FBK_STK_CMPFIRE m ∧
      rget m (FBK_CTS e) = wordOf (tbCode l u) ∧ (vget m.chans e).xcEnd = some (u + w) ∧ LaneReq.compare e u w ∈ m.out ∧
      (fgetI l (FBK_CINC_CINC e) = 0 → fget m (FBK_CMC_DIR e) = 0)))

/-! ## CAN ports -/

/-- R31, R420, R339, R340, R344 to R347, R351, R354, R356, R357: a report reaches the lanes 2 µs after the field frame in which it
falls, if the port's cartridge is there and its engine can give it: none about a frame begun in silence, in bus-off, after its start
limit or when it was not the candidate, no outcome of a frame the engine does not hold, no outcome and no counters in a mode that starts
no frames. A frame that the thicket sends to a queue, or that goes to Q1 unmatched, takes the lowest FREE entry; where there is none it
is lost and counted, and takes the oldest FULL one if overwriting is on. Transmit outcomes, errors and counters do what they say to the
frame they name. QDROP, EWARN, BUSOFF, PXE and the overruns, events of the hardware, show from the next boundary (R31, R420); DEXP shows
at once, as R354 asks. Choices and readings of the model in it: log 58, 76, 112, 113. -/
def Obligations.CanReportsDelivered : Prop :=
  ∀ (p : CanPort) (s : State),
    let c : FieldNo := ⟨p.1 / 2, by omega⟩
    let x := vget s.fields c
    let silent : Option Nat := if x.mute then some (x.heard + x.tout) else none
    let reports (r : CanReport) (P : Nat → Lane → Lane → Prop) : Prop := Answers (.canReportDelivery p r) s fun t =>
      let u := tickTo (deliveryOf s.now r) s
      s.now ≤ t.now ∧ deliveryOf s.now r ≤ t.now ∧ t.pending = s.pending ∧
      (fieldPresent s c = false → t = u) ∧
      (fieldPresent s c = true → Settled u t fun l m =>
        (engineGives l u.now p silent r = true → P u.now l m) ∧ (engineGives l u.now p silent r = false → m = l))
    (∀ (l : Lane) (now : Nat) (o : TxObj) (sof eof : Nat) (e : AttemptErr) (tec rec bo : Byte) (es : BitVec 2),
      (fget l (CAN_CFG_MODE p) = 2 ∨ fget l (CAN_CFG_MODE p) = 3 →
        ∀ r ∈ [CanReport.begun o sof, .sent o sof eof, .arbLost o, .error o e, .startRefused o, .counters tec rec es bo],
          engineGives l now p silent r = false) ∧
      (∀ z, z ≤ sof → engineGives l now p (some z) (.begun o sof) = false ∧ engineGives l now p (some z) (.sent o sof eof) = false) ∧
      engineGives l now p silent (.counters tec rec 3#2 bo) = false ∧
      -- a frame begins only as the candidate, or within the 12 µs after it was, and what was not begun so is not sent
      (let may (o : TxObj) : Prop := engineGives l now p silent (.begun o sof) = false ∧
         ((vget l.cans p).run ≠ some (o, sof) → engineGives l now p silent (.sent o sof eof) = false)
       (fget l (CAN_STS_ESTATE p) = 2 → may o) ∧
       ((vget l.cans p).cand ≠ some o → (∀ g ∈ (vget l.cans p).gone, g.1 = o → g.2 + 38400 < sof) → may o) ∧
       (∀ (k : Fin 8) (f : TxFrame), txFrame l p (.slot k) = some f → f.at_ ≤ sof → f.lim < shipAt l now sof → may (.slot k))) ∧
      ((vget l.cans p).cand ≠ some o → (∀ g ∈ (vget l.cans p).gone, g.1 ≠ o) → (∀ r, (vget l.cans p).run = some r → r.1 ≠ o) →
        engineGives l now p silent (.arbLost o) = false ∧ engineGives l now p silent (.error o e) = false)) ∧
    (∀ (w : CanFrame) (sof eof : Nat), deliveryOf s.now (.received w sof eof false) = ceilTo 16000 eof + 6400 ∧
      reports (.received w sof eof false) fun _ l m =>
        let x := vget l.cans p
        let y := vget m.cans p
        fget l (CAN_CFG_MODE p) ≠ 0 → fget l (CAN_TSCFG_ROLE p) = 0 → (w.w0.getLsbD 31 = true → fget l (CAN_CFG_FDEN p) = 1) →
          (∀ q, q ≠ p → vget m.cans q = vget l.cans q) ∧
          (∀ (q : Fin 2) (tag : Nat),
            (∃ k, thicket l p w.w0 = some (k, q.1 + 1) ∧ tag = 64 * k) ∨
              (thicket l p w.w0 = none ∧ fget l (CAN_CFG_NOMATCH p) = 1 ∧ q = 1 ∧ tag = 4096) →
            let full (z : CanRt) : List Nat := if q = 0 then z.full0 else z.full1
            let own (z : CanRt) : List Nat := if q = 0 then z.own0 else z.own1
            let seq (z : CanRt) : Nat := if q = 0 then z.seq0 else z.seq1
            let size : Nat := if q = 0 then 64 else 256
            let written (e : Nat) : Prop := own y = own x ∧ seq y = (seq x + 1) % 65536 ∧ mget32 m (entryAddr p q e) = w.w0 ∧
              mget32 m (entryAddr p q e + 4) = wordOf (w.w1.toNat % 64 + tag + 65536 * (seq x % 65536)) ∧
              ∀ a, a < entryAddr p q e ∨ entryAddr p q e + 0x60 ≤ a → mget8 m a = mget8 l a
            let overrun : Prop := Counted (if q = 0 then CAN_CNT_Q0OVR p else CAN_CNT_Q1OVR p) l m ∧
              SetLate (if q = 0 then CAN_STK_Q0OVR p else CAN_STK_Q1OVR p) m
            let oldest : Prop := fget l (if q = 0 then CAN_CFG_Q0OW p else CAN_CFG_Q1OW p) ≠ 0
            (∀ e < size, e ∉ full x → e ∉ own x → (∀ j < e, j ∈ full x ∨ j ∈ own x) → full y = full x ++ [e] ∧ written e) ∧
            ((∀ e < size, e ∈ full x ∨ e ∈ own x) → overrun ∧
              (∀ e r, full x = e :: r → oldest → full y = r ++ [e] ∧ written e) ∧
              (full x = [] ∨ ¬ oldest → full y = full x ∧ own y = own x ∧ seq y = seq x ∧ m.mem = l.mem))) ∧
          ((∀ k a, thicket l p w.w0 = some (k, a) → a ≠ 1 ∧ a ≠ 2) → (thicket l p w.w0 = none → fget l (CAN_CFG_NOMATCH p) = 0) →
            m = { l with cans := m.cans } ∧ y = { x with cand := y.cand, gone := y.gone })) ∧
    (∀ (k : Fin 8) (sof eof : Nat), reports (.sent (.slot k) sof eof) fun now l m => ∀ f, txFrame l p (.slot k) = some f → f.at_ ≤ sof →
        fget m (CAN_DS_STATE p k) = 2 ∧ fget m (CAN_DT_TOUT p k) = (rround (shipAt l now eof) % 2 ^ 32).toNat ∧ fget m (CAN_STS_TXON p) = 0) ∧
    (∀ (sof eof : Nat), reports (.sent .queued sof eof) fun _ l m =>
        (vget m.cans p).fifo = (vget l.cans p).fifo.tail ∧ fget m (CAN_TXSTS_QFILL p) = (vget l.cans p).fifo.tail.length % 64) ∧
    (∀ (k : Fin 8) (e : AttemptErr), reports (.error (.slot k) e) fun _ l m => ∀ f, txFrame l p (.slot k) = some f →
        Counted (CAN_DS_ATT p k) l m ∧ fget m (CAN_STS_TXON p) = 0) ∧
    (∀ e : AttemptErr, reports (.error .queued e) fun _ l m => ∀ f r, (vget l.cans p).fifo = f :: r →
        (fget l (CAN_CFG_QRETRY p) < f.att + 1 → (vget m.cans p).fifo = r ∧ Counted (CAN_CNT2_QDROP p) l m ∧ SetLate (CAN_STK_QDROP p) m) ∧
        (f.att + 1 ≤ fget l (CAN_CFG_QRETRY p) → (vget m.cans p).fifo = { f with begun := false, att := f.att + 1 } :: r)) ∧
    (∀ (k : Fin 8) (sof : Nat), reports (.begun (.slot k) sof) fun _ l m => fget m (CAN_STS_TXON p) = 1 ∧
        ∀ f, vget (vget l.cans p).slots k = some f → f.at_ ≤ sof → vget (vget m.cans p).slots k = some { f with begun := true }) ∧
    (∀ k : Fin 8, reports (.startRefused (.slot k)) fun _ l m => ∀ f, txFrame l p (.slot k) = some f →
        (f.begun = false → f.lim < l.ship → fget m (CAN_DS_STATE p k) = 3 ∧ fget m (CAN_STK_DEXP p) = 1) ∧
        (f.begun = true ∨ l.ship ≤ f.lim → fget m (CAN_DS_STATE p k) = 1)) ∧
    (∀ o, reports (.arbLost o) fun _ l m => Counted (CAN_CNT3_ALOST p) l m ∧ fget m (CAN_STS_TXON p) = 0) ∧
    (∀ (tec rec : BitVec 8) (es : BitVec 2) (bo : Byte), reports (.counters tec rec es bo) fun _ l m =>
        fget m (CAN_ECNT_TEC p) = tec.toNat ∧ fget m (CAN_ECNT_REC p) = rec.toNat ∧ fget m (CAN_ECNT_BOREC p) = bo.toNat ∧
        fget m (CAN_STS_ESTATE p) = es.toNat ∧
        (fget l (CAN_ECNT_TEC p) < 96 ∧ 96 ≤ tec.toNat ∨ fget l (CAN_ECNT_REC p) < 96 ∧ 96 ≤ rec.toNat → SetLate (CAN_STK_EWARN p) m) ∧
        (fget m (CAN_STS_EWARN p) = 1 ↔ 96 ≤ tec.toNat ∨ 96 ≤ rec.toNat) ∧
        (es = 2#2 → fget l (CAN_STS_ESTATE p) ≠ 2 → SetLate (CAN_STK_BUSOFF p) m ∧ Counted (CAN_CNT2_BOFF p) l m)) ∧
    reports .errorFrame (fun _ l m => Counted (CAN_CNT3_ERRF p) l m) ∧
    reports .protocolException (fun _ l m => fget l (CAN_CFG_PXHD p) = 0 → SetLate (CAN_STK_PXE p) m)

/-- R109, R354, R357, R362, R363: a pending frame that has not begun and has no report by 12 µs after its start limit expires there in
every lane that runs, and its report and DEXP say so at once; a port recovers from bus-off with cleared counters; a master posts its
reference at the next multiple of its period that it has not served; a candidate becomes master when its time since the latest reference
of higher priority is over; a port without a pair for four periods is no longer aligned. TSMISS and TSLOST show from the next boundary
(R31, R420). Choices and readings of the model in it: log 59, 76, 113, 154. -/
def Obligations.CanTimersAndTimeService : Prop :=
  ∀ (p : CanPort) (s : State),
    (∀ (k : Fin 8) (i : LaneId), laneRuns (laneOf s i) = true → (i = .B → laneRuns s.la = false) →
      (∀ f0, txFrame (laneOf s i) p (.slot k) = some f0 → f0.begun = false → Answers (.laneExpiryRecord p k) s fun t =>
        t.now = shipReach (laneOf s i) s.now (f0.lim + 12000) ∧ t.pending = s.pending ∧
        ∀ j, laneRuns (laneOf s j) = true → ∀ f, txFrame (laneOf s j) p (.slot k) = some f →
          let l := laneOf s j
          let m := laneOf t j
          (f.begun = false → fget m (CAN_DS_STATE p k) = 3 ∧ fget m (CAN_DT_TOUT p k) = (rround f.lim % 2 ^ 32).toNat ∧
            fget m (CAN_STK_DEXP p) = 1 ∧ (∃ r ∈ m.vis, r.src = 0x5C + p.1) ∧
            vget m.cans p = { vget l.cans p with cand := (vget m.cans p).cand, gone := (vget m.cans p).gone }) ∧
          (f.begun = true → fget m (CAN_DS_STATE p k) = 1 ∧ vget m.cans p = vget l.cans p)) ∧
      (∀ f, txFrame (laneOf s i) p (.slot k) = some f → f.begun = true → Answers (.laneExpiryRecord p k) s fun t => t = s)) ∧
    Answers (.busOffRecovery p) s (fun t => Settled s t fun l m =>
      (fget l (CAN_STS_ESTATE p) = 2 → fget m (CAN_STS_ESTATE p) = 0 ∧ fget m (CAN_ECNT_TEC p) = 0 ∧ fget m (CAN_ECNT_REC p) = 0 ∧
        fget m (CAN_STS_RECOV p) = 0 ∧ fget m (CAN_STS_EWARN p) = 0 ∧ m = { l with regs := m.regs, cans := m.cans } ∧
        let x := vget m.cans p
        x.cand = (if handsFrames l p then chooseCand l p else none) ∧ x = { vget l.cans p with cand := x.cand, gone := x.gone }) ∧
      (fget l (CAN_STS_ESTATE p) ≠ 2 → m = l)) ∧
    (∀ i, laneRuns (laneOf s i) = true → laneRuns (laneOf s (otherLane i)) = false → fget (laneOf s i) (CAN_TSSTS_STATE p) = 2 →
      Answers (.referencePost p) s fun t =>
        let l := laneOf s i
        let x := vget l.cans p
        let r := fget l (CAN_TSPER_REFPER p)
        let prev := match x.ownSof with | some v => v | none => 2 ^ 64 - 1
        let missed : Prop := ∃ f, x.refF = some f ∧ f.begun = false
        let c := ceilTo (1000 * r) (shipNs l)
        let at_ := if x.refM = some c then c + 1000 * r else c
        s.now ≤ t.now ∧ ∃ f, vget (laneOf t i).cans p = { x with refF := some f, ord := x.ord + 1, refM := some at_ } ∧
          f.w0 = wordOf (fget l (CAN_TSCFG_REFID p) + fget l (CAN_TSCFG_PRIO p)) ∧ f.w1 = 8#32 ∧
          f.data = [wordOf prev, wordOf (prev / 2 ^ 32)] ∧
          f.dl = at_ + 250 * r ∧
          (missed → SetLate (CAN_STK_TSMISS p) (laneOf t i)) ∧ ∀ a, rget (laneOf t i) a = rget l a) ∧
    Answers (.masterTimeout p) s (fun t =>
      (∀ i v, laneRuns (laneOf s i) = true → masterWaits (laneOf s i) p = true → (vget (laneOf s i).cans p).refAt = some v →
        let per := 3200 * fget (laneOf s i) (CAN_TSPER_REFPER p)
        v + per + (fget (laneOf s i) (CAN_TSCFG_PRIO p) + 1) * per / 8 ≤ t.now) ∧
      Lanewise (tickTo t.now s) t fun l m =>
      let takes : Prop := fget l (CAN_TSCFG_ROLE p) = 2 ∧ fget l (CAN_TSSTS_STATE p) ≠ 2
      (takes → fget m (CAN_TSSTS_STATE p) = 2 ∧ fget m (CAN_TSSTS_MPRIO p) = fget l (CAN_TSCFG_PRIO p) ∧
        vget m.cans p = { vget l.cans p with ownSof := none } ∧ (∀ a, a ≠ CAN_TSSTS p → rget m a = rget l a)) ∧
      (¬ takes → m = l)) ∧
    Answers (.alignmentLost p) s (fun t =>
      (∀ i, laneRuns (laneOf s i) = true → fget (laneOf s i) (CAN_TSSTS_ALIGNED p) = 1 → ∀ v, (vget (laneOf s i).cans p).pairAt = some v →
        v + 4 * 3200 * fget (laneOf s i) (CAN_TSPER_REFPER p) ≤ t.now) ∧
      ∀ i, laneRuns (laneOf s i) = true → fget (laneOf s i) (CAN_TSSTS_ALIGNED p) = 1 →
        fget (laneOf t i) (CAN_TSSTS_ALIGNED p) = 0 ∧ SetLate (CAN_STK_TSLOST p) (laneOf t i) ∧
        vget (laneOf t i).cans p = { vget (laneOf s i).cans p with pairs := 0, good := 0 })

/-! ## The Cord -/

/-- R448, R451, R452, R458, R459, R463, R466, R467: every millisecond the Cord that runs decodes its payout lines, counts its lengths
and open transactions on and sends a numbered, checked frame to the lanes; a lane that runs holds the copy it receives if that is whole.
At 100 °C or with a broken sensor it closes every open transaction as aborted and stops with that frame; a fall of its supply closes
them as interrupted; after a stop it waits with supply until it is below 95 °C. Results lost for ten ticks are raised, and CRD_STK shows
it from the next boundary (R31, R420). Choices and readings of the model in it: log 71, 76, 114, 119, 146, 151. -/
def Obligations.CordFramesAndSupply : Prop :=
  ∀ (s : State),
    let c := s.cord
    let holds (cp : Copy) (ws : List Word) (l m : Lane) : Prop :=
      (laneRuns l = false ∨ cp = .lost → m = l) ∧
      (laneRuns l = true → cp = .whole → m = { l with crdIn := l.crdIn ++ [ws ++ [crc32c ws]] }) ∧
      (m = l ∨ ∃ xs, m = { l with crdIn := l.crdIn ++ [xs] } ∧ xs.length = 32 ∧ crc32c (xs.take 31) = xs.getD 31 0#32)
    let answers : Prop := c.answer = [] ∨ c.answer.length = 19
    -- every transaction that was open has its record, with `stat`
    let closed (stat : Nat) (e : CordRt) : Prop := ∀ m : Fin 4, vget e.opens m = none ∧ ∀ x, vget c.opens m = some x →
      ∃ ws, (ws, false) ∈ e.store ∧ ws.getD 0 0#32 = wordOf x.rseq ∧ (ws.getD 1 0#32).toNat % 64 = m.1 + 4 * stat
    (∀ (d : CordMeas) (ca cb : Copy), cordUp s = true → answers → Answers (.cordResultFrame { meas := d, copyA := ca, copyB := cb }) s fun t =>
      let e := t.cord
      let hot : Prop := c.tlev = 3 ∨ d.temp = none ∨ ∃ v, d.temp = some v ∧ 1600 ≤ v.toInt
      -- the counts of the four 0.25 ms of a payout channel; those that come while it is invalid are lost
      let n (m : Fin 4) (j : Nat) : Int := let x := (quadMs (vget c.quad m) d m).2.getD j (0, false); if x.2 = true then x.1 else 0
      let um (m : Fin 4) (j : Nat) : Int :=
        (if (parGet c .LDIR m).toNat % 2 = 1 then -1 else 1) * n m j * ((parGet c .LSCL m).toNat : Int)
      let valid (m : Fin 4) : Prop := ∀ x ∈ (quadMs (vget c.quad m) d m).2, x.2 = true
      t.pending = s.pending ∧ t.now = s.now ∧ e.time = c.time + 1 ∧ e.fseq = (c.fseq + 1) % 65536 ∧
      (hot → e.tlev = 3) ∧
      (∀ v, d.temp = some v → ¬ hot → e.tlev = (if 1360 ≤ v.toInt then 1 else if v.toInt ≤ 1280 then 0 else min c.tlev 1)) ∧
      (∀ m, vget e.cnt m = vget c.cnt m + n m 0 + n m 1 + n m 2 + n m 3) ∧
      (¬ hot → e.stopped = c.stopped ∧ e.store = c.store ∧ ∀ m x, vget c.opens m = some x → ∃ y, vget e.opens m = some y ∧
        y.rseq = x.rseq ∧ y.start = x.start ∧ y.net = x.net + um m 0 + um m 1 + um m 2 + um m 3 ∧
        (y.inv = true ↔ x.inv = true ∨ tensionValid c d m = false ∨ ¬ valid m)) ∧
      (hot → closed 2 e ∧ e.stopped = true ∧ e.shut = true) ∧
      ∃ ws, (ws.getD 0 0#32).toNat % 65536 = e.fseq ∧ ((ws.getD 0 0#32).getLsbD 17 = true ↔ hot) ∧
        (∀ m : Fin 4, ws.getD (1 + m) 0#32 = wordOf (uCode 32 (cordTen c d m)) ∧
          ws.getD (5 + m) 0#32 = wordOf (uCode 32 (toDiv (mkRat (cordUm c m (vget e.cnt m)) 1000) (parGet c .LDIV m).toNat))) ∧
        t = { s with cord := e, la := t.la, lb := t.lb } ∧ holds ca ws s.la t.la ∧ holds cb ws s.lb t.lb) ∧
    (c.on = true → c.stopped = false → c.shut = true → ∀ (d : CordMeas) (ca cb : Copy),
      d.temp = none ∨ (∃ v, d.temp = some v ∧ 1520 ≤ v.toInt) →
        Answers (.cordResultFrame { meas := d, copyA := ca, copyB := cb }) s fun t => t = s) ∧
    -- the filters of a payout line and the decoder
    (∀ (q : QuadRt) (r : AbRun),
      let stays (v x : Bool) (k : Nat) : Prop := v = x ∨ k + r.n < 8
      let x := quadRun q r
      (stays q.a r.a q.na → stays q.b r.b q.nb → x.1.a = q.a ∧ x.1.b = q.b ∧ x.2 = (0, false)) ∧
      (¬ stays q.a r.a q.na → stays q.b r.b q.nb → x.1.a = r.a ∧ x.1.b = q.b ∧ x.2 = (if q.a = q.b then 1 else -1, false)) ∧
      (stays q.a r.a q.na → ¬ stays q.b r.b q.nb → x.1.a = q.a ∧ x.1.b = r.b ∧ x.2 = (if q.a = q.b then -1 else 1, false)) ∧
      (¬ stays q.a r.a q.na → ¬ stays q.b r.b q.nb → q.na = q.nb → x.1.a = r.a ∧ x.1.b = r.b ∧ x.2 = (0, true))) ∧
    (cordUp s = true → answers → Answers .cordThermalShutdown s fun t =>
      t.cord.stopped = true ∧ t.cord.shut = true ∧ t.cord.tlev = 3 ∧ closed 2 t.cord ∧ t.cord.cnt = c.cnt ∧
      ∃ ws, (ws.getD 0 0#32).getLsbD 17 = true ∧
        Lanewise s { t with cord := c } fun l m => m = { l with crdIn := l.crdIn ++ [ws ++ [crc32c ws]] }) ∧
    (c.on = true → Answers .cordSupplyFall s fun t => t = { s with cord := t.cord } ∧ t.cord.on = false ∧ t.cord.pathA = none ∧
      t.cord.pathB = none ∧ (c.stopped = false → closed 1 t.cord) ∧ t.cord.cnt = c.cnt ∧ t.cord.par = c.par) ∧
    (c.on = false → s.pres.getLsbD 10 = true → Answers .cordPowerOn s fun t => t = { s with cord := t.cord } ∧ t.cord.on = true ∧ t.cord.answer = [] ∧
      t.cord.last = none ∧ t.cord.cnt = c.cnt ∧ t.cord.par = c.par ∧ t.cord.shut = c.shut ∧ t.cord.tlev = 0 ∧
      (c.shut = true → t.cord.store = c.store) ∧
      (c.shut = false → roomFor c = true → t.cord.nextSeq = c.nextSeq + 1 ∧ ∃ ws, (ws, false) ∈ t.cord.store ∧ ws.getD 0 0#32 = wordOf c.nextSeq ∧
        (ws.getD 1 0#32).toNat / 16 = 2)) ∧
    Answers .cordResultsLost s (fun t => Settled s t fun l m =>
      (fget l CRD_STS_PRES = 1 → 11 ≤ fget l CRD_VAL_AGE → fget m CRD_STS_PRES = 0 ∧ SetLate CRD_STK_LOST m) ∧
      (fget l CRD_STS_PRES = 0 ∨ fget l CRD_VAL_AGE < 11 → m = l))

/-- R460, R461, R462, R464, R465: a command of a lane that waits for no answer takes the next number and reaches the Cord. START opens a
transaction under the next record number; END closes it and returns its record; RECORD returns a stored one. In every state the receipt
of the copy on a lane's command path empties the path: the first copy of each count is carried out, or refused with its result; a second
copy is answered and not carried out again, with DIFF where it differs; a Cord that is not up takes none; a damaged copy and content
that is no command are discarded and counted (R450). A command without an answer by the tenth tick after its commit instant is given up,
which CRD_STK shows from the next boundary (R31, R420). Choices and readings of the model in it: log 71, 76, 148, 149. -/
def Obligations.CordCommandsCarriedOut : Prop :=
  ∀ (i : LaneId) (s : State),
    let l := laneOf s i
    let c := s.cord
    let n := (fget l CRD_CRES_CSEQ + 1) % 256
    let ready : Prop := laneRuns l = true ∧ laneRuns (laneOf s (otherLane i)) = false ∧ fget l CRD_CRES_STATE ≠ 1 ∧ cordUp s = true ∧
      s.la.out = [] ∧ s.lb.out = [] ∧ c.pathA = none ∧ c.pathB = none ∧ ∀ p, c.last = some p → p.cseq ≠ n
    let sent (t : State) : Prop := t.pending = s.pending ∧ t.now = s.now ∧ fget (laneOf t i) CRD_CRES_STATE = 1 ∧
      fget (laneOf t i) CRD_CRES_CSEQ = n ∧ fget (laneOf t i) CRD_STS_BUSY = 1 ∧ t.cord.pathA = none ∧ t.cord.pathB = none ∧
      t.cord.cnt = c.cnt ∧ t.cord.par = c.par
    let returned (t : State) (ws : List Word) : Prop := (ws, true) ∈ t.cord.store ∧
      t.cord.answer.getD 0 0#32 = wordOf (n + 2 ^ 16 + 2 ^ 18) ∧ ∀ j < 17, t.cord.answer.getD (2 + j) 0#32 = ws.getD j 0#32
    (ready →
      (∀ m : BitVec 2, c.jumper = false → vget c.opens m.toFin = none → roomFor c = true → Answers (.cordStart m) s fun t =>
        sent t ∧ t.cord.nextSeq = c.nextSeq + 1 ∧ t.cord.store = c.store ∧
        vget t.cord.opens m.toFin = some
          { rseq := c.nextSeq, start := shipNs l, t0 := c.time, w := 0, net := 0, gross := 0, peak := none, inv := false } ∧
        (∀ k, k ≠ m.toFin → vget t.cord.opens k = vget c.opens k) ∧
        t.cord.answer.getD 0 0#32 = wordOf (n + 2 ^ 16) ∧ t.cord.answer.getD 1 0#32 = wordOf c.nextSeq) ∧
      (∀ (m : BitVec 2) (x : CordTx), vget c.opens m.toFin = some x → (∀ r ∈ c.store, r.1.getD 0 0#32 ≠ wordOf x.rseq) →
        Answers (.cordEnd m) s fun t =>
          sent t ∧ vget t.cord.opens m.toFin = none ∧ (∀ k, k ≠ m.toFin → vget t.cord.opens k = vget c.opens k) ∧
          ∃ ws, ws.getD 0 0#32 = wordOf x.rseq ∧ (ws.getD 1 0#32).toNat % 64 = m.toNat ∧
            ws.getD 14 0#32 = crc32c (ws.take 14) ∧ returned t ws) ∧
      (∀ (q : Word) (ws : List Word) (b : Bool), (ws, b) ∈ c.store → ws.getD 0 0#32 = q → racOk ws = true →
        (∀ r ∈ c.store, r.1.getD 0 0#32 = q → r = (ws, b)) → Answers (.cordRecord q) s fun t =>
          sent t ∧ t.cord.opens = c.opens ∧ returned t ws) ∧
      (∀ q : Word, (∀ r ∈ c.store, r.1.getD 0 0#32 ≠ q) → Answers (.cordRecord q) s fun t =>
        sent t ∧ t.cord.opens = c.opens ∧ t.cord.store = c.store ∧ t.cord.answer.getD 0 0#32 = wordOf (n + 256 * 4 + 2 ^ 16))) ∧
    (let path (j : LaneId) (e : CordRt) : Option CordSend := match j with | .A => e.pathA | .B => e.pathB
     let receives (P : CordRt → Prop) : Prop := Answers (.cordCommandReceipt { lane := i, got := .copy }) s fun t => t = { s with cord := t.cord } ∧
       path i t.cord = none ∧ path (otherLane i) t.cord = path (otherLane i) c ∧ P t.cord
     let bad (e : CordRt) : CordRt := if cordUp s = true then { e with bad := e.bad + 1 } else e
     (path i c = none → receives fun e => e = c) ∧
     Answers (.cordCommandReceipt { lane := i, got := .foreign }) s (fun t => t = { s with cord := bad c }) ∧
     Answers (.cordCommandReceipt { lane := i, got := .damaged }) s (fun t => (path i c = none → t = s) ∧
       (path i c ≠ none → t = { s with cord := bad (match i with | .A => { c with pathA := none } | .B => { c with pathB := none }) })) ∧
     ∀ d, path i c = some d →
       let kept (e : CordRt) : Prop := e.opens = c.opens ∧ e.store = c.store ∧ e.nextSeq = c.nextSeq
       let tells (e : CordRt) (result rseq : Nat) : Prop := e.last = some d ∧
         e.answer.getD 0 0#32 = wordOf (d.cseq % 256 + 256 * result + 2 ^ 16) ∧ e.answer.getD 1 0#32 = wordOf rseq
       let x := vget c.opens d.point
       (cordUp s = false → receives fun e => kept e ∧ e.answer = c.answer ∧ e.last = c.last) ∧
       (cordUp s = true → d.op = 0 ∨ 3 < d.op → receives fun e => kept e ∧ e.answer = c.answer ∧ e.last = c.last ∧ e.bad = c.bad + 1) ∧
       (cordUp s = true → 1 ≤ d.op → d.op ≤ 3 →
         (∀ p, c.last = some p → p.cseq = d.cseq → receives fun e => kept e ∧ e.last = c.last ∧
           (p = d → e.answer = c.answer) ∧
           (p ≠ d → ∀ w r, c.answer = w :: r → e.answer = (w ||| 0x20000#32) :: r)) ∧
         ((∀ p, c.last = some p → p.cseq ≠ d.cseq) →
           (d.op = 1 → c.jumper = true → receives fun e => kept e ∧ tells e 5 0) ∧
           (d.op = 1 → c.jumper = false → x.isSome = true → receives fun e => kept e ∧ tells e 1 0) ∧
           (d.op = 1 → c.jumper = false → x = none → roomFor c = false → receives fun e => kept e ∧ tells e 3 0) ∧
           (d.op = 1 → c.jumper = false → x = none → roomFor c = true → receives fun e =>
             tells e 0 c.nextSeq ∧ e.nextSeq = c.nextSeq + 1 ∧ e.store = c.store ∧
             (∃ y, vget e.opens d.point = some y ∧ y.rseq = c.nextSeq ∧ y.start = d.ship) ∧
             ∀ k, k ≠ d.point → vget e.opens k = vget c.opens k) ∧
           (d.op = 2 → x = none → receives fun e => kept e ∧ tells e 2 0) ∧
           (d.op = 2 → x.isSome = true → receives fun e => e.last = some d ∧ e.nextSeq = c.nextSeq ∧
             vget e.opens d.point = none ∧ ∀ k, k ≠ d.point → vget e.opens k = vget c.opens k) ∧
           (d.op = 3 → receives fun e => e.last = some d ∧ e.opens = c.opens ∧ e.nextSeq = c.nextSeq)))) ∧
    Answers .cordCommandTimeout s (fun t => Lanewise s t fun l m =>
      (fget l CRD_CRES_STATE = 1 → 10 ≤ l.crdTicks → m = { l with regs := m.regs, late := m.late } ∧
        (∀ a, a ∉ [CRD_CRES, CRD_STS] → rget m a = rget l a) ∧
        fget m CRD_CRES_STATE = 3 ∧ fget m CRD_STS_BUSY = 0 ∧ SetLate CRD_STK_CMDTO m) ∧
      (fget l CRD_CRES_STATE ≠ 1 ∨ l.crdTicks < 10 → m = l)) ∧
    (∀ now use, (cordTick now l use).crdTicks = if l.crdFrom < now then l.crdTicks + 1 else 0)

/-- R454, R455, R456, R457: the calibration port. Parameters are staged and, with the seal jumper fitted, committed all at once: every
change takes an audit entry and the audit counter goes one up. Without the jumper a change is refused with error 2; fitting the jumper
aborts open transactions and removing it discards what is staged. A line whose CRC-16 is not over its text is answered with error 1 and
changes nothing else; a Cord that does not run answers none. LCHK is the CRC-16 over the code image (R449). Choices and readings of the
model in it: log 71, 147, 150. -/
def Obligations.CalibrationPort : Prop :=
  ∀ (s : State),
    let c := s.cord
    let cal (i : Instr) (e : CordRt) : Prop := Answers i s fun t => t = { s with cord := e }
    (c.jumper = false → Answers .sealJumperFitted s fun t => t = { s with cord := t.cord } ∧ t.cord.jumper = true ∧
      (∀ m : Fin 4, vget t.cord.opens m = none ∧ ∀ x, vget c.opens m = some x → ∃ ws, (ws, false) ∈ t.cord.store ∧
        ws.getD 0 0#32 = wordOf x.rseq ∧ (ws.getD 1 0#32).toNat % 64 = m.1 + 4 * 2) ∧ t.cord.par = c.par ∧ t.cord.audit = c.audit) ∧
    cal .sealJumperRemoved { c with jumper := false, staged := [] } ∧
    (cordRuns c = false → ∀ i ∈ [Instr.idQuery, .discard, .commit, .audQuery { arg := 0 }], Answers i s fun t => t = s) ∧
    (cordRuns c = true → ∀ (p : LegalPar) (line : Option (List Byte × BitVec 16)),
      let whole : Prop := ∀ x crc, line = some (x, crc) → crc16Bytes x = crc
      cal .idQuery { c with cal := .id c.lver c.lchk c.serial c.audit } ∧
      cal .discard { c with staged := [], cal := .ok } ∧
      (¬ whole → ∀ (ch : Fin 4) (v : Word) (n : Nat), ∀ i ∈ [Instr.parQuery p { arg := ch, line := line }, .par p ch { arg := v, line := line },
          .zero { arg := ch, line := line }, .span ch { arg := v, line := line }, .audQuery { arg := n, line := line }],
        cal i { c with cal := .err 1 }) ∧
      (whole → ∀ ch, cal (.parQuery p { arg := ch, line := line }) { c with cal := .par (parGet c p ch) (stagedOf c p ch) }) ∧
      (whole → ∀ n, cal (.audQuery { arg := n, line := line }) { c with cal := .aud c.alog[n]? }) ∧
      (c.jumper = false → whole → ∀ (ch : Fin 4) (v : Word) (w : BitVec 16) (code : List Byte),
        ∀ i ∈ [Instr.par p ch { arg := v, line := line }, .zero { arg := ch, line := line }, .span ch { arg := v, line := line }, .commit,
            .softwareUpdate w code], cal i { c with cal := .err 2 }) ∧
      (c.jumper = true →
        (whole → ∀ (ch : Fin 4) (v : Word) (q : LegalPar), ∀ f ∈ [(Instr.par p ch { arg := v, line := line }, p),
            (.zero { arg := ch, line := line }, .TZERO), (.span ch { arg := v, line := line }, .TSPAN)],
          Answers f.1 s fun t => t = { s with cord := { c with staged := t.cord.staged, cal := .ok } } ∧
            (∀ k, (q, k) ≠ (f.2, ch) → stagedOf t.cord q k = stagedOf c q k) ∧
            ∃ x, stagedOf t.cord f.2 ch = some x ∧ (f.1 = .par p ch { arg := v, line := line } → x = v) ∧
              (f.1 = .zero { arg := ch, line := line } → x = wordOf (uCode 32 (bridgeNow c ch)))) ∧
        (∀ (w : BitVec 16) (code : List Byte), (c.alog.length < 1024 → Answers (.softwareUpdate w code) s fun t =>
            t = { s with cord := { c with
              audit := c.audit + 1, lver := w, lchk := crc16Bytes code, code := code, cal := .ok
              alog := c.alog ++ [.sw (c.audit + 1) (c.lchk ++ c.lver) (crc16Bytes code ++ w) (c.time / 1000)] } }) ∧
          (1024 ≤ c.alog.length → cal (.softwareUpdate w code) { c with cal := .err 3 })) ∧
        (c.staged.Pairwise (fun a b => (a.1, a.2.1) ≠ (b.1, b.2.1)) →
          let new (p : LegalPar) (ch : Fin 4) : Word := (stagedOf c p ch).getD (parGet c p ch)
          let chg := c.staged.filter fun x => decide (parGet c x.1 x.2.1 ≠ x.2.2)
          ((∀ ch, 3000 * (new .TDIV ch).toNat ≤ (new .TRNG ch).toNat) → c.alog.length + chg.length ≤ 1024 → chg ≠ [] →
            Answers .commit s fun t => t = { s with cord := t.cord } ∧ (∀ p ch, parGet t.cord p ch = new p ch) ∧ t.cord.staged = [] ∧
              t.cord.audit = c.audit + 1 ∧ t.cord.cal = .ok ∧ t.cord.alog.length = c.alog.length + chg.length ∧
              (∀ x ∈ chg, AudEntry.par (c.audit + 1) x.1 x.2.1 (parGet c x.1 x.2.1) x.2.2 (c.time / 1000) ∈ t.cord.alog) ∧
              t.cord.opens = c.opens ∧ t.cord.store = c.store) ∧
          ((∃ ch, (new .TRNG ch).toNat < 3000 * (new .TDIV ch).toNat) → Answers .commit s fun t =>
            ∃ k, t = { s with cord := { c with cal := .err k } }))))

/-! ## Thermal management, clocks and power -/

/-- R31, R374, R377 to R380, R385, R420: TSTEP seconds after the latest crossing of the throttle threshold or change of a brick's step,
it goes one up while the brick stands at throttle, one down otherwise; the lane's steps follow the two lane diodes; a pin without its
cartridge and a diode that is there and silent for 10 ticks turn stale; a lane that has shut down gives its hand-over up and stops in
FAULT with Ember alone. STEPUP and STALE, events of the hardware, show from the next boundary. Choices and readings of the model in it:
log 60, 61, 76, 116, 153. -/
def Obligations.ThermalReactions : Prop :=
  ∀ (s : State),
    (∀ b : Fin 32, Answers (.throttleStep (.brick b)) s fun t => Lanewise (tickTo t.now s) t fun l m =>
      let st := fget l (THM_BST_STEP b)
      let x := vget l.btimes b
      let moves : Prop := x.hot = true ∧ st < 3 ∨ x.hot = false ∧ 0 < st
      (moves → x.at_ + 3200000000 * fget l THM_LCFG_TSTEP ≤ t.now ∧
        m = { l with regs := m.regs, late := m.late, btimes := vset l.btimes b { x with at_ := t.now } } ∧
        (∀ a, a ≠ THM_BST b → rget m a = rget l a) ∧
        (x.hot = true → fget m (THM_BST_STEP b) = st + 1 ∧ SetLate THM_STK_STEPUP m) ∧
        (x.hot = false → fget m (THM_BST_STEP b) = st - 1 ∧ m.late = l.late)) ∧
      (¬ moves → m = l)) ∧
    Answers (.throttleStep .lane) s (fun t => Lanewise (tickTo t.now s) t fun l m =>
      let due (i : Fin 2) : Prop := let st := vget l.lsteps i; let x := vget l.ltimes i
        fget l (THM_T_STALE (144 + i.1)) = 0 ∧ (x.hot = true ∧ st < 3 ∨ x.hot = false ∧ 0 < st) ∧
        x.at_ + 3200000000 * fget l THM_LCFG_TSTEP ≤ t.now
      m = { l with regs := m.regs, late := m.late, lsteps := m.lsteps, ltimes := m.ltimes } ∧ (∀ a, a ≠ THM_STS → rget m a = rget l a) ∧
      ((∃ i, vget l.lsteps i < vget m.lsteps i) → SetLate THM_STK_STEPUP m) ∧
      (∀ i : Fin 2, let st := vget l.lsteps i
        (due i → vget m.lsteps i = if (vget l.ltimes i).hot then st + 1 else st - 1) ∧ (¬ due i → vget m.lsteps i = st)) ∧
      ((∃ i, due i) → (∀ i, vget l.lsteps i ≤ 3) → fget m THM_STS_LSTEP = max (vget m.lsteps 0) (vget m.lsteps 1)) ∧
      ((∀ i, ¬ due i) → m = l)) ∧
    (∀ n : Fin 150, Answers (.readingStale n) s fun t => Lanewise s t fun l m =>
      let there : Prop := (144 ≤ n.1 ∧ n.1 < 146 ∧ (n.1 - 144 = (match l.ident with | .A => 0 | .B => 1) ∨ slotUp l (2 + (n.1 - 144)) = true)) ∨ (146 ≤ n.1 ∧ slotUp l (4 + (n.1 - 146)) = true)
      let silent : Prop := there ∧ 10 ≤ (vget l.sens n).age ∧ (vget l.sens n).mute = false
      let gone : Prop := 128 ≤ n.1 ∧ n.1 < 144 ∧ slotUp l (8 + (n.1 - 128) / 8) = false
      (∀ a, a ∉ [THM_T n, THM_STS] → rget m a = rget l a) ∧
      (gone ∨ silent → fget m (THM_T_STALE n) = 1 ∧ fget m THM_STS_ANYSTALE = 1) ∧
      (gone → m = { l with regs := m.regs, late := m.late } ∧ (fget l (THM_T_STALE n) = 0 → SetLate THM_STK_STALE m)) ∧
      (silent → SetLate THM_STK_STALE m ∧
        m = { l with regs := m.regs, late := m.late, sens := vset l.sens n { vget l.sens n with mute := true } }) ∧
      (¬ gone → ¬ silent → m = { l with regs := m.regs } ∧ rget m (THM_T n) = rget l (THM_T n))) ∧
    (∀ i : LaneId, (laneOf s i).shut = true →
      (laneActive (laneOf s i) = true → Answers (.laneShutdownAbandon i) s fun t =>
        let u := tickTo ((laneOf s i).shutAt + 6400000) s
        t = { putLane u i (laneOf t i) with ho := .none } ∧ RegsOnly (laneOf u i) (laneOf t i) [XLN_STS] ∧
        fget (laneOf t i) XLN_STS_HOBUSY = 0) ∧
      ((laneActive (laneOf s i) = false ∨ s.ho = .none) ∧ (laneOf s i).peatQ = [] ∨ (laneOf s i).shutAt + 16000000 ≤ s.now →
       Answers (.laneStop i) s fun t => fget (laneOf t i) CLK_DOM_RUN = 1 ∧ ∃ u, Calm u t ∧ u = { s with la := u.la, lb := u.lb } ∧
        roleOf (laneOf u i) = roleFault ∧
        (laneRuns (laneOf s (otherLane i)) = true → SetLate THM_STK_LSHUT (laneOf u (otherLane i)))))

/-- R31, R35, R393, R396, R398 to R401, R407, R408, R420: a PLL that locks starts its domain at the next 40 ns grid point; a second
failure to lock is a fault. DORM is taken only in a module at rest with its key in RUN; the lane then sleeps from the next T1 release
on, its links dark and its field cartridges safe. The first enabled wake source is recorded and the lane wakes on a new time base with
its Ember, Reference and Core domains; one seen before the entry cancels it; the wake timer counts Ember ticks from the entry. The
supplies are shown as they are, an input outside its range being none; one whose cartridge is absent or not healthy gives nothing.
KINDLE at a lock, PLLFLT, WAKE, DORMABT, PSLOSS and PFAIL, events of the hardware, show from the next boundary in a lane that runs.
Choices and readings of the model in it: log 62, 63, 76, 81, 115, 137. -/
def Obligations.ClocksAndPower : Prop :=
  ∀ (i : LaneId) (s : State),
    let l := laneOf s i
    (∀ d : Fin 9, l.powered = true →
      (coreRuns l = true → domainWanted l d = true → (fget l CLK_DOM_RUN).testBit d = false → Answers (.pllLock i d) s fun t =>
        let m := laneOf t i
        (∃ n, t.now = 128 * n) ∧ s.now ≤ t.now ∧ t.now < s.now + 128 ∧ t.pending = s.pending ∧
        (laneRuns l = true → SetLate CLK_STK_KINDLE m) ∧ (laneRuns l = false → fget m CLK_STK_KINDLE = 1) ∧
        ∀ e : Fin 9, (fget m CLK_DOM_RUN).testBit e = (decide (e = d) || (fget l CLK_DOM_RUN).testBit e)) ∧
      (coreRuns l = true → domainWanted l d = true → (fget l CLK_DOM_RUN).testBit d = false → Answers (.pllFault i d) s (fun t =>
        let m := laneOf t i
        t.now = s.now ∧ t.pending = s.pending ∧ (∀ h, (vget m.units h).chk = true) ∧
        (∀ e : Fin 9, e ≠ d → m.pllTry.getLsbD e = l.pllTry.getLsbD e) ∧ m.pllTry.getLsbD d = !(l.pllTry.getLsbD d) ∧
        (l.pllTry.getLsbD d = true → (laneRuns l = true → SetLate CLK_STK_PLLFLT m) ∧ (laneRuns l = false → fget m CLK_STK_PLLFLT = 1) ∧
          ∃ r ∈ m.vis, r.src = 0x7C ∧ r.ctx0 = wordOf ((match i with | .A => 0 | .B => 1) + 256 * (d.1 + 1)))))) ∧
    (laneRuns l = true →
      let rest : Prop := (∀ a : Axis, fget l (AXS_EN_BST a) = 0) ∧
        (∀ p : CanPort, (vget l.cans p).fifo = [] ∧ ∀ k : Fin 8, fget l (CAN_DS_STATE p k) ≠ 1) ∧
        (fget l LPE_CSTS_STATE = 0 ∨ fget l LPE_CSTS_STATE = 3) ∧ fget l ADM_STS_RQBUSY = 0 ∧ s.key = false
      (rest → Answers (.dorm i) s fun t => t = putLane s i { l with dormReq := true }) ∧
      (¬ rest → Answers (.dorm i) s fun t => t = putLane s i (laneOf t i) ∧ RegsOnly l (laneOf t i) [CLK_STK, FLT_STK] ∧
        fget (laneOf t i) CLK_STK_DORMIGN = 1)) ∧
    (laneRuns l = true → l.dormReq = true → s.la.out = [] → s.lb.out = [] →
      (∀ c k, (taskOf l c k).run = .idle ∨ fget l (ADM_TCFG_CLASS (tix c k)) = 0 ∨ 4 ≤ fget l (ADM_TCFG_CLASS (tix c k))) →
        Answers .dormantEntry s fun t =>
          let m := laneOf t i
          t.now = nextT1 s ∧ t.t1At = nextT1 s ∧ fget m CLK_DOM_RUN = 1 ∧ fget m CLK_STS_MSTATE = 3 ∧ m.dormReq = false ∧
          m.mem = l.mem ∧ m.t1n = l.t1n ∧ (∀ f, (vget t.fields f).safe = true) ∧
          ∀ k, (vget t.links k).dark = true ∧ (vget t.links k).send = false) ∧
    (∀ (w : WakeSrc) (code di port : Nat),
      let watched : Prop := match w with
        | .di n => code = 1 ∧ di = n.1 ∧ port = 0 ∧ (rget l (if n.1 < 32 then CLK_WDI0 else CLK_WDI1)).getLsbD (n.1 % 32) = true
        | .can p => code = 2 ∧ di = 0 ∧ port = p.1 ∧ (fget l CLK_WCFG_WCAN).testBit p.1 = true
        | .key => code = 3 ∧ di = 0 ∧ port = 0 ∧ fget l CLK_WCFG_WKEY = 1
        | .presence => code = 4 ∧ di = 0 ∧ port = 0 ∧ fget l CLK_WCFG_WPRES = 1
        | .service => code = 6 ∧ di = 0 ∧ port = 0 ∧ fget l CLK_WCFG_WSVC = 1
        | .cartridge => code = 7 ∧ di = 0 ∧ port = 0 ∧ fget l CLK_WCFG_WCART = 1
        | .supply => code = 8 ∧ di = 0 ∧ port = 0
      let woken (v c d p : Nat) (t : State) : Prop :=
        let m := laneOf t i
        fget m CLK_WAKE_SRC = c ∧ fget m CLK_WAKE_DI = d ∧ fget m CLK_WAKE_PORT = p ∧ SetLate CLK_STK_WAKE m ∧ m.tb0 = t.now ∧
        (∃ n, t.now = 3200000 * n) ∧ v ≤ t.now ∧ t.now < v + 3200000 ∧ t.t1At = t.now ∧ fget m CLK_DOM_RUN = 7 ∧ m.t1n = l.t1n ∧
        ∀ k, (vget t.links k).dark = (vget s.links k).shut
      (asleep l = true → s.la.out = [] → s.lb.out = [] →
        (watched → Answers (.wakeSource w) s (woken s.now code di port)) ∧
        (fget l CLK_WTMR_TICKS ≠ 0 → asleep (laneOf s (otherLane i)) = false →
          Answers .wakeTimer s (woken (max s.now (l.dormAt + (390625 * fget l CLK_WTMR_TICKS + 3) / 4)) 5 0 0))) ∧
      (l.dormReq = true → watched → Answers (.wakeSource w) s fun t =>
        (laneOf t i).dormReq = false ∧ SetLate CLK_STK_DORMABT (laneOf t i))) ∧
    (∀ (x : Fin 2) (inok outok : Bool) (mv : BitVec 16) (da : BitVec 8), l.powered = true →
      Answers (.supplyStatusChange x inok outok mv da) s fun t =>
        let m := laneOf t i
        let here := s.pres.getLsbD x && s.okc.getLsbD x
        let v := mv.toNat
        let ok := if (vget s.sup x).inok then inok || (decide (16500 ≤ v) && decide (v ≤ 34000))
          else inok && decide (18000 ≤ v) && decide (v ≤ 32000)
        let shown : Supply := if here = true then { inok := ok, outok := outok && decide (v ≤ 36000), vin := mv, iout := da }
          else { inok := false, outok := false, vin := 0#16, iout := 0#8 }
        let changed : Prop := (vget s.sup x).inok ≠ shown.inok ∨ (vget s.sup x).outok ≠ shown.outok
        vget t.sup x = shown ∧ (∀ y, y ≠ x → vget t.sup y = vget s.sup y) ∧
        (∀ y : Fin 2, fget m (CLK_PS_INOK y) = (vget t.sup y).inok.toNat ∧ fget m (CLK_PS_OUTOK y) = (vget t.sup y).outok.toNat ∧
          fget m (CLK_PS_VIN y) = (vget t.sup y).vin.toNat ∧ fget m (CLK_PS_IOUT y) = (vget t.sup y).iout.toNat) ∧
        -- a lane that sleeps wakes first
        let shows (f : Field) : Prop := (laneRuns l = true → SetLate f m) ∧ (laneRuns l = false → asleep l = false → fget m f = 1)
        (changed → shows CLK_STK_PSLOSS) ∧
        (changed → laneRuns l = true → asleep s.la = false → asleep s.lb = false → ∃ r ∈ m.vis, r.src = 0x7E) ∧
        ((∃ y, (vget s.sup y).inok = true) → (∀ y, (vget t.sup y).inok = false) → shows CLK_STK_PFAIL))

/-! ## Start-up, cartridges, runtime requests -/

/-- R34, R35, R90, R99, R327, R387, R408, R410, R411, R413, R427, R430: what the lanes and cartridges are after power comes, with sound
memory or not, after a boot image is admitted or refused, after the wait for a peer, after a cartridge comes or goes, and after the
logic rail collapses. Choices and readings of the model in it: log 5, 33, 64, 66, 81, 115, 116, 117, 137, 139, 142, 153. -/
def Obligations.LanesStartAndCartridges : Prop :=
  ∀ (i : LaneId) (s : State),
    let l := laneOf s i
    let o := otherLane i
    (∀ x : PowerIn, x.lane = i → l.powered = false → lanePresent s i = true →
      (l.shut = true → diodeCool s x = false → exec (.powerOn x) s = .next s) ∧
      (l.shut = false ∨ diodeCool s x = true → Answers (.powerOn x) s fun t =>
        let m := laneOf t i
        t.pending = s.pending ∧ s.now ≤ t.now ∧ m.powered = true ∧ m.banks = l.banks ∧ fget m CLK_DOM_RUN = 7 ∧
        fget m CLK_STK_KINDLE = 1 ∧ fget m CLK_STS_EMBXT = 1 ∧
        (x.memOk = true → m.peat = l.peat ∧
          (bricksFound m = true → (fget m CLK_STS_READY = 1 ↔ m.image.isSome = true)) ∧
          (bricksFound m = false → fget m CLK_STS_READY = 0 ∧ (m.bootLeft = some 10 ↔ m.image.isSome = true)) ∧
          (∀ im, m.image = some im → ∃ k, vget l.banks k = some im ∧ headBad s.fm.compat (some im) = none ∧ rget m CLK_BSEQ = im.seq ∧
            fget m CLK_BOOT_BANK = k.1) ∧
          ((∀ k, vget l.banks k = none) → m.image = none ∧ m.mem = [] ∧ fget m CLK_BOOT_FRSN = 1)) ∧
        (x.memOk = false → m.image = none ∧ roleOf m = roleFault ∧ fget m CLK_STS_READY = 0 ∧ fget m BST_STK_MFAIL = 1 ∧
          fget m CLK_BOOT_FRSN = ([0, 1].findSome? fun k : Fin 2 => headBad s.fm.compat (vget l.banks k)).getD 0))) ∧
    (l.powered = true → l.waitPeer = true → laneActive (laneOf s o) = false → s.la.out = [] → s.lb.out = [] →
      Answers (.peerWaitTimeout i) s fun t =>
        t.now = max s.now (l.waitAt + 1600000000) ∧ t.pending = s.pending ∧ roleOf (laneOf t i) = roleActive ∧ (laneOf t i).waitPeer = false ∧
        (roleOf l ≠ roleActive → fget (laneOf t i) XLN_STS_CLAIM = 1 ∧
          (coreRuns l = true → laneSends l = true → laneClaims (laneOf s o) = false → ∀ f, (vget t.fields f).sel = i))) ∧
    (∀ (k : Fin 2) (im : Image), l.powered = true → roleOf l ≠ roleStandby → bankChoice s.fm.compat l = some k →
      vget l.banks k = some im → im.icrc = crc32c (payload im) → sectionsOk im = true →
        let c := candidate l im
        let v := workVals c im { axes := 0, items := [], inj := 0 }
        (imageBad c im v = none → Answers (.imageAdmission i) s fun t =>
          let m := laneOf t i
          m.image = some im ∧ fget m ADM_STS_STATE = 2 ∧ fget m ADM_RES_REASON = 0 ∧ rget m CLK_BSEQ = im.seq ∧ fget m CLK_BOOT_BANK = k.1) ∧
        (∀ b, imageBad c im v = some b → Answers (.imageAdmission i) s fun t =>
          let m := laneOf t i
          m.image = l.image ∧ m.mem = l.mem ∧ m.cores = l.cores ∧ fget m ADM_STK_REFUSED = 1 ∧ fget m ADM_RES_REASON = b.reason % 256 ∧
          rget m ADM_RADR = wordOf b.adr ∧ rget m ADM_RVAL = wordOf b.val)) ∧
    Answers .logicRailCollapse s (fun t =>
      let m := laneOf t i
      t.now = s.now ∧ t.pending = s.pending ∧ t.fm = s.fm ∧ t.cord = s.cord ∧ m.powered = false ∧ m.mem = [] ∧ m.image = none ∧
      m.banks = l.banks ∧ m.peat = (peatDue l).peat ∧ (∀ k, (vget t.links k).dark = true ∧ (vget t.links k).send = false) ∧
      (∀ b j, (portOf t b j).lst = 0 ∧ (portOf t b j).bst = 0) ∧ ∀ f, (vget t.fields f).safe = true ∧ (vget t.fields f).out = 0#16) ∧
    (∀ (n : Fin 11) (ok : Bool), Answers (.cartridgeInserted n ok) s fun t =>
      let m := laneOf t i
      t.pres.getLsbD n = true ∧ t.okc.getLsbD n = ok ∧
      (∀ x : Fin 11, x ≠ n → t.pres.getLsbD x = s.pres.getLsbD x ∧ t.okc.getLsbD x = s.okc.getLsbD x) ∧
      (m.powered = true → fget m SYS_CART_PRES = t.pres.toNat ∧ fget m SYS_CART_OK = t.okc.toNat) ∧
      (laneRuns l = true → s.pres.getLsbD n = false → asleep s.la = false → asleep s.lb = false → ∃ r ∈ m.vis, r.src = 0x80 ∧
        r.ctx0 = wordOf (n.1 + 1 + 256))) ∧
    (∀ n : Fin 11, s.pres.getLsbD n = true → asleep s.la = false → asleep s.lb = false → Answers (.cartridgeRemoved n) s fun t =>
      let m := laneOf t i
      t.pres.getLsbD n = false ∧ t.okc.getLsbD n = false ∧
      (∀ x : Fin 11, x ≠ n → t.pres.getLsbD x = s.pres.getLsbD x ∧ t.okc.getLsbD x = s.okc.getLsbD x) ∧
      (m.powered = true → fget m SYS_CART_PRES = t.pres.toNat ∧ fget m SYS_CART_OK = t.okc.toNat) ∧
      (laneRuns l = true → n.1 ≠ laneSlot i → ∃ r ∈ m.vis, r.src = 0x80 ∧ r.ctx0 = wordOf (n.1 + 1)) ∧
      (n.1 = laneSlot i → m.powered = false ∧ m.mem = [] ∧ m.banks = l.banks ∧ m.peat = (peatDue l).peat) ∧
      (∀ k : LinkNo, n.1 = 4 + k.1 → (vget t.links k).dark = true) ∧
      (∀ f : FieldNo, n.1 = 8 + f.1 → (vget t.fields f).safe = true ∧ (vget t.fields f).out = 0#16) ∧
      (n.1 = 10 → t.cord.on = false ∧ t.cord.cnt = s.cord.cnt ∧ t.cord.par = s.cord.par) ∧
      (∀ x : Fin 2, n.1 = x.1 → (vget t.sup x).inok = false ∧ (vget t.sup x).outok = false))

/-- R101, R102, R103, R211, R352, R403, R405: a store that asks for work submits one runtime request, refused with 0x51 while another is
in progress; its completion repeats the checks for the new set of work, and the work joins or the result is shown; a STANDBY lane whose
verdict then differs from that of the ACTIVE lane goes to FAULT (R100). What takes work away is never refused, and the bounds are
computed anew. ADM_STK shows its bits at the next boundary (R31, R420). Choices and readings of the model in it: log 31, 32, 74, 76, 77,
132. -/
def Obligations.RuntimeRequests : Prop :=
  ∀ (s : State),
    let asks (r : Request) (l m : Lane) : Prop :=
      (l.request = none → m = { l with regs := m.regs, request := some (r, s.now), wasIdle := m.wasIdle } ∧ fget m ADM_STS_RQBUSY = 1 ∧
        ∀ a, a ≠ ADM_STS → rget m a = rget l a) ∧
      (l.request ≠ none → m.request = l.request ∧ fget m ADM_RES_REASON = 0x51 ∧ SetLate ADM_STK_RQREF m ∧ ∃ x ∈ m.vis, x.src = 0x87)
    (∀ a : Axis,
      Answers (.axisEnable a) s (fun t => Settled s t fun l m =>
        let up : Prop := fget l (AXS_EN_BST a) = 1 ∨ fget l (AXS_EN_BST a) = 2
        (¬ up → asks (.axis a) l m) ∧
        (up → m = { l with regs := m.regs, axes := m.axes } ∧ fget m (AXS_EN_EN a) = 1 ∧ (vget m.axes a).disReq = false ∧
          (∀ b, b ≠ a → vget m.axes b = vget l.axes b) ∧ ∀ r, r ≠ AXS_EN a → rget m r = rget l r)) ∧
      Answers (.axisDisable a) s (fun t => Lanewise s t fun l m =>
        let up : Prop := fget l (AXS_EN_BST a) = 1 ∨ fget l (AXS_EN_BST a) = 2
        m = { l with regs := m.regs, starts := m.starts, axes := m.axes, late := m.late } ∧ fget m (AXS_EN_EN a) = 0 ∧ a.1 ∉ m.starts ∧
        fget m (AXS_EN_BST a) = fget l (AXS_EN_BST a) ∧ (¬ up → m.axes = l.axes) ∧
        (up → (vget m.axes a).disReq = true ∧
          (fget l (AXS_EN_BST a) = 2 → fget l (AXS_STS_ESTATE a) ∈ [0, 1, 2, 5] → (vget l.axes a).ask = none →
            (vget m.axes a).ask = some 3)))) ∧
    (∀ p : Fin 4,
      Answers (.injectionStart p) s (fun t => Settled s t fun l m =>
        let on : Prop := (fget l (LPE_ISTS_RUN p) = 1 ∧ (vget l.inj p).stop = false) ∨ (vget l.inj p).pend = true
        (on → m = l) ∧ (¬ on → asks (.inject p) l m)) ∧
      Answers (.injectionStop p) s (fun t => Lanewise s t fun l m =>
        m = { l with regs := m.regs, inj := m.inj } ∧ fget m (LPE_ICFG_START p) = 0 ∧ (∀ a, a ≠ LPE_ICFG p → rget m a = rget l a) ∧
        (vget m.inj p).pend = false ∧ (fget l (LPE_ISTS_RUN p) = 1 → (vget m.inj p).stop = true) ∧
        ∀ q, q ≠ p → vget m.inj q = vget l.inj q)) ∧
    (∀ (p : CanPort) (k : Fin 8),
      Answers (.deadlineMessageEnable p k) s (fun t => Settled s t fun l m =>
        let done : Prop := isFollower l p = true ∨ (fget l (CAN_DEN_EN p)).testBit k = true
        (done → m = l) ∧ (¬ done → asks (.deadline p (2 ^ k.1)) l m)) ∧
      Answers (.deadlineMessageDisable p k) s (fun t => Settled s t fun l m =>
        (isFollower l p = true → m = l) ∧
        (isFollower l p = false → ∀ j : Fin 8,
          (fget m (CAN_DEN_EN p)).testBit j = (decide (j ≠ k) && (fget l (CAN_DEN_EN p)).testBit j)) ∧
        m.request = l.request)) ∧
    (∀ item : Byte,
      Answers (.itemActivation item) s (fun t => Settled s t (asks (.item item))) ∧
      Answers (.itemDeactivation item) s (fun t => Lanewise s t fun l m =>
        m = { l with items := m.items } ∧ ∀ x, x ∈ m.items ↔ x ∈ l.items ∧ x ≠ item.toNat)) ∧
    Answers .runtimeRequestComplete s (fun t => (∀ i, let o := otherLane i
      laneRuns (laneOf s i) = true → roleOf (laneOf s i) = roleStandby → laneActive (laneOf s o) = true →
        verdictDiffers (laneOf t i) (laneOf t o) = true → roleOf (laneOf t i) = roleFault) ∧
     Settled s t fun l m =>
      (l.request = none → roleOf l ≠ roleStandby → RegsOnly l m [CLK_STS]) ∧
      (∀ r t0, l.request = some (r, t0) →
        let l0 := fsetB { l with request := none } ADM_STS_RQBUSY false
        let util := match r with | .inject _ => false | _ => true
        let verdict := orBad (reqBad l0 r) fun _ => workBad (workVals l (runImage l) (reqWork l r)) false util
        m.request = none ∧ fget m ADM_STS_RQBUSY = 0 ∧ (∃ x ∈ m.vis, x.src = 0x87) ∧
        (verdict = none → SetLate ADM_STK_RQOK m ∧ fget m ADM_RES_REASON = 0 ∧
          (∀ a, r = .axis a → fget m (AXS_EN_EN a) = 1 ∧ fget m (AXS_EN_BST a) = 1 ∧
            (sharedCarrier l0 a = none → (vget m.axes a).startS = some (ceilTo 128 (t0 + 800000 + cdiv (tpOf l a) 2)))) ∧
          (∀ p, r = .inject p → fget m (LPE_ICFG_START p) = 1 ∧ (vget m.inj p).pend = true) ∧
          (∀ x, r = .item x → x.toNat ∈ m.items)) ∧
        (∀ b, verdict = some b → SetLate ADM_STK_RQREF m ∧ fget m ADM_RES_REASON = b.reason % 256 ∧ m.items = l.items ∧ m.inj = l.inj ∧
          (∀ a : Axis, rget m (AXS_EN a) = rget l (AXS_EN a)) ∧ ∀ p : CanPort, rget m (CAN_DEN p) = rget l (CAN_DEN p)))) ∧
    Answers .workRemovalRecompute s (fun t => Lanewise s t fun l m =>
      let v := workVals l (runImage l) (workOf l)
      m = { l with regs := m.regs, wasIdle := m.wasIdle } ∧ rget m ADM_EWAIT = wordOf v.er ∧ rget m ADM_CHAIN = wordOf v.chain ∧
      rget m ADM_CHLIM = wordOf v.limit ∧ (∀ n < 64, rget m (ADM_TWCT n) = wordOf (wcetOf v.wcet n)) ∧
      ∀ a, a ∉ [ADM_EWAIT, ADM_CHAIN, ADM_CHLIM, ADM_TAGSUM] → (∀ c < 4, a ≠ ADM_UTIL c) →
        (∀ n < 64, a ≠ ADM_TWCT n ∧ a ≠ ADM_TRSP n) → rget m a = rget l a)

/-! ## Axes -/

/-- R125, R131, R173, R175, R227, R249, R250, R256: a MODE command is taken where the table and the ranks allow it, is recorded as
superseded where the state in force ranks as high, and is ignored with CMDIGN elsewhere; naming the state in force changes nothing. CRET
returns the LOST coppices whose cause has cleared. RESUME leaves CAUGHT, REACQ leaves FAILED. An undeclared table and a reserved DMOD
are refused. SUPERS shows at the next boundary (R31, R420); that a banked axis ignores every MODE is the model's reading. Choices and
readings of the model in it: log 40, 76, 77, 101, 131. -/
def Obligations.AxisCommands : Prop :=
  ∀ (s : State) (a : Axis),
    -- the command, its code, its state, the states it is taken from, and the states that supersede it
    (∀ f ∈ [(Instr.modeRun a, 0, 0, [1, 5], ([] : List Nat)), (.modeProfile a, 1, 1, [0, 5], []),
        (.modeStop2 a, 2, 2, [0, 1, 5], [3, 4, 6, 7, 8, 9]), (.modeStop1 a, 3, 3, [0, 1, 2, 5], [4, 6, 7, 8, 9]),
        (.modeHold a, 4, 5, [0, 1], [2, 3, 4, 6, 7, 8, 9]), (.modeImstop a, 5, 8, [0, 1, 2, 3, 4, 5, 6, 7], [9])],
      Answers f.1 s fun t => Settled s t fun l m =>
        let e := fget l (AXS_STS_ESTATE a)
        let runs : Prop := fget l (AXS_EN_BST a) ≠ 0 ∧ (f.2.1 = 0 → fget l (AXS_EN_BST a) ≠ 3)
        let back : Prop := f.2.1 = 0 ∧ ((e = 6 ∧ causeCleared l a = true) ∨ (e = 7 ∧ fget l (AXS_STS_QRIN a) = 0) ∨
          (e = 8 ∧ causeCleared l a = true ∧ zeroSpeed l a = true) ∨ (e = 9 ∧ permitsOn l a = true ∧ l.safe = false))
        let taken : Prop := e ∈ f.2.2.2.1 ∨ back
        m = { l with regs := m.regs, cyc := m.cyc, axes := m.axes, late := m.late } ∧ fget m (AXS_CMD_MODE a) = f.2.1 ∧
        (∀ r, r ∉ [AXS_CMD a, AXS_STK a, FLT_STK] → rget m r = rget l r) ∧
        (∀ b, b ≠ a → vget m.axes b = vget l.axes b) ∧
        (e = f.2.2.1 → m.axes = l.axes ∧ rget m (AXS_STK a) = rget l (AXS_STK a)) ∧
        (e ≠ f.2.2.1 → ¬ runs → m.axes = l.axes ∧ fget m (AXS_STK_CMDIGN a) = 1) ∧
        (e ≠ f.2.2.1 → runs → taken → (vget l.axes a).ask = none → vget m.axes a = { vget l.axes a with ask := some f.2.2.1 }) ∧
        (e ≠ f.2.2.1 → runs → e ∈ f.2.2.2.2 → m.axes = l.axes ∧ SetLate (AXS_STK_SUPERS a) m) ∧
        (e ≠ f.2.2.1 → runs → ¬ taken → f.2.2.2.2 = [] → m.axes = l.axes ∧ fget m (AXS_STK_CMDIGN a) = 1)) ∧
    Answers (.cret a) s (fun t => Settled s t fun l m =>
      let lost (c : Fin 32) : Prop := fget l (LEG_CPC_VALID c) = 1 ∧ fget l (LEG_CPC_AXIS c) = a.1 ∧ fget l (LEG_CSTS_STATE c) = 2
      m = { l with regs := m.regs, cyc := m.cyc, cops := m.cops } ∧ (∀ r, r ∉ [AXS_STK a, FLT_STK] → rget m r = rget l r) ∧
      (∀ c, lost c → copCleared l c = true → vget m.cops c = { vget l.cops c with back := true }) ∧
      (∀ c, ¬ lost c ∨ copCleared l c = false → vget m.cops c = vget l.cops c) ∧
      ((∃ c, lost c ∧ copCleared l c = false) → fget m (AXS_STK_CRETPART a) = 1)) ∧
    Answers (.resume a) s (fun t => Lanewise s t fun l m =>
      (obsMode l a = moCaught → m = modObs l a fun o => { o with runDue := true, aftLoss := false }) ∧ (obsMode l a ≠ moCaught → m = l)) ∧
    Answers (.reacq a) s (fun t => Lanewise s t fun l m =>
      (obsMode l a = moFailed → m = modObs l a fun o =>
        { o with nmode := some moAcquire, acq := 1, acqT := s.now, acqN := 0, acqV := [], tries := 0 }) ∧
      (obsMode l a ≠ moFailed → m = l)) ∧
    (∀ n : BitVec 3, Answers (.tab a n) s fun t => Lanewise s t fun l m =>
      (bit l.decl.tabs n.toNat = true → RegsOnly l m [AXS_MOD a] ∧ fget m (AXS_MOD_TAB a) = n.toNat ∧
        fget m (AXS_MOD_OVM a) = fget l (AXS_MOD_OVM a) ∧ fget m (AXS_MOD_DMOD a) = fget l (AXS_MOD_DMOD a)) ∧
      (bit l.decl.tabs n.toNat = false → RegsOnly l m [LEG_STK, FLT_STK] ∧ fget m LEG_STK_TABREF = 1)) ∧
    (∀ ovm dmod : BitVec 2, Answers (.ovmDmod a ovm dmod) s fun t => Lanewise s t fun l m =>
      (dmod ≠ 3#2 → RegsOnly l m [AXS_MOD a] ∧ fget m (AXS_MOD_OVM a) = ovm.toNat ∧ fget m (AXS_MOD_DMOD a) = dmod.toNat ∧
        fget m (AXS_MOD_TAB a) = fget l (AXS_MOD_TAB a)) ∧
      (dmod = 3#2 → RegsOnly l m [SYS_STK, FLT_STK] ∧ fget m SYS_STK_RSVWR = 1))

/-- R170, R172, R237, R245, R252, R254: when a timer of an axis ends, zero speed is declared, the brake has engaged and the torque is
released, pulses end, a ride-through has lasted too long, the hold window has passed with or without a re-lock, the decay wait of
acquisition is over; a timer that does not run changes nothing. A heave reference that is stale is zeroed once, and a spent flux-braking
budget ends it. What these set of the sticky registers shows at the next boundary (R31, R420). Choices and readings of the model in it:
log 46, 76, 95, 101. -/
def Obligations.AxisTimers : Prop :=
  ∀ (s : State) (a : Axis),
    Answers (.zeroSpeedDeclared a) s (fun t => Settled (tickBy (zeroDue a) s) t fun l m =>
      let ends : Prop := fget l (AXS_STS_ZERO a) = 0 ∧
        ∃ b, (vget l.axes a).zeroT = some b ∧ b + 3200000 * fget l (AXS_SRG2_TZS a) ≤ t.now
      (ends → RegsOnly l m [AXS_STS a] ∧ fget m (AXS_STS_ZERO a) = 1 ∧ fget m (AXS_STS_ESTATE a) = fget l (AXS_STS_ESTATE a)) ∧
      (¬ ends → m = l)) ∧
    Answers (.brakeEngageEnd a) s (fun t => Settled (tickBy (brakeDue a) s) t fun l m =>
      let x := vget l.axes a
      let ends : Prop := x.relTq = none ∧ ∃ b, x.brkT = some b ∧ b + 3200000 * fget l (AXS_BRK_TBRK a) ≤ t.now
      (ends → m = { l with axes := vset l.axes a { x with relTq := some x.treq } }) ∧ (¬ ends → m = l)) ∧
    Answers (.torqueReleaseEnd a) s (fun t => Settled (tickBy (releaseDue a) s) t fun l m =>
      let x := vget l.axes a
      let ends : Prop := x.relTq ≠ none ∧
        ∃ b, x.brkT = some b ∧ b + 3200000 * (fget l (AXS_BRK_TBRK a) + fget l (AXS_BRK_TREL a)) ≤ t.now
      (ends → m = { l with axes := vset l.axes a { x with brkT := none } }) ∧ (¬ ends → m = l)) ∧
    Answers (.rideThroughTimeout a) s (fun t => Settled (tickBy (rideDue a) s) t fun l m =>
      let x := vget l.axes a
      let ends : Prop := fget l (AXS_STS_RIDE a) = 1 ∧ ∃ b, x.rideT = some b ∧ b + 3200000 * fget l (AXS_RT_TRT a) ≤ t.now
      (ends → (vget m.axes a).rideT = none ∧ SetLate (AXS_STK_RTTO a) m ∧ ∃ r ∈ m.vis, r.src = 0x2F ∧ r.ctx0 = wordOf a.1) ∧
      (¬ ends → m = l)) ∧
    Answers (.holdWindowExpiry a) s (fun t => Settled
        (tickBy (fun l => (obsOf l a).hold.map fun h => latchFrom l a (h.1 + 3200 * fget l (OBS_HOLD_HOLD a))) s) t fun l m =>
      let o := obsOf l a
      let p := obsOf m a
      let tp := tpOf l a
      let relock : Prop := 0 < o.nRel ∧ fget l (OBS_HOLD_NRELOCK a) ≤ o.nRel
      (∀ b f, o.hold = some (b, f) →
        -- the set-point latch at which the window has passed: half a period after a period's start (R23), the first one at or after it
        ∃ due, latchFrom l a (b + 3200 * fget l (OBS_HOLD_HOLD a)) = due ∧ (∃ n, due = (vget l.axes a).t0 + tp / 2 + n * tp) ∧
        (0 < tp → b + 3200 * fget l (OBS_HOLD_HOLD a) ≤ due ∧
          ∀ n, b + 3200 * fget l (OBS_HOLD_HOLD a) ≤ (vget l.axes a).t0 + tp / 2 + n * tp → due ≤ (vget l.axes a).t0 + tp / 2 + n * tp) ∧
        (due ≤ t.now →
          m = { l with late := m.late, axes := m.axes } ∧ (∀ x, x ≠ a → vget m.axes x = vget l.axes x) ∧ p.hold = none ∧
          (relock → SetLate OBS_STK_RELOCK m ∧ p = { o with hold := none, nmode := some (lamMode o.lam), ramp := some (vget l.axes a).tstar, nRel := 0 }) ∧
          (¬ relock → p.pulses = false ∧ p.injOn = false) ∧
          (¬ relock → wasc l a < rabs f.w → SetLate OBS_STK_ASC m ∧ p.asc = true ∧ p.wasc = wasc l a ∧ p.nmode = some moAsc) ∧
          (¬ relock → ¬ wasc l a < rabs f.w →
            SetLate OBS_STK_PULSEOFF m ∧ p.acq = 1 ∧ p.acqT = t.now ∧ p.nmode = some moAcquire ∧ p.aftLoss = true)) ∧
        (t.now < due → m = l)) ∧
      (o.hold = none → m = l)) ∧
    Answers (.decayTimeout a) s (fun t => Settled
        (tickBy (fun l => if (obsOf l a).mode = moAcquire ∧ (obsOf l a).acq ≤ 1 then
          some ((obsOf l a).acqT + msTicks (fget l (OBS_FR_TDEC a))) else none) s) t fun l m =>
      let o := obsOf l a
      let ends : Prop := o.mode = moAcquire ∧ o.acq ≤ 1 ∧ o.acqT + 3200000 * fget l (OBS_FR_TDEC a) ≤ t.now
      (ends → m = modObs l a fun o => { o with acq := 2, acqN := 0, acqV := [] }) ∧ (¬ ends → m = l)) ∧
    Answers (.heaveStale a) s (fun t => Settled s t fun l m =>
      let x := vget l.axes a
      let stale : Prop := fget l (SHR_HVC_HEN a) = 1 ∧ (∃ j, (vget x.hv j).isSome = true) ∧ x.hvOld = false
      (stale → (vget m.axes a).hvOld = true ∧ mget32 m (fget l (SHR_HVA_HADR a) + 4) = 0xE0#32 ∧ SetLate (AXS_STK_HVSTALE a) m ∧
        ∃ r ∈ m.vis, r.src = 0x2E ∧ r.ctx0 = wordOf a.1) ∧
      (¬ stale → m = l)) ∧
    Answers (.fluxBrakingBudget a) s (fun t => Lanewise s t fun l m =>
      ((vget l.axes a).fbOn = true → m = { l with regs := m.regs, cyc := m.cyc, axes := m.axes, late := m.late } ∧ (vget m.axes a).fbOn = false ∧ (vget m.axes a).fbFull = true ∧
        (vget m.axes a).pfb = 0 ∧ (vget m.axes a).fbAcc = (fget l (AXS_FB_FBLIM a) : Rat) ∧ fget m (AXS_STS_FLUXB a) = 0 ∧
        SetLate SHR_STK_FBLIM m ∧ ∀ b, b ≠ a → vget m.axes b = vget l.axes b) ∧
      ((vget l.axes a).fbOn = false → m = l))

/-! ## Loop engine and choppers -/

/-- R72, R198, R203, R213, R216, R241: a slot's MODE and CLR; an operation that completes leaves its queue and hands its result to its
tag, or frees the tag of a job that has ended; capture is armed where its records fit, and given up when EN is cleared; CHCLR clears
chopper faults. Choices and readings of the model in it: log 31, 46, 73, 97. -/
def Obligations.EngineCommands : Prop :=
  ∀ (s : State),
    (∀ k : Slot,
      (∀ f ∈ [(Instr.modeToAuto k, 0), (.modeToManual k, 1)], Answers f.1 s fun t => Lanewise s t fun l m =>
        m = { l with regs := m.regs, slots := m.slots } ∧ (∀ r, r ≠ LPE_MODE k → rget m r = rget l r) ∧ fget m (LPE_MODE_MODE k) = f.2 ∧
        vget m.slots k = { vget l.slots k with
          toAuto := (vget l.slots k).toAuto || (decide (f.2 = 0) && decide (fget l (LPE_MODE_MODE k) = 1)) } ∧
        ∀ j, j ≠ k → vget m.slots j = vget l.slots j) ∧
      Answers (.clr k) s (fun t => Lanewise s t fun l m =>
        m = { l with regs := m.regs, slots := m.slots } ∧ (∀ r, rget m r = rget l r) ∧
        (stageFirst l k = k → vget m.slots k = { vget l.slots k with clr := true }) ∧
        (stageFirst l k ≠ k → vget m.slots k = vget l.slots k) ∧ ∀ j, j ≠ k → vget m.slots j = vget l.slots j)) ∧
    (∀ (i : LaneId) (up : Ecc) (o : EngOp) (rest : List EngOp) (c : Fin 4) (k : Fin 16) (kind : OpKind) (n : Slot) (arg : Word) (orphan : Bool),
      laneRuns (laneOf s i) = true → (laneOf s i).engq = o :: rest → vget (laneOf s i).tags o.tag = .busy c k kind n arg orphan →
      (∀ x y rd g, (taskOf (laneOf s i) x y).run ≠ .waitTag rd g) →
        Answers (.engineOperationComplete i up) s fun t =>
          let l := laneOf s i
          let m := laneOf t i
          t.now = s.now ∧ t.pending = s.pending ∧ m.engq = rest ∧ (∀ j, j ≠ o.tag → vget m.tags j = vget l.tags j) ∧
          (orphan = true → vget m.tags o.tag = .free) ∧ (orphan = false → ∃ w, vget m.tags o.tag = .done c k w ∧
            ((kind = .run ∨ kind = .runc) → w = (vget m.slots (stageLast m n)).y)) ∧
          Quiet (laneOf s (otherLane i)) (laneOf t (otherLane i))) ∧
    Answers .arm s (fun t => Lanewise s t fun l m =>
      let fits : Prop := fget l LPE_CPRE_N + fget l LPE_CPOST_N + 1 ≤ capCapacity l
      fget m LPE_CCTL_EN = 1 ∧ m.tags = l.tags ∧ m.cores = l.cores ∧
      (fits → fget m LPE_CSTS_STATE = 1 ∧ fget m LPE_CSTS_WRAP = 0 ∧ m.cap.n = 0 ∧ fget m LPE_STS_CAPON = 1) ∧
      (¬ fits → RegsOnly { l with wasIdle := m.wasIdle } m [LPE_CCTL, LPE_STK, FLT_STK] ∧ fget m LPE_STK_CAPSZ = 1)) ∧
    Answers .captureAbort s (fun t => Lanewise s t fun l m =>
      RegsOnly l m [LPE_CCTL, LPE_CSTS, LPE_STS] ∧ fget m LPE_CCTL_EN = 0 ∧
      (fget l LPE_CSTS_STATE = 3 → rget m LPE_CSTS = rget l LPE_CSTS) ∧
      (fget l LPE_CSTS_STATE ≠ 3 → fget m LPE_CSTS_STATE = 0 ∧ fget m LPE_STS_CAPON = 0)) ∧
    (∀ mask : Byte, Answers (.chclr mask) s fun t => Lanewise s t fun l m =>
      m = { l with legs := m.legs } ∧
      ∀ n, let hit : Prop := ∃ b : Fin 8, mask.getLsbD b = true ∧ n ∈ chopLegs l b
        (hit → vget m.legs n = { vget l.legs n with chFlt := false, chN := 0 }) ∧ (¬ hit → vget m.legs n = vget l.legs n))

/-! ## Lane duplex and self-test -/

/-- R31, R420, R12, R14, R18, R426, R430 to R434, R435: a planned hand-over waits, is requested once no unit is flagged, acknowledged
for the first 40 ns grid point after 10 µs, and takes place there: roles, claims and selectors change and the flags clear; the third
self-check yield within 24 h leaves its lane in FAULT (R435), an extraction lever leaves it in OUT. Causes 1 to 4 are given up after 100
ms, with HOREF. A lane in STANDBY takes over from one that has failed. The bits of XLN_STK show at the next boundary (R31, R420). The
lanes show of XLN and of each other what they see. Choices and readings of the model in it: log 27, 68, 76, 80, 116, 143. -/
def Obligations.HandoverBetweenLanes : Prop :=
  ∀ (i : LaneId) (s : State),
    let o := otherLane i
    let sees (t : State) : Prop := (laneOf t i).powered = true →
      (fget (laneOf t i) XLN_STS_CH0UP = 1 ↔ xlnOn t = true ∧ vget t.xlnUp 0 = true) ∧
      (fget (laneOf t i) XLN_STS_CH1UP = 1 ↔ xlnOn t = true ∧ vget t.xlnUp 1 = true) ∧
      -- lanes exchange receipt masks where one of the two follows the other: a peer in STANDBY or CATCH-UP, or the ACTIVE peer of such a lane
      (fget (laneOf t i) SYS_STS_SOLO = 0 ↔ xlnOn t = true ∧ laneJoined (laneOf t o) = true ∧
        let follows (j : LaneId) : Prop := roleOf (laneOf t j) = roleStandby ∨ roleOf (laneOf t j) = roleCatchUp
        follows o ∨ (follows i ∧ roleOf (laneOf t o) = roleActive))
    (∀ ch : Fin 2,
      (vget s.xlnUp ch = true → Answers (.xlnChannelDown ch) s fun t => vget t.xlnUp ch = false ∧
        (∀ d, d ≠ ch → vget t.xlnUp d = vget s.xlnUp d) ∧ sees t ∧
        (laneRuns (laneOf s i) = true → SetLate XLN_STK_CHDN (laneOf t i) ∧ ∃ r ∈ (laneOf t i).vis, r.src = 0x79 ∧ r.ctx0 = wordOf ch.1) ∧
        (laneRuns (laneOf s i) = false → (laneOf s i).powered = true → fget (laneOf t i) XLN_STK_CHDN = 1)) ∧
      Answers (.xlnChannelUp ch) s (fun t => vget t.xlnUp ch = true ∧ (∀ d, d ≠ ch → vget t.xlnUp d = vget s.xlnUp d) ∧ sees t)) ∧
    (s.la.out = [] → s.lb.out = [] →
      (activeLane s = some i → s.ho = .none →
        Answers .swap s (fun t => t.ho = .waiting 3 s.now ∧ fget (laneOf t i) XLN_STS_HOBUSY = 1) ∧
        Answers (.extractionLever i) s (fun t => t.ho = .waiting 2 s.now ∧ t.hoOut = true ∧ fget (laneOf t i) XLN_STS_HOBUSY = 1) ∧
        (∀ ms, 50 ≤ ms → peerStandby s i = true → Answers (.yieldButton i ms) s fun t =>
          t.ho = .waiting 1 s.now ∧ (laneRuns (laneOf s i) = true → ∃ r ∈ (laneOf t i).vis, r.src = 0x84))) ∧
      (∀ c since, activeLane s = some i → s.ho = .waiting c since → Answers (.extractionLever i) s fun t => t.ho = s.ho ∧ t.hoOut = true) ∧
      ((laneOf s i).powered = true → roleOf (laneOf s i) = roleStandby ∨ roleOf (laneOf s i) = roleCatchUp →
        Answers (.extractionLever i) s fun t => roleOf (laneOf t i) = roleOut ∧ t.ho = s.ho) ∧
      (∀ c since, s.ho = .waiting c since → c ≤ 4 → activeLane s = some i → Answers .handoverWaitTimeout s fun t =>
        t.now = max s.now (since + 320000000) ∧ t.ho = .none ∧ t.hoOut = false ∧ fget (laneOf t i) XLN_STS_HOBUSY = 0 ∧
        roleOf (laneOf t i) = roleActive ∧ t.bist = s.bist.filter (fun b => decide (b.stage ≠ 1)) ∧
        (laneRuns (laneOf s i) = true → SetLate XLN_STK_HOREF (laneOf t i)) ∧
        ((∃ b ∈ s.bist, b.stage = 1 ∧ b.roll = 0) → laneRuns (laneOf s i) = true → fget (laneOf t i) BST_STK_REFUSED = 1)) ∧
      (∀ c tsw, s.ho = .acked c tsw → activeLane s = some i → (∀ b ∈ s.bist, b.stage ≠ 1) → (laneOf s o).powered = true →
        roleOf (laneOf s o) = roleStandby → Answers .claimExchange s fun t =>
          let m := laneOf t i
          let n := laneOf t o
          -- the hand-overs under cause 6 in the 24 h before this one
          let u := laneOf (tickTo tsw s) i
          let yields := (u.yields.filter fun y => decide (shipNs u < y + 86400000000000)).length
          t.now = max s.now tsw ∧ t.pending = s.pending ∧ roleOf n = roleActive ∧ t.bist = s.bist ∧
          (c = 2 ∨ s.hoOut = true → roleOf m = roleOut) ∧ (c = 6 → s.hoOut = false → 2 ≤ yields → roleOf m = roleFault) ∧
          (c ≠ 2 → s.hoOut = false → c ≠ 6 ∨ yields < 2 → roleOf m = roleStandby) ∧
          (∀ j, laneRuns (laneOf s j) = true → SetLate XLN_STK_HOVER (laneOf t j)) ∧
          fget m XLN_STS_CLAIM = 0 ∧ fget n XLN_STS_CLAIM = 1 ∧ rget n XLN_FLAG = 0#32 ∧
          (∀ j, Counted XLN_CNT_HO (laneOf s j) (laneOf t j) ∧ fget (laneOf t j) XLN_HOLAST_CAUSE = c ∧
            (laneOf t j).mem = (laneOf s j).mem ∧ ∃ r ∈ (laneOf t j).vis, r.src = 0x85 ∧ r.ctx0 = wordOf c) ∧
          ((∀ j, fget (laneOf s j) (FLT_SEV_SEV 0x85) < 5) → t.ho = .none) ∧
          (laneSends n = true → ∀ f, (vget t.fields f).sel = o)) ∧
      (laneRuns (laneOf s o) = true → ¬ (laneRuns (laneOf s i) = true ∧ roleOf (laneOf s i) = roleStandby) →
        (roleOf (laneOf s o) = roleStandby → Answers .activeLaneFailed s fun t =>
          let n := laneOf t o
          t.now = s.now ∧ roleOf n = roleActive ∧ fget n XLN_STS_CLAIM = 1 ∧ rget n XLN_FLAG = 0#32 ∧ n.mem = (laneOf s o).mem ∧
          Counted XLN_CNT_HO (laneOf s o) n ∧ ∃ r ∈ n.vis, r.src = 0x7A) ∧
        (roleOf (laneOf s o) = roleCatchUp → ¬ (laneRuns (laneOf s i) = true ∧ roleOf (laneOf s i) = roleCatchUp) →
          catchReady (laneOf s o) = false → Answers .activeLaneFailed s fun t => roleOf (laneOf t o) = roleOut))) ∧
    (∀ c since, s.ho = .waiting c since → activeLane s = some i → peerStandby s i = true →
      (c ≤ 4 → ∀ j, laneJoined (laneOf s j) = true → rget (laneOf s j) XLN_FLAG = 0#32) →
        Answers .hreq s fun t => t = { s with ho := .hreq c s.now }) ∧
    (∀ c at_, s.ho = .hreq c at_ → activeLane s = some i → peerStandby s i = true →
      Answers .hack s fun t => ∃ tsw, t = { s with ho := .acked c tsw } ∧ tsw % 128 = 0 ∧ at_ + 32000 ≤ tsw ∧ tsw < at_ + 32128)

/-- R426, R442 to R444, R447: what starts a self-test, what refuses or defers it, and how it ends: the lane under test is in OUT;
signatures that differ from the golden ones put it into FAULT, a test that passes starts it anew and leaves its restart on until the
lane is READY. A rolling run that waits tries again, and RLATE shows one deferred by 24 h at the next boundary (R31, R420). Choices and
readings of the model in it: log 27, 69, 76, 118, 139, 141, 142, 144. -/
def Obligations.LaneSelfTest : Prop :=
  ∀ (i : LaneId) (s : State),
    let o := otherLane i
    let code : Nat := match o with | .A => 0 | .B => 1
    let runs (lane : LaneId) (run roll at_ : Nat) : BistRt := { lane := lane, run := run, stage := 2, roll := roll, at_ := at_, due := 0, own := false }
    let waits (at_ : Nat) (due : Int) (own : Bool) : BistRt := { lane := o, run := 3, stage := 0, roll := 1, at_ := at_, due := due, own := own }
    let refused (t : State) : Prop := t.bist = s.bist ∧ t.ho = s.ho ∧ fget (laneOf t i) BST_STK_REFUSED = 1
    s.la.out = [] → s.lb.out = [] →
      (activeLane s = some i →
        (∀ f ∈ [((fun x => .bistLogic x : Bool → Instr), 1), (fun x => .bistMemory x, 2), (fun x => .bistBoth x, 3)],
          (peerStandby s i = true → Answers (f.1 false) s fun t =>
            t.bist = (s.bist.filter fun b => decide (b.lane ≠ o) || decide (b.stage < 2)) ++ [runs o f.2 0 s.now] ∧ roleOf (laneOf t o) = roleOut ∧
            (s.bist = [] → fget (laneOf t i) BST_STS_STATE = (if f.2 = 2 then 2 else 1) ∧ fget (laneOf t i) BST_STS_LANE = code)) ∧
          (peerStandby s i = false → laneRuns (laneOf s i) = true → Answers (f.1 false) s refused) ∧
          (peerStandby s i = true → s.bist = [] → s.ho = .none → Answers (f.1 true) s fun t =>
            t.bist = [{ runs i f.2 0 s.now with stage := 1 }] ∧ t.ho = .waiting 3 s.now) ∧
          (peerStandby s i = false → s.bist = [] → s.key = true → (∀ a : Axis, fget (laneOf s i) (AXS_EN_BST a) = 0) →
            Answers (f.1 true) s fun t => t.bist = [runs i f.2 0 s.now] ∧ roleOf (laneOf t i) = roleOut) ∧
          (peerStandby s i = false → laneRuns (laneOf s i) = true →
            s.key = false ∨ (∃ a : Axis, fget (laneOf s i) (AXS_EN_BST a) ≠ 0) → Answers (f.1 true) s refused)) ∧
        (s.bist = [] → rollDeferred s i = true →
          Answers .rnow s (fun t => t.bist = [waits s.now (shipNs (laneOf s i)) true] ∧ t.fm.rnext = s.fm.rnext ∧
            ∀ j, roleOf (laneOf t j) = roleOf (laneOf s j)) ∧
          (s.fm.rper ≠ 0 → Answers .rollingSelftestDue s fun t =>
            t.now = max s.now (shipReach (laneOf s i) s.now s.fm.rnext) ∧ t.bist = [waits t.now s.fm.rnext false] ∧ t.fm.rnext = s.fm.rnext ∧
            (s.fm.rnext + 86400000000000 ≤ shipNs (laneOf (tickTo t.now s) i) → laneRuns (laneOf s i) = true → SetLate BST_STK_RLATE (laneOf t i)) ∧
            ∀ j, roleOf (laneOf t j) = roleOf (laneOf s j))) ∧
        (s.bist = [] → rollDeferred s i = false →
          Answers .rnow s (fun t => t.bist = [runs o 3 1 s.now] ∧ roleOf (laneOf t o) = roleOut ∧ t.fm.rnext = s.fm.rnext) ∧
          (s.fm.rper ≠ 0 → Answers .rollingSelftestDue s fun t =>
            t.now = max s.now (shipReach (laneOf s i) s.now s.fm.rnext) ∧ t.bist = [runs o 3 1 t.now] ∧ roleOf (laneOf t o) = roleOut ∧
            t.fm.rnext = s.fm.rnext + 3600000000000 * s.fm.rper ∧
            rget (laneOf t i) BST_RNEXT = wordOf (t.fm.rnext % 2 ^ 32) ∧ rget (laneOf t i) BST_RNEXTH = wordOf (t.fm.rnext / 2 ^ 32))) ∧
        ∀ (at_ : Nat) (due : Int) (own : Bool), s.bist = [waits at_ due own] →
          Answers .rnow s (fun t => t.bist = s.bist ∧ t.fm.rnext = s.fm.rnext) ∧
          (rollDeferred s i = true → Answers .rollingSelftestDue s fun t => t.now = s.now ∧ t.bist = s.bist ∧ t.fm.rnext = s.fm.rnext ∧
            (due + 86400000000000 ≤ shipNs (laneOf s i) → laneRuns (laneOf s i) = true → SetLate BST_STK_RLATE (laneOf t i))) ∧
          (rollDeferred s i = false → Answers .rollingSelftestDue s fun t => t.now = s.now ∧ t.bist = [runs o 3 1 s.now] ∧
            roleOf (laneOf t o) = roleOut ∧ t.fm.rnext = (if own = true then s.fm.rnext else s.fm.rnext + 3600000000000 * s.fm.rper))) ∧
      (∀ (b : BistRt) (lsig msig : Word), s.bist = [b] → b.stage = 2 → b.lane = o → (laneOf s o).powered = true →
        let l := laneOf s o
        let bad : Prop := (b.run.testBit 0 = true ∧ lsig ≠ rget l BST_GOLD) ∨ (b.run.testBit 1 = true ∧ msig ≠ rget l BST_GOLD2)
        Answers (.bistComplete o lsig msig) s fun t =>
          let m := laneOf t o
          (b.run.testBit 0 = true → rget m (BST_LSIG code) = lsig) ∧ (b.run.testBit 1 = true → rget m (BST_MSIG code) = msig) ∧
          (bad → t.bist = [] ∧ roleOf m = roleFault ∧ m.mem = []) ∧
          (¬ bad → m.powered = true ∧ m.banks = l.banks ∧
            (m.image = none → t.bist = [] ∧ fget m CLK_STS_READY = 0) ∧
            (m.image.isSome = true → bricksFound m = true → fget m CLK_STS_READY = 1 ∧
              (b.roll = 0 → t.bist = []) ∧ (b.roll ≠ 0 → roleOf m ≠ roleActive → t.bist = [{ b with stage := 3 }])) ∧
            (m.image.isSome = true → bricksFound m = false → fget m CLK_STS_READY = 0 ∧ m.bootLeft = some 10 ∧ t.bist = [{ b with stage := 3 }])) ∧
          (laneActive (laneOf s i) = true → ∃ r ∈ (laneOf t i).vis, (bad → r.src = 0x7D) ∧ (¬ bad → r.src = 0x86)))

/-! ## Records and registers -/

/-- R31, R420, R7, R8, R10, R82, R212, R214, R439 to R441, R446: entries reach the Peat log in order, the oldest leaving a full one; its
entries, the slots of frame memory and captured records are read out with their checksums; a read of a counter clears it; a write sets
what software may set, clears what it may clear, and leaves the rest; a reserved encoding is discarded; EXC clears with its count. A bit
that the hardware set in the same core cycle stays set, and a counter that it advanced in that cycle is read as before the event and
restarts at 1. An entry whose sector write was retried in the next sector is still written, and FLERR shows at the next boundary (R31,
R420). Register writes and EXC are the program's. Choices and readings of the model in it: log 23, 24, 76, 82. -/
def Obligations.RecordsAndRegisters : Prop :=
  ∀ (i : LaneId) (s : State),
    let l := laneOf s i
    -- the hardware set that bit, or advanced that counter, in the present core cycle
    let just (a n : Nat) : Prop := ∃ e ∈ l.cyc.evs, e.cyc = l.cyc.now ∧ e.addr = a ∧ e.mask.testBit n = true
    (∀ e rest retried, l.powered = true → l.peatQ = e :: rest → Answers (.peatEntryCommit { lane := i, retried := retried }) s fun t =>
      let m := laneOf t i
      t = putLane s i m ∧ m = { l with regs := m.regs, cyc := m.cyc, peatQ := rest, peat := m.peat, late := m.late } ∧
      (∀ a, a ∉ [PEAT_STS, PEAT_HELD, PEAT_STK, FLT_STK] → rget m a = rget l a) ∧
      (retried = false → m.late = l.late ∧ rget m PEAT_STK = rget l PEAT_STK ∧ rget m FLT_STK = rget l FLT_STK) ∧
      (retried = true → (laneRuns l = true → SetLate PEAT_STK_FLERR m) ∧ (laneRuns l = false → fget m PEAT_STK_FLERR = 1)) ∧ (fget m PEAT_STS_BUSY = 0 ↔ rest = []) ∧
      fget m PEAT_HELD_N = min (l.peat.length + 1) 65536 ∧
      (l.peat.length < 65536 → m.peat = l.peat ++ [e] ∧ fget m PEAT_STS_WRAP = fget l PEAT_STS_WRAP) ∧
      (l.peat.length = 65536 → m.peat = l.peat.tail ++ [e] ∧ fget m PEAT_STS_WRAP = 1)) ∧
    (∀ q : Word, laneRuns l = true → Answers (.peatRsel i q) s fun t =>
      t = putLane s i (laneOf t i) ∧ RegsOnly l (laneOf t i) [PEAT_RSEL, PEAT_RSTS] ∧ rget (laneOf t i) PEAT_RSEL = q ∧
      fget (laneOf t i) PEAT_RSTS_VALID = 0) ∧
    (l.powered = true → Answers (.peatReadLoaded i) s fun t =>
      let m := laneOf t i
      let q := (rget l PEAT_RSEL).toNat
      t = putLane s i m ∧ m = { l with regs := m.regs } ∧
      (∀ a, a ≠ PEAT_RSTS → (∀ j < 8, a ≠ PEAT_RDAT j) → rget m a = rget l a) ∧
      ((∀ e ∈ l.peat, e.seq % 2 ^ 32 ≠ q) → fget m PEAT_RSTS_VALID = 0 ∧ fget m PEAT_RSTS_GONE = 1) ∧
      (∀ e ∈ l.peat, e.seq % 2 ^ 32 = q → (∀ x ∈ l.peat, x.seq % 2 ^ 32 = q → x = e) → fget m PEAT_RSTS_VALID = 1 ∧ fget m PEAT_RSTS_GONE = 0 ∧
        ∀ j < 8, rget m (PEAT_RDAT j) = (peatWords e).getD j 0#32)) ∧
    (∀ q : Word, Answers (.peatLogRead i q) s fun t => t = { s with svcOut := t.svcOut } ∧
      ((∀ e ∈ l.peat, e.seq % 2 ^ 32 ≠ q.toNat) → t.svcOut = []) ∧
      (∀ e ∈ l.peat, e.seq % 2 ^ 32 = q.toNat → (∀ x ∈ l.peat, x.seq % 2 ^ 32 = q.toNat → x = e) →
        t.svcOut.length = 8 ∧ t.svcOut.getD 2 0#32 = q ∧ t.svcOut.getD 4 0#32 = e.ctx0 ∧ t.svcOut.getD 5 0#32 = e.ctx1 ∧
        t.svcOut.getD 7 0#32 = crc32c (t.svcOut.take 7))) ∧
    (RingInv s → ∀ (j : Nat) (e : PeatEntry), s.fm.ring[j]? = some e →
      Answers (.frameMemoryRead ((s.fm.head + 256 - s.fm.ring.length + j) % 256)) s fun t => t = { s with svcOut := peatWords e }) ∧
    (∀ n : Nat, Answers (.captureUpload i n) s fun t => t = { s with svcOut := t.svcOut } ∧
      let size := 8 + 4 * fget l LPE_CCTL_NCH
      let paused : Prop := l.powered = true ∧ 1 ≤ fget l THM_STS_LSTEP
      (paused → t = s) ∧
      (¬ paused → l.powered = true → n < (0x01400000 - l.decl.dtop - 64) / size → t.svcOut.length = fget l LPE_CCTL_NCH + 2 ∧
        ∀ k < fget l LPE_CCTL_NCH + 2, t.svcOut.getD k 0#32 = mget32 l (l.decl.dtop + 64 + n * size + 4 * k)) ∧
      (¬ paused → l.powered = false ∨ (0x01400000 - l.decl.dtop - 64) / size ≤ n → t.svcOut = [])) ∧
    (∀ c : Fin 4, laneRuns l = true → Answers (.excClear i c) s fun t =>
      t = putLane s i (laneOf t i) ∧ RegsOnly l (laneOf t i) [SYS_CSTK c, SYS_CEXC c] ∧
      (¬ just (SYS_CSTK c) 6 →
        rget (laneOf t i) (SYS_CSTK c) = rget l (SYS_CSTK c) &&& ~~~0x40#32 ∧ fget (laneOf t i) (SYS_CEXC_COUNT c) = 0) ∧
      (just (SYS_CSTK c) 6 → rget (laneOf t i) (SYS_CSTK c) = rget l (SYS_CSTK c) ∧ fget (laneOf t i) (SYS_CEXC_COUNT c) = 1)) ∧
    (∀ (c : Fin 4) (addr val : Word), laneRuns l = false → exec (.excClear i c) s = .next s ∧ exec (.registerWrite i addr val) s = .next s) ∧
    (∀ (addr : Word) (a : Nat), l.powered = true → windowAddr addr = some a →
      Answers (.rcRead i addr) s (fun t =>
        t = { putLane s i (laneOf t i) with svcOut := t.svcOut } ∧ RegsOnly { l with eccN := (laneOf t i).eccN } (laneOf t i) [a] ∧
        (findReg a = none → t.svcOut = [0#32] ∧ laneOf t i = l) ∧
        (∀ d, findReg a = some d →
          ((∀ n, d.rc.testBit n = true → ¬ just a n) → rget (laneOf t i) a = rget l a &&& ~~~(BitVec.ofNat 32 d.rc) ∧
            (d.wo = 0 → t.svcOut = [rget l a])) ∧
          ∀ e, d.rc &&& e.mask ≠ 0 → l.cyc.at_ a = [e] →
            rget (laneOf t i) a = (rget l a &&& ~~~(BitVec.ofNat 32 d.rc)) ||| BitVec.ofNat 32 e.one ∧
            (d.wo = 0 → t.svcOut = [(rget l a &&& ~~~(BitVec.ofNat 32 e.mask)) ||| BitVec.ofNat 32 (e.prev &&& e.mask)]))) ∧
      (∀ val : Word, laneRuns l = true →
        (writeReserved a val.toNat = true → Answers (.registerWrite i addr val) s fun t =>
          ∃ u, Calm u t ∧ RegsOnly l (laneOf u i) [SYS_STK, FLT_STK] ∧ fget (laneOf u i) SYS_STK_RSVWR = 1) ∧
        (∀ d, findReg a = some d → d.com = 0 → writeReserved a val.toNat = false → blockOf a ≠ 0x06 →
          a ∉ [BLK_MREQ, CLK_MCMD, PEAT_RSEL, SYS_CSTK 0, SYS_CSTK 1, SYS_CSTK 2, SYS_CSTK 3] →
            Answers (.registerWrite i addr val) s fun t => ∃ u, Calm u t ∧ RegsOnly l (laneOf u i) [a] ∧ ∀ j : Fin 32,
              (rget (laneOf u i) a).getLsbD j =
                if bit d.w1c j = true ∧ val.getLsbD j = true ∧ ¬ just a j then false
                else if bit d.rw j = true then val.getLsbD j else (rget l a).getLsbD j)))

/-! ## Service -/

/-- R13, R387, R413, R419, R428, R437, R438: a key command without the key has result 1 and no effect, with the key it has its effect or
a result that says why not; a key-and-button command waits for a press of the button, one at a time, and is carried out by it, or
dropped when 30 s pass or the key returns. Every command leaves its record. S6 ends when no source of it is present. Choices and
readings of the model in it: log 70, 118, 139, 141, 143, 145. -/
def Obligations.ServiceCommands : Prop :=
  ∀ (s : State) (i : LaneId),
    let l := laneOf s i
    let logged (code res : Nat) (t : State) : Prop := ∃ e ∈ t.fm.ring, e.kind = 2 ∧ e.code = code ∧ e.ctx0 = wordOf (code + 256 * res)
    let booted (m : Lane) : Prop := (bricksFound m = true → (fget m CLK_STS_READY = 1 ↔ m.image.isSome = true)) ∧
      (bricksFound m = false → fget m CLK_STS_READY = 0 ∧ (m.bootLeft = some 10 ↔ m.image.isSome = true))
    let test (stage : Nat) : BistRt := { lane := i, run := 3, stage := stage, roll := 0, at_ := s.now, due := 0, own := false }
    s.la.out = [] → s.lb.out = [] → s.la.ident = .A → s.lb.ident = .B → (s.la.powered = true ∨ s.lb.powered = true) →
      -- commands of class key and button
      (∀ (cfg : BitVec 2) (j : LaneId) (act : Bool),
        ∀ f ∈ [(Instr.imageActivation, ProtCmd.activation), (.peatLogClear, .peatClear), (.frameMemoryEventClear, .fmClear),
            (.stoConfiguration cfg, .stoConfig cfg), (.forceRoles j act, .forceRoles j act)],
          (s.key = false → Answers f.1 s fun t => t.presReq = s.presReq ∧ logged (protCode f.2) 1 t) ∧
          (s.key = true → s.presReq ≠ none → Answers f.1 s fun t => t.presReq = s.presReq ∧ logged (protCode f.2) 4 t) ∧
          (s.key = true → s.presReq = none → Answers f.1 s fun t => t = { s with presReq := some { cmd := f.2, since := s.now } })) ∧
      (∀ r, s.presReq = some r →
        Answers .presenceRequestTimeout s (fun t => t.presReq = none ∧ logged (protCode r.cmd) 2 t ∧ t.key = s.key ∧ t.fm.sto = s.fm.sto ∧
          t.now = max s.now (r.since + 96000000000)) ∧
        (s.key = true → Answers (.keySwitchChange false) s fun t => t.key = false ∧ t.presReq = none) ∧
        ∀ ms, 50 ≤ ms → asleep s.la = false → asleep s.lb = false →
          (r.since + 96000000000 < s.now → Answers (.presenceButton ms) s fun t => t.presReq = none ∧ logged (protCode r.cmd) 2 t ∧
            t.fm.sto = s.fm.sto) ∧
          (s.now ≤ r.since + 96000000000 →
          (s.key = false → Answers (.presenceButton ms) s fun t => t.presReq = none ∧ logged (protCode r.cmd) 1 t) ∧
          (s.key = true →
            (r.cmd = .peatClear → Answers (.presenceButton ms) s fun t => t.presReq = none ∧ logged 8 0 t ∧
              (l.powered = true → (laneOf t i).peat = [] ∧ fget (laneOf t i) PEAT_HELD_N = 0)) ∧
            (r.cmd = .fmClear → Answers (.presenceButton ms) s fun t => t.presReq = none ∧ t.fm.ring.length = 1 ∧ t.fm.head = 1) ∧
            (∀ cfg, r.cmd = .stoConfig cfg → Answers (.presenceButton ms) s fun t => t.presReq = none ∧ t.fm.sto = cfg.toNat ∧
              (l.powered = true → fget (laneOf t i) PEAT_FMCFG_STO = cfg.toNat)) ∧
            (r.cmd = .forceRoles i false → l.powered = true → roleOf l = roleStandby ∨ roleOf l = roleCatchUp →
              Answers (.presenceButton ms) s fun t => t.presReq = none ∧ roleOf (laneOf t i) = roleOut ∧ logged 11 0 t) ∧
            (r.cmd = .forceRoles i true → laneActive (laneOf s (otherLane i)) = true → peerStandby s (otherLane i) = true →
              s.ho = .none ∨ (∃ c since, c ≤ 4 ∧ s.ho = .waiting c since) →
              (∀ j, fget (laneOf s j) (FLT_SEV_SEV 0x83) < 5) → Answers (.presenceButton ms) s fun t =>
                t.presReq = none ∧ t.ho = .waiting 8 s.now ∧ logged 11 0 t) ∧
            (r.cmd = .forceRoles i true → laneActive l = false →
              laneActive (laneOf s (otherLane i)) = false ∨ peerStandby s (otherLane i) = false →
              (∀ j, fget (laneOf s j) (FLT_SEV_SEV 0x83) < 5) → Answers (.presenceButton ms) s fun t =>
                t.presReq = none ∧ t.ho = s.ho ∧ logged 11 3 t) ∧
            (r.cmd = .activation → allBanked s = false → Answers (.presenceButton ms) s fun t => t.presReq = none ∧ logged 2 3 t) ∧
            (r.cmd = .activation → allBanked s = true → l.powered = true → roleOf l ≠ roleFault →
              Answers (.presenceButton ms) s fun t => t.presReq = none ∧ (laneOf t i).powered = true ∧ booted (laneOf t i))))) ∧
      (∀ b, b ≠ s.key → Answers (.keySwitchChange b) s fun t => t.key = b ∧
        (b = true → t.presReq = s.presReq) ∧ (laneRuns l = true → ∃ r ∈ (laneOf t i).vis, r.src = 0x82 ∧ r.ctx0 = wordOf b.toNat)) ∧
      (∀ ms, ms < 50 → Answers (.presenceButton ms) s fun t => t = s) ∧
      -- commands of class key
      (s.key = false → ∀ (im : Image) (hours : Byte),
        ∀ f ∈ [(Instr.imageLoad im, 1), (.rollingSelftestPeriod hours, 3), (.laneRestart i, 5), (.imageSync i, 6), (.s6Release, 7)],
          Answers f.1 s fun t => logged f.2 1 t ∧ t.fm.rper = s.fm.rper ∧
            ∀ j, (laneOf t j).banks = (laneOf s j).banks ∧ (laneOf t j).image = (laneOf s j).image ∧
              (laneOf t j).safe = (laneOf s j).safe) ∧
      (s.key = true →
        (∀ im : Image,
          (headBad s.fm.compat (some im) ≠ none ∨ im.icrc ≠ crc32c (payload im) ∨ sectionsOk im = false →
            Answers (.imageLoad im) s fun t => logged 1 5 t ∧ ∀ j, (laneOf t j).banks = (laneOf s j).banks) ∧
          (headBad s.fm.compat (some im) = none → im.icrc = crc32c (payload im) → sectionsOk im = true → loadable l = true →
            Answers (.imageLoad im) s fun t => logged 1 0 t ∧ (laneOf t i).image = l.image ∧
              vget (laneOf t i).banks (if fget l CLK_BOOT_BANK = 0 then 1 else 0) = some im ∧
              vget (laneOf t i).banks (if fget l CLK_BOOT_BANK = 0 then 0 else 1) =
                vget l.banks (if fget l CLK_BOOT_BANK = 0 then 0 else 1))) ∧
        (∀ hours : Byte, Answers (.rollingSelftestPeriod hours) s fun t => logged 3 0 t ∧ t.fm.rper = hours.toNat ∧
          (l.powered = true → fget (laneOf t i) PEAT_FMCFG_RPER = hours.toNat)) ∧
        (∀ im, l.powered = true → roleOf l = roleOut → laneActive (laneOf s (otherLane i)) = true →
          (laneOf s (otherLane i)).image = some im → Answers (.imageSync i) s fun t => logged 6 0 t ∧ booted (laneOf t i) ∧
            vget (laneOf t i).banks (if fget l CLK_BOOT_BANK = 0 then 1 else 0) = some im) ∧
        (l.powered = true → roleOf l = roleOut ∨ roleOf l = roleFault → testOf s i 2 = none → laneCool s i = true →
          Answers (.laneRestart i) s fun t => logged 5 0 t ∧ (laneOf t i).shut = false ∧ (laneOf t i).powered = true ∧ booted (laneOf t i)) ∧
        ((roleOf l ≠ roleOut ∧ roleOf l ≠ roleFault) ∨ testOf s i 2 ≠ none ∨ laneCool s i = false → Answers (.laneRestart i) s fun t => logged 5 3 t ∧ roleOf (laneOf t i) = roleOf l) ∧
        (let safe (j : LaneId) : Prop := laneRuns (laneOf s j) = true ∧ (laneOf s j).safe = true
         let cause (j : LaneId) : Prop := laneRuns (laneOf s j) = true ∧ anyS6 (laneOf s j) = true
         ((∃ j, safe j) → (∀ j, ¬ cause j) → Answers .s6Release s fun t => logged 7 0 t ∧
           (∀ j, laneRuns (laneOf s j) = true → (laneOf t j).safe = false ∧ fget (laneOf t j) FLT_STS_SAFE = 0) ∧
           (∀ k, (vget t.links k).send = true → stoCondition t = true ∧ linkPresent t k = true ∧ (vget t.links k).dark = false)) ∧
         ((∃ j, cause j) → Answers .s6Release s fun t => logged 7 3 t ∧
           ∀ j, (laneOf t j).safe = (laneOf s j).safe))) ∧
      (activeLane s = some i → s.bist = [] →
        (peerStandby s i = true → s.ho = .none → Answers .bistActiveLane s fun t =>
          t.ho = .waiting 3 s.now ∧ t.bist = [test 1]) ∧
        (peerStandby s i = false → laneRuns l = true →
          (s.key = true → allBanked s = true → Answers .bistActiveLane s fun t => logged 4 0 t ∧
            t.bist = [test 2] ∧ roleOf (laneOf t i) = roleOut) ∧
          (s.key = true → allBanked s = false → Answers .bistActiveLane s fun t => logged 4 3 t ∧ t.bist = []) ∧
          (s.key = false → Answers .bistActiveLane s fun t => logged 4 1 t ∧ t.bist = []))) ∧
      Answers .safeclr s (fun t => t = { s with la := t.la, lb := t.lb, links := t.links } ∧
        (laneRuns l = false → laneOf t i = l) ∧
        (laneRuns l = true → s.key = true → anyS6 l = false → RegsOnly { l with safe := false } (laneOf t i) [FLT_STS] ∧ fget (laneOf t i) FLT_STS_SAFE = 0) ∧
        (laneRuns l = true → s.key = false ∨ anyS6 l = true → RegsOnly l (laneOf t i) [FLT_STK] ∧
          (rget (laneOf t i) FLT_STK).getLsbD 22 = true))

/-! ## Reset, words, invariants -/

/-- R5 to R7, R32, R256, R336, R376, R415: after reset no command waits, the stores are in canonical form, and the registers of both
lanes read as the tables give them; a word register, a data byte and a register without a stated value read as zero (DESIGN CHOICE of
the log). Choices and readings of the model in it: log 5, 6, 8. -/
def Obligations.ResetState : Prop :=
  State.reset.pending = [] ∧ State.reset.wf = true ∧ RingInv State.reset ∧
  ∀ i : LaneId, let l := laneOf State.reset i
    roleOf l = roleOut ∧ fget l SYS_STS_LANEID = (match i with | .A => 0 | .B => 1) ∧ fget l SYS_STS_SOLO = 1 ∧ fget l SYS_STS_PEERUP = 0 ∧
    rget l CLK_DOM = 7#32 ∧ fget l ADM_STS_STATE = 0 ∧
    (∀ a : Axis, fget l (AXS_DEC_DECR a) = 0x400 ∧ fget l (AXS_DEC_DBAND a) = 0x52 ∧ fget l (AXS_SREG_KSTOP a) = 0x1400 ∧
      fget l (AXS_BRK_TBRK a) = 0x12C ∧ fget l (AXS_BRK_TREL a) = 0xC8 ∧ rget l (AXS_CMD a) = 0#32) ∧
    (∀ f : FieldNo, fget l (FIO_SCFG_TOUT f) = 10) ∧
    fget l (THM_CFG_WARN 0) = 0x5A0 ∧ fget l (THM_CFG_WARN 128) = 0x820 ∧ fget l (THM_CFG_WARN 144) = 0x5F0 ∧
    fget l (THM_CFG_WARN 149) = 0x550 ∧
    (∀ c k, ∀ r : RegNo, getW (taskOf l c k) r = 0#32) ∧ mget32 l 0x01000000 = 0#32

/-- R47, R48, R51: words written out from the encodings of the manual spell the instructions they stand for, whatever core issues them;
a word with a reserved major opcode, a reserved field or the guard 0b1000 spells ILL. Choices and readings of the model in it: log 9. -/
def Obligations.WordsSpellInstructions : Prop :=
  ∀ (lane : LaneId) (core : Fin 4) (fetch up : Ecc),
    let i (g : Guard) : Issue := { lane := lane, core := core, guard := g, fetch := fetch }
    let on : Issue := i { neg := false, p := 0#3 }
    let spells (w : Word) (c : Instr) : Prop := rylinOf lane core fetch up w = c
    spells 0x200A0010#32 (.movl on 5#5 0x10#16) ∧ spells 0x200B0103#32 (.movh on 5#5 0x103#16) ∧
    spells 0x400C5008#32 (.ld on 6#5 5#5 8#12 up) ∧ spells 0x28086400#32 (.cmpi on 1#3 0#2 6#5 2#3 0#9) ∧
    spells 0x084C0000#32 (.addi (i { neg := false, p := 1#3 }) 6#5 0#5 0#12) ∧ spells 0x540C500C#32 (.st on 6#5 5#5 12#12 up) ∧
    spells 0xC8000000#32 (.wtick on) ∧ spells 0x08000000#32 (.addi on 0#5 0#5 0#12) ∧
    spells 0x0#32 (.ill on) ∧ spells 0x0A000000#32 (.ill (i { neg := true, p := 0#3 })) ∧ spells 0x80000000#32 (.ill on) ∧
    spells 0x84020000#32 (.ill on)

/-- R47, R48, R51: the word of an instruction whose operands an admitted image can carry, and whose guard is not 0b1000, passes the
check of its encoding and spells that instruction again, with every operand. Choices and readings of the model in it: log 9. -/
def Obligations.InstructionWordsRoundTrip : Prop :=
  ∀ (c : Instr) (w : Word), rylinWord c = some w → rylinFits c = true → wGuard w ≠ { neg := true, p := 0#3 } →
    encFault w.toNat = none ∧ ∃ lane core fetch up, rylinOf lane core fetch up w = c

/-- R441: from every state whose ring of frame memory holds at most 256 entries and whose head names one of them, every step leads to
such a state. Choices and readings of the model in it: log 5. -/
def Obligations.FrameMemoryRingKept : Prop :=
  ∀ s t : State, RingInv s → step s = .next t → RingInv t

/-- R3, R40: from every state in which the stores of both lanes (registers, memory, latent errors) are in canonical form and each lane
is the one of its slot, every step leads to such a state. Choices and readings of the model in it: log 6, 7. -/
def Obligations.CanonicalStoresKept : Prop :=
  ∀ s t : State, s.wf = true → step s = .next t → t.wf = true

/-- Every command completes in every state: it answers a next state, leaves the commands that wait alone, and time does not go back
(R393 outside a restart of the time base, which the model counts on from). Choices and readings of the model in it: log 3, 62. -/
def Obligations.CommandsCompleteInOrder : Prop :=
  ∀ (c : Instr) (s : State), Answers c s fun t => t.pending = s.pending ∧ s.now ≤ t.now
end

