-- ==== Sys2Proof/Laws/State.lean ====
section
/-!
SUPPORT. One lemma per field and update of a lane, a core, a task context and the whole state: what the named updates leave as it
is, and what they set.
-/
namespace Sys2Proof.Machine

/-! ## The whole state -/

@[simp] theorem putLane_pending (s : State) (i : LaneId) (l : Lane) : (putLane s i l).pending = s.pending := by cases i <;> rfl
@[simp] theorem modLane_pending (s : State) (i : LaneId) (g : Lane → Lane) : (modLane s i g).pending = s.pending := by cases i <;> rfl
@[simp] theorem inRunning_pending (g : Lane → Lane) (s : State) : (inRunning g s).pending = s.pending := rfl
@[simp] theorem putLane_now (s : State) (i : LaneId) (l : Lane) : (putLane s i l).now = s.now := by cases i <;> rfl
@[simp] theorem modLane_now (s : State) (i : LaneId) (g : Lane → Lane) : (modLane s i g).now = s.now := by cases i <;> rfl
@[simp] theorem inRunning_now (g : Lane → Lane) (s : State) : (inRunning g s).now = s.now := rfl
@[simp] theorem putLane_t1At (s : State) (i : LaneId) (l : Lane) : (putLane s i l).t1At = s.t1At := by cases i <;> rfl
@[simp] theorem modLane_t1At (s : State) (i : LaneId) (g : Lane → Lane) : (modLane s i g).t1At = s.t1At := by cases i <;> rfl
@[simp] theorem inRunning_t1At (g : Lane → Lane) (s : State) : (inRunning g s).t1At = s.t1At := rfl
@[simp] theorem putLane_free (s : State) (i : LaneId) (l : Lane) : (putLane s i l).free = s.free := by cases i <;> rfl
@[simp] theorem modLane_free (s : State) (i : LaneId) (g : Lane → Lane) : (modLane s i g).free = s.free := by cases i <;> rfl
@[simp] theorem inRunning_free (g : Lane → Lane) (s : State) : (inRunning g s).free = s.free := rfl
@[simp] theorem putLane_ho (s : State) (i : LaneId) (l : Lane) : (putLane s i l).ho = s.ho := by cases i <;> rfl
@[simp] theorem modLane_ho (s : State) (i : LaneId) (g : Lane → Lane) : (modLane s i g).ho = s.ho := by cases i <;> rfl
@[simp] theorem inRunning_ho (g : Lane → Lane) (s : State) : (inRunning g s).ho = s.ho := rfl
@[simp] theorem putLane_hoOut (s : State) (i : LaneId) (l : Lane) : (putLane s i l).hoOut = s.hoOut := by cases i <;> rfl
@[simp] theorem modLane_hoOut (s : State) (i : LaneId) (g : Lane → Lane) : (modLane s i g).hoOut = s.hoOut := by cases i <;> rfl
@[simp] theorem inRunning_hoOut (g : Lane → Lane) (s : State) : (inRunning g s).hoOut = s.hoOut := rfl
@[simp] theorem putLane_bist (s : State) (i : LaneId) (l : Lane) : (putLane s i l).bist = s.bist := by cases i <;> rfl
@[simp] theorem modLane_bist (s : State) (i : LaneId) (g : Lane → Lane) : (modLane s i g).bist = s.bist := by cases i <;> rfl
@[simp] theorem inRunning_bist (g : Lane → Lane) (s : State) : (inRunning g s).bist = s.bist := rfl
@[simp] theorem putLane_fm (s : State) (i : LaneId) (l : Lane) : (putLane s i l).fm = s.fm := by cases i <;> rfl
@[simp] theorem modLane_fm (s : State) (i : LaneId) (g : Lane → Lane) : (modLane s i g).fm = s.fm := by cases i <;> rfl
@[simp] theorem inRunning_fm (g : Lane → Lane) (s : State) : (inRunning g s).fm = s.fm := rfl
@[simp] theorem putLane_key (s : State) (i : LaneId) (l : Lane) : (putLane s i l).key = s.key := by cases i <;> rfl
@[simp] theorem modLane_key (s : State) (i : LaneId) (g : Lane → Lane) : (modLane s i g).key = s.key := by cases i <;> rfl
@[simp] theorem inRunning_key (g : Lane → Lane) (s : State) : (inRunning g s).key = s.key := rfl
@[simp] theorem putLane_presReq (s : State) (i : LaneId) (l : Lane) : (putLane s i l).presReq = s.presReq := by cases i <;> rfl
@[simp] theorem modLane_presReq (s : State) (i : LaneId) (g : Lane → Lane) : (modLane s i g).presReq = s.presReq := by cases i <;> rfl
@[simp] theorem inRunning_presReq (g : Lane → Lane) (s : State) : (inRunning g s).presReq = s.presReq := rfl
@[simp] theorem putLane_sup (s : State) (i : LaneId) (l : Lane) : (putLane s i l).sup = s.sup := by cases i <;> rfl
@[simp] theorem modLane_sup (s : State) (i : LaneId) (g : Lane → Lane) : (modLane s i g).sup = s.sup := by cases i <;> rfl
@[simp] theorem inRunning_sup (g : Lane → Lane) (s : State) : (inRunning g s).sup = s.sup := rfl
@[simp] theorem putLane_pres (s : State) (i : LaneId) (l : Lane) : (putLane s i l).pres = s.pres := by cases i <;> rfl
@[simp] theorem modLane_pres (s : State) (i : LaneId) (g : Lane → Lane) : (modLane s i g).pres = s.pres := by cases i <;> rfl
@[simp] theorem inRunning_pres (g : Lane → Lane) (s : State) : (inRunning g s).pres = s.pres := rfl
@[simp] theorem putLane_okc (s : State) (i : LaneId) (l : Lane) : (putLane s i l).okc = s.okc := by cases i <;> rfl
@[simp] theorem modLane_okc (s : State) (i : LaneId) (g : Lane → Lane) : (modLane s i g).okc = s.okc := by cases i <;> rfl
@[simp] theorem inRunning_okc (g : Lane → Lane) (s : State) : (inRunning g s).okc = s.okc := rfl
@[simp] theorem putLane_xlnUp (s : State) (i : LaneId) (l : Lane) : (putLane s i l).xlnUp = s.xlnUp := by cases i <;> rfl
@[simp] theorem modLane_xlnUp (s : State) (i : LaneId) (g : Lane → Lane) : (modLane s i g).xlnUp = s.xlnUp := by cases i <;> rfl
@[simp] theorem inRunning_xlnUp (g : Lane → Lane) (s : State) : (inRunning g s).xlnUp = s.xlnUp := rfl
@[simp] theorem putLane_svcOut (s : State) (i : LaneId) (l : Lane) : (putLane s i l).svcOut = s.svcOut := by cases i <;> rfl
@[simp] theorem modLane_svcOut (s : State) (i : LaneId) (g : Lane → Lane) : (modLane s i g).svcOut = s.svcOut := by cases i <;> rfl
@[simp] theorem inRunning_svcOut (g : Lane → Lane) (s : State) : (inRunning g s).svcOut = s.svcOut := rfl
@[simp] theorem putLane_links (s : State) (i : LaneId) (l : Lane) : (putLane s i l).links = s.links := by cases i <;> rfl
@[simp] theorem modLane_links (s : State) (i : LaneId) (g : Lane → Lane) : (modLane s i g).links = s.links := by cases i <;> rfl
@[simp] theorem inRunning_links (g : Lane → Lane) (s : State) : (inRunning g s).links = s.links := rfl
@[simp] theorem putLane_bricks (s : State) (i : LaneId) (l : Lane) : (putLane s i l).bricks = s.bricks := by cases i <;> rfl
@[simp] theorem modLane_bricks (s : State) (i : LaneId) (g : Lane → Lane) : (modLane s i g).bricks = s.bricks := by cases i <;> rfl
@[simp] theorem inRunning_bricks (g : Lane → Lane) (s : State) : (inRunning g s).bricks = s.bricks := rfl
@[simp] theorem putLane_fields (s : State) (i : LaneId) (l : Lane) : (putLane s i l).fields = s.fields := by cases i <;> rfl
@[simp] theorem modLane_fields (s : State) (i : LaneId) (g : Lane → Lane) : (modLane s i g).fields = s.fields := by cases i <;> rfl
@[simp] theorem inRunning_fields (g : Lane → Lane) (s : State) : (inRunning g s).fields = s.fields := rfl
@[simp] theorem putLane_cord (s : State) (i : LaneId) (l : Lane) : (putLane s i l).cord = s.cord := by cases i <;> rfl
@[simp] theorem modLane_cord (s : State) (i : LaneId) (g : Lane → Lane) : (modLane s i g).cord = s.cord := by cases i <;> rfl
@[simp] theorem inRunning_cord (g : Lane → Lane) (s : State) : (inRunning g s).cord = s.cord := rfl

@[simp] theorem laneOf_putLane (s : State) (i : LaneId) (l : Lane) : laneOf (putLane s i l) i = l := by cases i <;> rfl
theorem laneOf_putLane_ne (s : State) {i j : LaneId} (l : Lane) (h : j ≠ i) : laneOf (putLane s i l) j = laneOf s j := by
  cases i <;> cases j <;> first | rfl | exact absurd rfl h
@[simp] theorem laneOf_putLane_other (s : State) (i : LaneId) (l : Lane) :
    laneOf (putLane s i l) (otherLane i) = laneOf s (otherLane i) := by cases i <;> rfl
@[simp] theorem laneOf_modLane (s : State) (i : LaneId) (g : Lane → Lane) : laneOf (modLane s i g) i = g (laneOf s i) := by
  cases i <;> rfl
@[simp] theorem putLane_laneOf (s : State) (i : LaneId) : putLane s i (laneOf s i) = s := by cases i <;> rfl
@[simp] theorem putLane_putLane (s : State) (i : LaneId) (k l : Lane) : putLane (putLane s i k) i l = putLane s i l := by
  cases i <;> rfl
theorem laneOf_inRunning (g : Lane → Lane) (s : State) (i : LaneId) :
    laneOf (inRunning g s) i = if laneRuns (laneOf s i) then g (laneOf s i) else laneOf s i := by cases i <;> rfl
theorem laneOf_inRunning_of {g : Lane → Lane} {s : State} {i : LaneId} (h : laneRuns (laneOf s i) = true) :
    laneOf (inRunning g s) i = g (laneOf s i) := by rw [laneOf_inRunning, if_pos h]

/-! ## A lane -/

@[simp] theorem rset_ident (l : Lane) (a : Nat) (v : Word) : (rset l a v).ident = l.ident := rfl
@[simp] theorem rset_powered (l : Lane) (a : Nat) (v : Word) : (rset l a v).powered = l.powered := rfl
@[simp] theorem rset_cyc (l : Lane) (a : Nat) (v : Word) : (rset l a v).cyc = l.cyc := rfl
@[simp] theorem rset_mem (l : Lane) (a : Nat) (v : Word) : (rset l a v).mem = l.mem := rfl
@[simp] theorem rset_ecc (l : Lane) (a : Nat) (v : Word) : (rset l a v).ecc = l.ecc := rfl
@[simp] theorem rset_cores (l : Lane) (a : Nat) (v : Word) : (rset l a v).cores = l.cores := rfl
@[simp] theorem rset_tags (l : Lane) (a : Nat) (v : Word) : (rset l a v).tags = l.tags := rfl
@[simp] theorem rset_engq (l : Lane) (a : Nat) (v : Word) : (rset l a v).engq = l.engq := rfl
@[simp] theorem rset_decl (l : Lane) (a : Nat) (v : Word) : (rset l a v).decl = l.decl := rfl
@[simp] theorem rset_banks (l : Lane) (a : Nat) (v : Word) : (rset l a v).banks = l.banks := rfl
@[simp] theorem rset_image (l : Lane) (a : Nat) (v : Word) : (rset l a v).image = l.image := rfl
@[simp] theorem rset_request (l : Lane) (a : Nat) (v : Word) : (rset l a v).request = l.request := rfl
@[simp] theorem rset_starts (l : Lane) (a : Nat) (v : Word) : (rset l a v).starts = l.starts := rfl
@[simp] theorem rset_items (l : Lane) (a : Nat) (v : Word) : (rset l a v).items = l.items := rfl
@[simp] theorem rset_tb0 (l : Lane) (a : Nat) (v : Word) : (rset l a v).tb0 = l.tb0 := rfl
@[simp] theorem rset_t1n (l : Lane) (a : Nat) (v : Word) : (rset l a v).t1n = l.t1n := rfl
@[simp] theorem rset_vis (l : Lane) (a : Nat) (v : Word) : (rset l a v).vis = l.vis := rfl
@[simp] theorem rset_late (l : Lane) (a : Nat) (v : Word) : (rset l a v).late = l.late := rfl
@[simp] theorem rset_rep (l : Lane) (a : Nat) (v : Word) : (rset l a v).rep = l.rep := rfl
@[simp] theorem rset_peat (l : Lane) (a : Nat) (v : Word) : (rset l a v).peat = l.peat := rfl
@[simp] theorem rset_peatQ (l : Lane) (a : Nat) (v : Word) : (rset l a v).peatQ = l.peatQ := rfl
@[simp] theorem rset_dormReq (l : Lane) (a : Nat) (v : Word) : (rset l a v).dormReq = l.dormReq := rfl
@[simp] theorem rset_wasIdle (l : Lane) (a : Nat) (v : Word) : (rset l a v).wasIdle = l.wasIdle := rfl
@[simp] theorem rset_pllTry (l : Lane) (a : Nat) (v : Word) : (rset l a v).pllTry = l.pllTry := rfl
@[simp] theorem rset_pllBad (l : Lane) (a : Nat) (v : Word) : (rset l a v).pllBad = l.pllBad := rfl
@[simp] theorem rset_units (l : Lane) (a : Nat) (v : Word) : (rset l a v).units = l.units := rfl
@[simp] theorem rset_yields (l : Lane) (a : Nat) (v : Word) : (rset l a v).yields = l.yields := rfl
@[simp] theorem rset_waitPeer (l : Lane) (a : Nat) (v : Word) : (rset l a v).waitPeer = l.waitPeer := rfl
@[simp] theorem rset_bootLeft (l : Lane) (a : Nat) (v : Word) : (rset l a v).bootLeft = l.bootLeft := rfl
@[simp] theorem rset_ship (l : Lane) (a : Nat) (v : Word) : (rset l a v).ship = l.ship := rfl
@[simp] theorem rset_shipRate (l : Lane) (a : Nat) (v : Word) : (rset l a v).shipRate = l.shipRate := rfl
@[simp] theorem rset_slewNs (l : Lane) (a : Nat) (v : Word) : (rset l a v).slewNs = l.slewNs := rfl
@[simp] theorem rset_slewT (l : Lane) (a : Nat) (v : Word) : (rset l a v).slewT = l.slewT := rfl
@[simp] theorem rset_shipLog (l : Lane) (a : Nat) (v : Word) : (rset l a v).shipLog = l.shipLog := rfl
@[simp] theorem rset_emb (l : Lane) (a : Nat) (v : Word) : (rset l a v).emb = l.emb := rfl
@[simp] theorem rset_embShip (l : Lane) (a : Nat) (v : Word) : (rset l a v).embShip = l.embShip := rfl
@[simp] theorem rset_eccN (l : Lane) (a : Nat) (v : Word) : (rset l a v).eccN = l.eccN := rfl
@[simp] theorem rset_out (l : Lane) (a : Nat) (v : Word) : (rset l a v).out = l.out := rfl
@[simp] theorem rset_axes (l : Lane) (a : Nat) (v : Word) : (rset l a v).axes = l.axes := rfl
@[simp] theorem rset_legs (l : Lane) (a : Nat) (v : Word) : (rset l a v).legs = l.legs := rfl
@[simp] theorem rset_cops (l : Lane) (a : Nat) (v : Word) : (rset l a v).cops = l.cops := rfl
@[simp] theorem rset_rx (l : Lane) (a : Nat) (v : Word) : (rset l a v).rx = l.rx := rfl
@[simp] theorem rset_slots (l : Lane) (a : Nat) (v : Word) : (rset l a v).slots = l.slots := rfl
@[simp] theorem rset_inj (l : Lane) (a : Nat) (v : Word) : (rset l a v).inj = l.inj := rfl
@[simp] theorem rset_cap (l : Lane) (a : Nat) (v : Word) : (rset l a v).cap = l.cap := rfl
@[simp] theorem rset_buses (l : Lane) (a : Nat) (v : Word) : (rset l a v).buses = l.buses := rfl
@[simp] theorem rset_grps (l : Lane) (a : Nat) (v : Word) : (rset l a v).grps = l.grps := rfl
@[simp] theorem rset_di (l : Lane) (a : Nat) (v : Word) : (rset l a v).di = l.di := rfl
@[simp] theorem rset_chans (l : Lane) (a : Nat) (v : Word) : (rset l a v).chans = l.chans := rfl
@[simp] theorem rset_ins (l : Lane) (a : Nat) (v : Word) : (rset l a v).ins = l.ins := rfl
@[simp] theorem rset_outs (l : Lane) (a : Nat) (v : Word) : (rset l a v).outs = l.outs := rfl
@[simp] theorem rset_fage (l : Lane) (a : Nat) (v : Word) : (rset l a v).fage = l.fage := rfl
@[simp] theorem rset_crdIn (l : Lane) (a : Nat) (v : Word) : (rset l a v).crdIn = l.crdIn := rfl
@[simp] theorem rset_crdTicks (l : Lane) (a : Nat) (v : Word) : (rset l a v).crdTicks = l.crdTicks := rfl
@[simp] theorem rset_crdFrom (l : Lane) (a : Nat) (v : Word) : (rset l a v).crdFrom = l.crdFrom := rfl
@[simp] theorem rset_crdSeen (l : Lane) (a : Nat) (v : Word) : (rset l a v).crdSeen = l.crdSeen := rfl
@[simp] theorem rset_cans (l : Lane) (a : Nat) (v : Word) : (rset l a v).cans = l.cans := rfl
@[simp] theorem rset_sens (l : Lane) (a : Nat) (v : Word) : (rset l a v).sens = l.sens := rfl
@[simp] theorem rset_lsteps (l : Lane) (a : Nat) (v : Word) : (rset l a v).lsteps = l.lsteps := rfl
@[simp] theorem rset_ltimes (l : Lane) (a : Nat) (v : Word) : (rset l a v).ltimes = l.ltimes := rfl
@[simp] theorem rset_btimes (l : Lane) (a : Nat) (v : Word) : (rset l a v).btimes = l.btimes := rfl
@[simp] theorem rset_shut (l : Lane) (a : Nat) (v : Word) : (rset l a v).shut = l.shut := rfl
@[simp] theorem rset_shutAt (l : Lane) (a : Nat) (v : Word) : (rset l a v).shutAt = l.shutAt := rfl
@[simp] theorem rset_dormAt (l : Lane) (a : Nat) (v : Word) : (rset l a v).dormAt = l.dormAt := rfl
@[simp] theorem rset_memBad (l : Lane) (a : Nat) (v : Word) : (rset l a v).memBad = l.memBad := rfl
@[simp] theorem rset_waitAt (l : Lane) (a : Nat) (v : Word) : (rset l a v).waitAt = l.waitAt := rfl
@[simp] theorem rset_safe (l : Lane) (a : Nat) (v : Word) : (rset l a v).safe = l.safe := rfl
@[simp] theorem rset_mreq (l : Lane) (a : Nat) (v : Word) : (rset l a v).mreq = l.mreq := rfl
@[simp] theorem rset_mtag (l : Lane) (a : Nat) (v : Word) : (rset l a v).mtag = l.mtag := rfl

@[simp] theorem fset_ident (l : Lane) (f : Field) (v : Nat) : (fset l f v).ident = l.ident := rfl
@[simp] theorem fset_powered (l : Lane) (f : Field) (v : Nat) : (fset l f v).powered = l.powered := rfl
@[simp] theorem fset_cyc (l : Lane) (f : Field) (v : Nat) : (fset l f v).cyc = l.cyc := rfl
@[simp] theorem fset_mem (l : Lane) (f : Field) (v : Nat) : (fset l f v).mem = l.mem := rfl
@[simp] theorem fset_ecc (l : Lane) (f : Field) (v : Nat) : (fset l f v).ecc = l.ecc := rfl
@[simp] theorem fset_cores (l : Lane) (f : Field) (v : Nat) : (fset l f v).cores = l.cores := rfl
@[simp] theorem fset_tags (l : Lane) (f : Field) (v : Nat) : (fset l f v).tags = l.tags := rfl
@[simp] theorem fset_engq (l : Lane) (f : Field) (v : Nat) : (fset l f v).engq = l.engq := rfl
@[simp] theorem fset_decl (l : Lane) (f : Field) (v : Nat) : (fset l f v).decl = l.decl := rfl
@[simp] theorem fset_banks (l : Lane) (f : Field) (v : Nat) : (fset l f v).banks = l.banks := rfl
@[simp] theorem fset_image (l : Lane) (f : Field) (v : Nat) : (fset l f v).image = l.image := rfl
@[simp] theorem fset_request (l : Lane) (f : Field) (v : Nat) : (fset l f v).request = l.request := rfl
@[simp] theorem fset_starts (l : Lane) (f : Field) (v : Nat) : (fset l f v).starts = l.starts := rfl
@[simp] theorem fset_items (l : Lane) (f : Field) (v : Nat) : (fset l f v).items = l.items := rfl
@[simp] theorem fset_tb0 (l : Lane) (f : Field) (v : Nat) : (fset l f v).tb0 = l.tb0 := rfl
@[simp] theorem fset_t1n (l : Lane) (f : Field) (v : Nat) : (fset l f v).t1n = l.t1n := rfl
@[simp] theorem fset_vis (l : Lane) (f : Field) (v : Nat) : (fset l f v).vis = l.vis := rfl
@[simp] theorem fset_late (l : Lane) (f : Field) (v : Nat) : (fset l f v).late = l.late := rfl
@[simp] theorem fset_rep (l : Lane) (f : Field) (v : Nat) : (fset l f v).rep = l.rep := rfl
@[simp] theorem fset_peat (l : Lane) (f : Field) (v : Nat) : (fset l f v).peat = l.peat := rfl
@[simp] theorem fset_peatQ (l : Lane) (f : Field) (v : Nat) : (fset l f v).peatQ = l.peatQ := rfl
@[simp] theorem fset_dormReq (l : Lane) (f : Field) (v : Nat) : (fset l f v).dormReq = l.dormReq := rfl
@[simp] theorem fset_wasIdle (l : Lane) (f : Field) (v : Nat) : (fset l f v).wasIdle = l.wasIdle := rfl
@[simp] theorem fset_pllTry (l : Lane) (f : Field) (v : Nat) : (fset l f v).pllTry = l.pllTry := rfl
@[simp] theorem fset_pllBad (l : Lane) (f : Field) (v : Nat) : (fset l f v).pllBad = l.pllBad := rfl
@[simp] theorem fset_units (l : Lane) (f : Field) (v : Nat) : (fset l f v).units = l.units := rfl
@[simp] theorem fset_yields (l : Lane) (f : Field) (v : Nat) : (fset l f v).yields = l.yields := rfl
@[simp] theorem fset_waitPeer (l : Lane) (f : Field) (v : Nat) : (fset l f v).waitPeer = l.waitPeer := rfl
@[simp] theorem fset_bootLeft (l : Lane) (f : Field) (v : Nat) : (fset l f v).bootLeft = l.bootLeft := rfl
@[simp] theorem fset_ship (l : Lane) (f : Field) (v : Nat) : (fset l f v).ship = l.ship := rfl
@[simp] theorem fset_shipRate (l : Lane) (f : Field) (v : Nat) : (fset l f v).shipRate = l.shipRate := rfl
@[simp] theorem fset_slewNs (l : Lane) (f : Field) (v : Nat) : (fset l f v).slewNs = l.slewNs := rfl
@[simp] theorem fset_slewT (l : Lane) (f : Field) (v : Nat) : (fset l f v).slewT = l.slewT := rfl
@[simp] theorem fset_shipLog (l : Lane) (f : Field) (v : Nat) : (fset l f v).shipLog = l.shipLog := rfl
@[simp] theorem fset_emb (l : Lane) (f : Field) (v : Nat) : (fset l f v).emb = l.emb := rfl
@[simp] theorem fset_embShip (l : Lane) (f : Field) (v : Nat) : (fset l f v).embShip = l.embShip := rfl
@[simp] theorem fset_eccN (l : Lane) (f : Field) (v : Nat) : (fset l f v).eccN = l.eccN := rfl
@[simp] theorem fset_out (l : Lane) (f : Field) (v : Nat) : (fset l f v).out = l.out := rfl
@[simp] theorem fset_axes (l : Lane) (f : Field) (v : Nat) : (fset l f v).axes = l.axes := rfl
@[simp] theorem fset_legs (l : Lane) (f : Field) (v : Nat) : (fset l f v).legs = l.legs := rfl
@[simp] theorem fset_cops (l : Lane) (f : Field) (v : Nat) : (fset l f v).cops = l.cops := rfl
@[simp] theorem fset_rx (l : Lane) (f : Field) (v : Nat) : (fset l f v).rx = l.rx := rfl
@[simp] theorem fset_slots (l : Lane) (f : Field) (v : Nat) : (fset l f v).slots = l.slots := rfl
@[simp] theorem fset_inj (l : Lane) (f : Field) (v : Nat) : (fset l f v).inj = l.inj := rfl
@[simp] theorem fset_cap (l : Lane) (f : Field) (v : Nat) : (fset l f v).cap = l.cap := rfl
@[simp] theorem fset_buses (l : Lane) (f : Field) (v : Nat) : (fset l f v).buses = l.buses := rfl
@[simp] theorem fset_grps (l : Lane) (f : Field) (v : Nat) : (fset l f v).grps = l.grps := rfl
@[simp] theorem fset_di (l : Lane) (f : Field) (v : Nat) : (fset l f v).di = l.di := rfl
@[simp] theorem fset_chans (l : Lane) (f : Field) (v : Nat) : (fset l f v).chans = l.chans := rfl
@[simp] theorem fset_ins (l : Lane) (f : Field) (v : Nat) : (fset l f v).ins = l.ins := rfl
@[simp] theorem fset_outs (l : Lane) (f : Field) (v : Nat) : (fset l f v).outs = l.outs := rfl
@[simp] theorem fset_fage (l : Lane) (f : Field) (v : Nat) : (fset l f v).fage = l.fage := rfl
@[simp] theorem fset_crdIn (l : Lane) (f : Field) (v : Nat) : (fset l f v).crdIn = l.crdIn := rfl
@[simp] theorem fset_crdTicks (l : Lane) (f : Field) (v : Nat) : (fset l f v).crdTicks = l.crdTicks := rfl
@[simp] theorem fset_crdFrom (l : Lane) (f : Field) (v : Nat) : (fset l f v).crdFrom = l.crdFrom := rfl
@[simp] theorem fset_crdSeen (l : Lane) (f : Field) (v : Nat) : (fset l f v).crdSeen = l.crdSeen := rfl
@[simp] theorem fset_cans (l : Lane) (f : Field) (v : Nat) : (fset l f v).cans = l.cans := rfl
@[simp] theorem fset_sens (l : Lane) (f : Field) (v : Nat) : (fset l f v).sens = l.sens := rfl
@[simp] theorem fset_lsteps (l : Lane) (f : Field) (v : Nat) : (fset l f v).lsteps = l.lsteps := rfl
@[simp] theorem fset_ltimes (l : Lane) (f : Field) (v : Nat) : (fset l f v).ltimes = l.ltimes := rfl
@[simp] theorem fset_btimes (l : Lane) (f : Field) (v : Nat) : (fset l f v).btimes = l.btimes := rfl
@[simp] theorem fset_shut (l : Lane) (f : Field) (v : Nat) : (fset l f v).shut = l.shut := rfl
@[simp] theorem fset_shutAt (l : Lane) (f : Field) (v : Nat) : (fset l f v).shutAt = l.shutAt := rfl
@[simp] theorem fset_dormAt (l : Lane) (f : Field) (v : Nat) : (fset l f v).dormAt = l.dormAt := rfl
@[simp] theorem fset_memBad (l : Lane) (f : Field) (v : Nat) : (fset l f v).memBad = l.memBad := rfl
@[simp] theorem fset_waitAt (l : Lane) (f : Field) (v : Nat) : (fset l f v).waitAt = l.waitAt := rfl
@[simp] theorem fset_safe (l : Lane) (f : Field) (v : Nat) : (fset l f v).safe = l.safe := rfl
@[simp] theorem fset_mreq (l : Lane) (f : Field) (v : Nat) : (fset l f v).mreq = l.mreq := rfl
@[simp] theorem fset_mtag (l : Lane) (f : Field) (v : Nat) : (fset l f v).mtag = l.mtag := rfl

@[simp] theorem fsetB_ident (l : Lane) (f : Field) (b : Bool) : (fsetB l f b).ident = l.ident := rfl
@[simp] theorem fsetB_powered (l : Lane) (f : Field) (b : Bool) : (fsetB l f b).powered = l.powered := rfl
@[simp] theorem fsetB_cyc (l : Lane) (f : Field) (b : Bool) : (fsetB l f b).cyc = l.cyc := rfl
@[simp] theorem fsetB_mem (l : Lane) (f : Field) (b : Bool) : (fsetB l f b).mem = l.mem := rfl
@[simp] theorem fsetB_ecc (l : Lane) (f : Field) (b : Bool) : (fsetB l f b).ecc = l.ecc := rfl
@[simp] theorem fsetB_cores (l : Lane) (f : Field) (b : Bool) : (fsetB l f b).cores = l.cores := rfl
@[simp] theorem fsetB_tags (l : Lane) (f : Field) (b : Bool) : (fsetB l f b).tags = l.tags := rfl
@[simp] theorem fsetB_engq (l : Lane) (f : Field) (b : Bool) : (fsetB l f b).engq = l.engq := rfl
@[simp] theorem fsetB_decl (l : Lane) (f : Field) (b : Bool) : (fsetB l f b).decl = l.decl := rfl
@[simp] theorem fsetB_banks (l : Lane) (f : Field) (b : Bool) : (fsetB l f b).banks = l.banks := rfl
@[simp] theorem fsetB_image (l : Lane) (f : Field) (b : Bool) : (fsetB l f b).image = l.image := rfl
@[simp] theorem fsetB_request (l : Lane) (f : Field) (b : Bool) : (fsetB l f b).request = l.request := rfl
@[simp] theorem fsetB_starts (l : Lane) (f : Field) (b : Bool) : (fsetB l f b).starts = l.starts := rfl
@[simp] theorem fsetB_items (l : Lane) (f : Field) (b : Bool) : (fsetB l f b).items = l.items := rfl
@[simp] theorem fsetB_tb0 (l : Lane) (f : Field) (b : Bool) : (fsetB l f b).tb0 = l.tb0 := rfl
@[simp] theorem fsetB_t1n (l : Lane) (f : Field) (b : Bool) : (fsetB l f b).t1n = l.t1n := rfl
@[simp] theorem fsetB_vis (l : Lane) (f : Field) (b : Bool) : (fsetB l f b).vis = l.vis := rfl
@[simp] theorem fsetB_late (l : Lane) (f : Field) (b : Bool) : (fsetB l f b).late = l.late := rfl
@[simp] theorem fsetB_rep (l : Lane) (f : Field) (b : Bool) : (fsetB l f b).rep = l.rep := rfl
@[simp] theorem fsetB_peat (l : Lane) (f : Field) (b : Bool) : (fsetB l f b).peat = l.peat := rfl
@[simp] theorem fsetB_peatQ (l : Lane) (f : Field) (b : Bool) : (fsetB l f b).peatQ = l.peatQ := rfl
@[simp] theorem fsetB_dormReq (l : Lane) (f : Field) (b : Bool) : (fsetB l f b).dormReq = l.dormReq := rfl
@[simp] theorem fsetB_wasIdle (l : Lane) (f : Field) (b : Bool) : (fsetB l f b).wasIdle = l.wasIdle := rfl
@[simp] theorem fsetB_pllTry (l : Lane) (f : Field) (b : Bool) : (fsetB l f b).pllTry = l.pllTry := rfl
@[simp] theorem fsetB_pllBad (l : Lane) (f : Field) (b : Bool) : (fsetB l f b).pllBad = l.pllBad := rfl
@[simp] theorem fsetB_units (l : Lane) (f : Field) (b : Bool) : (fsetB l f b).units = l.units := rfl
@[simp] theorem fsetB_yields (l : Lane) (f : Field) (b : Bool) : (fsetB l f b).yields = l.yields := rfl
@[simp] theorem fsetB_waitPeer (l : Lane) (f : Field) (b : Bool) : (fsetB l f b).waitPeer = l.waitPeer := rfl
@[simp] theorem fsetB_bootLeft (l : Lane) (f : Field) (b : Bool) : (fsetB l f b).bootLeft = l.bootLeft := rfl
@[simp] theorem fsetB_ship (l : Lane) (f : Field) (b : Bool) : (fsetB l f b).ship = l.ship := rfl
@[simp] theorem fsetB_shipRate (l : Lane) (f : Field) (b : Bool) : (fsetB l f b).shipRate = l.shipRate := rfl
@[simp] theorem fsetB_slewNs (l : Lane) (f : Field) (b : Bool) : (fsetB l f b).slewNs = l.slewNs := rfl
@[simp] theorem fsetB_slewT (l : Lane) (f : Field) (b : Bool) : (fsetB l f b).slewT = l.slewT := rfl
@[simp] theorem fsetB_shipLog (l : Lane) (f : Field) (b : Bool) : (fsetB l f b).shipLog = l.shipLog := rfl
@[simp] theorem fsetB_emb (l : Lane) (f : Field) (b : Bool) : (fsetB l f b).emb = l.emb := rfl
@[simp] theorem fsetB_embShip (l : Lane) (f : Field) (b : Bool) : (fsetB l f b).embShip = l.embShip := rfl
@[simp] theorem fsetB_eccN (l : Lane) (f : Field) (b : Bool) : (fsetB l f b).eccN = l.eccN := rfl
@[simp] theorem fsetB_out (l : Lane) (f : Field) (b : Bool) : (fsetB l f b).out = l.out := rfl
@[simp] theorem fsetB_axes (l : Lane) (f : Field) (b : Bool) : (fsetB l f b).axes = l.axes := rfl
@[simp] theorem fsetB_legs (l : Lane) (f : Field) (b : Bool) : (fsetB l f b).legs = l.legs := rfl
@[simp] theorem fsetB_cops (l : Lane) (f : Field) (b : Bool) : (fsetB l f b).cops = l.cops := rfl
@[simp] theorem fsetB_rx (l : Lane) (f : Field) (b : Bool) : (fsetB l f b).rx = l.rx := rfl
@[simp] theorem fsetB_slots (l : Lane) (f : Field) (b : Bool) : (fsetB l f b).slots = l.slots := rfl
@[simp] theorem fsetB_inj (l : Lane) (f : Field) (b : Bool) : (fsetB l f b).inj = l.inj := rfl
@[simp] theorem fsetB_cap (l : Lane) (f : Field) (b : Bool) : (fsetB l f b).cap = l.cap := rfl
@[simp] theorem fsetB_buses (l : Lane) (f : Field) (b : Bool) : (fsetB l f b).buses = l.buses := rfl
@[simp] theorem fsetB_grps (l : Lane) (f : Field) (b : Bool) : (fsetB l f b).grps = l.grps := rfl
@[simp] theorem fsetB_di (l : Lane) (f : Field) (b : Bool) : (fsetB l f b).di = l.di := rfl
@[simp] theorem fsetB_chans (l : Lane) (f : Field) (b : Bool) : (fsetB l f b).chans = l.chans := rfl
@[simp] theorem fsetB_ins (l : Lane) (f : Field) (b : Bool) : (fsetB l f b).ins = l.ins := rfl
@[simp] theorem fsetB_outs (l : Lane) (f : Field) (b : Bool) : (fsetB l f b).outs = l.outs := rfl
@[simp] theorem fsetB_fage (l : Lane) (f : Field) (b : Bool) : (fsetB l f b).fage = l.fage := rfl
@[simp] theorem fsetB_crdIn (l : Lane) (f : Field) (b : Bool) : (fsetB l f b).crdIn = l.crdIn := rfl
@[simp] theorem fsetB_crdTicks (l : Lane) (f : Field) (b : Bool) : (fsetB l f b).crdTicks = l.crdTicks := rfl
@[simp] theorem fsetB_crdFrom (l : Lane) (f : Field) (b : Bool) : (fsetB l f b).crdFrom = l.crdFrom := rfl
@[simp] theorem fsetB_crdSeen (l : Lane) (f : Field) (b : Bool) : (fsetB l f b).crdSeen = l.crdSeen := rfl
@[simp] theorem fsetB_cans (l : Lane) (f : Field) (b : Bool) : (fsetB l f b).cans = l.cans := rfl
@[simp] theorem fsetB_sens (l : Lane) (f : Field) (b : Bool) : (fsetB l f b).sens = l.sens := rfl
@[simp] theorem fsetB_lsteps (l : Lane) (f : Field) (b : Bool) : (fsetB l f b).lsteps = l.lsteps := rfl
@[simp] theorem fsetB_ltimes (l : Lane) (f : Field) (b : Bool) : (fsetB l f b).ltimes = l.ltimes := rfl
@[simp] theorem fsetB_btimes (l : Lane) (f : Field) (b : Bool) : (fsetB l f b).btimes = l.btimes := rfl
@[simp] theorem fsetB_shut (l : Lane) (f : Field) (b : Bool) : (fsetB l f b).shut = l.shut := rfl
@[simp] theorem fsetB_shutAt (l : Lane) (f : Field) (b : Bool) : (fsetB l f b).shutAt = l.shutAt := rfl
@[simp] theorem fsetB_dormAt (l : Lane) (f : Field) (b : Bool) : (fsetB l f b).dormAt = l.dormAt := rfl
@[simp] theorem fsetB_memBad (l : Lane) (f : Field) (b : Bool) : (fsetB l f b).memBad = l.memBad := rfl
@[simp] theorem fsetB_waitAt (l : Lane) (f : Field) (b : Bool) : (fsetB l f b).waitAt = l.waitAt := rfl
@[simp] theorem fsetB_safe (l : Lane) (f : Field) (b : Bool) : (fsetB l f b).safe = l.safe := rfl
@[simp] theorem fsetB_mreq (l : Lane) (f : Field) (b : Bool) : (fsetB l f b).mreq = l.mreq := rfl
@[simp] theorem fsetB_mtag (l : Lane) (f : Field) (b : Bool) : (fsetB l f b).mtag = l.mtag := rfl

@[simp] theorem fcount_ident (l : Lane) (f : Field) : (fcount l f).ident = l.ident := rfl
@[simp] theorem fcount_powered (l : Lane) (f : Field) : (fcount l f).powered = l.powered := rfl
@[simp] theorem fcount_mem (l : Lane) (f : Field) : (fcount l f).mem = l.mem := rfl
@[simp] theorem fcount_ecc (l : Lane) (f : Field) : (fcount l f).ecc = l.ecc := rfl
@[simp] theorem fcount_cores (l : Lane) (f : Field) : (fcount l f).cores = l.cores := rfl
@[simp] theorem fcount_tags (l : Lane) (f : Field) : (fcount l f).tags = l.tags := rfl
@[simp] theorem fcount_engq (l : Lane) (f : Field) : (fcount l f).engq = l.engq := rfl
@[simp] theorem fcount_decl (l : Lane) (f : Field) : (fcount l f).decl = l.decl := rfl
@[simp] theorem fcount_banks (l : Lane) (f : Field) : (fcount l f).banks = l.banks := rfl
@[simp] theorem fcount_image (l : Lane) (f : Field) : (fcount l f).image = l.image := rfl
@[simp] theorem fcount_request (l : Lane) (f : Field) : (fcount l f).request = l.request := rfl
@[simp] theorem fcount_starts (l : Lane) (f : Field) : (fcount l f).starts = l.starts := rfl
@[simp] theorem fcount_items (l : Lane) (f : Field) : (fcount l f).items = l.items := rfl
@[simp] theorem fcount_tb0 (l : Lane) (f : Field) : (fcount l f).tb0 = l.tb0 := rfl
@[simp] theorem fcount_t1n (l : Lane) (f : Field) : (fcount l f).t1n = l.t1n := rfl
@[simp] theorem fcount_vis (l : Lane) (f : Field) : (fcount l f).vis = l.vis := rfl
@[simp] theorem fcount_late (l : Lane) (f : Field) : (fcount l f).late = l.late := rfl
@[simp] theorem fcount_rep (l : Lane) (f : Field) : (fcount l f).rep = l.rep := rfl
@[simp] theorem fcount_peat (l : Lane) (f : Field) : (fcount l f).peat = l.peat := rfl
@[simp] theorem fcount_peatQ (l : Lane) (f : Field) : (fcount l f).peatQ = l.peatQ := rfl
@[simp] theorem fcount_dormReq (l : Lane) (f : Field) : (fcount l f).dormReq = l.dormReq := rfl
@[simp] theorem fcount_wasIdle (l : Lane) (f : Field) : (fcount l f).wasIdle = l.wasIdle := rfl
@[simp] theorem fcount_pllTry (l : Lane) (f : Field) : (fcount l f).pllTry = l.pllTry := rfl
@[simp] theorem fcount_pllBad (l : Lane) (f : Field) : (fcount l f).pllBad = l.pllBad := rfl
@[simp] theorem fcount_units (l : Lane) (f : Field) : (fcount l f).units = l.units := rfl
@[simp] theorem fcount_yields (l : Lane) (f : Field) : (fcount l f).yields = l.yields := rfl
@[simp] theorem fcount_waitPeer (l : Lane) (f : Field) : (fcount l f).waitPeer = l.waitPeer := rfl
@[simp] theorem fcount_bootLeft (l : Lane) (f : Field) : (fcount l f).bootLeft = l.bootLeft := rfl
@[simp] theorem fcount_ship (l : Lane) (f : Field) : (fcount l f).ship = l.ship := rfl
@[simp] theorem fcount_shipRate (l : Lane) (f : Field) : (fcount l f).shipRate = l.shipRate := rfl
@[simp] theorem fcount_slewNs (l : Lane) (f : Field) : (fcount l f).slewNs = l.slewNs := rfl
@[simp] theorem fcount_slewT (l : Lane) (f : Field) : (fcount l f).slewT = l.slewT := rfl
@[simp] theorem fcount_shipLog (l : Lane) (f : Field) : (fcount l f).shipLog = l.shipLog := rfl
@[simp] theorem fcount_emb (l : Lane) (f : Field) : (fcount l f).emb = l.emb := rfl
@[simp] theorem fcount_embShip (l : Lane) (f : Field) : (fcount l f).embShip = l.embShip := rfl
@[simp] theorem fcount_eccN (l : Lane) (f : Field) : (fcount l f).eccN = l.eccN := rfl
@[simp] theorem fcount_out (l : Lane) (f : Field) : (fcount l f).out = l.out := rfl
@[simp] theorem fcount_axes (l : Lane) (f : Field) : (fcount l f).axes = l.axes := rfl
@[simp] theorem fcount_legs (l : Lane) (f : Field) : (fcount l f).legs = l.legs := rfl
@[simp] theorem fcount_cops (l : Lane) (f : Field) : (fcount l f).cops = l.cops := rfl
@[simp] theorem fcount_rx (l : Lane) (f : Field) : (fcount l f).rx = l.rx := rfl
@[simp] theorem fcount_slots (l : Lane) (f : Field) : (fcount l f).slots = l.slots := rfl
@[simp] theorem fcount_inj (l : Lane) (f : Field) : (fcount l f).inj = l.inj := rfl
@[simp] theorem fcount_cap (l : Lane) (f : Field) : (fcount l f).cap = l.cap := rfl
@[simp] theorem fcount_buses (l : Lane) (f : Field) : (fcount l f).buses = l.buses := rfl
@[simp] theorem fcount_grps (l : Lane) (f : Field) : (fcount l f).grps = l.grps := rfl
@[simp] theorem fcount_di (l : Lane) (f : Field) : (fcount l f).di = l.di := rfl
@[simp] theorem fcount_chans (l : Lane) (f : Field) : (fcount l f).chans = l.chans := rfl
@[simp] theorem fcount_ins (l : Lane) (f : Field) : (fcount l f).ins = l.ins := rfl
@[simp] theorem fcount_outs (l : Lane) (f : Field) : (fcount l f).outs = l.outs := rfl
@[simp] theorem fcount_fage (l : Lane) (f : Field) : (fcount l f).fage = l.fage := rfl
@[simp] theorem fcount_crdIn (l : Lane) (f : Field) : (fcount l f).crdIn = l.crdIn := rfl
@[simp] theorem fcount_crdTicks (l : Lane) (f : Field) : (fcount l f).crdTicks = l.crdTicks := rfl
@[simp] theorem fcount_crdFrom (l : Lane) (f : Field) : (fcount l f).crdFrom = l.crdFrom := rfl
@[simp] theorem fcount_crdSeen (l : Lane) (f : Field) : (fcount l f).crdSeen = l.crdSeen := rfl
@[simp] theorem fcount_cans (l : Lane) (f : Field) : (fcount l f).cans = l.cans := rfl
@[simp] theorem fcount_sens (l : Lane) (f : Field) : (fcount l f).sens = l.sens := rfl
@[simp] theorem fcount_lsteps (l : Lane) (f : Field) : (fcount l f).lsteps = l.lsteps := rfl
@[simp] theorem fcount_ltimes (l : Lane) (f : Field) : (fcount l f).ltimes = l.ltimes := rfl
@[simp] theorem fcount_btimes (l : Lane) (f : Field) : (fcount l f).btimes = l.btimes := rfl
@[simp] theorem fcount_shut (l : Lane) (f : Field) : (fcount l f).shut = l.shut := rfl
@[simp] theorem fcount_shutAt (l : Lane) (f : Field) : (fcount l f).shutAt = l.shutAt := rfl
@[simp] theorem fcount_dormAt (l : Lane) (f : Field) : (fcount l f).dormAt = l.dormAt := rfl
@[simp] theorem fcount_memBad (l : Lane) (f : Field) : (fcount l f).memBad = l.memBad := rfl
@[simp] theorem fcount_waitAt (l : Lane) (f : Field) : (fcount l f).waitAt = l.waitAt := rfl
@[simp] theorem fcount_safe (l : Lane) (f : Field) : (fcount l f).safe = l.safe := rfl
@[simp] theorem fcount_mreq (l : Lane) (f : Field) : (fcount l f).mreq = l.mreq := rfl
@[simp] theorem fcount_mtag (l : Lane) (f : Field) : (fcount l f).mtag = l.mtag := rfl

@[simp] theorem fltStk_ident (l : Lane) (b : Nat) : (fltStk l b).ident = l.ident := rfl
@[simp] theorem fltStk_powered (l : Lane) (b : Nat) : (fltStk l b).powered = l.powered := rfl
@[simp] theorem fltStk_mem (l : Lane) (b : Nat) : (fltStk l b).mem = l.mem := rfl
@[simp] theorem fltStk_ecc (l : Lane) (b : Nat) : (fltStk l b).ecc = l.ecc := rfl
@[simp] theorem fltStk_cores (l : Lane) (b : Nat) : (fltStk l b).cores = l.cores := rfl
@[simp] theorem fltStk_tags (l : Lane) (b : Nat) : (fltStk l b).tags = l.tags := rfl
@[simp] theorem fltStk_engq (l : Lane) (b : Nat) : (fltStk l b).engq = l.engq := rfl
@[simp] theorem fltStk_decl (l : Lane) (b : Nat) : (fltStk l b).decl = l.decl := rfl
@[simp] theorem fltStk_banks (l : Lane) (b : Nat) : (fltStk l b).banks = l.banks := rfl
@[simp] theorem fltStk_image (l : Lane) (b : Nat) : (fltStk l b).image = l.image := rfl
@[simp] theorem fltStk_request (l : Lane) (b : Nat) : (fltStk l b).request = l.request := rfl
@[simp] theorem fltStk_starts (l : Lane) (b : Nat) : (fltStk l b).starts = l.starts := rfl
@[simp] theorem fltStk_items (l : Lane) (b : Nat) : (fltStk l b).items = l.items := rfl
@[simp] theorem fltStk_tb0 (l : Lane) (b : Nat) : (fltStk l b).tb0 = l.tb0 := rfl
@[simp] theorem fltStk_t1n (l : Lane) (b : Nat) : (fltStk l b).t1n = l.t1n := rfl
@[simp] theorem fltStk_vis (l : Lane) (b : Nat) : (fltStk l b).vis = l.vis := rfl
@[simp] theorem fltStk_late (l : Lane) (b : Nat) : (fltStk l b).late = l.late := rfl
@[simp] theorem fltStk_rep (l : Lane) (b : Nat) : (fltStk l b).rep = l.rep := rfl
@[simp] theorem fltStk_peat (l : Lane) (b : Nat) : (fltStk l b).peat = l.peat := rfl
@[simp] theorem fltStk_peatQ (l : Lane) (b : Nat) : (fltStk l b).peatQ = l.peatQ := rfl
@[simp] theorem fltStk_dormReq (l : Lane) (b : Nat) : (fltStk l b).dormReq = l.dormReq := rfl
@[simp] theorem fltStk_wasIdle (l : Lane) (b : Nat) : (fltStk l b).wasIdle = l.wasIdle := rfl
@[simp] theorem fltStk_pllTry (l : Lane) (b : Nat) : (fltStk l b).pllTry = l.pllTry := rfl
@[simp] theorem fltStk_pllBad (l : Lane) (b : Nat) : (fltStk l b).pllBad = l.pllBad := rfl
@[simp] theorem fltStk_units (l : Lane) (b : Nat) : (fltStk l b).units = l.units := rfl
@[simp] theorem fltStk_yields (l : Lane) (b : Nat) : (fltStk l b).yields = l.yields := rfl
@[simp] theorem fltStk_waitPeer (l : Lane) (b : Nat) : (fltStk l b).waitPeer = l.waitPeer := rfl
@[simp] theorem fltStk_bootLeft (l : Lane) (b : Nat) : (fltStk l b).bootLeft = l.bootLeft := rfl
@[simp] theorem fltStk_ship (l : Lane) (b : Nat) : (fltStk l b).ship = l.ship := rfl
@[simp] theorem fltStk_shipRate (l : Lane) (b : Nat) : (fltStk l b).shipRate = l.shipRate := rfl
@[simp] theorem fltStk_slewNs (l : Lane) (b : Nat) : (fltStk l b).slewNs = l.slewNs := rfl
@[simp] theorem fltStk_slewT (l : Lane) (b : Nat) : (fltStk l b).slewT = l.slewT := rfl
@[simp] theorem fltStk_shipLog (l : Lane) (b : Nat) : (fltStk l b).shipLog = l.shipLog := rfl
@[simp] theorem fltStk_emb (l : Lane) (b : Nat) : (fltStk l b).emb = l.emb := rfl
@[simp] theorem fltStk_embShip (l : Lane) (b : Nat) : (fltStk l b).embShip = l.embShip := rfl
@[simp] theorem fltStk_eccN (l : Lane) (b : Nat) : (fltStk l b).eccN = l.eccN := rfl
@[simp] theorem fltStk_out (l : Lane) (b : Nat) : (fltStk l b).out = l.out := rfl
@[simp] theorem fltStk_axes (l : Lane) (b : Nat) : (fltStk l b).axes = l.axes := rfl
@[simp] theorem fltStk_legs (l : Lane) (b : Nat) : (fltStk l b).legs = l.legs := rfl
@[simp] theorem fltStk_cops (l : Lane) (b : Nat) : (fltStk l b).cops = l.cops := rfl
@[simp] theorem fltStk_rx (l : Lane) (b : Nat) : (fltStk l b).rx = l.rx := rfl
@[simp] theorem fltStk_slots (l : Lane) (b : Nat) : (fltStk l b).slots = l.slots := rfl
@[simp] theorem fltStk_inj (l : Lane) (b : Nat) : (fltStk l b).inj = l.inj := rfl
@[simp] theorem fltStk_cap (l : Lane) (b : Nat) : (fltStk l b).cap = l.cap := rfl
@[simp] theorem fltStk_buses (l : Lane) (b : Nat) : (fltStk l b).buses = l.buses := rfl
@[simp] theorem fltStk_grps (l : Lane) (b : Nat) : (fltStk l b).grps = l.grps := rfl
@[simp] theorem fltStk_di (l : Lane) (b : Nat) : (fltStk l b).di = l.di := rfl
@[simp] theorem fltStk_chans (l : Lane) (b : Nat) : (fltStk l b).chans = l.chans := rfl
@[simp] theorem fltStk_ins (l : Lane) (b : Nat) : (fltStk l b).ins = l.ins := rfl
@[simp] theorem fltStk_outs (l : Lane) (b : Nat) : (fltStk l b).outs = l.outs := rfl
@[simp] theorem fltStk_fage (l : Lane) (b : Nat) : (fltStk l b).fage = l.fage := rfl
@[simp] theorem fltStk_crdIn (l : Lane) (b : Nat) : (fltStk l b).crdIn = l.crdIn := rfl
@[simp] theorem fltStk_crdTicks (l : Lane) (b : Nat) : (fltStk l b).crdTicks = l.crdTicks := rfl
@[simp] theorem fltStk_crdFrom (l : Lane) (b : Nat) : (fltStk l b).crdFrom = l.crdFrom := rfl
@[simp] theorem fltStk_crdSeen (l : Lane) (b : Nat) : (fltStk l b).crdSeen = l.crdSeen := rfl
@[simp] theorem fltStk_cans (l : Lane) (b : Nat) : (fltStk l b).cans = l.cans := rfl
@[simp] theorem fltStk_sens (l : Lane) (b : Nat) : (fltStk l b).sens = l.sens := rfl
@[simp] theorem fltStk_lsteps (l : Lane) (b : Nat) : (fltStk l b).lsteps = l.lsteps := rfl
@[simp] theorem fltStk_ltimes (l : Lane) (b : Nat) : (fltStk l b).ltimes = l.ltimes := rfl
@[simp] theorem fltStk_btimes (l : Lane) (b : Nat) : (fltStk l b).btimes = l.btimes := rfl
@[simp] theorem fltStk_shut (l : Lane) (b : Nat) : (fltStk l b).shut = l.shut := rfl
@[simp] theorem fltStk_shutAt (l : Lane) (b : Nat) : (fltStk l b).shutAt = l.shutAt := rfl
@[simp] theorem fltStk_dormAt (l : Lane) (b : Nat) : (fltStk l b).dormAt = l.dormAt := rfl
@[simp] theorem fltStk_memBad (l : Lane) (b : Nat) : (fltStk l b).memBad = l.memBad := rfl
@[simp] theorem fltStk_waitAt (l : Lane) (b : Nat) : (fltStk l b).waitAt = l.waitAt := rfl
@[simp] theorem fltStk_safe (l : Lane) (b : Nat) : (fltStk l b).safe = l.safe := rfl
@[simp] theorem fltStk_mreq (l : Lane) (b : Nat) : (fltStk l b).mreq = l.mreq := rfl
@[simp] theorem fltStk_mtag (l : Lane) (b : Nat) : (fltStk l b).mtag = l.mtag := rfl

@[simp] theorem stk_ident (l : Lane) (f : Field) : (stk l f).ident = l.ident := rfl
@[simp] theorem stk_powered (l : Lane) (f : Field) : (stk l f).powered = l.powered := rfl
@[simp] theorem stk_mem (l : Lane) (f : Field) : (stk l f).mem = l.mem := rfl
@[simp] theorem stk_ecc (l : Lane) (f : Field) : (stk l f).ecc = l.ecc := rfl
@[simp] theorem stk_cores (l : Lane) (f : Field) : (stk l f).cores = l.cores := rfl
@[simp] theorem stk_tags (l : Lane) (f : Field) : (stk l f).tags = l.tags := rfl
@[simp] theorem stk_engq (l : Lane) (f : Field) : (stk l f).engq = l.engq := rfl
@[simp] theorem stk_decl (l : Lane) (f : Field) : (stk l f).decl = l.decl := rfl
@[simp] theorem stk_banks (l : Lane) (f : Field) : (stk l f).banks = l.banks := rfl
@[simp] theorem stk_image (l : Lane) (f : Field) : (stk l f).image = l.image := rfl
@[simp] theorem stk_request (l : Lane) (f : Field) : (stk l f).request = l.request := rfl
@[simp] theorem stk_starts (l : Lane) (f : Field) : (stk l f).starts = l.starts := rfl
@[simp] theorem stk_items (l : Lane) (f : Field) : (stk l f).items = l.items := rfl
@[simp] theorem stk_tb0 (l : Lane) (f : Field) : (stk l f).tb0 = l.tb0 := rfl
@[simp] theorem stk_t1n (l : Lane) (f : Field) : (stk l f).t1n = l.t1n := rfl
@[simp] theorem stk_vis (l : Lane) (f : Field) : (stk l f).vis = l.vis := rfl
@[simp] theorem stk_late (l : Lane) (f : Field) : (stk l f).late = l.late := rfl
@[simp] theorem stk_rep (l : Lane) (f : Field) : (stk l f).rep = l.rep := rfl
@[simp] theorem stk_peat (l : Lane) (f : Field) : (stk l f).peat = l.peat := rfl
@[simp] theorem stk_peatQ (l : Lane) (f : Field) : (stk l f).peatQ = l.peatQ := rfl
@[simp] theorem stk_dormReq (l : Lane) (f : Field) : (stk l f).dormReq = l.dormReq := rfl
@[simp] theorem stk_wasIdle (l : Lane) (f : Field) : (stk l f).wasIdle = l.wasIdle := rfl
@[simp] theorem stk_pllTry (l : Lane) (f : Field) : (stk l f).pllTry = l.pllTry := rfl
@[simp] theorem stk_pllBad (l : Lane) (f : Field) : (stk l f).pllBad = l.pllBad := rfl
@[simp] theorem stk_units (l : Lane) (f : Field) : (stk l f).units = l.units := rfl
@[simp] theorem stk_yields (l : Lane) (f : Field) : (stk l f).yields = l.yields := rfl
@[simp] theorem stk_waitPeer (l : Lane) (f : Field) : (stk l f).waitPeer = l.waitPeer := rfl
@[simp] theorem stk_bootLeft (l : Lane) (f : Field) : (stk l f).bootLeft = l.bootLeft := rfl
@[simp] theorem stk_ship (l : Lane) (f : Field) : (stk l f).ship = l.ship := rfl
@[simp] theorem stk_shipRate (l : Lane) (f : Field) : (stk l f).shipRate = l.shipRate := rfl
@[simp] theorem stk_slewNs (l : Lane) (f : Field) : (stk l f).slewNs = l.slewNs := rfl
@[simp] theorem stk_slewT (l : Lane) (f : Field) : (stk l f).slewT = l.slewT := rfl
@[simp] theorem stk_shipLog (l : Lane) (f : Field) : (stk l f).shipLog = l.shipLog := rfl
@[simp] theorem stk_emb (l : Lane) (f : Field) : (stk l f).emb = l.emb := rfl
@[simp] theorem stk_embShip (l : Lane) (f : Field) : (stk l f).embShip = l.embShip := rfl
@[simp] theorem stk_eccN (l : Lane) (f : Field) : (stk l f).eccN = l.eccN := rfl
@[simp] theorem stk_out (l : Lane) (f : Field) : (stk l f).out = l.out := rfl
@[simp] theorem stk_axes (l : Lane) (f : Field) : (stk l f).axes = l.axes := rfl
@[simp] theorem stk_legs (l : Lane) (f : Field) : (stk l f).legs = l.legs := rfl
@[simp] theorem stk_cops (l : Lane) (f : Field) : (stk l f).cops = l.cops := rfl
@[simp] theorem stk_rx (l : Lane) (f : Field) : (stk l f).rx = l.rx := rfl
@[simp] theorem stk_slots (l : Lane) (f : Field) : (stk l f).slots = l.slots := rfl
@[simp] theorem stk_inj (l : Lane) (f : Field) : (stk l f).inj = l.inj := rfl
@[simp] theorem stk_cap (l : Lane) (f : Field) : (stk l f).cap = l.cap := rfl
@[simp] theorem stk_buses (l : Lane) (f : Field) : (stk l f).buses = l.buses := rfl
@[simp] theorem stk_grps (l : Lane) (f : Field) : (stk l f).grps = l.grps := rfl
@[simp] theorem stk_di (l : Lane) (f : Field) : (stk l f).di = l.di := rfl
@[simp] theorem stk_chans (l : Lane) (f : Field) : (stk l f).chans = l.chans := rfl
@[simp] theorem stk_ins (l : Lane) (f : Field) : (stk l f).ins = l.ins := rfl
@[simp] theorem stk_outs (l : Lane) (f : Field) : (stk l f).outs = l.outs := rfl
@[simp] theorem stk_fage (l : Lane) (f : Field) : (stk l f).fage = l.fage := rfl
@[simp] theorem stk_crdIn (l : Lane) (f : Field) : (stk l f).crdIn = l.crdIn := rfl
@[simp] theorem stk_crdTicks (l : Lane) (f : Field) : (stk l f).crdTicks = l.crdTicks := rfl
@[simp] theorem stk_crdFrom (l : Lane) (f : Field) : (stk l f).crdFrom = l.crdFrom := rfl
@[simp] theorem stk_crdSeen (l : Lane) (f : Field) : (stk l f).crdSeen = l.crdSeen := rfl
@[simp] theorem stk_cans (l : Lane) (f : Field) : (stk l f).cans = l.cans := rfl
@[simp] theorem stk_sens (l : Lane) (f : Field) : (stk l f).sens = l.sens := rfl
@[simp] theorem stk_lsteps (l : Lane) (f : Field) : (stk l f).lsteps = l.lsteps := rfl
@[simp] theorem stk_ltimes (l : Lane) (f : Field) : (stk l f).ltimes = l.ltimes := rfl
@[simp] theorem stk_btimes (l : Lane) (f : Field) : (stk l f).btimes = l.btimes := rfl
@[simp] theorem stk_shut (l : Lane) (f : Field) : (stk l f).shut = l.shut := rfl
@[simp] theorem stk_shutAt (l : Lane) (f : Field) : (stk l f).shutAt = l.shutAt := rfl
@[simp] theorem stk_dormAt (l : Lane) (f : Field) : (stk l f).dormAt = l.dormAt := rfl
@[simp] theorem stk_memBad (l : Lane) (f : Field) : (stk l f).memBad = l.memBad := rfl
@[simp] theorem stk_waitAt (l : Lane) (f : Field) : (stk l f).waitAt = l.waitAt := rfl
@[simp] theorem stk_safe (l : Lane) (f : Field) : (stk l f).safe = l.safe := rfl
@[simp] theorem stk_mreq (l : Lane) (f : Field) : (stk l f).mreq = l.mreq := rfl
@[simp] theorem stk_mtag (l : Lane) (f : Field) : (stk l f).mtag = l.mtag := rfl

@[simp] theorem stkIf_ident (c : Bool) (l : Lane) (f : Field) : (stkIf c l f).ident = l.ident := by cases c <;> rfl
@[simp] theorem stkIf_powered (c : Bool) (l : Lane) (f : Field) : (stkIf c l f).powered = l.powered := by cases c <;> rfl
@[simp] theorem stkIf_mem (c : Bool) (l : Lane) (f : Field) : (stkIf c l f).mem = l.mem := by cases c <;> rfl
@[simp] theorem stkIf_ecc (c : Bool) (l : Lane) (f : Field) : (stkIf c l f).ecc = l.ecc := by cases c <;> rfl
@[simp] theorem stkIf_cores (c : Bool) (l : Lane) (f : Field) : (stkIf c l f).cores = l.cores := by cases c <;> rfl
@[simp] theorem stkIf_tags (c : Bool) (l : Lane) (f : Field) : (stkIf c l f).tags = l.tags := by cases c <;> rfl
@[simp] theorem stkIf_engq (c : Bool) (l : Lane) (f : Field) : (stkIf c l f).engq = l.engq := by cases c <;> rfl
@[simp] theorem stkIf_decl (c : Bool) (l : Lane) (f : Field) : (stkIf c l f).decl = l.decl := by cases c <;> rfl
@[simp] theorem stkIf_banks (c : Bool) (l : Lane) (f : Field) : (stkIf c l f).banks = l.banks := by cases c <;> rfl
@[simp] theorem stkIf_image (c : Bool) (l : Lane) (f : Field) : (stkIf c l f).image = l.image := by cases c <;> rfl
@[simp] theorem stkIf_request (c : Bool) (l : Lane) (f : Field) : (stkIf c l f).request = l.request := by cases c <;> rfl
@[simp] theorem stkIf_starts (c : Bool) (l : Lane) (f : Field) : (stkIf c l f).starts = l.starts := by cases c <;> rfl
@[simp] theorem stkIf_items (c : Bool) (l : Lane) (f : Field) : (stkIf c l f).items = l.items := by cases c <;> rfl
@[simp] theorem stkIf_tb0 (c : Bool) (l : Lane) (f : Field) : (stkIf c l f).tb0 = l.tb0 := by cases c <;> rfl
@[simp] theorem stkIf_t1n (c : Bool) (l : Lane) (f : Field) : (stkIf c l f).t1n = l.t1n := by cases c <;> rfl
@[simp] theorem stkIf_vis (c : Bool) (l : Lane) (f : Field) : (stkIf c l f).vis = l.vis := by cases c <;> rfl
@[simp] theorem stkIf_late (c : Bool) (l : Lane) (f : Field) : (stkIf c l f).late = l.late := by cases c <;> rfl
@[simp] theorem stkIf_rep (c : Bool) (l : Lane) (f : Field) : (stkIf c l f).rep = l.rep := by cases c <;> rfl
@[simp] theorem stkIf_peat (c : Bool) (l : Lane) (f : Field) : (stkIf c l f).peat = l.peat := by cases c <;> rfl
@[simp] theorem stkIf_peatQ (c : Bool) (l : Lane) (f : Field) : (stkIf c l f).peatQ = l.peatQ := by cases c <;> rfl
@[simp] theorem stkIf_dormReq (c : Bool) (l : Lane) (f : Field) : (stkIf c l f).dormReq = l.dormReq := by cases c <;> rfl
@[simp] theorem stkIf_wasIdle (c : Bool) (l : Lane) (f : Field) : (stkIf c l f).wasIdle = l.wasIdle := by cases c <;> rfl
@[simp] theorem stkIf_pllTry (c : Bool) (l : Lane) (f : Field) : (stkIf c l f).pllTry = l.pllTry := by cases c <;> rfl
@[simp] theorem stkIf_pllBad (c : Bool) (l : Lane) (f : Field) : (stkIf c l f).pllBad = l.pllBad := by cases c <;> rfl
@[simp] theorem stkIf_units (c : Bool) (l : Lane) (f : Field) : (stkIf c l f).units = l.units := by cases c <;> rfl
@[simp] theorem stkIf_yields (c : Bool) (l : Lane) (f : Field) : (stkIf c l f).yields = l.yields := by cases c <;> rfl
@[simp] theorem stkIf_waitPeer (c : Bool) (l : Lane) (f : Field) : (stkIf c l f).waitPeer = l.waitPeer := by cases c <;> rfl
@[simp] theorem stkIf_bootLeft (c : Bool) (l : Lane) (f : Field) : (stkIf c l f).bootLeft = l.bootLeft := by cases c <;> rfl
@[simp] theorem stkIf_ship (c : Bool) (l : Lane) (f : Field) : (stkIf c l f).ship = l.ship := by cases c <;> rfl
@[simp] theorem stkIf_shipRate (c : Bool) (l : Lane) (f : Field) : (stkIf c l f).shipRate = l.shipRate := by cases c <;> rfl
@[simp] theorem stkIf_slewNs (c : Bool) (l : Lane) (f : Field) : (stkIf c l f).slewNs = l.slewNs := by cases c <;> rfl
@[simp] theorem stkIf_slewT (c : Bool) (l : Lane) (f : Field) : (stkIf c l f).slewT = l.slewT := by cases c <;> rfl
@[simp] theorem stkIf_shipLog (c : Bool) (l : Lane) (f : Field) : (stkIf c l f).shipLog = l.shipLog := by cases c <;> rfl
@[simp] theorem stkIf_emb (c : Bool) (l : Lane) (f : Field) : (stkIf c l f).emb = l.emb := by cases c <;> rfl
@[simp] theorem stkIf_embShip (c : Bool) (l : Lane) (f : Field) : (stkIf c l f).embShip = l.embShip := by cases c <;> rfl
@[simp] theorem stkIf_eccN (c : Bool) (l : Lane) (f : Field) : (stkIf c l f).eccN = l.eccN := by cases c <;> rfl
@[simp] theorem stkIf_out (c : Bool) (l : Lane) (f : Field) : (stkIf c l f).out = l.out := by cases c <;> rfl
@[simp] theorem stkIf_axes (c : Bool) (l : Lane) (f : Field) : (stkIf c l f).axes = l.axes := by cases c <;> rfl
@[simp] theorem stkIf_legs (c : Bool) (l : Lane) (f : Field) : (stkIf c l f).legs = l.legs := by cases c <;> rfl
@[simp] theorem stkIf_cops (c : Bool) (l : Lane) (f : Field) : (stkIf c l f).cops = l.cops := by cases c <;> rfl
@[simp] theorem stkIf_rx (c : Bool) (l : Lane) (f : Field) : (stkIf c l f).rx = l.rx := by cases c <;> rfl
@[simp] theorem stkIf_slots (c : Bool) (l : Lane) (f : Field) : (stkIf c l f).slots = l.slots := by cases c <;> rfl
@[simp] theorem stkIf_inj (c : Bool) (l : Lane) (f : Field) : (stkIf c l f).inj = l.inj := by cases c <;> rfl
@[simp] theorem stkIf_cap (c : Bool) (l : Lane) (f : Field) : (stkIf c l f).cap = l.cap := by cases c <;> rfl
@[simp] theorem stkIf_buses (c : Bool) (l : Lane) (f : Field) : (stkIf c l f).buses = l.buses := by cases c <;> rfl
@[simp] theorem stkIf_grps (c : Bool) (l : Lane) (f : Field) : (stkIf c l f).grps = l.grps := by cases c <;> rfl
@[simp] theorem stkIf_di (c : Bool) (l : Lane) (f : Field) : (stkIf c l f).di = l.di := by cases c <;> rfl
@[simp] theorem stkIf_chans (c : Bool) (l : Lane) (f : Field) : (stkIf c l f).chans = l.chans := by cases c <;> rfl
@[simp] theorem stkIf_ins (c : Bool) (l : Lane) (f : Field) : (stkIf c l f).ins = l.ins := by cases c <;> rfl
@[simp] theorem stkIf_outs (c : Bool) (l : Lane) (f : Field) : (stkIf c l f).outs = l.outs := by cases c <;> rfl
@[simp] theorem stkIf_fage (c : Bool) (l : Lane) (f : Field) : (stkIf c l f).fage = l.fage := by cases c <;> rfl
@[simp] theorem stkIf_crdIn (c : Bool) (l : Lane) (f : Field) : (stkIf c l f).crdIn = l.crdIn := by cases c <;> rfl
@[simp] theorem stkIf_crdTicks (c : Bool) (l : Lane) (f : Field) : (stkIf c l f).crdTicks = l.crdTicks := by cases c <;> rfl
@[simp] theorem stkIf_crdFrom (c : Bool) (l : Lane) (f : Field) : (stkIf c l f).crdFrom = l.crdFrom := by cases c <;> rfl
@[simp] theorem stkIf_crdSeen (c : Bool) (l : Lane) (f : Field) : (stkIf c l f).crdSeen = l.crdSeen := by cases c <;> rfl
@[simp] theorem stkIf_cans (c : Bool) (l : Lane) (f : Field) : (stkIf c l f).cans = l.cans := by cases c <;> rfl
@[simp] theorem stkIf_sens (c : Bool) (l : Lane) (f : Field) : (stkIf c l f).sens = l.sens := by cases c <;> rfl
@[simp] theorem stkIf_lsteps (c : Bool) (l : Lane) (f : Field) : (stkIf c l f).lsteps = l.lsteps := by cases c <;> rfl
@[simp] theorem stkIf_ltimes (c : Bool) (l : Lane) (f : Field) : (stkIf c l f).ltimes = l.ltimes := by cases c <;> rfl
@[simp] theorem stkIf_btimes (c : Bool) (l : Lane) (f : Field) : (stkIf c l f).btimes = l.btimes := by cases c <;> rfl
@[simp] theorem stkIf_shut (c : Bool) (l : Lane) (f : Field) : (stkIf c l f).shut = l.shut := by cases c <;> rfl
@[simp] theorem stkIf_shutAt (c : Bool) (l : Lane) (f : Field) : (stkIf c l f).shutAt = l.shutAt := by cases c <;> rfl
@[simp] theorem stkIf_dormAt (c : Bool) (l : Lane) (f : Field) : (stkIf c l f).dormAt = l.dormAt := by cases c <;> rfl
@[simp] theorem stkIf_memBad (c : Bool) (l : Lane) (f : Field) : (stkIf c l f).memBad = l.memBad := by cases c <;> rfl
@[simp] theorem stkIf_waitAt (c : Bool) (l : Lane) (f : Field) : (stkIf c l f).waitAt = l.waitAt := by cases c <;> rfl
@[simp] theorem stkIf_safe (c : Bool) (l : Lane) (f : Field) : (stkIf c l f).safe = l.safe := by cases c <;> rfl
@[simp] theorem stkIf_mreq (c : Bool) (l : Lane) (f : Field) : (stkIf c l f).mreq = l.mreq := by cases c <;> rfl
@[simp] theorem stkIf_mtag (c : Bool) (l : Lane) (f : Field) : (stkIf c l f).mtag = l.mtag := by cases c <;> rfl

@[simp] theorem mset8_ident (l : Lane) (a : Nat) (b : Byte) : (mset8 l a b).ident = l.ident := rfl
@[simp] theorem mset8_powered (l : Lane) (a : Nat) (b : Byte) : (mset8 l a b).powered = l.powered := rfl
@[simp] theorem mset8_regs (l : Lane) (a : Nat) (b : Byte) : (mset8 l a b).regs = l.regs := rfl
@[simp] theorem mset8_cyc (l : Lane) (a : Nat) (b : Byte) : (mset8 l a b).cyc = l.cyc := rfl
@[simp] theorem mset8_ecc (l : Lane) (a : Nat) (b : Byte) : (mset8 l a b).ecc = l.ecc := rfl
@[simp] theorem mset8_cores (l : Lane) (a : Nat) (b : Byte) : (mset8 l a b).cores = l.cores := rfl
@[simp] theorem mset8_tags (l : Lane) (a : Nat) (b : Byte) : (mset8 l a b).tags = l.tags := rfl
@[simp] theorem mset8_engq (l : Lane) (a : Nat) (b : Byte) : (mset8 l a b).engq = l.engq := rfl
@[simp] theorem mset8_decl (l : Lane) (a : Nat) (b : Byte) : (mset8 l a b).decl = l.decl := rfl
@[simp] theorem mset8_banks (l : Lane) (a : Nat) (b : Byte) : (mset8 l a b).banks = l.banks := rfl
@[simp] theorem mset8_image (l : Lane) (a : Nat) (b : Byte) : (mset8 l a b).image = l.image := rfl
@[simp] theorem mset8_request (l : Lane) (a : Nat) (b : Byte) : (mset8 l a b).request = l.request := rfl
@[simp] theorem mset8_starts (l : Lane) (a : Nat) (b : Byte) : (mset8 l a b).starts = l.starts := rfl
@[simp] theorem mset8_items (l : Lane) (a : Nat) (b : Byte) : (mset8 l a b).items = l.items := rfl
@[simp] theorem mset8_tb0 (l : Lane) (a : Nat) (b : Byte) : (mset8 l a b).tb0 = l.tb0 := rfl
@[simp] theorem mset8_t1n (l : Lane) (a : Nat) (b : Byte) : (mset8 l a b).t1n = l.t1n := rfl
@[simp] theorem mset8_vis (l : Lane) (a : Nat) (b : Byte) : (mset8 l a b).vis = l.vis := rfl
@[simp] theorem mset8_late (l : Lane) (a : Nat) (b : Byte) : (mset8 l a b).late = l.late := rfl
@[simp] theorem mset8_rep (l : Lane) (a : Nat) (b : Byte) : (mset8 l a b).rep = l.rep := rfl
@[simp] theorem mset8_peat (l : Lane) (a : Nat) (b : Byte) : (mset8 l a b).peat = l.peat := rfl
@[simp] theorem mset8_peatQ (l : Lane) (a : Nat) (b : Byte) : (mset8 l a b).peatQ = l.peatQ := rfl
@[simp] theorem mset8_dormReq (l : Lane) (a : Nat) (b : Byte) : (mset8 l a b).dormReq = l.dormReq := rfl
@[simp] theorem mset8_wasIdle (l : Lane) (a : Nat) (b : Byte) : (mset8 l a b).wasIdle = l.wasIdle := rfl
@[simp] theorem mset8_pllTry (l : Lane) (a : Nat) (b : Byte) : (mset8 l a b).pllTry = l.pllTry := rfl
@[simp] theorem mset8_pllBad (l : Lane) (a : Nat) (b : Byte) : (mset8 l a b).pllBad = l.pllBad := rfl
@[simp] theorem mset8_units (l : Lane) (a : Nat) (b : Byte) : (mset8 l a b).units = l.units := rfl
@[simp] theorem mset8_yields (l : Lane) (a : Nat) (b : Byte) : (mset8 l a b).yields = l.yields := rfl
@[simp] theorem mset8_waitPeer (l : Lane) (a : Nat) (b : Byte) : (mset8 l a b).waitPeer = l.waitPeer := rfl
@[simp] theorem mset8_bootLeft (l : Lane) (a : Nat) (b : Byte) : (mset8 l a b).bootLeft = l.bootLeft := rfl
@[simp] theorem mset8_ship (l : Lane) (a : Nat) (b : Byte) : (mset8 l a b).ship = l.ship := rfl
@[simp] theorem mset8_shipRate (l : Lane) (a : Nat) (b : Byte) : (mset8 l a b).shipRate = l.shipRate := rfl
@[simp] theorem mset8_slewNs (l : Lane) (a : Nat) (b : Byte) : (mset8 l a b).slewNs = l.slewNs := rfl
@[simp] theorem mset8_slewT (l : Lane) (a : Nat) (b : Byte) : (mset8 l a b).slewT = l.slewT := rfl
@[simp] theorem mset8_shipLog (l : Lane) (a : Nat) (b : Byte) : (mset8 l a b).shipLog = l.shipLog := rfl
@[simp] theorem mset8_emb (l : Lane) (a : Nat) (b : Byte) : (mset8 l a b).emb = l.emb := rfl
@[simp] theorem mset8_embShip (l : Lane) (a : Nat) (b : Byte) : (mset8 l a b).embShip = l.embShip := rfl
@[simp] theorem mset8_eccN (l : Lane) (a : Nat) (b : Byte) : (mset8 l a b).eccN = l.eccN := rfl
@[simp] theorem mset8_out (l : Lane) (a : Nat) (b : Byte) : (mset8 l a b).out = l.out := rfl
@[simp] theorem mset8_axes (l : Lane) (a : Nat) (b : Byte) : (mset8 l a b).axes = l.axes := rfl
@[simp] theorem mset8_legs (l : Lane) (a : Nat) (b : Byte) : (mset8 l a b).legs = l.legs := rfl
@[simp] theorem mset8_cops (l : Lane) (a : Nat) (b : Byte) : (mset8 l a b).cops = l.cops := rfl
@[simp] theorem mset8_rx (l : Lane) (a : Nat) (b : Byte) : (mset8 l a b).rx = l.rx := rfl
@[simp] theorem mset8_slots (l : Lane) (a : Nat) (b : Byte) : (mset8 l a b).slots = l.slots := rfl
@[simp] theorem mset8_inj (l : Lane) (a : Nat) (b : Byte) : (mset8 l a b).inj = l.inj := rfl
@[simp] theorem mset8_cap (l : Lane) (a : Nat) (b : Byte) : (mset8 l a b).cap = l.cap := rfl
@[simp] theorem mset8_buses (l : Lane) (a : Nat) (b : Byte) : (mset8 l a b).buses = l.buses := rfl
@[simp] theorem mset8_grps (l : Lane) (a : Nat) (b : Byte) : (mset8 l a b).grps = l.grps := rfl
@[simp] theorem mset8_di (l : Lane) (a : Nat) (b : Byte) : (mset8 l a b).di = l.di := rfl
@[simp] theorem mset8_chans (l : Lane) (a : Nat) (b : Byte) : (mset8 l a b).chans = l.chans := rfl
@[simp] theorem mset8_ins (l : Lane) (a : Nat) (b : Byte) : (mset8 l a b).ins = l.ins := rfl
@[simp] theorem mset8_outs (l : Lane) (a : Nat) (b : Byte) : (mset8 l a b).outs = l.outs := rfl
@[simp] theorem mset8_fage (l : Lane) (a : Nat) (b : Byte) : (mset8 l a b).fage = l.fage := rfl
@[simp] theorem mset8_crdIn (l : Lane) (a : Nat) (b : Byte) : (mset8 l a b).crdIn = l.crdIn := rfl
@[simp] theorem mset8_crdTicks (l : Lane) (a : Nat) (b : Byte) : (mset8 l a b).crdTicks = l.crdTicks := rfl
@[simp] theorem mset8_crdFrom (l : Lane) (a : Nat) (b : Byte) : (mset8 l a b).crdFrom = l.crdFrom := rfl
@[simp] theorem mset8_crdSeen (l : Lane) (a : Nat) (b : Byte) : (mset8 l a b).crdSeen = l.crdSeen := rfl
@[simp] theorem mset8_cans (l : Lane) (a : Nat) (b : Byte) : (mset8 l a b).cans = l.cans := rfl
@[simp] theorem mset8_sens (l : Lane) (a : Nat) (b : Byte) : (mset8 l a b).sens = l.sens := rfl
@[simp] theorem mset8_lsteps (l : Lane) (a : Nat) (b : Byte) : (mset8 l a b).lsteps = l.lsteps := rfl
@[simp] theorem mset8_ltimes (l : Lane) (a : Nat) (b : Byte) : (mset8 l a b).ltimes = l.ltimes := rfl
@[simp] theorem mset8_btimes (l : Lane) (a : Nat) (b : Byte) : (mset8 l a b).btimes = l.btimes := rfl
@[simp] theorem mset8_shut (l : Lane) (a : Nat) (b : Byte) : (mset8 l a b).shut = l.shut := rfl
@[simp] theorem mset8_shutAt (l : Lane) (a : Nat) (b : Byte) : (mset8 l a b).shutAt = l.shutAt := rfl
@[simp] theorem mset8_dormAt (l : Lane) (a : Nat) (b : Byte) : (mset8 l a b).dormAt = l.dormAt := rfl
@[simp] theorem mset8_memBad (l : Lane) (a : Nat) (b : Byte) : (mset8 l a b).memBad = l.memBad := rfl
@[simp] theorem mset8_waitAt (l : Lane) (a : Nat) (b : Byte) : (mset8 l a b).waitAt = l.waitAt := rfl
@[simp] theorem mset8_safe (l : Lane) (a : Nat) (b : Byte) : (mset8 l a b).safe = l.safe := rfl
@[simp] theorem mset8_mreq (l : Lane) (a : Nat) (b : Byte) : (mset8 l a b).mreq = l.mreq := rfl
@[simp] theorem mset8_mtag (l : Lane) (a : Nat) (b : Byte) : (mset8 l a b).mtag = l.mtag := rfl

@[simp] theorem mset32_ident (l : Lane) (a : Nat) (w : Word) : (mset32 l a w).ident = l.ident := by simp only [mset32, mset8_ident]
@[simp] theorem mset32_powered (l : Lane) (a : Nat) (w : Word) : (mset32 l a w).powered = l.powered := by simp only [mset32, mset8_powered]
@[simp] theorem mset32_regs (l : Lane) (a : Nat) (w : Word) : (mset32 l a w).regs = l.regs := by simp only [mset32, mset8_regs]
@[simp] theorem mset32_cyc (l : Lane) (a : Nat) (w : Word) : (mset32 l a w).cyc = l.cyc := by simp only [mset32, mset8_cyc]
@[simp] theorem mset32_ecc (l : Lane) (a : Nat) (w : Word) : (mset32 l a w).ecc = l.ecc := by simp only [mset32, mset8_ecc]
@[simp] theorem mset32_cores (l : Lane) (a : Nat) (w : Word) : (mset32 l a w).cores = l.cores := by simp only [mset32, mset8_cores]
@[simp] theorem mset32_tags (l : Lane) (a : Nat) (w : Word) : (mset32 l a w).tags = l.tags := by simp only [mset32, mset8_tags]
@[simp] theorem mset32_engq (l : Lane) (a : Nat) (w : Word) : (mset32 l a w).engq = l.engq := by simp only [mset32, mset8_engq]
@[simp] theorem mset32_decl (l : Lane) (a : Nat) (w : Word) : (mset32 l a w).decl = l.decl := by simp only [mset32, mset8_decl]
@[simp] theorem mset32_banks (l : Lane) (a : Nat) (w : Word) : (mset32 l a w).banks = l.banks := by simp only [mset32, mset8_banks]
@[simp] theorem mset32_image (l : Lane) (a : Nat) (w : Word) : (mset32 l a w).image = l.image := by simp only [mset32, mset8_image]
@[simp] theorem mset32_request (l : Lane) (a : Nat) (w : Word) : (mset32 l a w).request = l.request := by simp only [mset32, mset8_request]
@[simp] theorem mset32_starts (l : Lane) (a : Nat) (w : Word) : (mset32 l a w).starts = l.starts := by simp only [mset32, mset8_starts]
@[simp] theorem mset32_items (l : Lane) (a : Nat) (w : Word) : (mset32 l a w).items = l.items := by simp only [mset32, mset8_items]
@[simp] theorem mset32_tb0 (l : Lane) (a : Nat) (w : Word) : (mset32 l a w).tb0 = l.tb0 := by simp only [mset32, mset8_tb0]
@[simp] theorem mset32_t1n (l : Lane) (a : Nat) (w : Word) : (mset32 l a w).t1n = l.t1n := by simp only [mset32, mset8_t1n]
@[simp] theorem mset32_vis (l : Lane) (a : Nat) (w : Word) : (mset32 l a w).vis = l.vis := by simp only [mset32, mset8_vis]
@[simp] theorem mset32_late (l : Lane) (a : Nat) (w : Word) : (mset32 l a w).late = l.late := by simp only [mset32, mset8_late]
@[simp] theorem mset32_rep (l : Lane) (a : Nat) (w : Word) : (mset32 l a w).rep = l.rep := by simp only [mset32, mset8_rep]
@[simp] theorem mset32_peat (l : Lane) (a : Nat) (w : Word) : (mset32 l a w).peat = l.peat := by simp only [mset32, mset8_peat]
@[simp] theorem mset32_peatQ (l : Lane) (a : Nat) (w : Word) : (mset32 l a w).peatQ = l.peatQ := by simp only [mset32, mset8_peatQ]
@[simp] theorem mset32_dormReq (l : Lane) (a : Nat) (w : Word) : (mset32 l a w).dormReq = l.dormReq := by simp only [mset32, mset8_dormReq]
@[simp] theorem mset32_wasIdle (l : Lane) (a : Nat) (w : Word) : (mset32 l a w).wasIdle = l.wasIdle := by simp only [mset32, mset8_wasIdle]
@[simp] theorem mset32_pllTry (l : Lane) (a : Nat) (w : Word) : (mset32 l a w).pllTry = l.pllTry := by simp only [mset32, mset8_pllTry]
@[simp] theorem mset32_pllBad (l : Lane) (a : Nat) (w : Word) : (mset32 l a w).pllBad = l.pllBad := by simp only [mset32, mset8_pllBad]
@[simp] theorem mset32_units (l : Lane) (a : Nat) (w : Word) : (mset32 l a w).units = l.units := by simp only [mset32, mset8_units]
@[simp] theorem mset32_yields (l : Lane) (a : Nat) (w : Word) : (mset32 l a w).yields = l.yields := by simp only [mset32, mset8_yields]
@[simp] theorem mset32_waitPeer (l : Lane) (a : Nat) (w : Word) : (mset32 l a w).waitPeer = l.waitPeer := by simp only [mset32, mset8_waitPeer]
@[simp] theorem mset32_bootLeft (l : Lane) (a : Nat) (w : Word) : (mset32 l a w).bootLeft = l.bootLeft := by simp only [mset32, mset8_bootLeft]
@[simp] theorem mset32_ship (l : Lane) (a : Nat) (w : Word) : (mset32 l a w).ship = l.ship := by simp only [mset32, mset8_ship]
@[simp] theorem mset32_shipRate (l : Lane) (a : Nat) (w : Word) : (mset32 l a w).shipRate = l.shipRate := by simp only [mset32, mset8_shipRate]
@[simp] theorem mset32_slewNs (l : Lane) (a : Nat) (w : Word) : (mset32 l a w).slewNs = l.slewNs := by simp only [mset32, mset8_slewNs]
@[simp] theorem mset32_slewT (l : Lane) (a : Nat) (w : Word) : (mset32 l a w).slewT = l.slewT := by simp only [mset32, mset8_slewT]
@[simp] theorem mset32_shipLog (l : Lane) (a : Nat) (w : Word) : (mset32 l a w).shipLog = l.shipLog := by simp only [mset32, mset8_shipLog]
@[simp] theorem mset32_emb (l : Lane) (a : Nat) (w : Word) : (mset32 l a w).emb = l.emb := by simp only [mset32, mset8_emb]
@[simp] theorem mset32_embShip (l : Lane) (a : Nat) (w : Word) : (mset32 l a w).embShip = l.embShip := by simp only [mset32, mset8_embShip]
@[simp] theorem mset32_eccN (l : Lane) (a : Nat) (w : Word) : (mset32 l a w).eccN = l.eccN := by simp only [mset32, mset8_eccN]
@[simp] theorem mset32_out (l : Lane) (a : Nat) (w : Word) : (mset32 l a w).out = l.out := by simp only [mset32, mset8_out]
@[simp] theorem mset32_axes (l : Lane) (a : Nat) (w : Word) : (mset32 l a w).axes = l.axes := by simp only [mset32, mset8_axes]
@[simp] theorem mset32_legs (l : Lane) (a : Nat) (w : Word) : (mset32 l a w).legs = l.legs := by simp only [mset32, mset8_legs]
@[simp] theorem mset32_cops (l : Lane) (a : Nat) (w : Word) : (mset32 l a w).cops = l.cops := by simp only [mset32, mset8_cops]
@[simp] theorem mset32_rx (l : Lane) (a : Nat) (w : Word) : (mset32 l a w).rx = l.rx := by simp only [mset32, mset8_rx]
@[simp] theorem mset32_slots (l : Lane) (a : Nat) (w : Word) : (mset32 l a w).slots = l.slots := by simp only [mset32, mset8_slots]
@[simp] theorem mset32_inj (l : Lane) (a : Nat) (w : Word) : (mset32 l a w).inj = l.inj := by simp only [mset32, mset8_inj]
@[simp] theorem mset32_cap (l : Lane) (a : Nat) (w : Word) : (mset32 l a w).cap = l.cap := by simp only [mset32, mset8_cap]
@[simp] theorem mset32_buses (l : Lane) (a : Nat) (w : Word) : (mset32 l a w).buses = l.buses := by simp only [mset32, mset8_buses]
@[simp] theorem mset32_grps (l : Lane) (a : Nat) (w : Word) : (mset32 l a w).grps = l.grps := by simp only [mset32, mset8_grps]
@[simp] theorem mset32_di (l : Lane) (a : Nat) (w : Word) : (mset32 l a w).di = l.di := by simp only [mset32, mset8_di]
@[simp] theorem mset32_chans (l : Lane) (a : Nat) (w : Word) : (mset32 l a w).chans = l.chans := by simp only [mset32, mset8_chans]
@[simp] theorem mset32_ins (l : Lane) (a : Nat) (w : Word) : (mset32 l a w).ins = l.ins := by simp only [mset32, mset8_ins]
@[simp] theorem mset32_outs (l : Lane) (a : Nat) (w : Word) : (mset32 l a w).outs = l.outs := by simp only [mset32, mset8_outs]
@[simp] theorem mset32_fage (l : Lane) (a : Nat) (w : Word) : (mset32 l a w).fage = l.fage := by simp only [mset32, mset8_fage]
@[simp] theorem mset32_crdIn (l : Lane) (a : Nat) (w : Word) : (mset32 l a w).crdIn = l.crdIn := by simp only [mset32, mset8_crdIn]
@[simp] theorem mset32_crdTicks (l : Lane) (a : Nat) (w : Word) : (mset32 l a w).crdTicks = l.crdTicks := by simp only [mset32, mset8_crdTicks]
@[simp] theorem mset32_crdFrom (l : Lane) (a : Nat) (w : Word) : (mset32 l a w).crdFrom = l.crdFrom := by simp only [mset32, mset8_crdFrom]
@[simp] theorem mset32_crdSeen (l : Lane) (a : Nat) (w : Word) : (mset32 l a w).crdSeen = l.crdSeen := by simp only [mset32, mset8_crdSeen]
@[simp] theorem mset32_cans (l : Lane) (a : Nat) (w : Word) : (mset32 l a w).cans = l.cans := by simp only [mset32, mset8_cans]
@[simp] theorem mset32_sens (l : Lane) (a : Nat) (w : Word) : (mset32 l a w).sens = l.sens := by simp only [mset32, mset8_sens]
@[simp] theorem mset32_lsteps (l : Lane) (a : Nat) (w : Word) : (mset32 l a w).lsteps = l.lsteps := by simp only [mset32, mset8_lsteps]
@[simp] theorem mset32_ltimes (l : Lane) (a : Nat) (w : Word) : (mset32 l a w).ltimes = l.ltimes := by simp only [mset32, mset8_ltimes]
@[simp] theorem mset32_btimes (l : Lane) (a : Nat) (w : Word) : (mset32 l a w).btimes = l.btimes := by simp only [mset32, mset8_btimes]
@[simp] theorem mset32_shut (l : Lane) (a : Nat) (w : Word) : (mset32 l a w).shut = l.shut := by simp only [mset32, mset8_shut]
@[simp] theorem mset32_shutAt (l : Lane) (a : Nat) (w : Word) : (mset32 l a w).shutAt = l.shutAt := by simp only [mset32, mset8_shutAt]
@[simp] theorem mset32_dormAt (l : Lane) (a : Nat) (w : Word) : (mset32 l a w).dormAt = l.dormAt := by simp only [mset32, mset8_dormAt]
@[simp] theorem mset32_memBad (l : Lane) (a : Nat) (w : Word) : (mset32 l a w).memBad = l.memBad := by simp only [mset32, mset8_memBad]
@[simp] theorem mset32_waitAt (l : Lane) (a : Nat) (w : Word) : (mset32 l a w).waitAt = l.waitAt := by simp only [mset32, mset8_waitAt]
@[simp] theorem mset32_safe (l : Lane) (a : Nat) (w : Word) : (mset32 l a w).safe = l.safe := by simp only [mset32, mset8_safe]
@[simp] theorem mset32_mreq (l : Lane) (a : Nat) (w : Word) : (mset32 l a w).mreq = l.mreq := by simp only [mset32, mset8_mreq]
@[simp] theorem mset32_mtag (l : Lane) (a : Nat) (w : Word) : (mset32 l a w).mtag = l.mtag := by simp only [mset32, mset8_mtag]

@[simp] theorem eccSet_ident (l : Lane) (a : Nat) (e : Ecc) : (eccSet l a e).ident = l.ident := rfl
@[simp] theorem eccSet_powered (l : Lane) (a : Nat) (e : Ecc) : (eccSet l a e).powered = l.powered := rfl
@[simp] theorem eccSet_regs (l : Lane) (a : Nat) (e : Ecc) : (eccSet l a e).regs = l.regs := rfl
@[simp] theorem eccSet_cyc (l : Lane) (a : Nat) (e : Ecc) : (eccSet l a e).cyc = l.cyc := rfl
@[simp] theorem eccSet_mem (l : Lane) (a : Nat) (e : Ecc) : (eccSet l a e).mem = l.mem := rfl
@[simp] theorem eccSet_cores (l : Lane) (a : Nat) (e : Ecc) : (eccSet l a e).cores = l.cores := rfl
@[simp] theorem eccSet_tags (l : Lane) (a : Nat) (e : Ecc) : (eccSet l a e).tags = l.tags := rfl
@[simp] theorem eccSet_engq (l : Lane) (a : Nat) (e : Ecc) : (eccSet l a e).engq = l.engq := rfl
@[simp] theorem eccSet_decl (l : Lane) (a : Nat) (e : Ecc) : (eccSet l a e).decl = l.decl := rfl
@[simp] theorem eccSet_banks (l : Lane) (a : Nat) (e : Ecc) : (eccSet l a e).banks = l.banks := rfl
@[simp] theorem eccSet_image (l : Lane) (a : Nat) (e : Ecc) : (eccSet l a e).image = l.image := rfl
@[simp] theorem eccSet_request (l : Lane) (a : Nat) (e : Ecc) : (eccSet l a e).request = l.request := rfl
@[simp] theorem eccSet_starts (l : Lane) (a : Nat) (e : Ecc) : (eccSet l a e).starts = l.starts := rfl
@[simp] theorem eccSet_items (l : Lane) (a : Nat) (e : Ecc) : (eccSet l a e).items = l.items := rfl
@[simp] theorem eccSet_tb0 (l : Lane) (a : Nat) (e : Ecc) : (eccSet l a e).tb0 = l.tb0 := rfl
@[simp] theorem eccSet_t1n (l : Lane) (a : Nat) (e : Ecc) : (eccSet l a e).t1n = l.t1n := rfl
@[simp] theorem eccSet_vis (l : Lane) (a : Nat) (e : Ecc) : (eccSet l a e).vis = l.vis := rfl
@[simp] theorem eccSet_late (l : Lane) (a : Nat) (e : Ecc) : (eccSet l a e).late = l.late := rfl
@[simp] theorem eccSet_rep (l : Lane) (a : Nat) (e : Ecc) : (eccSet l a e).rep = l.rep := rfl
@[simp] theorem eccSet_peat (l : Lane) (a : Nat) (e : Ecc) : (eccSet l a e).peat = l.peat := rfl
@[simp] theorem eccSet_peatQ (l : Lane) (a : Nat) (e : Ecc) : (eccSet l a e).peatQ = l.peatQ := rfl
@[simp] theorem eccSet_dormReq (l : Lane) (a : Nat) (e : Ecc) : (eccSet l a e).dormReq = l.dormReq := rfl
@[simp] theorem eccSet_wasIdle (l : Lane) (a : Nat) (e : Ecc) : (eccSet l a e).wasIdle = l.wasIdle := rfl
@[simp] theorem eccSet_pllTry (l : Lane) (a : Nat) (e : Ecc) : (eccSet l a e).pllTry = l.pllTry := rfl
@[simp] theorem eccSet_pllBad (l : Lane) (a : Nat) (e : Ecc) : (eccSet l a e).pllBad = l.pllBad := rfl
@[simp] theorem eccSet_units (l : Lane) (a : Nat) (e : Ecc) : (eccSet l a e).units = l.units := rfl
@[simp] theorem eccSet_yields (l : Lane) (a : Nat) (e : Ecc) : (eccSet l a e).yields = l.yields := rfl
@[simp] theorem eccSet_waitPeer (l : Lane) (a : Nat) (e : Ecc) : (eccSet l a e).waitPeer = l.waitPeer := rfl
@[simp] theorem eccSet_bootLeft (l : Lane) (a : Nat) (e : Ecc) : (eccSet l a e).bootLeft = l.bootLeft := rfl
@[simp] theorem eccSet_ship (l : Lane) (a : Nat) (e : Ecc) : (eccSet l a e).ship = l.ship := rfl
@[simp] theorem eccSet_shipRate (l : Lane) (a : Nat) (e : Ecc) : (eccSet l a e).shipRate = l.shipRate := rfl
@[simp] theorem eccSet_slewNs (l : Lane) (a : Nat) (e : Ecc) : (eccSet l a e).slewNs = l.slewNs := rfl
@[simp] theorem eccSet_slewT (l : Lane) (a : Nat) (e : Ecc) : (eccSet l a e).slewT = l.slewT := rfl
@[simp] theorem eccSet_shipLog (l : Lane) (a : Nat) (e : Ecc) : (eccSet l a e).shipLog = l.shipLog := rfl
@[simp] theorem eccSet_emb (l : Lane) (a : Nat) (e : Ecc) : (eccSet l a e).emb = l.emb := rfl
@[simp] theorem eccSet_embShip (l : Lane) (a : Nat) (e : Ecc) : (eccSet l a e).embShip = l.embShip := rfl
@[simp] theorem eccSet_eccN (l : Lane) (a : Nat) (e : Ecc) : (eccSet l a e).eccN = l.eccN := rfl
@[simp] theorem eccSet_out (l : Lane) (a : Nat) (e : Ecc) : (eccSet l a e).out = l.out := rfl
@[simp] theorem eccSet_axes (l : Lane) (a : Nat) (e : Ecc) : (eccSet l a e).axes = l.axes := rfl
@[simp] theorem eccSet_legs (l : Lane) (a : Nat) (e : Ecc) : (eccSet l a e).legs = l.legs := rfl
@[simp] theorem eccSet_cops (l : Lane) (a : Nat) (e : Ecc) : (eccSet l a e).cops = l.cops := rfl
@[simp] theorem eccSet_rx (l : Lane) (a : Nat) (e : Ecc) : (eccSet l a e).rx = l.rx := rfl
@[simp] theorem eccSet_slots (l : Lane) (a : Nat) (e : Ecc) : (eccSet l a e).slots = l.slots := rfl
@[simp] theorem eccSet_inj (l : Lane) (a : Nat) (e : Ecc) : (eccSet l a e).inj = l.inj := rfl
@[simp] theorem eccSet_cap (l : Lane) (a : Nat) (e : Ecc) : (eccSet l a e).cap = l.cap := rfl
@[simp] theorem eccSet_buses (l : Lane) (a : Nat) (e : Ecc) : (eccSet l a e).buses = l.buses := rfl
@[simp] theorem eccSet_grps (l : Lane) (a : Nat) (e : Ecc) : (eccSet l a e).grps = l.grps := rfl
@[simp] theorem eccSet_di (l : Lane) (a : Nat) (e : Ecc) : (eccSet l a e).di = l.di := rfl
@[simp] theorem eccSet_chans (l : Lane) (a : Nat) (e : Ecc) : (eccSet l a e).chans = l.chans := rfl
@[simp] theorem eccSet_ins (l : Lane) (a : Nat) (e : Ecc) : (eccSet l a e).ins = l.ins := rfl
@[simp] theorem eccSet_outs (l : Lane) (a : Nat) (e : Ecc) : (eccSet l a e).outs = l.outs := rfl
@[simp] theorem eccSet_fage (l : Lane) (a : Nat) (e : Ecc) : (eccSet l a e).fage = l.fage := rfl
@[simp] theorem eccSet_crdIn (l : Lane) (a : Nat) (e : Ecc) : (eccSet l a e).crdIn = l.crdIn := rfl
@[simp] theorem eccSet_crdTicks (l : Lane) (a : Nat) (e : Ecc) : (eccSet l a e).crdTicks = l.crdTicks := rfl
@[simp] theorem eccSet_crdFrom (l : Lane) (a : Nat) (e : Ecc) : (eccSet l a e).crdFrom = l.crdFrom := rfl
@[simp] theorem eccSet_crdSeen (l : Lane) (a : Nat) (e : Ecc) : (eccSet l a e).crdSeen = l.crdSeen := rfl
@[simp] theorem eccSet_cans (l : Lane) (a : Nat) (e : Ecc) : (eccSet l a e).cans = l.cans := rfl
@[simp] theorem eccSet_sens (l : Lane) (a : Nat) (e : Ecc) : (eccSet l a e).sens = l.sens := rfl
@[simp] theorem eccSet_lsteps (l : Lane) (a : Nat) (e : Ecc) : (eccSet l a e).lsteps = l.lsteps := rfl
@[simp] theorem eccSet_ltimes (l : Lane) (a : Nat) (e : Ecc) : (eccSet l a e).ltimes = l.ltimes := rfl
@[simp] theorem eccSet_btimes (l : Lane) (a : Nat) (e : Ecc) : (eccSet l a e).btimes = l.btimes := rfl
@[simp] theorem eccSet_shut (l : Lane) (a : Nat) (e : Ecc) : (eccSet l a e).shut = l.shut := rfl
@[simp] theorem eccSet_shutAt (l : Lane) (a : Nat) (e : Ecc) : (eccSet l a e).shutAt = l.shutAt := rfl
@[simp] theorem eccSet_dormAt (l : Lane) (a : Nat) (e : Ecc) : (eccSet l a e).dormAt = l.dormAt := rfl
@[simp] theorem eccSet_memBad (l : Lane) (a : Nat) (e : Ecc) : (eccSet l a e).memBad = l.memBad := rfl
@[simp] theorem eccSet_waitAt (l : Lane) (a : Nat) (e : Ecc) : (eccSet l a e).waitAt = l.waitAt := rfl
@[simp] theorem eccSet_safe (l : Lane) (a : Nat) (e : Ecc) : (eccSet l a e).safe = l.safe := rfl
@[simp] theorem eccSet_mreq (l : Lane) (a : Nat) (e : Ecc) : (eccSet l a e).mreq = l.mreq := rfl
@[simp] theorem eccSet_mtag (l : Lane) (a : Nat) (e : Ecc) : (eccSet l a e).mtag = l.mtag := rfl

@[simp] theorem ask_ident (l : Lane) (r : LaneReq) : (ask l r).ident = l.ident := rfl
@[simp] theorem ask_powered (l : Lane) (r : LaneReq) : (ask l r).powered = l.powered := rfl
@[simp] theorem ask_regs (l : Lane) (r : LaneReq) : (ask l r).regs = l.regs := rfl
@[simp] theorem ask_cyc (l : Lane) (r : LaneReq) : (ask l r).cyc = l.cyc := rfl
@[simp] theorem ask_mem (l : Lane) (r : LaneReq) : (ask l r).mem = l.mem := rfl
@[simp] theorem ask_ecc (l : Lane) (r : LaneReq) : (ask l r).ecc = l.ecc := rfl
@[simp] theorem ask_cores (l : Lane) (r : LaneReq) : (ask l r).cores = l.cores := rfl
@[simp] theorem ask_tags (l : Lane) (r : LaneReq) : (ask l r).tags = l.tags := rfl
@[simp] theorem ask_engq (l : Lane) (r : LaneReq) : (ask l r).engq = l.engq := rfl
@[simp] theorem ask_decl (l : Lane) (r : LaneReq) : (ask l r).decl = l.decl := rfl
@[simp] theorem ask_banks (l : Lane) (r : LaneReq) : (ask l r).banks = l.banks := rfl
@[simp] theorem ask_image (l : Lane) (r : LaneReq) : (ask l r).image = l.image := rfl
@[simp] theorem ask_request (l : Lane) (r : LaneReq) : (ask l r).request = l.request := rfl
@[simp] theorem ask_starts (l : Lane) (r : LaneReq) : (ask l r).starts = l.starts := rfl
@[simp] theorem ask_items (l : Lane) (r : LaneReq) : (ask l r).items = l.items := rfl
@[simp] theorem ask_tb0 (l : Lane) (r : LaneReq) : (ask l r).tb0 = l.tb0 := rfl
@[simp] theorem ask_t1n (l : Lane) (r : LaneReq) : (ask l r).t1n = l.t1n := rfl
@[simp] theorem ask_vis (l : Lane) (r : LaneReq) : (ask l r).vis = l.vis := rfl
@[simp] theorem ask_late (l : Lane) (r : LaneReq) : (ask l r).late = l.late := rfl
@[simp] theorem ask_rep (l : Lane) (r : LaneReq) : (ask l r).rep = l.rep := rfl
@[simp] theorem ask_peat (l : Lane) (r : LaneReq) : (ask l r).peat = l.peat := rfl
@[simp] theorem ask_peatQ (l : Lane) (r : LaneReq) : (ask l r).peatQ = l.peatQ := rfl
@[simp] theorem ask_dormReq (l : Lane) (r : LaneReq) : (ask l r).dormReq = l.dormReq := rfl
@[simp] theorem ask_wasIdle (l : Lane) (r : LaneReq) : (ask l r).wasIdle = l.wasIdle := rfl
@[simp] theorem ask_pllTry (l : Lane) (r : LaneReq) : (ask l r).pllTry = l.pllTry := rfl
@[simp] theorem ask_pllBad (l : Lane) (r : LaneReq) : (ask l r).pllBad = l.pllBad := rfl
@[simp] theorem ask_units (l : Lane) (r : LaneReq) : (ask l r).units = l.units := rfl
@[simp] theorem ask_yields (l : Lane) (r : LaneReq) : (ask l r).yields = l.yields := rfl
@[simp] theorem ask_waitPeer (l : Lane) (r : LaneReq) : (ask l r).waitPeer = l.waitPeer := rfl
@[simp] theorem ask_bootLeft (l : Lane) (r : LaneReq) : (ask l r).bootLeft = l.bootLeft := rfl
@[simp] theorem ask_ship (l : Lane) (r : LaneReq) : (ask l r).ship = l.ship := rfl
@[simp] theorem ask_shipRate (l : Lane) (r : LaneReq) : (ask l r).shipRate = l.shipRate := rfl
@[simp] theorem ask_slewNs (l : Lane) (r : LaneReq) : (ask l r).slewNs = l.slewNs := rfl
@[simp] theorem ask_slewT (l : Lane) (r : LaneReq) : (ask l r).slewT = l.slewT := rfl
@[simp] theorem ask_shipLog (l : Lane) (r : LaneReq) : (ask l r).shipLog = l.shipLog := rfl
@[simp] theorem ask_emb (l : Lane) (r : LaneReq) : (ask l r).emb = l.emb := rfl
@[simp] theorem ask_embShip (l : Lane) (r : LaneReq) : (ask l r).embShip = l.embShip := rfl
@[simp] theorem ask_eccN (l : Lane) (r : LaneReq) : (ask l r).eccN = l.eccN := rfl
@[simp] theorem ask_axes (l : Lane) (r : LaneReq) : (ask l r).axes = l.axes := rfl
@[simp] theorem ask_legs (l : Lane) (r : LaneReq) : (ask l r).legs = l.legs := rfl
@[simp] theorem ask_cops (l : Lane) (r : LaneReq) : (ask l r).cops = l.cops := rfl
@[simp] theorem ask_rx (l : Lane) (r : LaneReq) : (ask l r).rx = l.rx := rfl
@[simp] theorem ask_slots (l : Lane) (r : LaneReq) : (ask l r).slots = l.slots := rfl
@[simp] theorem ask_inj (l : Lane) (r : LaneReq) : (ask l r).inj = l.inj := rfl
@[simp] theorem ask_cap (l : Lane) (r : LaneReq) : (ask l r).cap = l.cap := rfl
@[simp] theorem ask_buses (l : Lane) (r : LaneReq) : (ask l r).buses = l.buses := rfl
@[simp] theorem ask_grps (l : Lane) (r : LaneReq) : (ask l r).grps = l.grps := rfl
@[simp] theorem ask_di (l : Lane) (r : LaneReq) : (ask l r).di = l.di := rfl
@[simp] theorem ask_chans (l : Lane) (r : LaneReq) : (ask l r).chans = l.chans := rfl
@[simp] theorem ask_ins (l : Lane) (r : LaneReq) : (ask l r).ins = l.ins := rfl
@[simp] theorem ask_outs (l : Lane) (r : LaneReq) : (ask l r).outs = l.outs := rfl
@[simp] theorem ask_fage (l : Lane) (r : LaneReq) : (ask l r).fage = l.fage := rfl
@[simp] theorem ask_crdIn (l : Lane) (r : LaneReq) : (ask l r).crdIn = l.crdIn := rfl
@[simp] theorem ask_crdTicks (l : Lane) (r : LaneReq) : (ask l r).crdTicks = l.crdTicks := rfl
@[simp] theorem ask_crdFrom (l : Lane) (r : LaneReq) : (ask l r).crdFrom = l.crdFrom := rfl
@[simp] theorem ask_crdSeen (l : Lane) (r : LaneReq) : (ask l r).crdSeen = l.crdSeen := rfl
@[simp] theorem ask_cans (l : Lane) (r : LaneReq) : (ask l r).cans = l.cans := rfl
@[simp] theorem ask_sens (l : Lane) (r : LaneReq) : (ask l r).sens = l.sens := rfl
@[simp] theorem ask_lsteps (l : Lane) (r : LaneReq) : (ask l r).lsteps = l.lsteps := rfl
@[simp] theorem ask_ltimes (l : Lane) (r : LaneReq) : (ask l r).ltimes = l.ltimes := rfl
@[simp] theorem ask_btimes (l : Lane) (r : LaneReq) : (ask l r).btimes = l.btimes := rfl
@[simp] theorem ask_shut (l : Lane) (r : LaneReq) : (ask l r).shut = l.shut := rfl
@[simp] theorem ask_shutAt (l : Lane) (r : LaneReq) : (ask l r).shutAt = l.shutAt := rfl
@[simp] theorem ask_dormAt (l : Lane) (r : LaneReq) : (ask l r).dormAt = l.dormAt := rfl
@[simp] theorem ask_memBad (l : Lane) (r : LaneReq) : (ask l r).memBad = l.memBad := rfl
@[simp] theorem ask_waitAt (l : Lane) (r : LaneReq) : (ask l r).waitAt = l.waitAt := rfl
@[simp] theorem ask_safe (l : Lane) (r : LaneReq) : (ask l r).safe = l.safe := rfl
@[simp] theorem ask_mreq (l : Lane) (r : LaneReq) : (ask l r).mreq = l.mreq := rfl
@[simp] theorem ask_mtag (l : Lane) (r : LaneReq) : (ask l r).mtag = l.mtag := rfl

@[simp] theorem putCore_ident (l : Lane) (c : Fin 4) (k : Core) : (putCore l c k).ident = l.ident := rfl
@[simp] theorem putCore_powered (l : Lane) (c : Fin 4) (k : Core) : (putCore l c k).powered = l.powered := rfl
@[simp] theorem putCore_regs (l : Lane) (c : Fin 4) (k : Core) : (putCore l c k).regs = l.regs := rfl
@[simp] theorem putCore_cyc (l : Lane) (c : Fin 4) (k : Core) : (putCore l c k).cyc = l.cyc := rfl
@[simp] theorem putCore_mem (l : Lane) (c : Fin 4) (k : Core) : (putCore l c k).mem = l.mem := rfl
@[simp] theorem putCore_ecc (l : Lane) (c : Fin 4) (k : Core) : (putCore l c k).ecc = l.ecc := rfl
@[simp] theorem putCore_tags (l : Lane) (c : Fin 4) (k : Core) : (putCore l c k).tags = l.tags := rfl
@[simp] theorem putCore_engq (l : Lane) (c : Fin 4) (k : Core) : (putCore l c k).engq = l.engq := rfl
@[simp] theorem putCore_decl (l : Lane) (c : Fin 4) (k : Core) : (putCore l c k).decl = l.decl := rfl
@[simp] theorem putCore_banks (l : Lane) (c : Fin 4) (k : Core) : (putCore l c k).banks = l.banks := rfl
@[simp] theorem putCore_image (l : Lane) (c : Fin 4) (k : Core) : (putCore l c k).image = l.image := rfl
@[simp] theorem putCore_request (l : Lane) (c : Fin 4) (k : Core) : (putCore l c k).request = l.request := rfl
@[simp] theorem putCore_starts (l : Lane) (c : Fin 4) (k : Core) : (putCore l c k).starts = l.starts := rfl
@[simp] theorem putCore_items (l : Lane) (c : Fin 4) (k : Core) : (putCore l c k).items = l.items := rfl
@[simp] theorem putCore_tb0 (l : Lane) (c : Fin 4) (k : Core) : (putCore l c k).tb0 = l.tb0 := rfl
@[simp] theorem putCore_t1n (l : Lane) (c : Fin 4) (k : Core) : (putCore l c k).t1n = l.t1n := rfl
@[simp] theorem putCore_vis (l : Lane) (c : Fin 4) (k : Core) : (putCore l c k).vis = l.vis := rfl
@[simp] theorem putCore_late (l : Lane) (c : Fin 4) (k : Core) : (putCore l c k).late = l.late := rfl
@[simp] theorem putCore_rep (l : Lane) (c : Fin 4) (k : Core) : (putCore l c k).rep = l.rep := rfl
@[simp] theorem putCore_peat (l : Lane) (c : Fin 4) (k : Core) : (putCore l c k).peat = l.peat := rfl
@[simp] theorem putCore_peatQ (l : Lane) (c : Fin 4) (k : Core) : (putCore l c k).peatQ = l.peatQ := rfl
@[simp] theorem putCore_dormReq (l : Lane) (c : Fin 4) (k : Core) : (putCore l c k).dormReq = l.dormReq := rfl
@[simp] theorem putCore_wasIdle (l : Lane) (c : Fin 4) (k : Core) : (putCore l c k).wasIdle = l.wasIdle := rfl
@[simp] theorem putCore_pllTry (l : Lane) (c : Fin 4) (k : Core) : (putCore l c k).pllTry = l.pllTry := rfl
@[simp] theorem putCore_pllBad (l : Lane) (c : Fin 4) (k : Core) : (putCore l c k).pllBad = l.pllBad := rfl
@[simp] theorem putCore_units (l : Lane) (c : Fin 4) (k : Core) : (putCore l c k).units = l.units := rfl
@[simp] theorem putCore_yields (l : Lane) (c : Fin 4) (k : Core) : (putCore l c k).yields = l.yields := rfl
@[simp] theorem putCore_waitPeer (l : Lane) (c : Fin 4) (k : Core) : (putCore l c k).waitPeer = l.waitPeer := rfl
@[simp] theorem putCore_bootLeft (l : Lane) (c : Fin 4) (k : Core) : (putCore l c k).bootLeft = l.bootLeft := rfl
@[simp] theorem putCore_ship (l : Lane) (c : Fin 4) (k : Core) : (putCore l c k).ship = l.ship := rfl
@[simp] theorem putCore_shipRate (l : Lane) (c : Fin 4) (k : Core) : (putCore l c k).shipRate = l.shipRate := rfl
@[simp] theorem putCore_slewNs (l : Lane) (c : Fin 4) (k : Core) : (putCore l c k).slewNs = l.slewNs := rfl
@[simp] theorem putCore_slewT (l : Lane) (c : Fin 4) (k : Core) : (putCore l c k).slewT = l.slewT := rfl
@[simp] theorem putCore_shipLog (l : Lane) (c : Fin 4) (k : Core) : (putCore l c k).shipLog = l.shipLog := rfl
@[simp] theorem putCore_emb (l : Lane) (c : Fin 4) (k : Core) : (putCore l c k).emb = l.emb := rfl
@[simp] theorem putCore_embShip (l : Lane) (c : Fin 4) (k : Core) : (putCore l c k).embShip = l.embShip := rfl
@[simp] theorem putCore_eccN (l : Lane) (c : Fin 4) (k : Core) : (putCore l c k).eccN = l.eccN := rfl
@[simp] theorem putCore_out (l : Lane) (c : Fin 4) (k : Core) : (putCore l c k).out = l.out := rfl
@[simp] theorem putCore_axes (l : Lane) (c : Fin 4) (k : Core) : (putCore l c k).axes = l.axes := rfl
@[simp] theorem putCore_legs (l : Lane) (c : Fin 4) (k : Core) : (putCore l c k).legs = l.legs := rfl
@[simp] theorem putCore_cops (l : Lane) (c : Fin 4) (k : Core) : (putCore l c k).cops = l.cops := rfl
@[simp] theorem putCore_rx (l : Lane) (c : Fin 4) (k : Core) : (putCore l c k).rx = l.rx := rfl
@[simp] theorem putCore_slots (l : Lane) (c : Fin 4) (k : Core) : (putCore l c k).slots = l.slots := rfl
@[simp] theorem putCore_inj (l : Lane) (c : Fin 4) (k : Core) : (putCore l c k).inj = l.inj := rfl
@[simp] theorem putCore_cap (l : Lane) (c : Fin 4) (k : Core) : (putCore l c k).cap = l.cap := rfl
@[simp] theorem putCore_buses (l : Lane) (c : Fin 4) (k : Core) : (putCore l c k).buses = l.buses := rfl
@[simp] theorem putCore_grps (l : Lane) (c : Fin 4) (k : Core) : (putCore l c k).grps = l.grps := rfl
@[simp] theorem putCore_di (l : Lane) (c : Fin 4) (k : Core) : (putCore l c k).di = l.di := rfl
@[simp] theorem putCore_chans (l : Lane) (c : Fin 4) (k : Core) : (putCore l c k).chans = l.chans := rfl
@[simp] theorem putCore_ins (l : Lane) (c : Fin 4) (k : Core) : (putCore l c k).ins = l.ins := rfl
@[simp] theorem putCore_outs (l : Lane) (c : Fin 4) (k : Core) : (putCore l c k).outs = l.outs := rfl
@[simp] theorem putCore_fage (l : Lane) (c : Fin 4) (k : Core) : (putCore l c k).fage = l.fage := rfl
@[simp] theorem putCore_crdIn (l : Lane) (c : Fin 4) (k : Core) : (putCore l c k).crdIn = l.crdIn := rfl
@[simp] theorem putCore_crdTicks (l : Lane) (c : Fin 4) (k : Core) : (putCore l c k).crdTicks = l.crdTicks := rfl
@[simp] theorem putCore_crdFrom (l : Lane) (c : Fin 4) (k : Core) : (putCore l c k).crdFrom = l.crdFrom := rfl
@[simp] theorem putCore_crdSeen (l : Lane) (c : Fin 4) (k : Core) : (putCore l c k).crdSeen = l.crdSeen := rfl
@[simp] theorem putCore_cans (l : Lane) (c : Fin 4) (k : Core) : (putCore l c k).cans = l.cans := rfl
@[simp] theorem putCore_sens (l : Lane) (c : Fin 4) (k : Core) : (putCore l c k).sens = l.sens := rfl
@[simp] theorem putCore_lsteps (l : Lane) (c : Fin 4) (k : Core) : (putCore l c k).lsteps = l.lsteps := rfl
@[simp] theorem putCore_ltimes (l : Lane) (c : Fin 4) (k : Core) : (putCore l c k).ltimes = l.ltimes := rfl
@[simp] theorem putCore_btimes (l : Lane) (c : Fin 4) (k : Core) : (putCore l c k).btimes = l.btimes := rfl
@[simp] theorem putCore_shut (l : Lane) (c : Fin 4) (k : Core) : (putCore l c k).shut = l.shut := rfl
@[simp] theorem putCore_shutAt (l : Lane) (c : Fin 4) (k : Core) : (putCore l c k).shutAt = l.shutAt := rfl
@[simp] theorem putCore_dormAt (l : Lane) (c : Fin 4) (k : Core) : (putCore l c k).dormAt = l.dormAt := rfl
@[simp] theorem putCore_memBad (l : Lane) (c : Fin 4) (k : Core) : (putCore l c k).memBad = l.memBad := rfl
@[simp] theorem putCore_waitAt (l : Lane) (c : Fin 4) (k : Core) : (putCore l c k).waitAt = l.waitAt := rfl
@[simp] theorem putCore_safe (l : Lane) (c : Fin 4) (k : Core) : (putCore l c k).safe = l.safe := rfl
@[simp] theorem putCore_mreq (l : Lane) (c : Fin 4) (k : Core) : (putCore l c k).mreq = l.mreq := rfl
@[simp] theorem putCore_mtag (l : Lane) (c : Fin 4) (k : Core) : (putCore l c k).mtag = l.mtag := rfl

@[simp] theorem putTask_ident (l : Lane) (c : Fin 4) (k : Fin 16) (x : TaskCtx) : (putTask l c k x).ident = l.ident := rfl
@[simp] theorem putTask_powered (l : Lane) (c : Fin 4) (k : Fin 16) (x : TaskCtx) : (putTask l c k x).powered = l.powered := rfl
@[simp] theorem putTask_regs (l : Lane) (c : Fin 4) (k : Fin 16) (x : TaskCtx) : (putTask l c k x).regs = l.regs := rfl
@[simp] theorem putTask_cyc (l : Lane) (c : Fin 4) (k : Fin 16) (x : TaskCtx) : (putTask l c k x).cyc = l.cyc := rfl
@[simp] theorem putTask_mem (l : Lane) (c : Fin 4) (k : Fin 16) (x : TaskCtx) : (putTask l c k x).mem = l.mem := rfl
@[simp] theorem putTask_ecc (l : Lane) (c : Fin 4) (k : Fin 16) (x : TaskCtx) : (putTask l c k x).ecc = l.ecc := rfl
@[simp] theorem putTask_tags (l : Lane) (c : Fin 4) (k : Fin 16) (x : TaskCtx) : (putTask l c k x).tags = l.tags := rfl
@[simp] theorem putTask_engq (l : Lane) (c : Fin 4) (k : Fin 16) (x : TaskCtx) : (putTask l c k x).engq = l.engq := rfl
@[simp] theorem putTask_decl (l : Lane) (c : Fin 4) (k : Fin 16) (x : TaskCtx) : (putTask l c k x).decl = l.decl := rfl
@[simp] theorem putTask_banks (l : Lane) (c : Fin 4) (k : Fin 16) (x : TaskCtx) : (putTask l c k x).banks = l.banks := rfl
@[simp] theorem putTask_image (l : Lane) (c : Fin 4) (k : Fin 16) (x : TaskCtx) : (putTask l c k x).image = l.image := rfl
@[simp] theorem putTask_request (l : Lane) (c : Fin 4) (k : Fin 16) (x : TaskCtx) : (putTask l c k x).request = l.request := rfl
@[simp] theorem putTask_starts (l : Lane) (c : Fin 4) (k : Fin 16) (x : TaskCtx) : (putTask l c k x).starts = l.starts := rfl
@[simp] theorem putTask_items (l : Lane) (c : Fin 4) (k : Fin 16) (x : TaskCtx) : (putTask l c k x).items = l.items := rfl
@[simp] theorem putTask_tb0 (l : Lane) (c : Fin 4) (k : Fin 16) (x : TaskCtx) : (putTask l c k x).tb0 = l.tb0 := rfl
@[simp] theorem putTask_t1n (l : Lane) (c : Fin 4) (k : Fin 16) (x : TaskCtx) : (putTask l c k x).t1n = l.t1n := rfl
@[simp] theorem putTask_vis (l : Lane) (c : Fin 4) (k : Fin 16) (x : TaskCtx) : (putTask l c k x).vis = l.vis := rfl
@[simp] theorem putTask_late (l : Lane) (c : Fin 4) (k : Fin 16) (x : TaskCtx) : (putTask l c k x).late = l.late := rfl
@[simp] theorem putTask_rep (l : Lane) (c : Fin 4) (k : Fin 16) (x : TaskCtx) : (putTask l c k x).rep = l.rep := rfl
@[simp] theorem putTask_peat (l : Lane) (c : Fin 4) (k : Fin 16) (x : TaskCtx) : (putTask l c k x).peat = l.peat := rfl
@[simp] theorem putTask_peatQ (l : Lane) (c : Fin 4) (k : Fin 16) (x : TaskCtx) : (putTask l c k x).peatQ = l.peatQ := rfl
@[simp] theorem putTask_dormReq (l : Lane) (c : Fin 4) (k : Fin 16) (x : TaskCtx) : (putTask l c k x).dormReq = l.dormReq := rfl
@[simp] theorem putTask_wasIdle (l : Lane) (c : Fin 4) (k : Fin 16) (x : TaskCtx) : (putTask l c k x).wasIdle = l.wasIdle := rfl
@[simp] theorem putTask_pllTry (l : Lane) (c : Fin 4) (k : Fin 16) (x : TaskCtx) : (putTask l c k x).pllTry = l.pllTry := rfl
@[simp] theorem putTask_pllBad (l : Lane) (c : Fin 4) (k : Fin 16) (x : TaskCtx) : (putTask l c k x).pllBad = l.pllBad := rfl
@[simp] theorem putTask_units (l : Lane) (c : Fin 4) (k : Fin 16) (x : TaskCtx) : (putTask l c k x).units = l.units := rfl
@[simp] theorem putTask_yields (l : Lane) (c : Fin 4) (k : Fin 16) (x : TaskCtx) : (putTask l c k x).yields = l.yields := rfl
@[simp] theorem putTask_waitPeer (l : Lane) (c : Fin 4) (k : Fin 16) (x : TaskCtx) : (putTask l c k x).waitPeer = l.waitPeer := rfl
@[simp] theorem putTask_bootLeft (l : Lane) (c : Fin 4) (k : Fin 16) (x : TaskCtx) : (putTask l c k x).bootLeft = l.bootLeft := rfl
@[simp] theorem putTask_ship (l : Lane) (c : Fin 4) (k : Fin 16) (x : TaskCtx) : (putTask l c k x).ship = l.ship := rfl
@[simp] theorem putTask_shipRate (l : Lane) (c : Fin 4) (k : Fin 16) (x : TaskCtx) : (putTask l c k x).shipRate = l.shipRate := rfl
@[simp] theorem putTask_slewNs (l : Lane) (c : Fin 4) (k : Fin 16) (x : TaskCtx) : (putTask l c k x).slewNs = l.slewNs := rfl
@[simp] theorem putTask_slewT (l : Lane) (c : Fin 4) (k : Fin 16) (x : TaskCtx) : (putTask l c k x).slewT = l.slewT := rfl
@[simp] theorem putTask_shipLog (l : Lane) (c : Fin 4) (k : Fin 16) (x : TaskCtx) : (putTask l c k x).shipLog = l.shipLog := rfl
@[simp] theorem putTask_emb (l : Lane) (c : Fin 4) (k : Fin 16) (x : TaskCtx) : (putTask l c k x).emb = l.emb := rfl
@[simp] theorem putTask_embShip (l : Lane) (c : Fin 4) (k : Fin 16) (x : TaskCtx) : (putTask l c k x).embShip = l.embShip := rfl
@[simp] theorem putTask_eccN (l : Lane) (c : Fin 4) (k : Fin 16) (x : TaskCtx) : (putTask l c k x).eccN = l.eccN := rfl
@[simp] theorem putTask_out (l : Lane) (c : Fin 4) (k : Fin 16) (x : TaskCtx) : (putTask l c k x).out = l.out := rfl
@[simp] theorem putTask_axes (l : Lane) (c : Fin 4) (k : Fin 16) (x : TaskCtx) : (putTask l c k x).axes = l.axes := rfl
@[simp] theorem putTask_legs (l : Lane) (c : Fin 4) (k : Fin 16) (x : TaskCtx) : (putTask l c k x).legs = l.legs := rfl
@[simp] theorem putTask_cops (l : Lane) (c : Fin 4) (k : Fin 16) (x : TaskCtx) : (putTask l c k x).cops = l.cops := rfl
@[simp] theorem putTask_rx (l : Lane) (c : Fin 4) (k : Fin 16) (x : TaskCtx) : (putTask l c k x).rx = l.rx := rfl
@[simp] theorem putTask_slots (l : Lane) (c : Fin 4) (k : Fin 16) (x : TaskCtx) : (putTask l c k x).slots = l.slots := rfl
@[simp] theorem putTask_inj (l : Lane) (c : Fin 4) (k : Fin 16) (x : TaskCtx) : (putTask l c k x).inj = l.inj := rfl
@[simp] theorem putTask_cap (l : Lane) (c : Fin 4) (k : Fin 16) (x : TaskCtx) : (putTask l c k x).cap = l.cap := rfl
@[simp] theorem putTask_buses (l : Lane) (c : Fin 4) (k : Fin 16) (x : TaskCtx) : (putTask l c k x).buses = l.buses := rfl
@[simp] theorem putTask_grps (l : Lane) (c : Fin 4) (k : Fin 16) (x : TaskCtx) : (putTask l c k x).grps = l.grps := rfl
@[simp] theorem putTask_di (l : Lane) (c : Fin 4) (k : Fin 16) (x : TaskCtx) : (putTask l c k x).di = l.di := rfl
@[simp] theorem putTask_chans (l : Lane) (c : Fin 4) (k : Fin 16) (x : TaskCtx) : (putTask l c k x).chans = l.chans := rfl
@[simp] theorem putTask_ins (l : Lane) (c : Fin 4) (k : Fin 16) (x : TaskCtx) : (putTask l c k x).ins = l.ins := rfl
@[simp] theorem putTask_outs (l : Lane) (c : Fin 4) (k : Fin 16) (x : TaskCtx) : (putTask l c k x).outs = l.outs := rfl
@[simp] theorem putTask_fage (l : Lane) (c : Fin 4) (k : Fin 16) (x : TaskCtx) : (putTask l c k x).fage = l.fage := rfl
@[simp] theorem putTask_crdIn (l : Lane) (c : Fin 4) (k : Fin 16) (x : TaskCtx) : (putTask l c k x).crdIn = l.crdIn := rfl
@[simp] theorem putTask_crdTicks (l : Lane) (c : Fin 4) (k : Fin 16) (x : TaskCtx) : (putTask l c k x).crdTicks = l.crdTicks := rfl
@[simp] theorem putTask_crdFrom (l : Lane) (c : Fin 4) (k : Fin 16) (x : TaskCtx) : (putTask l c k x).crdFrom = l.crdFrom := rfl
@[simp] theorem putTask_crdSeen (l : Lane) (c : Fin 4) (k : Fin 16) (x : TaskCtx) : (putTask l c k x).crdSeen = l.crdSeen := rfl
@[simp] theorem putTask_cans (l : Lane) (c : Fin 4) (k : Fin 16) (x : TaskCtx) : (putTask l c k x).cans = l.cans := rfl
@[simp] theorem putTask_sens (l : Lane) (c : Fin 4) (k : Fin 16) (x : TaskCtx) : (putTask l c k x).sens = l.sens := rfl
@[simp] theorem putTask_lsteps (l : Lane) (c : Fin 4) (k : Fin 16) (x : TaskCtx) : (putTask l c k x).lsteps = l.lsteps := rfl
@[simp] theorem putTask_ltimes (l : Lane) (c : Fin 4) (k : Fin 16) (x : TaskCtx) : (putTask l c k x).ltimes = l.ltimes := rfl
@[simp] theorem putTask_btimes (l : Lane) (c : Fin 4) (k : Fin 16) (x : TaskCtx) : (putTask l c k x).btimes = l.btimes := rfl
@[simp] theorem putTask_shut (l : Lane) (c : Fin 4) (k : Fin 16) (x : TaskCtx) : (putTask l c k x).shut = l.shut := rfl
@[simp] theorem putTask_shutAt (l : Lane) (c : Fin 4) (k : Fin 16) (x : TaskCtx) : (putTask l c k x).shutAt = l.shutAt := rfl
@[simp] theorem putTask_dormAt (l : Lane) (c : Fin 4) (k : Fin 16) (x : TaskCtx) : (putTask l c k x).dormAt = l.dormAt := rfl
@[simp] theorem putTask_memBad (l : Lane) (c : Fin 4) (k : Fin 16) (x : TaskCtx) : (putTask l c k x).memBad = l.memBad := rfl
@[simp] theorem putTask_waitAt (l : Lane) (c : Fin 4) (k : Fin 16) (x : TaskCtx) : (putTask l c k x).waitAt = l.waitAt := rfl
@[simp] theorem putTask_safe (l : Lane) (c : Fin 4) (k : Fin 16) (x : TaskCtx) : (putTask l c k x).safe = l.safe := rfl
@[simp] theorem putTask_mreq (l : Lane) (c : Fin 4) (k : Fin 16) (x : TaskCtx) : (putTask l c k x).mreq = l.mreq := rfl
@[simp] theorem putTask_mtag (l : Lane) (c : Fin 4) (k : Fin 16) (x : TaskCtx) : (putTask l c k x).mtag = l.mtag := rfl

@[simp] theorem putCur_ident (l : Lane) (c : Fin 4) (x : TaskCtx) : (putCur l c x).ident = l.ident := rfl
@[simp] theorem putCur_powered (l : Lane) (c : Fin 4) (x : TaskCtx) : (putCur l c x).powered = l.powered := rfl
@[simp] theorem putCur_regs (l : Lane) (c : Fin 4) (x : TaskCtx) : (putCur l c x).regs = l.regs := rfl
@[simp] theorem putCur_cyc (l : Lane) (c : Fin 4) (x : TaskCtx) : (putCur l c x).cyc = l.cyc := rfl
@[simp] theorem putCur_mem (l : Lane) (c : Fin 4) (x : TaskCtx) : (putCur l c x).mem = l.mem := rfl
@[simp] theorem putCur_ecc (l : Lane) (c : Fin 4) (x : TaskCtx) : (putCur l c x).ecc = l.ecc := rfl
@[simp] theorem putCur_tags (l : Lane) (c : Fin 4) (x : TaskCtx) : (putCur l c x).tags = l.tags := rfl
@[simp] theorem putCur_engq (l : Lane) (c : Fin 4) (x : TaskCtx) : (putCur l c x).engq = l.engq := rfl
@[simp] theorem putCur_decl (l : Lane) (c : Fin 4) (x : TaskCtx) : (putCur l c x).decl = l.decl := rfl
@[simp] theorem putCur_banks (l : Lane) (c : Fin 4) (x : TaskCtx) : (putCur l c x).banks = l.banks := rfl
@[simp] theorem putCur_image (l : Lane) (c : Fin 4) (x : TaskCtx) : (putCur l c x).image = l.image := rfl
@[simp] theorem putCur_request (l : Lane) (c : Fin 4) (x : TaskCtx) : (putCur l c x).request = l.request := rfl
@[simp] theorem putCur_starts (l : Lane) (c : Fin 4) (x : TaskCtx) : (putCur l c x).starts = l.starts := rfl
@[simp] theorem putCur_items (l : Lane) (c : Fin 4) (x : TaskCtx) : (putCur l c x).items = l.items := rfl
@[simp] theorem putCur_tb0 (l : Lane) (c : Fin 4) (x : TaskCtx) : (putCur l c x).tb0 = l.tb0 := rfl
@[simp] theorem putCur_t1n (l : Lane) (c : Fin 4) (x : TaskCtx) : (putCur l c x).t1n = l.t1n := rfl
@[simp] theorem putCur_vis (l : Lane) (c : Fin 4) (x : TaskCtx) : (putCur l c x).vis = l.vis := rfl
@[simp] theorem putCur_late (l : Lane) (c : Fin 4) (x : TaskCtx) : (putCur l c x).late = l.late := rfl
@[simp] theorem putCur_rep (l : Lane) (c : Fin 4) (x : TaskCtx) : (putCur l c x).rep = l.rep := rfl
@[simp] theorem putCur_peat (l : Lane) (c : Fin 4) (x : TaskCtx) : (putCur l c x).peat = l.peat := rfl
@[simp] theorem putCur_peatQ (l : Lane) (c : Fin 4) (x : TaskCtx) : (putCur l c x).peatQ = l.peatQ := rfl
@[simp] theorem putCur_dormReq (l : Lane) (c : Fin 4) (x : TaskCtx) : (putCur l c x).dormReq = l.dormReq := rfl
@[simp] theorem putCur_wasIdle (l : Lane) (c : Fin 4) (x : TaskCtx) : (putCur l c x).wasIdle = l.wasIdle := rfl
@[simp] theorem putCur_pllTry (l : Lane) (c : Fin 4) (x : TaskCtx) : (putCur l c x).pllTry = l.pllTry := rfl
@[simp] theorem putCur_pllBad (l : Lane) (c : Fin 4) (x : TaskCtx) : (putCur l c x).pllBad = l.pllBad := rfl
@[simp] theorem putCur_units (l : Lane) (c : Fin 4) (x : TaskCtx) : (putCur l c x).units = l.units := rfl
@[simp] theorem putCur_yields (l : Lane) (c : Fin 4) (x : TaskCtx) : (putCur l c x).yields = l.yields := rfl
@[simp] theorem putCur_waitPeer (l : Lane) (c : Fin 4) (x : TaskCtx) : (putCur l c x).waitPeer = l.waitPeer := rfl
@[simp] theorem putCur_bootLeft (l : Lane) (c : Fin 4) (x : TaskCtx) : (putCur l c x).bootLeft = l.bootLeft := rfl
@[simp] theorem putCur_ship (l : Lane) (c : Fin 4) (x : TaskCtx) : (putCur l c x).ship = l.ship := rfl
@[simp] theorem putCur_shipRate (l : Lane) (c : Fin 4) (x : TaskCtx) : (putCur l c x).shipRate = l.shipRate := rfl
@[simp] theorem putCur_slewNs (l : Lane) (c : Fin 4) (x : TaskCtx) : (putCur l c x).slewNs = l.slewNs := rfl
@[simp] theorem putCur_slewT (l : Lane) (c : Fin 4) (x : TaskCtx) : (putCur l c x).slewT = l.slewT := rfl
@[simp] theorem putCur_shipLog (l : Lane) (c : Fin 4) (x : TaskCtx) : (putCur l c x).shipLog = l.shipLog := rfl
@[simp] theorem putCur_emb (l : Lane) (c : Fin 4) (x : TaskCtx) : (putCur l c x).emb = l.emb := rfl
@[simp] theorem putCur_embShip (l : Lane) (c : Fin 4) (x : TaskCtx) : (putCur l c x).embShip = l.embShip := rfl
@[simp] theorem putCur_eccN (l : Lane) (c : Fin 4) (x : TaskCtx) : (putCur l c x).eccN = l.eccN := rfl
@[simp] theorem putCur_out (l : Lane) (c : Fin 4) (x : TaskCtx) : (putCur l c x).out = l.out := rfl
@[simp] theorem putCur_axes (l : Lane) (c : Fin 4) (x : TaskCtx) : (putCur l c x).axes = l.axes := rfl
@[simp] theorem putCur_legs (l : Lane) (c : Fin 4) (x : TaskCtx) : (putCur l c x).legs = l.legs := rfl
@[simp] theorem putCur_cops (l : Lane) (c : Fin 4) (x : TaskCtx) : (putCur l c x).cops = l.cops := rfl
@[simp] theorem putCur_rx (l : Lane) (c : Fin 4) (x : TaskCtx) : (putCur l c x).rx = l.rx := rfl
@[simp] theorem putCur_slots (l : Lane) (c : Fin 4) (x : TaskCtx) : (putCur l c x).slots = l.slots := rfl
@[simp] theorem putCur_inj (l : Lane) (c : Fin 4) (x : TaskCtx) : (putCur l c x).inj = l.inj := rfl
@[simp] theorem putCur_cap (l : Lane) (c : Fin 4) (x : TaskCtx) : (putCur l c x).cap = l.cap := rfl
@[simp] theorem putCur_buses (l : Lane) (c : Fin 4) (x : TaskCtx) : (putCur l c x).buses = l.buses := rfl
@[simp] theorem putCur_grps (l : Lane) (c : Fin 4) (x : TaskCtx) : (putCur l c x).grps = l.grps := rfl
@[simp] theorem putCur_di (l : Lane) (c : Fin 4) (x : TaskCtx) : (putCur l c x).di = l.di := rfl
@[simp] theorem putCur_chans (l : Lane) (c : Fin 4) (x : TaskCtx) : (putCur l c x).chans = l.chans := rfl
@[simp] theorem putCur_ins (l : Lane) (c : Fin 4) (x : TaskCtx) : (putCur l c x).ins = l.ins := rfl
@[simp] theorem putCur_outs (l : Lane) (c : Fin 4) (x : TaskCtx) : (putCur l c x).outs = l.outs := rfl
@[simp] theorem putCur_fage (l : Lane) (c : Fin 4) (x : TaskCtx) : (putCur l c x).fage = l.fage := rfl
@[simp] theorem putCur_crdIn (l : Lane) (c : Fin 4) (x : TaskCtx) : (putCur l c x).crdIn = l.crdIn := rfl
@[simp] theorem putCur_crdTicks (l : Lane) (c : Fin 4) (x : TaskCtx) : (putCur l c x).crdTicks = l.crdTicks := rfl
@[simp] theorem putCur_crdFrom (l : Lane) (c : Fin 4) (x : TaskCtx) : (putCur l c x).crdFrom = l.crdFrom := rfl
@[simp] theorem putCur_crdSeen (l : Lane) (c : Fin 4) (x : TaskCtx) : (putCur l c x).crdSeen = l.crdSeen := rfl
@[simp] theorem putCur_cans (l : Lane) (c : Fin 4) (x : TaskCtx) : (putCur l c x).cans = l.cans := rfl
@[simp] theorem putCur_sens (l : Lane) (c : Fin 4) (x : TaskCtx) : (putCur l c x).sens = l.sens := rfl
@[simp] theorem putCur_lsteps (l : Lane) (c : Fin 4) (x : TaskCtx) : (putCur l c x).lsteps = l.lsteps := rfl
@[simp] theorem putCur_ltimes (l : Lane) (c : Fin 4) (x : TaskCtx) : (putCur l c x).ltimes = l.ltimes := rfl
@[simp] theorem putCur_btimes (l : Lane) (c : Fin 4) (x : TaskCtx) : (putCur l c x).btimes = l.btimes := rfl
@[simp] theorem putCur_shut (l : Lane) (c : Fin 4) (x : TaskCtx) : (putCur l c x).shut = l.shut := rfl
@[simp] theorem putCur_shutAt (l : Lane) (c : Fin 4) (x : TaskCtx) : (putCur l c x).shutAt = l.shutAt := rfl
@[simp] theorem putCur_dormAt (l : Lane) (c : Fin 4) (x : TaskCtx) : (putCur l c x).dormAt = l.dormAt := rfl
@[simp] theorem putCur_memBad (l : Lane) (c : Fin 4) (x : TaskCtx) : (putCur l c x).memBad = l.memBad := rfl
@[simp] theorem putCur_waitAt (l : Lane) (c : Fin 4) (x : TaskCtx) : (putCur l c x).waitAt = l.waitAt := rfl
@[simp] theorem putCur_safe (l : Lane) (c : Fin 4) (x : TaskCtx) : (putCur l c x).safe = l.safe := rfl
@[simp] theorem putCur_mreq (l : Lane) (c : Fin 4) (x : TaskCtx) : (putCur l c x).mreq = l.mreq := rfl
@[simp] theorem putCur_mtag (l : Lane) (c : Fin 4) (x : TaskCtx) : (putCur l c x).mtag = l.mtag := rfl

/-! ## A task context -/

@[simp] theorem setP_w (x : TaskCtx) (q : PredNo) (b : Bool) : (setP x q b).w = x.w := by unfold setP; split <;> rfl
@[simp] theorem nextPc_w (x : TaskCtx) : (nextPc x).w = x.w := rfl
@[simp] theorem setW_p (x : TaskCtx) (r : RegNo) (v : Word) : (setW x r v).p = x.p := by unfold setW; split <;> rfl
@[simp] theorem nextPc_p (x : TaskCtx) : (nextPc x).p = x.p := rfl
@[simp] theorem setW_pc (x : TaskCtx) (r : RegNo) (v : Word) : (setW x r v).pc = x.pc := by unfold setW; split <;> rfl
@[simp] theorem setP_pc (x : TaskCtx) (q : PredNo) (b : Bool) : (setP x q b).pc = x.pc := by unfold setP; split <;> rfl
@[simp] theorem setW_calls (x : TaskCtx) (r : RegNo) (v : Word) : (setW x r v).calls = x.calls := by unfold setW; split <;> rfl
@[simp] theorem setP_calls (x : TaskCtx) (q : PredNo) (b : Bool) : (setP x q b).calls = x.calls := by unfold setP; split <;> rfl
@[simp] theorem nextPc_calls (x : TaskCtx) : (nextPc x).calls = x.calls := rfl
@[simp] theorem setW_loops (x : TaskCtx) (r : RegNo) (v : Word) : (setW x r v).loops = x.loops := by unfold setW; split <;> rfl
@[simp] theorem setP_loops (x : TaskCtx) (q : PredNo) (b : Bool) : (setP x q b).loops = x.loops := by unfold setP; split <;> rfl
@[simp] theorem nextPc_loops (x : TaskCtx) : (nextPc x).loops = x.loops := rfl
@[simp] theorem setW_run (x : TaskCtx) (r : RegNo) (v : Word) : (setW x r v).run = x.run := by unfold setW; split <;> rfl
@[simp] theorem setP_run (x : TaskCtx) (q : PredNo) (b : Bool) : (setP x q b).run = x.run := by unfold setP; split <;> rfl
@[simp] theorem nextPc_run (x : TaskCtx) : (nextPc x).run = x.run := rfl
@[simp] theorem setW_buf (x : TaskCtx) (r : RegNo) (v : Word) : (setW x r v).buf = x.buf := by unfold setW; split <;> rfl
@[simp] theorem setP_buf (x : TaskCtx) (q : PredNo) (b : Bool) : (setP x q b).buf = x.buf := by unfold setP; split <;> rfl
@[simp] theorem nextPc_buf (x : TaskCtx) : (nextPc x).buf = x.buf := rfl
@[simp] theorem setW_jobs (x : TaskCtx) (r : RegNo) (v : Word) : (setW x r v).jobs = x.jobs := by unfold setW; split <;> rfl
@[simp] theorem setP_jobs (x : TaskCtx) (q : PredNo) (b : Bool) : (setP x q b).jobs = x.jobs := by unfold setP; split <;> rfl
@[simp] theorem nextPc_jobs (x : TaskCtx) : (nextPc x).jobs = x.jobs := rfl
@[simp] theorem setW_relC (x : TaskCtx) (r : RegNo) (v : Word) : (setW x r v).relC = x.relC := by unfold setW; split <;> rfl
@[simp] theorem setP_relC (x : TaskCtx) (q : PredNo) (b : Bool) : (setP x q b).relC = x.relC := by unfold setP; split <;> rfl
@[simp] theorem nextPc_relC (x : TaskCtx) : (nextPc x).relC = x.relC := rfl
@[simp] theorem setW_relSh (x : TaskCtx) (r : RegNo) (v : Word) : (setW x r v).relSh = x.relSh := by unfold setW; split <;> rfl
@[simp] theorem setP_relSh (x : TaskCtx) (q : PredNo) (b : Bool) : (setP x q b).relSh = x.relSh := by unfold setP; split <;> rfl
@[simp] theorem nextPc_relSh (x : TaskCtx) : (nextPc x).relSh = x.relSh := rfl
@[simp] theorem setW_relNow (x : TaskCtx) (r : RegNo) (v : Word) : (setW x r v).relNow = x.relNow := by unfold setW; split <;> rfl
@[simp] theorem setP_relNow (x : TaskCtx) (q : PredNo) (b : Bool) : (setP x q b).relNow = x.relNow := by unfold setP; split <;> rfl
@[simp] theorem nextPc_relNow (x : TaskCtx) : (nextPc x).relNow = x.relNow := rfl
@[simp] theorem setW_ovrun (x : TaskCtx) (r : RegNo) (v : Word) : (setW x r v).ovrun = x.ovrun := by unfold setW; split <;> rfl
@[simp] theorem setP_ovrun (x : TaskCtx) (q : PredNo) (b : Bool) : (setP x q b).ovrun = x.ovrun := by unfold setP; split <;> rfl
@[simp] theorem nextPc_ovrun (x : TaskCtx) : (nextPc x).ovrun = x.ovrun := rfl
@[simp] theorem setW_act (x : TaskCtx) (r : RegNo) (v : Word) : (setW x r v).act = x.act := by unfold setW; split <;> rfl
@[simp] theorem setP_act (x : TaskCtx) (q : PredNo) (b : Bool) : (setP x q b).act = x.act := by unfold setP; split <;> rfl
@[simp] theorem nextPc_act (x : TaskCtx) : (nextPc x).act = x.act := rfl
@[simp] theorem nextPc_pc (x : TaskCtx) : (nextPc x).pc = (x.pc + 4) % 2 ^ 32 := rfl

end Sys2Proof.Machine
end

