-- ==== Sys2Proof/Laws/Stores.lean ====
section
/-!
SUPPORT. The sparse stores: reading after writing, the canonical form is kept, and what follows for registers, fields, memory
and latent errors.
-/
namespace Sys2Proof.Machine

/-! ## Lists of keys and values -/

section Sparse
variable {α : Type}

theorem spFind_spErase_self (l : List (Nat × α)) (a : Nat) : spFind (spErase l a) a = none := by
  induction l with
  | nil => rfl
  | cons x t ih =>
    obtain ⟨k, v⟩ := x
    simp only [spErase]
    split
    · exact ih
    · rename_i h; simp only [spFind, if_neg h, ih]

theorem spFind_spErase_ne (l : List (Nat × α)) {a b : Nat} (h : b ≠ a) : spFind (spErase l a) b = spFind l b := by
  induction l with
  | nil => rfl
  | cons x t ih =>
    obtain ⟨k, v⟩ := x
    simp only [spErase]
    split
    · rename_i hk; simp only [spFind, ih]; rw [if_neg]; omega
    · simp only [spFind, ih]

theorem spFind_spPut_self (l : List (Nat × α)) (a : Nat) (v : α) (h : spFind l a = none) : spFind (spPut l a v) a = some v := by
  induction l with
  | nil => simp [spPut, spFind]
  | cons x t ih =>
    obtain ⟨k, w⟩ := x
    simp only [spFind] at h
    by_cases hk : k = a
    · simp [hk] at h
    · rw [if_neg hk] at h
      simp only [spPut]
      split
      · simp [spFind]
      · simp only [spFind, if_neg hk, ih h]

theorem spFind_spPut_ne (l : List (Nat × α)) {a b : Nat} (v : α) (h : b ≠ a) : spFind (spPut l a v) b = spFind l b := by
  induction l with
  | nil => simp only [spPut, spFind]; rw [if_neg (by omega)]
  | cons x t ih =>
    obtain ⟨k, w⟩ := x
    simp only [spPut]
    split
    · show spFind ((a, v) :: (k, w) :: t) b = _
      rw [spFind, if_neg (by omega)]
    · simp only [spFind, ih]

variable [DecidableEq α] (dflt : Nat → α)

/-- A read after a write of the same key gives what was written. -/
@[simp] theorem spGet_spSet_self (l : List (Nat × α)) (a : Nat) (v : α) : spGet dflt (spSet dflt l a v) a = v := by
  unfold spSet spGet
  by_cases h : v = dflt a
  · rw [if_pos h, spFind_spErase_self]; exact h.symm
  · rw [if_neg h, spFind_spPut_self _ _ _ (spFind_spErase_self l a)]

/-- A write leaves every other key alone. -/
theorem spGet_spSet_ne (l : List (Nat × α)) {a b : Nat} (v : α) (h : b ≠ a) : spGet dflt (spSet dflt l a v) b = spGet dflt l b := by
  unfold spSet spGet
  by_cases hv : v = dflt a
  · rw [if_pos hv, spFind_spErase_ne l h]
  · rw [if_neg hv]; rw [spFind_spPut_ne _ v h, spFind_spErase_ne l h]

theorem spGet_spSet (l : List (Nat × α)) (a b : Nat) (v : α) :
    spGet dflt (spSet dflt l a v) b = if b = a then v else spGet dflt l b := by
  split
  · rename_i h; rw [h, spGet_spSet_self]
  · rename_i h; exact spGet_spSet_ne dflt l v h

theorem spWfFrom_spErase (l : List (Nat × α)) (a : Nat) (lo : Option Nat) (h : spWfFrom dflt lo l = true) :
    spWfFrom dflt lo (spErase l a) = true := by
  induction l generalizing lo with
  | nil => exact h
  | cons x t ih =>
    obtain ⟨k, v⟩ := x
    simp only [spWfFrom, Bool.and_eq_true] at h
    simp only [spErase]
    split
    · have := ih (some k) h.2
      cases ht : spErase t a with
      | nil => rfl
      | cons y u =>
        obtain ⟨k', v'⟩ := y
        rw [ht] at this
        simp only [spWfFrom, Bool.and_eq_true, decide_eq_true_eq] at this h ⊢
        refine ⟨⟨?_, this.1.2⟩, this.2⟩
        cases lo with
        | none => rfl
        | some m => simp only [decide_eq_true_eq] at h ⊢; omega
    · simp only [spWfFrom, Bool.and_eq_true]; exact ⟨h.1, ih _ h.2⟩

theorem spWfFrom_spPut (l : List (Nat × α)) (a : Nat) (v : α) (lo : Option Nat) (h : spWfFrom dflt lo l = true)
    (hv : v ≠ dflt a) (hn : spFind l a = none) (hlo : ∀ m, lo = some m → m < a) : spWfFrom dflt lo (spPut l a v) = true := by
  induction l generalizing lo with
  | nil =>
    cases lo with
    | none => simp [spPut, spWfFrom, hv]
    | some m => simp [spPut, spWfFrom, hv, hlo m rfl]
  | cons x t ih =>
    obtain ⟨k, w⟩ := x
    simp only [spFind] at hn
    by_cases hk : k = a
    · simp [hk] at hn
    · rw [if_neg hk] at hn
      simp only [spWfFrom, Bool.and_eq_true] at h
      simp only [spPut]
      split
      · rename_i hlt
        simp only [spWfFrom, Bool.and_eq_true, decide_eq_true_eq]
        refine ⟨⟨?_, hv⟩, ⟨hlt, by simpa using h.1.2⟩, h.2⟩
        cases lo with
        | none => rfl
        | some m => simpa using hlo m rfl
      · rename_i hlt
        simp only [spWfFrom, Bool.and_eq_true]
        refine ⟨h.1, ih (some k) h.2 hn ?_⟩
        intro m hm; cases hm; omega

/-- A write keeps the canonical form. -/
theorem spWf_spSet (l : List (Nat × α)) (a : Nat) (v : α) (h : spWfFrom dflt none l = true) :
    spWfFrom dflt none (spSet dflt l a v) = true := by
  unfold spSet
  split
  · exact spWfFrom_spErase dflt l a none h
  · rename_i hv
    exact spWfFrom_spPut dflt _ a v none (spWfFrom_spErase dflt l a none h) hv (spFind_spErase_self l a) (by simp)

end Sparse

/-! ## Registers -/

@[simp] theorem rget_rset_self (l : Lane) (a : Nat) (v : Word) : rget (rset l a v) a = v := by simp [rget, rset]

theorem rget_rset_ne (l : Lane) {a b : Nat} (v : Word) (h : b ≠ a) : rget (rset l a v) b = rget l b := by
  simp only [rget, rset]; exact spGet_spSet_ne _ _ _ h

theorem rget_rset (l : Lane) (a b : Nat) (v : Word) : rget (rset l a v) b = if b = a then v else rget l b := by
  simp only [rget, rset]; exact spGet_spSet _ _ _ _ _

/-- Every register write keeps the canonical form of the register set. -/
theorem regs_wf_rset (l : Lane) (a : Nat) (v : Word) (h : Regs.wf l.ident l.regs = true) :
    Regs.wf (rset l a v).ident (rset l a v).regs = true := spWf_spSet _ _ _ _ h

/-- A field's update touches its own register only. -/
theorem rget_fset_ne (l : Lane) (f : Field) {b : Nat} (v : Nat) (h : b ≠ f.addr) : rget (fset l f v) b = rget l b :=
  rget_rset_ne l _ h
theorem rget_fsetB_ne (l : Lane) (f : Field) {b : Nat} (v : Bool) (h : b ≠ f.addr) : rget (fsetB l f v) b = rget l b :=
  rget_rset_ne l _ h
theorem rget_fsetI_ne (l : Lane) (f : Field) {b : Nat} (v : Int) (h : b ≠ f.addr) : rget (fsetI l f v) b = rget l b :=
  rget_rset_ne l _ h
theorem rget_fcount_ne (l : Lane) (f : Field) {b : Nat} (h : b ≠ f.addr) : rget (fcount l f) b = rget l b :=
  rget_rset_ne l _ h

theorem fget_fset_ne (l : Lane) (f g : Field) (v : Nat) (h : g.addr ≠ f.addr) : fget (fset l f v) g = fget l g := by
  unfold fget; rw [rget_fset_ne l f v h]
theorem fget_fsetB_ne (l : Lane) (f g : Field) (v : Bool) (h : g.addr ≠ f.addr) : fget (fsetB l f v) g = fget l g :=
  fget_fset_ne l f g _ h

/-- The bits below, in and above a replaced field. -/
theorem setBits_lt (v lo w x : Nat) (hv : v < 2 ^ 32) (h : lo + w ≤ 32) : setBits v lo w x < 2 ^ 32 := by
  unfold setBits
  have e : 2 ^ 32 = 2 ^ (lo + w) * 2 ^ (32 - (lo + w)) := by rw [← Nat.pow_add]; congr 1; omega
  have h1 : v / 2 ^ (lo + w) < 2 ^ (32 - (lo + w)) := by
    apply Nat.div_lt_of_lt_mul; rw [← e]; exact hv
  have h2 : v % 2 ^ lo + x % 2 ^ w * 2 ^ lo < 2 ^ (lo + w) := by
    rw [Nat.pow_add, Nat.mul_comm (2 ^ lo)]
    have ha : v % 2 ^ lo < 2 ^ lo := Nat.mod_lt _ (Nat.two_pow_pos _)
    have hb : x % 2 ^ w + 1 ≤ 2 ^ w := Nat.mod_lt _ (Nat.two_pow_pos _)
    calc _ < 2 ^ lo + x % 2 ^ w * 2 ^ lo := by omega
      _ = (x % 2 ^ w + 1) * 2 ^ lo := by ring
      _ ≤ 2 ^ w * 2 ^ lo := Nat.mul_le_mul_right _ hb
  calc _ < 2 ^ (lo + w) + v / 2 ^ (lo + w) * 2 ^ (lo + w) := by omega
    _ = (v / 2 ^ (lo + w) + 1) * 2 ^ (lo + w) := by ring
    _ ≤ 2 ^ (32 - (lo + w)) * 2 ^ (lo + w) := Nat.mul_le_mul_right _ h1
    _ = 2 ^ 32 := by rw [Nat.mul_comm, ← e]

theorem bitsOf_setBits_self (v lo w x : Nat) : bitsOf (setBits v lo w x) lo w = x % 2 ^ w := by
  unfold bitsOf setBits
  have ha : v % 2 ^ lo < 2 ^ lo := Nat.mod_lt _ (Nat.two_pow_pos _)
  have e : v % 2 ^ lo + x % 2 ^ w * 2 ^ lo + v / 2 ^ (lo + w) * 2 ^ (lo + w) =
      v % 2 ^ lo + 2 ^ lo * (x % 2 ^ w + 2 ^ w * (v / 2 ^ (lo + w))) := by rw [Nat.pow_add]; ring
  rw [e, Nat.add_mul_div_left _ _ (Nat.two_pow_pos _), Nat.div_eq_of_lt ha, Nat.zero_add, Nat.add_mul_mod_self_left, Nat.mod_mod]

/-- A field reads as what was written to it, its width taken into account. -/
theorem fget_fset_self (l : Lane) (f : Field) (v : Nat) (h : f.lo + f.w ≤ 32) : fget (fset l f v) f = v % 2 ^ f.w := by
  unfold fget fset
  rw [rget_rset_self, BitVec.toNat_ofNat, Nat.mod_eq_of_lt (setBits_lt _ _ _ _ (rget l f.addr).isLt h), bitsOf_setBits_self]

theorem fget_fsetB_self (l : Lane) (f : Field) (b : Bool) (h : f.lo + f.w ≤ 32) (hw : 0 < f.w) : fget (fsetB l f b) f = b2n b := by
  unfold fsetB
  rw [fget_fset_self l f _ h, Nat.mod_eq_of_lt]
  have : 1 < 2 ^ f.w := Nat.one_lt_two_pow (by omega)
  cases b
  · simp [b2n]
  · simp [b2n]; omega

/-! ## Memory -/

@[simp] theorem mget8_mset8_self (l : Lane) (a : Nat) (b : Byte) : mget8 (mset8 l a b) a = b := by simp [mget8, mset8]

theorem mget8_mset8_ne (l : Lane) {a c : Nat} (b : Byte) (h : c ≠ a) : mget8 (mset8 l a b) c = mget8 l c := by
  simp only [mget8, mset8]; exact spGet_spSet_ne _ _ _ h

/-- A write of a byte keeps the canonical form of memory. -/
theorem mem_wf_mset8 (l : Lane) (a : Nat) (b : Byte) (h : Memory.wf l.mem = true) : Memory.wf (mset8 l a b).mem = true :=
  spWf_spSet _ _ _ _ h

/-- A write of a word keeps the canonical form of memory. -/
theorem mem_wf_mset32 (l : Lane) (a : Nat) (w : Word) (h : Memory.wf l.mem = true) : Memory.wf (mset32 l a w).mem = true := by
  unfold mset32; exact mem_wf_mset8 _ _ _ (mem_wf_mset8 _ _ _ (mem_wf_mset8 _ _ _ (mem_wf_mset8 _ _ _ h)))

/-- A write of a word leaves every byte outside it alone. -/
theorem mget8_mset32_ne (l : Lane) (a c : Nat) (w : Word) (h : c < a ∨ a + 4 ≤ c) : mget8 (mset32 l a w) c = mget8 l c := by
  unfold mset32
  rw [mget8_mset8_ne _ _ (by omega), mget8_mset8_ne _ _ (by omega), mget8_mset8_ne _ _ (by omega), mget8_mset8_ne _ _ (by omega)]

/-- The four bytes of a written word. -/
theorem mget8_mset32 (l : Lane) (a : Nat) (w : Word) :
    mget8 (mset32 l a w) a = w.extractLsb' 0 8 ∧ mget8 (mset32 l a w) (a + 1) = w.extractLsb' 8 8 ∧
    mget8 (mset32 l a w) (a + 2) = w.extractLsb' 16 8 ∧ mget8 (mset32 l a w) (a + 3) = w.extractLsb' 24 8 := by
  unfold mset32
  refine ⟨?_, ?_, ?_, ?_⟩
  · rw [mget8_mset8_ne _ _ (by omega), mget8_mset8_ne _ _ (by omega), mget8_mset8_ne _ _ (by omega), mget8_mset8_self]
  · rw [mget8_mset8_ne _ _ (by omega), mget8_mset8_ne _ _ (by omega), mget8_mset8_self]
  · rw [mget8_mset8_ne _ _ (by omega), mget8_mset8_self]
  · rw [mget8_mset8_self]

theorem wordOfBytes_extract (w : Word) :
    wordOfBytes (w.extractLsb' 0 8) (w.extractLsb' 8 8) (w.extractLsb' 16 8) (w.extractLsb' 24 8) = w := by
  apply BitVec.eq_of_getLsbD_eq
  intro i hi
  simp only [wordOfBytes, BitVec.getLsbD_append, BitVec.getLsbD_extractLsb']
  by_cases h0 : i < 8
  · simp [h0]
  · by_cases h1 : i < 16
    · simp [h0, show i - 8 < 8 by omega, show 8 + (i - 8) = i by omega]
    · by_cases h2 : i < 24
      · simp [h0, show ¬ i - 8 < 8 by omega, show i - 8 - 8 < 8 by omega, show 16 + (i - 8 - 8) = i by omega]
      · simp [h0, show ¬ i - 8 < 8 by omega, show ¬ i - 8 - 8 < 8 by omega, show i - 8 - 8 - 8 < 8 by omega,
          show 24 + (i - 8 - 8 - 8) = i by omega]

/-- A word reads as it was written. -/
@[simp] theorem mget32_mset32_self (l : Lane) (a : Nat) (w : Word) : mget32 (mset32 l a w) a = w := by
  obtain ⟨h0, h1, h2, h3⟩ := mget8_mset32 l a w
  unfold mget32; rw [h0, h1, h2, h3, wordOfBytes_extract]

/-- A note of a latent error keeps the canonical form. -/
theorem ecc_wf_eccSet (l : Lane) (a : Nat) (e : Ecc) (h : Upsets.wf l.ecc = true) : Upsets.wf (eccSet l a e).ecc = true :=
  spWf_spSet _ _ _ _ h

end Sys2Proof.Machine
end

