-- ==== Sys2Proof/Laws/Issue.lean ====
section
/-!
SUPPORT. What the issue of an instruction does, once for all instructions: contexts and registers of a core, the lane once
an instruction has issued, and the spec lemmas of the shared forms of Machine/Operands.lean.
-/
namespace Sys2Proof.Machine

/-! ## Arrays -/

section
variable {α : Type} {n : Nat}

@[simp] theorem vget_vset_self (v : Vector α n) (i : Fin n) (x : α) : vget (vset v i x) i = x := by simp [vget, vset]

theorem vget_vset_ne (v : Vector α n) {i j : Fin n} (x : α) (h : j ≠ i) : vget (vset v i x) j = vget v j := by
  simp only [vget, vset, Fin.getElem_fin]
  exact Vector.getElem_set_ne _ _ (fun e => h (Fin.ext e.symm))

@[simp] theorem vset_vset (v : Vector α n) (i : Fin n) (x y : α) : vset (vset v i x) i y = vset v i y := by
  simp [vset]

@[simp] theorem vset_vget (v : Vector α n) (i : Fin n) : vset v i (vget v i) = v := by simp [vset, vget]

end

/-! ## Cores and contexts -/

@[simp] theorem coreOf_putCore_self (l : Lane) (c : Fin 4) (k : Core) : coreOf (putCore l c k) c = k := by
  simp [coreOf, putCore]

theorem coreOf_putCore_ne (l : Lane) {c d : Fin 4} (k : Core) (h : d ≠ c) : coreOf (putCore l c k) d = coreOf l d := by
  simp only [coreOf, putCore]; exact vget_vset_ne _ _ h

@[simp] theorem putCore_putCore (l : Lane) (c : Fin 4) (j k : Core) : putCore (putCore l c j) c k = putCore l c k := by
  simp [putCore]

theorem coreOf_putTask_self (l : Lane) (c : Fin 4) (k : Fin 16) (t : TaskCtx) :
    coreOf (putTask l c k t) c = { coreOf l c with tasks := vset (coreOf l c).tasks k t } := by simp [putTask]

theorem coreOf_putTask_ne (l : Lane) {c d : Fin 4} (k : Fin 16) (t : TaskCtx) (h : d ≠ c) :
    coreOf (putTask l c k t) d = coreOf l d := coreOf_putCore_ne l _ h

@[simp] theorem taskOf_putTask_self (l : Lane) (c : Fin 4) (k : Fin 16) (t : TaskCtx) : taskOf (putTask l c k t) c k = t := by
  simp [taskOf, coreOf_putTask_self]

theorem taskOf_putTask_ne (l : Lane) (c : Fin 4) {j k : Fin 16} (t : TaskCtx) (h : j ≠ k) :
    taskOf (putTask l c k t) c j = taskOf l c j := by
  simp only [taskOf, coreOf_putTask_self]; exact vget_vset_ne _ _ h

@[simp] theorem curTask_putCur (l : Lane) (c : Fin 4) (t : TaskCtx) : curTask (putCur l c t) c = t := by
  simp [curTask, putCur, taskOf, coreOf_putTask_self]

theorem coreOf_putCur_self (l : Lane) (c : Fin 4) (t : TaskCtx) :
    coreOf (putCur l c t) c = { coreOf l c with tasks := vset (coreOf l c).tasks (coreOf l c).cur t } := coreOf_putTask_self ..

theorem coreOf_putCur_ne (l : Lane) {c d : Fin 4} (t : TaskCtx) (h : d ≠ c) : coreOf (putCur l c t) d = coreOf l d :=
  coreOf_putTask_ne l _ t h

/-- The loaded context is the core's. -/
theorem curTask_congr {l m : Lane} {c : Fin 4} (h : coreOf l c = coreOf m c) : curTask l c = curTask m c := by
  unfold curTask taskOf; rw [h]

/-! ## Word registers and predicates (R39) -/

theorem getW_zero (t : TaskCtx) : getW t 0#5 = 0#32 := by simp [getW]

theorem getW_setW_self (t : TaskCtx) (r : RegNo) (v : Word) (h : r ≠ 0#5) : getW (setW t r v) r = v := by simp [getW, setW, h]

theorem getW_setW_ne (t : TaskCtx) {r q : RegNo} (v : Word) (h : q ≠ r) : getW (setW t r v) q = getW t q := by
  unfold getW setW
  by_cases hq : q = 0#5
  · simp [hq]
  · by_cases hr : r = 0#5
    · simp [hr]
    · simp only [hq, hr, if_false]
      exact vget_vset_ne _ _ (fun e => h (BitVec.eq_of_toNat_eq (by simpa using congrArg Fin.val e)))

@[simp] theorem setW_zero (t : TaskCtx) (v : Word) : setW t 0#5 v = t := by simp [setW]
@[simp] theorem setP_zero (t : TaskCtx) (b : Bool) : setP t 0#3 b = t := by simp [setP]
@[simp] theorem getP_zero (t : TaskCtx) : getP t 0#3 = true := by simp [getP]

@[simp] theorem getW_setP (t : TaskCtx) (p : PredNo) (b : Bool) (r : RegNo) : getW (setP t p b) r = getW t r := by
  unfold setP; split <;> rfl
@[simp] theorem getP_setW (t : TaskCtx) (r : RegNo) (v : Word) (p : PredNo) : getP (setW t r v) p = getP t p := by
  unfold setW; split <;> rfl

/-! ## The lane once an instruction has issued -/

@[simp] theorem coreOf_stk (l : Lane) (f : Field) (c : Fin 4) : coreOf (stk l f) c = coreOf l c := rfl
@[simp] theorem curTask_stk (l : Lane) (f : Field) (c : Fin 4) : curTask (stk l f) c = curTask l c := rfl
@[simp] theorem coreOf_stkIf (b : Bool) (l : Lane) (f : Field) (c : Fin 4) : coreOf (stkIf b l f) c = coreOf l c := by
  cases b <;> rfl
@[simp] theorem curTask_stkIf (b : Bool) (l : Lane) (f : Field) (c : Fin 4) : curTask (stkIf b l f) c = curTask l c := by
  cases b <;> rfl

/-- What the issue leaves of the core: its cycle alone has changed. -/
theorem coreOf_issuedLane (i : Issue) (l : Lane) (cost : Nat) (srcs : List RegNo) :
    coreOf (issuedLane i l cost srcs) i.core =
      { coreOf l i.core with cyc := issueCycle (coreOf l i.core) srcs + cost + idleCycles l i.core +
          (if i.fetch = .single then 16 else 0) } := by
  unfold issuedLane
  by_cases h : i.fetch = .single
  · simp only [if_pos h, atCycle, eccReplay, setCyc, coreOf, putCore, chkFail, stk, stkOr, fltStk, stkSet, rset, vget_vset_self, vset_vset]
  · simp only [if_neg h, atCycle, setCyc, coreOf, putCore, vget_vset_self, Nat.add_zero]

theorem coreOf_issuedLane_ne (i : Issue) (l : Lane) (cost : Nat) (srcs : List RegNo) {c : Fin 4} (hc : c ≠ i.core) :
    coreOf (issuedLane i l cost srcs) c = coreOf l c := by
  unfold issuedLane
  by_cases h : i.fetch = .single
  · simp only [if_pos h, atCycle, eccReplay, setCyc, coreOf, putCore, chkFail, stk, stkOr, fltStk, stkSet, rset, vget_vset_ne _ _ hc]
  · simp only [if_neg h, atCycle, setCyc, coreOf, putCore, vget_vset_ne _ _ hc]

/-- The issue leaves the loaded context as it was. -/
@[simp] theorem curTask_issuedLane (i : Issue) (l : Lane) (cost : Nat) (srcs : List RegNo) :
    curTask (issuedLane i l cost srcs) i.core = curTask l i.core := by
  unfold curTask taskOf; rw [coreOf_issuedLane]

/-- What the issue leaves of the lane: cores, registers with the cycle record, and hash units may change, and nothing else. -/
theorem issuedLane_frame (i : Issue) (l : Lane) (cost : Nat) (srcs : List RegNo) :
    issuedLane i l cost srcs =
      { l with
        cores := (issuedLane i l cost srcs).cores, regs := (issuedLane i l cost srcs).regs
        cyc := (issuedLane i l cost srcs).cyc, units := (issuedLane i l cost srcs).units } := by
  unfold issuedLane
  by_cases h : i.fetch = .single
  · simp only [if_pos h, atCycle, eccReplay, setCyc, putCore, chkFail, stk, stkOr, fltStk, stkSet, rset]
  · simp only [if_neg h, atCycle, setCyc, putCore]

theorem issuedLane_units (i : Issue) (l : Lane) (cost : Nat) (srcs : List RegNo) (h : i.fetch ≠ .single) :
    (issuedLane i l cost srcs).units = l.units := by unfold issuedLane; rw [if_neg h]; rfl

@[simp] theorem rget_putCore (l : Lane) (c : Fin 4) (k : Core) (a : Nat) : rget (putCore l c k) a = rget l a := rfl
@[simp] theorem rget_putCur (l : Lane) (c : Fin 4) (t : TaskCtx) (a : Nat) : rget (putCur l c t) a = rget l a := rfl

@[simp] theorem rget_atCycle (c : Nat) (l : Lane) (a : Nat) : rget (atCycle c l) a = rget l a := rfl
@[simp] theorem coreOf_atCycle (c : Nat) (l : Lane) (k : Fin 4) : coreOf (atCycle c l) k = coreOf l k := rfl

theorem rget_stkSet_ne (l : Lane) {a b : Nat} (m : Nat) (h : b ≠ a) : rget (stkSet l a m) b = rget l b :=
  rget_rset_ne l (rget l a ||| BitVec.ofNat 32 m) h

/-- A sticky condition touches its own register and FLT_STK (R6, R424). -/
theorem rget_stk_ne (l : Lane) (f : Field) {a : Nat} (h : a ≠ f.addr) (hf : a ≠ FLT_STK) : rget (stk l f) a = rget l a := by
  unfold stk stkOr fltStk; dsimp only; rw [rget_stkSet_ne _ _ hf, rget_stkSet_ne _ _ h]

theorem rget_stkIf_ne (b : Bool) (l : Lane) (f : Field) {a : Nat} (h : a ≠ f.addr) (hf : a ≠ FLT_STK) :
    rget (stkIf b l f) a = rget l a := by cases b; · rfl
                                          · exact rget_stk_ne l f h hf

/-- The conditions of SYS_CSTKn stand in one register. -/
theorem divz_addr (n : Nat) : (SYS_CSTK_DIVZ n).addr = SYS_CSTK n := by rw [SYS_CSTK_DIVZ]
theorem bfrange_addr (n : Nat) : (SYS_CSTK_BFRANGE n).addr = SYS_CSTK n := by rw [SYS_CSTK_BFRANGE]
theorem bfovf_addr (n : Nat) : (SYS_CSTK_BFOVF n).addr = SYS_CSTK n := by rw [SYS_CSTK_BFOVF]
theorem bfund_addr (n : Nat) : (SYS_CSTK_BFUND n).addr = SYS_CSTK n := by rw [SYS_CSTK_BFUND]
theorem fioarg_addr (n : Nat) : (SYS_CSTK_FIOARG n).addr = SYS_CSTK n := by rw [SYS_CSTK_FIOARG]
theorem eccrep_addr (n : Nat) : (SYS_CSTK_ECCREP n).addr = SYS_CSTK n := by rw [SYS_CSTK_ECCREP]

@[simp] theorem rget_chkFail (l : Lane) (a : Nat) : rget (chkFail l) a = rget l a := by simp only [rget, chkFail]

/-- The issue touches registers only where a corrected fetch sets ECCREP. -/
theorem rget_issuedLane (i : Issue) (l : Lane) (cost : Nat) (srcs : List RegNo) (a : Nat)
    (h : i.fetch = .single → a ≠ SYS_CSTK i.core ∧ a ≠ FLT_STK) : rget (issuedLane i l cost srcs) a = rget l a := by
  unfold issuedLane
  by_cases hs : i.fetch = .single
  · obtain ⟨h1, h2⟩ := h hs
    simp only [if_pos hs]
    rw [rget_atCycle, eccReplay, rget_chkFail, rget_stk_ne _ _ (by rw [eccrep_addr]; exact h1) h2]
    simp only [rget_atCycle, setCyc, rget_putCore]
  · simp only [if_neg hs, rget_atCycle, setCyc, rget_putCore]

/-! ## The issue of an instruction -/

/-- An instruction that issues and takes effect (R46 to R51): the state its effect ends in. -/
theorem issueG_of_issues {i : Issue} {s : State} (h : Issues i s) (cost : Nat) (srcs : List RegNo) (skip : Lane → Lane)
    (eff : Lane → Eff) :
    issueG i s false cost srcs skip eff = finish i s (eff (issuedLane i (laneOf s i.lane) cost srcs)) := by
  obtain ⟨hz, hd, hn, hg⟩ := h
  unfold issueG
  dsimp only
  rw [if_neg (by simp [hz])]
  split
  · exact absurd ‹_› hd
  · simp [hn, hg]

/-- A false guard (R49): the skip effect alone. -/
theorem issueG_of_guard_false {i : Issue} {s : State} (hz : asleep (laneOf s i.lane) = false) (hd : i.fetch ≠ .double) (hn : guardNever i.guard = false)
    (hg : guardOn (curTask (laneOf s i.lane) i.core) i.guard = false) (cost : Nat) (srcs : List RegNo) (skip : Lane → Lane)
    (eff : Lane → Eff) :
    issueG i s false cost srcs skip eff =
      putLane s i.lane (atCycle (laneOf s i.lane).cyc.now (skip (issuedLane i (laneOf s i.lane) cost srcs))) := by
  unfold issueG
  dsimp only
  rw [if_neg (by simp [hz])]
  split
  · exact absurd ‹_› hd
  · simp [hn, hg, finish]

/-- A word that R51 refuses, or the guard 0b1000: ILL, whatever the guard. -/
theorem issueG_of_ill {i : Issue} {s : State} (hz : asleep (laneOf s i.lane) = false) (hd : i.fetch ≠ .double) {ill : Bool} (hi : (ill || guardNever i.guard) = true)
    (cost : Nat) (srcs : List RegNo) (skip : Lane → Lane) (eff : Lane → Eff) :
    issueG i s ill cost srcs skip eff = finish i s (.exc (issuedLane i (laneOf s i.lane) cost srcs) excIll 0
      (issueCycle (coreOf (laneOf s i.lane) i.core) srcs + 1)) := by
  unfold issueG
  dsimp only
  rw [if_neg (by simp [hz])]
  split
  · exact absurd ‹_› hd
  · rw [if_pos hi]

/-- An effect that puts a changed context into the issued lane and changes at most the registers `A`, what stands outside registers
and cores being as the issue left it. -/
theorem ran_of_put {i : Issue} {s : State} {cost : Nat} {srcs : List RegNo} {A : List Nat} {f : TaskCtx → TaskCtx} {m : Lane}
    (hc : m.cores = (putCur (issuedLane i (laneOf s i.lane) cost srcs) i.core
      (nextPc (f (curTask (laneOf s i.lane) i.core)))).cores)
    (hf : m = { issuedLane i (laneOf s i.lane) cost srcs with cores := m.cores, regs := m.regs, cyc := m.cyc })
    (hr : ∀ a, a ∉ A → rget m a = rget (issuedLane i (laneOf s i.lane) cost srcs) a) :
    Ran i s (putLane s i.lane m) cost srcs A f := by
  have hco : ∀ c, coreOf m c = coreOf (putCur (issuedLane i (laneOf s i.lane) cost srcs) i.core
      (nextPc (f (curTask (laneOf s i.lane) i.core)))) c := fun c => by unfold coreOf; rw [hc]
  have hme : coreOf m i.core = { coreOf (issuedLane i (laneOf s i.lane) cost srcs) i.core with
      tasks := vset (coreOf (laneOf s i.lane) i.core).tasks (coreOf (laneOf s i.lane) i.core).cur
        (nextPc (f (curTask (laneOf s i.lane) i.core))) } := by
    rw [hco, coreOf_putCur_self, coreOf_issuedLane]
  refine ⟨?_, ?_, ?_, ?_, ?_, ?_, ?_, ?_, ?_⟩
  · simp only [ctxOf, laneOf_putLane]
    have : curTask m i.core = curTask (putCur (issuedLane i (laneOf s i.lane) cost srcs) i.core
      (nextPc (f (curTask (laneOf s i.lane) i.core)))) i.core := curTask_congr (hco _)
    rw [this, curTask_putCur]
  · simp only [laneOf_putLane, hme, coreOf_issuedLane, cycAfter]
  · simp
  · rw [laneOf_putLane]
    rw [issuedLane_frame] at hf
    rw [hf]
  · intro h; rw [laneOf_putLane, hf]; exact issuedLane_units _ _ _ _ h
  · intro a ha h; simp only [regAt, laneOf_putLane]; rw [hr a ha, rget_issuedLane _ _ _ _ _ h]
  · intro c h; rw [laneOf_putLane, hco, coreOf_putCur_ne _ _ h, coreOf_issuedLane_ne _ _ _ _ h]
  · rw [laneOf_putLane, hme, coreOf_issuedLane]
  · intro k h
    rw [laneOf_putLane]
    have : taskOf m i.core k = vget (coreOf m i.core).tasks k := rfl
    rw [this, hme]
    exact vget_vset_ne _ _ h

/-- The same as the outcome of an instruction. -/
theorem ran_of_ok {i : Issue} {s : State} {cost : Nat} {srcs : List RegNo} {A : List Nat} {f : TaskCtx → TaskCtx} {m : Lane}
    (hc : m.cores = (putCur (issuedLane i (laneOf s i.lane) cost srcs) i.core
      (nextPc (f (curTask (laneOf s i.lane) i.core)))).cores)
    (hf : m = { issuedLane i (laneOf s i.lane) cost srcs with cores := m.cores, regs := m.regs, cyc := m.cyc })
    (hr : ∀ a, a ∉ A → rget m a = rget (issuedLane i (laneOf s i.lane) cost srcs) a) :
    Ran i s (finish i s (.ok m)) cost srcs A f :=
  ran_of_put (m := atCycle (laneOf s i.lane).cyc.now m) hc (by rw [hf]; rfl) hr

/-- An instruction that changes only the loaded context. -/
theorem issueT_ran {i : Issue} {s : State} (h : Issues i s) (cost : Nat) (srcs : List RegNo) (f : TaskCtx → TaskCtx) :
    Ran i s (issueT i s false cost srcs f) cost srcs [] f := by
  unfold issueT
  rw [issueG_of_issues h]
  refine ran_of_ok ?_ rfl (fun _ _ => rfl)
  rw [curTask_issuedLane]

/-- Sticky conditions leave everything but registers and the cycle record alone. -/
theorem stkIf_frame (b : Bool) (l : Lane) (f : Field) : stkIf b l f = { l with regs := (stkIf b l f).regs, cyc := (stkIf b l f).cyc } := by
  cases b
  · rfl
  · simp only [stkIf, stk, stkOr, fltStk, stkSet, rset, if_true]

theorem bfStk_frame (l : Lane) (c : Fin 4) (f : BfFlags) : bfStk l c f = { l with regs := (bfStk l c f).regs, cyc := (bfStk l c f).cyc } := by
  unfold bfStk; rw [stkIf_frame, stkIf_frame f.ovf, stkIf_frame f.range]

theorem rget_bfStk_ne (l : Lane) (c : Fin 4) (f : BfFlags) {a : Nat} (h : a ≠ SYS_CSTK c) (hf : a ≠ FLT_STK) :
    rget (bfStk l c f) a = rget l a := by
  unfold bfStk
  rw [rget_stkIf_ne _ _ _ (by rw [bfund_addr]; exact h) hf, rget_stkIf_ne _ _ _ (by rw [bfovf_addr]; exact h) hf,
    rget_stkIf_ne _ _ _ (by rw [bfrange_addr]; exact h) hf]

/-- A division (R53): DIVZ is the one register it may set. -/
theorem issueDiv_ran {i : Issue} {s : State} (h : Issues i s) (rd ra rb : RegNo) (f : Word → Word → Word) :
    Ran i s (issueDiv i s rd ra rb f) 12 [ra, rb] [SYS_CSTK i.core, FLT_STK]
      (fun t => setW t rd (f (getW t ra) (getW t rb))) := by
  unfold issueDiv
  rw [issueG_of_issues h]
  refine ran_of_ok ?_ ?_ ?_
  · rw [stkIf_frame, curTask_issuedLane]
  · rw [stkIf_frame]; rfl
  · intro a ha
    simp only [List.mem_cons, List.not_mem_nil, or_false, not_or] at ha
    rw [rget_stkIf_ne _ _ _ (by rw [divz_addr]; exact ha.1) ha.2, rget_putCur]

/-- A block-float instruction (R65, R66): its sticky conditions are the registers it may set. -/
theorem issueBf_ran {i : Issue} {s : State} (h : Issues i s) (cost : Nat) (srcs : List RegNo) (rd : RegNo)
    (f : TaskCtx → Word × BfFlags) :
    Ran i s (issueBf i s cost srcs rd f) cost srcs [SYS_CSTK i.core, FLT_STK] (fun t => setW t rd (f t).1) := by
  unfold issueBf
  rw [issueG_of_issues h]
  refine ran_of_ok ?_ ?_ ?_
  · rw [bfStk_frame, curTask_issuedLane]
  · rw [bfStk_frame]; rfl
  · intro a ha
    simp only [List.mem_cons, List.not_mem_nil, or_false, not_or] at ha
    rw [rget_bfStk_ne _ _ _ ha.1 ha.2, rget_putCur]

end Sys2Proof.Machine
end

