-- ==== Sys2Proof/Laws/Settle.lean ====
section
/-!
SUPPORT. What carrying out the lanes' requests can do, once for all: time, the queue and everything in a lane but a few registers,
its requests, waiting records and what its axes are asked stays as it was.
-/
namespace Sys2Proof.Machine

/-! ## A lane changed quietly -/

/-- Nothing more waits. -/
theorem late_same (l : Lane) : ∃ x, l.late = l.late ++ x ∧ ∀ e ∈ x, SettleReg e.1 := ⟨[], by simp, by simp⟩

theorem Quiet.refl (l : Lane) : Quiet l l := ⟨rfl, fun _ => rfl, fun _ _ => rfl, late_same l⟩

theorem Quiet.trans {l m n : Lane} (h : Quiet l m) (g : Quiet m n) : Quiet l n := by
  refine ⟨?_, fun x => (g.axes x).trans (h.axes x), fun a ha => (g.regs a ha).trans (h.regs a ha), ?late⟩
  case late =>
    obtain ⟨x, hx, hx'⟩ := h.late
    obtain ⟨y, hy, hy'⟩ := g.late
    exact ⟨x ++ y, by rw [hy, hx, List.append_assoc], fun e he => (List.mem_append.1 he).elim (hx' e) (hy' e)⟩
  have hm := h.rest
  have hn := g.rest
  rw [hm] at hn
  exact hn

theorem quiet_rset (l : Lane) {a : Nat} (v : Word) (h : SettleReg a) : Quiet l (rset l a v) :=
  ⟨rfl, fun _ => rfl, fun _ hb => rget_rset_ne l v (fun e => hb (e ▸ h)), late_same l⟩

theorem quiet_fset (l : Lane) (f : Field) (v : Nat) (h : SettleReg f.addr) : Quiet l (fset l f v) := quiet_rset l _ h

theorem quiet_fsetB (l : Lane) (f : Field) (v : Bool) (h : SettleReg f.addr) : Quiet l (fsetB l f v) := quiet_fset l f _ h

theorem settle_flt_stk : SettleReg FLT_STK := .inl (by decide)

theorem quiet_stkSet (l : Lane) {a : Nat} (m : Nat) (h : SettleReg a) : Quiet l (stkSet l a m) :=
  ⟨rfl, fun _ => rfl, fun _ hb => rget_stkSet_ne l m (fun e => hb (e ▸ h)), late_same l⟩

theorem quiet_fltStk (l : Lane) (n : Nat) : Quiet l (fltStk l n) := quiet_stkSet l _ settle_flt_stk

theorem quiet_fltLate (l : Lane) (n : Nat) : Quiet l (fltLate l n) :=
  ⟨rfl, fun _ => rfl, fun _ _ => rfl, [(FLT_STK, n)], rfl, by simp [settle_flt_stk]⟩

theorem quiet_stkLate (l : Lane) (f : Field) (h : SettleReg f.addr) : Quiet l (stkLate l f) :=
  ⟨rfl, fun _ => rfl, fun _ _ => rfl, [(f.addr, (2 ^ f.w - 1) * 2 ^ f.lo)], rfl, by simp [h]⟩

theorem quiet_stk (l : Lane) (f : Field) (h : SettleReg f.addr) : Quiet l (stk l f) :=
  (quiet_stkSet l _ h).trans (quiet_fltStk _ _)

theorem quiet_stkIf (b : Bool) (l : Lane) (f : Field) (h : SettleReg f.addr) : Quiet l (stkIf b l f) := by
  cases b
  · exact Quiet.refl l
  · exact quiet_stk l f h

theorem quiet_stkSeen (l : Lane) (f : Field) (h : SettleReg f.addr) : Quiet l (stkSeen l f) := by
  unfold stkSeen
  split
  · exact quiet_stkLate l f h
  · exact quiet_stk l f h

theorem quiet_stkSeenIf (b : Bool) (l : Lane) (f : Field) (h : SettleReg f.addr) : Quiet l (stkSeenIf b l f) := by
  unfold stkSeenIf
  split
  · exact quiet_stkSeen l f h
  · exact Quiet.refl l

theorem quiet_ask (l : Lane) (r : LaneReq) : Quiet l (ask l r) := ⟨rfl, fun _ => rfl, fun _ _ => rfl, late_same l⟩

theorem quiet_fmWrite (l : Lane) (now kind code sev : Nat) (c0 c1 : Word) : Quiet l (fmWrite l now kind code sev c0 c1) :=
  quiet_ask l _

theorem quiet_peatWrite (l : Lane) (now kind code sev rep : Nat) (c0 c1 : Word) :
    Quiet l (peatWrite l now kind code sev rep c0 c1) := by
  unfold peatWrite
  split
  · exact quiet_stkSeen _ _ (.inl (by simp [PEAT_STK_LOST]))
  · refine Quiet.trans ?_ (quiet_fsetB _ _ _ (.inl (by simp [PEAT_STS_BUSY])))
    refine Quiet.trans ?_ (quiet_fset _ _ _ (.inl (by simp [PEAT_HEAD_SEQ])))
    exact ⟨rfl, fun _ => rfl, fun _ _ => rfl, late_same l⟩

theorem quiet_setRole (now r : Nat) (l : Lane) : Quiet l (setRole now r l) := by
  unfold setRole
  split
  · exact Quiet.refl l
  · refine Quiet.trans ?_ (quiet_fsetB _ _ _ (.inl (by simp [XLN_STS_CLAIM])))
    refine Quiet.trans ?_ (quiet_stkSeen _ _ (.inl (by simp [XLN_STK_ROLE])))
    refine Quiet.trans ?_ (quiet_fmWrite ..)
    refine Quiet.trans ?_ (quiet_peatWrite ..)
    exact quiet_fset _ _ _ (.inl (by simp [SYS_STS_LROLE]))

theorem quiet_axesAsk (l : Lane) (a : Axis) (e : Option Nat) :
    Quiet l { l with axes := vset l.axes a { vget l.axes a with ask := e } } := by
  refine ⟨rfl, fun x => ?_, fun _ _ => rfl, late_same l⟩
  by_cases h : x = a
  · subst h; rw [vget_vset_self]
  · rw [vget_vset_ne _ _ h]

theorem quiet_axAsk (l : Lane) (a : Axis) (e : Nat) : Quiet l (axAsk l a e) := by
  have hs : Quiet l (stkLate l (AXS_STK_SUPERS a)) := quiet_stkLate _ _ (.inr ⟨a, by rw [AXS_STK_SUPERS]⟩)
  unfold axAsk
  split
  · exact hs
  · dsimp only
    split
    · split
      · exact hs
      · exact quiet_axesAsk l a _
    · exact quiet_axesAsk l a _

theorem quiet_foldl {α : Type} (f : Lane → α → Lane) (h : ∀ l x, Quiet l (f l x)) (xs : List α) (l : Lane) :
    Quiet l (xs.foldl f l) := by
  induction xs generalizing l with
  | nil => exact Quiet.refl l
  | cons x t ih => exact (h l x).trans (ih _)

theorem quiet_allAsk (l : Lane) (b : Bool) (e : Nat) : Quiet l (allAsk l b e) := by
  unfold allAsk
  refine quiet_foldl _ (fun m x => ?_) _ _
  split
  · exact quiet_axAsk _ _ _
  · exact Quiet.refl _

theorem quiet_axNoYield (l : Lane) (a : Axis) (ok : Bool) : Quiet l (axNoYield l a ok) := by
  refine ⟨rfl, fun x => ?_, fun _ _ => rfl, late_same l⟩
  by_cases h : x = a
  · subst h; simp only [axNoYield, vmod, vget_vset_self]
  · simp only [axNoYield, vmod]; rw [vget_vset_ne _ _ h]

theorem quiet_yieldStop (l : Lane) (a : Axis) : Quiet l (yieldStop l a) := by
  unfold yieldStop
  split
  · exact (quiet_axAsk _ _ _).trans (quiet_axNoYield _ _ _)
  · exact Quiet.refl _

theorem quiet_seePeer (up : Bool) (peer : Lane) (c0 c1 : Bool) (l : Lane) : Quiet l (seePeer up peer c0 c1 l) := by
  have hs : ∀ (m : Lane) (b : Bool) (f : Field), f.addr = SYS_STS ∨ f.addr = XLN_STS → Quiet m (fsetB m f b) := fun m b f h =>
    quiet_fsetB _ _ _ (.inl (by rcases h with h | h <;> simp [h]))
  unfold seePeer
  dsimp only
  refine Quiet.trans ?_ (hs _ _ _ (.inr (by rw [XLN_STS_CH1UP])))
  refine Quiet.trans ?_ (hs _ _ _ (.inr (by rw [XLN_STS_CH0UP])))
  refine Quiet.trans ?_ (hs _ _ _ (.inr (by rw [XLN_STS_PCLAIM])))
  have hp : ∀ m : Lane, Quiet l m → Quiet l (if up then fset m XLN_STS_PROLE (roleOf peer) else m) := fun m h => by
    split
    · exact h.trans (quiet_fset _ _ _ (.inl (by simp [XLN_STS_PROLE])))
    · exact h
  refine hp _ (Quiet.trans ?_ (quiet_stkSeenIf _ _ _ (.inl (by simp [SYS_STK_SOLOSET]))))
  exact (hs _ _ _ (.inl (by rw [SYS_STS_PEERUP]))).trans (hs _ _ _ (.inl (by rw [SYS_STS_SOLO])))

/-! ## A state changed calmly -/

theorem Calm.refl (s : State) : Calm s s :=
  ⟨rfl, rfl, rfl, rfl, rfl, rfl, rfl, rfl, rfl, rfl, rfl, rfl, rfl, fun _ => rfl, fun _ => rfl, fun _ => rfl, fun _ => Quiet.refl _⟩

theorem Calm.trans {s t u : State} (h : Calm s t) (g : Calm t u) : Calm s u := by
  refine ⟨g.pending.trans h.pending, g.now.trans h.now, g.t1At.trans h.t1At, g.free.trans h.free, g.key.trans h.key,
    g.presReq.trans h.presReq, g.sup.trans h.sup, g.pres.trans h.pres, g.okc.trans h.okc, g.xlnUp.trans h.xlnUp,
    g.svcOut.trans h.svcOut, ?_, ?_, fun f => ?_, fun k => (g.links k).trans (h.links k), fun b => ?_,
    fun i => (h.lanes i).trans (g.lanes i)⟩
  · exact (congrArg (fun c => { c with pathA := s.cord.pathA, pathB := s.cord.pathB }) g.cord).trans h.cord
  · exact (congrArg (fun c => { c with ring := s.fm.ring, head := s.fm.head, hcrc := s.fm.hcrc }) g.fm).trans h.fm
  · exact (congrArg (fun (c : FieldRt) => { c with
        sel := (vget s.fields f).sel, safe := (vget s.fields f).safe, pend := (vget s.fields f).pend })
      (g.fields f)).trans (h.fields f)
  · exact (congrArg (fun (c : BrickRt) => { c with ports := (vget s.bricks b).ports, tbase := (vget s.bricks b).tbase })
      (g.bricks b)).trans (h.bricks b)

/-- A state in which only the lanes change, quietly. -/
theorem calm_lanes {s t : State} (h : t = { s with la := t.la, lb := t.lb }) (ha : Quiet s.la t.la) (hb : Quiet s.lb t.lb) :
    Calm s t := by
  rw [h]
  exact ⟨rfl, rfl, rfl, rfl, rfl, rfl, rfl, rfl, rfl, rfl, rfl, rfl, rfl, fun _ => rfl, fun _ => rfl, fun _ => rfl,
    fun i => by cases i; exacts [ha, hb]⟩

theorem calm_modLane (s : State) (i : LaneId) (f : Lane → Lane) (h : ∀ l, Quiet l (f l)) : Calm s (modLane s i f) := by
  cases i
  · exact calm_lanes rfl (h _) (Quiet.refl _)
  · exact calm_lanes rfl (Quiet.refl _) (h _)

theorem calm_inRunning (s : State) (f : Lane → Lane) (h : ∀ l, Quiet l (f l)) : Calm s (inRunning f s) := by
  refine calm_lanes rfl ?_ ?_
  · show Quiet s.la (if laneRuns s.la then f s.la else s.la); split; exacts [h _, Quiet.refl _]
  · show Quiet s.lb (if laneRuns s.lb then f s.lb else s.lb); split; exacts [h _, Quiet.refl _]

/-! What stands outside the lanes and is not listed by `Calm` may change freely. -/

theorem calm_hoPair (s : State) (h : Handover) (b : Bool) : Calm s { s with ho := h, hoOut := b } :=
  ⟨rfl, rfl, rfl, rfl, rfl, rfl, rfl, rfl, rfl, rfl, rfl, rfl, rfl, fun _ => rfl, fun _ => rfl, fun _ => rfl, fun _ => Quiet.refl _⟩

theorem calm_bist (s : State) (b : List BistRt) : Calm s { s with bist := b } :=
  ⟨rfl, rfl, rfl, rfl, rfl, rfl, rfl, rfl, rfl, rfl, rfl, rfl, rfl, fun _ => rfl, fun _ => rfl, fun _ => rfl, fun _ => Quiet.refl _⟩

theorem calm_fmRing (s : State) (ring : List PeatEntry) (head : Nat) : Calm s (fmRing s ring head) :=
  ⟨rfl, rfl, rfl, rfl, rfl, rfl, rfl, rfl, rfl, rfl, rfl, rfl, rfl, fun _ => rfl, fun _ => rfl, fun _ => rfl, fun _ => Quiet.refl _⟩

theorem calm_paths (s : State) (a b : Option CordSend) : Calm s { s with cord := { s.cord with pathA := a, pathB := b } } :=
  ⟨rfl, rfl, rfl, rfl, rfl, rfl, rfl, rfl, rfl, rfl, rfl, rfl, rfl, fun _ => rfl, fun _ => rfl, fun _ => rfl, fun _ => Quiet.refl _⟩

theorem calm_links (s : State) (b : Vector LinkRt 4) (h : ∀ k, (vget b k).n = (vget s.links k).n) : Calm s { s with links := b } :=
  ⟨rfl, rfl, rfl, rfl, rfl, rfl, rfl, rfl, rfl, rfl, rfl, rfl, rfl, fun _ => rfl, h, fun _ => rfl, fun _ => Quiet.refl _⟩

theorem calm_fields (s : State) (b : Vector FieldRt 2)
    (h : ∀ f, { vget b f with
        sel := (vget s.fields f).sel, safe := (vget s.fields f).safe, pend := (vget s.fields f).pend } = vget s.fields f) : Calm s { s with fields := b } :=
  ⟨rfl, rfl, rfl, rfl, rfl, rfl, rfl, rfl, rfl, rfl, rfl, rfl, rfl, h, fun _ => rfl, fun _ => rfl, fun _ => Quiet.refl _⟩

/-- A cartridge takes commands for its outputs. -/
theorem calm_field (s : State) (f : FieldNo) (safe : Bool) (pend : List (Nat × OutEv)) :
    Calm s { s with fields := vset s.fields f { vget s.fields f with safe := safe, pend := pend } } := by
  refine calm_fields s _ fun g => ?_
  by_cases h : g = f
  · subst h; rw [vget_vset_self]
  · rw [vget_vset_ne _ _ h]

theorem calm_foldl {α : Type} (f : State → α → State) (h : ∀ s x, Calm s (f s x)) (xs : List α) (s : State) :
    Calm s (xs.foldl f s) := by
  induction xs generalizing s with
  | nil => exact Calm.refl s
  | cons x t ih => exact (h s x).trans (ih _)

theorem calm_modBrick (s : State) (b : Brick) (f : BrickRt → BrickRt)
    (h : ∀ x, { f x with ports := x.ports, tbase := x.tbase } = x) : Calm s (modBrick s b f) := by
  refine ⟨rfl, rfl, rfl, rfl, rfl, rfl, rfl, rfl, rfl, rfl, rfl, rfl, rfl, fun _ => rfl, fun _ => rfl, fun c => ?_,
    fun _ => Quiet.refl _⟩
  by_cases e : c = b
  · subst e; simp only [modBrick, vmod, vget_vset_self]; exact h _
  · simp only [modBrick, vmod]; rw [vget_vset_ne _ _ e]

theorem calm_modPort (s : State) (b : Brick) (i : Fin 2) (f : PortRt → PortRt) : Calm s (modPort s b i f) :=
  calm_modBrick s b _ fun _ => rfl

theorem calm_hoEnd (s : State) : Calm s (hoEnd s) := by
  have hq : ∀ l : Lane, Quiet l (fsetB l XLN_STS_HOBUSY false) := fun l => quiet_fsetB _ _ _ (.inl (by simp [XLN_STS_HOBUSY]))
  refine Calm.trans (t := { s with la := fsetB s.la XLN_STS_HOBUSY false, lb := fsetB s.lb XLN_STS_HOBUSY false })
    (calm_lanes rfl (hq _) (hq _)) ?_
  have h := calm_hoPair { s with la := fsetB s.la XLN_STS_HOBUSY false, lb := fsetB s.lb XLN_STS_HOBUSY false } .none false
  dsimp only at h
  unfold hoEnd
  exact h

/-- A hand-over that is asked for is quiet in the lane that asks. -/
theorem calm_wantHandover (i : LaneId) (cause : Nat) (s : State) : Calm s (wantHandover i cause s) := by
  unfold wantHandover
  dsimp only
  split
  · exact Calm.refl s
  · split
    · exact calm_inRunning s _ fun l => (quiet_fltLate l _).trans (quiet_foldl _ quiet_yieldStop _ _)
    · split
      · exact (calm_modLane s i _ fun l => quiet_fsetB _ _ _ (.inl (by simp [XLN_STS_HOBUSY]))).trans
          (calm_hoPair _ _ _)
      · split
        · exact (calm_hoPair s s.ho _).trans (calm_inRunning _ _ fun l => quiet_fltLate l _)
        · exact calm_hoPair s s.ho _

/-- What S6 does outside the lanes is calm. -/
theorem calm_safeEntered (i : LaneId) (s : State) : Calm s (safeEntered i s) := by
  have hl : Calm s { s with links := s.links.map fun x => { x with send := false } } :=
    calm_links s _ fun k => by simp [vget]
  unfold safeEntered
  dsimp only
  split
  · refine hl.trans ?_
    split
    · exact Calm.refl _
    all_goals
      split
      · exact calm_hoEnd _
      · exact Calm.refl _
  · exact Calm.refl s

theorem calm_bistShow (s : State) : Calm s (bistShow s) := by
  have hq : ∀ (l : Lane) (x y : Nat), Quiet l (fset (fset l BST_STS_STATE x) BST_STS_LANE y) := fun l x y =>
    (quiet_fset _ _ _ (.inl (by simp [BST_STS_STATE]))).trans (quiet_fset _ _ _ (.inl (by simp [BST_STS_LANE])))
  refine calm_lanes rfl ?_ ?_
  · simp only [bistShow]; split; exacts [hq _ _ _, Quiet.refl _]
  · simp only [bistShow]; split; exacts [hq _ _ _, Quiet.refl _]

theorem calm_bistBegin (i : LaneId) (run roll : Nat) (s : State) : Calm s (bistBegin i run roll s) := by
  unfold bistBegin
  refine Calm.trans ?_ (calm_bistShow _)
  exact (calm_modLane s i _ fun l => quiet_setRole _ _ l).trans (calm_bist _ _)

theorem calm_bistKeep (f : BistRt → Bool) (s : State) : Calm s (bistKeep f s) := calm_bist s _

theorem calm_bistRefuse (s : State) : Calm s (bistRefuse s) :=
  calm_inRunning s _ fun l => quiet_stk _ _ (.inl (by simp [BST_STK_REFUSED]))

theorem calm_bistDrop (s : State) : Calm s (bistDrop s) := by
  unfold bistDrop
  dsimp only
  split
  · exact (calm_bistKeep _ s).trans (calm_bistRefuse _)
  · exact calm_bistKeep _ s

theorem calm_bistCmd (run : Nat) (tgt : Bool) (s : State) : Calm s (bistCmd run tgt s) := by
  unfold bistCmd
  repeat' split
  all_goals first
    | exact Calm.refl s
    | exact calm_bistRefuse s
    | exact calm_bistBegin ..
    | exact calm_bist s _
    | exact (calm_bist s _).trans (calm_wantHandover _ _ _)

theorem calm_rollStart (due : Int) (own : Bool) (s : State) : Calm s (rollStart due own s) := by
  unfold rollStart
  repeat' split
  all_goals first
    | exact Calm.refl s
    | exact calm_bistBegin ..
    | exact (calm_bist s _).trans (calm_bistShow _)

theorem calm_rollNow (s : State) : Calm s (rollNow s) := by
  unfold rollNow
  repeat' split
  all_goals first
    | exact Calm.refl s
    | exact calm_rollStart ..

theorem calm_link (s : State) (k : LinkNo) (f : LinkRt → LinkRt) (h : ∀ x, (f x).n = x.n) :
    Calm s { s with links := vmod s.links k f } := by
  refine calm_links s _ fun j => ?_
  by_cases e : j = k
  · subst e; rw [vmod, vget_vset_self, h]
  · rw [vmod, vget_vset_ne _ _ e]

theorem calm_linkDark (k : LinkNo) (s : State) : Calm s (linkDark k s) := by
  unfold linkDark
  refine (calm_link s k (fun x => { x with dark := true, send := false }) fun _ => rfl).trans ?_
  exact calm_foldl _ (fun s q => (calm_modPort s _ _ _).trans (calm_modBrick _ _ _ fun x => by split <;> rfl)) _ _

theorem calm_fieldDrive (i : LaneId) (f : FieldNo) (g : FieldRt → FieldRt) (s : State)
    (h : ∀ x, g x = { x with pend := (g x).pend }) : Calm s (fieldDrive i f g s) := by
  unfold fieldDrive; dsimp only
  split
  · rw [h]; exact calm_field s f _ _
  · exact Calm.refl s

theorem calm_switchOutput (i : LaneId) (o : Fin 32) (on : Bool) (s : State) : Calm s (switchOutput i o on s) :=
  calm_fieldDrive i _ _ s fun x => by split <;> rfl

theorem calm_switchCompare (i : LaneId) (e : FbkCh) (t w : Nat) (s : State) : Calm s (switchCompare i e t w s) := by
  unfold switchCompare; exact calm_fieldDrive i _ _ s fun _ => rfl

theorem calm_switchPulse (i : LaneId) (e : FbkCh) (edges : List (Nat × Bool)) (s : State) : Calm s (switchPulse i e edges s) := by
  unfold switchPulse; exact calm_fieldDrive i _ _ s fun _ => rfl

theorem calm_releaseSafe (i : LaneId) (f : FieldNo) (s : State) : Calm s (releaseSafe i f s) := by
  unfold releaseSafe; dsimp only
  split
  · exact calm_field s _ _ _
  · exact Calm.refl s

/-- One request carried out. -/
theorem calm_serveReq (i : LaneId) (r : LaneReq) (s : State) : Calm s (serveReq i r s) := by
  cases r with
  | handover c => exact calm_wantHandover i c s
  | yieldNamed n => unfold serveReq; dsimp only; split; exacts [calm_wantHandover _ _ _, Calm.refl s]
  | claimDrop =>
    unfold serveReq; dsimp only; split
    · exact calm_wantHandover _ _ _
    · exact calm_modLane s i _ fun l => quiet_setRole _ _ l
  | frameMem e =>
    unfold serveReq; dsimp only; split
    · exact calm_fmRing s _ _
    · exact Calm.refl s
  | srel m =>
    unfold serveReq
    refine calm_foldl _ (fun s f => ?_) _ _
    split
    · exact calm_releaseSafe _ _ _
    · exact Calm.refl s
  | output o on => exact calm_switchOutput i o on s
  | compare e t w => exact calm_switchCompare i e t w s
  | pulse e edges => exact calm_switchPulse i e edges s
  | bist run tgt => unfold serveReq; dsimp only; split; exacts [calm_bistCmd _ _ _, Calm.refl s]
  | rnow => unfold serveReq; dsimp only; split; exacts [calm_rollNow _, Calm.refl s]
  | safeIn => exact calm_safeEntered i s
  | cordCmd c =>
    cases i
    · exact calm_paths s (some c) s.cord.pathB
    · exact calm_paths s s.cord.pathA (some c)
  | linkShut k =>
    unfold serveReq
    dsimp only
    refine Calm.trans (t := if (vget s.links k).shut = true then s
      else linkDark k { s with links := vmod s.links k fun x => { x with shut := true } }) ?_ ?_
    · split
      · exact Calm.refl s
      · exact (calm_link s k (fun x => { x with shut := true }) fun _ => rfl).trans (calm_linkDark _ _)
    · refine calm_modLane _ i _ fun l => ?_
      refine Quiet.trans ?_ (quiet_fmWrite ..)
      refine Quiet.trans ?_ (quiet_peatWrite ..)
      exact quiet_stkSeen _ _ (.inl (by simp [THM_STK_LSHUT]))
  | fault => exact calm_modLane s i _ fun l => quiet_setRole _ _ l

theorem calm_serveAll (s : State) : Calm s (serveAll s) := by
  unfold serveAll
  refine Calm.trans ?_ (calm_foldl _ (fun s r => calm_serveReq _ r s) _ _)
  refine Calm.trans ?_ (calm_foldl _ (fun s r => calm_serveReq _ r s) _ _)
  exact calm_lanes (t := { s with la := { s.la with out := [] }, lb := { s.lb with out := [] } }) rfl
    ⟨rfl, fun _ => rfl, fun _ _ => rfl, late_same _⟩ ⟨rfl, fun _ => rfl, fun _ _ => rfl, late_same _⟩

theorem calm_peers (s : State) : Calm s (peers s) := by
  refine calm_lanes rfl ?_ ?_
  · simp only [peers]; split; exacts [quiet_seePeer _ _ _ _ _, Quiet.refl _]
  · simp only [peers]; split; exacts [quiet_seePeer _ _ _ _ _, Quiet.refl _]

theorem calm_follow (s : State) (i : LaneId) :
    Calm s { s with links := s.links.map fun k => { k with sel := i }, fields := s.fields.map fun f => { f with sel := i } } := by
  refine ⟨rfl, rfl, rfl, rfl, rfl, rfl, rfl, rfl, rfl, rfl, rfl, rfl, rfl, fun f => ?_, fun k => ?_, fun _ => rfl, fun _ => Quiet.refl _⟩
  · simp [vget]
  · simp [vget]

theorem calm_selectors (s : State) : Calm s (selectors s) := by
  unfold selectors; dsimp only
  split
  · exact calm_follow s _
  · split
    · exact calm_follow s _
    · exact Calm.refl s

/-- What `settle` can do: nothing outside `Calm`. -/
theorem calm_settle (s : State) : Calm s (settle s) := by
  unfold settle
  exact (calm_serveAll s).trans ((calm_serveAll _).trans ((calm_peers _).trans (calm_selectors _)))

end Sys2Proof.Machine
end

