-- ==== Sys2Proof/Machine/Leds.lean ====
section
/-!
DEFINITION. What the LEDs show (R12, R485, R486), as views of the state. No command reads them.
-/
namespace Sys2Proof.Machine

/-- Colours. -/
inductive Colour where
  | green
  | amber
  | red
  | blue
  | white
  deriving DecidableEq, Repr

/-- Patterns: steady, the flash rates in Hz, the DORMANT flash of 0.1 s every 2 s, and the flicker of a port's activity. -/
inductive Pattern where
  | steady
  | hz1
  | hz2
  | dormant
  | flicker
  deriving DecidableEq, Repr

/-- What one LED shows; `none` is off. -/
abbrev Led := Option (Colour × Pattern)

/-- The ACTIVE lane, whose registers the control strip shows. -/
def stripLane (s : State) : Option Lane := (activeLane s).map (laneOf s)

/-- PWR (R485): the upper row governs. -/
def ledPwr (s : State) : Led :=
  let a := (vget s.sup 0).outok && (vget s.sup 0).inok
  let b := (vget s.sup 1).outok && (vget s.sup 1).inok
  if a && b then some (.green, .steady)
  else if a || b then some (.amber, .steady)
  else if asleep s.la || asleep s.lb then some (.green, .dormant)
  else none

/-- The lane whose module state MOD shows: the ACTIVE one, else a powered one that is ready, else one that starts (R397, R485). -/
def modShown (s : State) : Option Lane :=
  let ready (l : Lane) : Bool := l.powered && decide (fget l CLK_STS_MSTATE ≠ 0)
  stripLane s <|> [s.la, s.lb].find? ready <|> [s.la, s.lb].find? fun l => l.powered

/-- MOD (R485, R397): the upper rows govern, so a module with no lane ACTIVE shows its state as long as it has one. -/
def ledMod (s : State) : Led :=
  match modShown s with
  | none => none
  | some l =>
    match fget l CLK_STS_MSTATE with
    | 0 => some (.amber, .steady)
    | 2 => some (.green, .steady)
    | 1 => some (.green, .hz1)
    | _ => none

/-- FLT (R485). -/
def ledFlt (s : State) : Led :=
  match stripLane s with
  | none => none
  | some l =>
    if fon l FLT_STS_SAFE then some (.red, .steady)
    else if fon l FLT_STS_NOYLD then some (.red, .hz2)
    else if fon l FLT_STS_ANYSTOP then some (.red, .hz1)
    else none

/-- STO (R485): some configured pair is not energised. -/
def ledSto (s : State) : Led :=
  if (allFin 2).any fun (f : FieldNo) => bit (stoConfig s) f.1 && !(pairOn s f) then some (.amber, .steady) else none

/-- SVC (R485). -/
def ledSvc (s : State) : Led := if s.key then some (.amber, .steady) else none

/-- The presence button's LED (R438, R485). -/
def ledPresence (s : State) : Led := if s.presReq.isSome then some (.white, .hz2) else none

/-- IN and OUT of a supply cartridge (R486). -/
def ledIn (s : State) (x : Fin 2) : Led := if (vget s.sup x).inok then some (.green, .steady) else none
def ledOut (s : State) (x : Fin 2) : Led := if (vget s.sup x).outok then some (.green, .steady) else none

/-- ROLE of a lane (R486). -/
def ledRole (s : State) (i : LaneId) : Led :=
  let l := laneOf s i
  if !l.powered then none
  else
    match roleOf l with
    | 3 => some (.green, .steady)
    | 2 => some (.green, .hz1)
    | 1 => some (.amber, .hz2)
    | 4 => some (.red, .steady)
    | _ => none

/-- X1 of a lane (R486, R491): `up` and `busy` are what the port's 100BASE-TX interface reports, link and activity, which no command
gives. -/
def ledX1 (up busy : Bool) : Led := if !up then none else if busy then some (.amber, .flicker) else some (.green, .steady)

/-- BIST of a lane (R486): BST_STS.STATE is not idle for this lane; a test that waits for its hand-over shows idle. -/
def ledBist (s : State) (i : LaneId) : Led :=
  if (laneOf s i).powered && s.bist.any (fun b => decide (b.lane = i) && decide (b.stage ≠ 1)) then some (.amber, .steady) else none

/-- REL of a lane (R12): it holds neither the ACTIVE state nor a hand-over in progress. -/
def ledRel (s : State) (i : LaneId) : Led :=
  let l := laneOf s i
  if l.powered && decide (roleOf l ≠ roleActive) && decide (s.ho = .none) then some (.blue, .steady) else none

/-- A port of a link cartridge (R486, R262). -/
def ledPort (s : State) (p : PortRef) : Led :=
  match (portOf s (portBrick p) (portSide p)).lst with
  | 3 => some (.green, .steady)
  | 2 => some (.green, .hz2)
  | 1 => some (.amber, .steady)
  | _ => none

/-- PERM of a link cartridge (R486, R268). -/
def ledPerm (s : State) (k : LinkNo) : Led := if (vget s.links k).send then some (.green, .steady) else none

/-- An input's LED: its state at the latest reading (R486). -/
def ledDi (l : Lane) (n : Fin 64) : Led := if l.di.getLsbD n.1 then some (.green, .steady) else none

/-- An output's LED (R486, R326). -/
def ledDo (l : Lane) (o : Fin 32) : Led :=
  match fget l (FIO_OSTS_STATE o) with
  | 1 => some (.green, .steady)
  | 2 => some (.red, .hz2)
  | 3 => some (.red, .hz2)
  | _ => none

/-- SAFE of a field cartridge (R486, R327). -/
def ledSafe (s : State) (f : FieldNo) : Led := if (vget s.fields f).safe then some (.amber, .steady) else none

/-- STOA and STOB (R486): red once a discrepancy is latched. -/
def ledStoCh (s : State) (f : FieldNo) (chB : Bool) : Led :=
  let x := vget s.fields f
  if x.disc then some (.red, .steady)
  else if (if chB then x.stoB else x.stoA) then some (.green, .steady) else none

/-- A CAN port (R486, R356). -/
def ledCan (l : Lane) (p : CanPort) : Led :=
  if fget l (CAN_CFG_MODE p) = 0 then none
  else
    match fget l (CAN_STS_ESTATE p) with
    | 0 => some (.green, .steady)
    | 1 => some (.amber, .steady)
    | _ => some (.red, .steady)

/-- A feedback channel (R486, R304). -/
def ledFbk (l : Lane) (e : FbkCh) : Led :=
  match fget l (FBK_CHST_STATE e) with
  | 1 => some (.green, .steady)
  | 2 => some (.red, .steady)
  | _ => none

/-- RUN, SEAL and TEMP of the Cord (R486, R455, R467). -/
def ledCordRun (s : State) : Led := if s.cord.on && !s.cord.stopped && !s.cord.shut then some (.green, .steady) else none
def ledCordSeal (s : State) : Led := if s.cord.jumper then some (.amber, .steady) else none
def ledCordTemp (s : State) : Led := if s.cord.on && (s.cord.shut || decide (s.cord.tlev = 3)) then some (.red, .steady) else none

end Sys2Proof.Machine
end

