-- ==== Sys2Proof/WellFormed.lean ====
section
/-!
DEFINITION. Which operands a sender can supply: the shapes the manual gives the data that comes with an event. The
effect of a command does not rest on them (every command has an effect on every operand); they say which terms stand
for something the outside world can send.
-/
namespace Sys2Proof

/-- A channel's frame: the runs fill one field frame of 500 Field clocks (R293). -/
def ChanFrame.wf (c : ChanFrame) : Bool := decide ((c.runs.map Prod.fst).sum = 500)

/-- A field frame: eight channels (R292), runs of the 32 inputs that fill it (R318), 16 output terminals and two group supplies (R325),
and the eight pins when it carries them (R371). -/
def FieldFrame.wf (d : FieldFrame) : Bool :=
  decide (d.chans.length = 8) && d.chans.all ChanFrame.wf && d.inputs.all (fun x => decide (x.2.length = 32)) &&
  decide ((d.inputs.map Prod.fst).sum = 500) && decide (d.rb.length = 16) && decide (d.vgrp.length = 2) &&
  (match d.pins with | some ps => decide (ps.length = 8) | none => true)

/-- A CAN frame carries at most 64 data bytes (R348). -/
def CanFrame.wf (f : CanFrame) : Bool := decide (f.data.length ≤ 16)

/-- A report of the bit engine names instants in order (R339). -/
def CanReport.wf (r : CanReport) : Bool :=
  match r with
  | .received f sof eof _ => f.wf && decide (sof ≤ eof)
  | .sent _ sof eof => decide (sof ≤ eof)
  | _ => true

/-- A brick measures four positions and has four temperature sensors (R278). -/
def BrickMeas.wf (m : BrickMeas) : Bool :=
  decide (m.ia.length = 4) && decide (m.ib.length = 4) && decide (m.v.length = 4) && decide (m.temps.length = 4)

/-- The Cord has four tension channels and four payout channels, four samples of 0.25 ms each (R451, R458). -/
def CordMeas.wf (m : CordMeas) : Bool :=
  decide (m.sig.length = 4) && m.sig.all (fun x => decide (x.length = 4)) && decide (m.ab.length = 4) &&
  m.ab.all (fun x => decide (x.length = 4)) && decide (m.tv.length = 4) && decide (m.lv.length = 4)

/-- A section holds the whole words its length covers (R411). -/
def Section.wf (x : Section) : Bool := decide (x.body.length = (x.len.toNat + 3) / 4)

/-- A command as a sender can give it. -/
def Instr.wf (c : Instr) : Bool :=
  match c with
  | .t1Tick d => decide (d.links.length = 4)
  | .sampleFrame _ _ _ m _ => m.wf
  | .fieldFrameConsumption _ _ _ d => d.wf
  | .pulsedWindow _ rd => decide (rd.length = 32)
  | .canReportDelivery _ r => r.wf
  | .cordResultFrame x => x.meas.wf
  | .imageLoad img => img.sections.all Section.wf
  | _ => true

end Sys2Proof
end

