-- ==== Sys2Proof/Tests/Slice0.lean ====
section
/-!
SUPPORT. Own tests: ill-formed operands are refused, worked examples of the manual come out as it prints them, and for every statement
with hypotheses a state and operands that meet them.
-/
set_option Elab.async false

namespace Sys2Proof.Tests
open Sys2Proof Sys2Proof.Machine

/-! ## Operands a sender cannot supply -/

def frame0 : FieldFrame :=
  { chans := List.replicate 8 { runs := [(500, 0#5)], openLn := 0#5, supply := true }
    inputs := [(1, List.replicate 32 { mv := 0, ua := 0 }), (499, List.replicate 32 { mv := 24000, ua := 6000 })], rb := List.replicate 16 0,
    limit := 0#16, vgrp := [24000, 24000], pins := none }

def brick0 : BrickMeas :=
  { ia := List.replicate 4 0#16, ib := List.replicate 4 0#16, v := List.replicate 4 0#16, vdc := 0#16, temps := List.replicate 4 0#16
    good := 0#13, tbrk := 0#4, desat := 0#4, gsup := 0#4 }

def meas0 : CordMeas :=
  { sig := List.replicate 4 [0, 0, 0, 0], ab := List.replicate 4 (List.replicate 4 []), tv := List.replicate 4 15#4, lv := List.replicate 4 15#4, temp := some 400#16 }

def image0 (n : Nat) : Image :=
  { magic := 0#32, seq := 0#32, len := 0#32, compat := 0#32, icrc := 0#32, hcrc := 0#32,
    sections := [{ typ := 1#32, target := 0#32, len := 5#32, rsv := 0#32, body := List.replicate n 0#32 }] }

theorem test_wellFormed : Instr.wf (.t1Tick { laneA := .missing, laneB := .missing, links := List.replicate 4 .missing }) = true ∧
    Instr.wf (.sampleFrame .A 0 false brick0 { old := false, copy := .whole }) = true ∧ Instr.wf (.fieldFrameConsumption 0 true true frame0) = true ∧
    Instr.wf (.pulsedWindow 0 (List.replicate 32 { mv := 0, ua := 0 })) = true ∧ Instr.wf (.canReportDelivery 0 (.sent .queued 7 7)) = true ∧
    Instr.wf (.cordResultFrame { meas := meas0, copyA := .whole, copyB := .lost }) = true ∧ Instr.wf (.imageLoad (image0 2)) = true := by decide

theorem test_illFormed_t1Tick :
    Instr.wf (.t1Tick { laneA := .missing, laneB := .missing, links := List.replicate 3 .missing }) = false := by decide
theorem test_illFormed_sampleFrame : Instr.wf (.sampleFrame .A 0 false { brick0 with ib := [] } { old := false, copy := .whole }) = false ∧
    Instr.wf (.sampleFrame .A 0 false { brick0 with temps := [0#16] } { old := false, copy := .whole }) = false := by decide
theorem test_illFormed_fieldFrame :
    Instr.wf (.fieldFrameConsumption 0 true true { frame0 with chans := List.replicate 7 { runs := [(500, 0#5)], openLn := 0#5, supply := true } }) =
      false ∧
    Instr.wf (.fieldFrameConsumption 0 true true { frame0 with chans := List.replicate 8 { runs := [(499, 0#5)], openLn := 0#5, supply := true } }) =
      false ∧
    Instr.wf (.fieldFrameConsumption 0 true true { frame0 with inputs := [(500, [])] }) = false ∧
    Instr.wf (.fieldFrameConsumption 0 true true { frame0 with inputs := [(7, List.replicate 32 { mv := 0, ua := 0 })] }) = false ∧
    Instr.wf (.fieldFrameConsumption 0 true true { frame0 with vgrp := [24000] }) = false ∧ Instr.wf (.fieldFrameConsumption 0 true true { frame0 with rb := [] }) = false ∧
    Instr.wf (.fieldFrameConsumption 0 true true { frame0 with pins := some [] }) = false := by decide
theorem test_illFormed_pulsedWindow : Instr.wf (.pulsedWindow 0 (List.replicate 31 { mv := 0, ua := 0 })) = false := by decide
theorem test_illFormed_canReport : Instr.wf (.canReportDelivery 0 (.sent .queued 8 7)) = false ∧
    Instr.wf (.canReportDelivery 0 (.received { w0 := 0#32, w1 := 0#32, data := List.replicate 17 0#32 } 7 8 false)) = false ∧
    Instr.wf (.canReportDelivery 0 (.received { w0 := 0#32, w1 := 0#32, data := [] } 9 8 false)) = false := by decide
theorem test_illFormed_cordFrame : Instr.wf (.cordResultFrame { meas := { meas0 with sig := [] }, copyA := .whole, copyB := .whole }) = false ∧
    Instr.wf (.cordResultFrame { meas := { meas0 with ab := List.replicate 4 [[]] }, copyA := .whole, copyB := .whole }) = false ∧
    Instr.wf (.cordResultFrame { meas := { meas0 with tv := [] }, copyA := .whole, copyB := .whole }) = false ∧
    Instr.wf (.cordResultFrame { meas := { meas0 with lv := [15#4] }, copyA := .whole, copyB := .whole }) = false := by decide
theorem test_illFormed_image : Instr.wf (.imageLoad (image0 1)) = false := by decide

/-! ## Worked examples of the manual -/

/-- R67's example: 1.5 and −0.625 make 0.875, 0x7000_0000. -/
theorem test_fadd_example : (bfRound (dyAdd (bfVal 0x60000001#32) (bfVal 0xB0000000#32))).1 = 0x70000000#32 := by decide +kernel

/-- The second example: 0.875 as a Q16.16 word. -/
theorem test_ffix_example : (bfFix (bfVal 0x70000000#32) 16).1 = 0xE000#32 := by decide +kernel

/-! ## A module that runs -/

/-- A lane with power and all its clock domains, in a role. -/
def lane (i : LaneId) (role : Nat) : Lane := fset (fset { Lane.zero i with powered := true } SYS_STS_LROLE role) CLK_DOM_RUN 0x1FF

/-- Lane A ACTIVE, lane B without power. -/
def solo : State := { State.reset with la := lane .A 3 }

/-- Lane A ACTIVE, lane B in STANDBY. -/
def duo : State := { solo with lb := lane .B 2 }

/-- The same with an edit of lane A. -/
def withA (s : State) (f : Lane → Lane) : State := { s with la := f s.la }

/-- An issue by core 1 of lane A without a guard. -/
def is : Issue := { lane := .A, core := 1, guard := { neg := false, p := 0#3 }, fetch := .none }

/-- Lane A whose core 1 holds these values in w1 and w2 and stands at the start of its slice. -/
def core (s : State) (a b : Word) : State := withA s fun l =>
  putCore l 1 { coreOf l 1 with tasks := vmod (coreOf l 1).tasks 0 fun x => { setW (setW x 1#5 a) 2#5 b with pc := 0x80000, run := .live } }

theorem test_solo_runs : laneRuns (laneOf solo .A) = true ∧ laneRuns (laneOf solo .B) = false ∧ activeLane solo = some .A := by decide +kernel
theorem test_duo_runs : laneRuns (laneOf duo .A) = true ∧ laneRuns (laneOf duo .B) = true ∧ peerStandby duo .A = true ∧ xlnOn duo = true := by
  decide +kernel

/-! ## Instructions of a core -/

theorem test_witness_Issues : Issues is solo := ⟨by decide, by decide, by decide +kernel⟩

/-- IntegerOperations, on the example of a sum that wraps: the instruction runs and writes it. -/
theorem test_add_wraps : ∃ t, exec (.add is 3#5 1#5 2#5) (core solo 0xFFFFFFFF#32 2#32) = .next t ∧ getW (ctxOf is t) 3#5 = 1#32 :=
  ⟨_, rfl, by decide +kernel⟩

/-- Divisions: a divisor of zero with either sign of the dividend, the quotient that does not fit, an ordinary one. -/
theorem test_witness_Divisions :
    ([(7#32, 0#32), (0x80000000#32, 0#32), (0x80000000#32, 0xFFFFFFFF#32), (0xFFFFFFF9#32, 2#32)].all fun p =>
      getW (ctxOf is (core solo p.1 p.2)) 1#5 == p.1 && getW (ctxOf is (core solo p.1 p.2)) 2#5 == p.2) = true ∧
    Issues is (core solo 7#32 0#32) ∧ is.fetch ≠ .single :=
  ⟨by decide +kernel, ⟨by decide, by decide, by decide +kernel⟩, by decide⟩

/-- ComparisonsAndPredicates: an exponent out of range. -/
theorem test_witness_ComparisonsAndPredicates :
    (1#3 : PredNo) ≠ 0#3 ∧ (2#2 : BitVec 2) ≠ 3#2 ∧ (6#7 : BitVec 7).toNat ≤ 6 ∧ 8 ≤ (8#7 : BitVec 7).toNat ∧ (10#7 : BitVec 7).toNat ≤ 10 ∧
    (6#3 : BitVec 3) ≠ 7#3 ∧ bfOut 0x40000020#32 = true ∧ bfOut 0x400000E0#32 = false ∧ guardNever is.guard = false := by decide +kernel

/-- LoadsReadMemory, AtomicsAndCrossbarRetries: the first and the last word of each memory. -/
theorem test_witness_LoadsReadMemory :
    (∀ a ∈ [0x01000000, 0x013FFFFC, 0x02000000, 0x020FFFFC, 0x03000000, 0x030FFFFC],
      a % 4 = 0 ∧ eccAt (laneAt is solo) a .none = .none ∧
      ((0x01000000 ≤ a ∧ a < 0x01400000) ∨ (0x02000000 ≤ a ∧ a < 0x02100000) ∨ (0x03000000 ≤ a ∧ a < 0x03100000))) ∧
    idleCycles (laneAt is solo) is.core = 0 ∧ (getW (ctxOf is (core solo 0x01400000#32 0#32)) 1#5 + (0xFFC#12).signExtend 32).toNat = 0x013FFFFC := by
  decide +kernel

/-- LoadsReadMemory, StoresTakeEffect: a register of the windows that a read clears, one with plain writable bits, and an address of the
windows without a register, none of which the hardware has just changed. -/
theorem test_witness_windowWords :
    (∀ a, (laneAt is solo).cyc.at_ a = []) ∧ (∀ e ∈ (laneAt is solo).cyc.evs, e.addr ≠ XLN_CNT_HO.addr) ∧
    (∃ d, findReg XLN_CNT_HO.addr = some d ∧ d.rc ≠ 0) ∧ findReg 0x4012FFFC = none ∧ (0x4012FFFC : Nat) < 0x40130000 ∧
    (∃ d, findReg (ADM_TCFG 0) = some d ∧ d.com = 0 ∧ writeReserved (ADM_TCFG 0) 0 = false ∧ blockOf (ADM_TCFG 0) ≠ 6) := by
  refine ⟨fun _ => rfl, fun e h => (by cases h), ⟨_, rfl, by decide +kernel⟩, by decide +kernel, by decide, ⟨_, rfl, by decide +kernel⟩⟩

/-- A commit buffer with this many entries, the first of them of axis 0's command register. -/
def buffered (n : Nat) : State := withA solo fun l =>
  putCur l 1 { curTask l 1 with buf := (List.range n).map fun k => (AXS_CMD 0 + 0x1000 * k, 0#32) }

/-- StoresTakeEffect: a buffer that holds the register's entry, and a full one that does not. -/
theorem test_witness_buffers : (∃ e ∈ (ctxOf is (buffered 2)).buf, e.1 = AXS_CMD 0) ∧
    (∀ e ∈ (ctxOf is (buffered 64)).buf, e.1 ≠ AXS_MOD 0) ∧ 64 ≤ (ctxOf is (buffered 64)).buf.length ∧
    hasCommitted (AXS_MOD 0) = true ∧ hasPlain (AXS_MOD 0) = false := by decide +kernel

/-- StoresTakeEffect: the last word of data SRAM, a staging area, a register of committed fields, an empty commit buffer. -/
theorem test_witness_StoresTakeEffect :
    mayStore (laneAt is solo) 0x013FFFFC 4 = true ∧ mayStore (laneAt is solo) 0x03007DFF 1 = true ∧
    eccAt (laneAt is solo) 0x03007DFF .none ≠ .double ∧ hasCommitted (AXS_CMD 0) = true ∧ hasPlain (AXS_CMD 0) = false ∧
    0x40000000 ≤ AXS_CMD 0 ∧ AXS_CMD 0 < 0x40130000 ∧ AXS_CMD 0 % 4 = 0 ∧ (ctxOf is solo).buf = [] ∧ is.fetch = .none := by decide +kernel

theorem test_witness_Atomics : inCapture (laneAt is solo) 0x013FFFFC = false ∧ eccAt (laneAt is solo) 0x013FFFFC .single ≠ .double ∧
    (0x013FFFFC : Nat) % 4 = 0 ∧ laneRuns (laneOf solo .A) = true := by decide +kernel

/-- AccessRightsAndExceptions: addresses that are not permitted, misaligned ones, a double-bit error. -/
theorem test_witness_AccessRightsAndExceptions :
    mayLoad 0x80000 4 = false ∧ mayLoad 0x01400000 4 = false ∧ mayLoad 0x40000000 2 = false ∧ mayStore (laneAt is solo) 0x02000000 4 = false ∧
    mayAmo (laneAt is solo) 0x02000000 = false ∧ mayLoad 0x01000002 4 = true ∧ (0x01000002 : Nat) % 4 ≠ 0 ∧
    mayStore (laneAt is solo) 0x01000001 2 = true ∧ mayAmo (laneAt is solo) 0x01000001 = true ∧
    eccAt (laneAt is solo) 0x01000000 .double = .double ∧ (15#7 : BitVec 7).toNat < 16 ∧ (11#7 : BitVec 7).toNat < 12 := by decide +kernel

/-- AccessRightsAndExceptions: table words that the image declares writable, in a lane without an enabled axis. -/
theorem test_witness_tableStore :
    (let l := { laneAt is solo with decl := { Decl.default with wr := [(0x02000000, 0x02000010)] } }
     (∃ r ∈ l.decl.wr, r.1 ≤ 0x0200000C ∧ 0x0200000C < r.2) ∧ (∀ x : Axis, axEnabled l x = false)) := by decide +kernel

/-- BranchCallReturn, BoundedLoops: a full word of each stack, counts at both ends of their range. -/
def stacked : State := withA solo fun l =>
  putCur l 1 { curTask l 1 with calls := [0x80010], loops := [{ count := 1, start := 0x80004, fin := 0x80008 }, { count := 2, start := 0, fin := 4 }] }

theorem test_witness_BoundedLoops : Issues is stacked ∧ is.guard = { neg := false, p := 0#3 } ∧ (1#16 : BitVec 16) ≠ 0#16 ∧
    (∃ a r, (ctxOf is stacked).calls = a :: r) ∧ (∃ f r, (ctxOf is stacked).loops = f :: r ∧ f.count ≤ 1) ∧
    (∃ f r, (ctxOf is stacked).loops.tail = f :: r ∧ 1 < f.count) ∧
    (getW (ctxOf is (core solo 0#32 3#32)) 1#5).toNat = 0 ∧ (2#16 : BitVec 16).toNat < (getW (ctxOf is (core solo 0#32 3#32)) 2#5).toNat ∧
    (getW (ctxOf is (core solo 0#32 3#32)) 2#5).toNat ≤ (3#16 : BitVec 16).toNat :=
  ⟨⟨by decide, by decide, by decide +kernel⟩, rfl, by decide, ⟨_, _, rfl⟩, ⟨_, _, rfl, by decide⟩, ⟨_, _, rfl, by decide⟩, by decide +kernel,
    by decide +kernel, by decide +kernel⟩

/-- FalseGuardsHaveNoEffect: the guard on a predicate that is false. -/
theorem test_witness_FalseGuardsHaveNoEffect : asleep (laneAt is solo) = false ∧
    (∀ c ∈ [Instr.cmp is 1#3 0#2 1#5 2#5 0#7, .ldx is 1#5 2#5 3#5 0#7 .none, .br is 1#22, .mfs is 1#5 0#12], rylinFits c = true) ∧ is.fetch ≠ .double ∧ guardNever { neg := false, p := 1#3 } = false ∧
    guardOn (ctxOf is solo) { neg := false, p := 1#3 } = false := by decide +kernel

/-- RefusedWordsTakeIll: a reserved operand value of each of the named instructions, the guard 0b1000, a fetch with two errors. -/
theorem test_witness_RefusedWordsTakeIll :
    (∀ c ∈ [Instr.cmp is 0#3 0#2 1#5 2#5 0#7, .cmp is 1#3 3#2 1#5 2#5 0#7, .cmp is 1#3 0#2 1#5 2#5 7#7, .cmpi is 1#3 0#2 1#5 7#3 0#9,
        .ldx is 1#5 2#5 3#5 16#7 .none, .stx is 1#5 2#5 3#5 12#7 .none, .br is 0#22, .loop is 1#5 0#16,
        .endl { is with guard := { neg := false, p := 1#3 } }, .rstk is 1#5 2#5 0x13#5, .mfs is 1#5 11#12], rylinFits c = false) ∧
    guardNever { neg := true, p := 0#3 } = true ∧ is.fetch ≠ .double := by decide +kernel

/-- BlockFloatInstructions: the bounds of the clauses on rounding. -/
theorem test_witness_BlockFloatInstructions : bfCanon 0x7FFFFF1F#32 = true ∧ bfCanon 0x000000E0#32 = true ∧ bfCanon 0x00000000#32 = false ∧
    (8 : Int) ≤ 8 ∧ (0x800000 : Int) ≤ 0x800000 ∧ (-0x800001 : Int) < -0x800000 ∧ (0xFFFFFF : Int) ≤ 0xFFFFFF ∧
    (bfRound { m := 0, e := 5 }).2 = BfFlags.none ∧
    -- ties of both signs, a value that loses no bit, and exponents of FFIX on both sides of zero
    (∀ m ∈ [(0x800001 : Int), -0x800001], 2 ^ 23 ≤ m.natAbs ∧ m.natAbs < 2 ^ (23 + 1) ∧ (bfRound { m := m, e := 0 }).2 = BfFlags.none) ∧
    (2 ^ 0 ≤ (1 : Int).natAbs ∧ (1 : Int).natAbs < 2 ^ (0 + 1) ∧ (bfRound { m := 1, e := 0 }).2 = BfFlags.none) ∧
    (bfRound { m := 0x800001, e := 0 }).1 = 0x40000118#32 := by decide +kernel

/-- A task with one tag declared; and one whose tag 0 is in the given state. -/
def tagged (n : Nat) (t : TagSt) : State := withA solo fun l => fset { l with tags := vset l.tags 0 t } (ADM_TCFG_TAGS 16) n

theorem test_witness_PostTakesLowestFreeTag :
    (let l := laneAt is (tagged 1 .free)
     tagCount l 1 0 < fget l (ADM_TCFG_TAGS 16) ∧ vget l.tags 0 = .free ∧ ∀ h : Fin 64, h < 0 → vget l.tags h ≠ .free) ∧
    (let l := laneAt is (tagged 1 (.done 1 0 5#32))
     fget l (ADM_TCFG_TAGS 16) ≤ tagCount l 1 0) := by decide +kernel

theorem test_witness_WaitAndTestTags :
    (let l := laneAt is (tagged 1 (.done 1 0 5#32)); tagHeld 1 0 (vget l.tags 0) = true ∧ vget l.tags 0 = .done 1 0 5#32) ∧
    (let l := laneAt is (tagged 1 (.busy 1 0 .run 0 0#32 false))
     tagHeld 1 0 (vget l.tags 0) = true ∧ ∀ r, vget l.tags 0 ≠ .done 1 0 r) ∧
    (∀ g : Fin 64, tagHeld 1 0 (vget (laneAt is solo).tags g) = false) :=
  ⟨by decide +kernel, ⟨by decide +kernel, fun r h => TagSt.noConfusion (show TagSt.busy 1 0 .run 0 0#32 false = .done 1 0 r from h)⟩,
    by decide +kernel⟩

/-- A background task of the set of work. -/
def bg : State := withA solo fun l => fset (fset (fset l (ADM_TCFG_CLASS 16) 4) (ADM_TCFG_VALID 16) 1) (ADM_TCFG_ITEM 16) 0xFF

theorem test_witness_WtickEndsJob : Issues is bg ∧ isBg (laneAt is solo) 1 0 = false ∧ isBg (laneAt is bg) 1 0 = true ∧
    taskInSet (laneAt is bg) (tix 1 0) = true ∧ (ctxOf is bg).buf = [] ∧ (ctxOf is bg).ovrun = false :=
  ⟨⟨by decide, by decide, by decide +kernel⟩, by decide +kernel, by decide +kernel, by decide +kernel, by decide +kernel, by decide +kernel⟩

/-- WevtTakesLowestSource: source 255 alone, and none. -/
theorem test_witness_WevtTakesLowestSource :
    (let l := rset (laneAt is bg) (FLT_WP 16 7) 0x80000000#32
     (rget l (FLT_WP 16 (255 / 32))).getLsbD (255 % 32) = true ∧ ∀ j < 255, (rget l (FLT_WP 16 (j / 32))).getLsbD (j % 32) = false) ∧
    (∀ k < 256, (rget (laneAt is bg) (FLT_WP 16 (k / 32))).getLsbD (k % 32) = false) := by decide +kernel

theorem test_witness_RaiseAndReadSticky : (0x12#5 : BitVec 5).toNat < 0x13 ∧ is.fetch = .none ∧
    (∃ d, findReg SYS_STK = some d ∧ bit d.w1c 0 = true) := ⟨by decide, rfl, ⟨_, rfl, by decide +kernel⟩⟩

/-! ## CAN group, field inputs, special registers -/

/-- A module whose port 0 is enabled for one deadline slot, holds a full and an owned entry, and has these frames in its FIFO. -/
def txf : TxFrame := { w0 := 0#32, w1 := 0#32, data := [], dl := 0, lim := 0, ord := 0, at_ := 0, begun := false, att := 0 }

def can (n : Nat) (slot : Nat) : State := withA solo fun l =>
  fset (fset { l with cans := vset l.cans 0 { CanRt.zero with
    full0 := [63], own0 := [0], full1 := [255], own1 := [1], fifo := List.replicate n txf, slots := vset CanRt.zero.slots 0 (some txf) } }
    (CAN_DEN_EN 0) 1) (CAN_DS_STATE 0 0) slot

theorem test_witness_CanInstructions :
    (0x80000000#32 : Word).toNat / 8 ≠ 0 ∧ (7#32 : Word).toNat / 8 = 0 ∧ (readDesc (laneAt is (can 31 0)) 0 0x03007800).isSome = true ∧
    readDesc (laneAt is (can 31 0)) 0 0x03007804 = none ∧ (vget (laneAt is (can 31 0)).cans 0).fifo.length < 32 ∧
    32 ≤ (vget (laneAt is (can 32 0)).cans 0).fifo.length ∧ isFollower (laneAt is (can 0 0)) 0 = false ∧
    isFollower (fset (fset (laneAt is solo) (CAN_CFG_PAIR 0) 1) (CAN_CFG_PAIR 2) 1) 2 = true ∧
    (let l := laneAt is (can 0 0)
     (fget l (CAN_DEN_EN 0)).testBit 0 = true ∧ (∀ q ∈ portsOf l 0, fget l (CAN_DS_STATE q 0) ≠ 1) ∧
     txFrame l 0 (.slot 0) = none) ∧
    (let l := laneAt is (can 0 1)
     (∀ k : Fin 8, (fget l (CAN_DEN_EN 0)).testBit k = false ∨ ∃ q ∈ portsOf l 0, fget l (CAN_DS_STATE q k) = 1) ∧
     txFrame l 0 (.slot 0) = some txf ∧ txf.begun = false) ∧
    (vget (laneAt is (can 0 0)).cans 0).full0 = [63] ∧ (vget (laneAt is solo).cans 0).full0 = [] ∧
    (7#32 : Word).toNat / 4 = 1 ∧ (vget (laneAt is (can 0 0)).cans 0).full1 = [255] := by decide +kernel

theorem test_witness_CackReturnsEntry :
    0 ∈ (vget (laneAt is (can 0 0)).cans 0).own0 ∧ 1 ∈ (vget (laneAt is (can 0 0)).cans 0).own1 ∧
    (∀ j ∈ (vget (laneAt is (can 0 0)).cans 0).own0, entryAddr 0 0 j ≠ entryAddr 0 1 1) ∧
    -- an address outside queue SRAM, a FULL entry, and one inside an entry
    (∀ a ∈ [0x02FFFFFF, entryAddr 0 0 63, entryAddr 0 0 0 + 4], ∀ q, (∀ e ∈ (vget (laneAt is (can 0 0)).cans q).own0, entryAddr q 0 e ≠ a) ∧
      ∀ e ∈ (vget (laneAt is (can 0 0)).cans q).own1, entryAddr q 1 e ≠ a) := by decide +kernel

theorem test_witness_FieldInputInstructions :
    fget (fset (laneAt is solo) (FIO_ICFG_MODE 39) 4) (FIO_ICFG_MODE 39) = 4 ∧ counterOf 39 = some 15 ∧ counterOf 8 = none ∧
    fget (laneAt is solo) (FIO_ICFG_MODE 0) ≠ 4 ∧ 0x7FFFFFFF < rround ((32768 : Rat) * 65536) ∧ rround ((32767 : Rat) * 65536) ≤ 0x7FFFFFFF := by
  decide +kernel

theorem test_witness_SpecialRegisters : Issues is bg ∧ is.fetch = .none ∧ (10#12 : BitVec 12).toNat ≤ 10 ∧
    fget (laneAt is solo) (ADM_TCFG_CLASS (tix 1 0)) = 0 ∧ fget (laneAt is bg) (ADM_TCFG_CLASS (tix 1 0)) ≠ 0 :=
  ⟨⟨by decide, by decide, by decide +kernel⟩, rfl, by decide, by decide +kernel, by decide +kernel⟩

/-! ## Ticks, releases, commits -/

theorem test_witness_TicksReleaseTasks : laneRuns (laneOf solo .A) = true ∧ (laneOf solo .B).powered = false ∧
    (laneOf (withA solo fun l => { l with t1n := 99 }) .A).t1n % 10 ≠ 0 ∧ (laneOf (withA solo fun l => { l with t1n := 100 }) .A).t1n % 100 = 0 ∧
    -- beside another lane that runs
    (∀ i ∈ [LaneId.A, .B], (let u := commitsDue { tickTo (nextT1 duo) duo with t1At := nextT1 duo }
      laneRuns (laneOf u i) = true ∧ (laneOf u (otherLane i)).powered = true ∧ (laneOf u i).waitPeer = false ∧
      roleOf (laneOf u i) ≠ roleCatchUp ∧ rget (laneOf u i) XLN_FLAG = 0#32)) := by
  decide +kernel

/-- A T1 task of core 1 with a job that ended, or not, whose commit instant is the present one. -/
def due (r : Run) : State := { withA solo fun l =>
  putTask (fset (fset l (ADM_TCFG_CLASS 16) 1) (ADM_TCFG_VALID 16) 1) 1 0 { TaskCtx.zero with act := true, run := r, buf := [(FLT_WM 16 0, 1#32)] }
  with now := 3200000 }

theorem test_witness_CommitInstant : ∀ r ∈ [Run.idle, .live],
    (let u := tickBy (commitDue 16) (due r)
     laneRuns (laneOf u .A) = true ∧ commitDue 16 (laneOf u .A) = some 3200000 ∧ 3200000 ≤ u.now ∧ dueTasks u.now (laneOf u .A) = [16] ∧
     (taskOf (laneOf u .A) 1 0).run = r) := by decide +kernel

theorem test_witness_CommitInstant_buffer : (taskOf (laneOf (due .idle) .A) 1 0).buf = [(FLT_WM 16 0, 1#32)] ∧ (findReg (AXS_CMD 0)).isSome = true ∧
    blockOf (LEG_CFG 0) = 4 ∧ blockOf (OBS_CFG 0) = 5 := by decide +kernel

/-! ## A period -/

/-- Axis 0 of lane A in a period of 400,000 edge ticks, brick 0 bound to it. -/
def axis (x : AxisRt) : State := withA solo fun l =>
  fset (fset (fset (fset { l with axes := vset l.axes 0 x } (AXS_EN_EN 0) 1) (AXS_EN_BST 0) 1) (AXS_TP_TP 0) 400000) (LEG_CFG_TYPE 0) 1

theorem test_witness_PeriodStartReleases : ∀ x ∈ [{ AxisRt.zero with live := true }, AxisRt.zero, { AxisRt.zero with startS := some 7 }],
    (let u := tickBy (fun l => nextStart l 0) (axis x)
     laneRuns (laneOf u .A) = true ∧ vget (laneOf u .A).axes 0 = x ∧ (axRuns (laneOf u .A) 0 = x.live)) := by decide +kernel

/-- PeriodEndReducesUnit: the ACTIVE lane beside one in CATCH-UP whose period runs too. -/
theorem test_witness_periodBeside :
    (let s := axis { AxisRt.zero with live := true, ended := false }
     let u := { s with lb := { lane .B 1 with axes := vset (lane .B 1).axes 0 { AxisRt.zero with live := true, ended := false } } }
     laneRuns (laneOf u .B) = true ∧ roleOf (laneOf u .B) = roleCatchUp ∧ laneActive (laneOf u .A) = true ∧ xlnOn u = true ∧
     (vget (laneOf u .B).axes 0).live = true ∧ (vget (laneOf u .B).axes 0).ended = false) := by decide +kernel

/-- CutoffAndLatch, EdgeOutSendsFrames, PeriodEndReducesUnit: a period under way, before and after its cut-off and latch. -/
theorem test_witness_period : ∀ c : Bool,
    (let s := axis { AxisRt.zero with live := true, ended := false, cutDone := c, latDone := c }
     laneRuns (laneOf s .A) = true ∧ (vget (laneOf s .A).axes 0).live = true ∧ (vget (laneOf s .A).axes 0).ended = false ∧
     (vget (laneOf s .A).axes 0).cutDone = c ∧ timingAxis (laneOf s .A) 0 = some 0 ∧ axRuns (laneOf s .A) 0 = true ∧
     roleOf (laneOf s .A) ≠ roleCatchUp ∧ (laneOf s (otherLane .A)).powered = false) := by decide +kernel

def hashed (l : Lane) (x : Word) : Lane := { l with units := vset l.units 16 { UnitSt.zero with hash := some x } }

def hashes : State := { duo with la := hashed duo.la 3#32, lb := hashed duo.lb 4#32 }

theorem test_witness_HashesCompared :
    laneActive (laneOf hashes .A) = true ∧ laneRuns (laneOf hashes .B) = true ∧ roleOf (laneOf hashes .B) = roleStandby ∧
    xlnOn hashes = true ∧ (vget (laneOf hashes .A).units 16).hash = some 3#32 ∧ (vget (laneOf hashes .B).units 16).hash = some 4#32 ∧
    (vget (hashed duo.lb 3#32).units 16).hash = some 3#32 :=
  ⟨by decide +kernel, by decide +kernel, by decide +kernel, by decide +kernel, rfl, rfl, rfl⟩

/-! ## Billet links -/

/-- Brick 0's first port in a state, with or without a time base, and its number. -/
def port (q : PortRt) (base : Bool) (num : Option (Fin 32)) : State :=
  { solo with bricks := vset solo.bricks 0 { BrickRt.zero with ports := vset BrickRt.zero.ports 0 q, tbase := base, num := num } }

/-- The same brick in operation, with the numbers of the period that its lane expects. -/
def sampling (c p : Nat) : State :=
  let s := port { PortRt.zero with lst := 3, bst := 3 } true (some 0)
  { s with
    bricks := vset s.bricks 0 { vget s.bricks 0 with runs := true }
    la := { s.la with rx := vset s.la.rx 0 { RxRt.zero with seqC := c, seqP := p } } }

theorem test_witness_SampleCopies :
    laneRuns (laneOf (sampling 0 0) .A) = true ∧ portCarries (sampling 0 0) 0 0 = true ∧
    (vget (sampling 0 0).bricks 0).runs = true ∧ (vget (sampling 0 0).bricks 0).smpC = none ∧
    ((brickSample brick0 (vget (sampling 0 0).bricks 0)).smpC.any fun f =>
      let w0 := (f.getD 0 0#32).toNat
      sampleOk f (crc16Words f) && w0 / 16 % 32 == 0 && w0 / 2 ^ 16 % 2 ^ 16 == (vget (laneOf (sampling 0 0) .A).rx 0).seqC &&
      w0 / 2 ^ 16 % 2 ^ 16 != (vget (laneOf (sampling 1 0) .A).rx 0).seqC && !((f.getD 10 0#32).getLsbD 27) &&
      w0 / 2 ^ 16 % 2 ^ 16 == (vget (laneOf (sampling 1 0) .A).rx 0).seqP &&
      (match copyWords (.altered 1 1#32) f with | some ws => !(sampleOk ws (crc16Words f)) | none => false) &&
      (copyWords .lost f).isNone) = true ∧
    timingAxis (laneOf (sampling 0 0) .A) 0 = none ∧
    (let s := axis { AxisRt.zero with live := true, cutDone := true }
     timingAxis (laneOf s .A) 0 = some 0 ∧ axPeriods (laneOf s .A) 0 = true ∧ (vget (laneOf s .A).axes 0).cutDone = true) := by decide +kernel

theorem test_witness_Ports :
    (portOf solo 0 0).lst = 0 ∧ (portOf solo 0 0).bst = 0 ∧ linkPresent solo 0 = true ∧ (vget solo.links 0).dark = false ∧
    (∀ ds ∈ [[], [10], [43], [42]], ∀ e ∈ [(0 : Nat), 255],
      (let q := { PortRt.zero with lst := 1, wait := true, echo := e, dls := ds }
       (portOf (port q false none) 0 0).wait = true ∧ (portOf (port q false none) 0 0).echo = e ∧ 1 ≤ (portOf (port q false none) 0 0).lst)) ∧
    -- a measurement of 10 beside a mean of 42, and of 43
    rdiv ((25 : Int) - 5) 2 = 10 ∧ ((10 : Int) * 1 - 42).natAbs ≤ 32 * 1 ∧ 32 * 1 < ((10 : Int) * 1 - 43).natAbs := by
  decide +kernel

theorem test_witness_TimebaseAndDiscovery :
    (∀ p ∈ [(1, false, (-5 : Int), 0), (1, true, -6, 1), (1, true, 2 ^ 32 - 3, 2), (2, true, 59, 64), (3, true, 60, 65)],
      (let s := port { PortRt.zero with lst := 2, bst := p.1 } p.2.1 none
       2 ≤ (portOf s 0 0).lst ∧ 1 ≤ (portOf s 0 0).bst ∧ (vget s.bricks 0).tbase = p.2.1 ∧
       (syncDiff p.2.2.1 5 (delayOf (portOf s 0 0))).natAbs = p.2.2.2)) ∧
    (∀ n ∈ [(none : Option (Fin 32)), some 0, some 31],
      (let s := port { PortRt.zero with lst := 2, bst := 2 } true n
       (portOf s 0 0).lst = 2 ∧ 2 ≤ (portOf s 0 0).bst ∧ (vget s.bricks 0).num = n)) ∧
    fget (laneOf solo .A) (BLK_BST_STATE 0) ≠ 3 ∧ fget (fset (laneOf solo .A) (BLK_BST_STATE 0) 3) (BLK_BST_STATE 0) = 3 := by decide +kernel

/-- GatePermits: of the bytes that one port gets instead of the pulse, none, one whose halves do not add up, and a good one. -/
theorem test_witness_pulseFaults :
    (∀ v ∈ [none, some 0x33#8, some 0x3C#8], [({ port := 0, byte := v } : PulseFault)].find? (fun e => decide (e.port = 0)) = some { port := 0, byte := v }) ∧
    (0x33#8 : Byte).toNat / 16 + (0x33#8 : Byte).toNat % 16 ≠ 15 ∧ (0x3C#8 : Byte).toNat / 16 + (0x3C#8 : Byte).toNat % 16 = 15 ∧
    (let s := port { PortRt.zero with bst := 1 } true none
     let p : PortRef := { link := 0, port := 0 }
     1 ≤ (portOf s (portBrick p) (portSide p)).bst) ∧ linkPresent solo 0 = true := by decide +kernel

/-- GatePermits: levels that read 1, read 0, and leave the channel as it was; a channel that differs; pulses on and off. -/
theorem test_witness_GatePermits :
    (∀ v : Bool, (let s := { solo with links := vset solo.links 0 { LinkRt.zero with send := v } }
     (vget s.links 0).send = v ∧ linkPresent s 0 = true ∧ (vget s.links 0).dark = false)) ∧
    (∀ u ∈ [none, some 5], (vget { solo with fields := vset solo.fields 0 { FieldRt.zero with difAt := u } }.fields 0).difAt = u) ∧
    -- levels at the bounds of R317 with the reading they give a channel that read `v` before
    (∀ x ∈ [((11000, 2000), false, true), ((5000, 2000), true, false), ((24000, 1500), true, false), ((10999, 2000), true, true),
        ((11000, 1999), false, false)],
      (let r : LineLevel := { mv := x.1.1, ua := x.1.2 }
       (11000 ≤ r.mv ∧ 2000 ≤ r.ua → x.2.2 = true) ∧ (r.mv ≤ 5000 ∨ r.ua ≤ 1500 → x.2.2 = false) ∧
       (¬ (11000 ≤ r.mv ∧ 2000 ≤ r.ua) → ¬ (r.mv ≤ 5000 ∨ r.ua ≤ 1500) → x.2.2 = x.2.1))) := by decide +kernel

/-- A lane that waits for an answer of brick 0, of which the first port alone is up; the brick has answered `d` before. -/
def waiting (op arg : Nat) (d : Option (Nat × List Word)) : State :=
  let s := port { PortRt.zero with lst := 3, bst := 3 } true (some 0)
  { s with
    bricks := vset s.bricks 0 { vget s.bricks 0 with done := d }
    la := { solo.la with mreq := some { brick := 0, op := op, arg := arg, tag := 7, ticks := 0, ans := none } } }

theorem test_witness_ManagementRequests :
    laneRuns (laneOf solo .A) = true ∧ fget (laneOf solo .A) BLK_MRSP_STATE ≠ 1 ∧ (∀ op < 8, mreqFor (laneOf solo .A) 0 op 0 = none) ∧
    (∀ op ∈ [2, 3, 4, 5, 6, 7],
      (let s := waiting op 15 none
       portCarries s 0 0 = true ∧ portCarries s 0 1 = false ∧ (vget s.bricks 0).num = some 0 ∧ (vget s.links (linkOf 0 0)).dark = false ∧
       (vget s.links (linkOf 0 0)).sel = .A ∧ mgmtFree s 0 0 (portOf s 0 0).mDn = true ∧ mgmtFree s 0 0 (portOf s 0 0).mUp = true ∧ (vget (laneOf s .A).rx 0).disc.step ≠ 2 ∧ (vget (laneOf s .A).rx 0).disc.step ≠ 4 ∧
       (laneOf s .A).mreq = some { brick := 0, op := op, arg := 15, tag := 7, ticks := 0, ans := none } ∧ (vget s.bricks 0).done = none)) ∧
    (vget (waiting 5 0 (some (3 + 2 ^ 16 * 5 + 2 ^ 24 * 7, mrspWords 0 5 7 0 []))).bricks 0).done =
      some (3 + 2 ^ 16 * 5 + 2 ^ 24 * 7, mrspWords 0 5 7 0 []) ∧
    payloadOk 2 (List.replicate 6 0#32) = true ∧ payloadOk 3 (List.replicate 6 0#32) = true ∧
    (vget (waiting 6 15 none).bricks 0).cur = none ∧
    (let s := withA solo fun l => { l with mreq := some { brick := 0, op := 2, arg := 0, tag := 0, ticks := 2, ans := none } }
     laneRuns (laneOf s .A) = true ∧ (laneOf s .A).mreq = some { brick := 0, op := 2, arg := 0, tag := 0, ticks := 2, ans := none }) := by
  decide +kernel

/-- ManagementRequests: a throttled cartridge whose port has just carried a frame, so that a request waits. -/
theorem test_witness_hotLink :
    (let s := waiting 4 0 none
     let s := { s with bricks := vmod s.bricks 0 fun b => { b with ports := vmod b.ports 0 fun q => { q with mDn := some 0 } } }
     let s := withA s fun l => fset { l with sens := vset l.sens 146 { vget l.sens 146 with hist := [0] } } (THM_T_LEVEL 146) 2
     linkHot s (linkOf 0 0) = true ∧ (portOf s 0 0).mDn = some 0 ∧ s.now < 0 + 3200000 ∧ portCarries s 0 1 = false ∧
     laneRuns (laneOf s .A) = true ∧ (mreqFor (laneOf s .A) 0 4 0).isSome = true ∧ laneRuns (laneOf s .B) = false) := by decide +kernel

/-! ## Field cartridges, feedback, CAN -/

theorem test_witness_FieldFrames :
    fieldPresent solo 0 = true ∧ fieldPresent { solo with okc := 0x6FF#11 } 0 = false ∧ fget (fset (laneOf solo .A) SYS_STS_SOLO 0) SYS_STS_SOLO = 0 ∧
    fget (laneOf solo .A) SYS_STS_SOLO = 1 ∧ fget (fset (laneOf solo .A) (FBK_CFG_TYPE 15) 2) (FBK_CFG_TYPE 15) = 2 ∧
    (laneOf solo .A).tb0 ≤ solo.now ∧ laneRuns (laneOf solo (otherLane .A)) = false ∧ 64000 ≤ { solo with now := 64000 }.now ∧
    (vget (laneOf (withA solo fun l => { l with chans := vmod l.chans 15 fun c => { c with xcEnd := some 9 } }) .A).chans 15).xcEnd = some 9 := by
  decide +kernel

theorem test_witness_OutputsAndSafeState :
    (let l := fset (fset (laneOf solo .A) (FIO_OSTS_RB 31) 1) (FIO_GRP_OK 3) 1
     fget l (FIO_OSTS_STATE 31) = 0 ∧ fget l (FIO_OSTS_RB 31) = 1 ∧ fget l (FIO_OSTS_FORCED 31) = 0 ∧ fget l (FIO_GRP_OK 3) = 1) ∧
    (∀ v ∈ [1, 3], fget (fset (laneOf solo .A) (FIO_OSTS_STATE 31) v) (FIO_OSTS_STATE 31) = v) ∧
    (let s := withA solo fun l => fset (fset (fset l (FIO_SSTS_SAFE 1) 1) SYS_CART_PRES 0x7FF) SYS_CART_OK 0x7FF
     fget (fset (laneOf solo .A) (FIO_SSTS_SAFE 1) 0) (FIO_SSTS_SAFE 1) = 0 ∧
     fget (fset (laneOf solo .A) SYS_CART_OK 0x5FF) SYS_CART_OK / 2 ^ 9 % 2 = 0 ∧
     fget (laneOf s .A) (FIO_SSTS_SAFE 1) = 1 ∧ slotUp (laneOf s .A) 9 = true ∧ fieldPresent s 1 = true ∧ (vget s.fields 1).sel = .A) ∧
    (∀ v ∈ [(false, none), (false, some [2, 1]), (true, some [0])],
      (let x := vget { solo with fields := vset solo.fields 0 { FieldRt.zero with safe := v.1, table := v.2 } }.fields 0
       fieldPresent solo 0 = true ∧ x.mute = false ∧ x.safe = v.1 ∧ x.table = v.2)) ∧
    (vget { solo with fields := vset solo.fields 0 { FieldRt.zero with mute := true } }.fields 0).mute = true ∧
    fget (fset (laneOf solo .A) (CAN_CFG_MODE 0) 1) (CAN_CFG_MODE 0) ≠ 0 ∧
    -- the times that a forced terminal, a low one and an uninterrupted one have stood
    (let s := { withA solo fun l => { l with outs := vset l.outs 31 { lim := false, lims := 0, hiT := some 0, hiC := 400000000, lowT := some 0, okT := some 0 } }
       with now := 320000000 }
     let x := vget (laneOf s .A).outs 31
     x.hiT = some 0 ∧ 0 + 3200000 * fget (laneOf s .A) (FIO_OCFG_TBLK 31) < min s.now x.hiC ∧ x.lowT = some 0 ∧ 6400000 ≤ s.now ∧
     x.okT = some 0 ∧ 320000000 ≤ s.now) := by
  decide +kernel

theorem test_witness_FeedbackCommands :
    (∀ v ∈ [0, 1], fget (fset (laneOf solo .A) (FBK_CFG_NPRB 15) v) (FBK_CFG_NPRB 15) = v) ∧
    (let l := fset (fset (fset (laneOf solo .A) (FBK_CHST_STATE 15) 2) SYS_CART_PRES 0x7FF) SYS_CART_OK 0x7FF
     fget l (FBK_CHST_STATE 15) = 2 ∧ chanCauses l 15 = []) ∧ chanCauses (laneOf solo .A) 0 ≠ [] ∧
    -- a position passed, and one not passed; a pulse width of 1 and of 0; the ratio at its bound and beyond
    (0#32 : Word).toInt ≤ fgetI (laneOf solo .A) (FBK_CNT_CNT 0) ∧ ¬ (1#32 : Word).toInt ≤ fgetI (laneOf solo .A) (FBK_CNT_CNT 0) ∧
    (0x15#32 : Word).toNat % 4 = 1 ∧ (0x15#32 : Word).toNat / 16 % 4096 = 1 ∧ (0x15#32 : Word).getLsbD 2 = true ∧ (0x11#32 : Word).getLsbD 2 = false ∧ 0 ≤ fgetI (laneOf solo .A) (FBK_VEL_VEL 0) ∧
    (0x5#32 : Word).toNat / 16 % 4096 = 0 ∧ ¬ ((1#16 : BitVec 16) = 0#16 ∨ (1#16 : BitVec 16).toNat < (0xFFFF#16 : BitVec 16).toInt.natAbs) ∧
    (1#16 : BitVec 16).toNat < (2#16 : BitVec 16).toInt.natAbs := by decide +kernel

/-- CanReportsDelivered: a frame for queue 0 of a port whose entries 0 to 62 are taken; frames under way; both bounds of the retry count. -/
theorem test_witness_CanReports :
    (let l := fset (fset { laneOf solo .A with cans := vset (laneOf solo .A).cans 0 { CanRt.zero with full0 := List.range 63 } }
       (CAN_CFG_MODE 0) 1) (CAN_FACT_ACT 0 63) 1
     fget l (CAN_CFG_MODE 0) ≠ 0 ∧ fget l (CAN_TSCFG_ROLE 0) = 0 ∧ (0x123#32 : Word).getLsbD 31 = false ∧ thicket l 0 0x123#32 = some (63, 1) ∧
     63 ∉ (vget l.cans 0).full0 ∧ 63 ∉ (vget l.cans 0).own0 ∧ ∀ j < 63, j ∈ (vget l.cans 0).full0) ∧
    txFrame (laneOf (can 1 1) .A) 0 (.slot 0) = some txf ∧ txf.at_ ≤ 0 ∧ (vget (laneOf (can 1 1) .A).cans 0).fifo = [txf] ∧
    fget (fset (laneOf (can 1 1) .A) (CAN_CFG_QRETRY 0) 0) (CAN_CFG_QRETRY 0) < txf.att + 1 ∧
    txf.att + 1 ≤ fget (fset (laneOf (can 1 1) .A) (CAN_CFG_QRETRY 0) 1) (CAN_CFG_QRETRY 0) ∧ (2#2 : BitVec 2) ≠ 3#2 ∧
    fget (laneOf solo .A) (CAN_STS_ESTATE 0) ≠ 2 ∧ fget (laneOf solo .A) (CAN_CFG_PXHD 0) = 0 ∧ fieldPresent solo 0 = true ∧
    -- a mode that starts frames and two that do not; a frame whose time has passed, and one whose time has not
    (let l := (fun l : Lane => fset { l with cans := vmod l.cans 0 fun c => { c with cand := some (.slot 0) } } (CAN_CFG_MODE 0) 1)
       (laneOf (can 1 1) .A)
     engineGives l 0 0 none (.sent (.slot 0) 0 1) = true ∧ engineGives l 0 0 (some 1) (.begun (.slot 0) 0) = true ∧
     engineGives l 0 0 (some 0) (.error (.slot 0) { bitAfterArb := false, at_ := 0 }) = false ∧
     engineGives l 0 0 (some 0) (.begun (.slot 0) 0) = false) ∧
    (∀ v ∈ [2, 3], fget (fset (laneOf solo .A) (CAN_CFG_MODE 0) v) (CAN_CFG_MODE 0) = v) ∧
    (let l := { laneOf (can 1 1) .A with ship := 1 }; txf.lim < l.ship ∧ (laneOf (can 1 1) .A).ship ≤ txf.lim) := by decide +kernel

/-- CanReportsDelivered: what the engine does not give in bus-off, in silence, of a frame that is no candidate, and of one whose start limit
has passed; and the outcome of the frame on the bus. -/
theorem test_witness_engine :
    fget (fset (laneOf solo .A) (CAN_STS_ESTATE 0) 2) (CAN_STS_ESTATE 0) = 2 ∧
    (let c := vget (laneOf (can 1 1) .A).cans 0
     c.cand ≠ some (.slot 0) ∧ (∀ g ∈ c.gone, g.1 ≠ .slot 0) ∧ c.run ≠ some (.slot 0, 0) ∧ ∀ r, c.run = some r → r.1 ≠ .slot 0) ∧
    (let l := { laneOf (can 1 1) .A with ship := 1, shipLog := [] }
     txFrame l 0 (.slot 0) = some txf ∧ txf.at_ ≤ 0 ∧ txf.lim < shipAt l 0 0) ∧
    (let l := (fun l : Lane => fset { l with cans := vmod l.cans 0 fun c => { c with run := some (.slot 0, 5) } } (CAN_CFG_MODE 0) 1)
       (laneOf (can 1 1) .A)
     engineGives l 9 0 none (.sent (.slot 0) 5 8) = true ∧ engineGives l 9 0 none (.sent (.slot 0) 4 8) = false) := by
  refine ⟨by decide +kernel, ⟨by decide +kernel, fun g h => (by cases h), by decide +kernel, fun r h => (by cases h)⟩, by decide +kernel,
    by decide +kernel⟩

/-- CanReportsDelivered: a frame that no thicket entry matches and goes to Q1; a queue without a FREE entry, with the oldest FULL one to be
overwritten, and with none. -/
theorem test_witness_CanQueues :
    (let l := fset (fset (laneOf solo .A) (CAN_CFG_MODE 0) 1) (CAN_CFG_NOMATCH 0) 1
     thicket l 0 0x123#32 = none ∧ fget l (CAN_CFG_NOMATCH 0) = 1 ∧ fget l (CAN_CFG_Q0OW 0) = 0) ∧
    fget (fset (laneOf solo .A) (CAN_CFG_Q0OW 0) 1) (CAN_CFG_Q0OW 0) ≠ 0 ∧
    (let c := { CanRt.zero with full0 := 63 :: List.range 63 }
     (∀ e < 64, e ∈ c.full0 ∨ e ∈ c.own0) ∧ c.full0 = 63 :: List.range 63) ∧
    (let c := { CanRt.zero with own0 := List.range 64 }; (∀ e < 64, e ∈ c.full0 ∨ e ∈ c.own0) ∧ c.full0 = []) := by decide +kernel

theorem test_witness_CanTimers :
    txFrame (laneOf (can 0 1) .A) 0 (.slot 0) = some txf ∧ txf.begun = false ∧ laneRuns (can 0 1).la = true ∧
    txFrame (withA (can 0 1) fun l => { l with cans := vmod l.cans 0 fun c => { c with slots := vset c.slots 0 (some { txf with begun := true }) } }).la
      0 (.slot 0) = some { txf with begun := true } ∧
    (∀ v ∈ [0, 2], fget (fset (laneOf solo .A) (CAN_STS_ESTATE 0) v) (CAN_STS_ESTATE 0) = v) ∧
    (let s := withA solo fun l => fset (fset (fset (fset { l with cans := vset l.cans 0 { CanRt.zero with pairAt := some 0 } }
        (CAN_TSSTS_STATE 0) 2) (CAN_TSPER_REFPER 0) 1) (CAN_TSCFG_ROLE 0) 2) (CAN_TSSTS_ALIGNED 0) 1
     laneRuns (laneOf s .A) = true ∧ laneRuns (laneOf s .B) = false ∧ fget (laneOf s .A) (CAN_TSSTS_STATE 0) = 2 ∧
     0 < fget (laneOf s .A) (CAN_TSPER_REFPER 0) ∧ fget (laneOf s .A) (CAN_TSCFG_ROLE 0) = 2 ∧ fget (laneOf s .A) (CAN_TSSTS_ALIGNED 0) = 1 ∧
     (vget (laneOf s .A).cans 0).pairAt = some 0) ∧ fget (laneOf solo .A) (CAN_TSSTS_STATE 0) ≠ 2 ∧
    (let l := fset { laneOf solo .A with cans := vset (laneOf solo .A).cans 0 { CanRt.zero with refAt := some 0 } } (CAN_TSCFG_ROLE 0) 2
     masterWaits l 0 = true ∧ (vget l.cans 0).refAt = some 0) := by decide +kernel

/-! ## The Cord -/

/-- A Cord with supply, transaction 0 open, one record stored. -/
def rec15 : List Word := 7#32 :: List.replicate 14 0#32
def record : List Word := rec15 ++ [(cordMac rec15).1, (cordMac rec15).2]
def tx : CordTx := { rseq := 9, start := 0, t0 := 0, w := 0, net := 0, gross := 0, peak := none, inv := false }
def cord : State := { solo with cord := { CordRt.zero with on := true, opens := vset CordRt.zero.opens 0 (some tx), store := [(rec15, false)] } }

theorem test_witness_CordFrames : cordUp cord = true ∧ cord.cord.answer = [] ∧ solo.pres.getLsbD 10 = true ∧ cord.cord.shut = false ∧ meas0.temp = some 400#16 ∧ vget cord.cord.opens 0 = some tx ∧
    (400#16 : BitVec 16).toInt < 1600 ∧ 1600 ≤ (1600#16 : BitVec 16).toInt ∧ cord.cord.on = true ∧ cord.cord.stopped = false ∧
    solo.cord.on = false ∧ roomFor solo.cord = true ∧
    (let l := fset (fset (laneOf solo .A) CRD_STS_PRES 1) CRD_VAL_AGE 11; fget l CRD_STS_PRES = 1 ∧ 11 ≤ fget l CRD_VAL_AGE) := by decide +kernel

/-- CordFramesAndSupply: a run of a payout line that its filter keeps, one that changes one line, and one that changes both at once. -/
theorem test_witness_quad :
    (let q : QuadRt := { a := false, b := false, na := 3, nb := 3 }
     (true = q.a ∨ q.na + 4 < 8) ∧ ¬ (true = q.a ∨ q.na + 5 < 8) ∧ (false = q.b ∨ q.nb + 5 < 8) ∧ ¬ (true = q.b ∨ q.nb + 5 < 8) ∧ q.na = q.nb) ∧
    (∀ x ∈ [(CordRt.zero).opens], ∀ m, vget x m = none) ∧ { cord.cord with shut := true }.shut = true := by decide +kernel

theorem test_witness_CordCommands :
    (laneRuns (laneOf cord .A) = true ∧ laneRuns (laneOf cord .B) = false ∧ fget (laneOf cord .A) CRD_CRES_STATE ≠ 1 ∧ cordUp cord = true ∧
      cord.la.out = [] ∧ cord.lb.out = [] ∧ cord.cord.pathA = none ∧ cord.cord.pathB = none ∧ cord.cord.last = none) ∧
    cord.cord.jumper = false ∧ vget cord.cord.opens 3 = none ∧ roomFor cord.cord = true ∧ vget cord.cord.opens 0 = some tx ∧
    (∀ r ∈ cord.cord.store, r.1.getD 0 0#32 ≠ wordOf tx.rseq) := by decide +kernel

/-- The receipt of a command: a first copy of each operation, a second copy, and one that differs. -/
def received (op : Nat) (last : Option CordSend) : State :=
  { cord with cord := { cord.cord with pathA := some { op := op, point := 0, cseq := 5, arg := 0#32, ship := 0 }, last := last, answer := [1#32] } }

theorem test_witness_CordReceipt :
    cord.cord.pathA = none ∧ (∀ op ∈ [0, 1, 2, 3, 4], (received op none).cord.pathA = some { op := op, point := 0, cseq := 5, arg := 0#32, ship := 0 } ∧
      (received op none).cord.last = none ∧ cordUp (received op none) = true) ∧
    (∀ a ∈ [0, 1], (received 3 (some { op := 3, point := 0, cseq := 5, arg := wordOf a, ship := 0 })).cord.last =
      some { op := 3, point := 0, cseq := 5, arg := wordOf a, ship := 0 }) ∧ (received 1 none).cord.answer = [1#32] ∧ cordUp solo = false ∧
    (vget (received 1 none).cord.opens 0).isSome = true ∧ vget (received 1 none).cord.opens 1 = none ∧
    (∀ b : Bool, { cord.cord with jumper := b }.jumper = b) := by decide +kernel

/-- A store full of records that have not been read has no room. -/
theorem test_witness_CordFull : roomFor { cord.cord with store := List.replicate storeSize (rec15, false) } = false := by
  have h (st : List (List Word × Bool)) : openCount { cord.cord with store := st } = 1 := by rfl
  have k : 1 < storeSize := by decide
  simp [roomFor, h, k]

/-- CalibrationPort: a line whose check is right, one whose check is wrong, a Cord that does not run, a full audit log. -/
theorem test_witness_calLines :
    (∀ x crc, (some ([0x4F#8], crc16Bytes [0x4F#8]) : Option (List Byte × BitVec 16)) = some (x, crc) → crc16Bytes x = crc) ∧
    crc16Bytes [0x4F#8] ≠ ~~~ crc16Bytes [0x4F#8] ∧ cordRuns solo.cord = false ∧ cordRuns cord.cord = true ∧
    { cord.cord with staged := [(.TDIV, 0, 0xFFFFFFFF#32)] }.staged ≠ [] ∧
    (List.replicate 1024 (AudEntry.sw 0 0#32 0#32 0)).length = 1024 :=
  ⟨fun _ _ h => by cases h; rfl, by decide +kernel, by decide +kernel, by decide +kernel, by simp, List.length_replicate ..⟩

theorem test_witness_CordRecord : racOk record = true ∧ record.getD 0 0#32 = 7#32 := by simp [racOk, record, rec15]

theorem test_witness_CalibrationPort :
    cord.cord.jumper = false ∧ cord.cord.on = true ∧ ([(.TZERO, 0, 5#32)] : List (LegalPar × Fin 4 × Word)).Pairwise (fun a b => (a.1, a.2.1) ≠ (b.1, b.2.1)) ∧
    (([(.TZERO, 0, 5#32)] : List (LegalPar × Fin 4 × Word)).filter fun x => decide (parGet cord.cord x.1 x.2.1 ≠ x.2.2)) ≠ [] ∧
    (∀ ch : Fin 4, 3000 * (parGet cord.cord .TDIV ch).toNat ≤ (parGet cord.cord .TRNG ch).toNat) := by decide +kernel

/-! ## Temperature, clocks, start-up -/

theorem test_witness_ThermalReactions :
    (let l := fset { laneOf solo .A with rx := vset (laneOf solo .A).rx 31 { RxRt.zero with temps := [0, 0, 0, 0] } } (THM_T_LEVEL 127) 2
     (vget l.rx 31).temps ≠ [] ∧ 2 ≤ fget l (THM_T_LEVEL (4 * 31 + 3)) ∧ fget l (THM_BST_STEP 31) < 3) ∧
    fget (laneOf solo .A) (THM_T_STALE 144) = 1 ∧ fget (fset (laneOf solo .A) (THM_T_STALE 145) 0) (THM_T_STALE 145) = 0 ∧
    (∀ i, vget (laneOf solo .A).lsteps i ≤ 3) ∧ slotUp (laneOf solo .A) 9 = false ∧
    (let x : StepRt := { hot := true, at_ := 5 }
     x.hot = true ∧ x.at_ + 3200000000 * fget (laneOf solo .A) THM_LCFG_TSTEP ≤ 32000000005) ∧ (laneOf solo .A).peatQ = [] ∧ solo.ho = .none ∧
    10 ≤ ({ SensRt.zero with age := 10 } : SensRt).age ∧
    (let s := withA solo fun l => { l with shut := true }; (laneOf s .A).shut = true ∧ laneActive (laneOf s .A) = true) := by decide +kernel

/-- Lane A asleep in DORMANT, with the timer set, the last line and the key watched. -/
def dormant : State := withA solo fun l =>
  rset (fset (fset (fset (fset l CLK_DOM_RUN 1) CLK_STS_MSTATE 3) CLK_WTMR_TICKS 1) CLK_WCFG_WKEY 1) CLK_WDI1 0x80000000#32

theorem test_witness_ClocksAndPower :
    (laneOf solo .A).powered = true ∧ coreRuns (laneOf solo .A) = true ∧
    (let l := fset (fset (laneOf solo .A) CLK_DOM_RUN 0xBF) (CAN_CFG_MODE 3) 1
     domainWanted l 6 = true ∧ (fget l CLK_DOM_RUN).testBit 6 = false ∧ coreRuns l = true) ∧
    (({ laneOf solo .A with pllTry := 0x40#9 } : Lane).pllTry.getLsbD 6 = true) ∧
    ((∀ a : Axis, fget (laneOf solo .A) (AXS_EN_BST a) = 0) ∧
      (∀ p : CanPort, (vget (laneOf solo .A).cans p).fifo = [] ∧ ∀ k : Fin 8, fget (laneOf solo .A) (CAN_DS_STATE p k) ≠ 1) ∧
      fget (laneOf solo .A) LPE_CSTS_STATE = 0 ∧ fget (laneOf solo .A) ADM_STS_RQBUSY = 0 ∧ solo.key = false) ∧
    (∀ c k, (taskOf (laneOf solo .A) c k).run = .idle) ∧ solo.la.out = [] ∧ solo.lb.out = [] ∧
    asleep (laneOf dormant .A) = true ∧ (rget (laneOf dormant .A) CLK_WDI1).getLsbD (63 % 32) = true ∧
    fget (laneOf dormant .A) CLK_WCFG_WKEY = 1 ∧ fget (laneOf dormant .A) CLK_WTMR_TICKS ≠ 0 ∧
    (∃ y, (vget { solo with sup := vset solo.sup 1 { inok := true, outok := true, vin := 24000#16, iout := 9#8 } }.sup y).inok = true) := by
  decide +kernel

/-- A whole image with right checks, from its sections. -/
def mkImage (secs : List Section) (len : Word) : Image :=
  let im : Image := { magic := 0x4D49414B#32, seq := 1#32, len := len, compat := 0x10000#32, icrc := 0#32, hcrc := 0#32, sections := secs }
  let im := { im with icrc := crc32c (payload im) }
  { im with hcrc := crc32c [im.magic, im.seq, im.len, im.compat, im.icrc] }

/-- One with an empty program section, and one whose only word is no instruction. -/
def imageOk : Image := mkImage [{ typ := 1#32, target := 0#32, len := 0#32, rsv := 0#32, body := [] }] 16#32
def imageIll : Image := mkImage [{ typ := 1#32, target := 0#32, len := 4#32, rsv := 0#32, body := [0#32] }] 32#32

/-- A powered lane in OUT with an image in bank 1. -/
def boots (im : Image) : State := withA solo fun l => fset { l with banks := vset l.banks 1 (some im) } SYS_STS_LROLE 0

theorem test_witness_image (im : Image) (h : im = imageOk ∨ im = imageIll) :
    (laneOf (boots im) .A).powered = true ∧ roleOf (laneOf (boots im) .A) ≠ roleStandby ∧
    bankChoice (boots im).fm.compat (laneOf (boots im) .A) = some 1 ∧ im.icrc = crc32c (payload im) ∧ sectionsOk im = true ∧
    headBad (boots im).fm.compat (some im) = none := by
  rcases h with rfl | rfl <;> decide +kernel

theorem test_witness_imageAdmission :
    (let c := candidate (laneOf (boots imageOk) .A) imageOk
     imageBad c imageOk (workVals c imageOk { axes := 0, items := [], inj := 0 }) = none) ∧
    (let c := candidate (laneOf (boots imageIll) .A) imageIll
     (imageBad c imageIll (workVals c imageIll { axes := 0, items := [], inj := 0 })).isSome = true) := by decide +kernel

theorem test_witness_LanesStart :
    (laneOf State.reset .A).powered = false ∧ lanePresent State.reset .A = true ∧ (∀ k, vget (laneOf State.reset .A).banks k = none) ∧
    (laneOf State.reset .A).shut = false ∧ diodeCool State.reset { lane := .A, memOk := true } = false ∧ bricksFound (laneOf solo .A) = true ∧
    bricksFound (fset (laneOf solo .A) (LEG_CFG_TYPE 0) 1) = false ∧ (laneOf (withA State.reset fun l => { l with shut := true }) .A).shut = true ∧
    (let s := withA solo fun l => fset { l with waitPeer := true } SYS_STS_LROLE 0
     (laneOf s .A).powered = true ∧ (laneOf s .A).waitPeer = true ∧ laneActive (laneOf s .B) = false ∧ roleOf (laneOf s .A) ≠ roleActive ∧
     coreRuns (laneOf s .A) = true ∧ laneSends (laneOf s .A) = true ∧ laneClaims (laneOf s .B) = false) ∧
    (∀ n : Fin 11, solo.pres.getLsbD n = true) ∧ asleep solo.la = false ∧ asleep solo.lb = false ∧ (10 : Fin 11).1 ≠ laneSlot .A ∧
    (2 : Fin 11).1 = laneSlot .A := by decide +kernel

/-! ## Requests, axes, engine -/

theorem test_witness_RuntimeRequests :
    (laneOf solo .A).request = none ∧ (∀ v ∈ [0, 1, 2, 3], fget (fset (laneOf solo .A) (AXS_EN_BST 15) v) (AXS_EN_BST 15) = v) ∧
    (∀ v ∈ [0, 1], fget (fset (laneOf solo .A) (LPE_ISTS_RUN 3) v) (LPE_ISTS_RUN 3) = v) ∧ isFollower (laneOf solo .A) 3 = false ∧
    isFollower (fset (fset (laneOf solo .A) (CAN_CFG_PAIR 1) 1) (CAN_CFG_PAIR 3) 1) 3 = true ∧
    (∀ v ∈ [0, 0x80], fget (fset (laneOf solo .A) (CAN_DEN_EN 3) v) (CAN_DEN_EN 3) = v) ∧ (vget (laneOf solo .A).axes 15).ask = none := by
  decide +kernel

/-- RuntimeRequests: a STANDBY lane whose verdict differs from the ACTIVE lane's once the request is complete. -/
theorem test_witness_verdicts : laneRuns (laneOf duo .B) = true ∧ roleOf (laneOf duo .B) = roleStandby ∧ laneActive (laneOf duo .A) = true ∧
    ∃ t, exec .runtimeRequestComplete { duo with lb := fset duo.lb ADM_STS_STATE 3 } = .next t ∧
      verdictDiffers (laneOf t .B) (laneOf t .A) = true :=
  ⟨by decide +kernel, by decide +kernel, by decide +kernel, _, rfl, by decide +kernel⟩

/-- RuntimeRequests: an item that the image declares is admitted, another one refused. -/
theorem test_witness_runtimeVerdict :
    (let l := { laneOf solo .A with decl := { Decl.default with items := [7] } }
     reqBad l (.item 7) = none ∧ workBad (workVals l (runImage l) (reqWork l (.item 7))) false true = none ∧
     (reqBad l (.item 8)).isSome = true) := by decide +kernel

/-- AxisCommands: an axis with periods in each emergency state, without them, and without a waiting change. -/
theorem test_witness_AxisCommands :
    (∀ e < 10, fget (fset (fset (laneOf solo .A) (AXS_STS_ESTATE 15) e) (AXS_EN_BST 15) 1) (AXS_STS_ESTATE 15) = e) ∧
    fget (fset (laneOf solo .A) (AXS_EN_BST 15) 1) (AXS_EN_BST 15) ≠ 0 ∧ fget (laneOf solo .A) (AXS_EN_BST 15) = 0 ∧
    (vget (laneOf solo .A).axes 15).ask = none ∧ fget (laneOf solo .A) (AXS_STS_QRIN 15) = 0 ∧
    (let l := fset (fset (fset (laneOf solo .A) (LEG_CPC_VALID 31) 1) (LEG_CPC_AXIS 31) 15) (LEG_CSTS_STATE 31) 2
     fget l (LEG_CPC_VALID 31) = 1 ∧ fget l (LEG_CPC_AXIS 31) = 15 ∧ fget l (LEG_CSTS_STATE 31) = 2 ∧ copCleared l 31 = true ∧
     copCleared (fset (fset (fset (fset l (LEG_CFG_COPPICE 127) 31) (LEG_CFG_TYPE 127) 1) (BLK_BST_DESAT 31) 8) (BLK_BST_PRIUP 31) 1) 31 = false) ∧
    (∀ m ∈ [moCaught, moFailed, 0], obsMode (modObs (laneOf solo .A) 15 fun o => { o with mode := m }) 15 = m) ∧
    bit (laneOf solo .A).decl.tabs 0 = true ∧ bit (laneOf solo .A).decl.tabs 7 = false := by decide +kernel

/-- AxisTimers: every timer of an axis runs. -/
def timers : State := withA solo fun l =>
  fset (fset { l with axes := vset l.axes 15 { AxisRt.zero with
      zeroT := some 0, brkT := some 0, rideT := some 0, hv := vset AxisRt.zero.hv 7 (some (0, 0, 0)), fbOn := true
      obs := { ObsRt.zero with hold := some (0, { t := 0, th := 0, w := 1 }), mode := moAcquire } } }
    (AXS_STS_RIDE 15) 1) (SHR_HVC_HEN 15) 1

theorem test_witness_AxisTimers :
    (let l := laneOf timers .A
     let x := vget l.axes 15
     fget l (AXS_STS_ZERO 15) = 0 ∧ x.zeroT = some 0 ∧ x.brkT = some 0 ∧ x.relTq = none ∧ fget l (AXS_STS_RIDE 15) = 1 ∧ x.rideT = some 0 ∧
     (obsOf l 15).hold = some (0, { t := 0, th := 0, w := 1 }) ∧
     (obsOf l 15).mode = moAcquire ∧ (obsOf l 15).acq ≤ 1 ∧ fget l (SHR_HVC_HEN 15) = 1 ∧ (vget x.hv 7).isSome = true ∧ x.hvOld = false ∧ x.fbOn = true) ∧
    (zeroDue 15 (laneOf solo .A) = none) ∧
    -- a hold window in which no re-lock was met, and one in which one was
    (∀ n ∈ [0, 255], (let l := modObs (laneOf timers .A) 15 fun o => { o with nRel := n }
      (0 < (obsOf l 15).nRel ∧ fget l (OBS_HOLD_NRELOCK 15) ≤ (obsOf l 15).nRel ↔ n = 255))) := by decide +kernel

/-- EngineCommands: an operation of a live and of an ended job; capture that fits, and one that does not. -/
def posted (orphan : Bool) : State := withA solo fun l =>
  { l with tags := vset l.tags 63 (.busy 3 15 .run 255 0#32 orphan), engq := [{ tag := 63, inp := { spv := 0#32, fb := 0#32, sch := [], rng := false } }] }

theorem test_witness_EngineCommands :
    (∀ o : Bool, laneRuns (laneOf (posted o) .A) = true ∧ (laneOf (posted o) .A).engq = [{ tag := 63, inp := { spv := 0#32, fb := 0#32, sch := [], rng := false } }] ∧
      vget (laneOf (posted o) .A).tags 63 = .busy 3 15 .run 255 0#32 o) ∧
    (∀ x y, (taskOf (laneOf solo .A) x y).run = .idle) ∧ stageFirst (laneOf solo .A) 255 = 255 ∧
    (let l := { laneOf solo .A with decl := { Decl.default with dtop := 0x01000000 } }
     fget l LPE_CPRE_N + fget l LPE_CPOST_N + 1 ≤ capCapacity l) ∧
    ¬ fget (laneOf solo .A) LPE_CPRE_N + fget (laneOf solo .A) LPE_CPOST_N + 1 ≤ capCapacity (laneOf solo .A) ∧
    (∀ v ∈ [0, 3], fget (fset (laneOf solo .A) LPE_CSTS_STATE v) LPE_CSTS_STATE = v) := by decide +kernel

/-! ## Lane duplex, self-test, records, service -/

/-- Two lanes in step with a hand-over and a self-test in these states. -/
def duplex (h : Handover) (b : List BistRt) : State := { duo with ho := h, bist := b }

/-- A self-test of both kinds of lane B, at this stage, started by the service or as a rolling run. -/
def testing (stage roll : Nat) : BistRt := { lane := .B, run := 3, stage := stage, roll := roll, at_ := 0, due := 0, own := false }

theorem test_witness_Handover :
    (∀ ch : Fin 2, vget duo.xlnUp ch = true) ∧ duo.la.out = [] ∧ duo.lb.out = [] ∧ activeLane duo = some .A ∧ peerStandby duo .A = true ∧
    duo.ho = .none ∧ duo.bist = [] ∧ (laneOf duo .B).powered = true ∧ roleOf (laneOf duo .B) = roleStandby ∧
    (∀ j ∈ [LaneId.A, .B], rget (laneOf duo j) XLN_FLAG = 0#32 ∧ fget (laneOf duo j) (FLT_SEV_SEV 0x85) < 5) ∧
    (duplex (.waiting 4 0) []).ho = .waiting 4 0 ∧ (∀ b : Bool, { duplex (.acked 5 32000) [testing 2 0] with hoOut := b }.ho = .acked 5 32000) ∧
    (∃ b ∈ (duplex (.waiting 4 0) [testing 1 0]).bist, b.stage = 1 ∧ b.roll = 0) ∧ (∀ b ∈ (duplex (.acked 5 0) [testing 2 0]).bist, b.stage ≠ 1) ∧
    -- two yields under cause 6 in the last 24 h
    (let l := withA { duo with now := 3200000 } fun l => { l with yields := [0, 5] }
     2 ≤ ((laneOf (tickTo 32000 l) .A).yields.filter fun y => decide (shipNs (laneOf (tickTo 32000 l) .A) < y + 86400000000000)).length) ∧
    (let l := fset (laneOf duo .B) SYS_STS_LROLE 0; l.powered = true ∧ laneRuns l = false) ∧
    -- a lane that runs beside one that does not, in STANDBY and in CATCH-UP
    (∀ r ∈ [1, 2], laneRuns (laneOf { solo with la := lane .A r } .A) = true ∧ laneRuns (laneOf { solo with la := lane .A r } .B) = false ∧
      roleOf (laneOf { solo with la := lane .A r } .A) = r) ∧ catchReady (laneOf duo .B) = false := by decide +kernel

theorem test_witness_LaneSelfTest :
    activeLane duo = some .A ∧ duo.bist = [] ∧ peerStandby duo .A = true ∧ peerStandby solo .A = false ∧
    rollDeferred duo .A = false ∧ rollDeferred solo .A = true ∧ duo.fm.rper ≠ 0 ∧
    (∀ a : Axis, fget (laneOf solo .A) (AXS_EN_BST a) = 0) ∧ { solo with key := true }.key = true ∧
    (let b := { testing 2 0 with run := 1 }
     (duplex .none [b]).bist = [b] ∧ b.lane = otherLane .A ∧ b.run.testBit 0 = true ∧ b.run.testBit 1 = false ∧ (laneOf duo .B).powered = true ∧
     laneActive (laneOf duo .A) = true) ∧ { testing 2 0 with roll := 1 }.roll ≠ 0 ∧
    -- a rolling run that waits, deferred or not, and for a day
    (∀ s ∈ [duo, withA duo fun l => fset l BST_RDEF_DEFER 1], activeLane { s with bist := [testing 0 1] } = some .A) ∧
    rollDeferred { duo with bist := [testing 0 1] } .A = false ∧
    rollDeferred (withA duo fun l => fset l BST_RDEF_DEFER 1) .A = true ∧
    ((0 : Int) + 86400000000000 ≤ shipNs (laneOf (withA duo fun l => { l with ship := 86400000000000 }) .A)) := by decide +kernel

/-- LaneSelfTest: a signature that passes and one that fails, whatever the golden one is. -/
theorem test_witness_signatures : rget (laneOf duo .B) BST_GOLD = rget (laneOf duo .B) BST_GOLD ∧
    ~~~(rget (laneOf duo .B) BST_GOLD) ≠ rget (laneOf duo .B) BST_GOLD := by
  refine ⟨rfl, fun h => ?_⟩
  have := congrArg (fun v : Word => v.getLsbD 0) h
  simp at this

def entry : PeatEntry := { time := 0, seq := 255, code := 0, sev := 0, lane := .A, kind := 0, repcnt := 0, ctx0 := 0#32, ctx1 := 0#32, tb := 0 }

theorem test_witness_RecordsAndRegisters :
    (let l := { laneOf solo .A with peat := [entry], peatQ := [entry] }
     l.powered = true ∧ l.peatQ = entry :: [] ∧ l.peat.length < 65536 ∧ entry ∈ l.peat ∧ entry.seq = 255) ∧
    RingInv { solo with fm := { solo.fm with ring := [entry], head := 255 } } ∧
    (let l := { laneOf solo .A with decl := { Decl.default with dtop := 0x01000000 } }
     0 < (0x01400000 - l.decl.dtop - 64) / (8 + 4 * fget l LPE_CCTL_NCH)) ∧
    windowAddr 0x40000003#32 = some 0x40000000 ∧ windowAddr 0x4012FFFF#32 = some 0x4012FFFC ∧ findReg 0x4012FFFC = none ∧
    writeReserved (AXS_CMD 0) 7 = true ∧
    (∃ d, findReg SYS_STK = some d ∧ d.com = 0 ∧ d.wo = 0 ∧ writeReserved SYS_STK 0xFFFFFFFF = false ∧ blockOf SYS_STK ≠ 0x06) := by
  refine ⟨by decide +kernel, ⟨by decide +kernel, by decide +kernel⟩, by decide +kernel, by decide +kernel, by decide +kernel, by decide +kernel,
    by decide +kernel, ⟨_, rfl, by decide +kernel⟩⟩

/-- RecordsAndRegisters: a counter that has counted, and a sticky bit that was set, in the present core cycle. -/
theorem test_witness_sameCycle :
    (let l := fcount (laneOf solo .A) XLN_CNT_HO
     ∃ e d, l.cyc.at_ XLN_CNT_HO.addr = [e] ∧ findReg XLN_CNT_HO.addr = some d ∧ d.rc &&& e.mask ≠ 0 ∧ e.cyc = l.cyc.now) ∧
    (let l := stk (laneOf solo .A) (SYS_CSTK_EXC 2)
     ∃ e ∈ l.cyc.evs, e.cyc = l.cyc.now ∧ e.addr = SYS_CSTK 2 ∧ e.mask.testBit 6 = true) :=
  ⟨⟨_, _, rfl, rfl, by decide +kernel, rfl⟩, ⟨_, List.Mem.tail _ (List.Mem.head _), rfl, rfl, by decide +kernel⟩⟩

theorem test_witness_fullLog : (List.replicate 65536 entry).length = 65536 := List.length_replicate ..

theorem test_witness_ServiceCommands :
    solo.la.out = [] ∧ solo.lb.out = [] ∧ solo.la.ident = .A ∧ solo.lb.ident = .B ∧ solo.la.powered = true ∧
    (∀ k : Bool, { solo with key := k }.key = k) ∧ solo.presReq = none ∧
    { solo with presReq := some { cmd := .peatClear, since := 0 } }.presReq ≠ none ∧
    (∀ t ∈ [96000000000, 96000000001], { solo with now := t }.now = t) ∧ asleep solo.la = false ∧ asleep solo.lb = false ∧
    (roleOf (laneOf duo .B) = roleStandby ∧ (laneOf duo .B).powered = true ∧ laneActive (laneOf duo .A) = true) ∧
    (∀ j ∈ [LaneId.A, .B], fget (laneOf duo j) (FLT_SEV_SEV 0x83) < 5) ∧ allBanked solo = true ∧ roleOf (laneOf solo .A) ≠ roleFault ∧
    allBanked (withA solo fun l => fset l (AXS_EN_BST 0) 1) = false ∧ loadable (laneOf solo .A) = true ∧
    headBad solo.fm.compat (some (image0 2)) ≠ none ∧ laneCool (boots imageOk) .A = true ∧ roleOf (laneOf (boots imageOk) .A) = roleOut ∧
    testOf solo .A 2 = none ∧ testOf { duplex .none [testing 2 0] with key := true } .B 2 ≠ none ∧
    (duplex (.waiting 4 7) []).ho = .waiting 4 7 ∧ laneActive (laneOf duo .B) = false ∧ peerStandby duo .B = false ∧
    laneCool (withA solo fun l => { l with sens := vset l.sens 144 { vget l.sens 144 with got := some none } }) .A = false ∧
    anyS6 (laneOf solo .A) = false ∧ (laneOf (withA solo fun l => { l with safe := true }) .A).safe = true ∧ activeLane solo = some .A ∧
    peerStandby solo .A = false := by decide +kernel

/-- InstructionWordsRoundTrip: a word with operands. -/
theorem test_witness_InstructionWords :
    (∃ w, rylinWord (.add is 1#5 2#5 3#5) = some w ∧ wGuard w ≠ { neg := true, p := 0#3 }) ∧ rylinFits (.add is 1#5 2#5 3#5) = true := by
  exact ⟨⟨_, rfl, by decide +kernel⟩, by decide +kernel⟩

theorem test_witness_CanonicalStoresKept : State.reset.wf = true ∧ ∃ t, step State.reset = .next t := ⟨by decide +kernel, _, rfl⟩

theorem test_witness_FrameMemoryRingKept : RingInv State.reset ∧ ∃ t, step State.reset = .next t := ⟨⟨by decide, by decide⟩, _, rfl⟩

/-- The front command runs: a module in which SWAP waits asks for a hand-over. -/
theorem test_step_runs_front : ∃ t, step { duo with pending := [.swap, .swap] } = .next t ∧ t.pending = [.swap] := ⟨_, rfl, rfl⟩

/-! ## The table's words -/

/-- The opcode table gives its rows no bits, so no word spells a command of the table. -/
theorem test_decodeTableWord : decodeTableWord 32 0x08000000 = none := rfl

/-- The words of the manual's example of a short job (R82's section) and the canonical NOP (R51). -/
theorem test_words :
    rylinOf .A 1 .none .none 0x200A0010#32 = .movl is 5#5 0x10#16 ∧ rylinOf .A 1 .none .none 0x400C5008#32 = .ld is 6#5 5#5 8#12 .none ∧
    rylinOf .A 1 .none .none 0x28086400#32 = .cmpi is 1#3 0#2 6#5 2#3 0#9 ∧ rylinOf .A 1 .none .none 0xC8000000#32 = .wtick is ∧
    rylinOf .A 1 .none .none 0x08000000#32 = .addi is 0#5 0#5 0#12 := ⟨rfl, rfl, rfl, rfl, rfl⟩

end Sys2Proof.Tests
end

namespace Sys2Proof.Machine

/-!
## Canonical stores

What keeps the stores of a lane (registers, memory, latent errors) canonical is proved once for each function of the model, in the
order of the model: `Canon.f` for a function `f` from lanes to lanes, `CanonBoth.f` for one on states or for a command. Only a few
functions write a store themselves (`rset`, `mset8`, `eccSet`, and those that take over or clear whole stores); every other lemma
follows the calls of its function: a record update that leaves the stores alone is `same`, an `if` is `ite`, a fold is `foldl`.
-/

/-- The four stores of a lane in canonical form, for the lane of slot `i`. -/
structure CanonStores (i n : LaneId) (regs : Regs) (mem : List Host.Cell) (ecc : List (Nat × Ecc)) :
    Prop where
  ident : n = i
  regs : Regs.wf i regs = true
  mem : Memory.wf mem = true
  ecc : Upsets.wf ecc = true

/-- The lane is the one of slot `i` and its stores are in canonical form. -/
def Canon (i : LaneId) (l : Lane) : Prop := CanonStores i l.ident l.regs l.mem l.ecc

/-- Each lane is the one of its slot and has its stores in canonical form. -/
structure CanonBoth (s : State) : Prop where
  la : Canon .A s.la
  lb : Canon .B s.lb

/-- What a command answers, if a next state, keeps both lanes canonical. -/
def CanonOut (o : Out) : Prop := ∀ t, o = .next t → CanonBoth t

/-- The lane that an instruction's effect leaves, or that its exception is taken in, is canonical. -/
def CanonEff (i : LaneId) : Eff → Prop
  | .ok l => Canon i l
  | .exc l _ _ _ => Canon i l

theorem lane_wf_iff {l : Lane} : Lane.wf l = true ↔ Canon l.ident l := by
  simp only [Lane.wf, Bool.and_eq_true]
  exact ⟨fun ⟨⟨hr, hm⟩, he⟩ => ⟨rfl, hr, hm, he⟩, fun ⟨_, hr, hm, he⟩ => ⟨⟨hr, hm⟩, he⟩⟩

theorem state_wf_iff {s : State} : State.wf s = true ↔ CanonBoth s := by
  simp only [State.wf, Bool.and_eq_true, decide_eq_true_eq, lane_wf_iff]
  constructor
  · rintro ⟨⟨⟨ha, hb⟩, ia⟩, ib⟩
    exact ⟨ia ▸ ha, ib ▸ hb⟩
  · rintro ⟨ha, hb⟩
    have ia := ha.ident
    have ib := hb.ident
    exact ⟨⟨⟨ia.symm ▸ ha, ib.symm ▸ hb⟩, ia⟩, ib⟩

/-! ### Updates outside the stores -/

/-- Every field of a lane but its identity and its stores may change. -/
protected theorem Canon.same {i : LaneId} {l : Lane}
    {powered cyc cores tags engq decl banks image request starts items tb0 t1n vis late rep peat peatQ
      dormReq wasIdle pllTry pllBad units yields waitPeer bootLeft ship shipRate slewNs slewT shipLog
      emb embShip eccN out axes legs cops rx slots inj cap buses grps di chans ins outs fage crdIn
      crdTicks crdFrom crdSeen cans sens lsteps ltimes btimes shut shutAt dormAt memBad waitAt safe mreq
      mtag}
    (h : Canon i l) : Canon i { l with
      powered, cyc, cores, tags, engq, decl, banks, image, request, starts, items, tb0, t1n, vis, late,
      rep, peat, peatQ, dormReq, wasIdle, pllTry, pllBad, units, yields, waitPeer, bootLeft, ship,
      shipRate, slewNs, slewT, shipLog, emb, embShip, eccN, out, axes, legs, cops, rx, slots, inj, cap,
      buses, grps, di, chans, ins, outs, fage, crdIn, crdTicks, crdFrom, crdSeen, cans, sens, lsteps,
      ltimes, btimes, shut, shutAt, dormAt, memBad, waitAt, safe, mreq, mtag } := h

/-- Two canonical lanes make a canonical state, whatever its other fields. -/
protected theorem CanonBoth.lanes {la lb : Lane}
    {pending now t1At free ho hoOut bist fm key presReq sup pres okc xlnUp svcOut links bricks fields cord}
    (ha : Canon .A la) (hb : Canon .B lb) : CanonBoth {
      la, lb, pending, now, t1At, free, ho, hoOut, bist, fm, key, presReq, sup, pres, okc, xlnUp,
      svcOut, links, bricks, fields, cord } := ⟨ha, hb⟩

/-- Every field of a state but its lanes may change. -/
protected theorem CanonBoth.same {s : State}
    {pending now t1At free ho hoOut bist fm key presReq sup pres okc xlnUp svcOut links bricks fields cord}
    (hs : CanonBoth s) : CanonBoth { s with
      pending, now, t1At, free, ho, hoOut, bist, fm, key, presReq, sup, pres, okc, xlnUp, svcOut,
      links, bricks, fields, cord } := .lanes hs.la hs.lb

/-! ### Branches and folds -/

section
variable {α β : Type} {i : LaneId} {c : Prop} [Decidable c] {xs : List α}

protected theorem Canon.ite {l m : Lane} (h : Canon i l) (g : Canon i m) : Canon i (if c then l else m) := by
  split <;> assumption

protected theorem Canon.iteFst {l m : Lane × β} (h : Canon i l.1) (g : Canon i m.1) :
    Canon i (if c then l else m).1 := by split <;> assumption

protected theorem Canon.dite {l : c → Lane} {m : ¬ c → Lane} (h : ∀ x, Canon i (l x))
    (g : ∀ x, Canon i (m x)) : Canon i (if x : c then l x else m x) := by split <;> apply_assumption

protected theorem CanonBoth.ite {s t : State} (h : CanonBoth s) (g : CanonBoth t) :
    CanonBoth (if c then s else t) := by split <;> assumption

protected theorem CanonBoth.iteFst {s t : State × β} (h : CanonBoth s.1) (g : CanonBoth t.1) :
    CanonBoth (if c then s else t).1 := by split <;> assumption

protected theorem CanonBoth.dite {l : c → State} {m : ¬ c → State} (h : ∀ x, CanonBoth (l x))
    (g : ∀ x, CanonBoth (m x)) : CanonBoth (if x : c then l x else m x) := by
  split <;> apply_assumption

protected theorem CanonOut.ite {s t : Out} (h : CanonOut s) (g : CanonOut t) :
    CanonOut (if c then s else t) := by split <;> assumption

protected theorem CanonOut.dite {l : c → Out} {m : ¬ c → Out} (h : ∀ x, CanonOut (l x))
    (g : ∀ x, CanonOut (m x)) : CanonOut (if x : c then l x else m x) := by split <;> apply_assumption

protected theorem CanonEff.ite {e f : Eff} (h : CanonEff i e) (g : CanonEff i f) :
    CanonEff i (if c then e else f) := by split <;> assumption

protected theorem Canon.foldl {l : Lane} {f : Lane → α → Lane} (h : Canon i l)
    (hf : ∀ {l x}, Canon i l → Canon i (f l x)) : Canon i (xs.foldl f l) :=
  List.foldlRecOn xs f h fun _ h _ _ => hf h

protected theorem Canon.foldlFst {l : Lane × β} {f : Lane × β → α → Lane × β} (h : Canon i l.1)
    (hf : ∀ {l x}, Canon i l.1 → Canon i (f l x).1) : Canon i (xs.foldl f l).1 :=
  List.foldlRecOn (motive := fun y => Canon i y.1) xs f h fun _ h _ _ => hf h

protected theorem Canon.foldlFst₂ {γ : Type} {l : (Lane × β) × γ}
    {f : (Lane × β) × γ → α → (Lane × β) × γ} (h : Canon i l.1.1)
    (hf : ∀ {l x}, Canon i l.1.1 → Canon i (f l x).1.1) : Canon i (xs.foldl f l).1.1 :=
  List.foldlRecOn (motive := fun y => Canon i y.1.1) xs f h fun _ h _ _ => hf h

protected theorem CanonBoth.foldl {s : State} {f : State → α → State} (h : CanonBoth s)
    (hf : ∀ {s x}, CanonBoth s → CanonBoth (f s x)) : CanonBoth (xs.foldl f s) :=
  List.foldlRecOn xs f h fun _ h _ _ => hf h

protected theorem CanonBoth.foldlFst {s : State × β} {f : State × β → α → State × β} (h : CanonBoth s.1)
    (hf : ∀ {s x}, CanonBoth s.1 → CanonBoth (f s x).1) : CanonBoth (xs.foldl f s).1 :=
  List.foldlRecOn (motive := fun y => CanonBoth y.1) xs f h fun _ h _ _ => hf h
end

/-! ### Answers and effects -/

protected theorem CanonEff.ok {i : LaneId} {l : Lane} (h : Canon i l) : CanonEff i (.ok l) := h

protected theorem CanonEff.exc {i : LaneId} {l : Lane} {code adr cyc : Nat} (h : Canon i l) :
    CanonEff i (.exc l code adr cyc) := h

protected theorem CanonOut.next {s : State} (h : CanonBoth s) : CanonOut (.next s) := by
  rintro _ ⟨⟩
  exact h

protected theorem CanonOut.fault {r : Fault} : CanonOut (.fault r) := by rintro _ ⟨⟩

protected theorem CanonOut.refused {r : Refusal} : CanonOut (.refused r) := by rintro _ ⟨⟩

/-! ### The writes of the stores, and the lanes of a state -/

protected theorem Canon.rset {i : LaneId} {l : Lane} {a : Nat} {v : Word} (h : Canon i l) :
    Canon i (rset l a v) := by
  obtain ⟨rfl, hr, hm, he⟩ := h
  exact ⟨rfl, regs_wf_rset l a v hr, hm, he⟩

protected theorem Canon.mset8 {i : LaneId} {l : Lane} {a : Nat} {b : Byte} (h : Canon i l) :
    Canon i (mset8 l a b) :=
  have hm := mem_wf_mset8 l a b h.mem
  show CanonStores i l.ident l.regs _ l.ecc from ⟨h.ident, h.regs, hm, h.ecc⟩

protected theorem Canon.eccSet {i : LaneId} {l : Lane} {a : Nat} {e : Ecc} (h : Canon i l) :
    Canon i (eccSet l a e) :=
  have he := ecc_wf_eccSet l a e h.ecc
  show CanonStores i l.ident l.regs l.mem _ from ⟨h.ident, h.regs, h.mem, he⟩

protected theorem Canon.zero {i : LaneId} : Canon i (Lane.zero i) := ⟨rfl, rfl, rfl, rfl⟩

protected theorem Canon.zeroOf {i : LaneId} {l : Lane} (h : Canon i l) : Canon i (Lane.zero l.ident) := by
  rw [h.ident]
  exact .zero

protected theorem CanonBoth.laneOf {s : State} {i : LaneId} (hs : CanonBoth s) : Canon i (laneOf s i) := by
  cases i
  · exact hs.la
  · exact hs.lb

protected theorem CanonBoth.putLane {s : State} {i : LaneId} {l : Lane} (hs : CanonBoth s)
    (h : Canon i l) : CanonBoth (putLane s i l) := by
  cases i
  · exact ⟨h, hs.lb⟩
  · exact ⟨hs.la, h⟩

protected theorem CanonBoth.modLane {s : State} {i : LaneId} {f : Lane → Lane} (hs : CanonBoth s)
    (hf : ∀ {l}, Canon i l → Canon i (f l)) : CanonBoth (modLane s i f) := hs.putLane (hf hs.laneOf)

/-! ### Parts of canonical stores -/

theorem spWfFrom_of_lt {α : Type} [DecidableEq α] {d : Nat → α} {l : List (Nat × α)} {lo : Option Nat}
    {k : Nat} (h : spWfFrom d (some k) l = true) (hlo : ∀ m, lo = some m → m < k) : spWfFrom d lo l = true := by
  cases l with
  | nil => rfl
  | cons x t =>
    simp only [spWfFrom, Bool.and_eq_true, decide_eq_true_eq] at h ⊢
    obtain ⟨⟨hk, hv⟩, ht⟩ := h
    refine ⟨⟨?_, hv⟩, ht⟩
    cases lo with
    | none => rfl
    | some m => exact decide_eq_true ((hlo m rfl).trans hk)

theorem spWfFrom_filter {α : Type} [DecidableEq α] {d : Nat → α} {l : List (Nat × α)} {lo : Option Nat}
    (p : Nat × α → Bool) (h : spWfFrom d lo l = true) : spWfFrom d lo (l.filter p) = true := by
  induction l generalizing lo with
  | nil => rfl
  | cons x t ih =>
    simp only [spWfFrom, Bool.and_eq_true] at h
    obtain ⟨⟨hk, hv⟩, ht⟩ := h
    rw [List.filter_cons]
    split
    · simp only [spWfFrom, Bool.and_eq_true]
      exact ⟨⟨hk, hv⟩, ih ht⟩
    · refine spWfFrom_of_lt (ih ht) fun m hm => ?_
      subst hm
      exact of_decide_eq_true hk

theorem spWfFrom_congr {α : Type} [DecidableEq α] {d e : Nat → α} {l : List (Nat × α)} {lo : Option Nat}
    (h : spWfFrom d lo l = true) (hde : ∀ x ∈ l, d x.1 = e x.1) : spWfFrom e lo l = true := by
  induction l generalizing lo with
  | nil => rfl
  | cons x t ih =>
    simp only [spWfFrom, Bool.and_eq_true] at h ⊢
    obtain ⟨⟨hk, hv⟩, ht⟩ := h
    rw [hde x List.mem_cons_self] at hv
    exact ⟨⟨hk, hv⟩, ih ht fun y hy => hde y (List.mem_cons_of_mem _ hy)⟩

theorem spWfFrom_lt {α : Type} [DecidableEq α] {d : Nat → α} {l : List (Nat × α)} {k : Nat}
    (h : spWfFrom d (some k) l = true) : ∀ x ∈ l, k < x.1 := by
  induction l generalizing k with
  | nil => exact nofun
  | cons y t ih =>
    simp only [spWfFrom, Bool.and_eq_true, decide_eq_true_eq] at h
    obtain ⟨⟨hk, -⟩, ht⟩ := h
    intro x hx
    obtain rfl | hx := List.mem_cons.mp hx
    · exact hk
    · exact hk.trans (ih ht x hx)

theorem spFind_filter_none {α : Type} {l : List (Nat × α)} {p : Nat → Bool} {a : Nat} (ha : p a = false) :
    spFind (l.filter fun x => p x.1) a = none := by
  induction l with
  | nil => rfl
  | cons x t ih =>
    rw [List.filter_cons]
    split
    · rename_i hx
      rw [spFind, if_neg (by rintro rfl; simp [ha] at hx)]
      exact ih
    · exact ih

/-- Entries in canonical form, none of whose keys a canonical list has, may be put into it one by one. -/
theorem spWf_foldl_spPut {α : Type} [DecidableEq α] {d : Nat → α} {xs acc : List (Nat × α)}
    {lo : Option Nat} (hacc : spWfFrom d none acc = true) (hxs : spWfFrom d lo xs = true)
    (hnew : ∀ x ∈ xs, spFind acc x.1 = none) :
    spWfFrom d none (xs.foldl (fun acc x => spPut acc x.1 x.2) acc) = true := by
  induction xs generalizing acc lo with
  | nil => exact hacc
  | cons x t ih =>
    simp only [spWfFrom, Bool.and_eq_true, decide_eq_true_eq] at hxs
    obtain ⟨⟨-, hv⟩, ht⟩ := hxs
    refine ih (spWfFrom_spPut d acc x.1 x.2 none hacc hv (hnew x List.mem_cons_self) nofun) ht fun y hy => ?_
    rw [spFind_spPut_ne _ _ (spWfFrom_lt ht y hy).ne']
    exact hnew y (List.mem_cons_of_mem _ hy)

/-- The reset values of the two lanes differ in SYS_STS alone (R32). -/
theorem regDflt_eq_of_ne {i j : LaneId} {a : Nat} (h : a ≠ SYS_STS) : regDflt j a = regDflt i a := by
  simp only [regDflt, if_neg h]

section
variable {i j : LaneId}

/-! ### Registers, sticky bits, memory, time, records and grading -/

protected theorem Canon.fset {l f v} (h : Canon i l) : Canon i (fset l f v) :=
  h.rset

protected theorem Canon.fsetI {l f v} (h : Canon i l) : Canon i (fsetI l f v) :=
  h.fset

protected theorem Canon.fsetB {l f b} (h : Canon i l) : Canon i (fsetB l f b) :=
  h.fset

protected theorem Canon.fcount {l f} (h : Canon i l) : Canon i (fcount l f) :=
  h.fset.same

protected theorem Canon.fcountN {l f n} (h : Canon i l) : Canon i (fcountN l f n) :=
  .ite h h.fset.same

protected theorem Canon.stkSet {l a m} (h : Canon i l) : Canon i (stkSet l a m) :=
  h.rset.same

protected theorem Canon.fltStk {l bits} (h : Canon i l) : Canon i (fltStk l bits) :=
  h.stkSet

protected theorem Canon.stkOr {l a m} (h : Canon i l) : Canon i (stkOr l a m) :=
  h.stkSet.fltStk

protected theorem Canon.stk {l f} (h : Canon i l) : Canon i (stk l f) :=
  h.stkOr

protected theorem Canon.stkLate {l f} (h : Canon i l) : Canon i (stkLate l f) :=
  h.same

protected theorem Canon.stkIfLate {c l f} (h : Canon i l) : Canon i (stkIfLate c l f) :=
  .ite h.stkLate h

theorem ssiCheck_canon {l m e x w} (h : Canon i l) (hm : ssiCheck l e x w = some m) : Canon i m := by
  unfold ssiCheck at hm
  extract_lets n cl c0 crc jump at hm
  split_ifs at hm
  · cases hm; exact h
  all_goals cases hm
  all_goals exact h.stkLate

protected theorem Canon.clearTables {l} (h : Canon i l) : Canon i (clearTables l) :=
  have hm := spWfFrom_filter _ h.mem
  have he := spWfFrom_filter _ h.ecc
  show CanonStores i l.ident l.regs _ _ from ⟨h.ident, h.regs, hm, he⟩

/-- A lane may take over selected registers of its peer, if SYS_STS, whose reset value is the lane's own, is
not one of them. -/
theorem takeRegs_canon {sel : Nat → Bool} {p l} (hsel : sel SYS_STS = false) (h : Canon i l) (hp : Canon j p) :
    Canon i (takeRegs sel p l) := by
  obtain ⟨hi, hr, hm, he⟩ := h
  have hown : spWfFrom (regDflt i) none (l.regs.filter fun x => !sel x.1) = true := spWfFrom_filter _ hr
  have hne {x : Nat × Word} (hx : x ∈ p.regs.filter fun x => sel x.1) : sel x.1 = true :=
    (List.mem_filter.mp hx).2
  have hnew : spWfFrom (regDflt i) none (p.regs.filter fun x => sel x.1) = true :=
    spWfFrom_congr (spWfFrom_filter _ hp.regs) fun x hx => regDflt_eq_of_ne fun e => by
      have := hne hx
      rw [e, hsel] at this
      cases this
  have hregs := spWf_foldl_spPut hown hnew fun x hx =>
    spFind_filter_none (p := fun a => !sel a) (by rw [hne hx]; rfl)
  exact ⟨hi, hregs, hm, he⟩

protected theorem Canon.takeUnit {u p l} (h : Canon i l) (hp : Canon j p) : Canon i (takeUnit u p l) := by
  have h' := takeRegs_canon (sel := fun a => decide (unitOf p a = some u) && decide (hashMask a = 0xFFFFFFFF))
    (by simp [hashMask]) h hp
  exact .ite h'.rset h'

protected theorem Canon.takeData {p l} (h : Canon i l) : Canon i (takeData p l) := by
  have hm : spWfFrom memDflt none ((p.mem.filter fun x => isData x.1).foldl (fun m x => spSet memDflt m x.1 x.2)
      (l.mem.filter fun x => !(isData x.1))) = true :=
    List.foldlRecOn (motive := fun m => spWfFrom memDflt none m = true) _ _ (spWfFrom_filter _ h.mem)
      fun m hm x _ => spWf_spSet _ m x.1 x.2 hm
  have he := spWfFrom_filter (fun x => !(isData x.1)) h.ecc
  exact ⟨h.ident, h.regs, hm, he⟩

protected theorem Canon.showLate {l} (h : Canon i l) : Canon i (showLate l) :=
  .foldl h.same fun h => h.stkOr

protected theorem Canon.stkIf {c l f} (h : Canon i l) : Canon i (stkIf c l f) :=
  .ite h.stk h

protected theorem Canon.mset32 {l a w} (h : Canon i l) : Canon i (mset32 l a w) :=
  h.mset8.mset8.mset8.mset8

protected theorem Canon.chkFail {l} (h : Canon i l) : Canon i (chkFail l) :=
  h.same

protected theorem Canon.shipAdvance {d l} (h : Canon i l) : Canon i (shipAdvance d l) :=
  .ite h
    (have h' := h.same
     .ite h'.same h'.same)

protected theorem Canon.shipMark {l now} (h : Canon i l) : Canon i (shipMark l now) :=
  h.same

protected theorem Canon.emberTick {l} (h : Canon i l) : Canon i (emberTick l) :=
  .ite h.same h

protected theorem Canon.atCycle {c l} (h : Canon i l) : Canon i (atCycle c l) :=
  h.same

protected theorem CanonBoth.tickTo {t s} (hs : CanonBoth s) : CanonBoth (tickTo t s) :=
  .ite hs (.lanes hs.la.shipAdvance.atCycle hs.lb.shipAdvance.atCycle)

protected theorem Canon.wantDomains {l m} (h : Canon i l) : Canon i (wantDomains l m) :=
  h.same

protected theorem Canon.moduleState {l} (h : Canon i l) : Canon i (moduleState l) :=
  .ite h.fset h

protected theorem Canon.stkSeen {l f} (h : Canon i l) : Canon i (stkSeen l f) :=
  .ite h.stkLate h.stk

protected theorem Canon.stkSeenIf {c l f} (h : Canon i l) : Canon i (stkSeenIf c l f) :=
  .ite h.stkSeen h

protected theorem CanonBoth.inRunning {f s} (hs : CanonBoth s) (hf : ∀ {x0 i}, Canon i x0 → Canon i
    (f x0)) :
    CanonBoth (inRunning f s) :=
  .lanes (.ite (hf hs.la) hs.la) (.ite (hf hs.lb) hs.lb)

protected theorem CanonBoth.inLinks {f s} (hs : CanonBoth s) (hf : ∀ {x0 i}, Canon i x0 → Canon i (f x0)) :
    CanonBoth (inLinks f s) :=
  .lanes (.ite (hf hs.la) hs.la) (.ite (hf hs.lb) hs.lb)

protected theorem Canon.peatWrite {l now kind code sev rep c0 c1} (h : Canon i l) :
    Canon i (peatWrite l now kind code sev rep c0 c1) :=
  .ite h.stkSeen h.same.fset.fsetB

protected theorem Canon.ask {l r} (h : Canon i l) : Canon i (ask l r) :=
  h.same

protected theorem Canon.fmWrite {l now kind code sev c0 c1} (h : Canon i l) :
    Canon i (fmWrite l now kind code sev c0 c1) :=
  h.ask

protected theorem Canon.axAsk {l a e} (h : Canon i l) : Canon i (axAsk l a e) :=
  .ite h.stkLate (by
    dsimp only
    split
    · exact .ite h.stkLate h.same
    · exact h.same)

protected theorem Canon.cpLost {l c} (h : Canon i l) : Canon i (cpLost l c) :=
  .ite h h.fset.fsetB.stkLate

protected theorem Canon.brickLost {l b} (h : Canon i l) : Canon i (brickLost l b) :=
  .foldl h fun h => .ite h.cpLost h

protected theorem Canon.permitAsk {l} (h : Canon i l) : Canon i (permitAsk l) :=
  .foldl h fun h => .ite h.axAsk h

protected theorem Canon.allAsk {l banked e} (h : Canon i l) : Canon i (allAsk l banked e) :=
  .foldl h fun h => .ite h.axAsk h

protected theorem Canon.axStopOne {l a e} (h : Canon i l) : Canon i (axStopOne l a e) :=
  have h' := h.axAsk
  .ite h'.same h'

protected theorem Canon.axStop {l a e} (h : Canon i l) : Canon i (axStop l a e) :=
  have h' := h.axStopOne
  .ite (.foldl h' fun h => .foldl h fun h => .ite h.axStopOne h) h'

protected theorem Canon.fltSummary {l} (h : Canon i l) : Canon i (fltSummary l) :=
  h.fsetB.fsetB

protected theorem Canon.stopsLeft {l a e} (h : Canon i l) : Canon i (stopsLeft l a e) :=
  h.same

protected theorem Canon.respond {l k sev c0} (h : Canon i l) : Canon i (respond l k sev c0).1 := by
  unfold respond
  split
  · exact h
  · exact h
  · split
    · exact h.brickLost
    · exact h
  · split
    · exact h.axStop
    · exact h
  · split
    · exact h.axStop
    · exact h
  · exact .iteFst h (.iteFst h.ask (.iteFst h.ask (by split <;> exact h.ask)))
  · exact .iteFst h h.same.allAsk.ask
  · exact h

protected theorem Canon.raiseRecord {l now k sev c0 c1} (h : Canon i l) :
    Canon i (raiseRecord l now k sev c0 c1) := by
  unfold raiseRecord
  dsimp only
  split
  · exact .ite h.same h.same.peatWrite
  · exact h.same.peatWrite

protected theorem Canon.capSeen {l trig src} (h : Canon i l) : Canon i (capSeen l trig src) :=
  .ite h.same h

protected theorem Canon.raise {l now k c0 c1} (h : Canon i l) : Canon i (raise l now k c0 c1) := by
  unfold raise
  extract_lets sev
  split
  next l1 bits hr =>
  have h1 : Canon i (l1, bits).1 := hr ▸ h.respond
  extract_lets l2 l3 l4
  have h2 : Canon i l2 := .ite h1.raiseRecord h1
  have h3 : Canon i l3 := .ite h2.fmWrite h2
  exact .same h3.capSeen

protected theorem Canon.raiseO {l now k obj detail c1} (h : Canon i l) :
    Canon i (raiseO l now k obj detail c1) :=
  h.raise

protected theorem Canon.wakeSet {l k} (h : Canon i l) : Canon i (wakeSet l k) :=
  .foldl h fun h => .ite h.rset h

protected theorem Canon.showRaise {l r} (h : Canon i l) : Canon i (showRaise l r) :=
  have h' := h.fcount
  .wakeSet (.fltStk (.rset (.rset (.fset (.fset (.ite h'.same h'))))))

protected theorem Canon.fltLate {l bits} (h : Canon i l) : Canon i (fltLate l bits) :=
  h.same

protected theorem Canon.showRaises {l} (h : Canon i l) : Canon i (showRaises l) :=
  .fltSummary (.fsetB (.showLate (.foldl h.same fun h => h.showRaise)))

/-! ### Tasks, tags, the dispatcher and exceptions (chapters 2 and 3) -/

protected theorem Canon.putCore {l c k} (h : Canon i l) : Canon i (putCore l c k) :=
  h.same

protected theorem Canon.putTask {l c k t} (h : Canon i l) : Canon i (putTask l c k t) :=
  h.putCore

protected theorem Canon.putCur {l c t} (h : Canon i l) : Canon i (putCur l c t) :=
  h.putTask

protected theorem Canon.foldStore {l c a d} (h : Canon i l) : Canon i (foldStore l c a d) :=
  h.putCore

protected theorem Canon.tagDrop {l c k} (h : Canon i l) : Canon i (tagDrop l c k) :=
  .ite h h.fset

protected theorem Canon.leaveTags {l c k} (h : Canon i l) : Canon i (leaveTags l c k) :=
  h.same.stkIf.tagDrop

protected theorem Canon.startJob {l now rc c k} (h : Canon i l) : Canon i (startJob l now rc c k) :=
  h.putTask

protected theorem Canon.endJob {l c k keep} (h : Canon i l) : Canon i (endJob l c k keep) :=
  h.putTask.leaveTags

protected theorem Canon.resumeTask {l c k} (h : Canon i l) : Canon i (resumeTask l c k) := by
  unfold resumeTask
  dsimp only
  split
  · split
    · exact h.same.putTask
    · exact h
  · split
    · exact h.rset.putTask
    · exact h
  · exact h

protected theorem Canon.dispatch {l now c} (h : Canon i l) : Canon i (dispatch l now c) := by
  unfold dispatch
  split
  · exact h
  · exact .resumeTask (.ite h.putCore h.putCore)

protected theorem Canon.nextTurn {l c k} (h : Canon i l) : Canon i (nextTurn l c k) :=
  .ite h.putCore h

protected theorem Canon.dispatchAll {l now} (h : Canon i l) : Canon i (dispatchAll l now) :=
  .foldl h fun h => h.dispatch

protected theorem Canon.releaseTask {l now rc c k} (h : Canon i l) : Canon i (releaseTask l now rc c k) :=
  have h' := h.putTask
  .ite h' (.startJob (.ite h' h'.endJob))

protected theorem Canon.releaseClass {l now cls axis} (h : Canon i l) :
    Canon i (releaseClass l now cls axis) :=
  .dispatchAll (.foldl h fun h => .foldl h fun h => .ite h.releaseTask h)

protected theorem Canon.releaseBg {l now} (h : Canon i l) : Canon i (releaseBg l now) :=
  .dispatchAll (.foldl h fun h => .foldl h fun h => .ite h.releaseTask h)

protected theorem Canon.recordExc {l c code pc adr} (h : Canon i l) : Canon i (recordExc l c code pc adr) :=
  h.fcount.fset.fset.rset.rset.stk

protected theorem Canon.takeExc {l now c code adr cyc} (h : Canon i l) :
    Canon i (takeExc l now c code adr cyc) := by
  unfold takeExc
  extract_lets k pc l1 l2 l3 l4 x l5 l6
  have h_l1 : Canon i l1 := h.recordExc
  have h_l2 : Canon i l2 := .ite h_l1.chkFail h_l1
  have h_l3 : Canon i l3 := h_l2.raiseO
  have h_l4 : Canon i l4 := h_l3.endJob
  have h_l5 : Canon i l5 := h_l4.putCore
  have h_l6 : Canon i l6 := .ite h_l5.releaseTask h_l5
  exact h_l6.dispatch

/-! ### Lane roles, self-test, ports, and `settle` -/

protected theorem Canon.setRole {now r l} (h : Canon i l) : Canon i (setRole now r l) :=
  .ite h h.fset.peatWrite.fmWrite.stkSeen.fsetB

protected theorem Canon.seePeer {up peer c0 c1 l} (h1 : Canon i l) : Canon i (seePeer up peer c0 c1 l) :=
  have h1' := h1.fsetB.fsetB.stkSeenIf
  .fsetB (.fsetB (.fsetB (.ite h1'.fset h1')))

protected theorem CanonBoth.peers {s} (hs : CanonBoth s) : CanonBoth (peers s) :=
  .lanes (.ite hs.la.seePeer hs.la) (.ite hs.lb.seePeer hs.lb)

protected theorem CanonBoth.hoEnd {s} (hs : CanonBoth s) : CanonBoth (hoEnd s) :=
  .lanes hs.la.fsetB hs.lb.fsetB

protected theorem CanonBoth.fmRing {s ring head} (hs : CanonBoth s) : CanonBoth (fmRing s ring head) :=
  hs.same

protected theorem CanonBoth.fmPush {e s} (hs : CanonBoth s) : CanonBoth (fmPush e s) :=
  hs.fmRing

protected theorem Canon.axNoYield {l a ok} (h : Canon i l) : Canon i (axNoYield l a ok) :=
  h.same

protected theorem Canon.yieldStop {l a} (h : Canon i l) : Canon i (yieldStop l a) :=
  .ite h.axAsk.axNoYield h

protected theorem CanonBoth.wantHandover {i' cause s} (hs : CanonBoth s) :
    CanonBoth (wantHandover i' cause s) :=
  .ite hs
    (.ite (hs.inRunning fun h => .foldl h.fltLate fun h => h.yieldStop)
      (.ite (.same (hs.modLane fun h => h.fsetB)) (.ite (hs.same.inRunning fun h => h.fltLate) hs.same)))

protected theorem CanonBoth.safeEntered {i' s} (hs : CanonBoth s) : CanonBoth (safeEntered i' s) := by
  unfold safeEntered
  refine .ite ?_ hs
  extract_lets s1
  have h1 : CanonBoth s1 := hs.same
  split
  · exact h1
  all_goals exact .ite h1.hoEnd h1

protected theorem CanonBoth.bistKeep {f s} (hs : CanonBoth s) : CanonBoth (bistKeep f s) :=
  hs.same

protected theorem CanonBoth.bistShow {s} (hs : CanonBoth s) : CanonBoth (bistShow s) :=
  .lanes (.ite hs.la.fset.fset hs.la) (.ite hs.lb.fset.fset hs.lb)

protected theorem CanonBoth.bistOver {i' s} (hs : CanonBoth s) : CanonBoth (bistOver i' s) :=
  .ite hs.bistKeep.bistShow hs

protected theorem CanonBoth.bistBegin {i' run roll s} (hs : CanonBoth s) :
    CanonBoth (bistBegin i' run roll s) :=
  .bistShow (.same (hs.modLane fun h => h.setRole))

protected theorem CanonBoth.bistRefuse {s} (hs : CanonBoth s) : CanonBoth (bistRefuse s) :=
  hs.inRunning fun h => h.stk

protected theorem CanonBoth.bistDrop {s} (hs : CanonBoth s) : CanonBoth (bistDrop s) :=
  have hs' := hs.bistKeep
  .ite hs'.bistRefuse hs'

protected theorem CanonBoth.bistCmd {run tgt s} (hs : CanonBoth s) : CanonBoth (bistCmd run tgt s) := by
  unfold bistCmd
  split
  · exact hs
  · exact .ite (.ite hs.bistBegin hs.bistRefuse)
      (.ite (.ite hs.same hs.same.wantHandover) (.ite hs.bistBegin hs.bistRefuse))

protected theorem CanonBoth.rollStart {due own s} (hs : CanonBoth s) : CanonBoth (rollStart due own s) := by
  unfold rollStart
  split
  · exact hs
  · exact .ite hs.same.bistShow hs.bistBegin

protected theorem CanonBoth.rollNow {s} (hs : CanonBoth s) : CanonBoth (rollNow s) := by
  unfold rollNow
  split
  · exact hs
  · exact .ite hs hs.rollStart

protected theorem CanonBoth.modBrick {s b f} (hs : CanonBoth s) : CanonBoth (modBrick s b f) :=
  hs.same

protected theorem CanonBoth.modPort {s b i' f} (hs : CanonBoth s) : CanonBoth (modPort s b i' f) :=
  hs.modBrick

protected theorem CanonBoth.linkDark {k s} (hs : CanonBoth s) : CanonBoth (linkDark k s) :=
  .foldl hs.same fun hs => hs.modPort.modBrick

protected theorem CanonBoth.permitLoss {before s} (hs1 : CanonBoth s) : CanonBoth (permitLoss before s) :=
  .ite (hs1.inRunning fun h => h.permitAsk) hs1

protected theorem CanonBoth.fieldDrive {i' f g s} (hs : CanonBoth s) : CanonBoth (fieldDrive i' f g s) :=
  .ite hs.same hs

protected theorem CanonBoth.switchOutput {i' o on s} (hs : CanonBoth s) :
    CanonBoth (switchOutput i' o on s) :=
  hs.fieldDrive

protected theorem CanonBoth.switchCompare {i' e t w s} (hs : CanonBoth s) :
    CanonBoth (switchCompare i' e t w s) := by
  unfold switchCompare
  exact hs.fieldDrive

protected theorem CanonBoth.switchPulse {i' e edges s} (hs : CanonBoth s) :
    CanonBoth (switchPulse i' e edges s) :=
  hs.fieldDrive

protected theorem CanonBoth.releaseSafe {i' f s} (hs : CanonBoth s) : CanonBoth (releaseSafe i' f s) :=
  .ite hs.same hs

protected theorem CanonBoth.serveReq {i' r s} (hs : CanonBoth s) : CanonBoth (serveReq i' r s) := by
  unfold serveReq
  split
  · exact hs.wantHandover
  · exact .ite hs.wantHandover hs
  · exact .ite hs.wantHandover (hs.modLane fun h => h.setRole)
  · exact .ite hs.fmPush hs
  · exact hs.modLane fun h => h.setRole
  · exact hs.switchOutput
  · exact hs.switchCompare
  · exact hs.switchPulse
  · exact .foldl hs fun hs => .ite hs.releaseSafe hs
  · exact .modLane (.ite hs hs.same.linkDark) fun h => h.stkSeen.peatWrite.fmWrite
  · exact .ite hs.bistCmd hs
  · exact .ite hs.rollNow hs
  · exact hs.safeEntered
  · exact hs.same

protected theorem CanonBoth.selectors {s} (hs : CanonBoth s) : CanonBoth (selectors s) :=
  .ite hs.same (.ite hs.same hs)

protected theorem CanonBoth.serveAll {s} (hs : CanonBoth s) : CanonBoth (serveAll s) :=
  .foldl (.foldl (.lanes hs.la.same hs.lb.same) fun hs => hs.serveReq) fun hs => hs.serveReq

protected theorem CanonBoth.settle {s} (hs : CanonBoth s) : CanonBoth (settle s) :=
  hs.serveAll.serveAll.peers.selectors

/-! ### The issue of an instruction (R44 to R51) -/

protected theorem Canon.setCyc {l c cyc} (h : Canon i l) : Canon i (setCyc l c cyc) :=
  h.putCore

protected theorem Canon.eccReplay {l c} (h : Canon i l) : Canon i (eccReplay l c) :=
  h.putCore.stk.chkFail

protected theorem CanonBoth.finish {i' s e} (hs : CanonBoth s) (he : CanonEff i'.lane e) :
    CanonBoth (finish i' s e) := by
  cases e with
  | ok l => exact hs.putLane (Canon.atCycle he)
  | exc l code adr cyc => exact (hs.putLane (Canon.takeExc (Canon.atCycle he)).atCycle).settle

theorem eccRead_canon {l m c a up n} (h : Canon i l) (hm : eccRead l c a up = some (m, n)) : Canon i m := by
  unfold eccRead at hm
  split at hm
  · cases hm; exact h
  · cases hm; exact h.eccSet.eccReplay
  · cases hm

protected theorem Canon.issuedLane {i' l cost srcs} (h : Canon i l) : Canon i (issuedLane i' l cost srcs) :=
  have h' := h.setCyc.atCycle
  .ite h'.eccReplay.atCycle h'

protected theorem CanonBoth.issueG {i' s ill cost srcs skip eff} (hs : CanonBoth s)
    (hf : ∀ {x0 i}, Canon i x0 → Canon i (skip x0)) (hf1 : ∀ {x0 i}, Canon i x0 → CanonEff i (eff x0)) :
    CanonBoth (issueG i' s ill cost srcs skip eff) :=
  have h' := hs.laneOf
  .ite hs (by
    split
    · exact hs.finish (.exc h'.setCyc)
    · exact
        have h1' := h'.issuedLane
        .ite (hs.finish (.exc h1')) (.ite (hs.finish (hf1 h1')) (hs.finish (.ok (hf h1')))))

protected theorem Canon.skipNext {c l} (h : Canon i l) : Canon i (skipNext c l) :=
  h.putCur

protected theorem CanonBoth.issueT {i' s ill cost srcs f} (hs : CanonBoth s) :
    CanonBoth (issueT i' s ill cost srcs f) :=
  hs.issueG (fun h => h.skipNext) fun h => .ok h.putCur

protected theorem CanonBoth.issueRR {i' s cost rd ra rb f} (hs : CanonBoth s) :
    CanonBoth (issueRR i' s cost rd ra rb f) :=
  hs.issueT

protected theorem CanonBoth.issueR1 {i' s cost rd ra f} (hs : CanonBoth s) :
    CanonBoth (issueR1 i' s cost rd ra f) :=
  hs.issueT

protected theorem CanonBoth.issueDiv {i' s rd ra rb f} (hs : CanonBoth s) :
    CanonBoth (issueDiv i' s rd ra rb f) :=
  hs.issueG (fun h => h.skipNext) fun h => .ok h.putCur.stkIf

protected theorem Canon.bfStk {l c f} (h : Canon i l) : Canon i (bfStk l c f) :=
  h.stkIf.stkIf.stkIf

protected theorem CanonBoth.issueBf {i' s cost srcs rd f} (hs : CanonBoth s) :
    CanonBoth (issueBf i' s cost srcs rd f) :=
  hs.issueG (fun h => h.skipNext) fun h => .ok h.putCur.bfStk

/-! ### Integer instructions, comparisons and predicates (R52 to R56) -/

protected theorem CanonBoth.execAdd {i' rd ra rb s} (hs : CanonBoth s) : CanonOut (execAdd i' rd ra rb s) :=
  .next hs.issueRR

protected theorem CanonBoth.execSub {i' rd ra rb s} (hs : CanonBoth s) : CanonOut (execSub i' rd ra rb s) :=
  .next hs.issueRR

protected theorem CanonBoth.execAnd {i' rd ra rb s} (hs : CanonBoth s) : CanonOut (execAnd i' rd ra rb s) :=
  .next hs.issueRR

protected theorem CanonBoth.execOr {i' rd ra rb s} (hs : CanonBoth s) : CanonOut (execOr i' rd ra rb s) :=
  .next hs.issueRR

protected theorem CanonBoth.execXor {i' rd ra rb s} (hs : CanonBoth s) : CanonOut (execXor i' rd ra rb s) :=
  .next hs.issueRR

protected theorem CanonBoth.execAndn {i' rd ra rb s} (hs : CanonBoth s) :
    CanonOut (execAndn i' rd ra rb s) :=
  .next hs.issueRR

protected theorem CanonBoth.execShl {i' rd ra rb s} (hs : CanonBoth s) : CanonOut (execShl i' rd ra rb s) :=
  .next hs.issueRR

protected theorem CanonBoth.execShr {i' rd ra rb s} (hs : CanonBoth s) : CanonOut (execShr i' rd ra rb s) :=
  .next hs.issueRR

protected theorem CanonBoth.execSar {i' rd ra rb s} (hs : CanonBoth s) : CanonOut (execSar i' rd ra rb s) :=
  .next hs.issueRR

protected theorem CanonBoth.execRor {i' rd ra rb s} (hs : CanonBoth s) : CanonOut (execRor i' rd ra rb s) :=
  .next hs.issueRR

protected theorem CanonBoth.execMin {i' rd ra rb s} (hs : CanonBoth s) : CanonOut (execMin i' rd ra rb s) :=
  .next hs.issueRR

protected theorem CanonBoth.execMax {i' rd ra rb s} (hs : CanonBoth s) : CanonOut (execMax i' rd ra rb s) :=
  .next hs.issueRR

protected theorem CanonBoth.execMinu {i' rd ra rb s} (hs : CanonBoth s) :
    CanonOut (execMinu i' rd ra rb s) :=
  .next hs.issueRR

protected theorem CanonBoth.execMaxu {i' rd ra rb s} (hs : CanonBoth s) :
    CanonOut (execMaxu i' rd ra rb s) :=
  .next hs.issueRR

protected theorem CanonBoth.execSadd {i' rd ra rb s} (hs : CanonBoth s) :
    CanonOut (execSadd i' rd ra rb s) :=
  .next hs.issueRR

protected theorem CanonBoth.execSsub {i' rd ra rb s} (hs : CanonBoth s) :
    CanonOut (execSsub i' rd ra rb s) :=
  .next hs.issueRR

protected theorem CanonBoth.execMul {i' rd ra rb s} (hs : CanonBoth s) : CanonOut (execMul i' rd ra rb s) :=
  .next hs.issueRR

protected theorem CanonBoth.execMulhs {i' rd ra rb s} (hs : CanonBoth s) :
    CanonOut (execMulhs i' rd ra rb s) :=
  .next hs.issueRR

protected theorem CanonBoth.execMulhu {i' rd ra rb s} (hs : CanonBoth s) :
    CanonOut (execMulhu i' rd ra rb s) :=
  .next hs.issueRR

protected theorem CanonBoth.execMulq {i' rd ra rb s} (hs : CanonBoth s) :
    CanonOut (execMulq i' rd ra rb s) :=
  .next hs.issueRR

protected theorem CanonBoth.execDiv {i' rd ra rb s} (hs : CanonBoth s) : CanonOut (execDiv i' rd ra rb s) :=
  .next hs.issueDiv

protected theorem CanonBoth.execDivu {i' rd ra rb s} (hs : CanonBoth s) :
    CanonOut (execDivu i' rd ra rb s) :=
  .next hs.issueDiv

protected theorem CanonBoth.execRem {i' rd ra rb s} (hs : CanonBoth s) : CanonOut (execRem i' rd ra rb s) :=
  .next hs.issueDiv

protected theorem CanonBoth.execRemu {i' rd ra rb s} (hs : CanonBoth s) :
    CanonOut (execRemu i' rd ra rb s) :=
  .next hs.issueDiv

protected theorem CanonBoth.execClz {i' rd ra s} (hs : CanonBoth s) : CanonOut (execClz i' rd ra s) :=
  .next hs.issueR1

protected theorem CanonBoth.execAbs {i' rd ra s} (hs : CanonBoth s) : CanonOut (execAbs i' rd ra s) :=
  .next hs.issueR1

protected theorem CanonBoth.execSextb {i' rd ra s} (hs : CanonBoth s) : CanonOut (execSextb i' rd ra s) :=
  .next hs.issueR1

protected theorem CanonBoth.execSexth {i' rd ra s} (hs : CanonBoth s) : CanonOut (execSexth i' rd ra s) :=
  .next hs.issueR1

protected theorem CanonBoth.execAddi {i' rd ra imm s} (hs : CanonBoth s) :
    CanonOut (execAddi i' rd ra imm s) :=
  .next hs.issueR1

protected theorem CanonBoth.execAndi {i' rd ra imm s} (hs : CanonBoth s) :
    CanonOut (execAndi i' rd ra imm s) :=
  .next hs.issueR1

protected theorem CanonBoth.execOri {i' rd ra imm s} (hs : CanonBoth s) :
    CanonOut (execOri i' rd ra imm s) :=
  .next hs.issueR1

protected theorem CanonBoth.execXori {i' rd ra imm s} (hs : CanonBoth s) :
    CanonOut (execXori i' rd ra imm s) :=
  .next hs.issueR1

protected theorem CanonBoth.execMuli {i' rd ra imm s} (hs : CanonBoth s) :
    CanonOut (execMuli i' rd ra imm s) :=
  .next hs.issueR1

protected theorem CanonBoth.execShli {i' rd ra k s} (hs : CanonBoth s) : CanonOut (execShli i' rd ra k s) :=
  .next hs.issueR1

protected theorem CanonBoth.execShri {i' rd ra k s} (hs : CanonBoth s) : CanonOut (execShri i' rd ra k s) :=
  .next hs.issueR1

protected theorem CanonBoth.execSari {i' rd ra k s} (hs : CanonBoth s) : CanonOut (execSari i' rd ra k s) :=
  .next hs.issueR1

protected theorem CanonBoth.execRori {i' rd ra k s} (hs : CanonBoth s) : CanonOut (execRori i' rd ra k s) :=
  .next hs.issueR1

protected theorem CanonBoth.execMovl {i' rd imm s} (hs : CanonBoth s) : CanonOut (execMovl i' rd imm s) :=
  .next hs.issueT

protected theorem CanonBoth.execMovh {i' rd imm s} (hs : CanonBoth s) : CanonOut (execMovh i' rd imm s) :=
  .next hs.issueT

protected theorem CanonBoth.execCmp {i' pd cm ra rb fn s} (hs : CanonBoth s) :
    CanonOut (execCmp i' pd cm ra rb fn s) :=
  .next (hs.issueG (fun h => h.skipNext) fun h => by
    dsimp only
    split
    · exact .ok h.putCur.stkIf
    · exact .exc h)

protected theorem CanonBoth.execCmpi {i' pd cm ra cond imm s} (hs : CanonBoth s) :
    CanonOut (execCmpi i' pd cm ra cond imm s) :=
  .next hs.issueT

protected theorem CanonBoth.execPand {i' pd pa pb s} (hs : CanonBoth s) :
    CanonOut (execPand i' pd pa pb s) :=
  .next hs.issueT

protected theorem CanonBoth.execPor {i' pd pa pb s} (hs : CanonBoth s) : CanonOut (execPor i' pd pa pb s) :=
  .next hs.issueT

protected theorem CanonBoth.execPxor {i' pd pa pb s} (hs : CanonBoth s) :
    CanonOut (execPxor i' pd pa pb s) :=
  .next hs.issueT

protected theorem CanonBoth.execPandn {i' pd pa pb s} (hs : CanonBoth s) :
    CanonOut (execPandn i' pd pa pb s) :=
  .next hs.issueT

protected theorem CanonBoth.execPnot {i' pd pa s} (hs : CanonBoth s) : CanonOut (execPnot i' pd pa s) :=
  .next hs.issueT

protected theorem CanonBoth.execPtow {i' rd s} (hs : CanonBoth s) : CanonOut (execPtow i' rd s) :=
  .next hs.issueT

protected theorem CanonBoth.execWtop {i' ra s} (hs : CanonBoth s) : CanonOut (execWtop i' ra s) :=
  .next hs.issueT

/-! ### Commutation and modulation (chapter 4) -/

protected theorem Canon.modAx {l a f} (h : Canon i l) : Canon i (modAx l a f) :=
  h.same

protected theorem Canon.modLeg {l n f} (h : Canon i l) : Canon i (modLeg l n f) :=
  h.same

protected theorem Canon.modCop {l c f} (h : Canon i l) : Canon i (modCop l c f) :=
  h.same

protected theorem Canon.reformSet {l a s} (h : Canon i l) : Canon i (reformSet l a s) := by
  unfold reformSet
  extract_lets run nact changed l1 l2 tp step l3
  have h_l1 : Canon i l1 := .foldl h fun h => h.modCop
  have h_l2 : Canon i l2 := h_l1.fset
  have h_l3 : Canon i l3 := .foldl h_l2 fun h => h.fset.fset
  exact .ite (.foldl h_l3 fun h => .foldl h fun h => h.fset.modLeg) h_l3

protected theorem Canon.reform {l a} (h : Canon i l) : Canon i (reform l a) :=
  .foldl h fun h => h.reformSet

protected theorem Canon.decideBand {l b} (h : Canon i l) : Canon i (decideBand l b) :=
  .ite h h.fsetI.same.fsetB

protected theorem Canon.applyBand {l t b} (h : Canon i l) : Canon i (applyBand l t b) := by
  unfold applyBand
  split
  · exact h
  · exact .foldl h.fset.fsetB.same.stkLate fun h => h.modLeg

protected theorem Canon.legEdge {l n t1 r pinned} (h : Canon i l) : Canon i (legEdge l n t1 r pinned) :=
  h.stkIfLate.modLeg

protected theorem Canon.modCoppice {l a s wt vmag c} (h : Canon i l) :
    Canon i (modCoppice l a s wt vmag c) := by
  unfold modCoppice
  extract_lets x t1 tp
  split
  next vdc miss _ =>
  extract_lets l1 l2 l3 th
  have h3 : Canon i l3 := h.stkIfLate.fsetI.modCop
  refine .ite ?_ ?_
  · refine .foldl h3 fun {l p} h => ?_
    split
    · exact h
    · exact h.legEdge
  · refine .foldl h3.stkIfLate fun {l p} h => ?_
    split
    · exact h
    · exact h.legEdge

protected theorem Canon.legOff {l n} (h : Canon i l) : Canon i (legOff l n) :=
  h.modLeg

protected theorem Canon.placeInstants {l a n} (h : Canon i l) : Canon i (placeInstants l a n) :=
  .ite h h.modLeg

protected theorem Canon.setCurrent {l now a n src six i'} (h : Canon i l) :
    Canon i (setCurrent l now a n src six i') :=
  have h1' := h.modLeg.fset
  .ite (.ite h1'.fcount h1')
    (.ite h1'.fset
      (have h3' := h1'.fcount.fcount.stkIfLate
       .ite h3'.stkLate.raiseO h3'))

protected theorem Canon.reconCoppice {l now a six pred c} (h : Canon i l) :
    Canon i (reconCoppice l now a six pred c) :=
  .ite (.modCop (.fsetI (.foldl h fun h => h.setCurrent)))
    (.ite (.modCop (.foldl h.stkIfLate.fsetI fun h => .ite h.setCurrent h.setCurrent))
      (.modCop (.foldl h fun h => h.setCurrent)))

protected theorem Canon.balancePhase {l a s p} (h : Canon i l) : Canon i (balancePhase l a s p) :=
  .ite h (.ite h (.foldl h fun h => h.stkIfLate.fsetI.modLeg))

protected theorem Canon.balance {l a} (h : Canon i l) : Canon i (balance l a) :=
  .foldl h fun h => .foldl h fun h => h.balancePhase

protected theorem Canon.legSummary {l} (h : Canon i l) : Canon i (legSummary l) :=
  h.fsetB.fsetB.fsetB.fsetB

/-! ### Field control and the rotor observer (chapter 5) -/

protected theorem Canon.modObs {l a f} (h : Canon i l) : Canon i (modObs l a f) :=
  h.modAx

protected theorem Canon.toMode {l a m} (h : Canon i l) : Canon i (toMode l a m) :=
  h.modObs

protected theorem Canon.reconAxis {l now a} (h : Canon i l) : Canon i (reconAxis l now a) := by
  unfold reconAxis
  extract_lets six
  refine .foldl h fun {l s} h => ?_
  extract_lets cs n full rest allMeas l1 l2 l0 l3
  have h1 : Canon i l1 := .foldl h fun h => .foldl h fun h => h.fset
  have h2 : Canon i l2 := .foldl h1 fun h => h.reconCoppice
  have h3 : Canon i l3 := .foldl h2 fun h => h.reconCoppice
  exact .ite (.foldl h3 fun h => h.modCop) h3

protected theorem Canon.parkAxis {l a} (h : Canon i l) : Canon i (parkAxis l a) :=
  .foldl h fun h => h.modAx

protected theorem Canon.appliedCop {l a c} (h : Canon i l) : Canon i (appliedCop l a c).1 :=
  .foldl h fun h => by
    dsimp only
    split
    · exact h
    · exact .ite (.ite h.modLeg h.modLeg) h

protected theorem Canon.appliedAxis {l a} (h : Canon i l) : Canon i (appliedAxis l a) :=
  .foldl h fun h => .modAx (.foldlFst h fun h => h.appliedCop)

protected theorem Canon.governAngle {l a} (h : Canon i l) : Canon i (governAngle l a) :=
  h.stkIfLate.modObs

protected theorem Canon.injUpdate {l a} (h : Canon i l) : Canon i (injUpdate l a) :=
  have h' := h.stkIfLate
  .ite h'.modObs h'.modObs

protected theorem Canon.track {l a eps} (h : Canon i l) : Canon i (track l a eps) :=
  h.modObs

protected theorem Canon.lossCheck {l now a th} (h : Canon i l) : Canon i (lossCheck l now a th) := by
  unfold lossCheck
  extract_lets +onlyGivenNames x o m here enc run xtol xerr slip
  split
  split
  extract_lets +onlyGivenNames cross
  split
  extract_lets +onlyGivenNames nxc mis l1 encDead good l2
  have h1 : Canon i l1 := .ite h.stkLate.raiseO h
  have h2 : Canon i l2 := .ite h1.stkLate.toMode h1
  exact h2.modObs

protected theorem Canon.acquire {l now a} (h : Canon i l) : Canon i (acquire l now a) :=
  have h' := h.modObs
  .ite (.ite h'.modObs h'.modObs)
    (.ite h'.modObs
      (.ite
        (have h1' := h'.modObs
         .ite h1'.toMode.modObs (.ite h1'.toMode.modObs h1'.stkLate.toMode.raiseO))
        (.ite h'.toMode.modObs (.ite h'.modObs h'.stkLate.toMode.raiseO))))

protected theorem Canon.polarity {l now a} (h : Canon i l) : Canon i (polarity l now a) :=
  .ite h.modObs (.ite h.toMode.modObs (.ite h.toMode.modObs h.stkLate.raiseO.toMode.modObs))

protected theorem Canon.showDiff {l a} (h : Canon i l) : Canon i (showDiff l a) :=
  h.modAx

protected theorem Canon.observe {l now a} (h : Canon i l) : Canon i (observe l now a) :=
  have h' := h.showDiff
  .ite h'
    (.ite h'.acquire
      (.ite h'.track.modObs
        (.ite h'.track
          (have h4' := h'.modObs.injUpdate.modObs.track.lossCheck
           .ite h4'.polarity
             (.ite
               (have h5' := h4'.modObs
                .ite h5'.toMode.modObs (.ite h5'.toMode h5')) h4')))))

protected theorem Canon.publishObs {l a} (h : Canon i l) : Canon i (publishObs l a) :=
  h.fset.fset.fsetI.fset.fset.fsetI.fsetI.fsetI

protected theorem Canon.obsSummary {l} (h : Canon i l) : Canon i (obsSummary l) :=
  h.fsetB.fsetB.fsetB.fsetB

protected theorem Canon.holdBranch {l now a f} (h : Canon i l) : Canon i (holdBranch l now a f) :=
  .ite h.stkLate.toMode.modObs h.stkLate.toMode.modObs

protected theorem Canon.holdEnd {l now a f tNow past} (h : Canon i l) :
    Canon i (holdEnd l now a f tNow past) :=
  .ite h.stkLate.toMode.modObs (.ite h.holdBranch h)

protected theorem Canon.rotorLatch {l now a tNow} (h : Canon i l) : Canon i (rotorLatch l now a tNow) := by
  unfold rotorLatch
  dsimp only
  split
  · exact
      have h2' := h.stkLate.fcount.raiseO.modObs
      .ite h2'.holdBranch h2'.toMode
  · split
    · exact h.holdEnd
    · exact .ite h.modObs h

protected theorem Canon.currentRefs {l a tstar rf} (h : Canon i l) : Canon i (currentRefs l a tstar rf).1 :=
  h.stkIfLate.modAx.modObs

/-! ### The loop engine (chapter 6) -/

protected theorem Canon.modSlot {l s f} (h : Canon i l) : Canon i (modSlot l s f) :=
  h.same

protected theorem Canon.coefScrub {l s r} (h : Canon i l) : Canon i (coefScrub l s r) :=
  .foldl h fun h => .ite h.eccSet h

protected theorem Canon.injBegin {l p} (h : Canon i l) : Canon i (injBegin l p) :=
  .ite h.fsetB.same (.same (.fset (.fsetB (.ite h.capSeen h))))

protected theorem Canon.injEnd {l s p} (h : Canon i l) : Canon i (injEnd l s p) :=
  .ite h
    (have h' := h.fset
     .ite h'.same (.ite h'.same h'.fsetB.same))

protected theorem Canon.slotSample {l s x0 var} (h : Canon i l) : Canon i (slotSample l s x0 var).1 :=
  have h1' := h.stkIfLate.stkIfLate
  .iteFst h1'.stkIfLate.stkIfLate.stkIfLate.stkIfLate.modSlot h1'.stkIfLate.stkIfLate.stkIfLate.modSlot

protected theorem Canon.satCheck {l now first s} (h : Canon i l) : Canon i (satCheck l now first s) :=
  .ite h
    (have h' := h.modSlot.stkLate
     .ite h'.raiseO h'.raiseO)

protected theorem Canon.renorm {l rs} (h : Canon i l) : Canon i (renorm l rs) :=
  .foldl h.stkIfLate fun h => h.modSlot

protected theorem Canon.stageRamp {l s inp} (h : Canon i l) : Canon i (stageRamp l s inp).1 :=
  have h' := h.stkIfLate
  .iteFst (.iteFst h'.modSlot h'.stkIfLate.modSlot) h'.stkIfLate

protected theorem Canon.slotFault {l now first} (h : Canon i l) : Canon i (slotFault l now first) :=
  .raiseO (.stkLate (.foldl h fun h => h.modSlot.fsetB))

protected theorem Canon.slotClear {l first} (h : Canon i l) : Canon i (slotClear l first) :=
  .foldl h fun h => h.modSlot

protected theorem Canon.cascade {l s} (h : Canon i l) : Canon i (cascade l s) :=
  .ite h (by
    split
    · exact h
    · exact .ite h h.modSlot)

protected theorem Canon.slotUpset {l s j' e} (h : Canon i l) : Canon i (slotUpset l s j' e) :=
  h.modSlot

protected theorem Canon.stageRun {l now s x inp} (h : Canon i l) : Canon i (stageRun l now s x inp) := by
  unfold stageRun
  extract_lets z l1 slots l0 l2
  have h1 : Canon i l1 := .ite h.slotClear h.modSlot
  have h2 : Canon i l2 := .foldl h1 fun h => .foldl h fun h => h.injBegin
  refine .ite h1 ?_
  split
  next l3 w hw =>
  have h3 : Canon i (l3, w).1 := by
    rw [← hw]
    split
    · exact h2.stkIfLate
    · exact h2.stageRamp
  dsimp only at h3
  extract_lets l4
  have h4 : Canon i l4 := h3.stkIfLate
  split
  next l5 y rs e hr =>
  have h5 : Canon i (l5, y, rs, e).1 := by
    rw [← hr]
    exact .foldlFst h4 fun h => h.slotSample
  dsimp only at h5
  split
  · exact h1.slotFault
  · extract_lets l6 l7 l8 l9
    have h6 : Canon i l6 := .ite (.foldl h5.stkLate.chkFail fun h => h.coefScrub) h5
    have h7 : Canon i l7 := h6.renorm
    have h8 : Canon i l8 := .foldl h7 fun h => h.satCheck
    have h9 : Canon i l9 := .foldl h8 fun h => .foldl h fun h => h.injEnd
    exact h9.cascade

protected theorem Canon.publishSlot {l s} (h : Canon i l) : Canon i (publishSlot l s) :=
  h.rset.rset.rset.rset.fsetB.fset.fsetB.fsetB.fset.modSlot

protected theorem Canon.lpeSummary {l} (h : Canon i l) : Canon i (lpeSummary l) :=
  h.fsetB.fsetB.fsetB.fsetB.fsetB

protected theorem Canon.chainStages {l now a} (h : Canon i l) : Canon i (chainStages l now a) :=
  .foldl h fun h => h.stageRun

protected theorem Canon.loopStage {l now s err} (h : Canon i l) : Canon i (loopStage l now s err) :=
  h.stageRun

protected theorem Canon.reportClamp {l s upper} (h : Canon i l) : Canon i (reportClamp l s upper) :=
  h.modSlot

protected theorem Canon.publishChain {l a} (h : Canon i l) : Canon i (publishChain l a) := by
  unfold publishChain
  refine .foldl h fun {l s} h => ?_
  extract_lets l1 e
  have h1 : Canon i l1 := .foldl h fun h => h.publishSlot
  exact .ite h1.mset32 h1

protected theorem Canon.seedAxis {l a} (h : Canon i l) : Canon i (seedAxis l a) :=
  .foldl h fun h => h.modSlot

protected theorem Canon.runOp {l now kind s arg inp up} (h : Canon i l) :
    Canon i (runOp l now kind s arg inp up).1 := by
  unfold runOp
  split
  · exact .foldl h.slotUpset.stageRun fun h => h.publishSlot
  · exact .foldl h.slotUpset.stageRun fun h => h.publishSlot
  · exact h.stkIfLate.modSlot.fsetB
  · exact .iteFst h.modSlot.fsetB h.stkLate
  · exact
      have h' := h.slotUpset
      by
        dsimp only
        split
        · exact h'.slotFault
        · exact h'.modSlot.stkLate.chkFail
        · exact h'

protected theorem Canon.engineDo {l now up} (h : Canon i l) : Canon i (engineDo l now up) := by
  unfold engineDo
  split
  next => exact h
  next o rest _ =>
    extract_lets l1
    have h1 : Canon i l1 := h.same
    split
    next c k kind s arg orphan _ =>
      split
      next m w hm =>
        have h2 : Canon i (m, w).1 := by rw [← hm]; exact h1.runOp
        dsimp only at h2
        exact .dispatchAll (.lpeSummary (.tagDrop h2.same))
    next => exact h1

protected theorem Canon.capHeader {l} (h : Canon i l) : Canon i (capHeader l) :=
  .foldlFst h fun h => h.mset32

protected theorem Canon.capArm {l} (h : Canon i l) : Canon i (capArm l) :=
  .ite h.stk h.same.fset.fset.capHeader.lpeSummary

protected theorem Canon.capAbort {l} (h : Canon i l) : Canon i (capAbort l) :=
  .ite h h.fset.lpeSummary

protected theorem Canon.capDone {l now} (h : Canon i l) : Canon i (capDone l now) :=
  h.fset.stkLate.capHeader.lpeSummary.raiseO

protected theorem Canon.capRecord {l now a} (h : Canon i l) : Canon i (capRecord l now a) := by
  unfold capRecord
  extract_lets +onlyGivenNames st
  refine .ite h (.ite h.same ?_)
  extract_lets +onlyGivenNames cp pos base nch l1 l2 v trig n l3 cap l4
  have h2 : Canon i l2 := .foldl h.mset32 fun h => h.mset32
  have h4 : Canon i l4 := .same h2.fsetB
  refine .ite ?_ (.ite ?_ h4)
  · extract_lets +onlyGivenNames post cap5 l5 l6
    have h6 : Canon i l6 := .fset h4.same
    exact .ite h6.capDone h6
  · extract_lets +onlyGivenNames cap5 l5
    have h5 : Canon i l5 := h4.same
    exact .ite h5.capDone h5

/-! ### Load sharing, DC-bus energy and emergency modes (chapter 7) -/

protected theorem Canon.showWeights {l a} (h : Canon i l) : Canon i (showWeights l a) :=
  .foldl h fun h => h.fset

protected theorem Canon.takeWeights {l a} (h : Canon i l) : Canon i (takeWeights l a) :=
  .foldl h fun h => h.modCop

protected theorem Canon.updateRating {l a} (h : Canon i l) : Canon i (updateRating l a) :=
  have h1' := h.showWeights.fset.fsetB
  .ite h1'.axAsk h1'

protected theorem Canon.driveOutput {l o on} (h : Canon i l) : Canon i (driveOutput l o on) :=
  h.fsetB.ask

protected theorem Canon.setBrake {l a applied} (h : Canon i l) : Canon i (setBrake l a applied) :=
  have h' := h.fsetB
  .ite h'.driveOutput h'

protected theorem Canon.modGrp {l g f} (h : Canon i l) : Canon i (modGrp l g f) :=
  h.same

protected theorem Canon.groupState {l a e} (h : Canon i l) : Canon i (groupState l a e) := by
  unfold groupState
  split
  next => exact h
  next g _ =>
    extract_lets +onlyGivenNames others
    refine .ite (.ite ?_ (.ite h.modGrp (.foldl h fun h => h.axAsk)))
      (.ite (.foldl h fun h => .ite h.axAsk h) (.ite h.modGrp h))
    extract_lets +onlyGivenNames alt
    refine .ite ?_ (.foldl h.modGrp.modAx fun h => h.axAsk)
    extract_lets +onlyGivenNames l1
    have h1 : Canon i l1 := h.modGrp.stkLate
    split
    · exact h1.modSlot
    · exact h1

protected theorem Canon.enterState {l now a e} (h : Canon i l) : Canon i (enterState l now a e) := by
  unfold enterState
  extract_lets old w p l1 l2 l3 fromQr asc l4 l5
  have h2 : Canon i l2 := h.fset.raiseO.stopsLeft
  have h3 : Canon i l3 := .ite h2.raiseO h2
  have h4 : Canon i l4 := h3.modAx
  have h5 : Canon i l5 := .ite h4.setBrake h4
  exact .ite h h5.groupState

protected theorem Canon.stateLatch {l now a} (h : Canon i l) : Canon i (stateLatch l now a) := by
  unfold stateLatch
  dsimp only
  split
  · exact .ite h.enterState (.ite h.enterState h)
  · exact h.modAx.enterState

protected theorem Canon.modeCommand {l a m} (h : Canon i l) : Canon i (modeCommand l a m) := by
  unfold modeCommand
  extract_lets +onlyGivenNames e t want ign
  have hw : Canon i (want l) := by
    unfold want
    split
    · exact .ite h h.modAx
    · exact h.modAx
  have hi : Canon i ign := h.stk
  clear_value e want ign
  refine .ite h (.ite hi (.ite ?_ (.ite (.ite hw hi) (.ite hw h.axAsk))))
  split
  · exact hw
  · exact hw
  · exact .ite hw hi
  · exact .ite hi hw
  · exact .ite hw hi
  · exact .ite hw hi
  · exact hi

protected theorem Canon.hedgeOne {l now a j' cond f v} (h : Canon i l) :
    Canon i (hedgeOne l now a j' cond f v) :=
  have h' := h.modAx
  .ite h'.stkLate.raiseO h'

protected theorem Canon.hedgeCut {l now a} (h : Canon i l) : Canon i (hedgeCut l now a) :=
  h.hedgeOne.hedgeOne.hedgeOne

protected theorem Canon.hedgeLatch {l now a} (h : Canon i l) : Canon i (hedgeLatch l now a) :=
  h.modAx.hedgeOne.hedgeOne.hedgeOne.hedgeOne

protected theorem Canon.disturb {l a} (h : Canon i l) : Canon i (disturb l a) :=
  .ite h h.modAx

protected theorem Canon.tension {l a} (h : Canon i l) : Canon i (tension l a) :=
  h.stkIfLate.modAx

protected theorem Canon.heaveEntry {l a j'} (h : Canon i l) : Canon i (heaveEntry l a j') :=
  .ite h h.modAx

protected theorem Canon.heaveStale {l now a} (h : Canon i l) : Canon i (heaveStale l now a) :=
  .ite h h.modAx.mset32.stkLate.raiseO

protected theorem Canon.heave {l now a} (h : Canon i l) : Canon i (heave l now a) :=
  .ite h (by
    dsimp only
    split
    · exact h
    · exact .ite h.mset32.mset32 h.heaveStale
    · exact h
    · exact h.mset32.mset32)

protected theorem Canon.modBus {l b f} (h : Canon i l) : Canon i (modBus l b f) :=
  h.same

protected theorem Canon.chopFault {l now n} (h : Canon i l) : Canon i (chopFault l now n) :=
  .ite h h.modLeg.stkLate.raiseO

protected theorem Canon.chopCheck {l now b v} (h : Canon i l) : Canon i (chopCheck l now b v) := by
  unfold chopCheck
  extract_lets x imin fell l1
  have h1 : Canon i l1 := by
    refine .foldl h fun {l n} h => ?_
    have hleg {f} : Canon i (modLeg l n f) := h.modLeg
    refine .ite h (.ite h.chopFault (.ite ?_ (.ite hleg.chopFault hleg)))
    split
    · exact h
    · exact .ite hleg.chopFault hleg
  exact h1.modBus

protected theorem Canon.fluxEnd {l a} (h : Canon i l) : Canon i (fluxEnd l a) :=
  h.modAx.stkLate.fsetB

protected theorem Canon.fluxAxis {l a on tp} (h : Canon i l) : Canon i (fluxAxis l a on tp) :=
  have h2' := h.stkIfLate.modAx.fsetB
  .ite h2'.fluxEnd h2'

protected theorem Canon.rideRun {l now b v} (h : Canon i l) : Canon i (rideRun l now b v) :=
  .foldl h.modBus fun h => .ite h.fsetB.modAx (.ite h.fsetB.modAx h)

protected theorem Canon.busLimits {l b v chf} (h : Canon i l) : Canon i (busLimits l b v chf).1 :=
  .foldlFst h fun h => h.modAx

protected theorem Canon.energyRun {l now b} (h : Canon i l) : Canon i (energyRun l now b) :=
  .foldl h.modBus.stkIfLate.chopCheck.modBus fun h => .ite h.legOff h.modLeg.legEdge

protected theorem Canon.energyEnd {l now b} (h : Canon i l) : Canon i (energyEnd l now b) := by
  unfold energyEnd
  extract_lets host x v chf
  split
  next l1 second hl =>
  have h1 : Canon i (l1, second).1 := hl ▸ h.busLimits
  extract_lets old vf flx l2 tps l3 lad l4 l5 l6 l7 l8 l9
  have h3 : Canon i l3 := .foldl (.modBus h1) fun h => h.fluxAxis
  have h4 : Canon i l4 := .ite h3.stkLate h3
  have h5 : Canon i l5 := h4.rideRun
  exact h5.fset.fsetB.fset.fsetB.fset.fsetB.fsetB

protected theorem Canon.energyHost {l now a} (h : Canon i l) : Canon i (energyHost l now a) :=
  .foldl h fun h => h.energyRun

protected theorem Canon.energyHostEnd {l now a} (h : Canon i l) : Canon i (energyHostEnd l now a) :=
  .foldl h fun h => h.energyEnd

protected theorem Canon.chopClear {l mask} (h : Canon i l) : Canon i (chopClear l mask) :=
  .foldl h fun h => .ite (.foldl h fun h => h.modLeg) h

protected theorem Canon.stopReg {l a e} (h : Canon i l) : Canon i (stopReg l a e).1 :=
  h.stkIfLate.modAx

protected theorem Canon.groupPublish {l now g lead tg} (h : Canon i l) :
    Canon i (groupPublish l now g lead tg) :=
  .ite h.modGrp
    (have h' := h.modGrp
     .ite
       (have h1' := h'.stkLate
        by
          dsimp only
          split
          · exact h1'.reportClamp
          · exact h1') h')

protected theorem Canon.groupRelease {l a} (h : Canon i l) : Canon i (groupRelease l a) :=
  .foldl h fun h => .ite h.modGrp h

protected theorem Canon.ownSource {l now a} (h : Canon i l) : Canon i (ownSource l now a).1 := by
  unfold ownSource
  extract_lets e
  split
  next m t hm =>
  have h' : Canon i (m, t).1 := by rw [← hm]; exact .iteFst h (.iteFst h.stopReg (.iteFst h h))
  exact .iteFst (by split <;> exact h') h'

protected theorem Canon.torqueRamp {l now a t} (h : Canon i l) : Canon i (torqueRamp l now a t).1 := by
  unfold torqueRamp
  dsimp only
  split
  · exact h
  · split
    · exact h
    · exact .iteFst h.modObs h.modObs

protected theorem Canon.leadStop {l now a} (h : Canon i l) : Canon i (leadStop l now a) := by
  unfold leadStop
  split
  · exact .ite h.stopReg.groupPublish h
  · exact h

protected theorem Canon.formT {l now a} (h : Canon i l) : Canon i (formT l now a) := by
  unfold formT
  extract_lets e none'
  have hnone {l} (h : Canon i l) : Canon i (none' l) := h.modAx
  refine .ite (hnone (.ite h.leadStop h)) ?_
  split
  next l1 own ho =>
  have h1 : Canon i (l1, own).1 := ho ▸ h.ownSource
  extract_lets req l2
  have h2 : Canon i l2 := .modAx h1
  split
  next l3 t3 cut hg =>
  have h3 : Canon i (l3, t3, cut).1 := by
    rw [← hg]
    split
    · exact h2
    · exact .iteFst (.iteFst h2.groupPublish h2.groupPublish) h2
  split
  next l4 tref hr =>
  have h4 : Canon i (l4, tref).1 := hr ▸ .torqueRamp h3
  split
  next p n _ =>
  extract_lets t bind hit l5 l6
  have h5 : Canon i l5 := .stkIfLate (.stkIfLate h4)
  have h6 : Canon i l6 := by
    unfold l6
    split
    · exact h5.reportClamp
    · exact h5
  exact h6.modAx

/-! ### The Billet links (chapter 8) -/

protected theorem CanonBoth.sendFrame {i' dt dn s f} (hs : CanonBoth s) :
    CanonBoth (sendFrame i' dt dn s f) :=
  .foldl hs fun hs => .ite hs.modBrick hs

protected theorem CanonBoth.bricksPeriod {s} (hs : CanonBoth s) : CanonBoth (bricksPeriod s) :=
  hs.same

protected theorem Canon.checkModes {l a} (h : Canon i l) : Canon i (checkModes l a) :=
  .foldl h fun h => by
    split
    · exact h
    · exact h.modLeg
    · exact h.modLeg

protected theorem Canon.markSent {l b f} (h : Canon i l) : Canon i (markSent l b f).1 :=
  h.same

protected theorem Canon.upDiscard {l b sec} (h : Canon i l) : Canon i (upDiscard l b sec) :=
  h.same.stkLate

protected theorem Canon.sampleArrive {l b sec ws crc} (h : Canon i l) :
    Canon i (sampleArrive l b sec ws crc) :=
  .ite h.upDiscard (.ite h (.ite h.same.stkLate (.ite h.stkLate.stkIfLate h.same)))

protected theorem Canon.showCounts {l b} (h : Canon i l) : Canon i (showCounts l b) :=
  h.fcountN.fcountN.fcountN.same

protected theorem Canon.takeLeg {l b ws p} (h : Canon i l) : Canon i (takeLeg l b ws p) :=
  h.modLeg.stkIfLate

protected theorem Canon.takeStatus {l now b w0 st} (h : Canon i l) : Canon i (takeStatus l now b w0 st) := by
  unfold takeStatus
  extract_lets r newD newG fol l1 l2 l3 g send l4 l5 lost l6 l7 l8
  have h1 : Canon i l1 := .ite h.fcount.stkLate h
  have h3 : Canon i l3 := h1.fset.fset.fsetB.fsetB.fsetB
  have h5 : Canon i l5 := h3.stkIfLate.stkIfLate
  have hlost {l m} (h : Canon i l) : Canon i (lost l m) := .foldl h fun h => .ite h.cpLost h
  have h6 : Canon i l6 := .ite (hlost h5.stkLate).raiseO h5
  have h7 : Canon i l7 := .ite (hlost h6.stkLate).raiseO h6
  have h8 : Canon i l8 := by unfold l8; split; exacts [.ite h7.axAsk h7, h7]
  exact h8.same

protected theorem Canon.consume {l now b keep ws} (h : Canon i l) : Canon i (consume l now b keep ws) := by
  unfold consume
  extract_lets l1 r a0 a1 l2 l3
  have h_l1 : Canon i l1 := h.showCounts
  have h_l2 : Canon i l2 := h_l1.same
  have h_l3 : Canon i l3 := .ite h_l2 (.foldl h_l2 fun h => h.takeLeg)
  split
  · exact .same (.ite h_l3 h_l3.fcount)
  · exact h_l3.same.takeStatus

protected theorem Canon.showDelays {l b d0 d1} (h : Canon i l) : Canon i (showDelays l b d0 d1) :=
  h.fset.fset

protected theorem Canon.judgePorts {l now b s0 s1} (h : Canon i l) : Canon i (judgePorts l now b s0 s1) :=
  have h2' := h.stkIfLate.stkIfLate.fsetB.fsetB
  .ite (.raiseO (.brickLost (.ite h2' h2'.fset))) (.ite h2'.fset h2')

protected theorem Canon.blkSummary {l} (h : Canon i l) : Canon i (blkSummary l) :=
  h.fsetB.fsetB.fsetB

protected theorem Canon.modDisc {l b f} (h : Canon i l) : Canon i (modDisc l b f) :=
  h.same

protected theorem Canon.brickFault {l now b code} (h : Canon i l) : Canon i (brickFault l now b code) :=
  h.modDisc.fset.fset.stkIfLate.brickLost.raiseO

protected theorem Canon.fillIdent {l b w} (h : Canon i l) : Canon i (fillIdent l b w) :=
  h.fset.fset.fset.fset.fset.fset.fset.fset

protected theorem Canon.fillCal {l b w} (h : Canon i l) : Canon i (fillCal l b w) :=
  .fset (.fset (.foldl h fun h => h.fset))

protected theorem Canon.discSend {l b f} (h : Canon i l) : Canon i (discSend l b f) :=
  h.modDisc.same

protected theorem Canon.discTick {l now b} (h : Canon i l) : Canon i (discTick l now b) := by
  unfold discTick
  dsimp only
  split
  · exact h.discSend
  · exact h.fillIdent.discSend
  · exact h.brickFault
  · exact h.discSend
  · exact
      have h' := h.fillCal
      .ite h'.fset.fset.modDisc h'.brickFault
  · exact h.brickFault
  · exact h
  · exact h.modDisc
  · exact h

protected theorem Canon.mreqTick {l} (h : Canon i l) : Canon i (mreqTick l) := by
  unfold mreqTick
  split
  · exact h
  · split
    · exact .same (.foldl h.fset.fset.fset.fset fun h => h.rset)
    · exact h.same

protected theorem Canon.mreqOver {l now} (h : Canon i l) : Canon i (mreqOver l now) :=
  .foldl
    (by
      split
      · exact .ite h.fset.stkLate.same h
      · exact h) fun h => .ite h.brickFault h

protected theorem Canon.mreqStart {l b op arg} (h : Canon i l) : Canon i (mreqStart l b op arg) :=
  .ite h.stkLate h.fset.same

protected theorem Canon.rediscoverLane {l b} (h : Canon i l) : Canon i (rediscoverLane l b) :=
  h.modDisc

protected theorem Canon.mrspArrive {l b sec ws crc} (h : Canon i l) : Canon i (mrspArrive l b sec ws crc) :=
  .ite h.upDiscard (.ite h h.same)

protected theorem Canon.mrspTake {b l ws} (h : Canon i l) : Canon i (mrspTake b l ws) := by
  unfold mrspTake
  extract_lets w0 op tag res d l1
  have h_l1 : Canon i l1 := .ite h.modDisc h
  split
  · exact .ite h_l1.same h_l1
  · exact h_l1

protected theorem Canon.mrspTick {p l b} (h1 : Canon i l) : Canon i (mrspTick p l b) :=
  .foldl h1.same.stkIfLate fun h => h.mrspTake

protected theorem CanonBoth.mreqReceive {b op arg own e s k} (hs : CanonBoth s) :
    CanonBoth (mreqReceive b op arg own e s k) := by
  unfold mreqReceive
  extract_lets r s1
  have h1 : CanonBoth s1 := .ite hs.modPort hs
  obtain ⟨_ | ws, _ | _⟩ := r
  · exact h1
  · exact h1.modBrick
  · dsimp only
    split
    · exact h1.modBrick
    · exact h1
  · exact h1.modBrick

protected theorem CanonBoth.mrspSend {b e ws s} (hs : CanonBoth s) : CanonBoth (mrspSend b e ws s) :=
  .foldl hs fun hs =>
    .ite
      (.lanes
        (by
          dsimp only
          split
          · exact .ite hs.la.mrspArrive hs.la
          · exact hs.la) (by
        dsimp only
        split
        · exact .ite hs.lb.mrspArrive hs.lb
        · exact hs.lb)) hs

protected theorem CanonBoth.manage {s b op arg own e} (hs : CanonBoth s) :
    CanonBoth (manage s b op arg own e) := by
  unfold manage
  extract_lets s1 asked s2
  have h_s1 : CanonBoth s1 := hs.inRunning fun h => .ite h h.mreqStart
  have h_s2 : CanonBoth s2 := .foldl h_s1 fun hs => hs.mreqReceive
  split
  · exact .ite h_s2.mrspSend h_s2
  · exact h_s2

/-! ### Position and speed feedback (chapter 9) -/

protected theorem Canon.modChan {l e f} (h : Canon i l) : Canon i (modChan l e f) :=
  h.same

protected theorem Canon.compareFire {l now t u e} (h : Canon i l) : Canon i (compareFire l now t u e) :=
  h.rset.stkLate.stkIfLate.modChan.raiseO.ask

protected theorem Canon.compareNext {l e} (h : Canon i l) : Canon i (compareNext l e) :=
  .ite h.fset h.fsetI

protected theorem Canon.compareStep {l now t u e x y} (h : Canon i l) :
    Canon i (compareStep l now t u e x y) :=
  .ite h.compareFire.compareNext h

protected theorem Canon.compareArmed {l now t e} (h : Canon i l) : Canon i (compareArmed l now t e) :=
  .ite
    (have h' := h.stk
     .ite h'.compareFire.compareNext h') h

protected theorem Canon.compareWrite {l e c} (h : Canon i l) : Canon i (compareWrite l e c) := by
  unfold compareWrite
  extract_lets l1 l2
  have h1 : Canon i l1 := by unfold l1; split; exacts [h.rset, h]
  have h2 : Canon i l2 := by unfold l2; split; exacts [h1.rset, h1]
  split
  · exact h2.fset.fset.fset
  · exact h2

protected theorem Canon.compareCommit {l e c} (h : Canon i l) : Canon i (compareCommit l e c) :=
  h.modChan.compareWrite.fsetB

protected theorem Canon.compareTake {now e l c} (h : Canon i l) : Canon i (compareTake now e l c) := by
  unfold compareTake
  extract_lets p0 l1
  have h_l1 : Canon i l1 := h.compareWrite
  exact .ite h_l1.compareArmed h_l1

protected theorem Canon.compareUpTo {l now t e} (h : Canon i l) : Canon i (compareUpTo l now t e) :=
  .foldl h.modChan fun h => h.compareTake

protected theorem Canon.compareRewind {l e} (h : Canon i l) : Canon i (compareRewind l e) := by
  unfold compareRewind
  split
  · exact h.rset.rset.rset.modChan
  · exact h

protected theorem Canon.countAdd {l e d} (h : Canon i l) : Canon i (countAdd l e d) :=
  h.fsetI.stkIfLate

protected theorem Canon.countMove {l now e k u d} (h : Canon i l) : Canon i (countMove l now e k u d) :=
  h.compareUpTo.countAdd.modChan.compareStep

protected theorem Canon.ssiDecode {l now e x} (h : Canon i l) : Canon i (ssiDecode l now e x) := by
  unfold ssiDecode
  extract_lets w f pl l1 d l2 l3
  split
  next m hm => exact (ssiCheck_canon h hm).fcount.modChan
  next =>
    have h3 : Canon i l3 := by
      unfold l3
      split
      · exact h.countMove
      · exact .modChan (.fset h.compareUpTo)
    exact h3.modChan

protected theorem Canon.countShift {l now e k d} (h : Canon i l) : Canon i (countShift l now e k d) :=
  h.compareUpTo.countAdd.modChan

protected theorem Canon.chanFault {l now e cause} (h : Canon i l) : Canon i (chanFault l now e cause) :=
  .ite h h.fset.fset.stkLate.raiseO

protected theorem Canon.indexEvent {l now e k} (h : Canon i l) : Canon i (indexEvent l now e k).1 := by
  unfold indexEvent
  extract_lets x cpr
  split
  · exact .iteFst h.countShift.fsetB.modChan h.modChan
  · extract_lets m er l1
    have h1 : Canon i l1 := h.fsetI.stkLate
    refine .iteFst h.modChan ?_
    split <;> exact h1.modChan

protected theorem Canon.corrDue {l now e k} (h : Canon i l) : Canon i (corrDue l now e k) := by
  unfold corrDue
  split
  · exact .ite h.modChan.countShift h
  · exact h

protected theorem Canon.indexMissing {l e} (h : Canon i l) : Canon i (indexMissing l e).1 := by
  unfold indexMissing
  split
  · exact h
  · exact .iteFst h.stkLate.modChan h

protected theorem Canon.probeEdge {l now e k v} (h : Canon i l) : Canon i (probeEdge l now e k v) :=
  .ite h.modChan.rset.rset.fsetB.stkLate.raiseO h

protected theorem Canon.quadClock {now k0 e acc v} (h : Canon i acc.1.1) :
    Canon i (quadClock now k0 e acc v).1.1 := by
  unfold quadClock
  split
  next l a b ff =>
  extract_lets k l1 sg l2 probed
  have h1 : Canon i l1 := Canon.corrDue h
  have h2 : Canon i l2 := by
    unfold l2
    split
    · exact h1.stkLate.fcount.modChan
    · exact h1.countMove
    · exact h1.countMove
    · exact h1
  have h3 : Canon i probed := by unfold probed; split; exacts [h2.probeEdge, h2]
  split
  next m f1 hm =>
  have h4 : Canon i (m, f1).1 := by rw [← hm]; exact .iteFst (.iteFst h3.indexEvent h3.indexMissing) h3
  exact h4

protected theorem Canon.hallClock {now k0 e acc v} (h : Canon i acc.1) :
    Canon i (hallClock now k0 e acc v).1 := by
  unfold hallClock
  split
  next l hall legal =>
  replace h : Canon i l := h
  extract_lets k put next sg move l1 l2
  have hm {l d} (h : Canon i l) : Canon i (move l d) := h.countMove.modChan
  have h1 : Canon i l1 := by
    unfold l1
    split
    · exact h
    · split
      · exact h.stkLate
      · refine .modChan ?_
        split
        · exact h
        · split; exacts [hm h, hm h, hm h.stkLate, hm h.stkLate, h.stkLate, h]
  have h2 : Canon i l2 := by unfold l2; split; exacts [h1.probeEdge, h1]
  exact h2

protected theorem Canon.ssiProbe {now k0 e l es} (h : Canon i l) : Canon i (ssiProbe now k0 e l es) :=
  .foldl h fun h => h.probeEdge

protected theorem Canon.ssiFrame {l now k0 e chg pr gap} (h : Canon i l) :
    Canon i (ssiFrame l now k0 e chg pr gap) :=
  .ssiProbe (.foldlFst h.modChan fun h => h.ssiProbe.ssiDecode)

protected theorem Canon.chanPublish {l now e} (h : Canon i l) : Canon i (chanPublish l now e) :=
  have h3' := h.modChan.fsetI.fsetI.fset
  .fsetB (.ite h3'.fset h3')

protected theorem Canon.chanJudge {l now e idx} (h : Canon i l) : Canon i (chanJudge l now e idx) :=
  .ite h.chanFault h

protected theorem Canon.chanClear {l e} (h : Canon i l) : Canon i (chanClear l e) :=
  .ite
    (have h1' := h.fset.fset.modChan
     .ite h1'.fsetB.modChan h1') h.stk

protected theorem Canon.probeArm {l now e} (h : Canon i l) : Canon i (probeArm l now e) :=
  .ite h h.fsetB.modChan

protected theorem Canon.pulseFrame {l now n moves} (h : Canon i l) : Canon i (pulseFrame l now n moves) :=
  have h' := h.same.stkIfLate
  .ite h' h'.ask

protected theorem Canon.pulseCommit {l now n w} (h : Canon i l) : Canon i (pulseCommit l now n w) :=
  .ite h.stk h.modChan.rset

protected theorem Canon.chanFrame {l now e d} (h : Canon i l) : Canon i (chanFrame l now e d) := by
  unfold chanFrame
  extract_lets ty k0 ch n np run fa fb fz fp fd l1 a b z pr l2 rq hl rh
  have h2 : Canon i l2 := h.modChan.compareRewind.corrDue
  have hq : Canon i rq.1.1 := .foldlFst₂ h2 fun h => h.quadClock
  have hh : Canon i rh.1 := .foldlFst h2 fun h => h.hallClock
  clear_value ty
  split
  · exact h
  split
  next l3 idx hl3 =>
  have h3 : Canon i (l3, idx).1 := by
    split at hl3
    · exact hl3 ▸ hq
    · exact hl3 ▸ h2.ssiFrame
    · exact hl3 ▸ hh.modChan
  exact .chanJudge (.fset (.chanPublish (.compareUpTo (.corrDue (l := l3) h3))))

protected theorem Canon.chanGap {l now e} (h : Canon i l) : Canon i (chanGap l now e) :=
  .ite h
    (have h2' := h.stkLate.fcount.fset.modChan.compareRewind.corrDue
     .chanJudge (.chanPublish (.compareUpTo (.ite h2'.ssiFrame h2'))))

protected theorem Canon.fbkSummary {l} (h : Canon i l) : Canon i (fbkSummary l) :=
  h.fsetB.fsetB.fsetB

protected theorem Canon.fbkFrame {l now f d} (h : Canon i l) : Canon i (fbkFrame l now f d) :=
  .fbkSummary (.foldl
    (.foldl h fun h => by
      split
      · exact h.chanFrame
      · exact h.chanGap) fun h => .foldl h fun h => .ite h.pulseFrame h)

protected theorem Canon.fbkTick {l} (h : Canon i l) : Canon i (fbkTick l) :=
  h.same

protected theorem Canon.fbkAbsent {l now f} (h : Canon i l) : Canon i (fbkAbsent l now f) :=
  .fbkSummary (.foldl h fun h => .ite h h.chanJudge)

protected theorem Canon.ssiStart {l e k} (h : Canon i l) : Canon i (ssiStart l e k) :=
  .ite h.modChan h

/-! ### Commands of the Billet links (chapter 8) -/

protected theorem CanonBoth.execSampleFrame {lane b sec m c s} (hs : CanonBoth s) :
    CanonOut (execSampleFrame lane b sec m c s) := by
  unfold execSampleFrame
  extract_lets k s1 x
  have h1 : CanonBoth s1 := .ite hs hs.modBrick
  refine .ite ?_ (.next hs)
  split
  · exact .next h1
  · split
    · exact .next (h1.modLane fun h => h.sampleArrive).settle
    · exact .next h1

protected theorem CanonBoth.execPermitConditionChange {k s} (hs : CanonBoth s) :
    CanonOut (execPermitConditionChange k s) :=
  .next hs.same

protected theorem CanonBoth.execGatePermit {g s} (hs : CanonBoth s) : CanonOut (execGatePermit g s) := by
  unfold execGatePermit
  extract_lets k x judge n s1 s2
  have h1 : CanonBoth s1 := hs.same
  have h2 : CanonBoth s2 := by
    apply CanonBoth.foldl h1
    intro s q hs
    dsimp only
    split
    · exact .ite hs.modBrick hs
    · exact hs
  exact .ite (.next h2.same) (.next hs.same)

protected theorem CanonBoth.execLinkLocked {x s} (hs : CanonBoth s) : CanonOut (execLinkLocked x s) :=
  .ite
    (by
      split
      · exact .ite (.next (hs.modPort.inLinks fun h => .ite h.fset h)) (.next hs)
      · exact .next hs.modPort) (.next hs)

protected theorem CanonBoth.execLinkLoss {x s} (hs : CanonBoth s) : CanonOut (execLinkLoss x s) := by
  unfold execLinkLoss
  dsimp only
  split
  · exact .next hs.modPort
  · exact .next hs.modPort.modBrick

protected theorem CanonBoth.execDelayRequest {p s} (hs : CanonBoth s) : CanonOut (execDelayRequest p s) :=
  .ite (.next hs.tickTo.modPort) (.next hs)

protected theorem CanonBoth.execDelayResponse {p echo rt ta s} (hs : CanonBoth s) :
    CanonOut (execDelayResponse p echo rt ta s) :=
  .next hs.modPort

protected theorem CanonBoth.execTimebaseSync {x s} (hs : CanonBoth s) : CanonOut (execTimebaseSync x s) :=
  .ite
    (have hs' := hs.tickTo.modPort
     .ite (.next hs'.modBrick) (.next hs')) (.next hs)

protected theorem CanonBoth.execDiscover {x s} (hs : CanonBoth s) : CanonOut (execDiscover x s) :=
  .ite (.next hs)
    (.ite (.next (hs.inLinks fun h => h.stkLate))
      (.next (hs.modPort.modBrick.inLinks fun h => .ite h h.fset.rediscoverLane)))

protected theorem CanonBoth.execIdent {b x s} (hs : CanonBoth s) : CanonOut (execIdent b x s) :=
  .next hs.manage.settle

protected theorem CanonBoth.execCal {b x s} (hs : CanonBoth s) : CanonOut (execCal b x s) :=
  .next hs.manage.settle

protected theorem CanonBoth.execCntr {b x s} (hs : CanonBoth s) : CanonOut (execCntr b x s) :=
  .next hs.manage

protected theorem CanonBoth.execCntclr {b x s} (hs : CanonBoth s) : CanonOut (execCntclr b x s) :=
  .next hs.manage

protected theorem CanonBoth.execClrlatch {b mask x s} (hs : CanonBoth s) :
    CanonOut (execClrlatch b mask x s) :=
  .next hs.manage

protected theorem CanonBoth.execDiag {b arg x s} (hs : CanonBoth s) : CanonOut (execDiag b arg x s) :=
  .next hs.manage

protected theorem CanonBoth.execMreqTimeout {s} (hs : CanonBoth s) : CanonOut (execMreqTimeout s) :=
  .next (.settle (hs.inLinks fun h => h.mreqOver))

protected theorem CanonBoth.execRediscover {b s} (hs : CanonBoth s) : CanonOut (execRediscover b s) :=
  .next (hs.inRunning fun h => h.rediscoverLane)

/-! ### Field inputs and outputs (chapter 10) -/

protected theorem Canon.modIn {l n f} (h : Canon i l) : Canon i (modIn l n f) :=
  h.same

protected theorem Canon.setDi {l n v} (h : Canon i l) : Canon i (setDi l n v) :=
  h.same

protected theorem Canon.wbSet {l n v} (h : Canon i l) : Canon i (wbSet l n v) :=
  h.rset

protected theorem Canon.readInput {l now n mv} (h : Canon i l) : Canon i (readInput l now n mv) :=
  have h' := h.modIn
  .ite (.ite (.ite h' h'.setDi.wbSet.stkLate.raiseO) h'.setDi.wbSet) h'

protected theorem Canon.countEdge {k n j' l up} (h : Canon i l) : Canon i (countEdge k n j' l up) := by
  unfold countEdge
  extract_lets ed sel l1
  have h_l1 : Canon i l1 := .ite h.rset h
  exact .ite h_l1.modIn h_l1

protected theorem Canon.lineInput {l now n runs} (h : Canon i l) : Canon i (lineInput l now n runs) :=
  have h1' := h.modIn.setDi
  by
    unfold lineInput
    dsimp only
    split
    · exact .foldl h1' fun h => h.countEdge
    · exact h1'

protected theorem Canon.freqInput {l now n} (h : Canon i l) : Canon i (freqInput l now n) := by
  unfold freqInput
  split
  · exact h.rset.modIn
  · exact h

protected theorem Canon.outputJudge {l now o on t rb lim} (h : Canon i l) :
    Canon i (outputJudge l now o on t rb lim) := by
  unfold outputJudge
  extract_lets l1 l2 x
  have h_l1 : Canon i l1 := h.fsetB
  have h_l2 : Canon i l2 := .ite h_l1 h_l1.fsetB
  exact .ite h_l2.same
    (have h' := h_l2.same
     .ite h'.fset.fset.stkLate.stkLate.raiseO.ask (.fset (.ite h'.fset.stkLate h')))

protected theorem Canon.groupSupply {l g mv} (h : Canon i l) : Canon i (groupSupply l g mv) :=
  h.fset.fsetB.stkIfLate

protected theorem Canon.forcedHigh {l now o} (h : Canon i l) : Canon i (forcedHigh l now o) :=
  .ite h.fsetB.stkLate h

protected theorem Canon.onLow {l now o} (h : Canon i l) : Canon i (onLow l now o) :=
  h.stkIfLate

protected theorem Canon.retryReset {l now o} (h : Canon i l) : Canon i (retryReset l now o) :=
  .ite h.fset.same h

protected theorem Canon.outputClear {l o} (h : Canon i l) : Canon i (outputClear l o) :=
  .ite h.fset.fset.same.ask h

protected theorem Canon.counterClear1 {l now k} (h : Canon i l) : Canon i (counterClear1 l now k) :=
  h.rset.modIn

protected theorem Canon.cartFrame {l now f c} (h : Canon i l) : Canon i (cartFrame l now f c) := by
  unfold cartFrame
  extract_lets sf was l1 l2 l3 pair was1 dis l4 l5 l6 l7
  have h_l1 : Canon i l1 := h.fsetB.fsetB
  have h_l2 : Canon i l2 := .ite h_l1.stkLate.raiseO h_l1
  have h_l3 : Canon i l3 := .foldl h_l2 fun h => .ite h.fsetB h
  have h_l4 : Canon i l4 := h_l3.fsetB.fsetB.fsetB.fsetB
  have h_l5 : Canon i l5 := h_l4.fsetB
  have h_l6 : Canon i l6 := .ite h_l5.stkLate.raiseO h_l5
  have h_l7 : Canon i l7 := h_l6.stkIfLate
  exact .ite
    (have h' := h_l7.raiseO
     .ite h' h'.permitAsk) h_l7

protected theorem Canon.fioSummary {l} (h : Canon i l) : Canon i (fioSummary l) :=
  h.fsetB.fsetB.fsetB.fsetB

protected theorem Canon.quickInputs {l} (h : Canon i l) : Canon i (quickInputs l) :=
  .foldl h fun h =>
    .ite
      (have h' := h.fsetB
       .ite h'.axAsk h') h

protected theorem Canon.fioFrame {l now f d x c} (h : Canon i l) : Canon i (fioFrame l now f d x c) :=
  .quickInputs (.fioSummary (.foldl
    (.foldl
      (.cartFrame (.foldl h fun h =>
        .ite
          (by
            split
            · split
              · exact h.readInput
              · exact h
            · split
              · exact h.readInput
              · exact h
            · exact h.lineInput
            · exact h.lineInput.freqInput
            · exact h.setDi) h)) fun h => h.groupSupply) fun h => .ite h.outputJudge h))

protected theorem Canon.fioGap {l now f} (h : Canon i l) : Canon i (fioGap l now f) :=
  .quickInputs (.foldl h.stkIfLate fun h => h.freqInput)

/-! ### Temperature (chapter 12) -/

protected theorem Canon.modSens {l s f} (h : Canon i l) : Canon i (modSens l s f) :=
  h.same

protected theorem Canon.pinsArrive {l f xs} (h : Canon i l) : Canon i (pinsArrive l f xs) :=
  .foldl h fun h => by
    dsimp only
    split
    · exact .ite h h.modSens
    · exact h

protected theorem Canon.diodeArrive {l s r} (h : Canon i l) : Canon i (diodeArrive l s r) := by
  unfold diodeArrive
  split <;> exact h.modSens

protected theorem Canon.laneDiode {l s r} (h : Canon i l) : Canon i (laneDiode l s r) :=
  h.diodeArrive.modSens

protected theorem Canon.linkDiode {l k r} (h : Canon i l) : Canon i (linkDiode l k r) :=
  .ite h.diodeArrive h.modSens

protected theorem Canon.brickTemps {l} (h : Canon i l) : Canon i (brickTemps l) :=
  .foldl h fun h => by
    dsimp only
    split
    · exact h.modSens
    · exact h

protected theorem Canon.levelEntry {now s t l v} (h : Canon i l) : Canon i (levelEntry now s t l v) :=
  .raiseO (by split <;> exact h.stkLate)

protected theorem Canon.gradeSensor {l now s} (h : Canon i l) : Canon i (gradeSensor l now s) := by
  unfold gradeSensor
  dsimp only
  split
  · exact h
  · exact
      have h1' := h.fsetI.fset.fsetB.fsetB.modSens
      .foldl (.ite h1'.stkLate.raiseO h1') fun h => h.levelEntry

protected theorem Canon.staleSensor {l s} (h : Canon i l) : Canon i (staleSensor l s) :=
  .ite h h.fsetB.stkLate

protected theorem Canon.muteDiode {l s} (h : Canon i l) : Canon i (muteDiode l s) :=
  .ite h.fsetB.stkLate.modSens h

protected theorem Canon.keepTemp {l s} (h : Canon i l) : Canon i (keepTemp l s) :=
  h.modSens

protected theorem Canon.tickSensor {now l s} (h : Canon i l) : Canon i (tickSensor now l s) := by
  unfold tickSensor
  extract_lets c l1
  have h_l1 : Canon i l1 := .ite h.muteDiode h
  exact .ite (.ite h_l1.keepTemp h_l1.gradeSensor)
    (have h' := h_l1.keepTemp
     .ite h'.fsetB (.ite h'.staleSensor h'))

protected theorem Canon.thermalStop {l a tts} (h : Canon i l) : Canon i (thermalStop l a tts) :=
  .ite h.axAsk.stkLate h.axAsk.stkLate

protected theorem Canon.criticalStops {l s tts axs} (h : Canon i l) : Canon i (criticalStops l s tts axs) :=
  .foldl h fun h => .ite h.modSens.thermalStop (.ite h.modSens h)

protected theorem Canon.setStep {l b n} (h : Canon i l) : Canon i (setStep l b n) :=
  h.fset.stkIfLate

protected theorem Canon.brickStep {l now b v} (h : Canon i l) : Canon i (brickStep l now b v) :=
  h.same.setStep

protected theorem Canon.setLane {l n} (h : Canon i l) : Canon i (setLane l n) :=
  h.same.fset.stkIfLate

protected theorem Canon.laneStep {l now} (h : Canon i l) : Canon i (laneStep l now) :=
  h.same.setLane

protected theorem Canon.thmSummary {l} (h : Canon i l) : Canon i (thmSummary l) :=
  h.fsetB.fsetB.fsetB.fsetB.fsetB

protected theorem Canon.brickThermal {now l b} (h : Canon i l) : Canon i (brickThermal now l b) := by
  unfold brickThermal
  extract_lets read v l1 es tts axs l2 l3
  have h_l1 : Canon i l1 := .ite h.brickStep h
  have h_l2 : Canon i l2 := h_l1.fset.fsetB
  have h_l3 : Canon i l3 := .ite h_l2.criticalStops h_l2
  exact .ite h_l3.brickLost h_l3

protected theorem Canon.pinThermal {l p lv} (h : Canon i l) : Canon i (pinThermal l p lv) :=
  .ite
    (have h' := h.fset
     .ite h'
       (have h1' := h'.criticalStops
        .ite h1'.axAsk h1')) h

protected theorem Canon.thmTick {l now d} (h : Canon i l) : Canon i (thmTick l now d) := by
  unfold thmTick
  extract_lets l1 l2 l3 links pins l4 l5 l6 l7 me own l8 l9
  have h_l1 : Canon i l1 := h.laneDiode.laneDiode
  have h_l2 : Canon i l2 := .foldl h_l1 fun h => h.linkDiode
  have h_l3 : Canon i l3 := h_l2.brickTemps
  have h_l4 : Canon i l4 := .foldl h_l3 fun h => h.tickSensor
  have h_l5 : Canon i l5 := .foldl h_l4 fun h => h.brickThermal
  have h_l6 : Canon i l6 := .foldl h_l5 fun h => h.pinThermal
  have h_l7 : Canon i l7 := h_l6.laneStep
  have h_l8 : Canon i l8 := .ite h_l7.same.peatWrite.fmWrite.ask h_l7
  have h_l9 : Canon i l9 := .foldl h_l8 fun h => .ite h.ask h
  exact h_l9.thmSummary

protected theorem Canon.objStep {now o l} (h : Canon i l) : Canon i (objStep now o l) := by
  unfold objStep
  dsimp only
  split
  · exact .ite h.same.setStep h
  · exact .ite h.same.setLane h

protected theorem CanonBoth.execThrottleStep {o s} (hs : CanonBoth s) : CanonOut (execThrottleStep o s) :=
  .next (hs.tickTo.inRunning fun h => h.objStep)

protected theorem CanonBoth.execReadingStale {n s} (hs : CanonBoth s) : CanonOut (execReadingStale n s) :=
  .next (hs.inRunning fun h => by
    split
    · exact h
    · exact .ite h h.staleSensor.thmSummary
    · exact h.muteDiode.thmSummary)

protected theorem CanonBoth.execLaneShutdownAbandon {lane s} (hs : CanonBoth s) :
    CanonOut (execLaneShutdownAbandon lane s) :=
  .ite (.next (.same (hs.tickTo.modLane fun h => h.fsetB))) (.next hs)

protected theorem CanonBoth.execLaneStop {lane s} (hs : CanonBoth s) : CanonOut (execLaneStop lane s) :=
  .ite (.next (.settle (.modLane (hs.modLane fun h => h.setRole.fset) fun h => .ite h.stkSeen h)))
    (.next hs)

/-! ### The CAN block (chapter 11) -/

protected theorem Canon.modCan {l p f} (h : Canon i l) : Canon i (modCan l p f) :=
  h.same

protected theorem Canon.canSummary {l p} (h : Canon i l) : Canon i (canSummary l p) :=
  h.fset.fset.fset.fset.fset.fset

protected theorem Canon.writeEntry {l a w0 w1 soft sofe data n} (h : Canon i l) :
    Canon i (writeEntry l a w0 w1 soft sofe data n) :=
  .eccSet (.mset32 (.eccSet (.mset32 (.eccSet (.mset32 (.foldl
    h.mset32.eccSet.mset32.eccSet.mset32.eccSet.mset32.eccSet.mset32.eccSet fun h => h.mset8))))))

protected theorem Canon.queueFrame {l now p q f sof extra} (h : Canon i l) :
    Canon i (queueFrame l now p q f sof extra) := by
  unfold queueFrame
  extract_lets +onlyGivenNames x full own seq ow lost place
  have hl : Canon i (lost l) := .ite h.fcount.stkLate h.fcount.stkLate
  clear_value place
  split
  · exact hl
  · exact .raiseO (.modCan (.writeEntry (.ite hl h)))

protected theorem Canon.candUpdate {l now p} (h : Canon i l) : Canon i (candUpdate l now p) :=
  h.modCan

protected theorem Canon.slotReport {l now p k} (h : Canon i l) : Canon i (slotReport l now p k) :=
  h.raiseO

protected theorem Canon.queueTx {l now p a} (h : Canon i l) : Canon i (queueTx l now p a).1 := by
  unfold queueTx
  split
  · exact h.stk
  · exact .iteFst h h.modCan.canSummary

protected theorem Canon.placeSlot {l p k f tag} (h : Canon i l) : Canon i (placeSlot l p k f tag) :=
  h.modCan.rset.canSummary

protected theorem Canon.deadlineTx {l now p a} (h : Canon i l) : Canon i (deadlineTx l now p a).1 :=
  .iteFst h.stk (by
    split
    · exact h.stk
    · dsimp only
      split
      · exact h
      · exact .foldl h fun h => h.placeSlot)

protected theorem Canon.cancelSlot {l p k} (h : Canon i l) : Canon i (cancelSlot l p k).1 := by
  unfold cancelSlot
  split
  · exact h
  · exact .iteFst h h.fset.fset.canSummary

protected theorem Canon.cancelTx {l p k} (h : Canon i l) : Canon i (cancelTx l p k).1 :=
  .iteFst h.stk (.foldlFst h fun h => h.cancelSlot)

protected theorem Canon.takeEntry {l p q} (h : Canon i l) : Canon i (takeEntry l p q).1 := by
  unfold takeEntry
  dsimp only
  split
  · exact h
  · exact h.modCan.canSummary

protected theorem Canon.ackEntry {l a} (h : Canon i l) : Canon i (ackEntry l a) := by
  unfold ackEntry
  dsimp only
  split
  · exact h.modCan.canSummary
  · exact h.modCan.canSummary
  · exact h.stk

protected theorem Canon.expireSlot {l now p k} (h : Canon i l) : Canon i (expireSlot l now p k) := by
  unfold expireSlot
  split
  · exact h
  · exact h.fset.fset.stk.canSummary.slotReport

protected theorem Canon.modTx {l p o f} (h : Canon i l) : Canon i (modTx l p o f) := by
  unfold modTx
  split <;> exact h.modCan

protected theorem Canon.dropHead {l p w0} (h : Canon i l) : Canon i (dropHead l p w0) :=
  h.fcount.stkLate.fset.fset.modCan.canSummary

protected theorem Canon.refMissed {l p} (h : Canon i l) : Canon i (refMissed l p) :=
  h.modCan.stkLate

protected theorem Canon.refExpire {l p} (h : Canon i l) : Canon i (refExpire l p) := by
  unfold refExpire
  split
  · exact .ite h.refMissed h
  · exact h

protected theorem Canon.failedAttempt {l now p o e} (h : Canon i l) : Canon i (failedAttempt l now p o e) := by
  unfold failedAttempt
  split
  next => exact h.fsetB
  next f _ =>
    extract_lets id l1 hit l2 l3
    have h1 : Canon i l1 := h.modTx.fsetB
    have h2 : Canon i l2 := .ite (.stkLate (.fset (.fset h1))) h1
    have h3 : Canon i l3 := h2.modCan
    split
    · exact .ite h3.dropHead h3
    · exact .ite (.expireSlot h3.fset) h3.fset
    · exact .ite h3.refMissed h3

protected theorem Canon.frameSent {l now p o sof eof} (h : Canon i l) :
    Canon i (frameSent l now p o sof eof) :=
  have h' := h.fsetB
  by
    unfold frameSent
    dsimp only
    split
    · exact h'.modCan.canSummary
    · exact h'.modCan
    · exact .ite (.ite h'.fsetB.stkLate h'.stkLate) h'.fset.fset.modCan.canSummary.slotReport

protected theorem Canon.errorState {l now p tec rec es borec} (h : Canon i l) :
    Canon i (errorState l now p tec rec es borec) :=
  have h4' := h.fset.fset.fset.fsetB.stkIfLate.fset.stkIfLate.fsetB
  .ite h4'.fsetB.fcount.stkLate.raiseO h4'

protected theorem Canon.governBits {l now} (h : Canon i l) : Canon i (governBits l now) :=
  .foldl h fun h => h.fsetB

protected theorem Canon.refPair {l now p e} (h : Canon i l) : Canon i (refPair l now p e) := by
  unfold refPair
  extract_lets l1 x small step good l2 l3 l4
  have h_l1 : Canon i l1 := h.fsetI
  have h_l2 : Canon i l2 := h_l1.modCan
  have h_l3 : Canon i l3 := .ite h_l2.fsetB h_l2
  have h_l4 : Canon i l4 := h_l3.governBits
  exact .ite (.ite h_l4.same.shipMark.stkLate h_l4.fsetI.same.shipMark) h_l4

protected theorem Canon.refReceived {l now p prio f sof} (h : Canon i l) :
    Canon i (refReceived l now p prio f sof) :=
  .ite h
    (have h2' := h.modCan.fset.fset.modCan
     .ite h2' (by
       split
       · exact h2'
       · exact .ite h2'.refPair h2'))

protected theorem Canon.frameReceived {l now p f sof self} (h : Canon i l) :
    Canon i (frameReceived l now p f sof self) := by
  unfold frameReceived
  extract_lets mode l1 sf
  have h1 : Canon i l1 := by unfold l1; split; exacts [.ite h h.refReceived, h]
  refine .ite h ?_
  split
  · exact h1.queueFrame.canSummary
  · exact h1.queueFrame.canSummary
  · exact h1
  · exact .ite h1.queueFrame.canSummary h1

protected theorem Canon.runEnds {l p o} (h : Canon i l) : Canon i (runEnds l p o) :=
  h.modCan

protected theorem Canon.canReport {l now p r} (h : Canon i l) : Canon i (canReport l now p r) :=
  .candUpdate (by
    split
    · exact h.frameReceived
    · exact h.modTx.fsetB.modCan
    · exact h.frameSent.runEnds
    · exact h.modTx.fcount.fsetB.runEnds
    · exact h.failedAttempt.runEnds
    · exact h.modTx.runEnds
    · split
      · split
        · exact .ite h.expireSlot h
        · exact h
      · split
        · exact .ite h.refMissed h
        · exact h
      · exact h
    · exact h.errorState
    · exact h.fcount
    · exact .ite h h.stkLate)

protected theorem Canon.canPresence {l} (h : Canon i l) : Canon i (canPresence l) :=
  .foldl h fun h =>
    have h' := h.fsetB
    .ite h' h'.modCan

protected theorem Canon.canSilent {l now f} (h : Canon i l) : Canon i (canSilent l now f) :=
  .foldl h fun h => .ite h.modCan.candUpdate.stkLate h

protected theorem Canon.canConsume {l now f quiet} (h : Canon i l) : Canon i (canConsume l now f quiet) :=
  .foldl h fun h => .ite h.modCan.refExpire.candUpdate h

protected theorem Canon.postReference {l now p t} (h : Canon i l) : Canon i (postReference l now p t) :=
  .modCan (.ite h.refMissed h)

protected theorem CanonBoth.execCanReportDelivery {p r s} (hs : CanonBoth s) :
    CanonOut (execCanReportDelivery p r s) :=
  have hs' := hs.tickTo
  .ite (.next hs') (.next (.settle (hs'.inRunning fun h => .ite h.canReport h)))

protected theorem CanonBoth.execLaneExpiryRecord {p k s} (hs : CanonBoth s) :
    CanonOut (execLaneExpiryRecord p k s) := by
  unfold execLaneExpiryRecord
  dsimp only
  split
  · exact .next hs
  · exact .next (.settle (hs.tickTo.inRunning fun h => by
      split
      · exact .ite h h.expireSlot.candUpdate
      · exact h))

protected theorem CanonBoth.execBusOffRecovery {p s} (hs : CanonBoth s) :
    CanonOut (execBusOffRecovery p s) :=
  .next (.settle (hs.inRunning fun h => .ite h.errorState.candUpdate h))

protected theorem CanonBoth.execReferencePost {p s} (hs : CanonBoth s) : CanonOut (execReferencePost p s) :=
  .ite (.next hs) (.next (hs.tickTo.inRunning fun h => .ite h.postReference h))

protected theorem CanonBoth.execMasterTimeout {p s} (hs : CanonBoth s) : CanonOut (execMasterTimeout p s) :=
  .next (hs.tickTo.inRunning fun h => .ite h.modCan.fset.fset h)

protected theorem CanonBoth.execAlignmentLost {p s} (hs : CanonBoth s) : CanonOut (execAlignmentLost p s) :=
  .next (.settle (hs.tickTo.inRunning fun h => .ite h.fsetB.modCan.stkLate.raiseO.governBits h))

/-! ### Commands of the field cartridges (chapters 9 and 10) -/

protected theorem Canon.fieldConsume {l now f use drop x c quiet} (h : Canon i l) :
    Canon i (fieldConsume l now f use drop x c quiet) := by
  unfold fieldConsume
  extract_lets age l1 l2 l3
  have h1 : Canon i l1 := h.stkIfLate
  have h2 : Canon i l2 := by
    unfold l2
    split
    · refine .fioFrame (.fbkFrame ?_)
      split
      · exact h1.pinsArrive
      · exact h1
    · exact h1.fbkFrame.fioGap
  have h3 : Canon i l3 := h2.canConsume
  exact h3.same

protected theorem CanonBoth.execFieldFrameConsumption {f heldA heldB d s} (hs : CanonBoth s) :
    CanonOut (execFieldFrameConsumption f heldA heldB d s) :=
  have hs' := hs.tickTo
  .next (.settle (.lanes (.ite hs'.la.fieldConsume hs'.la) (.ite hs'.lb.fieldConsume hs'.lb)))

protected theorem CanonBoth.execComparePulseEnd {e s} (hs : CanonBoth s) :
    CanonOut (execComparePulseEnd e s) :=
  .next (hs.tickTo.same.inRunning fun h => h.modChan)

protected theorem CanonBoth.execSsiTransferStart {e s} (hs : CanonBoth s) :
    CanonOut (execSsiTransferStart e s) :=
  .next (hs.tickTo.inRunning fun h => h.ssiStart)

protected theorem CanonBoth.execPulsedWindow {f rd s} (hs : CanonBoth s) :
    CanonOut (execPulsedWindow f rd s) :=
  have hs' := hs.tickTo
  .ite (.next hs'.same) (.next hs')

protected theorem CanonBoth.execForcedHigh {o s} (hs : CanonBoth s) : CanonOut (execForcedHigh o s) :=
  .next (hs.inRunning fun h => h.forcedHigh.fioSummary)

protected theorem CanonBoth.execOnlow {o s} (hs : CanonBoth s) : CanonOut (execOnlow o s) :=
  .next (hs.inRunning fun h => h.onLow)

protected theorem CanonBoth.execRetryReset {o s} (hs : CanonBoth s) : CanonOut (execRetryReset o s) :=
  .next (hs.inRunning fun h => h.retryReset)

protected theorem CanonBoth.enterSafe {f s} (hs : CanonBoth s) : CanonBoth (enterSafe f s) :=
  hs.same

protected theorem CanonBoth.execFieldSilenceTimeout {f s} (hs : CanonBoth s) :
    CanonOut (execFieldSilenceTimeout f s) :=
  .ite (.next hs)
    (have hs' := hs.tickTo
     .next (.inRunning (.same (.ite hs' hs'.enterSafe)) fun h => h.canSilent))

protected theorem CanonBoth.execStoChannelChange {f chB r s} (hs : CanonBoth s) :
    CanonOut (execStoChannelChange f chB r s) :=
  .ite (.next hs) (.next hs.same)

protected theorem CanonBoth.execStoDiscrepancy {f s} (hs : CanonBoth s) :
    CanonOut (execStoDiscrepancy f s) := by
  unfold execStoDiscrepancy
  split
  · exact .next hs.tickTo.same
  · exact .next hs

protected theorem CanonBoth.execParm {e s} (hs : CanonBoth s) : CanonOut (execParm e s) :=
  .next (hs.inRunning fun h => h.probeArm)

protected theorem CanonBoth.execChannelClear {e s} (hs : CanonBoth s) : CanonOut (execChannelClear e s) :=
  .next (hs.inRunning fun h => h.chanClear.fbkSummary)

protected theorem CanonBoth.execCompareArm {e cpos cmc s} (hs : CanonBoth s) :
    CanonOut (execCompareArm e cpos cmc s) :=
  .next (.settle (hs.inRunning fun h => .ite h.compareCommit.stk.fbkSummary h.compareCommit.fbkSummary))

protected theorem CanonBoth.execPulseRatio {e num den s} (hs : CanonBoth s) :
    CanonOut (execPulseRatio e num den s) :=
  .next (hs.inRunning fun h => h.pulseCommit.fbkSummary)

protected theorem Canon.srelLane {l mask} (h : Canon i l) : Canon i (srelLane l mask) :=
  .foldl h fun h => .ite (.ite h.ask h.stk) h

protected theorem CanonBoth.execSrel {mask s} (hs : CanonBoth s) : CanonOut (execSrel mask s) :=
  .next (.settle (hs.inRunning fun h => h.srelLane))

protected theorem Canon.oclrLane {l mask} (h : Canon i l) : Canon i (oclrLane l mask) :=
  .fioSummary (.foldl h fun h => .ite h.outputClear h)

protected theorem CanonBoth.execOclr {mask s} (hs : CanonBoth s) : CanonOut (execOclr mask s) :=
  .next (.settle (hs.inRunning fun h => h.oclrLane))

protected theorem Canon.counterClear {l now mask} (h : Canon i l) : Canon i (counterClear l now mask) :=
  .foldl h fun h => .ite h.counterClear1 h

protected theorem CanonBoth.execCounterClear {mask s} (hs : CanonBoth s) :
    CanonOut (execCounterClear mask s) :=
  .next (hs.inRunning fun h => h.counterClear)

/-! ### The Cord cartridge (chapter 15) -/

protected theorem Canon.cordHold {c ws l} (h : Canon i l) : Canon i (cordHold c ws l) := by
  unfold cordHold
  split
  · exact .ite h.same h
  · exact h

protected theorem CanonBoth.cordDeliver {ca cb ws s} (hs : CanonBoth s) :
    CanonBoth (cordDeliver ca cb ws s) :=
  .lanes hs.la.cordHold hs.lb.cordHold

protected theorem Canon.cordIssue {now l v arg} (h : Canon i l) : Canon i (cordIssue now l v arg) :=
  .ite h.stk (.ite h.stk h.fset.fset.fset.fsetB.same.ask)

protected theorem Canon.cordAnswer {l ws} (h : Canon i l) : Canon i (cordAnswer l ws) :=
  .ite
    (have h2' := h.fset.fset.fsetB.rset.stkIfLate
     .ite (.fsetB (.foldl h2' fun h => h.rset)) h2') h

protected theorem Canon.cordConsume {l ws} (h : Canon i l) : Canon i (cordConsume l ws) :=
  .cordAnswer (.same (.fset (.fset (.fset (.rset (.fset (.fset (.fset (.foldl
    h.stkIfLate.stkIfLate.stkIfLate.stkIfLate.stkIfLate.stkIfLate.fsetB.fsetB.fsetB.fset.fset fun h =>
    h.rset.rset)))))))))

protected theorem Canon.cordTick {now l use} (h : Canon i l) : Canon i (cordTick now l use) :=
  have h1' := h.stkIfLate.same
  by
    unfold cordTick
    dsimp only
    split
    · exact h1'.cordConsume.stkIfLate
    · exact h1'.fset

protected theorem CanonBoth.onCord {s f} (hs : CanonBoth s) : CanonOut (onCord s f) :=
  .next hs.same

protected theorem CanonBoth.calLine {α : Type} {x : CalLine α} {s f} (hs : CanonBoth s) :
    CanonOut (calLine x s f) :=
  hs.onCord

protected theorem CanonBoth.execCordResultFrame {x s} (hs : CanonBoth s) :
    CanonOut (execCordResultFrame x s) :=
  have hs' := hs.same
  .ite (.next hs') (.next hs'.same.cordDeliver)

protected theorem CanonBoth.execCordResultsLost {s} (hs : CanonBoth s) : CanonOut (execCordResultsLost s) :=
  .next (.settle (hs.inRunning fun h => .ite h.fsetB.stkLate.raiseO h))

protected theorem CanonBoth.cordReceive {i' s} (hs : CanonBoth s) : CanonBoth (cordReceive i' s) := by
  unfold cordReceive
  dsimp only
  split
  · exact hs.same
  · exact hs

protected theorem CanonBoth.cordCommand {v arg s} (hs : CanonBoth s) : CanonBoth (cordCommand v arg s) :=
  .cordReceive (.cordReceive (.settle (hs.inRunning fun h => h.cordIssue)))

protected theorem CanonBoth.execCordStart {m s} (hs : CanonBoth s) : CanonOut (execCordStart m s) :=
  .next hs.cordCommand

protected theorem CanonBoth.execCordEnd {m s} (hs : CanonBoth s) : CanonOut (execCordEnd m s) :=
  .next hs.cordCommand

protected theorem CanonBoth.execCordRecord {rseq s} (hs : CanonBoth s) : CanonOut (execCordRecord rseq s) :=
  .next hs.cordCommand

protected theorem CanonBoth.execCordCommandReceipt {x s} (hs : CanonBoth s) :
    CanonOut (execCordCommandReceipt x s) := by
  unfold execCordCommandReceipt
  dsimp only
  split
  · exact .next hs.cordReceive
  · exact .next hs.same
  · exact .ite (.next hs) (.next hs.same)

protected theorem CanonBoth.execCordCommandTimeout {s} (hs : CanonBoth s) :
    CanonOut (execCordCommandTimeout s) :=
  .next (hs.inRunning fun h => .ite h.fset.fsetB.stkLate h)

protected theorem CanonBoth.execCordThermalShutdown {s} (hs : CanonBoth s) :
    CanonOut (execCordThermalShutdown s) :=
  .ite (.next hs) (.next hs.same.cordDeliver)

protected theorem CanonBoth.execCordSupplyFall {s} (hs : CanonBoth s) : CanonOut (execCordSupplyFall s) :=
  hs.onCord

protected theorem CanonBoth.execCordPowerOn {s} (hs : CanonBoth s) : CanonOut (execCordPowerOn s) :=
  hs.onCord

protected theorem CanonBoth.execSealJumperFitted {s} (hs : CanonBoth s) :
    CanonOut (execSealJumperFitted s) :=
  hs.onCord

protected theorem CanonBoth.execSealJumperRemoved {s} (hs : CanonBoth s) :
    CanonOut (execSealJumperRemoved s) :=
  hs.onCord

protected theorem CanonBoth.calSealed {s f} (hs : CanonBoth s) : CanonOut (calSealed s f) :=
  hs.calLine

protected theorem CanonBoth.execIdQuery {s} (hs : CanonBoth s) : CanonOut (execIdQuery s) :=
  hs.calLine

protected theorem CanonBoth.execParQuery {p ch s} (hs : CanonBoth s) : CanonOut (execParQuery p ch s) :=
  hs.calLine

protected theorem CanonBoth.execPar {p ch v s} (hs : CanonBoth s) : CanonOut (execPar p ch v s) :=
  hs.calLine

protected theorem CanonBoth.execZero {ch s} (hs : CanonBoth s) : CanonOut (execZero ch s) :=
  hs.calLine

protected theorem CanonBoth.execSpan {ch load s} (hs : CanonBoth s) : CanonOut (execSpan ch load s) :=
  hs.calLine

protected theorem CanonBoth.execCommit {s} (hs : CanonBoth s) : CanonOut (execCommit s) :=
  hs.calSealed

protected theorem CanonBoth.execDiscard {s} (hs : CanonBoth s) : CanonOut (execDiscard s) :=
  hs.calLine

protected theorem CanonBoth.execAudQuery {n s} (hs : CanonBoth s) : CanonOut (execAudQuery n s) :=
  hs.calLine

protected theorem CanonBoth.execSoftwareUpdate {lver code s} (hs : CanonBoth s) :
    CanonOut (execSoftwareUpdate lver code s) :=
  hs.calSealed

/-! ### The image and the first steps of admission (R90 to R99, R411, R412) -/

protected theorem Canon.loadDesc {l a v} (h : Canon i l) : Canon i (loadDesc l a v) :=
  h.rset

protected theorem Canon.clearDesc {l} (h : Canon i l) : Canon i (clearDesc l) := by
  unfold clearDesc
  exact .foldl h fun h => .ite (.rset (.ite h h.loadDesc)) (.ite h h.loadDesc)

protected theorem Canon.loadSecs {im typ l} (h : Canon i l) : Canon i (loadSecs im typ l) :=
  .foldl h fun h => h.mset32.eccSet

protected theorem Canon.candidate {l im} (h : Canon i l) : Canon i (candidate l im) :=
  .same (.foldl (.foldl h.clearTables.loadSecs.loadSecs.loadSecs.clearDesc fun h => .ite h h.loadDesc) fun h =>
    h.rset.rset)

/-! ### Admission, runtime requests and removal of work (R90 to R103) -/

protected theorem Canon.showVals {l w v} (h : Canon i l) : Canon i (showVals l w v) :=
  .foldl (.foldl h.rset.rset.rset.fset.wantDomains fun h => h.fset) fun h => h.rset.rset

protected theorem Canon.showRes {l b axis item} (h : Canon i l) : Canon i (showRes l b axis item) :=
  .rset (.rset (by split <;> exact .fsetB (.fset (by split <;> exact h.fset.fset.fset.fset.fsetB))))

protected theorem Canon.freshRun {l now} (h : Canon i l) : Canon i (freshRun l now) :=
  h.fsetB.same

protected theorem Canon.installImage {c now im v} (h : Canon i c) : Canon i (installImage c now im v) := by
  unfold installImage
  extract_lets l0 l1 l2 l3 l4 l5 l6
  have h0 : Canon i l0 := h.freshRun
  have h1 : Canon i l1 := h0.same
  have h2 : Canon i l2 := .foldl h1 fun h => .ite h.rset h.rset
  have h3 : Canon i l3 := .foldl h2 fun h => h.fset.fset
  have h4 : Canon i l4 := h3.same
  have h6 : Canon i l6 := h4.rset.fset.showRes.showVals
  exact h6.releaseBg

protected theorem Canon.admitImage {l now im} (h : Canon i l) : Canon i (admitImage l now im).1 := by
  unfold admitImage
  extract_lets c v
  have hc : Canon i c := h.candidate
  split
  · exact h.stk.showRes
  · dsimp only
    exact hc.installImage

protected theorem Canon.keepHosts {l t0 a} (h : Canon i l) : Canon i (keepHosts l t0 a) :=
  .foldl h fun h => .ite h.fset.modAx h

protected theorem Canon.reqTake {l now t0 r} (h : Canon i l) : Canon i (reqTake l now t0 r) := by
  unfold reqTake
  split
  · exact h.fsetB.fset.rset.modAx.keepHosts
  · exact h.fsetB.same
  · exact .releaseBg (.same (.foldl h fun h => h.fset))
  · exact h.same.releaseBg

protected theorem Canon.reqRaise {l now} (h : Canon i l) : Canon i (reqRaise l now) :=
  h.raiseO

protected theorem Canon.reqRefuse {l now r b} (h : Canon i l) : Canon i (reqRefuse l now r b) :=
  h.stkLate.showRes.reqRaise

protected theorem Canon.reqSubmit {l now r} (h : Canon i l) : Canon i (reqSubmit l now r) := by
  unfold reqSubmit
  split
  · exact h.reqRefuse
  · exact h.same.fsetB.wantDomains

protected theorem Canon.reqComplete {l now} (h : Canon i l) : Canon i (reqComplete l now) := by
  unfold reqComplete
  split
  · exact h
  · exact
      have h' := h.same.fsetB
      by
        dsimp only
        split
        · exact h'.reqRefuse
        · exact h'.stkLate.showRes.showVals.reqTake.reqRaise

protected theorem Canon.workRemoved {l} (h : Canon i l) : Canon i (workRemoved l) := by
  unfold workRemoved
  exact h.showVals

protected theorem Canon.imageStarts {l now} (h : Canon i l) : Canon i (imageStarts l now) := by
  unfold imageStarts
  split
  · exact h
  · split
    · exact h.same.reqSubmit
    · exact h

protected theorem Canon.axisEnable {l now a} (h : Canon i l) : Canon i (axisEnable l now a) :=
  .ite h.fsetB.modAx h.reqSubmit

protected theorem Canon.axisDisable {l a} (h : Canon i l) : Canon i (axisDisable l a) :=
  have h' := h.same.fsetB
  .ite h'
    (have h1' := h'.modAx
     .ite h1'.axAsk h1')

/-! ### Commands of runtime requests (R101 to R103) -/

protected theorem Canon.judgeVerdict {now p l} (h1 : Canon i l) : Canon i (judgeVerdict now p l) :=
  .ite h1.stk.setRole h1

protected theorem Canon.injectCommit {l now p start} (h : Canon i l) :
    Canon i (injectCommit l now p start) :=
  .ite (.ite h h.reqSubmit) h.fsetB.same

protected theorem Canon.slotDisable {l p k} (h : Canon i l) : Canon i (slotDisable l p k) :=
  .foldl h fun h => h.fset.cancelSlot

protected theorem Canon.denCommit {l now p v} (h : Canon i l) : Canon i (denCommit l now p v) := by
  unfold denCommit
  exact .ite h
    (.ite (.same (.foldl h fun h => h.slotDisable)) (.reqSubmit (.same (.foldl h fun h => h.slotDisable))))

protected theorem Canon.itemCommit {l now op item} (h : Canon i l) : Canon i (itemCommit l now op item) := by
  unfold itemCommit
  split
  · exact h.reqSubmit
  · exact h.same
  · exact h

protected theorem CanonBoth.execAxisEnable {a s} (hs : CanonBoth s) : CanonOut (execAxisEnable a s) :=
  .next (.settle (hs.inRunning fun h => h.axisEnable))

protected theorem CanonBoth.execAxisDisable {a s} (hs : CanonBoth s) : CanonOut (execAxisDisable a s) :=
  .next (hs.inRunning fun h => h.axisDisable)

protected theorem CanonBoth.execInjectionStart {p s} (hs : CanonBoth s) :
    CanonOut (execInjectionStart p s) :=
  .next (.settle (hs.inRunning fun h => h.injectCommit))

protected theorem CanonBoth.execInjectionStop {p s} (hs : CanonBoth s) : CanonOut (execInjectionStop p s) :=
  .next (hs.inRunning fun h => h.injectCommit)

protected theorem CanonBoth.execDeadlineMessageEnable {p k s} (hs : CanonBoth s) :
    CanonOut (execDeadlineMessageEnable p k s) :=
  .next (.settle (hs.inRunning fun h => h.denCommit))

protected theorem CanonBoth.execDeadlineMessageDisable {p k s} (hs : CanonBoth s) :
    CanonOut (execDeadlineMessageDisable p k s) :=
  .next (.settle (hs.inRunning fun h => h.denCommit))

protected theorem CanonBoth.execItemActivation {item s} (hs : CanonBoth s) :
    CanonOut (execItemActivation item s) :=
  .next (.settle (hs.inRunning fun h => h.itemCommit))

protected theorem CanonBoth.execItemDeactivation {item s} (hs : CanonBoth s) :
    CanonOut (execItemDeactivation item s) :=
  .next (hs.inRunning fun h => h.itemCommit)

protected theorem CanonBoth.execRuntimeRequestComplete {s} (hs : CanonBoth s) :
    CanonOut (execRuntimeRequestComplete s) := by
  unfold execRuntimeRequestComplete
  extract_lets s1
  have h_s1 : CanonBoth s1 := hs.inRunning fun h => h.reqComplete.moduleState
  exact .next (.settle (.lanes (.ite h_s1.la.judgeVerdict h_s1.la) (.ite h_s1.lb.judgeVerdict h_s1.lb)))

protected theorem CanonBoth.execWorkRemovalRecompute {s} (hs : CanonBoth s) :
    CanonOut (execWorkRemovalRecompute s) :=
  .next (hs.inRunning fun h => h.workRemoved)

/-! ### Start-up and joining (R410 to R413, R427, R428) -/

protected theorem Canon.kindleAll {l} (h : Canon i l) : Canon i (kindleAll l) :=
  h.same.fset.stk

protected theorem Canon.freshLane {l} (h : Canon i l) : Canon i (freshLane l) := by
  have h' := h.zeroOf
  exact .fsetB (.fsetB (.rset (.rset (.same h'))))

protected theorem Canon.showCarts {s l} (h : Canon i l) : Canon i (showCarts s l) :=
  h.fset.fset

protected theorem Canon.showSupplies {s l} (h : Canon i l) : Canon i (showSupplies s l) :=
  h.fset.fset.fsetB.fsetB.fset.fset.fsetB.fsetB.fsetB.fsetB.fsetB

protected theorem Canon.showFrame {s l} (h : Canon i l) : Canon i (showFrame s l) :=
  h.fset.fset.rset.rset

protected theorem CanonBoth.setFrame {f s} (hs : CanonBoth s) : CanonBoth (setFrame f s) :=
  have hs' := hs.same
  .lanes (.ite hs'.la.showFrame hs'.la) (.ite hs'.lb.showFrame hs'.lb)

protected theorem Canon.findBricks {s l} (h : Canon i l) : Canon i (findBricks s l) :=
  .foldl h fun h => .ite h.fset.rediscoverLane (.ite h.fset h)

protected theorem Canon.tryBank {l now k} (h : Canon i l) : Canon i (tryBank l now k).1 := by
  unfold tryBank
  split
  · exact h
  · exact .iteFst h
      (.iteFst h
        (have h' := h.admitImage
         .iteFst h'.rset.fset h'))

protected theorem Canon.bootFrom {compat l now first k} (h : Canon i l) :
    Canon i (bootFrom compat l now first k).1 :=
  have h1' := h.tryBank.fset
  .iteFst h1' (.iteFst h1' h1'.stk.tryBank)

protected theorem Canon.bootBanks {compat l now} (h : Canon i l) : Canon i (bootBanks compat l now).1 := by
  unfold bootBanks
  split
  · exact h.fset
  · exact h.bootFrom

protected theorem Canon.catchUp {now p l} (h1 : Canon i l) : Canon i (catchUp now p l) :=
  h1.same.setRole

protected theorem CanonBoth.joinLane {i' s} (hs : CanonBoth s) : CanonBoth (joinLane i' s) := by
  unfold joinLane
  extract_lets l o p take
  have ht : CanonBoth (take s) := .bistOver (hs.modLane fun h => h.same.setRole)
  have hc : CanonBoth (modLane s i' (catchUp s.now p)) := hs.modLane fun h => h.catchUp
  exact .ite hs (.ite (.ite hs (.ite hc (hs.modLane fun h => h.same.stk))) (.ite (.ite ht hs) (.ite hs ht)))

protected theorem CanonBoth.joinLanes {s} (hs : CanonBoth s) : CanonBoth (joinLanes s) :=
  hs.joinLane.joinLane.joinLane.settle

protected theorem Canon.stepReady {s l} (h : Canon i l) : Canon i (stepReady s l) := by
  unfold stepReady
  extract_lets l1 l2 l3
  have h0 : Canon i { l with bootLeft := none } := h.same
  have h3 : Canon i l3 := h0.fsetB.fset.rset.peatWrite
  exact h3.fmWrite.same

protected theorem CanonBoth.stepDone {i' s} (hs : CanonBoth s) : CanonBoth (stepDone i' s) :=
  .ite (.bistShow (.bistKeep (hs.same.putLane hs.laneOf.stepReady))) hs

protected theorem CanonBoth.bootDone {s} (hs : CanonBoth s) : CanonBoth (bootDone s) :=
  hs.stepDone.stepDone.joinLanes

protected theorem CanonBoth.memFailed {i' s} (hs : CanonBoth s) : CanonBoth (memFailed i' s) := by
  unfold memFailed
  exact .modLane (hs.same.modLane fun h => h.rset.stk.peatWrite.setRole) fun h => .ite h.raiseO h

protected theorem CanonBoth.startLane {i' memBist s} (hs : CanonBoth s) :
    CanonBoth (startLane i' memBist s) := by
  unfold startLane
  extract_lets l0 l1 l2 l3 l4 r
  have h1 : Canon i' l1 := hs.laneOf.freshLane.shipMark.kindleAll.fsetB
  have h2 : Canon i' l2 := h1.fset.setRole
  have h3 : Canon i' l3 := h2.showCarts.showSupplies.showFrame.findBricks
  have h4 : Canon i' l4 := .ite h3.rset h3
  have hr : Canon i' r.1 := .iteFst h4.bootBanks h4.bootFrom
  exact .ite (.joinLanes (.memFailed (hs.putLane h4.fset))) (.bootDone (hs.putLane (.ite hr.same hr)))

protected theorem CanonBoth.restartBase {s} (hs : CanonBoth s) : CanonBoth (restartBase s) :=
  hs.tickTo.same

protected theorem CanonBoth.execPowerOn {x s} (hs : CanonBoth s) : CanonOut (execPowerOn x s) := by
  unfold execPowerOn
  extract_lets k p s1 s2
  have h1 : CanonBoth s1 := hs.restartBase
  have h2 : CanonBoth s2 := .ite (hs.modLane fun h => h.same) (h1.same.modLane fun h => h.same)
  exact .ite (.next hs) (.next (.startLane (h2.modLane fun h => h.same)))

protected theorem CanonBoth.execPeerWaitTimeout {i' s} (hs : CanonBoth s) :
    CanonOut (execPeerWaitTimeout i' s) :=
  .ite (.next (.joinLanes (.bistOver (hs.tickTo.modLane fun h => h.same.setRole)))) (.next hs.joinLanes)

protected theorem CanonBoth.execImageAdmission {i' s} (hs : CanonBoth s) :
    CanonOut (execImageAdmission i' s) :=
  .ite (.next hs) (by
    split
    · exact .next hs
    · exact .next (.settle (hs.putLane hs.laneOf.tryBank.judgeVerdict.moduleState)))

/-! ### Clock domains, DORMANT and waking, supplies (R392 to R408) -/

protected theorem CanonBoth.execPllLock {i' d s} (hs : CanonBoth s) : CanonOut (execPllLock i' d s) :=
  .ite (.next (.joinLanes (hs.tickTo.modLane fun h => h.same.fset.stkSeen))) (.next hs)

protected theorem CanonBoth.execPllFault {i' d s} (hs : CanonBoth s) : CanonOut (execPllFault i' d s) :=
  .ite (.next hs) (.next (.settle (hs.modLane fun h => .ite h.same.chkFail.stkSeen.raiseO h.same.chkFail)))

protected theorem Canon.domainTick {l} (h : Canon i l) : Canon i (domainTick l) :=
  h.same.fset

protected theorem Canon.dormWrite {key l} (h : Canon i l) : Canon i (dormWrite key l) :=
  .ite h.same h.stk

protected theorem CanonBoth.execDorm {i' s} (hs : CanonBoth s) : CanonOut (execDorm i' s) :=
  .ite (.next (hs.modLane fun h => h.dormWrite)) (.next hs)

protected theorem Canon.sleep {now l} (h : Canon i l) : Canon i (sleep now l) :=
  h.emberTick.peatWrite.fmWrite.same.fset.fset

protected theorem CanonBoth.execDormantEntry {s} (hs : CanonBoth s) : CanonOut (execDormantEntry s) := by
  unfold execDormantEntry
  extract_lets t s0 s1 s2 s3
  have h0 : CanonBoth s0 := hs.tickTo
  have h1 : CanonBoth s1 := h0.same
  have h2 : CanonBoth s2 := .foldl h1 fun hs => .inRunning (.same (.ite hs hs.enterSafe)) fun h => h.canSilent
  have h3 : CanonBoth s3 := .settle (.lanes (.ite h2.la.sleep h2.la) (.ite h2.lb.sleep h2.lb))
  exact .ite (.next (.foldl h3 fun hs => hs.linkDark)) (.next hs)

protected theorem Canon.wakeLane {now x l} (h : Canon i l) : Canon i (wakeLane now x l) :=
  .fmWrite (.peatWrite (.foldl h.fset.fset.fset.stkLate.kindleAll.same.shipMark fun h =>
    .fsetB (.fsetB (.ite h h.fset))))

protected theorem CanonBoth.wakeBy {f s} (hs : CanonBoth s) : CanonBoth (wakeBy f s) := by
  unfold wakeBy
  extract_lets due s1 up
  have h1 : CanonBoth s1 := hs.restartBase
  have hup {i l} (h : Canon i l) : Canon i (up l) := by
    unfold up
    split
    · exact h.wakeLane
    · exact h
  exact .ite hs (.settle (.lanes (hup h1.la) (hup h1.lb)))

protected theorem CanonBoth.wakeSeen {w s} (hs : CanonBoth s) : CanonBoth (wakeSeen w s) := by
  unfold wakeSeen
  extract_lets stay s1
  have h1 : CanonBoth s1 := .lanes (.ite (.stkLate hs.la.same) hs.la) (.ite (.stkLate hs.lb.same) hs.lb)
  exact h1.wakeBy

protected theorem CanonBoth.execWakeSource {w s} (hs : CanonBoth s) : CanonOut (execWakeSource w s) :=
  .next hs.wakeSeen

protected theorem CanonBoth.execWakeTimer {s} (hs : CanonBoth s) : CanonOut (execWakeTimer s) :=
  .next hs.tickTo.wakeBy

protected theorem Canon.awakeTick {now l} (h : Canon i l) : Canon i (awakeTick now l) :=
  .ite h.fset.moduleState h

protected theorem Canon.supplyLane {s x ch fail l} (h : Canon i l) : Canon i (supplyLane s x ch fail l) := by
  unfold supplyLane
  extract_lets l1 l2 l3 l4 l5
  have h1 : Canon i l1 := h.showSupplies
  have h2 : Canon i l2 := h1.stkSeen
  have h3 : Canon i l3 := .ite (.ite h2.raiseO h2) h1
  have h4 : Canon i l4 := h3.stkSeen
  have h5 : Canon i l5 := .ite h4.raiseO h4
  exact .ite h (.ite h5.peatWrite.fmWrite h3)

protected theorem CanonBoth.setSupply {x q s} (hs : CanonBoth s) : CanonBoth (setSupply x q s) := by
  unfold setSupply
  extract_lets p ch was s1 fail s2
  have h_s1 : CanonBoth s1 := hs.same
  have h_s2 : CanonBoth s2 := .ite h_s1.wakeSeen h_s1
  exact .settle (.lanes h_s2.la.supplyLane h_s2.lb.supplyLane)

protected theorem CanonBoth.execSupplyStatusChange {x inok outok mv da s} (hs : CanonBoth s) :
    CanonOut (execSupplyStatusChange x inok outok mv da s) :=
  .next hs.setSupply

protected theorem Canon.peatCommit {l} (h : Canon i l) : Canon i (peatCommit l) := by
  unfold peatCommit
  split
  · exact h
  · exact h.same.fsetB.fset.fsetB

protected theorem Canon.peatDue {l} (h : Canon i l) : Canon i (peatDue l) :=
  .foldl h fun h => h.peatCommit

protected theorem Canon.railOff {l} (h : Canon i l) : Canon i (railOff l) := by
  have h' := h.peatDue.zeroOf
  exact .fsetB (.rset (.rset (.same h')))

protected theorem CanonBoth.execLogicRailCollapse {s} (hs : CanonBoth s) :
    CanonOut (execLogicRailCollapse s) := by
  unfold execLogicRailCollapse
  extract_lets s1
  have h_s1 : CanonBoth s1 := .foldl hs fun hs => hs.linkDark
  exact .next (.lanes h_s1.la.railOff h_s1.lb.railOff)

/-! ### Hash units, comparison and CATCH-UP (R19, R20) -/

protected theorem Canon.reduceUnit {u l} (h : Canon i l) : Canon i (reduceUnit u l) :=
  h.same

protected theorem Canon.takeTasks {u p l} (h1 : Canon i l) : Canon i (takeTasks u p l) :=
  .foldl h1 fun h => .putCore (.foldl h fun h => .ite h.putTask h)

protected theorem Canon.takeSlot {p l s} (h1 : Canon i l) : Canon i (takeSlot p l s) :=
  h1.same

protected theorem Canon.takeAxis {a p l} (h : Canon i l) : Canon i (takeAxis a p l) := by
  unfold takeAxis
  extract_lets u l1 l2 l3 l4 l5 l6
  have h1 : Canon i l1 := h.same
  have h2 : Canon i l2 := .foldl h1 fun h => .ite h.same h
  have h3 : Canon i l3 := .foldl h2 fun h => .ite h.same h
  have h4 : Canon i l4 := .foldl h3 fun h => h.same
  have h5 : Canon i l5 := .foldl h4 fun h => .ite h.takeSlot h
  have h6 : Canon i l6 := .foldl h5 fun h => .ite h.same h
  exact .foldl h6 fun h => .ite h.same h

protected theorem Canon.takeModule {p l} (h1 : Canon i l) : Canon i (takeModule p l) :=
  .foldl h1.same fun h => .ite h.takeSlot h

protected theorem Canon.resyncUnit {u p l} (h1 : Canon i l) (h : Canon j p) : Canon i (resyncUnit u p l) :=
  have h' := Canon.takeData (.takeTasks (h1.takeUnit h))
  .foldl (.dite (fun _ => h'.takeAxis) fun _ => h'.takeModule) fun h => .ite h.same h

theorem joinReg_sys_sts {p : Lane} : joinReg p SYS_STS = false := by
  have h : SYS_STS ≠ FLT_STK := by decide
  simp [joinReg, hashMask, h]

protected theorem Canon.catchUnit {u p l} (h : Canon i l) (hp : Canon j p) : Canon i (catchUnit u p l) := by
  have hj : Canon i (takeRegs (joinReg p) p (takeUnit u p l)) :=
    takeRegs_canon joinReg_sys_sts (h.takeUnit hp) hp
  have hall : Canon i { takeRegs (joinReg p) p (takeUnit u p l) with
      cores := p.cores, tags := p.tags, engq := p.engq, mem := p.mem, ecc := p.ecc, decl := p.decl
      t1n := p.t1n } :=
    ⟨hj.ident, hj.regs, hp.mem, hp.ecc⟩
  exact .moduleState (.same (.dite (fun _ => .takeAxis (.takeTasks (h.takeUnit hp))) fun _ => hall.takeModule))

protected theorem CanonBoth.unitEnd {u s} (hs : CanonBoth s) : CanonBoth (unitEnd u s) := by
  unfold unitEnd
  extract_lets feed a b red
  have h_a : Canon _ a := .ite (.ite (hs.la.catchUnit hs.lb) (.ite (hs.la.resyncUnit hs.lb) hs.la)) hs.la
  have h_b : Canon _ b := .ite (.ite (hs.lb.catchUnit hs.la) (.ite (hs.lb.resyncUnit hs.la) hs.lb)) hs.lb
  exact .lanes (.ite h_a.reduceUnit h_a) (.ite h_b.reduceUnit h_b)

protected theorem Canon.setFlag {u on l} (h : Canon i l) : Canon i (setFlag u on l) :=
  h.rset

protected theorem Canon.unitMatch {u l} (h : Canon i l) : Canon i (unitMatch u l) :=
  .foldl h.setFlag.same fun h => .ite h.same h

protected theorem Canon.unitDiffer {now u l} (h : Canon i l) : Canon i (unitDiffer now u l) :=
  h.fcount.stkLate.setFlag.same.raiseO

protected theorem Canon.outcomeRecord {now u row l} (h : Canon i l) : Canon i (outcomeRecord now u row l) :=
  h.peatWrite

protected theorem CanonBoth.rollOn {i' s} (hs : CanonBoth s) : CanonBoth (rollOn i' s) := by
  unfold rollOn
  split
  · exact
      have hs' := hs.bistKeep
      .ite (.ite hs'.same.bistShow hs'.same.wantHandover.bistShow)
        (.bistShow (hs'.inRunning fun h => .ite h.stkSeen h))
  · exact hs

protected theorem CanonBoth.matchOutcome {i' u s} (hs : CanonBoth s) : CanonBoth (matchOutcome i' u s) := by
  unfold matchOutcome
  extract_lets s1
  have h1 : CanonBoth s1 := .lanes hs.la.unitMatch hs.lb.unitMatch
  exact .ite (.rollOn (.peers (h1.modLane fun h => h.setRole))) h1

protected theorem CanonBoth.differOutcome {i' o u xo xi s} (hs : CanonBoth s) :
    CanonBoth (differOutcome i' o u xo xi s) := by
  unfold differOutcome
  extract_lets fo fi s1 row s2 s3
  have h1 : CanonBoth s1 := .lanes hs.la.unitDiffer hs.lb.unitDiffer
  have h2 : CanonBoth s2 := .lanes h1.la.outcomeRecord h1.lb.outcomeRecord
  have h3 : CanonBoth s3 := h2.modLane fun h => h.fmWrite
  refine .ite (h1.modLane fun h => ?_) (.ite (.same (h3.modLane fun h => h.raiseO))
    (.ite (.modLane (.lanes h3.la.stkSeen h3.lb.stkSeen) fun h => h.setRole) h3))
  extract_lets l1
  have h' : Canon i' l1 := h.same.setFlag
  exact .ite h'.stkSeen.setRole h'

protected theorem CanonBoth.execHashExchange {u exA exB s} (hs : CanonBoth s) :
    CanonOut (execHashExchange u exA exB s) := by
  unfold execHashExchange
  dsimp only
  split
  · exact .ite (.next hs) (.ite (.next hs.matchOutcome.settle) (.next hs.differOutcome.settle))
  · exact .next hs

/-! ### The lane duplex and the cartridges (R12, R33 to R35, R430 to R434) -/

protected theorem CanonBoth.forwardHeld {i' s} (hs : CanonBoth s) : CanonBoth (forwardHeld i' s) :=
  .foldl hs fun hs => by
    split
    · exact .ite hs.sendFrame hs
    · exact hs

protected theorem Canon.keepFlagged {l} (h : Canon i l) : Canon i (keepFlagged l) :=
  .rset (.ite h (.foldl h fun h => .ite h.same h))

protected theorem Canon.handoverMarks {now cause j' l} (h : Canon i l) :
    Canon i (handoverMarks now cause j' l) :=
  h.fset.fset.rset.stkSeen.fcount.fsetB.peatWrite.raiseO

protected theorem CanonBoth.handOver {i' cause s} (hs : CanonBoth s) : CanonBoth (handOver i' cause s) := by
  unfold handOver
  extract_lets k l ys role s1 s2 s3
  have h1 : CanonBoth s1 := hs.modLane fun h => .setRole (.handoverMarks h.same)
  have h2 : CanonBoth s2 := h1.modLane fun h => h.keepFlagged.handoverMarks.setRole.fmWrite
  have h3 : CanonBoth s3 := h2.same.settle.forwardHeld
  split
  · exact .ite h3.bistKeep.bistBegin h3.bistDrop.bistShow
  · exact h3

protected theorem CanonBoth.execHreq {s} (hs : CanonBoth s) : CanonOut (execHreq s) := by
  unfold execHreq
  split
  · exact .ite (.next hs.same) (.next hs)
  · exact .next hs

protected theorem CanonBoth.execHack {s} (hs : CanonBoth s) : CanonOut (execHack s) := by
  unfold execHack
  split
  · exact .ite (.next hs.same) (.next hs)
  · exact .next hs

protected theorem CanonBoth.execClaimExchange {s} (hs : CanonBoth s) : CanonOut (execClaimExchange s) := by
  unfold execClaimExchange
  split
  · exact
      have hs' := hs.tickTo
      .ite (.next hs'.handOver.settle) (.next hs'.hoEnd)
  · exact .next hs

protected theorem CanonBoth.execHandoverWaitTimeout {s} (hs : CanonBoth s) :
    CanonOut (execHandoverWaitTimeout s) := by
  unfold execHandoverWaitTimeout
  split
  · exact .ite
      (.next (.settle (.bistShow (.bistDrop (.same (hs.tickTo.modLane fun h =>
        h.stkSeen.fsetB.peatWrite)))))) (.next hs)
  · exact .next hs

protected theorem CanonBoth.takeOver {j' s} (hs : CanonBoth s) : CanonBoth (takeOver j' s) :=
  .forwardHeld (.settle (.bistShow (.bistDrop (.bistOver (.hoEnd (.modLane
    (.ite (hs.modLane fun h => h.fset) hs) fun h => h.keepFlagged.handoverMarks.setRole.fmWrite.raiseO))))))

protected theorem CanonBoth.execActiveLaneFailed {s} (hs : CanonBoth s) :
    CanonOut (execActiveLaneFailed s) := by
  unfold execActiveLaneFailed
  dsimp only
  split
  · exact .next hs.takeOver
  · exact .ite (.next hs.takeOver) (.next (.settle (hs.modLane fun h => h.setRole)))
  · exact .next hs

protected theorem CanonBoth.execXlnChannelDown {ch s} (hs : CanonBoth s) :
    CanonOut (execXlnChannelDown ch s) :=
  .ite
    (have hs' := hs.same
     .next (.settle (.lanes (.ite hs'.la.stkLate.raiseO (.ite hs'.la.stk hs'.la))
       (.ite hs'.lb.stkLate.raiseO (.ite hs'.lb.stk hs'.lb))))) (.next hs)

protected theorem CanonBoth.execXlnChannelUp {ch s} (hs : CanonBoth s) : CanonOut (execXlnChannelUp ch s) :=
  .next hs.same.settle.joinLanes

protected theorem CanonBoth.raiseAll {k obj detail s} (hs : CanonBoth s) :
    CanonBoth (raiseAll k obj detail s) :=
  hs.inRunning fun h => h.raiseO

protected theorem CanonBoth.execYieldButton {i' ms s} (hs : CanonBoth s) :
    CanonOut (execYieldButton i' ms s) :=
  .ite (.next hs)
    (have hs' := hs.raiseAll
     .ite (.next hs'.wantHandover.settle) (.next (.settle (hs'.modLane fun h => h.stkSeen))))

protected theorem CanonBoth.execExtractionLever {i' s} (hs : CanonBoth s) :
    CanonOut (execExtractionLever i' s) :=
  .ite (.next hs.wantHandover.settle) (.ite (.next (.settle (hs.modLane fun h => h.setRole))) (.next hs))

protected theorem CanonBoth.execSwap {s} (hs : CanonBoth s) : CanonOut (execSwap s) := by
  unfold execSwap
  split
  · exact .next hs.wantHandover.settle
  · exact .next hs

protected theorem CanonBoth.execBistLogic {tgt s} (hs : CanonBoth s) : CanonOut (execBistLogic tgt s) :=
  .next hs.bistCmd.settle

protected theorem CanonBoth.execBistMemory {tgt s} (hs : CanonBoth s) : CanonOut (execBistMemory tgt s) :=
  .next hs.bistCmd.settle

protected theorem CanonBoth.execBistBoth {tgt s} (hs : CanonBoth s) : CanonOut (execBistBoth tgt s) :=
  .next hs.bistCmd.settle

protected theorem CanonBoth.execRnow {s} (hs : CanonBoth s) : CanonOut (execRnow s) :=
  .next hs.rollNow.settle

protected theorem CanonBoth.rollLate {a due s} (hs : CanonBoth s) : CanonBoth (rollLate a due s) :=
  hs.inRunning fun h => h.stkSeenIf

protected theorem CanonBoth.execRollingSelftestDue {s} (hs : CanonBoth s) :
    CanonOut (execRollingSelftestDue s) := by
  unfold execRollingSelftestDue
  split
  next => exact .next hs
  next a _ =>
    extract_lets later s1
    split
    next b _ =>
      refine .ite (.next hs.rollLate.settle) (.next (.settle ?_))
      split
      · exact hs.bistKeep.rollStart
      · exact hs.bistKeep.rollStart.setFrame
    next =>
      have h1 : CanonBoth s1 := hs.tickTo
      exact .ite (.next hs) (.ite (.next h1.rollStart.rollLate.settle) (.next h1.rollStart.setFrame.settle))

protected theorem Canon.bistMarks {x run lsig msig lf mf l} (h : Canon i l) :
    Canon i (bistMarks x run lsig msig lf mf l) := by
  unfold bistMarks
  extract_lets l1 l2
  have h_l1 : Canon i l1 := .ite h.rset h
  have h_l2 : Canon i l2 := .ite h_l1.rset h_l1
  exact h_l2.stkIf.stkIf

protected theorem CanonBoth.execBistComplete {i' lsig msig s} (hs : CanonBoth s) :
    CanonOut (execBistComplete i' lsig msig s) := by
  unfold execBistComplete
  split
  next => exact .next hs
  next b _ =>
    extract_lets rest lf mf x fail src test s1 s2 s3 s4 s5 left
    have h1 : CanonBoth s1 := hs.modLane fun h => .ite (.ite h.bistMarks.raiseO h.bistMarks) h
    have h2 : CanonBoth s2 := h1.modLane fun h => h.peatWrite
    have hbad {l} (h : Canon i' l) : Canon i' { l with mem := [], ecc := [] } := ⟨h.ident, h.regs, rfl, rfl⟩
    have h5 : CanonBoth s5 := (CanonBoth.startLane (CanonBoth.same h2).settle).modLane fun h => h.bistMarks
    refine .ite (.next hs) (.ite (.next (.settle (.bistShow (.bistKeep (h2.modLane fun h => ?_)))))
      (.next (.bistShow (.ite h5.bistKeep h5))))
    exact (hbad h).bistMarks.setRole

protected theorem Canon.peatSelect {l seq} (h : Canon i l) : Canon i (peatSelect l seq) :=
  h.rset.fsetB

protected theorem CanonBoth.execPeatRsel {i' seq s} (hs : CanonBoth s) : CanonOut (execPeatRsel i' seq s) :=
  .ite (.next (hs.modLane fun h => h.peatSelect)) (.next hs)

protected theorem CanonBoth.execPeatReadLoaded {i' s} (hs : CanonBoth s) :
    CanonOut (execPeatReadLoaded i' s) :=
  .ite (.next hs)
    (.next (hs.modLane fun h => by
      split
      · exact .fsetB (.fsetB (.foldl h fun h => h.rset))
      · exact h.fsetB.fsetB))

protected theorem CanonBoth.execPeatEntryCommit {c s} (hs : CanonBoth s) :
    CanonOut (execPeatEntryCommit c s) :=
  .ite (.next (hs.modLane fun h => h.peatCommit.stkSeenIf)) (.next hs)

protected theorem CanonBoth.cartStart {n s} (hs : CanonBoth s) : CanonBoth (cartStart n s) :=
  .ite (hs.modLane fun h => .ite h h.railOff.same)
    (.dite (fun _ => hs.same) fun _ => .dite (fun _ => hs.same) fun _ => hs)

protected theorem CanonBoth.cartMarks {n in_ s} (hs : CanonBoth s) : CanonBoth (cartMarks n in_ s) :=
  .lanes
    (.ite
      (have h' := hs.la.showCarts.stkSeen.canPresence
       .ite h'.raiseO h') hs.la)
    (.ite
      (have h' := hs.lb.showCarts.stkSeen.canPresence
       .ite h'.raiseO h') hs.lb)

protected theorem CanonBoth.cartEnd {n s} (hs : CanonBoth s) : CanonBoth (cartEnd n s) :=
  .ite (.bistShow (.bistDrop (.bistKeep (hs.hoEnd.modLane fun h => h.railOff.same))))
    (.dite (fun _ => hs.linkDark) fun _ =>
      .dite (fun _ => hs.same.inRunning fun h => h.showCarts.fbkAbsent.canSilent) fun _ =>
        .ite hs.same hs.setSupply)

protected theorem CanonBoth.cartShow {s} (hs : CanonBoth s) : CanonBoth (cartShow s) :=
  .lanes (.ite hs.la.showCarts.canPresence hs.la) (.ite hs.lb.showCarts.canPresence hs.lb)

protected theorem CanonBoth.execCartridgeInserted {n ok s} (hs : CanonBoth s) :
    CanonOut (execCartridgeInserted n ok s) :=
  have hs1' := hs.same
  .ite
    (.next (.bistShow (.joinLanes (.settle (.permitLoss (.cartShow (.ite hs1'
      (.ite hs1'.cartStart hs1'.cartEnd))))))))
    (.next (.joinLanes (.wakeSeen (.settle (.permitLoss (.cartMarks (.ite hs1'.cartStart hs1')))))))

protected theorem CanonBoth.execCartridgeRemoved {n s} (hs : CanonBoth s) :
    CanonOut (execCartridgeRemoved n s) :=
  .ite (.next hs) (.next hs.same.cartEnd.cartMarks.permitLoss.settle.wakeSeen.joinLanes.bistShow)

/-! ### One current-loop period (R22 to R28) -/

protected theorem Canon.atBoundary {l t a} (h : Canon i l) : Canon i (atBoundary l t a) := by
  unfold atBoundary
  extract_lets l1 l2 l3 l4
  have h_l1 : Canon i l1 := .foldl h fun h => .modCop (.ite h.fset h)
  have h_l2 : Canon i l2 := .foldl h_l1 fun h => h.applyBand
  have h_l3 : Canon i l3 := h_l2.fset
  have h_l4 : Canon i l4 := .ite h_l3.reform h_l3
  exact h_l4.modAx

protected theorem Canon.preview {l a} (h : Canon i l) : Canon i (preview l a) :=
  have h' := h.atBoundary
  .modAx (.rset (.rset (.ite h'.fset h')))

protected theorem Canon.building {l a} (h : Canon i l) : Canon i (building l a) :=
  .ite h h.preview

protected theorem Canon.keepComputed {l p a} (h : Canon i p) : Canon i (keepComputed l p a) := by
  unfold keepComputed
  extract_lets old p1 p2 p3 p4 p5 x
  have hold {p ad} (h : Canon i p) : Canon i (old p ad) := h.rset
  have h1 : Canon i p1 := .foldl (hold h) fun h => hold h
  have h2 : Canon i p2 := h1.fset
  have h3 : Canon i p3 := .foldl h2 fun h => .modCop (hold h)
  have h4 : Canon i p4 := .foldl h3 fun h => .same (hold h)
  have h5 : Canon i p5 := .foldl h4 fun h => .modLeg (hold h)
  exact h5.modAx

protected theorem Canon.clearLegs {l a} (h : Canon i l) : Canon i (clearLegs l a) :=
  .foldl h fun h => h.modLeg

protected theorem Canon.copsOn {l a} (h : Canon i l) : Canon i (copsOn l a) :=
  .foldl (.foldl h fun h => .ite h.fset h) fun h => h.fset

protected theorem Canon.startPeriod0 {l now t a} (h : Canon i l) : Canon i (startPeriod0 l now t a) :=
  have h1' := h.clearLegs.modAx
  .ite h1' (.foldl h1'.copsOn.seedAxis.modAx fun h => .ite h.modGrp h)

protected theorem Canon.bankAxis {l a} (h : Canon i l) : Canon i (bankAxis l a) := by
  unfold bankAxis
  extract_lets kept was zero l1 l2 l3 l4 l5 l6 l7 l8 l9 l10 l11
  have h1 : Canon i l1 := h.fset
  have h4 : Canon i l4 := h1.fsetB.fset.fset.fset.fset
  have h5 : Canon i l5 := .foldl h4 fun h => .ite h.fset h
  have h7 : Canon i l7 := .foldl h5.showWeights fun h => h.fset
  have h8 : Canon i l8 := .updateRating (.foldl h7 fun h => h.modCop)
  have h9 : Canon i l9 := .ite h8.modAx h1.modAx
  have h10 : Canon i l10 := .foldl h9 fun h => h.legOff
  have h11 : Canon i l11 := .ite h9 h10.modAx
  exact h11.obsSummary.legSummary.moduleState

protected theorem Canon.cancelStart {l now a} (h : Canon i l) : Canon i (cancelStart l now a) :=
  have h' := h.modAx
  .bankAxis (.ite h'.fset.raiseO.stopsLeft.setBrake h')

protected theorem Canon.runningStart {l a} (h : Canon i l) : Canon i (runningStart l a) :=
  .ite h.modObs h

protected theorem Canon.boundaryStart {l now a} (h : Canon i l) : Canon i (boundaryStart l now a) := by
  unfold boundaryStart
  extract_lets l1 o l2 l3
  have h_l1 : Canon i l1 := h.atBoundary.updateRating
  have h_l2 : Canon i l2 := .ite h_l1.modObs h_l1
  have h_l3 : Canon i l3 := .ite h_l2.enterState h_l2
  exact .ite h_l3.bankAxis (.ite h_l3.runningStart h_l3)

protected theorem Canon.nextPeriodStart {l now a} (h : Canon i l) : Canon i (nextPeriodStart l now a) := by
  unfold nextPeriodStart
  extract_lets x l1 l2
  have h_l1 : Canon i l1 := h.modObs
  have h_l2 : Canon i l2 := .ite (.ite h_l1.cancelStart (.ite h_l1 h_l1.fset.moduleState)) h_l1
  exact .ite h_l2.boundaryStart h_l2

protected theorem Canon.endPeriod {l a} (h : Canon i l) : Canon i (endPeriod l a) :=
  h.modAx

protected theorem Canon.periodStartLane {now a l} (h : Canon i l) : Canon i (periodStartLane now a l) := by
  unfold periodStartLane
  extract_lets x l1 l2 t l3 l4 l5 l6 l7
  have h1 : Canon i l1 := .ite h.fset h
  have h2 : Canon i l2 := h1.endPeriod.modAx
  have h3 : Canon i l3 := h2.startPeriod0
  have h4 : Canon i l4 := by
    unfold l4
    split
    · refine .ite h2.nextPeriodStart (.ite h2.cancelStart (.ite ?_ h3.atBoundary))
      exact h3.takeWeights.atBoundary.updateRating.runningStart
    · exact h2.nextPeriodStart
  have h5 : Canon i l5 := .foldl h4 fun h => h.modLeg
  have h6 : Canon i l6 := .foldl h5 fun h => h.same
  have h7 : Canon i l7 := h6.showRaises
  exact .ite h (.ite h7.releaseClass h7)

protected theorem CanonBoth.tickBy {f s} (hs : CanonBoth s) : CanonBoth (tickBy f s) := by
  unfold tickBy
  split
  · exact hs.tickTo
  · exact hs

protected theorem Canon.consumeBrick {l p now keep ports b} (h : Canon i l) :
    Canon i (consumeBrick l p now keep ports b) :=
  have h2' := h.stkIfLate.consume.judgePorts.showDelays
  .ite h2'.decideBand h2'

protected theorem Canon.phaseA {l now a} (h : Canon i l) : Canon i (phaseA l now a) :=
  have h' := h.appliedAxis.governAngle
  .disturb (.observe (.hedgeCut (.parkAxis (.modObs (.ite (.foldl h' fun h => .foldl h fun h => h.modLeg)
    h'.reconAxis)))))

protected theorem Canon.cutoffLane {now a ports p l} (h : Canon i l) :
    Canon i (cutoffLane now a ports p l) := by
  unfold cutoffLane
  extract_lets x l1
  have h1 : Canon i l1 := .blkSummary (.foldl h fun h => h.consumeBrick)
  exact .ite h (.modAx (.ite h1.phaseA h1.hedgeCut))

protected theorem CanonBoth.execSampleCutoff {a s} (hs : CanonBoth s) : CanonOut (execSampleCutoff a s) :=
  have hs' := hs.tickBy
  .next (.settle (.lanes (.ite hs'.la.cutoffLane hs'.la) (.ite hs'.lb.cutoffLane hs'.lb)))

protected theorem Canon.zeroWatch {l now a} (h : Canon i l) : Canon i (zeroWatch l now a) :=
  .ite h.modAx h.fsetB.modAx

protected theorem Canon.distVoltage {l a idr} (h : Canon i l) : Canon i (distVoltage l a idr).1 :=
  h.modAx

protected theorem Canon.limitV {l s lim v} (h : Canon i l) : Canon i (limitV l s lim v).1 :=
  .ite h.reportClamp h

protected theorem Canon.currentLoop {l now a idr iqr vqd w d q} (h : Canon i l) :
    Canon i (currentLoop l now a idr iqr vqd w d q).1 := by
  unfold currentLoop
  extract_lets o z ld lq psi l1 l2 out vd vq vmax m l3
  have h_l1 : Canon i l1 := .ite h.modSlot.modSlot h
  have h_l2 : Canon i l2 := .ite h_l1 h_l1.loopStage.loopStage
  have h_l3 : Canon i l3 := h_l2.stkIfLate
  exact h_l3.limitV.limitV.modAx

protected theorem Canon.currentLoops {l now a} (h : Canon i l) : Canon i (currentLoops l now a) :=
  have h' := Canon.iteFst h h.currentRefs
  .modAx (.foldlFst
    (.distVoltage (by
      split
      · exact h'.reportClamp
      · exact h')) fun h => h.currentLoop)

protected theorem Canon.sixStep {l a} (h : Canon i l) : Canon i (sixStep l a) :=
  .ite (.ite h.modObs h) (.ite h.stkLate.modObs h)

protected theorem Canon.showIndex {l a} (h : Canon i l) : Canon i (showIndex l a) :=
  h.fset.fset

protected theorem Canon.modulate {l a} (h : Canon i l) : Canon i (modulate l a) :=
  .checkModes (.foldl h fun h => .foldl h fun h => h.modCoppice)

protected theorem Canon.formEdges {p now a} (h : Canon i p) : Canon i (formEdges p now a) :=
  have h' := h.energyHost
  .foldl (.ite (.modulate (.ite h' h'.sixStep)) h'.checkModes) fun h => .ite h h.placeInstants

protected theorem Canon.latchLane {now a ups l} (h : Canon i l) : Canon i (latchLane now a ups l) := by
  unfold latchLane
  extract_lets x l1 m1 m2 m3 m4 m5 l2 l3 run
  have h1 : Canon i l1 := .foldl h fun h => h.slotUpset
  have hm4 : Canon i m4 :=
    h1.rotorLatch.hedgeLatch.zeroWatch.stateLatch.tension.heave.chainStages.takeWeights.updateRating
  have hm5 : Canon i m5 := .ite hm4.modAx hm4.formT
  have h2 : Canon i l2 := .ite hm5.currentLoops.balance h1.hedgeLatch.stateLatch
  have h3 : Canon i l3 := .ite h2.formEdges h2.preview.formEdges.keepComputed
  exact .ite h h3.modAx.lpeSummary

protected theorem Canon.axisOverrun {l now a} (h : Canon i l) : Canon i (axisOverrun l now a) :=
  .ite h
    (have h1' := h.modAx.fcount.fset
     .ite h1'.stkLate.raiseO h1')

protected theorem Canon.frameFor {late p l a t1 b} (h1 : Canon i l) :
    Canon i (frameFor late p l a t1 b).1 := by
  unfold frameFor
  dsimp only
  split
  · exact h1.markSent
  · exact .markSent (.foldl h1 fun h => .ite h.modLeg h.modLeg)

protected theorem Canon.framesOf {late p l a t1} (h1 : Canon i l) : Canon i (framesOf late p l a t1).1 :=
  .foldlFst h1 fun h => h.frameFor

protected theorem Canon.publishAxis {l now a} (h : Canon i l) : Canon i (publishAxis l now a) := by
  unfold publishAxis
  extract_lets l1 x l2 l3 l4 l5 l6
  have h1 : Canon i l1 := h.showIndex.publishObs.publishChain.groupRelease
  have h4 : Canon i l4 := h1.fsetI.fsetB.fsetB.fsetB.fsetB
  have h6 : Canon i l6 := h4.fsetI.fsetI.fsetI
  exact h6.capRecord.obsSummary.lpeSummary.legSummary

protected theorem Canon.edgeOutLane {now a late l} (h : Canon i l) : Canon i (edgeOutLane now a late l).1 :=
  .iteFst
    (have h' := h.modAx.lpeSummary
     have h2' := Canon.framesOf (.ite h'.stkLate.axisOverrun h')
     .energyHostEnd (.ite h2'.publishAxis h2'))
    (.iteFst (.modAx (.foldl h.framesOf fun h => h.same)) (by
      split
      · exact h.framesOf
      · exact h))

protected theorem CanonBoth.execEdgeOut {a laneA laneB s} (hs : CanonBoth s) :
    CanonOut (execEdgeOut a laneA laneB s) :=
  have hs' := hs.tickBy
  .next (.settle (.foldl
    (.foldl (.lanes (.iteFst hs'.la.edgeOutLane hs'.la) (.iteFst hs'.lb.edgeOutLane hs'.lb)) fun hs =>
      hs.sendFrame) fun hs => hs.sendFrame))

/-! ### The 1 ms tick and the T2 and T3 releases (R83) -/

protected theorem Canon.keepFrames {now t1 l} (h : Canon i l) : Canon i (keepFrames now t1 l).1 :=
  .foldlFst h fun h => .iteFst h.markSent h

protected theorem Canon.keepBrick {p now ports l b} (h1 : Canon i l) :
    Canon i (keepBrick p now ports l b) :=
  .ite h1.consumeBrick.applyBand.same h1

protected theorem Canon.bankedAsk {now l a} (h : Canon i l) : Canon i (bankedAsk now l a) := by
  unfold bankedAsk
  dsimp only
  split
  · exact .ite h h.modAx.enterState
  · exact h

protected theorem Canon.linkTick {now send p l} (h1 : Canon i l) : Canon i (linkTick now send p l) :=
  .blkSummary (.fset (.mreqTick (.foldl (.foldl h1 fun h => h.mrspTick) fun h => h.discTick)))

protected theorem Canon.t1Lane {now d ports send p l} (h : Canon i l) :
    Canon i (t1Lane now d ports send p l) := by
  unfold t1Lane
  extract_lets n l1 l2 l3 l4 l5 l6 l7
  have h1 : Canon i l1 := .foldl h fun h => h.keepBrick
  have h2 : Canon i l2 := h1.fbkTick.thmTick
  have h3 : Canon i l3 := h2.cordTick.canPresence
  have h4 : Canon i l4 := h3.linkTick.governBits
  have h5 : Canon i l5 := h4.domainTick.awakeTick
  have h6 : Canon i l6 := .foldl h5 fun h => h.bankedAsk
  have h7 : Canon i l7 := h6.imageStarts
  exact .releaseClass (.showRaises (.emberTick h7.same))

protected theorem Canon.bootLane {now ports send p l} (h1 : Canon i l) :
    Canon i (bootLane now ports send p l) :=
  .same (.showRaises (.linkTick (.foldl h1 fun h => h.keepBrick)))

protected theorem Canon.tickLane {now d ports send p l} (h1 : Canon i l) :
    Canon i (tickLane now d ports send p l) :=
  .ite h1.t1Lane (.ite h1.bootLane h1)

protected theorem CanonBoth.tickUnits {s} (hs : CanonBoth s) : CanonBoth (tickUnits s) :=
  .foldl hs.unitEnd fun hs => .ite hs.unitEnd hs

protected theorem CanonBoth.sendKeep {dn s} (hs : CanonBoth s) : CanonBoth (sendKeep dn s) :=
  .foldl
    (.foldl (.lanes (.iteFst hs.la.keepFrames hs.la) (.iteFst hs.lb.keepFrames hs.lb)) fun hs =>
      hs.sendFrame) fun hs => hs.sendFrame

/-! ### Axis commands and the timers of an axis (R125 to R256) -/

protected theorem Canon.coppiceReturn {l a} (h : Canon i l) : Canon i (coppiceReturn l a) :=
  .stkIf (.foldl h fun h => .ite h.modCop h)

protected theorem Canon.cmdCommit {l a v} (h : Canon i l) : Canon i (cmdCommit l a v) :=
  .ite h.coppiceReturn h.fset.modeCommand

protected theorem CanonBoth.modeRow {a m s} (hs : CanonBoth s) : CanonOut (modeRow a m s) :=
  .next (.settle (hs.inRunning fun h => h.cmdCommit))

protected theorem CanonBoth.execModeRun {a s} (hs : CanonBoth s) : CanonOut (execModeRun a s) :=
  hs.modeRow

protected theorem CanonBoth.execModeProfile {a s} (hs : CanonBoth s) : CanonOut (execModeProfile a s) :=
  hs.modeRow

protected theorem CanonBoth.execModeStop2 {a s} (hs : CanonBoth s) : CanonOut (execModeStop2 a s) :=
  hs.modeRow

protected theorem CanonBoth.execModeStop1 {a s} (hs : CanonBoth s) : CanonOut (execModeStop1 a s) :=
  hs.modeRow

protected theorem CanonBoth.execModeHold {a s} (hs : CanonBoth s) : CanonOut (execModeHold a s) :=
  hs.modeRow

protected theorem CanonBoth.execModeImstop {a s} (hs : CanonBoth s) : CanonOut (execModeImstop a s) :=
  hs.modeRow

protected theorem CanonBoth.execCret {a s} (hs : CanonBoth s) : CanonOut (execCret a s) :=
  .next (.settle (hs.inRunning fun h => h.cmdCommit))

protected theorem CanonBoth.timerRow {due act s} (hs : CanonBoth s) (hf : ∀ {x0 x1 i}, Canon i x1 → Canon i
    (act x0 x1)) :
    CanonOut (timerRow due act s) :=
  .next (.settle (hs.tickBy.inRunning fun h => by
    split
    · exact .ite (hf h) h
    · exact h))

protected theorem CanonBoth.execZeroSpeedDeclared {a s} (hs : CanonBoth s) :
    CanonOut (execZeroSpeedDeclared a s) :=
  hs.timerRow fun h => h.fsetB

protected theorem CanonBoth.execBrakeEngageEnd {a s} (hs : CanonBoth s) :
    CanonOut (execBrakeEngageEnd a s) :=
  hs.timerRow fun h => h.modAx

protected theorem CanonBoth.execTorqueReleaseEnd {a s} (hs : CanonBoth s) :
    CanonOut (execTorqueReleaseEnd a s) :=
  hs.timerRow fun h => h.modAx

protected theorem CanonBoth.execRideThroughTimeout {a s} (hs : CanonBoth s) :
    CanonOut (execRideThroughTimeout a s) :=
  hs.timerRow fun h => h.modAx.stkLate.raiseO

protected theorem CanonBoth.execHeaveStale {a s} (hs : CanonBoth s) : CanonOut (execHeaveStale a s) :=
  .next (.settle (hs.inRunning fun h => .ite h.heaveStale h))

protected theorem CanonBoth.execFluxBrakingBudget {a s} (hs : CanonBoth s) :
    CanonOut (execFluxBrakingBudget a s) :=
  .next (hs.inRunning fun h => .ite h.modAx.fluxEnd h)

protected theorem CanonBoth.execHoldWindowExpiry {a s} (hs : CanonBoth s) :
    CanonOut (execHoldWindowExpiry a s) :=
  hs.timerRow fun h => by
    split
    · exact h.holdEnd
    · exact h

protected theorem CanonBoth.execDecayTimeout {a s} (hs : CanonBoth s) : CanonOut (execDecayTimeout a s) :=
  hs.timerRow fun h => h.modObs

protected theorem Canon.ocmdCommit {l now a v} (h : Canon i l) : Canon i (ocmdCommit l now a v) := by
  unfold ocmdCommit
  extract_lets l1
  have h_l1 : Canon i l1 := .ite h.modObs h
  exact .ite h_l1.toMode.modObs h_l1

protected theorem CanonBoth.execResume {a s} (hs : CanonBoth s) : CanonOut (execResume a s) :=
  .next (hs.inRunning fun h => h.ocmdCommit)

protected theorem CanonBoth.execReacq {a s} (hs : CanonBoth s) : CanonOut (execReacq a s) :=
  .next (hs.inRunning fun h => h.ocmdCommit)

protected theorem Canon.tabCommit {l a t} (h : Canon i l) : Canon i (tabCommit l a t) :=
  .ite h.fset h.stk

protected theorem Canon.modCommit {l a v} (h : Canon i l) : Canon i (modCommit l a v) :=
  h.tabCommit.fset.fset

protected theorem CanonBoth.execTab {a t s} (hs : CanonBoth s) : CanonOut (execTab a t s) :=
  .next (hs.inRunning fun h => h.tabCommit)

protected theorem CanonBoth.execOvmDmod {a ovm dmod s} (hs : CanonBoth s) :
    CanonOut (execOvmDmod a ovm dmod s) :=
  .next (hs.inRunning fun h => .ite h.stk h.fset.fset)

protected theorem Canon.slotMode {l k v} (h : Canon i l) : Canon i (slotMode l k v) :=
  h.fset.modSlot

protected theorem Canon.lpeModeCommit {l k v} (h : Canon i l) : Canon i (lpeModeCommit l k v) :=
  have h' := h.slotMode
  .ite h'.modSlot h'

protected theorem CanonBoth.execModeToAuto {k s} (hs : CanonBoth s) : CanonOut (execModeToAuto k s) :=
  .next (hs.inRunning fun h => h.slotMode)

protected theorem CanonBoth.execModeToManual {k s} (hs : CanonBoth s) : CanonOut (execModeToManual k s) :=
  .next (hs.inRunning fun h => h.slotMode)

protected theorem CanonBoth.execClr {k s} (hs : CanonBoth s) : CanonOut (execClr k s) :=
  .next (hs.inRunning fun h => h.lpeModeCommit)

protected theorem Canon.spCommit {l k v} (h : Canon i l) : Canon i (spCommit l k v) :=
  have h' := h.rset
  .ite h'.modSlot h'

protected theorem CanonBoth.execEngineOperationComplete {i' up s} (hs : CanonBoth s) :
    CanonOut (execEngineOperationComplete i' up s) :=
  .ite (.next (.settle (hs.modLane fun h => h.engineDo.dispatchAll))) (.next hs)

protected theorem Canon.cctlWrite {l v} (h : Canon i l) : Canon i (cctlWrite l v) :=
  have h' := h.rset.wantDomains
  .ite h'.capAbort (.ite h'.capArm h')

protected theorem CanonBoth.execArm {s} (hs : CanonBoth s) : CanonOut (execArm s) :=
  .next (hs.inRunning fun h => h.cctlWrite)

protected theorem CanonBoth.execCaptureAbort {s} (hs : CanonBoth s) : CanonOut (execCaptureAbort s) :=
  .next (hs.inRunning fun h => h.cctlWrite)

protected theorem CanonBoth.execChclr {mask s} (hs : CanonBoth s) : CanonOut (execChclr mask s) :=
  .next (hs.inRunning fun h => h.chopClear)

/-! ### Block-float instructions (R67) -/

protected theorem CanonBoth.execFadd {i' rd ra rb s} (hs : CanonBoth s) :
    CanonOut (execFadd i' rd ra rb s) :=
  .next hs.issueBf

protected theorem CanonBoth.execFsub {i' rd ra rb s} (hs : CanonBoth s) :
    CanonOut (execFsub i' rd ra rb s) :=
  .next hs.issueBf

protected theorem CanonBoth.execFmul {i' rd ra rb s} (hs : CanonBoth s) :
    CanonOut (execFmul i' rd ra rb s) :=
  .next hs.issueBf

protected theorem CanonBoth.execFmac {i' rd ra rb s} (hs : CanonBoth s) :
    CanonOut (execFmac i' rd ra rb s) :=
  .next hs.issueBf

protected theorem CanonBoth.execFmin {i' rd ra rb s} (hs : CanonBoth s) :
    CanonOut (execFmin i' rd ra rb s) :=
  .next hs.issueBf

protected theorem CanonBoth.execFmax {i' rd ra rb s} (hs : CanonBoth s) :
    CanonOut (execFmax i' rd ra rb s) :=
  .next hs.issueBf

protected theorem CanonBoth.execFabs {i' rd ra s} (hs : CanonBoth s) : CanonOut (execFabs i' rd ra s) :=
  .next hs.issueBf

protected theorem CanonBoth.execFneg {i' rd ra s} (hs : CanonBoth s) : CanonOut (execFneg i' rd ra s) :=
  .next hs.issueBf

protected theorem CanonBoth.execFnorm {i' rd ra s} (hs : CanonBoth s) : CanonOut (execFnorm i' rd ra s) :=
  .next hs.issueBf

protected theorem CanonBoth.execFfix {i' rd ra k s} (hs : CanonBoth s) : CanonOut (execFfix i' rd ra k s) :=
  .next hs.issueBf

protected theorem CanonBoth.execFflt {i' rd ra k s} (hs : CanonBoth s) : CanonOut (execFflt i' rd ra k s) :=
  .next hs.issueBf

protected theorem CanonBoth.execFscl {i' rd ra imm s} (hs : CanonBoth s) :
    CanonOut (execFscl i' rd ra imm s) :=
  .next hs.issueBf

/-! ### Control flow (R60 to R62) -/

protected theorem CanonBoth.execBr {i' off s} (hs : CanonBoth s) : CanonOut (execBr i' off s) :=
  .next (hs.issueG (fun h => h.skipNext) fun h => .ok h.putCur)

protected theorem CanonBoth.execCall {i' target s} (hs : CanonBoth s) : CanonOut (execCall i' target s) :=
  .next (hs.issueG (fun h => h.skipNext) fun h => .ok h.putCur)

protected theorem CanonBoth.execRet {i' s} (hs : CanonBoth s) : CanonOut (execRet i' s) :=
  .next (hs.issueG (fun h => h.skipNext) fun h => by
    dsimp only
    split <;> exact .ok h.putCur)

protected theorem CanonBoth.execLoop {i' ra n s} (hs : CanonBoth s) : CanonOut (execLoop i' ra n s) :=
  .next (hs.issueG (fun h => h.putCur) fun h => .ite (.exc h) (.ite (.ok h.putCur) (.ok h.putCur)))

protected theorem CanonBoth.execEndl {i' s} (hs : CanonBoth s) : CanonOut (execEndl i' s) :=
  .next (hs.issueG (fun h => h.skipNext) fun h => by
    dsimp only
    split
    · exact .ite (.ok h.putCur) (.ok h.putCur)
    · exact .ok h.putCur)

protected theorem CanonBoth.execBrkl {i' s} (hs : CanonBoth s) : CanonOut (execBrkl i' s) :=
  .next (hs.issueG (fun h => h.skipNext) fun h => by
    dsimp only
    split <;> exact .ok h.putCur)

protected theorem CanonBoth.execIll {i' s} (hs : CanonBoth s) : CanonOut (execIll i' s) :=
  .next (hs.issueG (fun h => h.skipNext) fun h => .exc h)

/-! ### The service port, the key switch and the button (R13, R437, R438) -/

protected theorem Canon.noSafe {l} (h : Canon i l) : Canon i (noSafe l) :=
  h.same.fsetB

protected theorem Canon.safeClear {key l} (h : Canon i l) : Canon i (safeClear key l) :=
  .ite h.noSafe h.fltStk

protected theorem CanonBoth.resumePermits {s} (hs : CanonBoth s) : CanonBoth (resumePermits s) :=
  hs.same

protected theorem CanonBoth.execSafeclr {s} (hs : CanonBoth s) : CanonOut (execSafeclr s) :=
  .next (.resumePermits (hs.inRunning fun h => h.safeClear))

protected theorem CanonBoth.protRec {code res s} (hs : CanonBoth s) : CanonBoth (protRec code res s) :=
  .settle (.modLane (.lanes (.ite hs.la.peatWrite hs.la) (.ite hs.lb.peatWrite hs.lb)) fun h =>
    .ite h.fmWrite h)

protected theorem CanonBoth.keyCmd {code f s} (hs : CanonBoth s) (hf : ∀ {x0}, CanonBoth x0 → CanonBoth
    (f x0).1) :
    CanonOut (keyCmd code f s) :=
  .ite (.next hs.protRec) (.next (.protRec (hf hs)))

protected theorem Canon.loadBank {im l} (h : Canon i l) : Canon i (loadBank im l) :=
  h.same

protected theorem CanonBoth.execImageLoad {im s} (hs : CanonBoth s) : CanonOut (execImageLoad im s) :=
  hs.keyCmd fun hs =>
    .iteFst hs (.iteFst hs (.lanes (.ite hs.la.loadBank hs.la) (.ite hs.lb.loadBank hs.lb)))

protected theorem CanonBoth.restartLane {i' s} (hs : CanonBoth s) : CanonBoth (restartLane i' s) :=
  .ite (.startLane (.settle (hs.modLane fun h => h.setRole))) hs

protected theorem CanonBoth.activate {s} (hs : CanonBoth s) : CanonBoth (activate s).1 :=
  .iteFst hs
    (.restartLane (.restartLane (.settle (.lanes (.ite hs.la.setRole hs.la) (.ite hs.lb.setRole hs.lb)))))

protected theorem CanonBoth.execRollingSelftestPeriod {hours s} (hs : CanonBoth s) :
    CanonOut (execRollingSelftestPeriod hours s) := by
  unfold execRollingSelftestPeriod
  refine hs.keyCmd fun {s} hs => ?_
  dsimp only
  exact hs.setFrame

protected theorem CanonBoth.execBistActiveLane {s} (hs : CanonBoth s) : CanonOut (execBistActiveLane s) := by
  unfold execBistActiveLane
  split
  · exact .next hs.protRec
  · exact .ite (.next hs.bistCmd.settle) (hs.keyCmd fun hs => .iteFst hs.bistCmd.settle hs)

protected theorem CanonBoth.execLaneRestart {i' s} (hs : CanonBoth s) : CanonOut (execLaneRestart i' s) :=
  hs.keyCmd fun hs => .iteFst (.startLane (hs.modLane fun h => h.same)) hs

protected theorem CanonBoth.execImageSync {i' s} (hs : CanonBoth s) : CanonOut (execImageSync i' s) :=
  hs.keyCmd fun hs => by
    dsimp only
    split
    · exact .iteFst (.startLane (hs.modLane fun h => h.loadBank)) hs
    · exact hs

protected theorem CanonBoth.execS6Release {s} (hs : CanonBoth s) : CanonOut (execS6Release s) :=
  hs.keyCmd fun hs => .iteFst (.resumePermits (hs.inRunning fun h => h.noSafe)) hs

protected theorem CanonBoth.forceRole {i' active s} (hs : CanonBoth s) :
    CanonBoth (forceRole i' active s).1 :=
  .iteFst (.iteFst hs (.iteFst hs.wantHandover.settle hs))
    (.iteFst (.settle (hs.modLane fun h => h.setRole)) (.iteFst hs hs))

protected theorem CanonBoth.protExec {c s} (hs : CanonBoth s) : CanonBoth (protExec c s).1 := by
  unfold protExec
  split
  · exact hs.activate
  · exact .lanes (.ite hs.la.same.fset.fset.fsetB.fsetB.stk hs.la)
      (.ite hs.lb.same.fset.fset.fsetB.fsetB.stk hs.lb)
  · exact hs.fmRing
  · exact hs.setFrame.permitLoss
  · exact hs.forceRole

protected theorem CanonBoth.protAsk {c s} (hs : CanonBoth s) : CanonOut (protAsk c s) :=
  .ite (.next hs.protRec) (by
    split
    · exact .next hs.protRec
    · exact .next hs.same)

protected theorem CanonBoth.execImageActivation {s} (hs : CanonBoth s) : CanonOut (execImageActivation s) :=
  hs.protAsk

protected theorem CanonBoth.execPeatLogClear {s} (hs : CanonBoth s) : CanonOut (execPeatLogClear s) :=
  hs.protAsk

protected theorem CanonBoth.execFrameMemoryEventClear {s} (hs : CanonBoth s) :
    CanonOut (execFrameMemoryEventClear s) :=
  hs.protAsk

protected theorem CanonBoth.execStoConfiguration {cfg s} (hs : CanonBoth s) :
    CanonOut (execStoConfiguration cfg s) :=
  hs.protAsk

protected theorem CanonBoth.execForceRoles {i' active s} (hs : CanonBoth s) :
    CanonOut (execForceRoles i' active s) :=
  hs.protAsk

protected theorem CanonBoth.execPresenceButton {ms s} (hs : CanonBoth s) :
    CanonOut (execPresenceButton ms s) :=
  .ite (.next hs)
    (have hs' := hs.raiseAll.settle.wakeSeen
     by
       dsimp only
       split
       · exact .next hs'
       · exact
           have hs1' := hs'.same
           .next (.protRec (.iteFst hs1' (.iteFst hs1'.protExec hs1'))))

protected theorem CanonBoth.execPresenceRequestTimeout {s} (hs : CanonBoth s) :
    CanonOut (execPresenceRequestTimeout s) := by
  unfold execPresenceRequestTimeout
  split
  · exact .next hs
  · exact .next hs.same.tickTo.protRec

protected theorem CanonBoth.execKeySwitchChange {service s} (hs : CanonBoth s) :
    CanonOut (execKeySwitchChange service s) := by
  unfold execKeySwitchChange
  extract_lets s1
  have h1 : CanonBoth s1 := hs.same.raiseAll.settle.wakeSeen
  refine .ite (.next hs) ?_
  split
  · exact .ite (.next h1) (.next h1.same.protRec)
  · exact .next h1

protected theorem CanonBoth.execPeatLogRead {i' seq s} (hs : CanonBoth s) :
    CanonOut (execPeatLogRead i' seq s) :=
  .next hs.same

protected theorem CanonBoth.execFrameMemoryRead {n s} (hs : CanonBoth s) :
    CanonOut (execFrameMemoryRead n s) :=
  .next hs.same

protected theorem CanonBoth.execCaptureUpload {i' rec s} (hs : CanonBoth s) :
    CanonOut (execCaptureUpload i' rec s) :=
  .ite (.next hs) (.next hs.same)

/-! ### Committed stores (R59, R104 to R107) -/

protected theorem Canon.doutCommit {l o on} (h : Canon i l) : Canon i (doutCommit l o on) := by
  unfold doutCommit
  split
  · exact h.stk
  · exact h.driveOutput

protected theorem Canon.takeFields {l a v} (h : Canon i l) : Canon i (takeFields l a v) := by
  generalize hf : takeFields = f
  delta takeFields at hf
  subst hf
  beta_reduce
  cases findReg a with
  | none => exact h
  | some d => exact h.rset

protected theorem Canon.axsCommit {l now a v} (h : Canon i l) : Canon i (axsCommit l now a v) :=
  .ite (.ite h.axisEnable h.axisDisable)
    (.ite h.modCommit (.ite h.ocmdCommit (.ite h.cmdCommit h.takeFields)))

protected theorem Canon.lpeCommit {l now a v} (h : Canon i l) : Canon i (lpeCommit l now a v) :=
  .ite (.ite h.spCommit (.ite h.lpeModeCommit h.takeFields)) h.injectCommit

protected theorem Canon.shrCommit {rest l a v} (h : Canon i l) : Canon i (shrCommit rest l a v) :=
  .ite h.chopClear
    (have h' := h.takeFields
     .ite h'.heaveEntry h')

protected theorem Canon.fbkCommit {l now a v} (h : Canon i l) : Canon i (fbkCommit l now a v) := by
  unfold fbkCommit
  extract_lets e c
  exact .fbkSummary (.ite h.compareCommit
    (.ite h.compareCommit
      (.ite h.compareCommit
        (.ite h.pulseCommit
          (.ite (.ite (.probeArm (.ite h.chanClear h)) (.ite h.chanClear h)) h.takeFields)))))

protected theorem Canon.fioCommit {l now a v} (h : Canon i l) : Canon i (fioCommit l now a v) :=
  .ite h.srelLane (.ite h.oclrLane (.ite h.counterClear h.takeFields))

protected theorem Canon.applyEntry {key now whole rest l a v} (h : Canon i l) :
    Canon i (applyEntry key now whole rest l a v) :=
  .ite h.doutCommit
    (.ite h.stk (by
      split
      · exact h.itemCommit
      · exact h.axsCommit
      · exact h.lpeCommit
      · exact h.shrCommit
      · exact h.rediscoverLane
      · exact h.fbkCommit
      · exact h.fioCommit
      · exact h.denCommit
      · exact .ite h.safeClear h
      · exact .ite h.ask h
      · exact .ite h.cordIssue h.takeFields
      · exact .ite h.ask h.takeFields
      · exact h.takeFields))

protected theorem Canon.applyBuf {key now whole b l} (h : Canon i l) :
    Canon i (applyBuf key now whole b l) := by
  induction b generalizing l with
  | nil => exact h
  | cons e rest ih => exact ih h.applyEntry

protected theorem Canon.takeBuffer {key now l c k} (h : Canon i l) : Canon i (takeBuffer key now l c k) :=
  h.applyBuf.putTask

protected theorem Canon.bufferStore {l c a v} (h : Canon i l) : Canon i (bufferStore l c a v).1 :=
  .iteFst h.putCur (.iteFst h.stk h.putCur)

protected theorem CanonBoth.afterCommit {old s} (hs1 : CanonBoth s) : CanonBoth (afterCommit old s) :=
  .settle (.ite hs1.resumePermits hs1)

protected theorem Canon.taskOverrun {l now t} (h : Canon i l) : Canon i (taskOverrun l now t) :=
  have h1' := h.putTask.stkLate.fcount
  .ite h1'.axisOverrun h1'.raiseO

protected theorem Canon.commitLane {key now t l} (h : Canon i l) : Canon i (commitLane key now t l) := by
  unfold commitLane
  split
  · exact h
  · exact .ite h (.ite h.takeBuffer h.taskOverrun)

/-! ### Instants that coincide (R85, R106) -/

protected theorem Canon.commitsLane {key now l} (h : Canon i l) : Canon i (commitsLane key now l) :=
  .foldl h fun h => h.commitLane

protected theorem CanonBoth.commitsDue {s} (hs : CanonBoth s) : CanonBoth (commitsDue s) :=
  .ite (.afterCommit (hs.inRunning fun h => h.commitsLane)) hs

protected theorem CanonBoth.execCommitInstant {t s} (hs : CanonBoth s) : CanonOut (execCommitInstant t s) :=
  .next hs.tickBy.commitsDue

protected theorem CanonBoth.execPeriodStart {a s} (hs : CanonBoth s) : CanonOut (execPeriodStart a s) :=
  .next (.settle (hs.tickBy.commitsDue.bricksPeriod.inRunning fun h => h.periodStartLane))

protected theorem CanonBoth.execSetpointLatch {x s} (hs : CanonBoth s) : CanonOut (execSetpointLatch x s) :=
  .next (.settle (hs.tickBy.commitsDue.inRunning fun h => h.latchLane))

protected theorem CanonBoth.execPeriodEnd {a s} (hs : CanonBoth s) : CanonOut (execPeriodEnd a s) :=
  have hs' := hs.tickBy.commitsDue
  .ite (.next (hs'.unitEnd.inRunning fun h => h.endPeriod)) (.next hs')

protected theorem CanonBoth.execT1Tick {d s} (hs : CanonBoth s) : CanonOut (execT1Tick d s) := by
  unfold execT1Tick
  extract_lets t s0 s1 ports send s2
  have h0 : CanonBoth s0 := hs.tickTo
  have h1 : CanonBoth s1 := h0.same.commitsDue.bricksPeriod
  have h2 : CanonBoth s2 := .lanes h1.la.tickLane h1.lb.tickLane
  exact .next h2.settle.tickUnits.sendKeep.bootDone.bistShow

protected theorem CanonBoth.execT2Release {s} (hs : CanonBoth s) : CanonOut (execT2Release s) :=
  .next (hs.commitsDue.inRunning fun h => .ite h.releaseClass h)

protected theorem CanonBoth.execT3Release {s} (hs : CanonBoth s) : CanonOut (execT3Release s) :=
  .next (hs.commitsDue.inRunning fun h => .ite h.releaseClass h)

/-! ### Reads and writes of the block registers (R6 to R10, R43) -/

protected theorem Canon.eccCleared {l a} (h : Canon i l) : Canon i (eccCleared l a) :=
  h.same

protected theorem Canon.regLoad {l a} (h : Canon i l) : Canon i (regLoad l a).1 := by
  generalize hp : regLoad l a = p
  generalize hf : regLoad = f at hp
  delta regLoad at hf
  subst hf
  beta_reduce at hp
  cases hr : findReg a with
  | none =>
    rw [hr] at hp
    exact hp ▸ h
  | some d =>
    rw [hr] at hp
    dsimp only at hp
    split at hp
    · exact hp ▸ h
    · exact hp ▸ h.eccCleared.rset.same

protected theorem Canon.plainWrite {l a v} (h : Canon i l) : Canon i (plainWrite l a v) := by
  generalize hf : plainWrite = f
  delta plainWrite at hf
  subst hf
  beta_reduce
  cases findReg a with
  | none => exact h
  | some d => exact h.rset

protected theorem Canon.lpeWrite {l a v} (h : Canon i l) : Canon i (lpeWrite l a v) :=
  .ite h.cctlWrite
    (.ite (.ite h h.plainWrite) (.ite (.ite h (.ite (.ite h h.stk) h.plainWrite)) h.plainWrite))

protected theorem Canon.slotWrite {key l a v} (h : Canon i l) : Canon i (slotWrite key l a v) := by
  unfold slotWrite
  exact .ite h.stk
    (.ite h.mreqStart
      (.ite (.ite h.dormWrite h)
        (.ite h.peatSelect
          (.ite h.lpeWrite (by
            split
            · exact .ite h.plainWrite.fset h.plainWrite
            · exact h.plainWrite)))))

protected theorem Canon.regStore {key l c a v} (h : Canon i l) : Canon i (regStore key l c a v).1 :=
  .iteFst (.iteFst (.iteFst h.stk (.iteFst h.slotWrite.bufferStore h.bufferStore)) h.bufferStore)
    h.slotWrite

protected theorem Canon.progWrite {key now l a v} (h : Canon i l) : Canon i (progWrite key now l a v) := by
  unfold progWrite
  exact .ite h.stk (.ite (.applyEntry (.ite h.slotWrite h)) (.ite h.slotWrite h))

protected theorem CanonBoth.execRegisterWrite {i' addr val s} (hs : CanonBoth s) :
    CanonOut (execRegisterWrite i' addr val s) :=
  .ite
    (by
      split
      · exact .next (.afterCommit (hs.modLane fun h => h.progWrite))
      · exact .next hs) (.next hs)

protected theorem CanonBoth.execRcRead {i' addr s} (hs : CanonBoth s) : CanonOut (execRcRead i' addr s) :=
  .ite
    (by
      split
      · exact .next (.same (hs.putLane hs.laneOf.regLoad))
      · exact .next hs) (.next hs)

protected theorem CanonBoth.execExcClear {i' c s} (hs : CanonBoth s) : CanonOut (execExcClear i' c s) :=
  .ite (.next (hs.modLane fun h => h.slotWrite)) (.next hs)

/-! ### Loads, stores and error correction (R40 to R46) -/

protected theorem Canon.waitSlot {l c cost} (h : Canon i l) : Canon i (waitSlot l c cost) :=
  h.setCyc.atCycle

protected theorem Canon.land {l c slot lat rd v} (h : Canon i l) : Canon i (land l c slot lat rd v) :=
  have h' := h.putCur
  .ite h' h'.putCore

protected theorem Canon.memMerge {l a n v} (h : Canon i l) : Canon i (memMerge l a n v) :=
  h.mset32

protected theorem Canon.loadEff {i' rd a n conv up l} (h : Canon i l) :
    CanonEff i (loadEff i' rd a n conv up l) := by
  have h' : Canon i (waitSlot l i'.core 1) := h.waitSlot
  refine .ite h (.ite h (.ite (.ok h'.regLoad.land) ?_))
  split
  next => exact .exc h'.eccSet
  next m pen hm => exact .ok (eccRead_canon h' hm).land

protected theorem Canon.storeEff {i' key a n v up l} (h : Canon i l) :
    CanonEff i (storeEff i' key a n v up l) := by
  have h' : Canon i (waitSlot l i'.core 1) := h.waitSlot
  refine .ite h (.ite h (.ite (.ok (.putCur (.ite h'.regStore.foldStore h'.regStore)))
    (.ite (.ok h'.eccSet.mset32.foldStore.putCur) ?_)))
  split
  next => exact .exc h'.eccSet
  next m pen hm => exact .ok (eccRead_canon h' hm).memMerge.foldStore.putCur

protected theorem Canon.amoEff {i' rd a f up l} (h : Canon i l) : CanonEff i (amoEff i' rd a f up l) := by
  have h' : Canon i (waitSlot l i'.core 2) := h.waitSlot
  refine .ite h (.ite h ?_)
  split
  next => exact .exc h'.eccSet
  next m pen hm => exact .ok (eccRead_canon h' hm).mset32.foldStore.land

protected theorem Canon.crossbarRetryLane {c l} (h : Canon i l) : Canon i (crossbarRetryLane c l) :=
  h.putCore.stk.chkFail

/-! ### Memory instructions (R57, R58) -/

protected theorem CanonBoth.loadImm {i' rd ra imm n conv up s} (hs : CanonBoth s) :
    CanonOut (loadImm i' rd ra imm n conv up s) :=
  .next (hs.issueG (fun h => h.skipNext) fun h => h.loadEff)

protected theorem CanonBoth.storeImm {i' rs ra imm n up s} (hs : CanonBoth s) :
    CanonOut (storeImm i' rs ra imm n up s) :=
  .next (hs.issueG (fun h => h.skipNext) fun h => h.storeEff)

protected theorem CanonBoth.execLd {i' rd ra imm up s} (hs : CanonBoth s) :
    CanonOut (execLd i' rd ra imm up s) :=
  hs.loadImm

protected theorem CanonBoth.execLdh {i' rd ra imm up s} (hs : CanonBoth s) :
    CanonOut (execLdh i' rd ra imm up s) :=
  hs.loadImm

protected theorem CanonBoth.execLdhu {i' rd ra imm up s} (hs : CanonBoth s) :
    CanonOut (execLdhu i' rd ra imm up s) :=
  hs.loadImm

protected theorem CanonBoth.execLdb {i' rd ra imm up s} (hs : CanonBoth s) :
    CanonOut (execLdb i' rd ra imm up s) :=
  hs.loadImm

protected theorem CanonBoth.execLdbu {i' rd ra imm up s} (hs : CanonBoth s) :
    CanonOut (execLdbu i' rd ra imm up s) :=
  hs.loadImm

protected theorem CanonBoth.execSt {i' rs ra imm up s} (hs : CanonBoth s) :
    CanonOut (execSt i' rs ra imm up s) :=
  hs.storeImm

protected theorem CanonBoth.execSth {i' rs ra imm up s} (hs : CanonBoth s) :
    CanonOut (execSth i' rs ra imm up s) :=
  hs.storeImm

protected theorem CanonBoth.execStb {i' rs ra imm up s} (hs : CanonBoth s) :
    CanonOut (execStb i' rs ra imm up s) :=
  hs.storeImm

protected theorem CanonBoth.execLdx {i' rd ra rb fn up s} (hs : CanonBoth s) :
    CanonOut (execLdx i' rd ra rb fn up s) :=
  .next (hs.issueG (fun h => h.skipNext) fun h => by
    dsimp only
    split <;> exact h.loadEff)

protected theorem CanonBoth.execStx {i' rs ra rb fn up s} (hs : CanonBoth s) :
    CanonOut (execStx i' rs ra rb fn up s) :=
  .next (hs.issueG (fun h => h.skipNext) fun h => by
    dsimp only
    split <;> exact h.storeEff)

protected theorem CanonBoth.execCrossbarRetry {lane core s} (hs : CanonBoth s) :
    CanonOut (execCrossbarRetry lane core s) :=
  .ite (.next (hs.modLane fun h => h.crossbarRetryLane)) (.next hs)

protected theorem CanonBoth.amo {i' rd ra rb f up s} (hs : CanonBoth s) :
    CanonOut (amo i' rd ra rb f up s) :=
  .next (hs.issueG (fun h => h.skipNext) fun h => h.amoEff)

protected theorem CanonBoth.execAmoswp {i' rd ra rb up s} (hs : CanonBoth s) :
    CanonOut (execAmoswp i' rd ra rb up s) :=
  hs.amo

protected theorem CanonBoth.execAmoadd {i' rd ra rb up s} (hs : CanonBoth s) :
    CanonOut (execAmoadd i' rd ra rb up s) :=
  hs.amo

protected theorem CanonBoth.execAmoand {i' rd ra rb up s} (hs : CanonBoth s) :
    CanonOut (execAmoand i' rd ra rb up s) :=
  hs.amo

protected theorem CanonBoth.execAmoor {i' rd ra rb up s} (hs : CanonBoth s) :
    CanonOut (execAmoor i' rd ra rb up s) :=
  hs.amo

protected theorem CanonBoth.execAmomax {i' rd ra rb up s} (hs : CanonBoth s) :
    CanonOut (execAmomax i' rd ra rb up s) :=
  hs.amo

/-! ### Engine, task, CAN and field-I/O instructions (R68 to R77) -/

protected theorem CanonBoth.issueS {i' s ill cost srcs eff} (hs : CanonBoth s)
    (hf : ∀ {x0 i}, Canon i x0 → CanonEff i (eff x0)) :
    CanonOut (issueS i' s ill cost srcs eff) :=
  .next (.afterCommit (hs.issueG (fun h => h.skipNext) fun h => hf h))

protected theorem CanonBoth.post {i' rd ra kind k s} (hs : CanonBoth s) :
    CanonOut (post i' rd ra kind k s) :=
  .next (hs.issueG (fun h => h.skipNext) fun h =>
    have he' := CanonEff.exc h
    .ite he' (by
      split
      · exact he'
      · exact .ok h.same.putCur))

protected theorem CanonBoth.execPostRun {i' rd ra k s} (hs : CanonBoth s) :
    CanonOut (execPostRun i' rd ra k s) :=
  hs.post

protected theorem CanonBoth.execPostRunc {i' rd k s} (hs : CanonBoth s) :
    CanonOut (execPostRunc i' rd k s) :=
  hs.post

protected theorem CanonBoth.execPostPreset {i' rd ra k s} (hs : CanonBoth s) :
    CanonOut (execPostPreset i' rd ra k s) :=
  hs.post

protected theorem CanonBoth.execPostRegion {i' rd ra k s} (hs : CanonBoth s) :
    CanonOut (execPostRegion i' rd ra k s) :=
  hs.post

protected theorem CanonBoth.execPostRead {i' rd ra k s} (hs : CanonBoth s) :
    CanonOut (execPostRead i' rd ra k s) :=
  hs.post

protected theorem CanonBoth.execWaitt {i' rd ra s} (hs : CanonBoth s) : CanonOut (execWaitt i' rd ra s) :=
  .next (hs.issueG (fun h => h.skipNext) fun h => by
    dsimp only
    split
    · exact .exc h
    · split
      · exact .ok h.same.putCur
      · exact .ok h.putCur.dispatch)

protected theorem CanonBoth.execTestt {i' pd ra s} (hs : CanonBoth s) : CanonOut (execTestt i' pd ra s) :=
  .next (hs.issueG (fun h => h.skipNext) fun h => by
    dsimp only
    split
    · exact .exc h
    · exact .ok h.putCur)

protected theorem CanonBoth.execWtick {i' s} (hs : CanonBoth s) : CanonOut (execWtick i' s) :=
  hs.issueS fun h => .ite (.ok h.takeBuffer.endJob.nextTurn.releaseTask.dispatch) (.ok h.endJob.dispatch)

protected theorem CanonBoth.execWevt {i' rd s} (hs : CanonBoth s) : CanonOut (execWevt i' rd s) :=
  .next (hs.issueG (fun h => h.skipNext) fun h =>
    have h' := h.putCur
    .ok (.dispatch (.ite h'.nextTurn.resumeTask h'.nextTurn)))

protected theorem CanonBoth.execRaise {i' ra f s} (hs : CanonBoth s) : CanonOut (execRaise i' ra f s) :=
  hs.issueS fun h => .ok h.putCur.raise

protected theorem CanonBoth.execRstk {i' rd ra b s} (hs : CanonBoth s) : CanonOut (execRstk i' rd ra b s) :=
  .next (hs.issueG (fun h => h.skipNext) fun h => .ok h.plainWrite.putCur)

protected theorem CanonBoth.canIssue {i' cost rd ra rb f s} (hs : CanonBoth s)
    (hf : ∀ {x0 x1 x2 x3 i}, Canon i x0 → Canon i (f x0 x1 x2 x3).1) :
    CanonOut (canIssue i' cost rd ra rb f s) :=
  hs.issueS fun h => .ite (.ok h.putCur) (.ok (.putCur (hf h)))

protected theorem CanonBoth.execCtxq {i' rd ra rb s} (hs : CanonBoth s) :
    CanonOut (execCtxq i' rd ra rb s) :=
  hs.canIssue fun h => h.queueTx

protected theorem CanonBoth.execCtxd {i' rd ra rb s} (hs : CanonBoth s) :
    CanonOut (execCtxd i' rd ra rb s) :=
  hs.canIssue fun h => h.deadlineTx

protected theorem CanonBoth.execCcan {i' rd ra rb s} (hs : CanonBoth s) :
    CanonOut (execCcan i' rd ra rb s) :=
  hs.canIssue fun h => h.cancelTx

protected theorem CanonBoth.execCrx {i' rd rb s} (hs : CanonBoth s) : CanonOut (execCrx i' rd rb s) :=
  hs.canIssue fun h => h.takeEntry

protected theorem CanonBoth.execCack {i' ra s} (hs : CanonBoth s) : CanonOut (execCack i' ra s) :=
  hs.issueS fun h => .ok h.ackEntry.putCur

protected theorem CanonBoth.issueVal {i' s cost srcs rd f} (hs : CanonBoth s)
    (hf : ∀ {x0 i}, Canon i x0 → Canon i (f x0).1) :
    CanonOut (issueVal i' s cost srcs rd f) :=
  .next (hs.issueG (fun h => h.skipNext) fun h => .ok (.putCur (hf h)))

protected theorem CanonBoth.execDin0 {i' rd s} (hs : CanonBoth s) : CanonOut (execDin0 i' rd s) :=
  hs.issueVal fun h => h

protected theorem CanonBoth.execDin1 {i' rd s} (hs : CanonBoth s) : CanonOut (execDin1 i' rd s) :=
  hs.issueVal fun h => h

protected theorem CanonBoth.execDstal {i' rd s} (hs : CanonBoth s) : CanonOut (execDstal i' rd s) :=
  hs.issueVal fun h => h

protected theorem CanonBoth.execDout {i' ra rb s} (hs : CanonBoth s) : CanonOut (execDout i' ra rb s) :=
  .next (hs.issueG (fun h => h.skipNext) fun h => .ok (.putCur (.foldl h fun h => .ite h.bufferStore h)))

protected theorem CanonBoth.execDorb {i' rd s} (hs : CanonBoth s) : CanonOut (execDorb i' rd s) :=
  hs.issueVal fun h => h

protected theorem CanonBoth.counterIssue {i' rd ra f s} (hs : CanonBoth s)
    (hf : ∀ {x0 x1 x2 i}, Canon i x0 → Canon i (f x0 x1 x2).1) :
    CanonOut (counterIssue i' rd ra f s) :=
  hs.issueVal fun h => by
    split
    · exact hf h
    · exact h.stk

protected theorem CanonBoth.execCnt {i' rd ra s} (hs : CanonBoth s) : CanonOut (execCnt i' rd ra s) :=
  hs.counterIssue fun h => h

protected theorem CanonBoth.execFreq {i' rd ra s} (hs : CanonBoth s) : CanonOut (execFreq i' rd ra s) :=
  hs.counterIssue fun h => .iteFst h.stk h

protected theorem CanonBoth.execMfs {i' rd n s} (hs : CanonBoth s) : CanonOut (execMfs i' rd n s) :=
  .next (hs.issueG (fun h => h.skipNext) fun h => by
    split
    · exact .ok h.putCur
    · exact .exc h)

/-! ### Every command -/

protected theorem CanonBoth.exec {i' s} (hs : CanonBoth s) : CanonOut (exec i' s) := by
  unfold exec
  split
  exacts [hs.execAdd, hs.execSub, hs.execAnd, hs.execOr, hs.execXor, hs.execAndn, hs.execShl, hs.execShr,
    hs.execSar, hs.execRor, hs.execMin, hs.execMax, hs.execMinu, hs.execMaxu, hs.execSadd, hs.execSsub,
    hs.execMul, hs.execMulhs, hs.execMulhu, hs.execMulq, hs.execDiv, hs.execDivu, hs.execRem, hs.execRemu,
    hs.execClz, hs.execAbs, hs.execSextb, hs.execSexth, hs.execAddi, hs.execAndi, hs.execOri, hs.execXori,
    hs.execShli, hs.execShri, hs.execSari, hs.execRori, hs.execMuli, hs.execMovl, hs.execMovh, hs.execCmp,
    hs.execCmpi, hs.execPand, hs.execPor, hs.execPxor, hs.execPandn, hs.execPnot, hs.execPtow, hs.execWtop,
    hs.execLd, hs.execLdh, hs.execLdhu, hs.execLdb, hs.execLdbu, hs.execSt, hs.execSth, hs.execStb,
    hs.execLdx, hs.execStx, hs.execCrossbarRetry, hs.execAmoswp, hs.execAmoadd, hs.execAmoand, hs.execAmoor,
    hs.execAmomax, hs.execBr, hs.execCall, hs.execRet, hs.execLoop, hs.execEndl, hs.execBrkl, hs.execFadd,
    hs.execFsub, hs.execFmul, hs.execFmac, hs.execFmin, hs.execFmax, hs.execFabs, hs.execFneg, hs.execFnorm,
    hs.execFfix, hs.execFflt, hs.execFscl, hs.execPostRun, hs.execPostRunc, hs.execPostPreset,
    hs.execPostRegion, hs.execPostRead, hs.execWaitt, hs.execTestt, hs.execWtick, hs.execWevt, hs.execRaise,
    hs.execRstk, hs.execCtxq, hs.execCtxd, hs.execCcan, hs.execCrx, hs.execCack, hs.execDin0, hs.execDin1,
    hs.execDstal, hs.execDout, hs.execDorb, hs.execCnt, hs.execFreq, hs.execMfs, hs.execIll, hs.execT1Tick,
    hs.execT2Release, hs.execT3Release, hs.execCommitInstant, hs.execPeriodStart, hs.execSampleCutoff,
    hs.execSetpointLatch, hs.execEdgeOut, hs.execPeriodEnd, hs.execHashExchange, hs.execSampleFrame,
    hs.execFieldFrameConsumption, hs.execComparePulseEnd, hs.execSsiTransferStart, hs.execPulsedWindow,
    hs.execForcedHigh, hs.execOnlow, hs.execRetryReset, hs.execFieldSilenceTimeout, hs.execStoChannelChange,
    hs.execStoDiscrepancy, hs.execPermitConditionChange, hs.execGatePermit, hs.execLinkLocked,
    hs.execLinkLoss, hs.execDelayRequest, hs.execDelayResponse, hs.execTimebaseSync, hs.execDiscover,
    hs.execIdent, hs.execCal, hs.execCntr, hs.execCntclr, hs.execClrlatch, hs.execDiag, hs.execMreqTimeout,
    hs.execRediscover, hs.execCanReportDelivery, hs.execLaneExpiryRecord, hs.execBusOffRecovery,
    hs.execReferencePost, hs.execMasterTimeout, hs.execAlignmentLost, hs.execCordResultFrame,
    hs.execCordResultsLost, hs.execCordStart, hs.execCordEnd, hs.execCordRecord, hs.execCordCommandReceipt,
    hs.execCordCommandTimeout, hs.execCordThermalShutdown, hs.execCordSupplyFall, hs.execCordPowerOn,
    hs.execSealJumperFitted, hs.execSealJumperRemoved, hs.execIdQuery, hs.execParQuery, hs.execPar,
    hs.execZero, hs.execSpan, hs.execCommit, hs.execDiscard, hs.execAudQuery, hs.execSoftwareUpdate,
    hs.execThrottleStep, hs.execReadingStale, hs.execLaneShutdownAbandon, hs.execLaneStop, hs.execPllLock,
    hs.execPllFault, hs.execDorm, hs.execDormantEntry, hs.execWakeSource, hs.execWakeTimer,
    hs.execSupplyStatusChange, hs.execPowerOn, hs.execPeerWaitTimeout, hs.execImageAdmission,
    hs.execAxisEnable, hs.execAxisDisable, hs.execInjectionStart, hs.execInjectionStop,
    hs.execDeadlineMessageEnable, hs.execDeadlineMessageDisable, hs.execItemActivation,
    hs.execItemDeactivation, hs.execRuntimeRequestComplete, hs.execWorkRemovalRecompute, hs.execModeRun,
    hs.execModeProfile, hs.execModeStop2, hs.execModeStop1, hs.execModeHold, hs.execModeImstop, hs.execCret,
    hs.execZeroSpeedDeclared, hs.execBrakeEngageEnd, hs.execTorqueReleaseEnd, hs.execRideThroughTimeout,
    hs.execHeaveStale, hs.execFluxBrakingBudget, hs.execHoldWindowExpiry, hs.execDecayTimeout,
    hs.execResume, hs.execReacq, hs.execTab, hs.execOvmDmod, hs.execModeToAuto, hs.execModeToManual,
    hs.execClr, hs.execEngineOperationComplete, hs.execArm, hs.execCaptureAbort, hs.execChclr, hs.execParm,
    hs.execChannelClear, hs.execCompareArm, hs.execPulseRatio, hs.execSrel, hs.execOclr,
    hs.execCounterClear, hs.execSafeclr, hs.execSwap, hs.execBistLogic, hs.execBistMemory, hs.execBistBoth,
    hs.execRnow, hs.execBistComplete, hs.execRollingSelftestDue, hs.execPeatRsel, hs.execPeatReadLoaded,
    hs.execPeatEntryCommit, hs.execHreq, hs.execHack, hs.execClaimExchange, hs.execActiveLaneFailed,
    hs.execHandoverWaitTimeout, hs.execXlnChannelDown, hs.execYieldButton, hs.execExtractionLever,
    hs.execCartridgeInserted, hs.execCartridgeRemoved, hs.execKeySwitchChange, hs.execPresenceButton,
    hs.execPresenceRequestTimeout, hs.execImageLoad, hs.execImageActivation, hs.execRollingSelftestPeriod,
    hs.execBistActiveLane, hs.execLaneRestart, hs.execImageSync, hs.execS6Release, hs.execPeatLogClear,
    hs.execFrameMemoryEventClear, hs.execStoConfiguration, hs.execForceRoles, hs.execPeatLogRead,
    hs.execFrameMemoryRead, hs.execCaptureUpload, hs.execExcClear, hs.execRcRead, hs.execRegisterWrite,
    hs.execXlnChannelUp, hs.execLogicRailCollapse]

end

/-! ### Every step -/

/-- One step keeps both lanes canonical: an empty queue changes nothing, and a command answers as
`CanonBoth.exec` says. -/
theorem step_keeps_canonBoth {s : State} (hs : CanonBoth s) : CanonOut (step s) := by
  unfold step
  split
  · exact .next hs
  · exact hs.same.exec

/-- Settles O59: `State.wf` decides the canonical form of both lanes, `CanonBoth`, and every step keeps it. -/
theorem canonicalStoresKept : Obligations.CanonicalStoresKept := by
  unfold Obligations.CanonicalStoresKept
  intro s t hs ht
  exact state_wf_iff.mpr (step_keeps_canonBoth (state_wf_iff.mp hs) t ht)

/-! ### The state after reset -/

theorem laneOf_reset {i : LaneId} : laneOf State.reset i = Lane.zero i := by cases i <;> rfl

/-- The module's registers after reset: SYS_STS (R32), the clock domains (R415) and no admitted image. -/
theorem zero_module_regs {i : LaneId} :
    roleOf (Lane.zero i) = roleOut ∧
    fget (Lane.zero i) SYS_STS_LANEID = (match i with | .A => 0 | .B => 1) ∧
    fget (Lane.zero i) SYS_STS_SOLO = 1 ∧ fget (Lane.zero i) SYS_STS_PEERUP = 0 ∧
    rget (Lane.zero i) CLK_DOM = 7#32 ∧ fget (Lane.zero i) ADM_STS_STATE = 0 := by
  cases i <;> decide +kernel

/-- The limits and times of an axis after reset (R256). -/
theorem zero_axis_regs {i : LaneId} : ∀ a : Axis,
    fget (Lane.zero i) (AXS_DEC_DECR a) = 0x400 ∧ fget (Lane.zero i) (AXS_DEC_DBAND a) = 0x52 ∧
    fget (Lane.zero i) (AXS_SREG_KSTOP a) = 0x1400 ∧ fget (Lane.zero i) (AXS_BRK_TBRK a) = 0x12C ∧
    fget (Lane.zero i) (AXS_BRK_TREL a) = 0xC8 ∧ rget (Lane.zero i) (AXS_CMD a) = 0#32 := by
  cases i <;> decide +kernel

/-- The time-out of a field cartridge after reset (R336). -/
theorem zero_cart_timeout {i : LaneId} : ∀ f : FieldNo, fget (Lane.zero i) (FIO_SCFG_TOUT f) = 10 := by
  cases i <;> decide +kernel

/-- The warning levels of the first brick, pin, lane and link sensors after reset (R376). -/
theorem zero_sensor_regs {i : LaneId} :
    fget (Lane.zero i) (THM_CFG_WARN 0) = 0x5A0 ∧ fget (Lane.zero i) (THM_CFG_WARN 128) = 0x820 ∧
    fget (Lane.zero i) (THM_CFG_WARN 144) = 0x5F0 ∧ fget (Lane.zero i) (THM_CFG_WARN 149) = 0x550 := by
  cases i <;> decide +kernel

theorem getW_zero_task {i : LaneId} {c : Fin 4} {k : Fin 16} {r : RegNo} :
    getW (taskOf (Lane.zero i) c k) r = 0#32 := by
  have ht : taskOf (Lane.zero i) c k = TaskCtx.zero := by simp [taskOf, coreOf, Lane.zero, Core.zero, vget]
  rw [ht]
  simp [getW, TaskCtx.zero, vget]

theorem mget32_zero {i : LaneId} : mget32 (Lane.zero i) 0x01000000 = 0#32 := by cases i <;> decide +kernel

/-- Settles O55: after reset each lane is the zero lane of its slot, whose stores list nothing, so that its
registers read as the tables give. -/
theorem resetState : Obligations.ResetState := by
  unfold Obligations.ResetState
  refine ⟨rfl, state_wf_iff.mpr ⟨.zero, .zero⟩, ⟨by decide, by decide⟩, fun i => ?_⟩
  rw [laneOf_reset]
  obtain ⟨hrole, hid, hsolo, hpeer, hdom, hadm⟩ := zero_module_regs (i := i)
  obtain ⟨hbrick, hpin, hlane, hlink⟩ := zero_sensor_regs (i := i)
  exact ⟨hrole, hid, hsolo, hpeer, hdom, hadm, zero_axis_regs, zero_cart_timeout, hbrick, hpin, hlane, hlink,
    fun _ _ _ => getW_zero_task, mget32_zero⟩

end Sys2Proof.Machine

namespace Sys2Proof.Machine

/-!
## What a lane's bookkeeping touches

Sticky conditions, records, requests and gradings change a lane in a few fields only. `Touches R` says so once for all of them, with the
registers that may change as a parameter; `Quiet` is the case of `settle`. A lemma `Touches.f` is about a lane that has been touched
and that `f` then changes, so that a chain of calls is followed by a chain of lemmas.
-/

/-- A lane changed at most in registers of `R` with the record of the core cycle, in records, requests, raised sources and sticky
conditions that wait (the latter two only get longer), in the capture's trigger, the safe state, and what its axes are asked. -/
structure Touches (R : Nat → Prop) (l m : Lane) : Prop where
  rest : m = { l with
    regs := m.regs, cyc := m.cyc, axes := m.axes, late := m.late, vis := m.vis, rep := m.rep
    peatQ := m.peatQ, out := m.out, cap := m.cap, safe := m.safe }
  regs : ∀ a, ¬ R a → rget m a = rget l a
  axes : ∀ x, { vget m.axes x with ask := none, stop34 := false, stopNy := false } =
    { vget l.axes x with ask := none, stop34 := false, stopNy := false }
  vis : ∃ x, m.vis = l.vis ++ x
  late : ∃ x, m.late = l.late ++ x

section
variable {R S : Nat → Prop} {l m n : Lane}

protected theorem Touches.refl : Touches R l l := ⟨rfl, fun _ _ => rfl, fun _ => rfl, ⟨[], by simp⟩, ⟨[], by simp⟩⟩

protected theorem Touches.trans (h : Touches R l m) (g : Touches R m n) : Touches R l n := by
  refine ⟨?_, fun a ha => (g.regs a ha).trans (h.regs a ha), fun x => (g.axes x).trans (h.axes x), ?_, ?_⟩
  · have hn := g.rest
    rw [h.rest] at hn
    exact hn
  · obtain ⟨x, hx⟩ := h.vis
    obtain ⟨y, hy⟩ := g.vis
    exact ⟨x ++ y, by rw [hy, hx, List.append_assoc]⟩
  · obtain ⟨x, hx⟩ := h.late
    obtain ⟨y, hy⟩ := g.late
    exact ⟨x ++ y, by rw [hy, hx, List.append_assoc]⟩

protected theorem Touches.mono (h : Touches R l m) (hRS : ∀ a, R a → S a) : Touches S l m :=
  ⟨h.rest, fun a ha => h.regs a fun hr => ha (hRS a hr), h.axes, h.vis, h.late⟩

theorem Quiet.touches (h : Quiet l m) : Touches SettleReg l m := by
  have hm := h.rest
  refine ⟨?_, h.regs, fun x => ?_, ⟨[], ?_⟩, ?_⟩
  · have e1 : m.vis = l.vis := (congrArg Lane.vis hm :)
    have e2 : m.rep = l.rep := (congrArg Lane.rep hm :)
    have e3 : m.cap = l.cap := (congrArg Lane.cap hm :)
    have e4 : m.safe = l.safe := (congrArg Lane.safe hm :)
    rw [e1, e2, e3, e4]
    exact hm
  · exact (congrArg (fun (y : AxisRt) => { y with stop34 := false }) (h.axes x) :)
  · rw [List.append_nil]
    exact (congrArg Lane.vis hm :)
  · obtain ⟨x, hx, -⟩ := h.late
    exact ⟨x, hx⟩

protected theorem Touches.quiet (h : Touches R l m) (hq : Quiet m n) (hR : ∀ a, SettleReg a → R a) : Touches R l n :=
  h.trans (hq.touches.mono hR)

/-! ### What stays -/

protected theorem Touches.fget (h : Touches R l m) {f : Field} (hf : ¬ R f.addr) : fget m f = fget l f := by
  unfold Machine.fget
  rw [h.regs _ hf]

protected theorem Touches.units (h : Touches R l m) : m.units = l.units := (congrArg Lane.units h.rest :)
protected theorem Touches.powered (h : Touches R l m) : m.powered = l.powered := (congrArg Lane.powered h.rest :)
protected theorem Touches.ident (h : Touches R l m) : m.ident = l.ident := (congrArg Lane.ident h.rest :)

/-! ### Branches and folds -/

protected theorem Touches.ite {c : Prop} [Decidable c] (h : Touches R l m) (g : Touches R l n) :
    Touches R l (if c then m else n) := by split <;> assumption

protected theorem Touches.foldl {α : Type} {f : Lane → α → Lane} {xs : List α} (h : Touches R l m)
    (hf : ∀ {m}, ∀ x ∈ xs, Touches R l m → Touches R l (f m x)) : Touches R l (xs.foldl f m) :=
  List.foldlRecOn xs f h fun _ h x hx => hf x hx h

/-! ### Registers, sticky conditions, requests and records -/

protected theorem Touches.rset {a : Nat} {v : Word} (h : Touches R l m) (ha : R a) : Touches R l (rset m a v) :=
  h.trans ⟨rfl, fun _ hb => rget_rset_ne m v fun e => hb (e ▸ ha), fun _ => rfl, ⟨[], by simp⟩, ⟨[], by simp⟩⟩

protected theorem Touches.fset {f : Field} {v : Nat} (h : Touches R l m) (hf : R f.addr) : Touches R l (fset m f v) := h.rset hf

protected theorem Touches.fsetB {f : Field} {v : Bool} (h : Touches R l m) (hf : R f.addr) : Touches R l (fsetB m f v) := h.fset hf

protected theorem Touches.fcount {f : Field} (h : Touches R l m) (hf : R f.addr) : Touches R l (fcount m f) :=
  h.trans ⟨rfl, fun _ hb => rget_fcount_ne m f fun e => hb (e ▸ hf), fun _ => rfl, ⟨[], by simp [Machine.fcount]⟩,
    ⟨[], by simp [Machine.fcount]⟩⟩

protected theorem Touches.stkSet {a v : Nat} (h : Touches R l m) (ha : R a) : Touches R l (stkSet m a v) :=
  h.trans ⟨rfl, fun _ hb => rget_stkSet_ne m v fun e => hb (e ▸ ha), fun _ => rfl, ⟨[], by simp [Machine.stkSet]⟩,
    ⟨[], by simp [Machine.stkSet]⟩⟩

protected theorem Touches.fltStk {v : Nat} (h : Touches R l m) (hf : R FLT_STK) : Touches R l (fltStk m v) := h.stkSet hf

protected theorem Touches.stkOr {a v : Nat} (h : Touches R l m) (ha : R a) (hf : R FLT_STK) : Touches R l (stkOr m a v) :=
  (h.stkSet ha).fltStk hf

protected theorem Touches.stk {f : Field} (h : Touches R l m) (ha : R f.addr) (hf : R FLT_STK) : Touches R l (stk m f) :=
  h.stkOr ha hf

protected theorem Touches.stkLate {f : Field} (h : Touches R l m) : Touches R l (stkLate m f) :=
  h.trans ⟨rfl, fun _ _ => rfl, fun _ => rfl, ⟨[], by simp [Machine.stkLate]⟩, ⟨_, rfl⟩⟩

protected theorem Touches.fltLate {v : Nat} (h : Touches R l m) : Touches R l (fltLate m v) :=
  h.trans ⟨rfl, fun _ _ => rfl, fun _ => rfl, ⟨[], by simp [Machine.fltLate]⟩, ⟨_, rfl⟩⟩

protected theorem Touches.stkIfLate {c : Bool} {f : Field} (h : Touches R l m) : Touches R l (stkIfLate c m f) := h.stkLate.ite h

protected theorem Touches.stkSeen {f : Field} (h : Touches R l m) (ha : R f.addr) (hf : R FLT_STK) : Touches R l (stkSeen m f) :=
  h.stkLate.ite (h.stk ha hf)

protected theorem Touches.stkSeenIf {c : Bool} {f : Field} (h : Touches R l m) (ha : R f.addr) (hf : R FLT_STK) :
    Touches R l (stkSeenIf c m f) := (h.stkSeen ha hf).ite h

protected theorem Touches.ask {r : LaneReq} (h : Touches R l m) : Touches R l (ask m r) :=
  h.trans ⟨rfl, fun _ _ => rfl, fun _ => rfl, ⟨[], by simp [Machine.ask]⟩, ⟨[], by simp [Machine.ask]⟩⟩

protected theorem Touches.fmWrite {now kind code sev : Nat} {c0 c1 : Word} (h : Touches R l m) :
    Touches R l (fmWrite m now kind code sev c0 c1) := h.ask

/-- The axes may change in what they are asked and in the stops they count for. -/
theorem touches_axis {a : Axis} {x : AxisRt}
    (h : { x with ask := none, stop34 := false, stopNy := false } =
      { vget l.axes a with ask := none, stop34 := false, stopNy := false }) :
    Touches R l { l with axes := vset l.axes a x } := by
  refine ⟨rfl, fun _ _ => rfl, fun b => ?_, ⟨[], by simp⟩, ⟨[], by simp⟩⟩
  by_cases hb : b = a
  · subst hb
    simpa only [vget_vset_self] using h
  · rw [vget_vset_ne _ _ hb]

protected theorem Touches.axAsk {a : Axis} {e : Nat} (h : Touches R l m) : Touches R l (axAsk m a e) := by
  unfold Machine.axAsk
  split
  · exact h.stkLate
  · extract_lets x
    split
    · exact h.stkLate.ite (h.trans (touches_axis rfl))
    · exact h.trans (touches_axis rfl)
end

/-- The registers of the Peat log, with FLT_STK. -/
def PeatReg (a : Nat) : Prop := a ∈ [PEAT_STS, PEAT_STK, PEAT_HEAD, FLT_STK]

/-- The registers that a grading may change at once: those of the Peat log, FLT_STK, and what LOST coppices show. -/
def GradeReg (a : Nat) : Prop := PeatReg a ∨ a = LEG_STS ∨ ∃ c < 32, a = LEG_CSTS c

section
variable {R : Nat → Prop} {l m : Lane}

theorem peatReg_le_gradeReg (a : Nat) (h : PeatReg a) : GradeReg a := .inl h

protected theorem Touches.peatWrite {now kind code sev rep : Nat} {c0 c1 : Word} (h : Touches R l m) (hR : ∀ a, PeatReg a → R a) :
    Touches R l (peatWrite m now kind code sev rep c0 c1) := by
  have hf := hR FLT_STK (by simp [PeatReg])
  have hk := hR PEAT_STK (by simp [PeatReg])
  have hh := hR PEAT_HEAD (by simp [PeatReg])
  have hs := hR PEAT_STS (by simp [PeatReg])
  unfold Machine.peatWrite
  refine .ite (h.stkSeen hk hf) (.fsetB (.fset (h.trans ?_) hh) hs)
  exact ⟨rfl, fun _ _ => rfl, fun _ => rfl, ⟨[], by simp⟩, ⟨[], by simp⟩⟩

/-! ### Grading a source (R417 to R422) -/

protected theorem Touches.axStopOne {a : Axis} {e : Nat} (h : Touches R l m) : Touches R l (axStopOne m a e) := by
  unfold Machine.axStopOne
  extract_lets ok m'
  exact .ite (.trans h.axAsk (touches_axis rfl)) h.axAsk

protected theorem Touches.axStop {a : Axis} {e : Nat} (h : Touches R l m) : Touches R l (axStop m a e) := by
  unfold Machine.axStop
  extract_lets m'
  exact .ite (h.axStopOne.foldl fun _ _ h => h.foldl fun _ _ h => h.axStopOne.ite h) h.axStopOne

protected theorem Touches.allAsk {b : Bool} {e : Nat} (h : Touches R l m) : Touches R l (allAsk m b e) :=
  h.foldl fun _ _ h => h.axAsk.ite h

protected theorem Touches.permitAsk (h : Touches R l m) : Touches R l (permitAsk m) :=
  h.foldl fun _ _ h => h.axAsk.ite h

protected theorem Touches.capSeen {trig src : Nat} (h : Touches R l m) : Touches R l (capSeen m trig src) := by
  unfold Machine.capSeen
  exact .ite (h.trans ⟨rfl, fun _ _ => rfl, fun _ => rfl, ⟨[], by simp⟩, ⟨[], by simp⟩⟩) h

protected theorem Touches.safe {b : Bool} (h : Touches R l m) : Touches R l { m with safe := b } :=
  h.trans ⟨rfl, fun _ _ => rfl, fun _ => rfl, ⟨[], by simp⟩, ⟨[], by simp⟩⟩

protected theorem Touches.rep {r : List (Nat × RepEnt)} (h : Touches R l m) : Touches R l { m with rep := r } :=
  h.trans ⟨rfl, fun _ _ => rfl, fun _ => rfl, ⟨[], by simp⟩, ⟨[], by simp⟩⟩

section
variable (hR : ∀ a, GradeReg a → R a)
include hR

protected theorem Touches.cpLost {c : Nat} (h : Touches R l m) (hc : c < 32) : Touches R l (cpLost m c) :=
  .ite h (.stkLate (.fsetB (.fset h (hR _ (.inr (.inr ⟨c, hc, rfl⟩)))) (hR _ (.inr (.inl rfl)))))

protected theorem Touches.brickLost {b : Nat} (h : Touches R l m) : Touches R l (brickLost m b) :=
  h.foldl fun _ hc h => .ite (h.cpLost hR (List.mem_range.mp hc)) h

protected theorem Touches.respond {k sev : Nat} {c0 : Word} (h : Touches R l m) : Touches R l (respond m k sev c0).1 := by
  unfold Machine.respond
  split
  · exact h
  · exact h
  · split
    · exact h.brickLost hR
    · exact h
  · split
    · exact h.axStop (e := 3)
    · exact h
  · split
    · exact h.axStop (e := 8)
    · exact h
  · split
    · exact h
    · split
      · exact h.ask
      · split
        · exact h.ask
        · split <;> exact h.ask
  · split
    · exact h
    · exact h.safe.allAsk.ask
  · exact h

protected theorem Touches.raiseRecord {now k sev : Nat} {c0 c1 : Word} (h : Touches R l m) :
    Touches R l (raiseRecord m now k sev c0 c1) := by
  have hp := fun a ha => hR a (peatReg_le_gradeReg a ha)
  unfold Machine.raiseRecord
  dsimp only
  split
  · exact .ite h.rep (h.rep.peatWrite hp)
  · exact h.rep.peatWrite hp

/-- A raised source, whatever its grading, touches the lane in the registers of `GradeReg` alone. -/
protected theorem Touches.raise {now k : Nat} {c0 c1 : Word} (h : Touches R l m) : Touches R l (raise m now k c0 c1) := by
  unfold Machine.raise
  extract_lets sev
  split
  next l1 bits hr =>
  have h1 : Touches R l (l1, bits).1 := hr ▸ h.respond hR
  extract_lets l2 l3 l4
  have h2 : Touches R l l2 := .ite (h1.raiseRecord hR) h1
  have h3 : Touches R l l3 := .ite h2.fmWrite h2
  have h4 : Touches R l l4 := h3.capSeen
  exact h4.trans ⟨rfl, fun _ _ => rfl, fun _ => rfl, ⟨[_], rfl⟩, ⟨[], by simp⟩⟩

protected theorem Touches.raiseO {now k obj detail : Nat} {c1 : Word} (h : Touches R l m) :
    Touches R l (raiseO m now k obj detail c1) := h.raise hR
end

/-- The latest raised source is the one that was raised. -/
theorem raise_vis {now k : Nat} {c0 c1 : Word} : ∃ r ∈ (raise l now k c0 c1).vis, r.src = k ∧ r.ctx0 = c0 :=
  ⟨_, List.mem_append_right _ (List.mem_singleton.mpr rfl), rfl, rfl⟩
end

/-! ### Addresses -/

/-- The registers of `SettleReg` by number. -/
theorem SettleReg.num {a : Nat} (h : SettleReg a) :
    a ∈ [0x40000000, 0x40000004, 0x400C0004, 0x400D0000, 0x400D0004, 0x400E0000, 0x400E0004, 0x400E0010, 0x400F0000, 0x400F0004,
      0x40110000, 0x40110004] ∨ 0x40030000 ≤ a ∧ a < 0x40040000 ∧ a % 0x1000 = 4 := by
  obtain h | ⟨x, rfl⟩ := h
  · refine .inl ?_
    simp only [List.mem_cons, List.not_mem_nil, or_false, SYS_STS, SYS_STK, XLN_STS, XLN_STK, FLT_STS, FLT_STK, PEAT_STS,
      PEAT_STK, PEAT_HEAD, THM_STK, BST_STS, BST_STK] at h ⊢
    omega
  · have := x.2
    simp only [AXS_STK]
    omega

/-- The registers of `GradeReg` by number. -/
theorem GradeReg.num {a : Nat} (h : GradeReg a) :
    a ∈ [0x40040000, 0x400D0004, 0x400E0000, 0x400E0004, 0x400E0010] ∨ 0x40042000 ≤ a ∧ a < 0x40042204 := by
  obtain h | rfl | ⟨c, hc, rfl⟩ := h
  · refine .inl ?_
    simp only [PeatReg, List.mem_cons, List.not_mem_nil, or_false, FLT_STK, PEAT_STS, PEAT_STK, PEAT_HEAD] at h ⊢
    omega
  · exact .inl (by simp [LEG_STS])
  · simp only [LEG_CSTS]
    omega

/-! ### Both lanes -/

/-- The same change in both lanes. -/
def onBoth (f : Lane → Lane) (s : State) : State := { s with la := f s.la, lb := f s.lb }

@[simp] theorem laneOf_onBoth (f : Lane → Lane) (s : State) (i : LaneId) : laneOf (onBoth f s) i = f (laneOf s i) := by
  cases i <;> rfl

@[simp] theorem onBoth_now (f : Lane → Lane) (s : State) : (onBoth f s).now = s.now := rfl

@[simp] theorem onBoth_pending (f : Lane → Lane) (s : State) : (onBoth f s).pending = s.pending := rfl

/-- Time and queue stay, and each lane is changed as `Touches R` says. -/
structure TouchesBoth (R : Nat → Prop) (s t : State) : Prop where
  now : t.now = s.now
  pending : t.pending = s.pending
  lanes : ∀ i, Touches R (laneOf s i) (laneOf t i)

section
variable {R : Nat → Prop} {s t u : State}

protected theorem TouchesBoth.refl : TouchesBoth R s s := ⟨rfl, rfl, fun _ => .refl⟩

protected theorem TouchesBoth.trans (h : TouchesBoth R s t) (g : TouchesBoth R t u) : TouchesBoth R s u :=
  ⟨g.now.trans h.now, g.pending.trans h.pending, fun i => (h.lanes i).trans (g.lanes i)⟩

protected theorem TouchesBoth.calm (h : TouchesBoth R s t) (hc : Calm t u) (hR : ∀ a, SettleReg a → R a) : TouchesBoth R s u :=
  h.trans ⟨hc.now, hc.pending, fun i => (hc.lanes i).touches.mono hR⟩

protected theorem TouchesBoth.settle (h : TouchesBoth R s t) (hR : ∀ a, SettleReg a → R a) : TouchesBoth R s (settle t) :=
  h.calm (calm_settle t) hR

protected theorem TouchesBoth.both {la lb : Lane} (h : TouchesBoth R s t) (ha : Touches R t.la la) (hb : Touches R t.lb lb) :
    TouchesBoth R s { t with la, lb } :=
  h.trans ⟨rfl, rfl, fun i => by cases i; exacts [ha, hb]⟩

protected theorem TouchesBoth.modLane {i : LaneId} {f : Lane → Lane} (h : TouchesBoth R s t)
    (hf : ∀ {l}, Touches R l (f l)) : TouchesBoth R s (modLane t i f) := by
  cases i
  · exact h.both hf .refl
  · exact h.both .refl hf

protected theorem TouchesBoth.inRunning {f : Lane → Lane} (h : TouchesBoth R s t) (hf : ∀ {l}, Touches R l (f l)) :
    TouchesBoth R s (inRunning f t) := h.both (.ite hf .refl) (.ite hf .refl)

protected theorem TouchesBoth.ite {c : Prop} [Decidable c] (h : TouchesBoth R s t) (g : TouchesBoth R s u) :
    TouchesBoth R s (if c then t else u) := by split <;> assumption

/-- What changes outside the lanes is of no account. -/
protected theorem TouchesBoth.same {t1At free ho hoOut bist fm key presReq sup pres okc xlnUp svcOut links bricks fields cord}
    (h : TouchesBoth R s t) : TouchesBoth R s { t with
      t1At, free, ho, hoOut, bist, fm, key, presReq, sup, pres, okc, xlnUp, svcOut, links, bricks, fields, cord } :=
  h.trans ⟨rfl, rfl, fun i => by cases i <;> exact .refl⟩
end

end Sys2Proof.Machine

namespace Sys2Proof.Machine

/-! ### Bits of a replaced field -/

/-- Bit `j` of a number with one bit replaced. -/
theorem testBit_setBits_one (v n : Nat) (b : Bool) (j : Nat) :
    (setBits v n 1 (b2n b)).testBit j = if j = n then b else v.testBit j := by
  have hb : b2n b % 2 ^ 1 = b2n b := by cases b <;> rfl
  have e : setBits v n 1 (b2n b) = 2 ^ n * (2 * (v / 2 ^ (n + 1)) + b2n b) + v % 2 ^ n := by
    unfold setBits
    rw [hb, Nat.pow_succ]
    ring
  rw [e, Nat.testBit_two_pow_mul_add _ (Nat.mod_lt _ (Nat.two_pow_pos n)), Nat.testBit_mod_two_pow]
  obtain h | rfl | h := lt_trichotomy j n
  · simp [h, h.ne]
  · cases b <;> simp [b2n, Nat.testBit_zero]
  · have hj : j - n = (j - n - 1) + 1 := by omega
    rw [if_neg h.not_gt, if_neg h.ne', hj, Nat.testBit_succ]
    have : (2 * (v / 2 ^ (n + 1)) + b2n b) / 2 = v / 2 ^ (n + 1) := by
      cases b
      · simp [b2n]
      · simp only [b2n, if_true]; omega
    rw [this, Nat.testBit_div_two_pow]
    congr 1
    omega

/-! ### The comparison of hashes (R20) -/

/-- What a comparison leaves of a unit's flags: the unit's own as judged, the others as they were. -/
theorem getLsbD_setFlag (u g : Fin 17) (on : Bool) (l : Lane) :
    (rget (setFlag u on l) XLN_FLAG).getLsbD g = if g = u then on else (rget l XLN_FLAG).getLsbD g := by
  have hg : g.1 < 32 := by omega
  simp only [setFlag, rget_rset_self, wordOf, BitVec.getLsbD_ofNat, testBit_setBits_one, hg, decide_true, Bool.true_and,
    Fin.ext_iff]
  rfl

theorem not_settleReg_XLN_FLAG : ¬ SettleReg XLN_FLAG := fun h => by
  have := h.num
  simp [XLN_FLAG] at this

theorem not_gradeReg_XLN_FLAG : ¬ GradeReg XLN_FLAG := fun h => by
  have := h.num
  simp [XLN_FLAG] at this

/-- The slots' notes that a match clears are nothing of registers and units. -/
theorem unitMatch_frame (u : Fin 17) (l : Lane) :
    unitMatch u l = { setFlag u false l with
      units := vmod l.units u fun x => { x with matchN := x.matchN + 1, chk := false, hash := none }
      slots := (unitMatch u l).slots } := by
  unfold unitMatch
  dsimp only
  refine List.foldlRecOn (motive := fun m : Lane => m = { setFlag u false l with
      units := vmod l.units u fun x => { x with matchN := x.matchN + 1, chk := false, hash := none }
      slots := m.slots }) _ _ rfl fun m hm s _ => ?_
  split
  · rw [hm]
  · exact hm

theorem rget_unitMatch (u : Fin 17) (l : Lane) (a : Nat) : rget (unitMatch u l) a = rget (setFlag u false l) a := by
  rw [unitMatch_frame]; rfl

theorem unitMatch_units (u : Fin 17) (l : Lane) :
    (unitMatch u l).units = vmod l.units u fun x => { x with matchN := x.matchN + 1, chk := false, hash := none } := by
  rw [unitMatch_frame]

/-- A mismatch flags the unit, and its run of matches and its hash are over. -/
theorem unitDiffer_touches (now : Nat) (u : Fin 17) (l : Lane) :
    ∃ m, Touches GradeReg m (unitDiffer now u l) ∧
      (∀ g : Fin 17, (rget m XLN_FLAG).getLsbD g = if g = u then true else (rget l XLN_FLAG).getLsbD g) ∧
      (vget m.units u).hash = none ∧ (vget m.units u).matchN = 0 ∧ (∀ a, a ≠ XLN_FLAG → a ≠ XLN_CNT_MIS.addr → rget m a = rget l a) := by
  refine ⟨_, Touches.raiseO (fun _ h => h) .refl, fun g => ?_, ?_, ?_, fun a hf hc => ?_⟩
  · refine (getLsbD_setFlag u g true _).trans ?_
    congr 2
    exact rget_fcount_ne l _ (by simp [XLN_FLAG, XLN_CNT_MIS, XLN_CNT])
  · simp only [vmod, vget_vset_self]
  · simp only [vmod, vget_vset_self]
  · exact (rget_rset_ne _ _ hf).trans (rget_fcount_ne l _ hc)

/-- The registers that the outcome of a comparison may change besides the flags. -/
def OutcomeReg (a : Nat) : Prop := GradeReg a ∨ SettleReg a

theorem gradeReg_le_outcomeReg (a : Nat) (h : GradeReg a) : OutcomeReg a := .inl h

theorem settleReg_le_outcomeReg (a : Nat) (h : SettleReg a) : OutcomeReg a := .inr h

theorem peatReg_le_outcomeReg (a : Nat) (h : PeatReg a) : OutcomeReg a := .inl (.inl h)

theorem touches_setRole {now r : Nat} {l : Lane} : Touches OutcomeReg l (setRole now r l) :=
  .quiet .refl (quiet_setRole now r l) settleReg_le_outcomeReg

/-- Between an ACTIVE lane and one in STANDBY, a mismatch leads to records, requests and roles alone. -/
theorem touches_differOutcome {i o : LaneId} {u : Fin 17} {xo xi : Bool} {s : State}
    (h : roleOf (unitDiffer s.now u (laneOf s i)) ≠ roleCatchUp) :
    TouchesBoth OutcomeReg (onBoth (unitDiffer s.now u) s) (differOutcome i o u xo xi s) := by
  have hk : ∀ {l : Lane}, Touches OutcomeReg l (stkSeen l XLN_STK_REPMIS) :=
    .stkSeen .refl (.inr (.inl (by simp [XLN_STK_REPMIS]))) (.inr settle_flt_stk)
  unfold differOutcome
  extract_lets fo fi s1 row s2 s3
  have h2 : TouchesBoth OutcomeReg s1 s2 :=
    .both .refl (.peatWrite .refl peatReg_le_outcomeReg) (.peatWrite .refl peatReg_le_outcomeReg)
  have h3 : TouchesBoth OutcomeReg s1 s3 := h2.modLane (.fmWrite .refl)
  rw [if_neg ((laneOf_onBoth (unitDiffer s.now u) s i).symm ▸ h)]
  exact .ite (.same (h3.modLane (.raiseO gradeReg_le_outcomeReg .refl))) (.ite (.modLane (h3.both hk hk) touches_setRole) h3)

theorem not_outcomeReg_XLN_FLAG : ¬ OutcomeReg XLN_FLAG := fun h => h.elim not_gradeReg_XLN_FLAG not_settleReg_XLN_FLAG

/-- Neither lane's role hangs on the flags. -/
theorem roleOf_unitMatch (u : Fin 17) (l : Lane) : roleOf (unitMatch u l) = roleOf l := by
  simp only [roleOf, fget, rget_unitMatch]
  rw [setFlag, rget_rset_ne _ _ (by simp [SYS_STS_LROLE, SYS_STS, XLN_FLAG])]

theorem roleOf_unitDiffer (now : Nat) (u : Fin 17) (l : Lane) : roleOf (unitDiffer now u l) = roleOf l := by
  obtain ⟨m, hm, -, -, -, hr⟩ := unitDiffer_touches now u l
  have hg : ¬ GradeReg SYS_STS := fun h => by
    have := h.num
    simp [SYS_STS] at this
  unfold roleOf fget
  rw [show SYS_STS_LROLE.addr = SYS_STS from rfl, hm.regs _ hg, hr _ (by simp [SYS_STS, XLN_FLAG]) (by simp [SYS_STS, XLN_CNT_MIS, XLN_CNT])]

/-- A comparison is between the ACTIVE lane and one that follows it (R20). -/
theorem execHashExchange_eq {o : LaneId} {s : State} {u : Fin 17} {exA exB : Bool} {x y : Word}
    (ho : laneActive (laneOf s o) = true) (hp : laneRuns (laneOf s (otherLane o)) = true)
    (hr : roleOf (laneOf s (otherLane o)) = roleStandby) (hon : xlnOn s = true)
    (hx : (vget (laneOf s o).units u).hash = some x) (hy : (vget (laneOf s (otherLane o)).units u).hash = some y) :
    ∃ xo xi, execHashExchange u exA exB s =
      if x = y then .next (settle (matchOutcome (otherLane o) u s))
      else .next (settle (differOutcome (otherLane o) o u xo xi s)) := by
  have hna : laneActive (laneOf s (otherLane o)) = false := by
    have : fget (laneOf s (otherLane o)) SYS_STS_LROLE = 2 := hr
    simp [laneActive, this]
  unfold execHashExchange
  cases o
  case A =>
    refine ⟨exA, exB, ?_⟩
    simp only [laneOf, otherLane] at ho hp hx hy ⊢
    simp only [ho, hp, hx, hy, hon, and_self, if_true, Bool.not_true, Bool.false_eq_true, if_false]
  case B =>
    refine ⟨exB, exA, ?_⟩
    simp only [laneOf, otherLane] at ho hp hx hy hna ⊢
    simp only [ho, hp, hx, hy, hna, hon, and_self, Bool.false_eq_true, false_and, if_false, if_true, Bool.not_true, eq_comm (a := y)]

/-- Between an ACTIVE lane and one in STANDBY, a match changes the unit in both lanes and leads to nothing else. -/
theorem matchOutcome_of_standby {i : LaneId} {u : Fin 17} {s : State} (h : roleOf (laneOf s i) = roleStandby) :
    matchOutcome i u s = onBoth (unitMatch u) s := by
  have ht : roleOf (laneOf (onBoth (unitMatch u) s) i) = roleStandby := by rw [laneOf_onBoth, roleOf_unitMatch, h]
  have hne : roleStandby ≠ roleCatchUp := by decide
  exact if_neg fun hc => hne (ht.symm.trans hc.1)

/-- Settles O30: in each lane the outcome changes the unit's flag and run of matches as the hashes say, and what follows touches
neither. -/
theorem hashesCompared : Obligations.HashesCompared := by
  unfold Obligations.HashesCompared
  intro o s h exA exB x y
  dsimp only
  intro ho hp hr hon hx hy
  obtain ⟨xo, xi, heq⟩ := execHashExchange_eq (u := h) (exA := exA) (exB := exB) ho hp hr hon hx hy
  by_cases hxy : x = y
  · rw [if_pos hxy, matchOutcome_of_standby hr] at heq
    have ht := TouchesBoth.settle (.refl (s := onBoth (unitMatch h) s)) settleReg_le_outcomeReg
    refine ⟨_, heq, ht.now.trans (onBoth_now _ _), ht.pending.trans (onBoth_pending _ _), fun j => ?_⟩
    have hj := ht.lanes j
    rw [laneOf_onBoth] at hj
    rw [hj.units, unitMatch_units, vmod, vget_vset_self, hj.regs _ not_outcomeReg_XLN_FLAG, rget_unitMatch]
    refine ⟨rfl, fun _ => ⟨?_, rfl, rfl⟩, fun e => absurd hxy e, fun g hg => ?_⟩
    · rw [getLsbD_setFlag, if_pos rfl]
    · rw [getLsbD_setFlag, if_neg hg]
  · rw [if_neg hxy] at heq
    have hrole : roleOf (unitDiffer s.now h (laneOf s (otherLane o))) ≠ roleCatchUp := by
      rw [roleOf_unitDiffer, hr]
      decide
    have ht := (touches_differOutcome (o := o) (xo := xo) (xi := xi) hrole).settle settleReg_le_outcomeReg
    refine ⟨_, heq, ht.now.trans (onBoth_now _ _), ht.pending.trans (onBoth_pending _ _), fun j => ?_⟩
    have hj := ht.lanes j
    rw [laneOf_onBoth] at hj
    obtain ⟨m, hm, hflag, hhash, hrun, -⟩ := unitDiffer_touches s.now h (laneOf s j)
    have hj := (hm.mono gradeReg_le_outcomeReg).trans hj
    rw [hj.units, hj.regs _ not_outcomeReg_XLN_FLAG]
    exact ⟨hhash, fun e => absurd e hxy, fun _ => ⟨by rw [hflag, if_pos rfl], hrun⟩, fun g hg => by rw [hflag, if_neg hg]⟩

end Sys2Proof.Machine

namespace Sys2Proof.Machine

/-! ### Instants (R22, R23, R106, R393) -/

@[simp] theorem tickTo_pending (t : Nat) (s : State) : (tickTo t s).pending = s.pending := by
  unfold tickTo; split <;> rfl

@[simp] theorem tickBy_pending (f : Lane → Option Nat) (s : State) : (tickBy f s).pending = s.pending := by
  unfold tickBy; split
  · exact tickTo_pending _ _
  · rfl

@[simp] theorem settle_now (s : State) : (settle s).now = s.now := (calm_settle s).now

@[simp] theorem settle_pending (s : State) : (settle s).pending = s.pending := (calm_settle s).pending

@[simp] theorem afterCommit_pending (old s : State) : (afterCommit old s).pending = s.pending := by
  unfold afterCommit
  extract_lets ended
  rw [settle_pending]
  split <;> rfl

@[simp] theorem commitsDue_pending (s : State) : (commitsDue s).pending = s.pending := by
  unfold commitsDue
  split
  · rw [afterCommit_pending, inRunning_pending]
  · rfl

/-- What carrying out the requests leaves of an axis. -/
protected theorem Quiet.axis {l m : Lane} (h : Quiet l m) (a : Axis) :
    vget m.axes a = { vget l.axes a with ask := (vget m.axes a).ask, stopNy := (vget m.axes a).stopNy } := by
  have e := h.axes a
  calc vget m.axes a = { ({ vget m.axes a with ask := none, stopNy := false } : AxisRt) with
          ask := (vget m.axes a).ask, stopNy := (vget m.axes a).stopNy } := rfl
    _ = _ := by rw [e]

/-! ### The sample cut-off and the set-point latch (R23, R281) -/

theorem vget_modAx_self (l : Lane) (a : Axis) (f : AxisRt → AxisRt) : vget (modAx l a f).axes a = f (vget l.axes a) := by
  simp only [modAx, vmod, vget_vset_self]

/-- Whether a period of the axis is running: it has begun and not ended. -/
def inPeriod (l : Lane) (a : Axis) : Bool := (vget l.axes a).live && !(vget l.axes a).ended

/-- The lane at its cut-off: nothing where the axis has none to come, else the mark that it has passed. -/
theorem cutoffLane_of_none {now : Nat} {a : Axis} {ports : Brick → Fin 2 → Bool × Nat} {p l : Lane}
    (h : inPeriod l a = false ∨ (vget l.axes a).cutDone = true) :
    cutoffLane now a ports p l = l := by
  unfold cutoffLane
  refine if_pos ?_
  unfold inPeriod at h
  rcases h with h | h <;> revert h <;> cases (vget l.axes a).live <;> cases (vget l.axes a).ended <;> simp

theorem cutoffLane_cutDone {now : Nat} {a : Axis} {ports : Brick → Fin 2 → Bool × Nat} {p l : Lane} (h : inPeriod l a = true) :
    (vget (cutoffLane now a ports p l).axes a).cutDone = true := by
  cases hc : (vget l.axes a).cutDone
  · unfold inPeriod at h
    simp only [Bool.and_eq_true, Bool.not_eq_true'] at h
    unfold cutoffLane
    extract_lets x m
    have hx : (!x.live || x.ended || x.cutDone) = false := by simp [x, h, hc]
    rw [hx, if_neg Bool.false_ne_true, vget_modAx_self]
  · rw [cutoffLane_of_none (.inr hc)]
    exact hc

@[simp] theorem lpeSummary_axes (l : Lane) : (lpeSummary l).axes = l.axes := rfl

theorem latchLane_of_none {now : Nat} {a : Axis} {ups : List Upset} {l : Lane}
    (h : inPeriod l a = false ∨ (vget l.axes a).latDone = true) : latchLane now a ups l = l := by
  unfold latchLane
  refine if_pos ?_
  unfold inPeriod at h
  rcases h with h | h <;> revert h <;> cases (vget l.axes a).live <;> cases (vget l.axes a).ended <;> simp

theorem latchLane_latDone {now : Nat} {a : Axis} {ups : List Upset} {l : Lane} (h : inPeriod l a = true)
    (hd : (vget l.axes a).latDone = false) :
    (vget (latchLane now a ups l).axes a).latDone = true ∧ (vget (latchLane now a ups l).axes a).obs.first = false := by
  unfold inPeriod at h
  simp only [Bool.and_eq_true, Bool.not_eq_true'] at h
  unfold latchLane
  extract_lets x l1 l2 l3 l4 l5 l6 l7 l8 run
  have hx : (!x.live || x.ended || x.latDone) = false := by simp [x, h, hd]
  rw [hx, if_neg Bool.false_ne_true, lpeSummary_axes, vget_modAx_self]
  exact ⟨rfl, rfl⟩

protected theorem Quiet.of_eq {l m n : Lane} (h : Quiet m n) (e : m = l) : Quiet l n := e ▸ h

/-- SAMPLE_CUTOFF in a lane that runs. -/
theorem execSampleCutoff_lane {i : LaneId} {s u : State} {a : Axis}
    (hu : u = tickBy (fun l => if inPeriod l a then some ((vget l.axes a).t0 + tpOf l a / 4) else none) s)
    (hrun : laneRuns (laneOf u i) = true) :
    ∃ t, execSampleCutoff a s = .next t ∧ t.now = u.now ∧ t.pending = s.pending ∧
      Quiet (cutoffLane u.now a (portViews u) (laneOf u (otherLane i)) (laneOf u i)) (laneOf t i) := by
  subst hu
  refine ⟨_, rfl, settle_now _, (settle_pending _).trans (tickBy_pending _ _), ?_⟩
  refine ((calm_settle _).lanes i).of_eq ?_
  cases i <;> exact if_pos hrun

/-- SETPOINT_LATCH in a lane that runs. -/
theorem execSetpointLatch_lane {i : LaneId} {s u : State} {x : LatchIn}
    (hu : u = commitsDue (tickBy (fun l => if inPeriod l x.axis then some ((vget l.axes x.axis).t0 + tpOf l x.axis / 2) else none) s))
    (hrun : laneRuns (laneOf u i) = true) :
    ∃ t, execSetpointLatch x s = .next t ∧ t.now = u.now ∧ t.pending = s.pending ∧
      Quiet (latchLane u.now x.axis x.ups (laneOf u i)) (laneOf t i) := by
  subst hu
  refine ⟨_, rfl, settle_now _, ?_, ?_⟩
  · rw [settle_pending, inRunning_pending, commitsDue_pending, tickBy_pending]
  · rw [← laneOf_inRunning_of hrun (g := latchLane _ x.axis x.ups)]
    exact (calm_settle _).lanes i

/-- Settles O27: both events end in the mark of their instant, or change nothing where the period has none to come. -/
theorem cutoffAndLatch : Obligations.CutoffAndLatch := by
  unfold Obligations.CutoffAndLatch
  intro i s a
  dsimp only
  constructor
  · intro hrun
    obtain ⟨t, ht, hnow, hpend, hq⟩ := execSampleCutoff_lane rfl hrun
    refine ⟨t, ht, hnow, hpend, fun hp => ?_, fun hn => ?_⟩
    · rw [hq.axis a]
      exact cutoffLane_cutDone hp
    · exact hq.of_eq (cutoffLane_of_none hn)
  · intro hrun ups
    obtain ⟨t, ht, hnow, hpend, hq⟩ := execSetpointLatch_lane (x := { axis := a, ups := ups }) rfl hrun
    refine ⟨t, ht, hnow, hpend, fun hp hd => ?_, fun hn => ?_⟩
    · rw [hq.axis a]
      exact latchLane_latDone hp hd
    · exact hq.of_eq (latchLane_of_none hn)

end Sys2Proof.Machine

namespace Sys2Proof.Machine

/-! ### Releases (R83, R84, R107) -/

/-- The registers that releasing tasks and dispatching them may change: the sum of declared tags, the cores' sticky conditions, FLT_STK
and the wake masks' pending bits. -/
def TaskReg (a : Nat) : Prop :=
  a = ADM_TAGSUM ∨ a = FLT_STK ∨ (∃ c : Fin 4, a = SYS_CSTK c) ∨ ∃ (n w : Nat), n < 64 ∧ w < 8 ∧ a = FLT_WP n w

theorem TaskReg.num {a : Nat} (h : TaskReg a) : (0x4000010C ≤ a ∧ a < 0x40000140) ∨ a = 0x40020034 ∨ 0x400D0000 ≤ a := by
  obtain rfl | rfl | ⟨c, rfl⟩ | ⟨n, w, -, -, rfl⟩ := h
  · exact .inr (.inl rfl)
  · exact .inr (.inr (by simp [FLT_STK]))
  · have := c.2
    exact .inl (by simp only [SYS_CSTK]; omega)
  · exact .inr (.inr (by simp only [FLT_WP]; omega))

/-- A lane changed at most in its cores, tags and those registers. -/
structure Tasked (l m : Lane) : Prop where
  rest : m = { l with cores := m.cores, tags := m.tags, regs := m.regs, cyc := m.cyc }
  regs : ∀ a, ¬ TaskReg a → rget m a = rget l a

section
variable {l m n : Lane} {now rc : Nat} {c : Fin 4} {k : Fin 16}

protected theorem Tasked.refl : Tasked l l := ⟨rfl, fun _ _ => rfl⟩

protected theorem Tasked.trans (h : Tasked l m) (g : Tasked m n) : Tasked l n := by
  refine ⟨?_, fun a ha => (g.regs a ha).trans (h.regs a ha)⟩
  have hn := g.rest
  rw [h.rest] at hn
  exact hn

protected theorem Tasked.ite {p : Prop} [Decidable p] (h : Tasked l m) (g : Tasked l n) : Tasked l (if p then m else n) := by
  split <;> assumption

protected theorem Tasked.foldl {α : Type} {f : Lane → α → Lane} {xs : List α} (h : Tasked l m)
    (hf : ∀ {m x}, Tasked l m → Tasked l (f m x)) : Tasked l (xs.foldl f m) :=
  List.foldlRecOn xs f h fun _ h _ _ => hf h

protected theorem Tasked.rset {a : Nat} {v : Word} (h : Tasked l m) (ha : TaskReg a) : Tasked l (rset m a v) :=
  h.trans ⟨rfl, fun _ hb => rget_rset_ne m v fun e => hb (e ▸ ha)⟩

protected theorem Tasked.putCore {x : Core} (h : Tasked l m) : Tasked l (putCore m c x) := h.trans ⟨rfl, fun _ _ => rfl⟩

protected theorem Tasked.putTask {t : TaskCtx} (h : Tasked l m) : Tasked l (putTask m c k t) := h.putCore

protected theorem Tasked.tags {ts : Vector TagSt 64} (h : Tasked l m) : Tasked l { m with tags := ts } :=
  h.trans ⟨rfl, fun _ _ => rfl⟩

protected theorem Tasked.stkSet {a v : Nat} (h : Tasked l m) (ha : TaskReg a) : Tasked l (stkSet m a v) :=
  h.trans ⟨rfl, fun _ hb => rget_stkSet_ne m v fun e => hb (e ▸ ha)⟩

protected theorem Tasked.leaveTags (h : Tasked l m) : Tasked l (leaveTags m c k) := by
  have hs : ∀ {b : Bool} {m : Lane}, Tasked l m → Tasked l (stkIf b m (SYS_CSTK_TAGLEFT c)) := fun h =>
    .ite ((h.stkSet (.inr (.inr (.inl ⟨c, rfl⟩)))).stkSet (.inr (.inl rfl))) h
  unfold Machine.leaveTags tagDrop
  extract_lets held m'
  exact .ite (hs h.tags) (.rset (hs h.tags) (.inl rfl))

protected theorem Tasked.endJob {keep : Bool} (h : Tasked l m) : Tasked l (endJob m c k keep) := .leaveTags h.putTask

protected theorem Tasked.startJob (h : Tasked l m) : Tasked l (startJob m now rc c k) := h.putTask

protected theorem Tasked.releaseTask (h : Tasked l m) : Tasked l (releaseTask m now rc c k) := by
  unfold Machine.releaseTask
  extract_lets ins t m'
  exact .ite h.putTask (.startJob (.ite h.putTask h.putTask.endJob))

/-- The source that a wait ends with is one of 256. -/
theorem wakePending_lt {t j : Nat} (h : wakePending l t = some j) : j / 32 < 8 := by
  unfold wakePending at h
  obtain ⟨w, hw, hj⟩ := List.exists_of_findSome?_eq_some h
  rw [List.mem_range] at hw
  dsimp only at hj
  split at hj
  · exact absurd hj nofun
  · obtain ⟨b, hb, rfl⟩ := Option.map_eq_some_iff.mp hj
    have := List.mem_range.mp (List.mem_of_find?_eq_some hb)
    omega

protected theorem Tasked.resumeTask (h : Tasked l m) : Tasked l (resumeTask m c k) := by
  unfold Machine.resumeTask
  extract_lets t
  split
  · split
    · exact .putTask h.tags
    · exact h
  · split
    · rename_i hn
      extract_lets a
      have ht : tix c k < 64 := by
        have := c.2
        have := k.2
        simp only [tix]
        omega
      exact .putTask (h.rset (.inr (.inr (.inr ⟨_, _, ht, wakePending_lt hn, rfl⟩))))
    · exact h
  · exact h

protected theorem Tasked.dispatch (h : Tasked l m) : Tasked l (dispatch m now c) := by
  unfold Machine.dispatch
  split
  · exact h
  · extract_lets x t cyc x' m'
    exact .resumeTask (.ite h.putCore h.putCore)

protected theorem Tasked.dispatchAll (h : Tasked l m) : Tasked l (dispatchAll m now) := h.foldl Tasked.dispatch

protected theorem Tasked.releaseClass {cls : Nat} {axis : Option Axis} (h : Tasked l m) : Tasked l (releaseClass m now cls axis) :=
  .dispatchAll (h.foldl fun h => h.foldl fun h => .ite h.releaseTask h)

protected theorem Tasked.fget (h : Tasked l m) {f : Field} (hf : ¬ TaskReg f.addr) : fget m f = fget l f := by
  unfold Machine.fget
  rw [h.regs _ hf]

protected theorem Tasked.axes (h : Tasked l m) : m.axes = l.axes := (congrArg Lane.axes h.rest :)
protected theorem Tasked.vis (h : Tasked l m) : m.vis = l.vis := (congrArg Lane.vis h.rest :)
protected theorem Tasked.items (h : Tasked l m) : m.items = l.items := (congrArg Lane.items h.rest :)
end

/-! ### A released job stands at its entry -/

section
variable {l m n : Lane} {now t rc : Nat} {c d : Fin 4} {k j : Fin 16}

theorem taskOf_putCore_of_tasks {x : Core} (h : x.tasks = (coreOf l d).tasks) : taskOf (putCore l d x) c k = taskOf l c k := by
  unfold taskOf
  by_cases hc : c = d
  · subst hc
    rw [coreOf_putCore_self, h]
  · rw [coreOf_putCore_ne _ _ hc]

theorem taskOf_putTask (y : TaskCtx) :
    taskOf (putTask l d j y) c k = if c = d ∧ k = j then y else taskOf l c k := by
  split
  · rename_i h
    obtain ⟨rfl, rfl⟩ := h
    exact taskOf_putTask_self _ _ _ _
  · rename_i h
    by_cases hc : c = d
    · subst hc
      exact taskOf_putTask_ne _ _ _ fun e => h ⟨rfl, e⟩
    · unfold taskOf
      rw [coreOf_putTask_ne _ _ _ hc]

theorem leaveTags_cores : (leaveTags l d j).cores = l.cores := by
  unfold leaveTags tagDrop
  extract_lets held l1
  split <;> simp [l1]

theorem taskOf_leaveTags : taskOf (leaveTags l d j) c k = taskOf l c k := by
  unfold taskOf coreOf
  rw [leaveTags_cores]

theorem taskOf_endJob_ne {keep : Bool} (h : ¬ (c = d ∧ k = j)) : taskOf (endJob l d j keep) c k = taskOf l c k := by
  unfold endJob
  extract_lets t
  rw [taskOf_leaveTags, taskOf_putTask, if_neg h]

/-- The release of another task leaves a task as it is. -/
theorem taskOf_releaseTask_ne (h : ¬ (c = d ∧ k = j)) : taskOf (releaseTask l now rc d j) c k = taskOf l c k := by
  unfold releaseTask startJob
  extract_lets ins x l1 l2
  have h1 : taskOf l1 c k = taskOf l c k := by rw [taskOf_putTask, if_neg h]
  split
  · exact h1
  · rw [taskOf_putTask, if_neg h]
    split
    · exact h1
    · rw [taskOf_endJob_ne h, h1]

theorem not_taskReg_ADM {a : Nat} (h : 0x40020100 ≤ a) (h' : a < 0x40030000) : ¬ TaskReg a := fun ht => by
  have := ht.num
  omega

theorem tix_lt (c : Fin 4) (k : Fin 16) : tix c k < 64 := by
  have := c.2
  have := k.2
  simp only [tix]
  omega

protected theorem Tasked.entry (h : Tasked l m) : fget m (ADM_TENT_ENTRY (tix c k)) = fget l (ADM_TENT_ENTRY (tix c k)) := by
  have := tix_lt c k
  exact h.fget (not_taskReg_ADM (by simp only [ADM_TENT_ENTRY, ADM_TENT]; omega) (by simp only [ADM_TENT_ENTRY, ADM_TENT]; omega))

protected theorem Tasked.cfg (h : Tasked l m) : rget m (ADM_TCFG (tix c k)) = rget l (ADM_TCFG (tix c k)) := by
  have := tix_lt c k
  exact h.regs _ (not_taskReg_ADM (by simp [ADM_TCFG]) (by simp only [ADM_TCFG]; omega))

theorem bitsOf_lt (v lo w : Nat) : bitsOf v lo w < 2 ^ w := Nat.mod_lt _ (Nat.two_pow_pos w)

protected theorem Tasked.axEnabled (h : Tasked l m) {a : Nat} (ha : a < 16) : axEnabled m a = axEnabled l a := by
  unfold Machine.axEnabled
  rw [h.fget fun ht => ?_]
  have := ht.num
  simp only [AXS_EN_BST, AXS_EN] at this
  omega

/-- What makes up the set of work does not hang on the tasks' states. -/
protected theorem Tasked.taskInSet (h : Tasked l m) : taskInSet m (tix c k) = taskInSet l (tix c k) := by
  have ha : Machine.fget l (ADM_TCFG_AXIS (tix c k)) < 16 := bitsOf_lt _ _ 4
  have e : ∀ f : Field, f.addr = ADM_TCFG (tix c k) → Machine.fget m f = Machine.fget l f := fun f hf => by
    unfold Machine.fget
    rw [hf, h.cfg]
  unfold Machine.taskInSet fon
  rw [e _ rfl, e (ADM_TCFG_CLASS _) rfl, e (ADM_TCFG_AXIS _) rfl, e (ADM_TCFG_ITEM _) rfl, h.axEnabled ha, h.items]

/-- Whether a task has just been released says the same of lanes that agree on the task and on its entry. -/
theorem released_congr (ht : taskOf m c k = taskOf l c k) (hm : Tasked l m) : Released m t c k ↔ Released l t c k := by
  unfold Released
  rw [ht, hm.entry]

theorem released_startJob : Released (startJob l t rc c k) t c k := by
  have e : Tasked l (startJob l t rc c k) := .startJob .refl
  unfold Released
  rw [e.entry]
  unfold startJob
  rw [taskOf_putTask_self]
  exact ⟨rfl, rfl, rfl, rfl, rfl, rfl⟩

theorem released_releaseTask (h : taskInSet l (tix c k) = true) : Released (releaseTask l t rc c k) t c k := by
  unfold releaseTask
  extract_lets ins x l1
  rw [if_neg (by simp [ins, h])]
  exact released_startJob

/-- A release keeps every job that has just been released, of the same task or of another. -/
protected theorem Released.releaseTask (h : Released l t c k) : Released (releaseTask l t rc d j) t c k := by
  by_cases hk : c = d ∧ k = j
  · obtain ⟨rfl, rfl⟩ := hk
    cases hs : taskInSet l (tix c k)
    · have e : releaseTask l t rc c k = putTask l c k { taskOf l c k with act := false } := by
        unfold releaseTask
        extract_lets ins x l1
        have hi : ins = false := hs
        rw [if_pos (by simp [hi])]
        simp only [l1, x, hi]
      obtain ⟨h1, h2, h3, h4, h5, h6⟩ := h
      have hm : Tasked l (releaseTask l t rc c k) := .releaseTask .refl
      unfold Released
      rw [hm.entry, e, taskOf_putTask_self]
      exact ⟨h1, h2, h3, h4, h5, h6⟩
    · exact released_releaseTask hs
  · exact (released_congr (taskOf_releaseTask_ne hk) (.releaseTask .refl)).mpr h

protected theorem Released.ite {p : Prop} [Decidable p] (h : Released m t c k) (g : Released n t c k) :
    Released (if p then m else n) t c k := by split <;> assumption

/-- The dispatcher leaves a job that can run as it is. -/
theorem taskOf_dispatch (h : (taskOf l c k).run = .live) : taskOf (dispatch l now d) c k = taskOf l c k := by
  unfold dispatch
  split
  · rfl
  · rename_i j hj
    extract_lets x y cyc x' m
    have hm : ∀ c k, taskOf m c k = taskOf l c k := fun c k => by
      dsimp only [m]
      split <;> exact taskOf_putCore_of_tasks rfl
    unfold resumeTask
    extract_lets z
    have hne : (∀ r g, z.run ≠ .waitTag r g) ∧ (∀ r, z.run ≠ .waitEvt r) ∨ ¬ (c = d ∧ k = j) := by
      by_cases hk : c = d ∧ k = j
      · obtain ⟨rfl, rfl⟩ := hk
        have hz : z.run = .live := by rw [← h, ← hm]
        exact .inl ⟨fun _ _ e => absurd (hz.symm.trans e) nofun, fun _ e => absurd (hz.symm.trans e) nofun⟩
      · exact .inr hk
    split
    · rename_i hr
      have hk := hne.resolve_left fun e => e.1 _ _ hr
      split
      · rw [taskOf_putTask, if_neg hk]
        exact hm _ _
      · exact hm _ _
    · rename_i hr
      have hk := hne.resolve_left fun e => e.2 _ hr
      split
      · extract_lets a
        rw [taskOf_putTask, if_neg hk]
        exact hm _ _
      · exact hm _ _
    · exact hm _ _

protected theorem Released.dispatch (h : Released l t c k) : Released (dispatch l now d) t c k :=
  (released_congr (taskOf_dispatch h.1) (.dispatch .refl)).mpr h

theorem mem_allFin {n : Nat} (i : Fin n) : i ∈ allFin n := List.mem_finRange i

/-- What one element of a list establishes, whatever came before, and every other keeps, holds at the end of the fold. -/
theorem foldl_establishes {α β : Type} {f : β → α → β} {Inv P : β → Prop} {xs : List α} {x : α} {b : β} (hx : x ∈ xs)
    (hb : Inv b) (hInv : ∀ b y, Inv b → Inv (f b y)) (hest : ∀ b, Inv b → P (f b x)) (hkeep : ∀ b y, P b → P (f b y)) :
    P (xs.foldl f b) := by
  obtain ⟨ys, zs, rfl⟩ := List.append_of_mem hx
  rw [List.foldl_append, List.foldl_cons]
  have h1 : Inv (ys.foldl f b) := List.foldlRecOn ys f hb fun b h y _ => hInv b y h
  exact List.foldlRecOn zs f (hest _ h1) fun b h y _ => hkeep b y h

/-- Every task of the class and axis that belongs to the set of work is released (R83). -/
theorem released_releaseClass {cls : Nat} {axis : Option Axis} (hc : fget l (ADM_TCFG_CLASS (tix c k)) = cls)
    (ha : ∀ a, axis = some a → fget l (ADM_TCFG_AXIS (tix c k)) = a.1) (hs : taskInSet l (tix c k) = true) :
    Released (releaseClass l now cls axis) now c k := by
  unfold releaseClass
  extract_lets m
  have hm : Released m now c k := by
    refine foldl_establishes (x := c) (Inv := Tasked l) (P := fun m => Released m now c k) (mem_allFin c) .refl ?_ ?_ ?_
    · exact fun m d h => h.foldl fun h => .ite h.releaseTask h
    · intro m h
      refine foldl_establishes (x := k) (Inv := Tasked l) (P := fun m => Released m now c k) (mem_allFin k) h ?_ ?_ ?_
      · exact fun m d h => .ite h.releaseTask h
      · intro m h
        have hv : fon l (ADM_TCFG_VALID (tix c k)) = true := by
          unfold taskInSet at hs
          exact (Bool.and_eq_true _ _ ▸ hs).1
        have e : ∀ f : Field, f.addr = ADM_TCFG (tix c k) → fget m f = fget l f := fun f hf => by
          unfold fget
          rw [hf, h.cfg]
        rw [if_pos]
        · exact released_releaseTask (h.taskInSet.trans hs)
        · unfold fon at hv ⊢
          rw [e _ rfl, hv, e _ rfl, hc]
          cases axis with
          | none => simp
          | some a => simp [e (ADM_TCFG_AXIS _) rfl, ha a rfl]
      · exact fun m j h => .ite h.releaseTask h
    · exact fun m d h => List.foldlRecOn (motive := fun m => Released m now c k) _ _ h fun m h j _ => .ite h.releaseTask h
  unfold dispatchAll
  exact List.foldlRecOn (motive := fun m => Released m now c k) _ _ hm fun m h d _ => h.dispatch
end

end Sys2Proof.Machine

namespace Sys2Proof.Machine

/-! ### Period starts (R22, R23, R420) -/

section
variable {l m : Lane}

theorem fltSummary_vis (l : Lane) : (fltSummary l).vis = l.vis := rfl

theorem showLate_vis (l : Lane) : (showLate l).vis = l.vis :=
  List.foldlRecOn (motive := fun m : Lane => m.vis = l.vis) _ _ rfl fun _ h _ _ => h

theorem wakeSet_vis (l : Lane) (k : Nat) : (wakeSet l k).vis = l.vis :=
  List.foldlRecOn (motive := fun m : Lane => m.vis = l.vis) _ _ rfl fun m h _ _ => by
    split <;> exact h

theorem showRaise_vis (l : Lane) (r : Raised) : (showRaise l r).vis = l.vis := by
  unfold showRaise
  extract_lets l1 l2 l3 l4
  have h1 : l1.vis = l.vis := fcount_vis _ _
  clear_value l1
  have h2 : l2.vis = l1.vis := (apply_ite Lane.vis _ _ _).trans (ite_self _)
  clear_value l2
  rw [wakeSet_vis, fltStk_vis, rset_vis, rset_vis, fset_vis, fset_vis, h2, h1]

/-- Once raised sources have become visible, none waits (R420). -/
theorem showRaises_vis (l : Lane) : (showRaises l).vis = [] := by
  unfold showRaises
  rw [fltSummary_vis, fsetB_vis, showLate_vis]
  exact List.foldlRecOn (motive := fun m : Lane => m.vis = []) _ _ rfl fun m h r _ => (showRaise_vis m r).trans h

/-- Whether an axis runs hangs on its registers and its period alone. -/
protected theorem Tasked.axRuns (h : Tasked l m) (a : Axis) : axRuns m a = axRuns l a := by
  unfold Machine.axRuns
  rw [h.axEnabled a.2, h.axes]

protected theorem Quiet.fget (h : Quiet l m) {f : Field} (hf : ¬ SettleReg f.addr) : fget m f = fget l f := h.touches.fget hf

theorem not_settleReg_AXS_EN (a : Axis) : ¬ SettleReg (AXS_EN a) := fun h => by
  have := h.num
  simp only [AXS_EN, List.mem_cons, List.not_mem_nil, or_false] at this
  omega

theorem not_settleReg_ADM {a : Nat} (h : 0x40020000 ≤ a) (h' : a < 0x40030000) : ¬ SettleReg a := fun ht => by
  have := ht.num
  simp only [List.mem_cons, List.not_mem_nil, or_false] at this
  omega

protected theorem Quiet.axRuns (h : Quiet l m) (a : Axis) : axRuns m a = axRuns l a := by
  unfold Machine.axRuns axEnabled
  rw [h.fget (f := AXS_EN_BST a) (not_settleReg_AXS_EN a), h.axis a]

protected theorem Quiet.cores (h : Quiet l m) : m.cores = l.cores := (congrArg Lane.cores h.rest :)
protected theorem Quiet.vis (h : Quiet l m) : m.vis = l.vis := (congrArg Lane.vis h.rest :)
protected theorem Quiet.items (h : Quiet l m) : m.items = l.items := (congrArg Lane.items h.rest :)
end

/-- An axis without periods has no period start. -/
theorem periodStartLane_of_none {now : Nat} {a : Axis} {l : Lane} (h : (vget l.axes a).live = false) (hs : (vget l.axes a).startS = none) :
    periodStartLane now a l = l := by
  unfold periodStartLane
  exact if_pos (by simp [h, hs])

/-- A period start ends in raised sources becoming visible and, in an axis that runs, its T0 tasks being released. -/
theorem periodStartLane_eq {now : Nat} {a : Axis} {l : Lane} (h : (vget l.axes a).live = true ∨ (vget l.axes a).startS.isSome = true) :
    ∃ m : Lane, m.vis = [] ∧ periodStartLane now a l = if axRuns m a then releaseClass m now 0 (some a) else m := by
  unfold periodStartLane
  rw [if_neg]
  · exact ⟨_, showRaises_vis _, rfl⟩
  · rcases h with h | h
    · simp [h]
    · simp [Option.isSome_iff_ne_none.mp h]

/-- What `settle` leaves of a task that has just been released. -/
protected theorem Quiet.released {l m : Lane} {t : Nat} {c : Fin 4} {k : Fin 16} (h : Quiet l m) (hr : Released l t c k) : Released m t c k := by
  have ht : taskOf m c k = taskOf l c k := by
    unfold taskOf coreOf
    rw [h.cores]
  have := tix_lt c k
  have he : fget m (ADM_TENT_ENTRY (tix c k)) = fget l (ADM_TENT_ENTRY (tix c k)) :=
    h.fget (not_settleReg_ADM (by simp only [ADM_TENT_ENTRY, ADM_TENT]; omega) (by simp only [ADM_TENT_ENTRY, ADM_TENT]; omega))
  unfold Released
  rw [ht, he]
  exact hr

protected theorem Quiet.cfg {l m : Lane} {c : Fin 4} {k : Fin 16} (h : Quiet l m) {f : Field} (hf : f.addr = ADM_TCFG (tix c k)) :
    Machine.fget m f = Machine.fget l f := by
  have := tix_lt c k
  exact h.fget (hf ▸ not_settleReg_ADM (by simp only [ADM_TCFG]; omega) (by simp only [ADM_TCFG]; omega))

protected theorem Quiet.taskInSet {l m : Lane} {c : Fin 4} {k : Fin 16} (h : Quiet l m) : taskInSet m (tix c k) = taskInSet l (tix c k) := by
  have ha : Machine.fget l (ADM_TCFG_AXIS (tix c k)) < 16 := bitsOf_lt _ _ 4
  unfold Machine.taskInSet fon axEnabled
  rw [h.cfg rfl, h.cfg (f := ADM_TCFG_CLASS _) rfl, h.cfg (f := ADM_TCFG_AXIS _) rfl, h.cfg (f := ADM_TCFG_ITEM _) rfl,
    h.fget (f := AXS_EN_BST _) (not_settleReg_AXS_EN ⟨_, ha⟩), h.items]

/-- Settles O26: a period start ends in `showRaises` and, for an axis that runs, the release of its T0 tasks. -/
theorem periodStartReleases : Obligations.PeriodStartReleases := by
  unfold Obligations.PeriodStartReleases
  intro i s a
  dsimp only
  generalize hu : commitsDue (tickBy (fun l => nextStart l a) s) = u
  intro hrun
  have hx : execPeriodStart a s = .next (settle (inRunning (periodStartLane u.now a) (bricksPeriod u))) := by rw [← hu]; rfl
  have hb : laneOf (bricksPeriod u) i = laneOf u i := by cases i <;> rfl
  have hl : laneOf (inRunning (periodStartLane u.now a) (bricksPeriod u)) i = periodStartLane u.now a (laneOf u i) := by
    rw [laneOf_inRunning_of (by rw [hb]; exact hrun), hb]
  have hq := (calm_settle (inRunning (periodStartLane u.now a) (bricksPeriod u))).lanes i
  rw [hl] at hq
  have hp : u.pending = s.pending := by rw [← hu, commitsDue_pending, tickBy_pending]
  constructor
  · intro hlive
    obtain ⟨m, hvis, hm⟩ := periodStartLane_eq (now := u.now) hlive
    rw [hm] at hq
    have hnow : (settle (inRunning (periodStartLane u.now a) (bricksPeriod u))).now = u.now := by
      rw [settle_now, inRunning_now]
      rfl
    refine ⟨_, hx, hnow, ?_, ?_, fun hax c k hc ha hs => ?_⟩
    · rw [settle_pending, inRunning_pending]
      exact hp
    · rw [hq.vis]
      split
      · exact (Tasked.releaseClass .refl).vis.trans hvis
      · exact hvis
    · have hk : Tasked m (if axRuns m a then releaseClass m u.now 0 (some a) else m) := .ite (.releaseClass .refl) .refl
      rw [hq.axRuns, hk.axRuns] at hax
      rw [hq.cfg rfl] at hc ha
      rw [hq.taskInSet] at hs
      rw [if_pos hax] at hq hc ha hs hk
      have e : ∀ f : Field, f.addr = ADM_TCFG (tix c k) → fget (releaseClass m u.now 0 (some a)) f = fget m f := fun f hf => by
        unfold fget
        rw [hf, hk.cfg]
      rw [e _ rfl] at hc ha
      rw [hk.taskInSet] at hs
      rw [hnow]
      exact hq.released (released_releaseClass hc (fun b hb => by cases hb; exact ha) hs)
  · intro hlive hstart
    rw [periodStartLane_of_none hlive hstart] at hq
    exact ⟨_, hx, hq⟩

end Sys2Proof.Machine

namespace Sys2Proof.Machine

/-! ### Period ends (R19, R20, R22, R429) -/

/-- What a lane is given at the reduction of unit `u`, `p` being its peer and `on` whether XLN carries symbols. -/
def unitFeed (on : Bool) (u : Fin 17) (p l : Lane) : Lane :=
  if laneActive p && laneRuns l && on then
    (if roleOf l = roleCatchUp && !(vget l.units u).copied then catchUnit u p l
     else if roleOf l = roleStandby && bit (rget l XLN_FLAG).toNat u.1 then resyncUnit u p l
     else l)
  else l

/-- The reduction in a lane that runs the unit. -/
def unitRed (u : Fin 17) (l : Lane) : Lane :=
  if laneRuns l && (decide (roleOf l ≠ roleCatchUp) || (vget l.units u).copied) then reduceUnit u l else l

theorem laneOf_unitEnd (u : Fin 17) (s : State) (i : LaneId) :
    laneOf (unitEnd u s) i = unitRed u (unitFeed (xlnOn s) u (laneOf s (otherLane i)) (laneOf s i)) := by cases i <;> rfl

theorem vget_map {α β : Type} {n : Nat} (v : Vector α n) (f : α → β) (i : Fin n) : vget (v.map f) i = f (vget v i) := by
  simp [vget]

section
variable {l p : Lane} {u : Fin 17} {on : Bool} {a : Axis}

/-- A lane that neither joins nor has the unit flagged in STANDBY is given nothing. -/
theorem unitFeed_of_own (hc : roleOf l ≠ roleCatchUp) (hs : roleOf l = roleStandby → (rget l XLN_FLAG).getLsbD u = false) :
    unitFeed on u p l = l := by
  unfold unitFeed
  split
  · rw [if_neg (by simp [hc]), if_neg]
    simp only [Bool.and_eq_true, decide_eq_true_eq, not_and, Bool.not_eq_true]
    exact hs
  · rfl

theorem unitRed_of_runs (h : laneRuns l = true) (hc : roleOf l ≠ roleCatchUp) : unitRed u l = reduceUnit u l :=
  if_pos (by simp [h, hc])

theorem moduleState_units (l : Lane) : (moduleState l).units = l.units := by
  unfold moduleState
  extract_lets m
  clear_value m
  exact (apply_ite Lane.units _ _ _).trans (ite_self _)

theorem catchUnit_copied : (vget (catchUnit u p l).units u).copied = true := by
  unfold catchUnit
  rw [moduleState_units]
  simp only [vmod, vget_vset_self]

theorem reduceUnit_copied (h : (vget l.units u).copied = true) : (vget (reduceUnit u l).units u).copied = true := by
  simp only [reduceUnit, vmod, vget_vset_self]
  exact h

/-- The store folds restart at the reduction (R19). -/
theorem reduceUnit_folds {c : Fin 4} : vget (coreOf (reduceUnit u l) c).folds u = 0xFFFFFFFF#32 := by
  simp only [coreOf, reduceUnit, vget_map, vget_vset_self]

theorem unitRed_copied (h : (vget l.units u).copied = true) : (vget (unitRed u l).units u).copied = true := by
  unfold unitRed
  split
  · exact reduceUnit_copied h
  · exact h

/-- A lane in CATCH-UP has its copy of a unit from the unit's reduction on. -/
theorem unitFeed_copied (hp : laneActive p = true) (hl : laneRuns l = true) (hr : roleOf l = roleCatchUp) :
    (vget (unitFeed true u p l).units u).copied = true := by
  unfold unitFeed
  rw [if_pos (by simp [hp, hl])]
  cases hc : (vget l.units u).copied
  · rw [if_pos (by simp [hr])]
    exact catchUnit_copied
  · rw [if_neg (by simp), if_neg (by simp [hr, roleCatchUp, roleStandby])]
    exact hc

theorem endPeriod_of_inPeriod (h : inPeriod l a = true) : endPeriod l a = { l with axes := vset l.axes a { vget l.axes a with
    t0 := (vget l.axes a).t0 + tpOf l a, tp1 := tpOf l a, k := (vget l.axes a).k + 1, pper := !(vget l.axes a).pper, ended := true } } := by
  have he : (vget l.axes a).ended = false := by
    unfold inPeriod at h
    simp only [Bool.and_eq_true, Bool.not_eq_true'] at h
    exact h.2
  simp only [endPeriod, modAx, vmod, he, Bool.false_eq_true, if_false]
end

/-- The lane whose view gives the instants has a period of the axis to end if every lane that runs or is ACTIVE has. -/
theorem refLane_inPeriod {s : State} {i : LaneId} {a : Axis} (h : laneRuns (laneOf s i) = true) (hi : inPeriod (laneOf s i) a = true)
    (ho : laneRuns (laneOf s (otherLane i)) = true ∨ laneActive (laneOf s (otherLane i)) = true → inPeriod (laneOf s (otherLane i)) a = true) :
    (refLane s).any (fun l => inPeriod l a) = true := by
  unfold refLane activeLane
  cases i <;> simp only [laneOf, otherLane] at h hi ho ⊢
  · cases ha : laneActive s.la <;> cases hb : laneActive s.lb <;> simp_all
  · cases ha : laneActive s.la <;> cases hb : laneActive s.lb <;> cases hr : laneRuns s.la <;> simp_all

/-- PERIOD_END where the lane whose view gives the instants has a period to end. -/
theorem execPeriodEnd_eq {a : Axis} {s u : State}
    (hu : u = commitsDue (tickBy (fun l => if inPeriod l a then some ((vget l.axes a).t0 + tpOf l a) else none) s))
    (h : (refLane u).any (fun l => inPeriod l a) = true) :
    execPeriodEnd a s = .next (inRunning (fun l => endPeriod l a) (unitEnd ⟨a.1, Nat.lt_trans a.2 (by decide)⟩ u)) := by
  subst hu
  exact if_pos h

/-- Settles O29: the lane is given nothing, reduces its unit and ends its period; a lane in CATCH-UP is given its copy. -/
theorem periodEndReducesUnit : Obligations.PeriodEndReducesUnit := by
  unfold Obligations.PeriodEndReducesUnit
  intro i s a
  dsimp only
  generalize hu : commitsDue (tickBy (fun l => if ((vget l.axes a).live && !(vget l.axes a).ended) = true then
    some ((vget l.axes a).t0 + tpOf l a) else none) s) = u
  intro hrun hc hs hin ho
  have hp : u.pending = s.pending := by rw [← hu, commitsDue_pending, tickBy_pending]
  have hexec := execPeriodEnd_eq hu.symm (refLane_inPeriod hrun hin ho)
  generalize hh : (⟨a.1, Nat.lt_trans a.2 (by decide)⟩ : Fin 17) = h at hexec ⊢
  have hl : laneOf (unitEnd h u) i = reduceUnit h (laneOf u i) := by
    rw [laneOf_unitEnd, unitFeed_of_own hc (hh ▸ hs), unitRed_of_runs hrun hc]
  have hm : laneOf (inRunning (fun l => endPeriod l a) (unitEnd h u)) i = endPeriod (reduceUnit h (laneOf u i)) a := by
    rw [← hl]
    refine laneOf_inRunning_of ?_
    rw [hl]
    exact hrun
  refine ⟨_, hexec, fun hact hor hcu hon => ?_, rfl, hp, ?_⟩
  · have hcop : (vget (laneOf (unitEnd h u) (otherLane i)).units h).copied = true := by
      rw [laneOf_unitEnd, hon]
      refine unitRed_copied (unitFeed_copied ?_ hor hcu)
      cases i <;> exact hact
    rw [laneOf_inRunning]
    split
    · exact hcop
    · exact hcop
  · rw [hm, endPeriod_of_inPeriod (l := reduceUnit h (laneOf u i)) hin]
    refine ⟨vget_vset_self _ _ _, fun b hb => vget_vset_ne _ _ hb, ?_, fun c => ?_, fun _ => rfl, rfl⟩
    · exact vget_vset_self _ _ _
    · exact reduceUnit_folds

end Sys2Proof.Machine

namespace Sys2Proof.Machine

/-! ### What the publication of an axis leaves: the receive records of the bricks -/

section
variable (l : Lane) (now : Nat) (a : Axis)

theorem foldl_rx {α : Type} {f : Lane → α → Lane} {xs : List α} (h : ∀ l x, (f l x).rx = l.rx) : (xs.foldl f l).rx = l.rx :=
  List.foldlRecOn (motive := fun m : Lane => m.rx = l.rx) xs f rfl fun m hm x _ => (h m x).trans hm

theorem ite_rx {c : Prop} [Decidable c] {l m n : Lane} (hm : m.rx = l.rx) (hn : n.rx = l.rx) : (if c then m else n).rx = l.rx := by
  split <;> assumption

theorem raiseO_rx (k obj detail : Nat) (c1 : Word) : (raiseO l now k obj detail c1).rx = l.rx :=
  (congrArg Lane.rx (Touches.refl (R := fun _ => True) |>.raiseO (fun _ _ => trivial)).rest :)

theorem modSlot_rx (s : Slot) (f : SlotRt → SlotRt) : (modSlot l s f).rx = l.rx := rfl

theorem fsetI_rx (f : Field) (v : Int) : (fsetI l f v).rx = l.rx := rfl

theorem lpeSummary_rx : (lpeSummary l).rx = l.rx := by
  unfold lpeSummary
  extract_lets us l1 l2 st l3 l4
  rw [fsetB_rx, fsetB_rx, fsetB_rx, fsetB_rx, fsetB_rx]

theorem obsSummary_rx : (obsSummary l).rx = l.rx := by
  unfold obsSummary
  extract_lets any l1 l2 l3
  rw [fsetB_rx, fsetB_rx, fsetB_rx, fsetB_rx]

theorem legSummary_rx : (legSummary l).rx = l.rx := by
  unfold legSummary
  extract_lets legs axisOf formed lim l1 l2 l3
  rw [fsetB_rx, fsetB_rx, fsetB_rx, fsetB_rx]

theorem showIndex_rx : (showIndex l a).rx = l.rx := by
  unfold showIndex
  extract_lets x m
  rw [fset_rx, fset_rx]

theorem publishObs_rx : (publishObs l a).rx = l.rx := by
  unfold publishObs
  extract_lets o l1 l2 l3 l4 l5
  rw [fsetI_rx, fsetI_rx, fsetI_rx, fset_rx, fset_rx, fsetI_rx, fset_rx, fset_rx]

theorem publishSlot_rx (s : Slot) : (publishSlot l s).rx = l.rx := by
  unfold publishSlot
  extract_lets z l1 l2 l3 l4
  rw [modSlot_rx, fset_rx, fsetB_rx, fsetB_rx, fset_rx, fsetB_rx, rset_rx, rset_rx, rset_rx, rset_rx]

theorem publishChain_rx : (publishChain l a).rx = l.rx := by
  unfold publishChain
  refine foldl_rx _ fun m s => ?_
  extract_lets m1 e
  have h1 : m1.rx = m.rx := foldl_rx _ fun _ _ => publishSlot_rx _ _
  refine ite_rx ?_ h1
  rw [mset32_rx, h1]

theorem groupRelease_rx : (groupRelease l a).rx = l.rx := foldl_rx _ fun _ _ => ite_rx rfl rfl

theorem foldl_mset32_rx {α : Type} {p : α → Nat} {w : Lane → α → Word} {xs : List α} :
    (xs.foldl (fun l x => mset32 l (p x) (w l x)) l).rx = l.rx := foldl_rx _ fun _ _ => mset32_rx _ _ _

theorem stkLate_rx (f : Field) : (stkLate l f).rx = l.rx := rfl

theorem capHeader_rx : (capHeader l).rx = l.rx := by
  unfold capHeader
  extract_lets b c ch ws
  clear_value ws
  exact List.foldlRecOn (motive := fun p : Lane × Nat => p.1.rx = l.rx) _ _ rfl fun p h w _ => (mset32_rx p.1 _ w).trans h

theorem capDone_rx : (capDone l now).rx = l.rx := by
  unfold capDone
  rw [raiseO_rx, lpeSummary_rx, capHeader_rx, stkLate_rx, fset_rx]

theorem capRecord_rx : (capRecord l now a).rx = l.rx := by
  unfold capRecord
  extract_lets st _ cp pos base nch l1 l2 v trig n l3 _ l4 post _ l5 l6 l7
  have h2 : l2.rx = l.rx := (foldl_mset32_rx _).trans (mset32_rx _ _ _)
  have h4 : l4.rx = l.rx := h2
  have h6 : l6.rx = l.rx := h2
  have h7 : l7.rx = l.rx := h2
  have g6 : (if post = 0 then capDone l6 now else l6).rx = l.rx := ite_rx ((capDone_rx _ _).trans h6) h6
  have g7 : (if l7.cap.left = 0 then capDone l7 now else l7).rx = l.rx := ite_rx ((capDone_rx _ _).trans h7) h7
  exact ite_rx rfl (ite_rx rfl (ite_rx g6 (ite_rx g7 h4)))

/-- The fields of an axis that its publication shows, as they are formed in `l`. -/
def axisShown (l : Lane) (a : Axis) : Lane :=
  let x := vget l.axes a
  let l := fsetI l (AXS_TLIV_TSTAR a) (codeS 16 32 x.tstar)
  let l := fsetB (fsetB l (AXS_FSTS_TLIM a) x.tlim) (AXS_FSTS_VLIM a) x.vlim
  let l := fsetB (fsetB l (AXS_STS_REGL a) x.regl) (AXS_STS_PWRL a) x.pwrl
  let l := fsetI l (AXS_FSTS_DID a) (codeS 12 16 x.obs.did)
  fsetI (fsetI l (AXS_TD_TDH a) (codeS 16 32 x.tdh)) (AXS_TEN_TEN a) (codeS 16 32 x.ten)

theorem axisShown_rx : (axisShown l a).rx = l.rx := by
  unfold axisShown
  extract_lets x l2 l3 l4 l5
  rw [fsetI_rx, fsetI_rx, fsetI_rx, fsetB_rx, fsetB_rx, fsetB_rx, fsetB_rx, fsetI_rx]

theorem publishAxis_eq : publishAxis l now a = legSummary (lpeSummary (obsSummary (capRecord
    (axisShown (groupRelease (publishChain (publishObs (showIndex l a) a) a) a) a) now a))) := rfl

theorem publishAxis_rx : (publishAxis l now a).rx = l.rx := by
  rw [publishAxis_eq, legSummary_rx, lpeSummary_rx, obsSummary_rx, capRecord_rx, axisShown_rx, groupRelease_rx,
    publishChain_rx, publishObs_rx, showIndex_rx]

theorem busLimits_rx (b : Fin 8) (v : Rat) (c : Bool) : (busLimits l b v c).1.rx = l.rx := by
  unfold busLimits
  extract_lets _ _ _ _ _ _ _ _ _ _ _ _ _
  exact List.foldlRecOn (motive := fun p : Lane × Bool => p.1.rx = l.rx) _ _ rfl fun _ h _ _ => h

theorem fluxAxis_rx (on : Bool) (tp : Rat) : (fluxAxis l a on tp).rx = l.rx := by
  unfold fluxAxis
  extract_lets x idfb lim full ok acc nws pfb l1 l2 l3
  have h1 : l1.rx = l.rx := ite_rx rfl rfl
  exact ite_rx h1 h1

theorem rideRun_rx (b : Fin 8) (v : Rat) : (rideRun l now b v).rx = l.rx := by
  unfold rideRun
  exact foldl_rx _ fun _ _ => ite_rx rfl (ite_rx rfl rfl)

theorem energyEnd_rx (b : Fin 8) : (energyEnd l now b).rx = l.rx := by
  unfold energyEnd
  extract_lets host x v chf
  split
  next l1 second hb =>
    have h1 : l1.rx = l.rx := by
      rw [← busLimits_rx l b v chf, hb]
    extract_lets old vf flx l2 tps l3 lad l4 l5 l6 l7 l8 l9
    have h3 : l3.rx = l.rx := (foldl_rx _ fun _ _ => fluxAxis_rx _ _ _ _).trans h1
    have h4 : l4.rx = l.rx := ite_rx h3 h3
    have h5 : l5.rx = l.rx := (rideRun_rx _ _ _ _).trans h4
    rw [fsetB_rx, fsetB_rx, fset_rx, fsetB_rx, fset_rx, fsetB_rx, fset_rx, h5]

theorem energyHostEnd_rx : (energyHostEnd l now a).rx = l.rx := foldl_rx _ fun _ _ => energyEnd_rx _ _ _
end

/-! ### The frame of a brick (R25, R270, R275) -/

/-- The receive record of brick `b` has its next frame sent: `t1` its start, `hold` whether it repeats the period before. -/
structure FrameSent (hold : Bool) (t1 : Nat) (b : Brick) (old r : RxRt) : Prop where
  seqN : r.seqN = (old.seqN + 1) % 2 ^ 16
  sent : ∃ f, r.sent = some f ∧ f.seq = r.seqN ∧ f.brick = b.1 ∧ f.keep = false ∧ f.pstart = t1 ∧ f.hold = (hold && old.sent.isSome)

theorem markSent_rx (l : Lane) (b : Brick) (f : EdgeFrame) : (markSent l b f).1.rx = vset l.rx b { vget l.rx b with
    seqN := ((vget l.rx b).seqN + 1) % 2 ^ 16, sent := some { f with seq := ((vget l.rx b).seqN + 1) % 2 ^ 16 } } := rfl

/-- The record of one brick changes, to that of its next frame. -/
theorem frameFor_sent (late : Bool) (p l : Lane) (a : Axis) (t1 : Nat) (b : Brick) :
    FrameSent late t1 b (vget l.rx b) (vget (frameFor late p l a t1 b).1.rx b) := by
  unfold frameFor
  extract_lets new
  split
  next h =>
    rw [markSent_rx, vget_vset_self]
    refine ⟨rfl, _, rfl, rfl, rfl, rfl, rfl, ?_⟩
    cases late
    · rfl
    · rw [if_pos rfl] at h
      rw [h]
      rfl
  next old h =>
    extract_lets f m
    have hm : m.rx = l.rx := foldl_rx _ fun _ _ => ite_rx rfl rfl
    rw [markSent_rx, vget_vset_self, hm]
    refine ⟨rfl, _, rfl, rfl, rfl, rfl, rfl, ?_⟩
    cases late
    · exact absurd h (by simp)
    · rw [if_pos rfl] at h
      rw [h]
      rfl

theorem frameFor_other (late : Bool) (p l : Lane) (a : Axis) (t1 : Nat) {b c : Brick} (h : c ≠ b) :
    vget (frameFor late p l a t1 b).1.rx c = vget l.rx c := by
  unfold frameFor
  extract_lets new
  split
  · rw [markSent_rx, vget_vset_ne _ _ h]
  next old _ =>
    extract_lets f m
    have hm : m.rx = l.rx := foldl_rx _ fun _ _ => ite_rx rfl rfl
    rw [markSent_rx, vget_vset_ne _ _ h, hm]

/-- `frameFor` over some bricks. -/
def framesFor (late : Bool) (p : Lane) (a : Axis) (t1 : Nat) (bs : List Brick) (acc : Lane × List EdgeFrame) : Lane × List EdgeFrame :=
  bs.foldl (fun (acc : Lane × List EdgeFrame) (b : Brick) =>
    ((frameFor late p acc.1 a t1 b).1, acc.2 ++ [(frameFor late p acc.1 a t1 b).2])) acc

theorem framesOf_eq (late : Bool) (p l : Lane) (a : Axis) (t1 : Nat) :
    framesOf late p l a t1 = framesFor late p a t1 (bricksOf l a) (l, []) := rfl

theorem framesFor_other {late : Bool} {p : Lane} {a : Axis} {t1 : Nat} {c : Brick} {bs : List Brick} (h : c ∉ bs)
    (acc : Lane × List EdgeFrame) : vget (framesFor late p a t1 bs acc).1.rx c = vget acc.1.rx c :=
  List.foldlRecOn (motive := fun x : Lane × List EdgeFrame => vget x.1.rx c = vget acc.1.rx c) _ _ rfl fun _ hx _ hb =>
    (frameFor_other _ _ _ _ _ (ne_of_mem_of_not_mem hb h).symm).trans hx

/-- Every brick of a list without repeats is sent its next frame. -/
theorem framesFor_sent {late : Bool} {p : Lane} {a : Axis} {t1 : Nat} {c : Brick} {bs : List Brick} (hc : c ∈ bs) (hn : bs.Nodup)
    (acc : Lane × List EdgeFrame) : FrameSent late t1 c (vget acc.1.rx c) (vget (framesFor late p a t1 bs acc).1.rx c) := by
  induction bs generalizing acc with
  | nil => exact absurd hc List.not_mem_nil
  | cons b bs ih =>
    obtain ⟨hb, hn⟩ := List.nodup_cons.mp hn
    rcases List.mem_cons.mp hc with rfl | hc
    · have h := framesFor_other (late := late) (p := p) (a := a) (t1 := t1) hb
        ((frameFor late p acc.1 a t1 c).1, acc.2 ++ [(frameFor late p acc.1 a t1 c).2])
      have g := frameFor_sent late p acc.1 a t1 c
      rw [← h] at g
      exact g
    · have h := ih hc hn ((frameFor late p acc.1 a t1 b).1, acc.2 ++ [(frameFor late p acc.1 a t1 b).2])
      rw [frameFor_other _ _ _ _ _ (ne_of_mem_of_not_mem hc hb)] at h
      exact h

theorem framesOf_sent {late : Bool} {p l : Lane} {a : Axis} {t1 : Nat} {b : Brick} (h : timingAxis l b = some a) :
    FrameSent late t1 b (vget l.rx b) (vget (framesOf late p l a t1).1.rx b) := by
  rw [framesOf_eq]
  exact framesFor_sent (List.mem_filter.mpr ⟨mem_allFin b, by simp [h]⟩) ((List.nodup_finRange 32).filter _) (l, [])

end Sys2Proof.Machine

namespace Sys2Proof.Machine

/-! ### EDGE out (R23, R25, R270) -/

/-- Neither lane, neither queue nor time has changed between two states. -/
structure LanesKept (s t : State) : Prop where
  now : t.now = s.now
  pending : t.pending = s.pending
  lanes : ∀ i, laneOf t i = laneOf s i

section
variable {s t u : State}

protected theorem LanesKept.refl : LanesKept s s := ⟨rfl, rfl, fun _ => rfl⟩

protected theorem LanesKept.trans (h : LanesKept s t) (g : LanesKept t u) : LanesKept s u :=
  ⟨g.now.trans h.now, g.pending.trans h.pending, fun i => (g.lanes i).trans (h.lanes i)⟩

protected theorem LanesKept.foldl {α : Type} {f : State → α → State} {xs : List α} (h : LanesKept s t)
    (hf : ∀ {t}, ∀ x ∈ xs, LanesKept s t → LanesKept s (f t x)) : LanesKept s (xs.foldl f t) :=
  List.foldlRecOn xs f h fun _ h x hx => hf x hx h

protected theorem LanesKept.ite {c : Prop} [Decidable c] (h : LanesKept s t) (g : LanesKept s u) :
    LanesKept s (if c then t else u) := by split <;> assumption

protected theorem LanesKept.modBrick {b : Brick} {f : BrickRt → BrickRt} (h : LanesKept s t) : LanesKept s (modBrick t b f) :=
  h.trans ⟨rfl, rfl, fun i => by cases i <;> rfl⟩

protected theorem LanesKept.sendFrame {i : LaneId} {dt : Nat} {dn : List DownFault} {f : EdgeFrame} (h : LanesKept s t) :
    LanesKept s (sendFrame i dt dn t f) := by
  unfold Machine.sendFrame
  exact h.foldl fun _ _ h => .ite h.modBrick h
end

/-- The registers that a frame's timing rests on (R116, R22). -/
def TimingReg (r : Nat) : Prop := (∃ n < 128, r = LEG_CFG n) ∨ (∃ c < 32, r = LEG_CPC c) ∨ ∃ a < 16, r = AXS_TP a

/-- The register addresses of a frame's timing are neither graded, counted nor part of a summary. -/
theorem TimingReg.num {r : Nat} (h : TimingReg r) :
    0x40030000 ≤ r ∧ r < 0x40043000 ∧ r % 0x10 = 0 ∧ 0x40041000 ≤ r ∨ 0x40030000 ≤ r ∧ r < 0x40040000 := by
  obtain ⟨n, hn, rfl⟩ | ⟨n, hn, rfl⟩ | ⟨n, hn, rfl⟩ := h
  · exact .inl ⟨by unfold LEG_CFG; omega, by unfold LEG_CFG; omega, by unfold LEG_CFG; omega, by unfold LEG_CFG; omega⟩
  · exact .inl ⟨by unfold LEG_CPC; omega, by unfold LEG_CPC; omega, by unfold LEG_CPC; omega, by unfold LEG_CPC; omega⟩
  · exact .inr ⟨by unfold AXS_TP; omega, by unfold AXS_TP; omega⟩

theorem gradeReg_not_timingReg {r : Nat} (h : GradeReg r) : ¬ TimingReg r := fun ht => by
  have := ht.num
  obtain h | rfl | ⟨c, hc, rfl⟩ := h
  · simp only [PeatReg, List.mem_cons, List.not_mem_nil, or_false, FLT_STK, PEAT_STS, PEAT_STK, PEAT_HEAD] at h
    omega
  · unfold LEG_STS at this
    omega
  · unfold LEG_CSTS at this
    omega

theorem fget_lt (l : Lane) (f : Field) : fget l f < 2 ^ f.w := Nat.mod_lt _ (Nat.two_pow_pos _)

/-- The receive records and the registers of the frames' timing have not changed. -/
structure TimingKept (l m : Lane) : Prop where
  rx : m.rx = l.rx
  regs : ∀ r, TimingReg r → rget m r = rget l r

theorem findSome?_congr {α β : Type} {f g : α → Option β} {xs : List α} (h : ∀ x ∈ xs, f x = g x) : xs.findSome? f = xs.findSome? g := by
  induction xs with
  | nil => rfl
  | cons x xs ih =>
    rw [List.findSome?_cons, List.findSome?_cons, h x List.mem_cons_self, ih fun y hy => h y (List.mem_cons_of_mem x hy)]

section
variable {l m : Lane}

protected theorem TimingKept.ite {c : Prop} [Decidable c] {n : Lane} (h : TimingKept l m) (g : TimingKept l n) :
    TimingKept l (if c then m else n) := by split <;> assumption

protected theorem TimingKept.touches {R : Nat → Prop} {n : Lane} (h : TimingKept l m) (g : Touches R m n) (hR : ∀ r, R r → ¬ TimingReg r) :
    TimingKept l n :=
  ⟨(congrArg Lane.rx g.rest :).trans h.rx, fun r hr => (g.regs r fun hr' => hR r hr' hr).trans (h.regs r hr)⟩

protected theorem TimingKept.fset {f : Field} {v : Nat} (h : TimingKept l m) (hf : f.addr < 0x40030000 ∨ 0x40043000 ≤ f.addr) :
    TimingKept l (fset m f v) :=
  ⟨h.rx, fun r hr => (rget_fset_ne _ _ _ fun e => by have := hr.num; omega).trans (h.regs r hr)⟩

protected theorem TimingKept.fcount {f : Field} (h : TimingKept l m) (hf : f.addr < 0x40030000 ∨ 0x40043000 ≤ f.addr) :
    TimingKept l (fcount m f) :=
  h.touches (Touches.refl (R := fun r => r = f.addr) |>.fcount rfl) fun r hr ht => by have := ht.num; omega

protected theorem TimingKept.lpeSummary (h : TimingKept l m) : TimingKept l (lpeSummary m) := by
  refine h.touches (R := fun r => r = LPE_STS) ?_ fun r hr ht => ?_
  · exact .fsetB (.fsetB (.fsetB (.fsetB (.fsetB .refl rfl) rfl) rfl) rfl) rfl
  · have := ht.num
    rw [hr, LPE_STS] at this
    omega

/-- The registers of the overrun counts of axis `a`, and what raising a source may change (R108). -/
def OverrunReg (a : Axis) (r : Nat) : Prop := r = ADM_AXOVR a ∨ r = ADM_AXCON a ∨ GradeReg r

theorem overrunReg_not_timingReg {a : Axis} {r : Nat} (h : OverrunReg a r) : ¬ TimingReg r := by
  obtain rfl | rfl | h := h
  · intro ht
    have := ht.num
    unfold ADM_AXOVR at this
    omega
  · intro ht
    have := ht.num
    unfold ADM_AXCON at this
    omega
  · exact gradeReg_not_timingReg h

protected theorem TimingKept.axisOverrun {now : Nat} {a : Axis} (h : TimingKept l m) : TimingKept l (axisOverrun m now a) := by
  unfold Machine.axisOverrun
  extract_lets m1 n m2
  have h1 : TimingKept l m1 := ⟨h.rx, h.regs⟩
  have h2 : Touches (OverrunReg a) m1 m2 := (Touches.refl.fcount (.inl rfl)).fset (.inr (.inl rfl))
  clear_value m1 m2
  exact .ite h (h1.touches (.ite (h2.stkLate.raiseO fun _ h => .inr (.inr h)) h2) fun _ => overrunReg_not_timingReg)

protected theorem TimingKept.fget (h : TimingKept l m) {f : Field} (hf : TimingReg f.addr) : fget m f = fget l f := by
  unfold Machine.fget
  rw [h.regs _ hf]

/-- A lane whose timing registers stand has the same timing axes. -/
protected theorem TimingKept.timingAxis (h : TimingKept l m) (b : Brick) : timingAxis m b = timingAxis l b := by
  have hc (n : Nat) (hn : n < 128) : TimingReg (LEG_CFG n) := .inl ⟨n, hn, rfl⟩
  have hp (n : Nat) : TimingReg (LEG_CPC (Machine.fget l (LEG_CFG_COPPICE n))) := .inr (.inl ⟨_, fget_lt l _, rfl⟩)
  unfold Machine.timingAxis
  refine findSome?_congr fun j hj => ?_
  have hn : 4 * b.1 + j < 128 := by have := List.mem_range.mp hj; omega
  simp only [h.fget (f := LEG_CFG_TYPE _) (hc _ hn), h.fget (f := LEG_CFG_COPPICE _) (hc _ hn),
    h.fget (f := LEG_CFG_HOST _) (hc _ hn), h.fget (f := LEG_CPC_AXIS _) (hp _)]

protected theorem TimingKept.tpOf (h : TimingKept l m) (a : Axis) : tpOf m a = tpOf l a :=
  h.fget (f := AXS_TP_TP a) (.inr (.inr ⟨a.1, a.2, rfl⟩))

/-- In a running period EDGE out has every brick of the axis sent its next frame. -/
theorem edgeOutLane_sent {now : Nat} {a : Axis} {late : Bool} {b : Brick} (h : inPeriod l a = true) (hb : timingAxis l b = some a) :
    FrameSent (late && axRuns l a) ((vget l.axes a).t0 + tpOf l a) b (vget l.rx b) (vget (edgeOutLane now a late l).1.rx b) := by
  unfold edgeOutLane
  extract_lets x late' l1 l2
  have hx : (x.live && !x.ended) = true := h
  rw [if_pos hx]
  have h1 : TimingKept l l1 := TimingKept.lpeSummary ⟨rfl, fun _ _ => rfl⟩
  have h2 : TimingKept l l2 := .ite (TimingKept.axisOverrun ⟨h1.rx, h1.regs⟩) h1
  clear_value l2
  have hf := framesOf_sent (late := late') (p := building l2 a) (t1 := x.t0 + tpOf l2 a) ((h2.timingAxis b).trans hb)
  rw [h2.rx, h2.tpOf] at hf
  rw [h2.tpOf]
  refine Eq.mp ?_ hf
  congr 2
  refine ((energyHostEnd_rx _ _ _).trans ?_).symm
  exact ite_rx (publishAxis_rx _ _ _) rfl
end

/-- Whether the chain of lane `i` is late. -/
def edgeLate (i : LaneId) (laneA laneB : EdgeLane) : Bool := match i with | .A => laneA.late | .B => laneB.late

/-- EDGE_OUT in a lane that runs. -/
theorem execEdgeOut_lane {i : LaneId} {s u : State} {a : Axis} {laneA laneB : EdgeLane}
    (hu : u = tickBy (fun l => edgeInstant l a) s) (hrun : laneRuns (laneOf u i) = true) :
    ∃ t, execEdgeOut a laneA laneB s = .next t ∧ t.now = u.now ∧ t.pending = s.pending ∧
      Quiet (edgeOutLane u.now a (edgeLate i laneA laneB) (laneOf u i)).1 (laneOf t i) := by
  have hp : u.pending = s.pending := hu ▸ tickBy_pending _ _
  unfold execEdgeOut
  rw [← hu]
  extract_lets _ run ra rb v z w
  have hz : LanesKept v w := (LanesKept.refl.foldl fun _ _ h => h.sendFrame).foldl fun _ _ h => h.sendFrame
  refine ⟨_, rfl, (settle_now _).trans hz.now, (settle_pending _).trans (hz.pending.trans hp), ?_⟩
  refine ((calm_settle w).lanes i).of_eq ((hz.lanes i).trans ?_)
  cases i
  · exact congrArg Prod.fst (if_pos hrun)
  · exact congrArg Prod.fst (if_pos hrun)

protected theorem Quiet.rx {l m : Lane} (h : Quiet l m) : m.rx = l.rx := (congrArg Lane.rx h.rest :)

/-- Settles O28: each brick of the axis has its next frame recorded as sent, and nothing that follows touches the record. -/
theorem edgeOutSendsFrames : Obligations.EdgeOutSendsFrames := by
  unfold Obligations.EdgeOutSendsFrames
  intro i s a laneA laneB b
  dsimp only
  generalize hu : tickBy (fun l => edgeInstant l a) s = u
  intro hrun hlive hend hb
  obtain ⟨t, ht, hnow, hpend, hq⟩ := execEdgeOut_lane (laneA := laneA) (laneB := laneB) hu.symm hrun
  obtain ⟨hseq, f, hf, hfseq, hfb, hkeep, hstart, hhold⟩ := edgeOutLane_sent (now := u.now)
    (late := edgeLate i laneA laneB) (by simp [inPeriod, hlive, hend]) hb
  rw [← hq.rx] at hseq hf hfseq
  refine ⟨t, ht, hnow, hpend, hseq, f, hf, hfseq, hfb, hkeep, hstart, ?_⟩
  rw [hhold, Bool.and_eq_true, Bool.and_eq_true, and_assoc]
  rfl

end Sys2Proof.Machine

namespace Sys2Proof.Machine

/-! ### Permit pulses and the permit of a brick (R13, R268, R269) -/

section
variable {t : Nat} {b : BrickRt} {i : Fin 2}

/-- What R269 asks of a brick's ports. -/
def PermitHeld (t : Nat) (b : BrickRt) : Prop :=
  (∃ i, 2 ≤ (vget b.ports i).bst) ∧ ∀ i, 2 ≤ (vget b.ports i).bst → (vget b.ports i).pOk = true ∧ t ≤ (vget b.ports i).pAt + 13107

theorem mem_timedPorts : i ∈ timedPorts b ↔ 2 ≤ (vget b.ports i).bst := by
  unfold timedPorts
  rw [List.mem_filter, decide_eq_true_iff]
  exact and_iff_right (mem_allFin i)

theorem permitNow_iff : permitNow t b = true ↔ PermitHeld t b := by
  unfold permitNow permitFresh PermitHeld
  have he : (timedPorts b).isEmpty = false ↔ ∃ i, 2 ≤ (vget b.ports i).bst := by
    rw [List.isEmpty_eq_false_iff_exists_mem]
    exact exists_congr fun i => mem_timedPorts
  rw [Bool.and_eq_true, Bool.and_eq_true, Bool.not_eq_true', he, List.all_eq_true, List.all_eq_true, and_assoc]
  simp only [mem_timedPorts, decide_eq_true_iff]
  exact and_congr_right fun _ => ⟨fun ⟨h, g⟩ i hi => ⟨g i hi, h i hi⟩, fun h => ⟨fun i hi => (h i hi).2, fun i hi => (h i hi).1⟩⟩

/-- The ports of a brick judged: as they were, or with their sequences begun afresh where the permit fails. -/
theorem brickPermit_ports (t : Nat) (b : BrickRt) : (brickPermit t b).ports = b.ports ∨
    permitNow t b = false ∧ (brickPermit t b).ports = b.ports.map fun p => { p with pRun := 0, pOk := false } := by
  unfold brickPermit
  extract_lets afresh c
  cases h : permitNow t b
  · cases hp : c.permit
    · cases hf : permitFresh t c
      · exact .inr ⟨rfl, rfl⟩
      · exact .inl rfl
    · exact .inr ⟨rfl, rfl⟩
  · exact .inl rfl

theorem brickPermit_of_now (h : permitNow t b = true) : brickPermit t b = { b with permit := true } := if_pos h

theorem brickPermit_permit : (brickPermit t b).permit = permitNow t b := by
  unfold brickPermit
  extract_lets afresh c
  cases h : permitNow t b
  · cases hp : c.permit
    · cases hf : permitFresh t c
      · exact hp
      · exact hp
    · rfl
  · rfl

/-- A brick that has just been judged holds its permit exactly where R269 permits. -/
theorem brickPermit_permit_iff : (brickPermit t b).permit = true ↔ PermitHeld t (brickPermit t b) := by
  rw [brickPermit_permit]
  cases h : permitNow t b
  · refine ⟨fun h => absurd h (by simp), fun hn => ?_⟩
    obtain hp | ⟨-, hp⟩ := brickPermit_ports t b
    · rw [← h, permitNow_iff]
      unfold PermitHeld at hn ⊢
      rwa [hp] at hn
    · obtain ⟨⟨j, hj⟩, hall⟩ := hn
      have := (hall j hj).1
      rw [hp, vget_map] at this
      exact absurd this (by simp)
  · rw [brickPermit_of_now h]
    exact ⟨fun _ => permitNow_iff.mp h, fun _ => rfl⟩

theorem brickPermit_pn (t : Nat) (b : BrickRt) (i : Fin 2) : (vget (brickPermit t b).ports i).pn = (vget b.ports i).pn := by
  obtain h | ⟨-, h⟩ := brickPermit_ports t b <;> rw [h]
  rw [vget_map]

theorem brickPermit_pRun (h : (vget b.ports i).pRun = 0) : (vget (brickPermit t b).ports i).pRun = 0 := by
  obtain e | ⟨-, e⟩ := brickPermit_ports t b <;> rw [e]
  · exact h
  · rw [vget_map]

/-- The count byte of /P/ is a count with its complement above it. -/
theorem eq_pulseByte_iff {v : Nat} (h : v < 256) : v = pulseByte (v % 16) ↔ v / 16 + v % 16 = 15 := by
  unfold pulseByte
  omega

/-- A valid count byte gives its count. -/
theorem brickPulse_pn {v : Nat} (h : v = pulseByte (v % 16)) : (vget (brickPulse t v i b).ports i).pn = some (v % 16) := by
  unfold brickPulse
  rw [if_neg (by simpa using h)]
  extract_lets ok
  rw [brickPermit_pn]
  simp only [vmod, vget_vset_self]
  split <;> rfl

/-- Any other byte gives none and ends the sequence. -/
theorem brickPulse_invalid {v : Nat} (h : v ≠ pulseByte (v % 16)) :
    (vget (brickPulse t v i b).ports i).pn = (vget b.ports i).pn ∧ (vget (brickPulse t v i b).ports i).pRun = 0 := by
  unfold brickPulse
  rw [if_pos h]
  constructor
  · rw [brickPermit_pn]
    simp only [vmod, vget_vset_self]
  · refine brickPermit_pRun ?_
    simp only [vmod, vget_vset_self]
end

/-! ### One insertion position (R268) -/

/-- The count byte that arrives at port `q` of a link cartridge that sends count `n`. -/
def pulseGot (faults : List PulseFault) (n : Nat) (q : Fin 16) : Option Nat :=
  match faults.find? fun f => f.port = q with
  | some f => f.byte.map (·.toNat)
  | none => some (pulseByte n)

/-- A brick to whose port `i` a byte, or none, comes. -/
def pulseTake (t : Nat) (got : Option Nat) (i : Fin 2) (b : BrickRt) : BrickRt :=
  match got with
  | some byte => if 1 ≤ (vget b.ports i).bst then brickPulse t byte i b else b
  | none => b

/-- The bricks after the bytes that link cartridge `k` inserts with count `n`. -/
def pulseBricks (t : Nat) (k : LinkNo) (faults : List PulseFault) (n : Nat) (v : Vector BrickRt 32) : Vector BrickRt 32 :=
  (allFin 16).foldl (fun v q => vmod v (portBrick { link := k, port := q })
    (pulseTake t (pulseGot faults n q) (portSide { link := k, port := q }))) v

theorem modBrick_id (s : State) (b : Brick) : modBrick s b (fun x => x) = s := by
  unfold modBrick vmod
  rw [vset_vget]

theorem modBrick_pulseTake (s : State) (b : Brick) (got : Option Nat) (i : Fin 2) : modBrick s b (pulseTake s.now got i) =
    match got with
    | some byte => if 1 ≤ (portOf s b i).bst then modBrick s b (brickPulse s.now byte i) else s
    | none => s := by
  cases got with
  | none => exact modBrick_id s b
  | some byte =>
    dsimp only
    by_cases h : 1 ≤ (portOf s b i).bst
    · rw [if_pos h, modBrick, vmod, pulseTake, if_pos (show 1 ≤ (vget (vget s.bricks b).ports i).bst from h)]
      rfl
    · rw [if_neg h, modBrick, vmod, pulseTake, if_neg (show ¬ 1 ≤ (vget (vget s.bricks b).ports i).bst from h), vset_vget]

theorem foldl_modBrick {α : Type} (br : α → Brick) (f : Nat → α → BrickRt → BrickRt) (xs : List α) (s : State) :
    xs.foldl (fun s q => modBrick s (br q) (f s.now q)) s =
      { s with bricks := xs.foldl (fun v q => vmod v (br q) (f s.now q)) s.bricks } := by
  induction xs generalizing s with
  | nil => rfl
  | cons x xs ih => rw [List.foldl_cons, ih]; rfl

/-- An element that one member of a list changes, and no other, is changed by that member alone. -/
theorem vget_foldl_vmod {α β : Type} {n : Nat} {i : α → Fin n} {f : α → β → β} {x : α} {xs : List α} (hx : x ∈ xs) (hn : xs.Nodup)
    (hi : ∀ y, i y = i x → y = x) (v : Vector β n) : vget (xs.foldl (fun v y => vmod v (i y) (f y)) v) (i x) = f x (vget v (i x)) := by
  have hne {y : α} (h : y ≠ x) (v : Vector β n) : vget (vmod v (i y) (f y)) (i x) = vget v (i x) :=
    vget_vset_ne _ _ fun e => h (hi y e.symm)
  induction xs generalizing v with
  | nil => exact absurd hx List.not_mem_nil
  | cons y ys ih =>
    obtain ⟨hy, hn⟩ := List.nodup_cons.mp hn
    rw [List.foldl_cons]
    rcases List.mem_cons.mp hx with rfl | hx
    · rw [← vget_vset_self v (i x) (f x (vget v (i x)))]
      exact List.foldlRecOn (motive := fun w => vget w (i x) = vget (vset v (i x) (f x (vget v (i x)))) (i x)) _ _ rfl
        fun w hw z hz => (hne (ne_of_mem_of_not_mem hz hy) w).trans hw
    · rw [ih hx hn, hne (ne_of_mem_of_not_mem hx hy).symm]

theorem portBrick_inj {k : LinkNo} {p q : Fin 16} (h : portBrick { link := k, port := p } = portBrick { link := k, port := q }) : p = q := by
  unfold portBrick at h
  have := Fin.val_eq_of_eq h
  dsimp only at this
  omega

theorem pulseBricks_vget (t : Nat) (k : LinkNo) (faults : List PulseFault) (n : Nat) (v : Vector BrickRt 32) (q : Fin 16) :
    vget (pulseBricks t k faults n v) (portBrick { link := k, port := q }) =
      pulseTake t (pulseGot faults n q) (portSide { link := k, port := q }) (vget v (portBrick { link := k, port := q })) :=
  vget_foldl_vmod (i := fun q : Fin 16 => portBrick { link := k, port := q }) (mem_allFin q) (List.nodup_finRange 16)
    (fun _ => portBrick_inj) v

/-- GATE_PERMIT of a cartridge that inserts pulses. -/
theorem execGatePermit_sends {k : LinkNo} {faults : List PulseFault} {s : State} (h : (vget s.links k).send = true)
    (hp : linkPresent s k = true) (hd : (vget s.links k).dark = false) :
    execGatePermit { link := k, faults := faults } s = .next { s with
      links := vset s.links k { vget s.links k with n := ((vget s.links k).n + 1) % 16 }
      bricks := (pulseBricks s.now k faults (((vget s.links k).n + 1) % 16) s.bricks).map (brickPermit s.now) } := by
  unfold execGatePermit
  extract_lets k' x judge n u v
  have hx : (x.send && linkPresent s k' && !x.dark) = true := by simp [x, k', h, hp, hd]
  rw [if_pos hx]
  have hv : v = { u with bricks := pulseBricks s.now k faults n s.bricks } := by
    refine Eq.trans ?_ (foldl_modBrick (fun q : Fin 16 => portBrick { link := k, port := q })
      (fun t q => pulseTake t (pulseGot faults n q) (portSide { link := k, port := q })) (allFin 16) u)
    refine List.foldl_ext _ _ _ fun w q _ => ?_
    exact (modBrick_pulseTake w _ (pulseGot faults n q) _).symm
  rw [hv]

/-- GATE_PERMIT of a cartridge that inserts none. -/
theorem execGatePermit_idle {k : LinkNo} {faults : List PulseFault} {s : State}
    (h : ((vget s.links k).send && linkPresent s k && !(vget s.links k).dark) = false) :
    execGatePermit { link := k, faults := faults } s = .next { s with bricks := s.bricks.map (brickPermit s.now) } := by
  unfold execGatePermit
  exact if_neg (by rw [h]; exact Bool.false_ne_true)

theorem execGatePermit_now {k : LinkNo} {faults : List PulseFault} {s : State} : ∃ (t : State) (v : Vector BrickRt 32),
    execGatePermit { link := k, faults := faults } s = .next t ∧ t = { s with links := t.links, bricks := t.bricks } ∧
    (∀ j, j ≠ k → vget t.links j = vget s.links j) ∧ t.bricks = v.map (brickPermit s.now) := by
  cases h : (vget s.links k).send && linkPresent s k && !(vget s.links k).dark
  · exact ⟨_, _, execGatePermit_idle h, rfl, fun _ _ => rfl, rfl⟩
  · simp only [Bool.and_eq_true, Bool.not_eq_true'] at h
    obtain ⟨⟨hs, hp⟩, hd⟩ := h
    exact ⟨_, _, execGatePermit_sends hs hp hd, rfl, fun _ hj => vget_vset_ne _ _ hj, rfl⟩

/-! ### The STO condition (R13, R330, R441) -/

/-- Field cartridge `g` takes part and is configured for STO. -/
def StoConf (s : State) (g : FieldNo) : Prop := fieldPresent s g = true ∧ (s.fm.sto % 4 = 0 ∨ s.fm.sto.testBit g = true)

theorem bit_stoConfig (s : State) (g : FieldNo) : bit (stoConfig s) g.1 = true ↔ s.fm.sto % 4 = 0 ∨ s.fm.sto.testBit g = true := by
  have hg : (s.fm.sto % 4).testBit g = s.fm.sto.testBit g := by
    rw [show (4 : Nat) = 2 ^ 2 from rfl, Nat.testBit_mod_two_pow]
    simp [g.2]
  unfold bit stoConfig
  split
  next h =>
    exact ⟨fun _ => .inl h, fun _ => (by decide : ∀ g : FieldNo, Nat.testBit 3 g.1 = true) g⟩
  next h => rw [hg, or_iff_right h]

theorem pairOn_iff (s : State) (g : FieldNo) : pairOn s g = true ↔
    (vget s.fields g).stoA = true ∧ (vget s.fields g).stoB = true ∧ (vget s.fields g).disc = false := by
  unfold pairOn
  simp only [Bool.and_eq_true, Bool.not_eq_true', and_assoc]

theorem stoCondition_iff (s : State) : stoCondition s = true ↔ (∃ g, StoConf s g) ∧ ∀ g, StoConf s g → pairOn s g = true := by
  have hm (g : FieldNo) : g ∈ ((allFin 2).filter fun f => bit (stoConfig s) f.1).filter (fieldPresent s) ↔ StoConf s g := by
    rw [List.mem_filter, List.mem_filter, bit_stoConfig]
    unfold StoConf
    exact ⟨fun h => ⟨h.2, h.1.2⟩, fun h => ⟨⟨mem_allFin g, h.2⟩, h.1⟩⟩
  unfold stoCondition
  extract_lets cfg here
  rw [Bool.and_eq_true, Bool.not_eq_true', List.isEmpty_eq_false_iff_exists_mem, List.all_eq_true]
  exact and_congr (exists_congr hm) (forall_congr' fun g => imp_congr (hm g) Iff.rfl)

theorem safeCommanded_eq_false (s : State) : safeCommanded s = false ↔ ∀ i, laneActive (laneOf s i) = true → (laneOf s i).safe = false := by
  unfold safeCommanded
  rw [Bool.or_eq_false_iff, Bool.and_eq_false_imp, Bool.and_eq_false_imp]
  exact ⟨fun h i => by cases i; exacts [h.1, h.2], fun h => ⟨h .A, h .B⟩⟩

/-- PERMIT_CONDITION_CHANGE sets whether the cartridge inserts pulses, and nothing else. -/
theorem execPermitConditionChange_spec (s : State) (k : LinkNo) :
    Answers (.permitConditionChange k) s (fun t => t = { s with links := t.links } ∧
      (∀ j, j ≠ k → vget t.links j = vget s.links j) ∧ vget t.links k = { vget s.links k with send := (vget t.links k).send } ∧
      ((vget t.links k).send = true ↔ linkPresent s k = true ∧ (vget s.links k).dark = false ∧ (∃ g, StoConf s g) ∧
        (∀ g, StoConf s g → (vget s.fields g).stoA = true ∧ (vget s.fields g).stoB = true ∧ (vget s.fields g).disc = false) ∧
        ∀ i, laneActive (laneOf s i) = true → (laneOf s i).safe = false)) := by
  refine ⟨_, rfl, rfl, fun j hj => vget_vset_ne _ _ hj, ?_⟩
  simp only [vmod, vget_vset_self, Bool.and_eq_true, Bool.not_eq_true', stoCondition_iff, safeCommanded_eq_false, pairOn_iff, true_and]
  tauto

theorem execStoDiscrepancy_none {s : State} {f : FieldNo} (h : (vget s.fields f).difAt = none) : execStoDiscrepancy f s = .next s := by
  unfold execStoDiscrepancy
  rw [h]

theorem tickTo_fields (t : Nat) (s : State) : (tickTo t s).fields = s.fields := by
  unfold tickTo; split <;> rfl

theorem tickTo_links (t : Nat) (s : State) : (tickTo t s).links = s.links := by
  unfold tickTo; split <;> rfl

theorem tickTo_bricks (t : Nat) (s : State) : (tickTo t s).bricks = s.bricks := by
  unfold tickTo; split <;> rfl

theorem tickTo_now (t : Nat) (s : State) : (tickTo t s).now = max s.now t := by
  unfold tickTo
  split
  next h => exact (max_eq_left h).symm
  next h => exact (max_eq_right (le_of_not_ge h)).symm

theorem execStoDiscrepancy_some {s u : State} {f : FieldNo} {since : Nat} (h : (vget s.fields f).difAt = some since)
    (hu : u = tickTo (since + 64000001) s) :
    execStoDiscrepancy f s = .next { u with fields := vmod u.fields f fun x => { x with disc := true } } := by
  unfold execStoDiscrepancy
  rw [h]
  dsimp only
  rw [← hu]

/-- STO_DISCREPANCY of a cartridge whose channels differ latches the discrepancy. -/
theorem stoDiscrepancy_latches {s u : State} {f : FieldNo} {since : Nat} (h : (vget s.fields f).difAt = some since)
    (hu : u = tickTo (since + 64000001) s) :
    Answers (.stoDiscrepancy f) s fun t =>
      t.now = u.now ∧ t.pending = s.pending ∧ t.links = s.links ∧ t.bricks = s.bricks ∧
      (∀ g, g ≠ f → vget t.fields g = vget s.fields g) ∧ vget t.fields f = { vget s.fields f with disc := true } := by
  have hf : u.fields = s.fields := hu ▸ tickTo_fields _ _
  have hp : u.pending = s.pending := hu ▸ tickTo_pending _ _
  have hl : u.links = s.links := hu ▸ tickTo_links _ _
  have hb : u.bricks = s.bricks := hu ▸ tickTo_bricks _ _
  refine ⟨_, execStoDiscrepancy_some h hu, rfl, hp, hl, hb, fun g hg => ?_, ?_⟩
  · rw [vmod, vget_vset_ne _ _ hg, hf]
  · rw [vmod, vget_vset_self, hf]

theorem pulseTake_of_open {t v : Nat} {i : Fin 2} {b : BrickRt} (h : 1 ≤ (vget b.ports i).bst) :
    pulseTake t (some v) i b = brickPulse t v i b := if_pos h

/-- What one port of a brick takes from an insertion position of count `n`, and what the judgement after it leaves. -/
theorem gatePermit_port {s : State} {k : LinkNo} {faults : List PulseFault} {n : Nat} {q : Fin 16} {v : Vector BrickRt 32}
    (hn : n < 16) (hv : v = (pulseBricks s.now k faults n s.bricks).map (brickPermit s.now))
    (hq : 1 ≤ (portOf s (portBrick { link := k, port := q }) (portSide { link := k, port := q })).bst) :
    let r := portOf s (portBrick { link := k, port := q }) (portSide { link := k, port := q })
    let r' := vget (vget v (portBrick { link := k, port := q })).ports (portSide { link := k, port := q })
    ((∀ e ∈ faults, e.port ≠ q) → r'.pn = some n) ∧
    ∀ e, faults.find? (fun e => decide (e.port = q)) = some e →
      (e.byte = none → r'.pn = r.pn) ∧
      (∀ v, e.byte = some v → v.toNat / 16 + v.toNat % 16 ≠ 15 → r'.pn = r.pn ∧ r'.pRun = 0) ∧
      ∀ v, e.byte = some v → v.toNat / 16 + v.toNat % 16 = 15 → r'.pn = some (v.toNat % 16) := by
  subst hv
  dsimp only
  rw [vget_map, pulseBricks_vget, brickPermit_pn]
  generalize hb : vget s.bricks (portBrick { link := k, port := q }) = b
  have hr : portOf s (portBrick { link := k, port := q }) (portSide { link := k, port := q }) =
      vget b.ports (portSide { link := k, port := q }) := by rw [← hb]; rfl
  rw [hr] at hq ⊢
  generalize portSide { link := k, port := q } = i at hq ⊢
  constructor
  · intro hf
    have hg : pulseGot faults n q = some (pulseByte n) := by
      unfold pulseGot
      rw [List.find?_eq_none.mpr fun e he => by simpa using hf e he]
    have hm : pulseByte n % 16 = n := by unfold pulseByte; omega
    rw [hg, pulseTake_of_open hq, brickPulse_pn (by rw [hm]), hm]
  · intro e he
    have hg : pulseGot faults n q = e.byte.map (·.toNat) := by
      unfold pulseGot
      rw [he]
    rw [hg]
    refine ⟨fun hn => by rw [hn]; rfl, fun v hv hne => ?_, fun v hv heq => ?_⟩
    · rw [hv, Option.map_some, pulseTake_of_open hq]
      have := brickPulse_invalid (t := s.now) (i := i) (b := b) (mt (eq_pulseByte_iff v.isLt).mp hne)
      exact ⟨this.1, brickPermit_pRun this.2⟩
    · rw [hv, Option.map_some, pulseTake_of_open hq, brickPulse_pn ((eq_pulseByte_iff v.isLt).mpr heq)]

/-- Settles O34: the parts are the lemmas above; a brick's permit is read off its latest judgement. -/
theorem gatePermits : Obligations.GatePermits := by
  unfold Obligations.GatePermits
  intro s k f
  dsimp only
  refine ⟨?_, ?_, ?_, ?_, ?_⟩
  · rintro chB r held v ⟨hon, hoff, hmid⟩
    have hv : (stageOf r).getD (if chB = true then (vget s.fields f).stoB else (vget s.fields f).stoA) = v := by
      unfold stageOf
      split
      next h => exact (hon h).symm
      next h => split
                next g => exact (hoff g).symm
                next g => exact (hmid h g).symm
    refine ⟨fun hh => ?_, fun hh => ?_⟩
    · refine ⟨_, if_neg (by dsimp only; omega), rfl, fun g hg => vget_vset_ne _ _ hg, (vget_vset_self _ _ _).trans ?_⟩
      cases chB
      · simp only [Bool.false_eq_true, if_false] at hv ⊢
        rw [hv]
      · simp only [if_true] at hv ⊢
        rw [hv]
    · exact ⟨_, if_pos hh, rfl⟩
  · intro since h
    rw [← tickTo_now]
    exact stoDiscrepancy_latches h rfl
  · intro h
    exact ⟨_, execStoDiscrepancy_none h, rfl⟩
  · exact execPermitConditionChange_spec s k
  · intro faults
    obtain ⟨t, v, ht, hst, hl, hb⟩ := execGatePermit_now (k := k) (faults := faults) (s := s)
    refine ⟨t, ht, hst, hl, fun b => ?_, fun hs hp hd => ?_, fun hs => ?_⟩
    · have h := brickPermit_permit_iff (t := s.now) (b := vget v b)
      rw [← vget_map v (brickPermit s.now) b, ← hb] at h
      exact h
    · obtain rfl := Host.Outcome.next.inj (ht.symm.trans (execGatePermit_sends hs hp hd))
      refine ⟨congrArg LinkRt.n (vget_vset_self _ _ _), fun q hq => ?_⟩
      dsimp only
      rw [congrArg LinkRt.n (vget_vset_self _ _ _)]
      exact gatePermit_port (Nat.mod_lt _ (by decide)) rfl hq
    · have h := execGatePermit_idle (k := k) (faults := faults) (s := s) (by rw [hs]; rfl)
      obtain rfl := Host.Outcome.next.inj (ht.symm.trans h)
      rfl

end Sys2Proof.Machine

namespace Sys2Proof.Machine

/-! ### The passage of time (R393, R395) -/

/-- Time has passed for a lane: its clocks and its core cycle have moved on, and nothing else. -/
structure TimePassed (l m : Lane) : Prop where
  rest : m = { l with cyc := m.cyc, emb := m.emb, embShip := m.embShip, ship := m.ship, slewNs := m.slewNs, slewT := m.slewT }

section
variable {l m : Lane}

protected theorem TimePassed.ite {c : Prop} [Decidable c] {n : Lane} (h : TimePassed l m) (g : TimePassed l n) :
    TimePassed l (if c then m else n) := by split <;> assumption

theorem timePassed_shipAdvance (d : Nat) (l : Lane) : TimePassed l (shipAdvance d l) := by
  unfold shipAdvance
  extract_lets q e l1
  exact .ite ⟨rfl⟩ (.ite ⟨rfl⟩ ⟨rfl⟩)

protected theorem TimePassed.atCycle (h : TimePassed l m) (c : Nat) : TimePassed l (atCycle c m) := by
  have hr := h.rest
  rw [hr]
  exact ⟨rfl⟩

protected theorem TimePassed.regs (h : TimePassed l m) : m.regs = l.regs := (congrArg Lane.regs h.rest :)
protected theorem TimePassed.ident (h : TimePassed l m) : m.ident = l.ident := (congrArg Lane.ident h.rest :)
protected theorem TimePassed.powered (h : TimePassed l m) : m.powered = l.powered := (congrArg Lane.powered h.rest :)
protected theorem TimePassed.chans (h : TimePassed l m) : m.chans = l.chans := (congrArg Lane.chans h.rest :)
protected theorem TimePassed.fage (h : TimePassed l m) : m.fage = l.fage := (congrArg Lane.fage h.rest :)

protected theorem TimePassed.rget (h : TimePassed l m) (a : Nat) : rget m a = rget l a := by
  unfold Machine.rget
  rw [h.regs, h.ident]

protected theorem TimePassed.fget (h : TimePassed l m) (f : Field) : fget m f = fget l f := by
  unfold Machine.fget
  rw [h.rget]

protected theorem TimePassed.fon (h : TimePassed l m) (f : Field) : fon m f = fon l f := by
  unfold Machine.fon
  rw [h.fget]

protected theorem TimePassed.laneRuns (h : TimePassed l m) : laneRuns m = laneRuns l := by
  unfold Machine.laneRuns laneJoined coreRuns
  rw [h.fget, h.fget, h.powered]
end

theorem timePassed_tickTo (t : Nat) (s : State) (i : LaneId) : TimePassed (laneOf s i) (laneOf (tickTo t s) i) := by
  unfold tickTo
  split
  · exact ⟨rfl⟩
  · cases i
    · exact (timePassed_shipAdvance _ _).atCycle _
    · exact (timePassed_shipAdvance _ _).atCycle _

theorem tickTo_rest (t : Nat) (s : State) : tickTo t s = { s with now := (tickTo t s).now, la := (tickTo t s).la, lb := (tickTo t s).lb } := by
  unfold tickTo
  split
  · rfl
  · rfl

/-- `ceilTo` gives the least multiple that is not below. -/
theorem ceilTo_spec {m : Nat} (h : 0 < m) (t : Nat) : ∃ n, ceilTo m t = m * n ∧ t ≤ m * n ∧ m * n < t + m := by
  refine ⟨(t + m - 1) / m, ?_, ?_, ?_⟩
  · unfold ceilTo
    rw [if_neg h.ne', Nat.mul_comm]
  · have := Nat.lt_mul_div_succ (t + m - 1) h
    rw [Nat.mul_add, Nat.mul_one] at this
    omega
  · have := Nat.mul_div_le (t + m - 1) m
    omega

/-! ### Field frames (R16, R17) -/

theorem fieldHears_fend (l : Lane) (f : FieldNo) (t : Nat) (rep : Bool) (x : FieldRt) : (fieldHears l f t rep x).fend = x.fend := by
  unfold fieldHears
  extract_lets x1 y
  refine (apply_ite FieldRt.fend _ _ _).trans ?_
  split
  · refine (apply_ite FieldRt.fend _ _ _).trans ?_
    split <;> rfl
  · rfl

theorem fieldConsume_fage (l : Lane) (t : Nat) (f : FieldNo) (use : Option FieldFrame) (drop : Bool) (o : FioIn) (c : CartIn) (q : Bool) :
    vget (fieldConsume l t f use drop o c q).fage f = if use.isSome then 0 else vget l.fage f + 1 := by
  unfold fieldConsume
  exact vget_vset_self _ _ _

/-- Whether a lane uses a field frame that it holds as `mine` says and its peer as `other`. -/
def frameUsed (l : Lane) (mine other : Bool) : Bool := mine && (fon l SYS_STS_SOLO || other)

/-- What lane `i` holds of two values that belong to the lanes. -/
def heldBy (i : LaneId) (a b : Bool) : Bool := match i with | .A => a | .B => b

/-- FIELD_FRAME_CONSUMPTION, `u` being the state at the frame's end. -/
theorem execFieldFrameConsumption_spec {s u : State} {f : FieldNo} {hA hB : Bool} {d : FieldFrame}
    (hu : u = tickTo (max (ceilTo 16000 s.now) ((vget s.fields f).fend + 16000)) s) :
    ∃ v, execFieldFrameConsumption f hA hB d s = .next (settle v) ∧ v.now = u.now ∧ v.pending = u.pending ∧
      (vget v.fields f).fend = max (ceilTo 16000 s.now) ((vget s.fields f).fend + 16000) ∧
      ∀ i, laneRuns (laneOf u i) = true → vget (laneOf v i).fage f =
        if frameUsed (laneOf u i) (heldBy i hA hB && fieldPresent u f) (heldBy (otherLane i) hA hB && fieldPresent u f) then 0
        else vget (laneOf u i).fage f + 1 := by
  unfold execFieldFrameConsumption
  extract_lets x0 t u' here ha hb x o c uses rep l x1 run
  have e : u' = u := hu.symm
  clear_value u'
  subst e
  have hx : x.fend = t := rfl
  have hx1 : x1.fend = t := by
    refine (apply_ite FieldRt.fend _ _ _).trans ?_
    split
    · exact (fieldHears_fend _ _ _ _ _).trans hx
    · exact hx
  refine ⟨_, rfl, rfl, rfl, (congrArg FieldRt.fend (vget_vset_self _ _ _)).trans hx1, fun i hi => ?_⟩
  have hrun (m : Lane) (hm : laneRuns m = true) (mine other : Bool) :
      vget (run m mine other).fage f = if frameUsed m mine other then 0 else vget m.fage f + 1 := by
    have h : run m mine other = fieldConsume m t f (if uses m mine other = true then some d else none)
        (mine && !(uses m mine other)) o c (x1.mute && x1.heard != t) := if_pos hm
    rw [h, fieldConsume_fage]
    have hu : uses m mine other = frameUsed m mine other := rfl
    rw [hu]
    cases frameUsed m mine other <;> rfl
  cases i
  · exact hrun _ hi _ _
  · exact hrun _ hi _ _

protected theorem Quiet.fage {l m : Lane} (h : Quiet l m) : m.fage = l.fage := (congrArg Lane.fage h.rest :)

protected theorem Calm.fend {s t : State} (h : Calm s t) (f : FieldNo) : (vget t.fields f).fend = (vget s.fields f).fend :=
  (congrArg FieldRt.fend (h.fields f) :)

theorem tickTo_fieldPresent (t : Nat) (s : State) (f : FieldNo) : fieldPresent (tickTo t s) f = fieldPresent s f := by
  rw [tickTo_rest]
  rfl

theorem fon_solo (l : Lane) : fon l SYS_STS_SOLO = true ↔ fget l SYS_STS_SOLO = 1 := by
  have h : fget l SYS_STS_SOLO < 2 ^ 1 := fget_lt l SYS_STS_SOLO
  unfold fon
  rw [decide_eq_true_iff]
  omega

theorem frameUsed_iff (l : Lane) (here mine other : Bool) : frameUsed l (mine && here) (other && here) = true ↔
    here = true ∧ mine = true ∧ (fget l SYS_STS_SOLO = 1 ∨ other = true) := by
  unfold frameUsed
  rw [← fon_solo]
  cases here <;> cases mine <;> simp

/-- A field frame ends 5 µs after the one before, and is consumed by a lane that uses it. -/
theorem fieldFrame_consumed {s : State} {f : FieldNo} {i : LaneId} (hA hB : Bool) (d : FieldFrame) (hrun : laneRuns (laneOf s i) = true) :
    let l := laneOf s i
    let used : Prop := fieldPresent s f = true ∧ heldBy i hA hB = true ∧ (fget l SYS_STS_SOLO = 1 ∨ heldBy (otherLane i) hA hB = true)
    Answers (.fieldFrameConsumption f hA hB d) s fun t =>
      t.now = max (ceilTo 16000 s.now) ((vget s.fields f).fend + 16000) ∧ t.pending = s.pending ∧ (vget t.fields f).fend = t.now ∧
      (used → vget (laneOf t i).fage f = 0) ∧ (¬ used → vget (laneOf t i).fage f = vget l.fage f + 1) := by
  dsimp only
  obtain ⟨e, he⟩ : ∃ e, e = max (ceilTo 16000 s.now) ((vget s.fields f).fend + 16000) := ⟨_, rfl⟩
  obtain ⟨u, hu⟩ : ∃ u, u = tickTo e s := ⟨_, rfl⟩
  obtain ⟨v, hv, hnow, hpend, hfend, hage⟩ := execFieldFrameConsumption_spec (hA := hA) (hB := hB) (d := d) (he ▸ hu)
  have hp : TimePassed (laneOf s i) (laneOf u i) := hu ▸ timePassed_tickTo _ _ _
  have hle : s.now ≤ e := by
    obtain ⟨n, hn, hle, -⟩ := ceilTo_spec (m := 16000) (by decide) s.now
    rw [he, hn]
    exact le_trans hle (le_max_left _ _)
  have hun : u.now = e := by rw [hu, tickTo_now, max_eq_right hle]
  have hup : u.pending = s.pending := by rw [hu, tickTo_pending]
  have hf : fieldPresent u f = fieldPresent s f := by rw [hu, tickTo_fieldPresent]
  have hlane := hage i (hp.laneRuns.trans hrun)
  rw [← he] at hfend ⊢
  rw [← ((calm_settle v).lanes i).fage, hp.fage, hf] at hlane
  have hused := frameUsed_iff (laneOf u i) (fieldPresent s f) (heldBy i hA hB) (heldBy (otherLane i) hA hB)
  rw [hp.fget] at hused
  refine ⟨_, hv, ?_, ?_, ?_, fun h => ?_, fun h => ?_⟩
  · rw [settle_now, hnow, hun]
  · rw [settle_pending, hpend, hup]
  · rw [(calm_settle v).fend, hfend, settle_now, hnow, hun]
  · rw [hlane, if_pos (hused.mpr h)]
  · rw [hlane, if_neg (mt hused.mp h)]

/-! ### Pulsed windows (R319) -/

/-- The 250 µs boundary whose window closes next. -/
def windowStart (now : Nat) : Nat := if now ≤ 64000 then 0 else ceilTo 800000 (now - 64000)

theorem windowStart_spec (now : Nat) : ∃ n, windowStart now = 800000 * n ∧ now ≤ 800000 * n + 64000 ∧
    (64000 ≤ now → 800000 * n + 64000 < now + 800000) := by
  unfold windowStart
  split
  next h => exact ⟨0, rfl, by omega, by omega⟩
  next h =>
    obtain ⟨n, hn, hle, hlt⟩ := ceilTo_spec (m := 800000) (by decide) (now - 64000)
    exact ⟨n, hn, by omega, by omega⟩

theorem execPulsedWindow_eq {s u : State} {f : FieldNo} {rd : List LineLevel} (hu : u = tickTo (windowStart s.now + 64000) s)
    (h : fieldPresent u f = true) : execPulsedWindow f rd s =
      .next { u with fields := vmod u.fields f fun x => { x with win := some (windowStart s.now + 80000, rd) } } := by
  unfold execPulsedWindow
  extract_lets b u'
  have e : u' = u := hu.symm
  clear_value u'
  subst e
  exact if_pos h

/-- A window closes 20 µs after its boundary, its readings come 5 µs later. -/
theorem pulsedWindow_closes {s : State} {f : FieldNo} (rd : List LineLevel) (h : fieldPresent s f = true) :
    Answers (.pulsedWindow f rd) s fun t =>
      (∃ n, t.now = 800000 * n + 64000 ∧ vget t.fields f = { vget s.fields f with win := some (800000 * n + 80000, rd) }) ∧
      s.now ≤ t.now ∧ (64000 ≤ s.now → t.now < s.now + 800000) ∧ ∀ g, g ≠ f → vget t.fields g = vget s.fields g := by
  obtain ⟨n, hn, hle, hlt⟩ := windowStart_spec s.now
  obtain ⟨u, hu⟩ : ∃ u, u = tickTo (windowStart s.now + 64000) s := ⟨_, rfl⟩
  have hp : fieldPresent u f = true := by rw [hu, tickTo_fieldPresent, h]
  have hf : u.fields = s.fields := by rw [hu, tickTo_fields]
  have hnow : u.now = 800000 * n + 64000 := by rw [hu, tickTo_now, hn, max_eq_right hle]
  refine ⟨_, execPulsedWindow_eq hu hp, ⟨n, hnow, ?_⟩, hle.trans hnow.ge, fun h => hnow.trans_lt (hlt h), fun g hg => ?_⟩
  · rw [hf, hn]
    exact vget_vset_self _ _ _
  · rw [hf]
    exact vget_vset_ne _ _ hg

/-! ### Compare pulses (R307, R308) -/

/-- Bit `k` of XC after a change of bit `j`. -/
theorem outEvent_xc_getLsbD (t : Nat) (j : Fin 8) (on : Bool) (x : FieldRt) (k : Nat) :
    (outEvent t (.xc j on) x).xc.getLsbD k = if k = j.1 then on else x.xc.getLsbD k := by
  have hx (h : ¬ k < 8) : x.xc.getLsbD k = false := BitVec.getLsbD_of_ge _ _ (not_lt.mp h)
  change (BitVec.ofNat 8 _).getLsbD k = _
  rw [BitVec.getLsbD_ofNat, testBit_setBits_one]
  by_cases h : k < 8
  · rw [decide_eq_true h, Bool.true_and]
    rfl
  · rw [decide_eq_false h, Bool.false_and, if_neg (by omega), hx h]

/-- The latest end of a compare pulse of the channel that a lane knows of. -/
def pulseEnd (e : FbkCh) (l : Lane) : Nat :=
  if laneRuns l then (match (vget l.chans e).xcEnd with | some t => t + outLatency | none => 0) else 0

theorem le_pulseEnd {l : Lane} {e : FbkCh} {u : Nat} (h : laneRuns l = true) (hu : (vget l.chans e).xcEnd = some u) :
    u + 38400 ≤ pulseEnd e l := by
  unfold pulseEnd
  rw [if_pos h, hu]
  rfl

theorem execComparePulseEnd_eq {s u : State} {e : FbkCh} (hu : u = tickTo (max (pulseEnd e s.la) (pulseEnd e s.lb)) s) :
    execComparePulseEnd e s = .next (inRunning (fun l => modChan l e fun ch => { ch with xcEnd := none })
      { u with fields := vmod u.fields ⟨e.1 / 8, by omega⟩ fun x =>
          outEvent u.now (.xc ⟨e.1 % 8, Nat.mod_lt _ (by decide)⟩ false) (fieldAt u.now x) }) := by
  unfold execComparePulseEnd
  extract_lets en u'
  have h : u' = u := hu.symm
  clear_value u'
  subst h
  rfl

/-- A compare pulse has ended 12 µs after its width at the cartridge, and each lane that runs has no more of it. -/
theorem comparePulse_ends (s : State) (e : FbkCh) : Answers (.comparePulseEnd e) s fun t =>
    let c : FieldNo := ⟨e.1 / 8, by omega⟩
    (∀ j, laneRuns (laneOf s j) = true → ∀ u, (vget (laneOf s j).chans e).xcEnd = some u → u + 38400 ≤ t.now) ∧
    (vget t.fields c).xc.getLsbD (e.1 % 8) = false ∧
    (∀ k, k ≠ e.1 % 8 → (vget t.fields c).xc.getLsbD k = (fieldAt t.now (vget s.fields c)).xc.getLsbD k) ∧
    (∀ g, g ≠ c → vget t.fields g = vget s.fields g) ∧
    (∀ j, laneRuns (laneOf s j) = true → vget (laneOf t j).chans e = { vget (laneOf s j).chans e with xcEnd := none } ∧
      ∀ a, rget (laneOf t j) a = rget (laneOf s j) a) := by
  obtain ⟨u, hu⟩ : ∃ u, u = tickTo (max (pulseEnd e s.la) (pulseEnd e s.lb)) s := ⟨_, rfl⟩
  have hnow : max (pulseEnd e s.la) (pulseEnd e s.lb) ≤ u.now := by
    rw [hu, tickTo_now]
    exact le_max_right _ _
  have hp (j : LaneId) : TimePassed (laneOf s j) (laneOf u j) := hu ▸ timePassed_tickTo _ _ _
  have hf : u.fields = s.fields := by rw [hu, tickTo_fields]
  generalize hc : (⟨e.1 / 8, by omega⟩ : FieldNo) = c
  refine ⟨_, execComparePulseEnd_eq hu, fun j hj v hv => ?_, ?_, fun k hk => ?_, fun g hg => ?_, fun j hj => ?_⟩
  · refine (le_pulseEnd hj hv).trans (le_trans ?_ hnow)
    cases j
    · exact le_max_left _ _
    · exact le_max_right _ _
  · rw [hc]
    refine (congrArg (fun x : FieldRt => x.xc.getLsbD (e.1 % 8)) (vget_vset_self _ _ _)).trans ?_
    exact (outEvent_xc_getLsbD _ _ _ _ _).trans (if_pos rfl)
  · rw [hc]
    refine (congrArg (fun x : FieldRt => x.xc.getLsbD k) (vget_vset_self _ _ _)).trans ?_
    refine (outEvent_xc_getLsbD _ _ _ _ _).trans ((if_neg hk).trans ?_)
    rw [hf]
    rfl
  · rw [hc]
    refine (vget_vset_ne _ _ hg).trans ?_
    rw [hf]
  · rw [laneOf_inRunning_of (by cases j <;> exact (hp _).laneRuns.trans hj)]
    have hl : ∀ (v : Vector FieldRt 2), laneOf { u with fields := v } j = laneOf u j := by cases j <;> exact fun _ => rfl
    rw [hl]
    refine ⟨?_, fun a => (hp j).rget a⟩
    rw [modChan, vmod]
    dsimp only
    rw [vget_vset_self, (hp j).chans]

/-! ### SSI transfers (R298) -/

theorem TimePassed.ssiStart {l m : Lane} (h : TimePassed l m) (e : FbkCh) (k : Nat) (ht : fget l (FBK_CFG_TYPE e) = 2) :
    (∃ v, vget (ssiStart m e k).chans e = { vget l.chans e with
      ssi := (vget l.chans e).ssi ++ [{ t0 := k, lv0 := v, chg := [], gap := false }] }) ∧
    (∀ g, g ≠ e → vget (Machine.ssiStart m e k).chans g = vget l.chans g) ∧ ∀ a, rget (Machine.ssiStart m e k) a = rget l a := by
  unfold Machine.ssiStart
  rw [if_pos ((h.fget _).trans ht)]
  refine ⟨⟨(vget (vget l.chans e).lines 4).flt, ?_⟩, fun g hg => ?_, fun a => h.rget a⟩
  · rw [← h.chans]
    exact vget_vset_self _ _ _
  · rw [← h.chans]
    exact vget_vset_ne _ _ hg

theorem execSsiTransferStart_eq {s u : State} {e : FbkCh} {l : Lane} (hl : (if laneRuns s.la then s.la else s.lb) = l)
    (hu : u = tickTo (l.tb0 + ceilTo (16000 * max 1 (fget l (FBK_SS2_RATE e))) (s.now - l.tb0)) s) :
    execSsiTransferStart e s = .next (inRunning (fun l => ssiStart l e (u.now / 32)) u) := by
  unfold execSsiTransferStart
  rw [hl]
  extract_lets l0 u'
  have h : u' = u := hu.symm
  clear_value u'
  subst h
  rfl

/-- A transfer starts with the next field frame of the lane's time base whose number RATE divides. -/
theorem ssiTransfer_starts {s : State} {i : LaneId} {e : FbkCh} (hr : laneRuns (laneOf s i) = true)
    (ho : laneRuns (laneOf s (otherLane i)) = false) (ht : fget (laneOf s i) (FBK_CFG_TYPE e) = 2) (hb : (laneOf s i).tb0 ≤ s.now) :
    Answers (.ssiTransferStart e) s fun t =>
      let l := laneOf s i
      let m := laneOf t i
      (∃ n, t.now = l.tb0 + 16000 * max 1 (fget l (FBK_SS2_RATE e)) * n) ∧ s.now ≤ t.now ∧
      t.now < s.now + 16000 * max 1 (fget l (FBK_SS2_RATE e)) ∧
      (∃ v, vget m.chans e = { vget l.chans e with
        ssi := (vget l.chans e).ssi ++ [{ t0 := t.now / 32, lv0 := v, chg := [], gap := false }] }) ∧
      (∀ g, g ≠ e → vget m.chans g = vget l.chans g) ∧ ∀ a, rget m a = rget l a := by
  generalize hl : laneOf s i = l at *
  have hl0 : (if laneRuns s.la then s.la else s.lb) = l := by
    cases i
    · exact (if_pos (hl ▸ hr : laneRuns (laneOf s .A) = true)).trans hl
    · exact (if_neg (Bool.eq_false_iff.mp ho)).trans hl
  obtain ⟨p, hp⟩ : ∃ p, p = 16000 * max 1 (fget l (FBK_SS2_RATE e)) := ⟨_, rfl⟩
  obtain ⟨n, hn, hle, hlt⟩ := ceilTo_spec (m := p) (by rw [hp]; omega) (s.now - l.tb0)
  obtain ⟨u, hu⟩ : ∃ u, u = tickTo (l.tb0 + ceilTo p (s.now - l.tb0)) s := ⟨_, rfl⟩
  have hnow : u.now = l.tb0 + p * n := by rw [hu, tickTo_now, hn]; omega
  have htp : TimePassed l (laneOf u i) := by rw [hu, ← hl]; exact timePassed_tickTo _ _ _
  have hlane : laneOf (inRunning (fun l => ssiStart l e (u.now / 32)) u) i = ssiStart (laneOf u i) e (u.now / 32) :=
    laneOf_inRunning_of (htp.laneRuns.trans hr)
  dsimp only
  rw [← hp]
  refine ⟨_, execSsiTransferStart_eq hl0 (by rw [← hp]; exact hu), ⟨n, hnow⟩, ?_, ?_, ?_⟩
  · rw [inRunning_now]; omega
  · rw [inRunning_now]; omega
  · rw [hlane, inRunning_now]
    exact htp.ssiStart e _ ht

/-- Settles O36: the four parts are the lemmas above. -/
theorem fieldFramesConsumed : Obligations.FieldFramesConsumed := by
  unfold Obligations.FieldFramesConsumed
  intro s f i
  dsimp only
  refine ⟨fun hA hB d hr => ?_, fun rd h => pulsedWindow_closes rd h, fun e => comparePulse_ends s e,
    fun e hr ho ht hb => ssiTransfer_starts hr ho ht hb⟩
  have h := fieldFrame_consumed (f := f) hA hB d hr
  cases i <;> exact h

end Sys2Proof.Machine

namespace Sys2Proof.Machine

/-! ### Throttle steps (R377, R380) -/

theorem lanewise_inRunning {s : State} {g : Lane → Lane} {P : Lane → Lane → Prop}
    (h : ∀ i, laneRuns (laneOf s i) = true → P (laneOf s i) (g (laneOf s i))) : Lanewise s (inRunning g s) P where
  world := rfl
  runs i hi := by
    rw [laneOf_inRunning_of hi]
    exact h i hi
  rests i hi := by
    rw [laneOf_inRunning, hi]
    rfl

theorem tickTo_now_self (t : Nat) (s : State) : tickTo (tickTo t s).now s = tickTo t s := by
  rw [tickTo_now]
  rcases le_total t s.now with h | h
  · rw [max_eq_left h, tickTo, tickTo, if_pos le_rfl, if_pos h]
  · rw [max_eq_right h]

/-- Whether a step can move the way its object stands. -/
def StepMoves (st : Nat) (x : StepRt) : Prop := x.hot = true ∧ st < 3 ∨ x.hot = false ∧ 0 < st

theorem stepDue_eq {l : Lane} {st : Nat} {x : StepRt} {d : Nat} (hd : d = x.at_ + 3200000000 * fget l THM_LCFG_TSTEP) :
    (StepMoves st x → stepDue l st x = some d) ∧ (¬ StepMoves st x → stepDue l st x = none) := by
  subst hd
  unfold stepDue StepMoves
  cases x.hot
  · simp only [Bool.false_eq_true, if_false, false_and, true_and, false_or]
    exact ⟨fun h => if_pos h, fun h => if_neg h⟩
  · simp only [Bool.true_eq_false, if_true, true_and, false_and, or_false]
    exact ⟨fun h => if_pos h, fun h => if_neg h⟩

theorem stepTimer_of_moves {st : Nat} {x : StepRt} (h : StepMoves st x) : stepTimer st x = if x.hot then st + 1 else st - 1 := by
  unfold stepTimer satNat
  obtain ⟨hx, hs⟩ | ⟨hx, hs⟩ := h
  · rw [hx, if_pos rfl, if_pos rfl, if_neg (by omega)]
  · rw [hx, if_neg Bool.false_ne_true, if_neg Bool.false_ne_true]

/-- The instant by which the first of an object's steps changes in a lane. -/
def firstDue (o : ThrottleObj) (l : Lane) : Nat :=
  if laneRuns l then (match objDues l o with | t :: ts => ts.foldl min t | [] => 0) else 0

protected theorem TimePassed.objDues {l m : Lane} (h : TimePassed l m) (o : ThrottleObj) : objDues m o = objDues l o := by
  have hb : m.btimes = l.btimes := (congrArg Lane.btimes h.rest :)
  have hl : m.lsteps = l.lsteps := (congrArg Lane.lsteps h.rest :)
  have ht : m.ltimes = l.ltimes := (congrArg Lane.ltimes h.rest :)
  cases o with
  | brick b => simp only [Machine.objDues, stepDue, h.fget, hb]
  | lane => simp only [Machine.objDues, laneStepDue, stepDue, h.fget, h.fon, hl, ht]

protected theorem TimePassed.firstDue {l m : Lane} (h : TimePassed l m) (o : ThrottleObj) : firstDue o m = firstDue o l := by
  unfold Machine.firstDue
  rw [h.laneRuns, h.objDues]

theorem execThrottleStep_eq {s u : State} {o : ThrottleObj} (hu : u = tickTo (max (firstDue o s.la) (firstDue o s.lb)) s) :
    execThrottleStep o s = .next (inRunning (objStep u.now o) u) := by
  subst hu
  rfl

/-- THROTTLE_STEP takes the time base to the first step due and changes, lane by lane, the steps due by then. -/
theorem throttleStep_lanewise {s : State} {o : ThrottleObj} {P : Nat → Lane → Lane → Prop}
    (h : ∀ now l, laneRuns l = true → firstDue o l ≤ now → P now l (objStep now o l)) :
    Answers (.throttleStep o) s fun t => Lanewise (tickTo t.now s) t (P t.now) := by
  obtain ⟨u, hu⟩ : ∃ u, u = tickTo (max (firstDue o s.la) (firstDue o s.lb)) s := ⟨_, rfl⟩
  have hnow : max (firstDue o s.la) (firstDue o s.lb) ≤ u.now := by
    rw [hu, tickTo_now]
    exact le_max_right _ _
  have hfirst (i : LaneId) : firstDue o (laneOf u i) ≤ u.now := by
    have hp : TimePassed (laneOf s i) (laneOf u i) := hu ▸ timePassed_tickTo _ _ _
    rw [hp.firstDue]
    cases i
    · exact (le_max_left _ _).trans hnow
    · exact (le_max_right _ _).trans hnow
  refine ⟨_, execThrottleStep_eq hu, ?_⟩
  dsimp only
  rw [inRunning_now, show tickTo u.now s = u by rw [hu, tickTo_now_self]]
  exact lanewise_inRunning fun i hi => h u.now _ hi (hfirst i)

section
variable {l : Lane} {now : Nat}

theorem setStep_rest (b : Fin 32) (n : Nat) : setStep l b n = { l with regs := (setStep l b n).regs, late := (setStep l b n).late } := by
  unfold setStep stkIfLate
  split <;> rfl

theorem rget_setStep (b : Fin 32) (n a : Nat) : rget (setStep l b n) a = rget (fset l (THM_BST_STEP b) n) a := by
  unfold setStep stkIfLate
  split <;> rfl

theorem fget_setStep_self (b : Fin 32) {n : Nat} (hn : n < 4) : fget (setStep l b n) (THM_BST_STEP b) = n := by
  have h : fget (setStep l b n) (THM_BST_STEP b) = fget (fset l (THM_BST_STEP b) n) (THM_BST_STEP b) := by
    unfold fget
    rw [rget_setStep]
  rw [h, fget_fset_self _ _ _ (by simp [THM_BST_STEP])]
  exact Nat.mod_eq_of_lt hn

theorem setStep_setLate (b : Fin 32) {n : Nat} (h : fget l (THM_BST_STEP b) < n) : SetLate THM_STK_STEPUP (setStep l b n) := by
  unfold setStep stkIfLate
  rw [if_pos (decide_eq_true h)]
  exact List.mem_append_right _ (List.mem_singleton.mpr rfl)

theorem setStep_late (b : Fin 32) {n : Nat} (h : n ≤ fget l (THM_BST_STEP b)) : (setStep l b n).late = l.late := by
  unfold setStep stkIfLate
  rw [if_neg (by simpa using h)]
  rfl

/-- A lane after a step of brick `b` at `now`, where it was due, or the lane as it was. -/
def BrickStepped (b : Fin 32) (now : Nat) (l m : Lane) : Prop :=
  let st := fget l (THM_BST_STEP b)
  let x := vget l.btimes b
  (StepMoves st x → x.at_ + 3200000000 * fget l THM_LCFG_TSTEP ≤ now ∧
    m = { l with regs := m.regs, late := m.late, btimes := vset l.btimes b { x with at_ := now } } ∧
    (∀ a, a ≠ THM_BST b → rget m a = rget l a) ∧
    (x.hot = true → fget m (THM_BST_STEP b) = st + 1 ∧ SetLate THM_STK_STEPUP m) ∧
    (x.hot = false → fget m (THM_BST_STEP b) = st - 1 ∧ m.late = l.late)) ∧
  (¬ StepMoves st x → m = l)

theorem objStep_brick (b : Fin 32) (hr : laneRuns l = true) (hf : firstDue (.brick b) l ≤ now) :
    BrickStepped b now l (objStep now (.brick b) l) := by
  unfold BrickStepped
  dsimp only
  obtain ⟨d, hd⟩ : ∃ d, d = (vget l.btimes b).at_ + 3200000000 * fget l THM_LCFG_TSTEP := ⟨_, rfl⟩
  obtain ⟨hmove, hstay⟩ := stepDue_eq (st := fget l (THM_BST_STEP b)) hd
  have hst : fget l (THM_BST_STEP b) < 2 ^ 2 := fget_lt l (THM_BST_STEP b)
  rw [← hd]
  unfold objStep
  extract_lets due
  dsimp only
  constructor
  · intro hm
    have hdue : d ≤ now := by
      have ho : objDues l (.brick b) = [d] := congrArg Option.toList (hmove hm)
      unfold firstDue at hf
      rw [if_pos hr, ho] at hf
      exact hf
    have hc : due (stepDue l (fget l (THM_BST_STEP b)) (vget l.btimes b)) = true := by
      rw [hmove hm]
      exact decide_eq_true hdue
    rw [if_pos hc, stepTimer_of_moves hm]
    refine ⟨hdue, setStep_rest _ _, fun a ha => ?_, fun hx => ?_, fun hx => ?_⟩
    · rw [rget_setStep, rget_fset_ne _ _ _ ha]
      rfl
    · have h3 : fget l (THM_BST_STEP b) < 3 := by
        obtain ⟨-, h⟩ | ⟨h, -⟩ := hm
        · exact h
        · exact absurd h (by simp [hx])
      rw [hx, if_pos rfl]
      exact ⟨fget_setStep_self b (by omega), setStep_setLate b (Nat.lt_succ_self (fget l (THM_BST_STEP b)))⟩
    · rw [hx, if_neg Bool.false_ne_true]
      exact ⟨fget_setStep_self b (by omega), setStep_late b (Nat.sub_le (fget l (THM_BST_STEP b)) 1)⟩
  · intro hm
    have hc : ¬ due (stepDue l (fget l (THM_BST_STEP b)) (vget l.btimes b)) = true := by
      rw [hstay hm]
      exact Bool.false_ne_true
    rw [if_neg hc]

theorem setLane_rest (n : Fin 2 → Nat) :
    setLane l n = { l with regs := (setLane l n).regs, late := (setLane l n).late, lsteps := #v[n 0, n 1] } := by
  unfold setLane stkIfLate
  extract_lets up
  split <;> rfl

theorem setLane_lsteps (n : Fin 2 → Nat) (i : Fin 2) : vget (setLane l n).lsteps i = n i := by
  rw [setLane_rest]
  fin_cases i <;> rfl

theorem rget_setLane (n : Fin 2 → Nat) (a : Nat) :
    rget (setLane l n) a = rget (fset { l with lsteps := #v[n 0, n 1] } THM_STS_LSTEP (max (n 0) (n 1))) a := by
  unfold setLane stkIfLate
  extract_lets up
  split <;> rfl

theorem fget_setLane {n : Fin 2 → Nat} (h : ∀ i, n i < 4) : fget (setLane l n) THM_STS_LSTEP = max (n 0) (n 1) := by
  have e : fget (setLane l n) THM_STS_LSTEP =
      fget (fset { l with lsteps := #v[n 0, n 1] } THM_STS_LSTEP (max (n 0) (n 1))) THM_STS_LSTEP := by
    unfold fget
    rw [rget_setLane]
  rw [e, fget_fset_self _ _ _ (by simp [THM_STS_LSTEP])]
  exact Nat.mod_eq_of_lt (max_lt (h 0) (h 1))

theorem setLane_setLate {n : Fin 2 → Nat} (h : ∃ i, vget l.lsteps i < n i) : SetLate THM_STK_STEPUP (setLane l n) := by
  have hup : (decide (vget l.lsteps 0 < n 0) || decide (vget l.lsteps 1 < n 1)) = true := by
    rw [Bool.or_eq_true, decide_eq_true_iff, decide_eq_true_iff]
    obtain ⟨i, hi⟩ := h
    fin_cases i
    · exact .inl hi
    · exact .inr hi
  unfold setLane stkIfLate
  extract_lets up
  have h' : up = true := hup
  rw [h']
  exact List.mem_append_right _ (List.mem_singleton.mpr rfl)

/-- Whether the step of lane diode `i` changes by `now`. -/
def LaneDue (l : Lane) (now : Nat) (i : Fin 2) : Prop :=
  fget l (THM_T_STALE (144 + i.1)) = 0 ∧ StepMoves (vget l.lsteps i) (vget l.ltimes i) ∧
  (vget l.ltimes i).at_ + 3200000000 * fget l THM_LCFG_TSTEP ≤ now

theorem laneStepDue_iff (i : Fin 2) : ((laneStepDue l i).any fun t => decide (t ≤ now)) = true ↔ LaneDue l now i := by
  obtain ⟨d, hd⟩ : ∃ d, d = (vget l.ltimes i).at_ + 3200000000 * fget l THM_LCFG_TSTEP := ⟨_, rfl⟩
  obtain ⟨hmove, hstay⟩ := stepDue_eq (st := vget l.lsteps i) hd
  unfold laneStepDue LaneDue
  rw [← hd]
  by_cases hz : fget l (THM_T_STALE (144 + i.1)) = 0
  · rw [if_neg (by simp [fon, hz])]
    by_cases hm : StepMoves (vget l.lsteps i) (vget l.ltimes i)
    · rw [hmove hm, Option.any_some, decide_eq_true_iff]
      exact ⟨fun h => ⟨hz, hm, h⟩, fun h => h.2.2⟩
    · rw [hstay hm, Option.any_none]
      exact ⟨fun h => absurd h Bool.false_ne_true, fun h => absurd h.2.1 hm⟩
  · rw [if_pos (by simp [fon, hz]), Option.any_none]
    exact ⟨fun h => absurd h Bool.false_ne_true, fun h => absurd h.1 hz⟩

/-- A lane after the steps of its two diodes that are due by `now`. -/
def LaneStepped (now : Nat) (l m : Lane) : Prop :=
  m = { l with regs := m.regs, late := m.late, lsteps := m.lsteps, ltimes := m.ltimes } ∧ (∀ a, a ≠ THM_STS → rget m a = rget l a) ∧
  ((∃ i, vget l.lsteps i < vget m.lsteps i) → SetLate THM_STK_STEPUP m) ∧
  (∀ i : Fin 2, (LaneDue l now i → vget m.lsteps i = if (vget l.ltimes i).hot then vget l.lsteps i + 1 else vget l.lsteps i - 1) ∧
    (¬ LaneDue l now i → vget m.lsteps i = vget l.lsteps i)) ∧
  ((∃ i, LaneDue l now i) → (∀ i, vget l.lsteps i ≤ 3) → fget m THM_STS_LSTEP = max (vget m.lsteps 0) (vget m.lsteps 1)) ∧
  ((∀ i, ¬ LaneDue l now i) → m = l)

theorem objStep_lane (l : Lane) (now : Nat) : LaneStepped now l (objStep now .lane l) := by
  unfold LaneStepped
  unfold objStep
  extract_lets due d n x
  dsimp only
  have hd (i : Fin 2) : d i = true ↔ LaneDue l now i := laneStepDue_iff i
  have hdue {i : Fin 2} (h : LaneDue l now i) : n i = if (vget l.ltimes i).hot then vget l.lsteps i + 1 else vget l.lsteps i - 1 :=
    (if_pos ((hd i).mpr h)).trans (stepTimer_of_moves h.2.1)
  have hnot {i : Fin 2} (h : ¬ LaneDue l now i) : n i = vget l.lsteps i := if_neg (mt (hd i).mp h)
  have hany : (d 0 || d 1) = true ↔ ∃ i, LaneDue l now i := by
    rw [Bool.or_eq_true, hd, hd]
    exact ⟨fun h => h.elim (fun h => ⟨0, h⟩) fun h => ⟨1, h⟩, fun ⟨i, h⟩ => by fin_cases i; exacts [.inl h, .inr h]⟩
  by_cases hc : (d 0 || d 1) = true
  · rw [if_pos hc]
    simp only [setLane_lsteps]
    refine ⟨?_, fun a ha => ?_, fun h => setLane_setLate h, fun i => ⟨hdue, hnot⟩, fun _ hle => fget_setLane fun i => ?_, fun h => ?_⟩
    · conv_lhs => rw [setLane_rest]
      rw [setLane_rest]
    · rw [rget_setLane, rget_fset_ne _ _ _ ha]
      rfl
    · by_cases h : LaneDue l now i
      · rw [hdue h]
        have := hle i
        obtain ⟨hx, hs⟩ | ⟨hx, hs⟩ := h.2.1
        · rw [hx, if_pos rfl]; omega
        · rw [hx, if_neg Bool.false_ne_true]; omega
      · rw [hnot h]
        exact Nat.lt_succ_of_le (hle i)
    · obtain ⟨i, hi⟩ := hany.mp hc
      exact absurd hi (h i)
  · rw [if_neg hc]
    have hno (i : Fin 2) : ¬ LaneDue l now i := fun h => hc (hany.mpr ⟨i, h⟩)
    exact ⟨rfl, fun _ _ => rfl, fun ⟨i, h⟩ => absurd h (Nat.lt_irrefl _), fun i => ⟨fun h => absurd h (hno i), fun _ => rfl⟩,
      fun ⟨i, h⟩ => absurd h (hno i), fun _ => rfl⟩
end

end Sys2Proof.Machine

namespace Sys2Proof.Machine

/-! ### Stale readings (R374) -/

section
variable {l : Lane}

theorem touches_thmSummary (l : Lane) : Touches (fun r => r = THM_STS) l (thmSummary l) := by
  unfold thmSummary
  extract_lets ss some_ l1 l2
  exact .fsetB (.fsetB (.fsetB (.fsetB (.fsetB .refl rfl) rfl) rfl) rfl) rfl

/-- A lane changed in its registers alone. -/
def RegsMoved (l m : Lane) : Prop := m = { l with regs := m.regs }

protected theorem RegsMoved.fsetB {m : Lane} (h : RegsMoved l m) (f : Field) (b : Bool) : RegsMoved l (fsetB m f b) :=
  (congrArg (fun k : Lane => { k with regs := (Machine.fsetB m f b).regs }) h :)

theorem stkLate_of_regsMoved {m : Lane} (h : RegsMoved l m) (f : Field) :
    stkLate m f = { l with regs := (stkLate m f).regs, late := (stkLate m f).late } :=
  (congrArg (fun k : Lane => { k with late := (stkLate m f).late }) h :)

theorem regsMoved_fsetB (l : Lane) (f : Field) (b : Bool) : RegsMoved l (fsetB l f b) :=
  RegsMoved.fsetB (m := l) (show RegsMoved l l from rfl) f b

theorem rget_stkLate (l : Lane) (f : Field) (a : Nat) : rget (stkLate l f) a = rget l a := rfl

theorem fget_stkLate (l : Lane) (f g : Field) : fget (stkLate l f) g = fget l g := by
  unfold fget
  rw [rget_stkLate]

theorem thmSummary_rest (l : Lane) : thmSummary l = { l with regs := (thmSummary l).regs } := by
  have h : RegsMoved l l := rfl
  unfold thmSummary
  extract_lets ss some_ l1 l2
  exact ((((h.fsetB _ _).fsetB _ _).fsetB _ _).fsetB _ _).fsetB _ _

theorem rget_thmSummary (l : Lane) {a : Nat} (h : a ≠ THM_STS) : rget (thmSummary l) a = rget l a := (touches_thmSummary l).regs a h

theorem THM_T_ne_STS (n : Nat) : THM_T n ≠ THM_STS := by unfold THM_T THM_STS; omega

/-- A stale reading shows in the summary. -/
theorem thmSummary_stale {n : Fin 150} (h : fget l (THM_T_STALE n) = 1) :
    fget (thmSummary l) (THM_T_STALE n) = 1 ∧ fget (thmSummary l) THM_STS_ANYSTALE = 1 := by
  constructor
  · rw [(touches_thmSummary l).fget (f := THM_T_STALE n) (THM_T_ne_STS n)]
    exact h
  · unfold thmSummary
    extract_lets ss some_ l1 l2
    have ht : Touches (fun r => r = THM_STS) l l2 := .fsetB (.fsetB (.fsetB (.fsetB .refl rfl) rfl) rfl) rfl
    clear_value l2
    have hany : ((List.range 150).any fun s => fon l2 (THM_T_STALE s)) = true := by
      refine List.any_eq_true.mpr ⟨n.1, List.mem_range.mpr n.2, ?_⟩
      unfold fon
      rw [ht.fget (f := THM_T_STALE n) (THM_T_ne_STS n), h]
      rfl
    rw [hany, fget_fsetB_self _ _ _ (by simp [THM_STS_ANYSTALE]) (by simp [THM_STS_ANYSTALE])]
    rfl

/-- A pin without its cartridge. -/
def PinGone (l : Lane) (n : Fin 150) : Prop := 128 ≤ n.1 ∧ n.1 < 144 ∧ slotUp l (8 + (n.1 - 128) / 8) = false

/-- A diode that is there and silent for 10 ticks, for the first time. -/
def DiodeSilent (l : Lane) (n : Fin 150) : Prop :=
  ((144 ≤ n.1 ∧ n.1 < 146 ∧ (n.1 - 144 = (match l.ident with | .A => 0 | .B => 1) ∨ slotUp l (2 + (n.1 - 144)) = true)) ∨
    (146 ≤ n.1 ∧ slotUp l (4 + (n.1 - 146)) = true)) ∧ 10 ≤ (vget l.sens n).age ∧ (vget l.sens n).mute = false

theorem diodeSilent_iff {n : Fin 150} (h : 144 ≤ n.1) : DiodeSilent l n ↔
    (decide (10 ≤ (vget l.sens n).age) && !(vget l.sens n).mute && diodeThere l n) = true := by
  unfold DiodeSilent diodeThere
  simp only [Bool.and_eq_true, decide_eq_true_iff, Bool.not_eq_true']
  by_cases hn : n.1 < 146
  · rw [if_pos hn, Bool.or_eq_true, decide_eq_true_iff]
    simp only [h, hn, true_and, Nat.not_le.mpr hn, false_and, or_false]
    exact and_comm
  · rw [if_neg hn]
    simp only [hn, false_and, and_false, false_or, Nat.not_lt.mp hn, true_and]
    exact and_comm

/-- What READING_STALE does in a lane. -/
def readingStale (n : Fin 150) (l : Lane) : Lane :=
  match sensorClass n with
  | 0 => l
  | 1 => if slotUp l (8 + (n.1 - 128) / 8) then l else thmSummary (staleSensor l n)
  | _ => thmSummary (muteDiode l n)

/-- A lane after READING_STALE, as R374 has it. -/
structure StaleShown (n : Fin 150) (l m : Lane) : Prop where
  regs : ∀ a, a ∉ [THM_T n, THM_STS] → rget m a = rget l a
  shown : PinGone l n ∨ DiodeSilent l n → fget m (THM_T_STALE n) = 1 ∧ fget m THM_STS_ANYSTALE = 1
  gone : PinGone l n → m = { l with regs := m.regs, late := m.late } ∧ (fget l (THM_T_STALE n) = 0 → SetLate THM_STK_STALE m)
  silent : DiodeSilent l n → SetLate THM_STK_STALE m ∧
    m = { l with regs := m.regs, late := m.late, sens := vset l.sens n { vget l.sens n with mute := true } }
  other : ¬ PinGone l n → ¬ DiodeSilent l n → m = { l with regs := m.regs } ∧ rget m (THM_T n) = rget l (THM_T n)

theorem staleShown_same {n : Fin 150} (hp : ¬ PinGone l n) (hd : ¬ DiodeSilent l n) : StaleShown n l l where
  regs _ _ := rfl
  shown h := (h.elim hp hd).elim
  gone h := (hp h).elim
  silent h := (hd h).elim
  other _ _ := ⟨rfl, rfl⟩

theorem staleShown_summary {n : Fin 150} (hp : ¬ PinGone l n) (hd : ¬ DiodeSilent l n) : StaleShown n l (thmSummary l) where
  regs a ha := rget_thmSummary l fun h => ha (by simp [h])
  shown h := (h.elim hp hd).elim
  gone h := (hp h).elim
  silent h := (hd h).elim
  other _ _ := ⟨thmSummary_rest l, rget_thmSummary l (THM_T_ne_STS n)⟩

theorem fget_stale_set (n : Nat) : fget (fsetB l (THM_T_STALE n) true) (THM_T_STALE n) = 1 :=
  fget_fsetB_self _ _ _ (by simp [THM_T_STALE]) (by simp [THM_T_STALE])

/-- `staleSensor` leaves the reading stale, its own register alone changed, and its sticky bit waiting where it was not stale. -/
theorem staleSensor_spec (l : Lane) (n : Nat) : fget (staleSensor l n) (THM_T_STALE n) = 1 ∧
    (∀ a, a ≠ THM_T n → rget (staleSensor l n) a = rget l a) ∧
    staleSensor l n = { l with regs := (staleSensor l n).regs, late := (staleSensor l n).late } ∧
    (fget l (THM_T_STALE n) = 0 → SetLate THM_STK_STALE (staleSensor l n)) := by
  unfold staleSensor
  by_cases h : fget l (THM_T_STALE n) = 0
  · rw [if_neg (by simp [fon, h])]
    refine ⟨(fget_stkLate _ _ _).trans (fget_stale_set n),
      fun a ha => (rget_stkLate _ _ _).trans (rget_fsetB_ne l (THM_T_STALE n) true ha), stkLate_of_regsMoved (regsMoved_fsetB _ _ _) _, fun _ => ?_⟩
    exact List.mem_append_right _ (List.mem_singleton.mpr rfl)
  · rw [if_pos (by simp [fon, h])]
    have hlt : fget l (THM_T_STALE n) < 2 ^ 1 := fget_lt l (THM_T_STALE n)
    exact ⟨by omega, fun _ _ => rfl, rfl, fun h' => absurd h' h⟩

theorem staleShown_gone {n : Fin 150} (hp : PinGone l n) (hd : ¬ DiodeSilent l n) : StaleShown n l (thmSummary (staleSensor l n)) := by
  obtain ⟨hstale, hregs, hrest, hlate⟩ := staleSensor_spec l n
  generalize staleSensor l n = k at *
  have hk := thmSummary_rest k
  refine ⟨fun a ha => ?_, fun _ => thmSummary_stale hstale, fun _ => ⟨?_, fun h => ?_⟩, fun h => (hd h).elim, fun h => (h hp).elim⟩
  · simp only [List.mem_cons, List.not_mem_nil, or_false, not_or] at ha
    rw [rget_thmSummary k ha.2, hregs a ha.1]
  · rw [hk, hrest]
  · unfold SetLate
    rw [hk]
    exact hlate h

theorem rget_modSens (l : Lane) (n : Fin 150) (f : SensRt → SensRt) (a : Nat) : rget (modSens l n f) a = rget l a := rfl

theorem fget_modSens (l : Lane) (n : Fin 150) (f : SensRt → SensRt) (g : Field) : fget (modSens l n f) g = fget l g := by
  unfold fget
  rw [rget_modSens]

/-- The run data of a sensor after a change in the registers and the sticky conditions that wait. -/
theorem modSens_rest {k : Lane} (h : k = { l with regs := k.regs, late := k.late }) (n : Fin 150) (f : SensRt → SensRt) :
    modSens k n f = { l with regs := k.regs, late := k.late, sens := vset l.sens n (f (vget l.sens n)) } := by
  have hs : k.sens = l.sens := (congrArg Lane.sens h :)
  have e := congrArg (fun y : Lane => { y with sens := vset l.sens n (f (vget l.sens n)) }) h
  rw [← hs] at e ⊢
  exact e

theorem staleShown_silent {n : Fin 150} (hp : ¬ PinGone l n) (hd : DiodeSilent l n) : StaleShown n l (thmSummary
    (modSens (stkLate (fsetB l (THM_T_STALE n) true) THM_STK_STALE) n fun x => { x with mute := true })) := by
  have hstale : fget (stkLate (fsetB l (THM_T_STALE n) true) THM_STK_STALE) (THM_T_STALE n) = 1 :=
    (fget_stkLate _ _ _).trans (fget_stale_set n.1)
  have hregs (a : Nat) (ha : a ≠ THM_T n) : rget (stkLate (fsetB l (THM_T_STALE n) true) THM_STK_STALE) a = rget l a :=
    (rget_stkLate _ _ _).trans (rget_fsetB_ne l (THM_T_STALE n) true ha)
  have hrest := stkLate_of_regsMoved (regsMoved_fsetB l (THM_T_STALE n) true) THM_STK_STALE
  have hlate : SetLate THM_STK_STALE (stkLate (fsetB l (THM_T_STALE n) true) THM_STK_STALE) :=
    List.mem_append_right _ (List.mem_singleton.mpr rfl)
  generalize stkLate (fsetB l (THM_T_STALE n) true) THM_STK_STALE = f at *
  have hmute := modSens_rest hrest n fun x => { x with mute := true }
  have hmr (a : Nat) : rget (modSens f n fun x => { x with mute := true }) a = rget f a := rget_modSens _ _ _ _
  have hml : (modSens f n fun x => { x with mute := true }).late = f.late := rfl
  have hms : fget (modSens f n fun x => { x with mute := true }) (THM_T_STALE n) = 1 := (fget_modSens _ _ _ _).trans hstale
  generalize modSens f n (fun x => { x with mute := true }) = k at *
  have hs := thmSummary_rest k
  refine ⟨fun a ha => ?_, fun _ => thmSummary_stale hms, fun h => (hp h).elim, fun _ => ⟨?_, ?_⟩, fun _ h => (h hd).elim⟩
  · simp only [List.mem_cons, List.not_mem_nil, or_false, not_or] at ha
    rw [rget_thmSummary k ha.2, hmr, hregs a ha.1]
  · unfold SetLate
    rw [hs, hml]
    exact hlate
  · rw [hs, hmute]

theorem readingStale_shown (n : Fin 150) (l : Lane) : StaleShown n l (readingStale n l) := by
  have hlow (h : n.1 < 144) : ¬ DiodeSilent l n := by
    unfold DiodeSilent
    omega
  have hhigh (h : 144 ≤ n.1) : ¬ PinGone l n := by
    unfold PinGone
    omega
  unfold readingStale sensorClass
  by_cases h0 : n.1 < 128
  · rw [if_pos h0]
    exact staleShown_same (fun h => by unfold PinGone at h; omega) (hlow (by omega))
  · rw [if_neg h0]
    by_cases h1 : n.1 < 144
    · rw [if_pos h1]
      change StaleShown n l (if slotUp l (8 + (n.1 - 128) / 8) then l else thmSummary (staleSensor l n))
      cases hs : slotUp l (8 + (n.1 - 128) / 8)
      · exact staleShown_gone ⟨Nat.not_lt.mp h0, h1, hs⟩ (hlow h1)
      · exact staleShown_same (fun h => by rw [h.2.2] at hs; exact absurd hs (by simp)) (hlow h1)
    · rw [if_neg h1]
      have hm : StaleShown n l (thmSummary (muteDiode l n)) := by
        unfold muteDiode
        extract_lets x
        by_cases hd : DiodeSilent l n
        · rw [if_pos ((diodeSilent_iff (Nat.not_lt.mp h1)).mp hd)]
          exact staleShown_silent (hhigh (Nat.not_lt.mp h1)) hd
        · rw [if_neg (mt (diodeSilent_iff (Nat.not_lt.mp h1)).mpr hd)]
          exact staleShown_summary (hhigh (Nat.not_lt.mp h1)) hd
      by_cases h2 : n.1 < 146
      · rw [if_pos h2]; exact hm
      · rw [if_neg h2]; exact hm
end

/-! ### A lane that shuts down (R385) -/

/-- The registers that a change of role may change besides SYS_STS. -/
def RoleSideReg (r : Nat) : Prop := PeatReg r ∨ r = XLN_STK ∨ r = XLN_STS

theorem not_roleSideReg_SYS_STS : ¬ RoleSideReg SYS_STS := by
  unfold RoleSideReg PeatReg
  simp [SYS_STS, XLN_STK, XLN_STS, PEAT_STS, PEAT_STK, PEAT_HEAD, FLT_STK]

theorem roleOf_setRole (now : Nat) {r : Nat} (hr : r < 8) (l : Lane) : roleOf (setRole now r l) = r := by
  unfold setRole
  split
  next h => exact h
  next h =>
    extract_lets c0 l1 l2 l3
    have hf : RoleSideReg FLT_STK := .inl (by simp [PeatReg])
    have hk : RoleSideReg XLN_STK := .inr (.inl rfl)
    have ht : Touches RoleSideReg l1 (fsetB (stkSeen l3 XLN_STK_ROLE) XLN_STS_CLAIM (decide (r = roleActive))) :=
      .fsetB (.stkSeen (.fmWrite (.peatWrite .refl fun _ h => .inl h)) hk hf) (.inr (.inr rfl))
    unfold roleOf
    rw [ht.fget (f := SYS_STS_LROLE) not_roleSideReg_SYS_STS, fget_fset_self _ _ _ (by simp [SYS_STS_LROLE])]
    exact Nat.mod_eq_of_lt hr

theorem execLaneShutdownAbandon_eq {s u : State} {i : LaneId} (hs : (laneOf s i).shut = true) (ha : laneActive (laneOf s i) = true)
    (hu : u = tickTo ((laneOf s i).shutAt + 6400000) s) :
    execLaneShutdownAbandon i s = .next { (modLane u i fun l => fsetB l XLN_STS_HOBUSY false) with ho := .none } := by
  unfold execLaneShutdownAbandon
  extract_lets l u'
  have h : u' = u := hu.symm
  clear_value u'
  subst h
  have hc : (l.shut && laneActive l) = true := by simp [l, hs, ha]
  exact if_pos hc

/-- A hand-over is given up. -/
theorem handover_givenUp (u : State) (i : LaneId) :
    let t := { (modLane u i fun l => fsetB l XLN_STS_HOBUSY false) with ho := .none }
    t = { putLane u i (laneOf t i) with ho := .none } ∧ RegsOnly (laneOf u i) (laneOf t i) [XLN_STS] ∧
      fget (laneOf t i) XLN_STS_HOBUSY = 0 := by
  dsimp only
  have hl : laneOf { (modLane u i fun l => fsetB l XLN_STS_HOBUSY false) with ho := .none } i = fsetB (laneOf u i) XLN_STS_HOBUSY false := by
    cases i <;> rfl
  rw [hl]
  refine ⟨rfl, ⟨?_, fun a ha => rget_fsetB_ne _ XLN_STS_HOBUSY _ fun e => ha (List.mem_singleton.mpr e)⟩, ?_⟩
  · rfl
  · rw [fget_fsetB_self _ _ _ (by simp [XLN_STS_HOBUSY]) (by simp [XLN_STS_HOBUSY])]
    rfl

/-- What LANE_STOP makes of the lane that stops. -/
def laneStopped (now : Nat) (l : Lane) : Lane := fset (setRole now roleFault l) CLK_DOM_RUN 1

theorem execLaneStop_eq {s : State} {i : LaneId} (hs : (laneOf s i).shut = true)
    (h : (laneActive (laneOf s i) = false ∨ s.ho = .none) ∧ (laneOf s i).peatQ = [] ∨ (laneOf s i).shutAt + 16000000 ≤ s.now) :
    execLaneStop i s = .next (settle (modLane (modLane s i (laneStopped s.now)) (otherLane i) fun l =>
      if laneRuns l then stkSeen l THM_STK_LSHUT else l)) := by
  unfold execLaneStop
  extract_lets l busy
  refine if_pos ?_
  rw [Bool.and_eq_true, Bool.or_eq_true, Bool.and_eq_true, Bool.not_eq_true', decide_eq_true_iff]
  refine ⟨hs, ?_⟩
  obtain ⟨hb, hq⟩ | ht := h
  · refine .inl ⟨?_, by simp [l, hq]⟩
    obtain hb | hb := hb
    · simp [busy, l, hb]
    · simp [busy, hb]
  · exact .inr ht

theorem not_settleReg_CLK_DOM : ¬ SettleReg CLK_DOM := fun h => by
  have := h.num
  simp [CLK_DOM] at this

/-- A lane that stops is in FAULT with Ember alone, and the other shows it. -/
theorem laneStop_stops {s : State} {i : LaneId} (hs : (laneOf s i).shut = true)
    (h : (laneActive (laneOf s i) = false ∨ s.ho = .none) ∧ (laneOf s i).peatQ = [] ∨ (laneOf s i).shutAt + 16000000 ≤ s.now) :
    Answers (.laneStop i) s fun t => fget (laneOf t i) CLK_DOM_RUN = 1 ∧ ∃ u, Calm u t ∧ u = { s with la := u.la, lb := u.lb } ∧
      roleOf (laneOf u i) = roleFault ∧
      (laneRuns (laneOf s (otherLane i)) = true → SetLate THM_STK_LSHUT (laneOf u (otherLane i))) := by
  obtain ⟨u, hu⟩ : ∃ u, u = modLane (modLane s i (laneStopped s.now)) (otherLane i) fun l =>
    if laneRuns l then stkSeen l THM_STK_LSHUT else l := ⟨_, rfl⟩
  have hi : laneOf u i = laneStopped s.now (laneOf s i) := by rw [hu]; cases i <;> rfl
  have ho : laneOf u (otherLane i) =
      if laneRuns (laneOf s (otherLane i)) then stkSeen (laneOf s (otherLane i)) THM_STK_LSHUT else laneOf s (otherLane i) := by
    rw [hu]; cases i <;> rfl
  have hw : u = { s with la := u.la, lb := u.lb } := by rw [hu]; cases i <;> rfl
  have hdom : fget (laneOf u i) CLK_DOM_RUN = 1 := by
    rw [hi, laneStopped, fget_fset_self _ _ _ (by simp [CLK_DOM_RUN])]
    rfl
  refine ⟨_, (execLaneStop_eq hs h).trans (by rw [← hu]), ?_, u, calm_settle u, hw, ?_, fun hr => ?_⟩
  · rw [((calm_settle u).lanes i).fget (f := CLK_DOM_RUN) not_settleReg_CLK_DOM, hdom]
  · rw [hi, laneStopped, roleOf, fget_fset_ne _ _ _ _ (by simp [SYS_STS_LROLE, SYS_STS, CLK_DOM_RUN, CLK_DOM])]
    exact roleOf_setRole _ (by decide) _
  · rw [ho, if_pos hr]
    unfold stkSeen
    rw [if_pos hr]
    exact List.mem_append_right _ (List.mem_singleton.mpr rfl)

/-- Settles O44: the throttle steps, the stale readings and the shut-down, each by its lemma. -/
theorem thermalReactions : Obligations.ThermalReactions := by
  unfold Obligations.ThermalReactions
  intro s
  dsimp only
  refine ⟨fun b => throttleStep_lanewise (P := BrickStepped b) fun now l hr hf => objStep_brick b hr hf,
    throttleStep_lanewise (P := LaneStepped) fun now l _ _ => objStep_lane l now, fun n => ?_, fun i hs => ⟨fun ha => ?_, laneStop_stops hs⟩⟩
  · refine ⟨inRunning (readingStale n) s, rfl, lanewise_inRunning fun i _ => ?_⟩
    obtain ⟨hregs, hshown, hgone, hsilent, hother⟩ := readingStale_shown n (laneOf s i)
    exact ⟨hregs, hshown, hgone, hsilent, hother⟩
  · generalize hu : tickTo ((laneOf s i).shutAt + 6400000) s = u
    exact ⟨_, execLaneShutdownAbandon_eq hs ha hu.symm, handover_givenUp u i⟩

end Sys2Proof.Machine

namespace Sys2Proof.Machine

/-! ### Two fields of one register -/

theorem testBit_setBits (v lo w x j : Nat) : (setBits v lo w x).testBit j =
    if j < lo then v.testBit j else if j < lo + w then x.testBit (j - lo) else v.testBit j := by
  have e : setBits v lo w x = 2 ^ lo * (2 ^ w * (v / 2 ^ (lo + w)) + x % 2 ^ w) + v % 2 ^ lo := by
    unfold setBits
    rw [Nat.pow_add]
    ring
  rw [e, Nat.testBit_two_pow_mul_add _ (Nat.mod_lt _ (Nat.two_pow_pos lo))]
  split
  next h => rw [Nat.testBit_mod_two_pow, decide_eq_true h, Bool.true_and]
  next h =>
    rw [Nat.testBit_two_pow_mul_add _ (Nat.mod_lt _ (Nat.two_pow_pos w))]
    by_cases hj : j < lo + w
    · rw [if_pos hj, if_pos (by omega), Nat.testBit_mod_two_pow, decide_eq_true (by omega), Bool.true_and]
    · rw [if_neg hj, if_neg (by omega), Nat.testBit_div_two_pow]
      congr 1
      omega

theorem testBit_bitsOf (v lo w j : Nat) : (bitsOf v lo w).testBit j = (decide (j < w) && v.testBit (lo + j)) := by
  unfold bitsOf
  rw [Nat.testBit_mod_two_pow, Nat.testBit_div_two_pow, Nat.add_comm]

/-- A field keeps its value when one apart from it in its register is set. -/
theorem fget_fset_apart (l : Lane) (f g : Field) (v : Nat) (ha : g.addr = f.addr) (h : f.lo + f.w ≤ g.lo ∨ g.lo + g.w ≤ f.lo)
    (hf : f.lo + f.w ≤ 32) : fget (fset l f v) g = fget l g := by
  unfold fget fset
  rw [ha, rget_rset_self, BitVec.toNat_ofNat, Nat.mod_eq_of_lt (setBits_lt _ _ _ _ (rget l f.addr).isLt hf)]
  refine Nat.eq_of_testBit_eq fun j => ?_
  rw [testBit_bitsOf, testBit_bitsOf, testBit_setBits]
  by_cases hj : j < g.w
  · have : (if g.lo + j < f.lo then (rget l f.addr).toNat.testBit (g.lo + j) else
        if g.lo + j < f.lo + f.w then v.testBit (g.lo + j - f.lo) else (rget l f.addr).toNat.testBit (g.lo + j)) =
        (rget l f.addr).toNat.testBit (g.lo + j) := by
      obtain h | h := h
      · rw [if_neg (by omega), if_neg (by omega)]
      · rw [if_pos (by omega)]
    rw [this]
  · rw [decide_eq_false hj, Bool.false_and, Bool.false_and]

theorem fget_fsetB_apart (l : Lane) (f g : Field) (b : Bool) (ha : g.addr = f.addr) (h : f.lo + f.w ≤ g.lo ∨ g.lo + g.w ≤ f.lo)
    (hf : f.lo + f.w ≤ 32) : fget (fsetB l f b) g = fget l g := fget_fset_apart l f g _ ha h hf

theorem b2n_fon (l : Lane) (f : Field) (hw : f.w = 1) : b2n (fon l f) = fget l f := by
  have h := fget_lt l f
  rw [hw] at h
  unfold fon
  by_cases hz : fget l f = 0
  · rw [hz]; rfl
  · rw [decide_eq_true hz]
    change 1 = _
    omega

/-! ### The Peat log (R439, R440, R446) -/

protected theorem RegsMoved.fset {l m : Lane} (h : RegsMoved l m) (f : Field) (v : Nat) : RegsMoved l (fset m f v) :=
  (congrArg (fun k : Lane => { k with regs := (Machine.fset m f v).regs }) h :)

protected theorem RegsMoved.rset {l m : Lane} (h : RegsMoved l m) (a : Nat) (v : Word) : RegsMoved l (rset m a v) :=
  (congrArg (fun k : Lane => { k with regs := (Machine.rset m a v).regs }) h :)

theorem rget_congr {l m : Lane} (hr : m.regs = l.regs) (hi : m.ident = l.ident) (a : Nat) : rget m a = rget l a := by
  unfold rget
  rw [hr, hi]

theorem fget_congr {l m : Lane} (hr : m.regs = l.regs) (hi : m.ident = l.ident) (f : Field) : fget m f = fget l f := by
  unfold fget
  rw [rget_congr hr hi]

section
variable {l : Lane} {i : LaneId} {s : State}

theorem modLane_eq_putLane (s : State) (i : LaneId) (g : Lane → Lane) :
    modLane s i g = putLane s i (laneOf (modLane s i g) i) := by rw [laneOf_modLane]; rfl

/-- The log with an entry more, the oldest leaving a full one. -/
@[irreducible] def peatWith (l : Lane) (e : PeatEntry) : List PeatEntry := (l.peat ++ [e]).drop ((l.peat ++ [e]).length - 65536)

theorem drop_append_of_lt {α : Type} {xs : List α} {n : Nat} (x : α) (h : xs.length < n) :
    (xs ++ [x]).drop ((xs ++ [x]).length - n) = xs ++ [x] := by
  rw [List.length_append, List.length_singleton, Nat.sub_eq_zero_of_le (by omega), List.drop_zero]

theorem drop_append_of_eq {α : Type} {xs : List α} {n : Nat} (x : α) (h : xs.length = n) (hn : 0 < n) :
    (xs ++ [x]).drop ((xs ++ [x]).length - n) = xs.tail ++ [x] := by
  rw [List.length_append, List.length_singleton, h, Nat.add_sub_cancel_left, List.drop_one]
  exact List.tail_append_of_ne_nil (List.ne_nil_of_length_pos (by omega))

theorem peatWith_of_lt {e : PeatEntry} (h : l.peat.length < 65536) : peatWith l e = l.peat ++ [e] := by
  unfold peatWith
  exact drop_append_of_lt e h

theorem peatWith_of_full {e : PeatEntry} (h : l.peat.length = 65536) : peatWith l e = l.peat.tail ++ [e] := by
  unfold peatWith
  exact drop_append_of_eq e h (by omega)

/-- The lane whose oldest waiting entry `e` has reached flash. -/
structure PeatCommitted (e : PeatEntry) (rest : List PeatEntry) (l m : Lane) : Prop where
  moved : m = { l with regs := m.regs, peatQ := rest, peat := peatWith l e }
  regs : ∀ a, a ≠ PEAT_STS → a ≠ PEAT_HELD → rget m a = rget l a
  busy : fget m PEAT_STS_BUSY = 0 ↔ rest = []
  held : fget m PEAT_HELD_N = min (l.peat.length + 1) 65536
  wrap : fget m PEAT_STS_WRAP = b2n (fon l PEAT_STS_WRAP || decide (65536 < l.peat.length + 1))

theorem peatCommit_committed {e : PeatEntry} {rest : List PeatEntry} (h : l.peatQ = e :: rest) :
    PeatCommitted e rest l (peatCommit l) := by
  obtain ⟨k, hk⟩ : ∃ k, k = { l with peatQ := rest, peat := peatWith l e } := ⟨_, rfl⟩
  have hkr : ∀ a, rget k a = rget l a := rget_congr (by rw [hk]) (by rw [hk])
  have hkf : ∀ f, fget k f = fget l f := fget_congr (by rw [hk]) (by rw [hk])
  have hlen : (l.peat ++ [e]).length = l.peat.length + 1 := by rw [List.length_append, List.length_singleton]
  obtain ⟨n, hn⟩ : ∃ n, n = 65536 := ⟨_, rfl⟩
  obtain ⟨w, hw⟩ : ∃ w, w = (fon k PEAT_STS_WRAP || decide (n < l.peat.length + 1)) := ⟨_, rfl⟩
  have he : peatCommit l = fsetB (fset (fsetB k PEAT_STS_WRAP w) PEAT_HELD_N (min (l.peat.length + 1) n)) PEAT_STS_BUSY (!rest.isEmpty) := by
    unfold peatCommit
    rw [h]
    dsimp only
    rw [hw, hn, hk, ← hlen]
    unfold peatWith
    rfl
  have hsts : PEAT_HELD_N.addr ≠ PEAT_STS := by simp [PEAT_HELD_N, PEAT_HELD, PEAT_STS]
  have hmoved : RegsMoved k (peatCommit l) := by
    rw [he]
    exact (((show RegsMoved k k from rfl).fsetB _ _).fset _ _).fsetB _ _
  refine ⟨?_, fun a h1 h2 => ?_, ?_, ?_, ?_⟩
  · rw [hmoved, hk]
  · rw [he, rget_fsetB_ne _ PEAT_STS_BUSY _ h1, rget_fset_ne _ PEAT_HELD_N _ h2, rget_fsetB_ne _ PEAT_STS_WRAP _ h1, hkr]
  · rw [he, fget_fsetB_self _ _ _ (by simp [PEAT_STS_BUSY]) (by simp [PEAT_STS_BUSY])]
    cases rest <;> simp [b2n]
  · rw [he, fget_fsetB_ne _ PEAT_STS_BUSY PEAT_HELD_N _ hsts, fget_fset_self _ _ _ (by simp [PEAT_HELD_N]), hn]
    exact Nat.mod_eq_of_lt (lt_of_le_of_lt (min_le_right _ _) (by norm_num [PEAT_HELD_N]))
  · rw [he, fget_fsetB_apart _ PEAT_STS_BUSY PEAT_STS_WRAP _ rfl (.inl le_rfl) (by simp [PEAT_STS_BUSY]),
      fget_fset_ne _ PEAT_HELD_N PEAT_STS_WRAP _ hsts.symm, fget_fsetB_self _ _ _ (by simp [PEAT_STS_WRAP]) (by simp [PEAT_STS_WRAP]), hw]
    unfold fon
    rw [hkf, hn]
end

end Sys2Proof.Machine

namespace Sys2Proof.Machine

section
variable {l : Lane} {s : State} {i : LaneId}

/-! ### Sticky bits set at once -/

theorem rget_stk_self (l : Lane) {f : Field} (hf : f.addr ≠ FLT_STK) :
    rget (stk l f) f.addr = rget l f.addr ||| BitVec.ofNat 32 ((2 ^ f.w - 1) * 2 ^ f.lo) := by
  unfold stk stkOr fltStk
  dsimp only
  rw [rget_stkSet_ne _ _ hf]
  exact rget_rset_self _ _ _

theorem bitsOf_one (v lo : Nat) : bitsOf v lo 1 = (v.testBit lo).toNat := by
  unfold bitsOf
  rw [Nat.pow_one, Nat.testBit_eq_decide_div_mod_eq]
  rcases Nat.mod_two_eq_zero_or_one (v / 2 ^ lo) with h | h <;> rw [h] <;> rfl

theorem fget_stk_self (l : Lane) {f : Field} (hf : f.addr ≠ FLT_STK) (hw : f.w = 1) (hlo : f.lo < 32) : fget (stk l f) f = 1 := by
  unfold fget
  rw [rget_stk_self l hf, hw, bitsOf_one, Nat.pow_one, Nat.one_mul, BitVec.toNat_or, Nat.testBit_or, BitVec.testBit_toNat (x := BitVec.ofNat 32 _),
    BitVec.getLsbD_ofNat, decide_eq_true hlo, Nat.testBit_two_pow_self, Bool.and_true, Bool.or_true]
  rfl

theorem stk_frame (l : Lane) (f : Field) : stk l f = { l with regs := (stk l f).regs, cyc := (stk l f).cyc } := stkIf_frame true l f

/-! ### Peat entries -/

theorem laneRuns_congr {m : Lane} (hp : m.powered = l.powered) (hs : fget m SYS_STS_LROLE = fget l SYS_STS_LROLE)
    (hc : fget m CLK_DOM_RUN = fget l CLK_DOM_RUN) : laneRuns m = laneRuns l := by
  unfold laneRuns laneJoined coreRuns
  rw [hp, hs, hc]

/-- A lane after the commit of the entry `e`, as R439 and R440 have it. -/
structure EntryCommitted (e : PeatEntry) (rest : List PeatEntry) (retried : Bool) (l m : Lane) : Prop where
  moved : m = { l with regs := m.regs, cyc := m.cyc, peatQ := rest, peat := m.peat, late := m.late }
  regs : ∀ a, a ∉ [PEAT_STS, PEAT_HELD, PEAT_STK, FLT_STK] → rget m a = rget l a
  once : retried = false → m.late = l.late ∧ rget m PEAT_STK = rget l PEAT_STK ∧ rget m FLT_STK = rget l FLT_STK
  again : retried = true → (laneRuns l = true → SetLate PEAT_STK_FLERR m) ∧ (laneRuns l = false → fget m PEAT_STK_FLERR = 1)
  busy : fget m PEAT_STS_BUSY = 0 ↔ rest = []
  held : fget m PEAT_HELD_N = min (l.peat.length + 1) 65536
  grows : l.peat.length < 65536 → m.peat = l.peat ++ [e] ∧ fget m PEAT_STS_WRAP = fget l PEAT_STS_WRAP
  full : l.peat.length = 65536 → m.peat = l.peat.tail ++ [e] ∧ fget m PEAT_STS_WRAP = 1

theorem entryCommitted_of {e : PeatEntry} {rest : List PeatEntry} {retried : Bool} {k m : Lane} (hk : PeatCommitted e rest l k)
    (hm : m = { k with regs := m.regs, cyc := m.cyc, late := m.late }) (hr : ∀ a, a ≠ PEAT_STK → a ≠ FLT_STK → rget m a = rget k a)
    (h0 : retried = false → m = k)
    (h1 : retried = true → (laneRuns l = true → SetLate PEAT_STK_FLERR m) ∧ (laneRuns l = false → fget m PEAT_STK_FLERR = 1)) :
    EntryCommitted e rest retried l m := by
  have hsts : rget m PEAT_STS = rget k PEAT_STS := hr _ (by simp [PEAT_STS, PEAT_STK]) (by simp [PEAT_STS, FLT_STK])
  have hheld : rget m PEAT_HELD = rget k PEAT_HELD := hr _ (by simp [PEAT_HELD, PEAT_STK]) (by simp [PEAT_HELD, FLT_STK])
  have hf {f : Field} (h : rget m f.addr = rget k f.addr) : fget m f = fget k f := by unfold fget; rw [h]
  have hpeat : m.peat = peatWith l e := by
    have e1 : m.peat = k.peat := (congrArg Lane.peat hm :)
    have e2 : k.peat = peatWith l e := (congrArg Lane.peat hk.moved :)
    exact e1.trans e2
  have hwrap := (hf (f := PEAT_STS_WRAP) hsts).trans hk.wrap
  refine ⟨?_, fun a ha => ?_, fun h => ?_, h1, ?_, (hf (f := PEAT_HELD_N) hheld).trans hk.held, fun h => ⟨?_, ?_⟩, fun h => ⟨?_, ?_⟩⟩
  · have e1 := congrArg (fun y : Lane => { y with regs := m.regs, cyc := m.cyc, late := m.late }) hk.moved
    rw [hpeat]
    exact hm.trans e1
  · simp only [List.mem_cons, List.not_mem_nil, or_false, not_or] at ha
    obtain ⟨ha1, ha2, ha3, ha4⟩ := ha
    rw [hr a ha3 ha4, hk.regs a ha1 ha2]
  · rw [h0 h]
    refine ⟨(congrArg Lane.late hk.moved :), hk.regs _ ?_ ?_, hk.regs _ ?_ ?_⟩
    · simp [PEAT_STK, PEAT_STS]
    · simp [PEAT_STK, PEAT_HELD]
    · simp [FLT_STK, PEAT_STS]
    · simp [FLT_STK, PEAT_HELD]
  · rw [hf (f := PEAT_STS_BUSY) hsts]
    exact hk.busy
  · rw [hpeat, peatWith_of_lt h]
  · rw [hwrap, decide_eq_false (by omega), Bool.or_false, b2n_fon _ _ rfl]
  · rw [hpeat, peatWith_of_full h]
  · rw [hwrap, decide_eq_true (by omega), Bool.or_true]
    rfl

theorem peatEntry_committed {e : PeatEntry} {rest : List PeatEntry} {retried : Bool} (h : l.peatQ = e :: rest) :
    EntryCommitted e rest retried l (stkSeenIf (retried && !l.peatQ.isEmpty) (peatCommit l) PEAT_STK_FLERR) := by
  have hk := peatCommit_committed h
  generalize peatCommit l = k at *
  have hf {f : Field} (h1 : f.addr ≠ PEAT_STS) (h2 : f.addr ≠ PEAT_HELD) : fget k f = fget l f := by
    unfold fget
    rw [hk.regs _ h1 h2]
  have hrun : laneRuns k = laneRuns l := by
    refine laneRuns_congr (congrArg Lane.powered hk.moved :) (hf ?_ ?_) (hf ?_ ?_)
    · simp [SYS_STS_LROLE, SYS_STS, PEAT_STS]
    · simp [SYS_STS_LROLE, SYS_STS, PEAT_HELD]
    · simp [CLK_DOM_RUN, CLK_DOM, PEAT_STS]
    · simp [CLK_DOM_RUN, CLK_DOM, PEAT_HELD]
  rw [h]
  cases retried
  · exact entryCommitted_of hk rfl (fun _ _ _ => rfl) (fun _ => rfl) fun h => absurd h Bool.false_ne_true
  · have he : stkSeenIf (true && !(e :: rest).isEmpty) k PEAT_STK_FLERR = if laneRuns l then stkLate k PEAT_STK_FLERR else stk k PEAT_STK_FLERR := by
      rw [← hrun]
      rfl
    rw [he]
    cases hr : laneRuns l
    · rw [if_neg Bool.false_ne_true]
      refine entryCommitted_of hk ?_ (fun a h1 h2 => rget_stk_ne _ _ h1 h2) (fun h => absurd h (by simp)) fun _ => ⟨fun h => ?_, fun _ => ?_⟩
      · rw [show (stk k PEAT_STK_FLERR).late = k.late from rfl]
        exact stk_frame k PEAT_STK_FLERR
      · exact absurd (hr.symm.trans h) Bool.false_ne_true
      · exact fget_stk_self _ (by simp [PEAT_STK_FLERR, PEAT_STK, FLT_STK]) rfl (by simp [PEAT_STK_FLERR])
    · rw [if_pos rfl]
      refine entryCommitted_of hk rfl (fun a _ _ => rget_stkLate _ _ _) (fun h => absurd h (by simp)) fun _ => ⟨fun _ => ?_, fun h => ?_⟩
      · exact List.mem_append_right _ (List.mem_singleton.mpr rfl)
      · exact absurd (hr.symm.trans h) (by simp)

theorem execPeatEntryCommit_eq (h : (laneOf s i).powered = true) (retried : Bool) : execPeatEntryCommit { lane := i, retried := retried } s =
    .next (modLane s i fun l => stkSeenIf (retried && !l.peatQ.isEmpty) (peatCommit l) PEAT_STK_FLERR) := if_pos h

end
end Sys2Proof.Machine

namespace Sys2Proof.Machine

section
variable {l : Lane} {s : State} {i : LaneId}

/-! ### Reading the Peat log (R446) -/

/-- PEAT_RSEL takes the number and invalidates what was read. -/
theorem peatSelect_spec (l : Lane) (q : Word) : RegsOnly l (peatSelect l q) [PEAT_RSEL, PEAT_RSTS] ∧
    rget (peatSelect l q) PEAT_RSEL = q ∧ fget (peatSelect l q) PEAT_RSTS_VALID = 0 := by
  have hne : PEAT_RSEL ≠ PEAT_RSTS := by simp [PEAT_RSEL, PEAT_RSTS]
  unfold peatSelect
  refine ⟨⟨rfl, fun a ha => ?_⟩, ?_, ?_⟩
  · simp only [List.mem_cons, List.not_mem_nil, or_false, not_or] at ha
    obtain ⟨h1, h2⟩ := ha
    rw [rget_fsetB_ne _ PEAT_RSTS_VALID _ h2, rget_rset_ne _ _ h1]
  · rw [rget_fsetB_ne _ PEAT_RSTS_VALID _ hne, rget_rset_self]
  · rw [fget_fsetB_self _ _ _ (by simp [PEAT_RSTS_VALID]) (by simp [PEAT_RSTS_VALID])]
    rfl

/-- The words of an entry in the data registers. -/
def peatShown (ws : List Word) (l : Lane) : Lane := ws.zipIdx.foldl (fun (l : Lane) w => rset l (PEAT_RDAT w.2) w.1) l

/-- VALID and GONE after a read. -/
def peatMarked (held : Bool) (l : Lane) : Lane := fsetB (fsetB l PEAT_RSTS_VALID held) PEAT_RSTS_GONE (!held)

theorem fget_peatMarked (held : Bool) (l : Lane) :
    fget (peatMarked held l) PEAT_RSTS_VALID = b2n held ∧ fget (peatMarked held l) PEAT_RSTS_GONE = b2n !held := by
  unfold peatMarked
  constructor
  · rw [fget_fsetB_apart _ PEAT_RSTS_GONE PEAT_RSTS_VALID _ rfl (.inr le_rfl) (by simp [PEAT_RSTS_GONE]),
      fget_fsetB_self _ _ _ (by simp [PEAT_RSTS_VALID]) (by simp [PEAT_RSTS_VALID])]
  · rw [fget_fsetB_self _ _ _ (by simp [PEAT_RSTS_GONE]) (by simp [PEAT_RSTS_GONE])]

theorem rget_peatMarked (held : Bool) (l : Lane) {a : Nat} (h : a ≠ PEAT_RSTS) : rget (peatMarked held l) a = rget l a := by
  unfold peatMarked
  rw [rget_fsetB_ne _ PEAT_RSTS_GONE _ h, rget_fsetB_ne _ PEAT_RSTS_VALID _ h]

theorem regsMoved_peatMarked (held : Bool) {m : Lane} (h : RegsMoved l m) : RegsMoved l (peatMarked held m) := (h.fsetB _ _).fsetB _ _

theorem regsMoved_foldl_rset {α : Type} {p : α → Nat} {w : α → Word} {xs : List α} {m : Lane} (h : RegsMoved l m) :
    RegsMoved l (xs.foldl (fun l x => rset l (p x) (w x)) m) :=
  List.foldlRecOn (motive := fun m => RegsMoved l m) xs _ h fun _ hm _ _ => hm.rset _ _

theorem PEAT_RDAT_inj {j k : Nat} (h : PEAT_RDAT j = PEAT_RDAT k) : j = k := by
  unfold PEAT_RDAT at h
  omega

theorem rget_foldl_rset_ne {α : Type} {p : α → Nat} {w : α → Word} {a : Nat} {xs : List α} (h : ∀ x ∈ xs, a ≠ p x) (m : Lane) :
    rget (xs.foldl (fun l x => rset l (p x) (w x)) m) a = rget m a :=
  List.foldlRecOn (motive := fun k => rget k a = rget m a) xs _ rfl fun k hk x hx => (rget_rset_ne k (w x) (h x hx)).trans hk

theorem rget_peatShown_ne {ws : List Word} {a : Nat} (h : ∀ j < ws.length, a ≠ PEAT_RDAT j) (l : Lane) : rget (peatShown ws l) a = rget l a :=
  rget_foldl_rset_ne (fun x hx => h x.2 (by
    have := List.snd_lt_add_of_mem_zipIdx hx
    omega)) l

theorem rget_peatShown_from {ws : List Word} (n : Nat) {j : Nat} (hj : j < ws.length) (l : Lane) :
    rget ((ws.zipIdx n).foldl (fun (l : Lane) w => rset l (PEAT_RDAT w.2) w.1) l) (PEAT_RDAT (n + j)) = ws.getD j 0#32 := by
  induction ws generalizing n j l with
  | nil => exact absurd hj (Nat.not_lt_zero j)
  | cons w ws ih =>
    rw [List.zipIdx_cons, List.foldl_cons]
    cases j with
    | zero =>
      rw [rget_foldl_rset_ne (p := fun x : Word × Nat => PEAT_RDAT x.2) (w := fun x => x.1)]
      · exact rget_rset_self _ _ _
      · intro x hx h
        have := List.le_snd_of_mem_zipIdx hx
        have := PEAT_RDAT_inj h
        omega
    | succ j =>
      have := ih (n + 1) (Nat.lt_of_succ_lt_succ hj) (rset l (PEAT_RDAT n) w)
      rw [show n + 1 + j = n + (j + 1) by omega] at this
      exact this

/-- What PEAT_READ_LOADED does in a lane. -/
def peatLoad (l : Lane) : Lane :=
  match l.peat.find? fun e => decide (e.seq % 2 ^ 32 = (rget l PEAT_RSEL).toNat) with
  | some e => peatMarked true (peatShown (peatWords e) l)
  | none => peatMarked false l

theorem execPeatReadLoaded_eq (h : (laneOf s i).powered = true) : execPeatReadLoaded i s = .next (modLane s i peatLoad) := by
  unfold execPeatReadLoaded
  rw [if_neg (by simp [h])]
  rfl

/-- The entry that a number selects, where just one has it. -/
theorem find?_entry {xs : List PeatEntry} {e : PeatEntry} {q : Nat} (he : e ∈ xs) (hq : e.seq % 2 ^ 32 = q)
    (hu : ∀ x ∈ xs, x.seq % 2 ^ 32 = q → x = e) : xs.find? (fun x => decide (x.seq % 2 ^ 32 = q)) = some e := by
  obtain ⟨x, hx⟩ := Option.isSome_iff_exists.mp
    (List.find?_isSome (p := fun x : PeatEntry => decide (x.seq % 2 ^ 32 = q)).mpr ⟨e, he, decide_eq_true hq⟩)
  rw [hx, hu x (List.mem_of_find?_eq_some hx) (of_decide_eq_true (List.find?_some (p := fun x : PeatEntry => decide (x.seq % 2 ^ 32 = q)) hx))]

theorem find?_entry_none {xs : List PeatEntry} {q : Nat} (h : ∀ x ∈ xs, x.seq % 2 ^ 32 ≠ q) :
    xs.find? (fun x => decide (x.seq % 2 ^ 32 = q)) = none := List.find?_eq_none.mpr fun x hx => by simpa using h x hx

theorem PEAT_RDAT_ne_RSTS {j : Nat} (h : j < 8) : PEAT_RDAT j ≠ PEAT_RSTS := by
  unfold PEAT_RDAT PEAT_RSTS
  omega

theorem peatLoad_spec (l : Lane) :
    peatLoad l = { l with regs := (peatLoad l).regs } ∧
    (∀ a, a ≠ PEAT_RSTS → (∀ j < 8, a ≠ PEAT_RDAT j) → rget (peatLoad l) a = rget l a) ∧
    ((∀ e ∈ l.peat, e.seq % 2 ^ 32 ≠ (rget l PEAT_RSEL).toNat) → fget (peatLoad l) PEAT_RSTS_VALID = 0 ∧ fget (peatLoad l) PEAT_RSTS_GONE = 1) ∧
    (∀ e ∈ l.peat, e.seq % 2 ^ 32 = (rget l PEAT_RSEL).toNat →
      (∀ x ∈ l.peat, x.seq % 2 ^ 32 = (rget l PEAT_RSEL).toNat → x = e) →
      fget (peatLoad l) PEAT_RSTS_VALID = 1 ∧ fget (peatLoad l) PEAT_RSTS_GONE = 0 ∧
      ∀ j < 8, rget (peatLoad l) (PEAT_RDAT j) = (peatWords e).getD j 0#32) := by
  have hsome {e : PeatEntry} (h : l.peat.find? (fun e => decide (e.seq % 2 ^ 32 = (rget l PEAT_RSEL).toNat)) = some e) :
      peatLoad l = peatMarked true (peatShown (peatWords e) l) := by
    unfold peatLoad
    rw [h]
  have hnone (h : l.peat.find? (fun e => decide (e.seq % 2 ^ 32 = (rget l PEAT_RSEL).toNat)) = none) :
      peatLoad l = peatMarked false l := by
    unfold peatLoad
    rw [h]
  refine ⟨?_, fun a h1 h2 => ?_, fun h => ?_, fun e he hq hu => ?_⟩
  · cases h : l.peat.find? fun e => decide (e.seq % 2 ^ 32 = (rget l PEAT_RSEL).toNat) with
    | none =>
      rw [hnone h]
      exact regsMoved_peatMarked false (show RegsMoved l l from rfl)
    | some e =>
      rw [hsome h]
      exact regsMoved_peatMarked true (regsMoved_foldl_rset (show RegsMoved l l from rfl))
  · cases h : l.peat.find? fun e => decide (e.seq % 2 ^ 32 = (rget l PEAT_RSEL).toNat) with
    | none => rw [hnone h, rget_peatMarked _ _ h1]
    | some e => rw [hsome h, rget_peatMarked _ _ h1, rget_peatShown_ne (ws := peatWords e) h2]
  · rw [hnone (find?_entry_none h)]
    exact fget_peatMarked false l
  · rw [hsome (find?_entry he hq hu)]
    obtain ⟨hv, hg⟩ := fget_peatMarked true (peatShown (peatWords e) l)
    refine ⟨hv, hg, fun j hj => ?_⟩
    rw [rget_peatMarked _ _ (PEAT_RDAT_ne_RSTS hj)]
    have := rget_peatShown_from (ws := peatWords e) 0 hj l
    rwa [Nat.zero_add] at this

/-! ### Reads over a service port (R212, R437, R441) -/

theorem wordOf_seq {n : Nat} {q : Word} (h : n % 2 ^ 32 = q.toNat) : wordOf n = q := by
  apply BitVec.eq_of_toNat_eq
  rw [wordOf, BitVec.toNat_ofNat, h]

/-- PEAT_LOG_READ gives the words of the entry with the number, or none. -/
theorem peatLogRead_spec (s : State) (i : LaneId) (q : Word) : Answers (.peatLogRead i q) s fun t => t = { s with svcOut := t.svcOut } ∧
    ((∀ e ∈ (laneOf s i).peat, e.seq % 2 ^ 32 ≠ q.toNat) → t.svcOut = []) ∧
    (∀ e ∈ (laneOf s i).peat, e.seq % 2 ^ 32 = q.toNat → (∀ x ∈ (laneOf s i).peat, x.seq % 2 ^ 32 = q.toNat → x = e) →
      t.svcOut.length = 8 ∧ t.svcOut.getD 2 0#32 = q ∧ t.svcOut.getD 4 0#32 = e.ctx0 ∧ t.svcOut.getD 5 0#32 = e.ctx1 ∧
      t.svcOut.getD 7 0#32 = crc32c (t.svcOut.take 7)) := by
  refine ⟨_, rfl, rfl, fun h => ?_, fun e he hq hu => ?_⟩
  · dsimp only
    rw [find?_entry_none h]
  · dsimp only
    rw [find?_entry he hq hu]
    exact ⟨rfl, wordOf_seq hq, rfl, rfl, rfl⟩

/-- FRAME_MEMORY_READ gives the words of the ring's entry that a slot holds. -/
theorem frameMemoryRead_spec (h : RingInv s) {j : Nat} {e : PeatEntry} (hj : s.fm.ring[j]? = some e) :
    Answers (.frameMemoryRead ((s.fm.head + 256 - s.fm.ring.length + j) % 256)) s fun t => t = { s with svcOut := peatWords e } := by
  obtain ⟨hlen, hhead⟩ := h
  obtain ⟨hlt, -⟩ := List.getElem?_eq_some_iff.mp hj
  have hk : ((s.fm.head + 256 - s.fm.ring.length + j) % 256 + s.fm.ring.length + 256 - s.fm.head % 256) % 256 = j := by omega
  refine ⟨_, rfl, ?_⟩
  dsimp only
  rw [hk, hj]

theorem getD_map_range {n k : Nat} {f : Nat → Word} (h : k < n) : ((List.range n).map f).getD k 0#32 = f k := by
  rw [List.getD_eq_getElem?_getD, List.getElem?_map, List.getElem?_range h]
  rfl

/-- CAPTURE_UPLOAD gives a captured record, unless the lane is throttled. -/
theorem captureUpload_spec (s : State) (i : LaneId) (n : Nat) : Answers (.captureUpload i n) s fun t => t = { s with svcOut := t.svcOut } ∧
    let l := laneOf s i
    let size := 8 + 4 * fget l LPE_CCTL_NCH
    let paused : Prop := l.powered = true ∧ 1 ≤ fget l THM_STS_LSTEP
    (paused → t = s) ∧
    (¬ paused → l.powered = true → n < (0x01400000 - l.decl.dtop - 64) / size → t.svcOut.length = fget l LPE_CCTL_NCH + 2 ∧
      ∀ k < fget l LPE_CCTL_NCH + 2, t.svcOut.getD k 0#32 = mget32 l (l.decl.dtop + 64 + n * size + 4 * k)) ∧
    (¬ paused → l.powered = false ∨ (0x01400000 - l.decl.dtop - 64) / size ≤ n → t.svcOut = []) := by
  dsimp only
  have hpause : ((laneOf s i).powered && fon (laneOf s i) THM_STS_LSTEP) = true ↔
      (laneOf s i).powered = true ∧ 1 ≤ fget (laneOf s i) THM_STS_LSTEP := by
    unfold fon
    rw [Bool.and_eq_true, decide_eq_true_iff, Nat.one_le_iff_ne_zero]
  have hsize : capSize (laneOf s i) = 8 + 4 * fget (laneOf s i) LPE_CCTL_NCH := by
    unfold capSize
    omega
  have hcap : capCapacity (laneOf s i) = (0x01400000 - (laneOf s i).decl.dtop - 64) / capSize (laneOf s i) := rfl
  rw [← hpause, ← hsize, ← hcap]
  generalize hc : ((laneOf s i).powered && fon (laneOf s i) THM_STS_LSTEP) = c
  have hwords : capSize (laneOf s i) / 4 = fget (laneOf s i) LPE_CCTL_NCH + 2 := by omega
  cases c
  · refine ⟨_, if_neg (by simp [hc]), rfl, fun h => absurd h Bool.false_ne_true, fun _ hp hn => ?_, fun _ hn => ?_⟩
    · dsimp only
      rw [if_pos ⟨hp, hn⟩, hwords]
      refine ⟨by rw [List.length_map, List.length_range], fun k hk => getD_map_range hk⟩
    · dsimp only
      refine if_neg fun h => ?_
      obtain hn | hn := hn
      · exact absurd (hn.symm.trans h.1) Bool.false_ne_true
      · omega
  · exact ⟨_, if_pos hc, rfl, fun _ => rfl, fun h => absurd rfl h, fun h => absurd rfl h⟩
end
end Sys2Proof.Machine

namespace Sys2Proof.Machine

section
variable {l : Lane} {s : State} {i : LaneId}

/-! ### Events of the core cycle (R8) -/

/-- The hardware set that bit, or advanced that counter, in the lane's present core cycle. -/
def JustDone (l : Lane) (a n : Nat) : Prop := ∃ e ∈ l.cyc.evs, e.cyc = l.cyc.now ∧ e.addr = a ∧ e.mask.testBit n = true

theorem mem_at (f : CycRt) (a : Nat) (e : CycEv) : e ∈ f.at_ a ↔ e ∈ f.evs ∧ e.cyc = f.now ∧ e.addr = a := by
  unfold CycRt.at_
  rw [List.mem_filter, Bool.and_eq_true, decide_eq_true_iff, decide_eq_true_iff]

theorem testBit_foldl_or {α : Type} (f : α → Nat) (xs : List α) (m n : Nat) :
    (xs.foldl (fun m e => m ||| f e) m).testBit n = true ↔ m.testBit n = true ∨ ∃ e ∈ xs, (f e).testBit n = true := by
  induction xs generalizing m with
  | nil => simp
  | cons x xs ih => rw [List.foldl_cons, ih, Nat.testBit_or, Bool.or_eq_true, List.exists_mem_cons_iff, or_assoc]

theorem testBit_justDone (l : Lane) (a n : Nat) : (justDone l a).testBit n = true ↔ JustDone l a n := by
  unfold justDone JustDone
  rw [testBit_foldl_or, Nat.zero_testBit]
  simp only [Bool.false_eq_true, false_or, mem_at, and_assoc]

/-! ### Plain writes (R7 to R10) -/

/-- The word that a write leaves in a register, of whose bits `rw` takes those it sets. -/
def plainWord (l : Lane) (d : RegDef) (a : Nat) (v rw : Word) : Word :=
  (((rget l a) &&& ~~~rw) ||| (v &&& rw)) &&& ~~~(v &&& BitVec.ofNat 32 d.w1c &&& ~~~(BitVec.ofNat 32 (justDone l a)))

theorem plainWrite_of_some {a : Nat} {d : RegDef} (hd : findReg a = some d) (v : Word) :
    plainWrite l a v = rset l a (plainWord l d a v (BitVec.ofNat 32 (d.rw &&& (0xFFFFFFFF - d.com)))) := by
  generalize hf : plainWrite = f
  delta plainWrite at hf
  subst hf
  beta_reduce
  rw [hd]
  rfl

theorem plainWrite_of_none {a : Nat} (hd : findReg a = none) (v : Word) : plainWrite l a v = l := by
  generalize hf : plainWrite = f
  delta plainWrite at hf
  subst hf
  beta_reduce
  rw [hd]

theorem regsOnly_rset (l : Lane) (a : Nat) (w : Word) : RegsOnly l (rset l a w) [a] :=
  ⟨rfl, fun _ hb => rget_rset_ne _ _ fun e => hb (List.mem_singleton.mpr e)⟩

theorem regsOnly_plainWrite (l : Lane) (a : Nat) (v : Word) : RegsOnly l (plainWrite l a v) [a] := by
  cases hd : findReg a with
  | none => exact plainWrite_of_none hd v ▸ ⟨rfl, fun _ _ => rfl⟩
  | some d => exact plainWrite_of_some hd v ▸ regsOnly_rset l a _

theorem testBit_and_allOnes (v : Nat) {j : Nat} (h : j < 32) : (v &&& 0xFFFFFFFF).testBit j = v.testBit j := by
  rw [show (0xFFFFFFFF : Nat) = 2 ^ 32 - 1 by norm_num, Nat.and_two_pow_sub_one_eq_mod, Nat.testBit_mod_two_pow, decide_eq_true h, Bool.true_and]

theorem plainWord_getLsbD (d : RegDef) (a : Nat) (v rw : Word) (j : Fin 32) : (plainWord l d a v rw).getLsbD j =
    ((((rget l a).getLsbD j && !(rw.getLsbD j)) || (v.getLsbD j && rw.getLsbD j)) &&
      !(v.getLsbD j && bit d.w1c j && !(justDone l a).testBit j)) := by
  unfold plainWord bit
  simp only [BitVec.getLsbD_and, BitVec.getLsbD_or, BitVec.getLsbD_not, BitVec.getLsbD_ofNat, j.isLt, decide_true, Bool.true_and]

/-- A register without committed fields takes every bit that software may set. -/
theorem ofNat_rw_getLsbD (rw : Nat) (j : Fin 32) : (BitVec.ofNat 32 (rw &&& (0xFFFFFFFF - 0))).getLsbD j = bit rw j := by
  rw [BitVec.getLsbD_ofNat, Nat.sub_zero, testBit_and_allOnes rw j.isLt, decide_eq_true j.isLt, Bool.true_and]
  rfl

/-- Bit `j` of a register without committed fields after a plain write. -/
theorem plainWrite_getLsbD {a : Nat} {d : RegDef} (hd : findReg a = some d) (hc : d.com = 0) (v : Word) (j : Fin 32) :
    (rget (plainWrite l a v) a).getLsbD j = ((((rget l a).getLsbD j && !(bit d.rw j)) || (v.getLsbD j && bit d.rw j)) &&
      !(v.getLsbD j && bit d.w1c j && !(justDone l a).testBit j)) := by
  rw [plainWrite_of_some hd, rget_rset_self, plainWord_getLsbD, hc, ofNat_rw_getLsbD]

/-- The same, as R7 and R8 say it. -/
theorem plainWrite_bit {a : Nat} {d : RegDef} (hd : findReg a = some d) (hc : d.com = 0) (v : Word) (j : Fin 32)
    [inst : Decidable (bit d.w1c j = true ∧ v.getLsbD j = true ∧ ¬ JustDone l a j)] : (rget (plainWrite l a v) a).getLsbD j =
      if bit d.w1c j = true ∧ v.getLsbD j = true ∧ ¬ JustDone l a j then false
      else if bit d.rw j = true then v.getLsbD j else (rget l a).getLsbD j := by
  rw [plainWrite_getLsbD hd hc]
  simp only [← testBit_justDone, Bool.not_eq_true]
  cases bit d.w1c j <;> cases v.getLsbD j <;> cases (justDone l a).testBit j <;> cases bit d.rw j <;> simp

/-! ### EXC (R82) -/

theorem SYS_CSTK_def (c : Fin 4) : findReg (SYS_CSTK c) = some ⟨0x4000010C, 4, 0x10, 1, 0x0, 0x0, 0x1FF, 0x0, 0x0, 0x0, 0x0, 0x0⟩ := by
  revert c
  decide

theorem slotWrite_CSTK (key : Bool) (l : Lane) (c : Fin 4) : slotWrite key l (SYS_CSTK c) 0x40#32 =
    fset (plainWrite l (SYS_CSTK c) 0x40#32) (SYS_CEXC_COUNT c) (b2n (bit (justDone l (SYS_CSTK c)) 6)) := by
  have h1 : ∀ c : Fin 4, writeReserved (SYS_CSTK c) (0x40#32).toNat = false := by decide
  have h2 : ∀ c : Fin 4, SYS_CSTK c ≠ BLK_MREQ ∧ SYS_CSTK c ≠ CLK_MCMD ∧ SYS_CSTK c ≠ PEAT_RSEL ∧ blockOf (SYS_CSTK c) ≠ 0x06 := by decide
  have h3 : ∀ c : Fin 4, (allFin 4).find? (fun d : Fin 4 => decide (SYS_CSTK c = SYS_CSTK d)) = some c := by decide
  obtain ⟨hm, hk, hp, hb⟩ := h2 c
  unfold slotWrite
  rw [if_neg (by rw [h1]; exact Bool.false_ne_true), if_neg hm, if_neg hk, if_neg hp, if_neg hb, h3 c]
  rfl

theorem execExcClear_eq (h : laneRuns (laneOf s i) = true) (c : Fin 4) :
    execExcClear i c s = .next (modLane s i fun l => slotWrite s.key l (SYS_CSTK c) 0x40#32) := if_pos h

theorem SYS_CSTK_ne_CEXC (c : Fin 4) : SYS_CSTK c ≠ SYS_CEXC c := by
  unfold SYS_CSTK SYS_CEXC
  omega

theorem getLsbD_40 (j : Fin 32) : (0x40#32).getLsbD j = decide (j.1 = 6) := by
  revert j
  decide

/-- A write of one to EXC clears it with its count, but for what the hardware did in the same cycle. -/
theorem slotWrite_EXC (key : Bool) (l : Lane) (c : Fin 4) :
    RegsOnly l (slotWrite key l (SYS_CSTK c) 0x40#32) [SYS_CSTK c, SYS_CEXC c] ∧
    (¬ JustDone l (SYS_CSTK c) 6 → rget (slotWrite key l (SYS_CSTK c) 0x40#32) (SYS_CSTK c) = rget l (SYS_CSTK c) &&& ~~~0x40#32 ∧
      fget (slotWrite key l (SYS_CSTK c) 0x40#32) (SYS_CEXC_COUNT c) = 0) ∧
    (JustDone l (SYS_CSTK c) 6 → rget (slotWrite key l (SYS_CSTK c) 0x40#32) (SYS_CSTK c) = rget l (SYS_CSTK c) ∧
      fget (slotWrite key l (SYS_CSTK c) 0x40#32) (SYS_CEXC_COUNT c) = 1) := by
  rw [slotWrite_CSTK]
  have hw := regsOnly_plainWrite l (SYS_CSTK c) 0x40#32
  have hbit (j : Fin 32) := plainWrite_getLsbD (l := l) (SYS_CSTK_def c) rfl 0x40#32 j
  generalize plainWrite l (SYS_CSTK c) 0x40#32 = w at *
  have hcount (n : Nat) : rget (fset w (SYS_CEXC_COUNT c) n) (SYS_CSTK c) = rget w (SYS_CSTK c) := rget_fset_ne _ _ _ (SYS_CSTK_ne_CEXC c)
  have hself (b : Bool) : fget (fset w (SYS_CEXC_COUNT c) (b2n b)) (SYS_CEXC_COUNT c) = b2n b := by
    rw [fget_fset_self _ _ _ (by simp [SYS_CEXC_COUNT])]
    cases b <;> rfl
  have h40 (j : Fin 32) : ((0x40#32).getLsbD j && bit 0x1FF j) = decide (j.1 = 6) := by revert j; decide
  have h0 (j : Fin 32) : bit 0x0 j = false := by revert j; decide
  have hword (j : Fin 32) : (rget w (SYS_CSTK c)).getLsbD j =
      ((rget l (SYS_CSTK c)).getLsbD j && !(decide (j.1 = 6) && !(justDone l (SYS_CSTK c)).testBit j)) := by
    rw [hbit, h0, h40]
    simp
  refine ⟨⟨?_, fun a ha => ?_⟩, fun hn => ⟨?_, ?_⟩, fun hn => ⟨?_, ?_⟩⟩
  · exact (congrArg (fun y : Lane => { y with regs := (fset w (SYS_CEXC_COUNT c) (b2n (bit (justDone l (SYS_CSTK c)) 6))).regs }) hw.rest :)
  · simp only [List.mem_cons, List.not_mem_nil, or_false, not_or] at ha
    rw [rget_fset_ne _ (SYS_CEXC_COUNT c) _ ha.2, hw.regs a (by simpa using ha.1)]
  · have hn' : (justDone l (SYS_CSTK c)).testBit 6 = false := Bool.eq_false_iff.mpr fun e => hn ((testBit_justDone _ _ _).mp e)
    rw [hcount]
    refine BitVec.eq_of_getLsbD_eq fun j hj => (hword ⟨j, hj⟩).trans ?_
    rw [BitVec.getLsbD_and, BitVec.getLsbD_not, decide_eq_true hj, Bool.true_and, getLsbD_40 ⟨j, hj⟩]
    by_cases h6 : j = 6
    · subst h6
      simp [hn']
    · simp [h6]
  · rw [hself, bit, Bool.eq_false_iff.mpr fun e => hn ((testBit_justDone _ _ _).mp e)]
    rfl
  · rw [hcount]
    refine BitVec.eq_of_getLsbD_eq fun j hj => (hword ⟨j, hj⟩).trans ?_
    by_cases h6 : j = 6
    · subst h6
      simp [(testBit_justDone _ _ _).mpr hn]
    · simp [h6]
  · rw [hself, bit, (testBit_justDone _ _ _).mpr hn]
    rfl

end
end Sys2Proof.Machine

namespace Sys2Proof.Machine

section
variable {l : Lane} {s : State} {i : LaneId}

/-! ### Reads of counters (R7, R8) -/

theorem and_not_zero (w : Word) : w &&& ~~~(BitVec.ofNat 32 0) = w := by
  rw [BitVec.not_zero, BitVec.and_allOnes]

theorem regRead_of_some {a : Nat} {d : RegDef} (hd : findReg a = some d) (hw : d.wo = 0) : regRead l a = rget l a := by
  have h (n : Nat) : rget l a &&& ~~~(BitVec.ofNat 32 (0 &&& n)) = rget l a := by rw [Nat.zero_and, and_not_zero]
  generalize hf : regRead = f
  delta regRead at hf
  subst hf
  beta_reduce
  rw [hd]
  dsimp only
  rw [hw]
  exact h _

theorem regLoad_of_none {a : Nat} (hd : findReg a = none) : regLoad l a = (l, 0#32) := by
  generalize hf : regLoad = f
  delta regLoad at hf
  subst hf
  beta_reduce
  rw [hd]

theorem regLoad_of_plain {a : Nat} {d : RegDef} (hd : findReg a = some d) (hc : d.rc = 0) : regLoad l a = (l, regRead l a) := by
  generalize hf : regLoad = f
  delta regLoad at hf
  subst hf
  beta_reduce
  rw [hd]
  exact if_pos hc

/-- The events of the core cycle that advanced a counter of the register. -/
def countedAt (l : Lane) (a : Nat) (d : RegDef) : List CycEv := (l.cyc.at_ a).filter fun e => decide (e.mask &&& d.rc ≠ 0)

theorem regLoad_of_counter {a : Nat} {d : RegDef} (hd : findReg a = some d) (hc : d.rc ≠ 0) : regLoad l a =
    ({ rset (eccCleared l a) a ((rget l a &&& ~~~(BitVec.ofNat 32 d.rc)) ||| BitVec.ofNat 32 ((countedAt l a d).foldl (fun m e => m ||| e.one) 0)) with
       cyc := l.cyc.reread a }, (countedAt l a d).foldl beforeEv (regRead l a)) := by
  generalize hf : regLoad = f
  delta regLoad at hf
  subst hf
  beta_reduce
  rw [hd]
  exact if_neg hc

theorem countedAt_nil {a : Nat} {d : RegDef} (h : ∀ n, d.rc.testBit n = true → ¬ JustDone l a n) : countedAt l a d = [] := by
  refine List.filter_eq_nil_iff.mpr fun e he => ?_
  rw [decide_eq_true_iff, not_not]
  by_contra hne
  obtain ⟨n, hn⟩ := Nat.exists_testBit_of_ne_zero hne
  rw [Nat.testBit_and, Bool.and_eq_true] at hn
  obtain ⟨h1, h2, h3⟩ := (mem_at _ _ _).mp he
  exact h n hn.2 ⟨e, h1, h2, h3, hn.1⟩

theorem countedAt_one {a : Nat} {d : RegDef} {e : CycEv} (hm : d.rc &&& e.mask ≠ 0) (h : l.cyc.at_ a = [e]) : countedAt l a d = [e] := by
  unfold countedAt
  rw [h, List.filter_singleton, Nat.and_comm, decide_eq_true hm]
  rfl

theorem rget_regLoad {a : Nat} {d : RegDef} (hd : findReg a = some d) (hc : d.rc ≠ 0) : rget (regLoad l a).1 a =
    (rget l a &&& ~~~(BitVec.ofNat 32 d.rc)) ||| BitVec.ofNat 32 ((countedAt l a d).foldl (fun m e => m ||| e.one) 0) := by
  rw [regLoad_of_counter hd hc]
  exact rget_rset_self _ _ _

theorem word_regLoad {a : Nat} {d : RegDef} (hd : findReg a = some d) (hc : d.rc ≠ 0) :
    (regLoad l a).2 = (countedAt l a d).foldl beforeEv (regRead l a) := congrArg Prod.snd (regLoad_of_counter hd hc)

/-- A load from a register touches no other register. -/
theorem regLoad_regsOnly (l : Lane) (a : Nat) : RegsOnly { l with eccN := (regLoad l a).1.eccN } (regLoad l a).1 [a] := by
  cases hd : findReg a with
  | none => exact regLoad_of_none (l := l) hd ▸ ⟨rfl, fun _ _ => rfl⟩
  | some d =>
    by_cases hc : d.rc = 0
    · exact regLoad_of_plain (l := l) hd hc ▸ ⟨rfl, fun _ _ => rfl⟩
    · rw [regLoad_of_counter hd hc]
      generalize (rget l a &&& ~~~(BitVec.ofNat 32 d.rc)) ||| _ = w
      exact ⟨rfl, fun b hb => rget_rset_ne (eccCleared l a) w fun e => hb (List.mem_singleton.mpr e)⟩

/-- A counter that the hardware left alone in this cycle is cleared by the load. -/
theorem regLoad_quiet {a : Nat} {d : RegDef} (hd : findReg a = some d) (h : ∀ n, d.rc.testBit n = true → ¬ JustDone l a n) :
    rget (regLoad l a).1 a = rget l a &&& ~~~(BitVec.ofNat 32 d.rc) ∧ (d.wo = 0 → (regLoad l a).2 = rget l a) := by
  by_cases hc : d.rc = 0
  · rw [regLoad_of_plain hd hc, hc, and_not_zero]
    exact ⟨rfl, regRead_of_some hd⟩
  · refine ⟨?_, fun hw => ?_⟩
    · rw [rget_regLoad hd hc, countedAt_nil h]
      rw [List.foldl_nil, BitVec.or_zero]
    · rw [word_regLoad hd hc, countedAt_nil h, List.foldl_nil, regRead_of_some hd hw]

/-- A counter that one event advanced in this cycle is read as before it and restarts at 1. -/
theorem regLoad_event {a : Nat} {d : RegDef} (hd : findReg a = some d) {e : CycEv} (hm : d.rc &&& e.mask ≠ 0) (h : l.cyc.at_ a = [e]) :
    rget (regLoad l a).1 a = (rget l a &&& ~~~(BitVec.ofNat 32 d.rc)) ||| BitVec.ofNat 32 e.one ∧
    (d.wo = 0 → (regLoad l a).2 = (rget l a &&& ~~~(BitVec.ofNat 32 e.mask)) ||| BitVec.ofNat 32 (e.prev &&& e.mask)) := by
  have hc : d.rc ≠ 0 := fun e0 => hm (by rw [e0, Nat.zero_and])
  refine ⟨?_, fun hw => ?_⟩
  · rw [rget_regLoad hd hc, countedAt_one hm h, List.foldl_cons, List.foldl_nil, Nat.zero_or]
  · rw [word_regLoad hd hc, countedAt_one hm h, List.foldl_cons, List.foldl_nil, regRead_of_some hd hw, beforeEv]

theorem execRcRead_eq (hp : (laneOf s i).powered = true) {addr : Word} {a : Nat} (ha : windowAddr addr = some a) :
    execRcRead i addr s = .next { putLane s i (regLoad (laneOf s i) a).1 with svcOut := [(regLoad (laneOf s i) a).2] } := by
  generalize hf : execRcRead = f
  delta execRcRead at hf
  subst hf
  beta_reduce
  rw [if_pos hp, ha]

theorem loaded_lane (r : Lane × Word) (t : State) (h : t = { putLane s i r.1 with svcOut := [r.2] }) :
    t = { putLane s i (laneOf t i) with svcOut := t.svcOut } ∧ laneOf t i = r.1 ∧ t.svcOut = [r.2] := by
  subst h
  cases i <;> exact ⟨rfl, rfl, rfl⟩

/-- RC_READ of a window address (R7, R8). -/
theorem rcRead_spec (hp : (laneOf s i).powered = true) {addr : Word} {a : Nat} (ha : windowAddr addr = some a) :
    Answers (.rcRead i addr) s fun t =>
      t = { putLane s i (laneOf t i) with svcOut := t.svcOut } ∧ laneOf t i = (regLoad (laneOf s i) a).1 ∧
      t.svcOut = [(regLoad (laneOf s i) a).2] := by
  refine ⟨_, execRcRead_eq hp ha, ?_⟩
  exact loaded_lane _ _ rfl

/-! ### Writes of the program (R7, R10) -/

theorem afterCommit_of_safe {s t : State} (ha : t.la.safe = s.la.safe) (hb : t.lb.safe = s.lb.safe) : afterCommit s t = settle t := by
  unfold afterCommit
  extract_lets ended
  have h : ∀ x y : Lane, y.safe = x.safe → ended x y = false := fun x y e => by
    show (x.safe && !y.safe) = false
    rw [e, Bool.and_not_self]
  rw [h _ _ ha, h _ _ hb]
  rfl

theorem afterCommit_modLane {g : Lane → Lane} (h : (g (laneOf s i)).safe = (laneOf s i).safe) :
    afterCommit s (modLane s i g) = settle (modLane s i g) := by
  cases i
  · exact afterCommit_of_safe h rfl
  · exact afterCommit_of_safe rfl h

theorem execRegisterWrite_eq (hr : laneRuns (laneOf s i) = true) {addr val : Word} {a : Nat} (ha : windowAddr addr = some a) :
    execRegisterWrite i addr val s = .next (afterCommit s (modLane s i fun l => progWrite s.key s.now l a val)) := by
  generalize hf : execRegisterWrite = f
  delta execRegisterWrite at hf
  subst hf
  beta_reduce
  rw [if_pos hr, ha]

/-- A register write that leaves S6 alone settles at once. -/
theorem registerWrite_settles (hr : laneRuns (laneOf s i) = true) {addr val : Word} {a : Nat} (ha : windowAddr addr = some a) {A : List Nat}
    (h : RegsOnly (laneOf s i) (progWrite s.key s.now (laneOf s i) a val) A) : Answers (.registerWrite i addr val) s fun t =>
      ∃ u, Calm u t ∧ laneOf u i = progWrite s.key s.now (laneOf s i) a val := by
  have he := execRegisterWrite_eq (val := val) hr ha
  obtain ⟨g, hg⟩ : ∃ g, g = fun l => progWrite s.key s.now l a val := ⟨_, rfl⟩
  have hw : g (laneOf s i) = progWrite s.key s.now (laneOf s i) a val := congrFun hg _
  rw [← hg] at he
  rw [← hw] at h ⊢
  have hsafe : (g (laneOf s i)).safe = (laneOf s i).safe := (congrArg Lane.safe h.rest :)
  refine ⟨_, he, modLane s i g, ?_, laneOf_modLane _ _ _⟩
  rw [afterCommit_modLane hsafe]
  exact calm_settle _

theorem progWrite_reserved {key : Bool} {now a : Nat} {v : Word} (h : writeReserved a v.toNat = true) :
    progWrite key now l a v = stk l SYS_STK_RSVWR := if_pos h

theorem find?_CSTK_eq_none {a : Nat} (h : ∀ c : Fin 4, a ≠ SYS_CSTK c) : (allFin 4).find? (fun c : Fin 4 => decide (a = SYS_CSTK c)) = none :=
  List.find?_eq_none.mpr fun c _ e => h c (of_decide_eq_true e)

theorem slotWrite_plain {key : Bool} {a : Nat} {v : Word} {w : Lane} (hw : w = plainWrite l a v) (hres : writeReserved a v.toNat = false)
    (hb : blockOf a ≠ 0x06) (hm : a ≠ BLK_MREQ) (hk : a ≠ CLK_MCMD) (hp : a ≠ PEAT_RSEL) (hc : ∀ c : Fin 4, a ≠ SYS_CSTK c) :
    slotWrite key l a v = w := by
  generalize hf : slotWrite = f
  delta slotWrite at hf
  subst hf
  beta_reduce
  rewrite [← hw, if_neg (by rw [hres]; exact Bool.false_ne_true), if_neg hm, if_neg hk, if_neg hp, if_neg hb, find?_CSTK_eq_none hc]
  exact Eq.refl w

theorem hasCommitted_eq_false {a : Nat} {d : RegDef} (hd : findReg a = some d) (hcom : d.com = 0) : hasCommitted a = false := by
  generalize hf : hasCommitted = f
  delta hasCommitted at hf
  subst hf
  beta_reduce
  rw [hd]
  exact decide_eq_false (not_not.mpr hcom)

theorem progWrite_plain {key : Bool} {now a : Nat} {v : Word} {d : RegDef} (hd : findReg a = some d) (hcom : d.com = 0)
    (hres : writeReserved a v.toNat = false) (hb : blockOf a ≠ 0x06)
    (ha : a ∉ [BLK_MREQ, CLK_MCMD, PEAT_RSEL, SYS_CSTK 0, SYS_CSTK 1, SYS_CSTK 2, SYS_CSTK 3]) :
    progWrite key now l a v = plainWrite l a v := by
  simp only [List.mem_cons, List.not_mem_nil, or_false, not_or] at ha
  obtain ⟨hm, hk, hp, h0, h1, h2, h3⟩ := ha
  have hcs : ∀ c : Fin 4, a ≠ SYS_CSTK c := by
    intro c
    obtain rfl | rfl | rfl | rfl : c = 0 ∨ c = 1 ∨ c = 2 ∨ c = 3 := by
      revert c
      decide
    exacts [h0, h1, h2, h3]
  have hn := hasCommitted_eq_false hd hcom
  obtain ⟨w, hw⟩ : ∃ w, w = plainWrite l a v := ⟨_, rfl⟩
  rw [← hw]
  generalize hf : progWrite = f
  delta progWrite at hf
  subst hf
  beta_reduce
  rw [hres, hn, Bool.not_false, Bool.or_true, slotWrite_plain hw hres hb hm hk hp hcs, if_neg Bool.false_ne_true]
  extract_lets y
  exact (if_neg Bool.false_ne_true).trans (if_pos rfl)

theorem regsOnly_stk_RSVWR (l : Lane) : RegsOnly l (stk l SYS_STK_RSVWR) [SYS_STK, FLT_STK] := by
  refine ⟨stk_frame l _, fun a ha => ?_⟩
  simp only [List.mem_cons, List.not_mem_nil, or_false, not_or] at ha
  exact rget_stk_ne _ _ ha.1 ha.2

theorem fget_stk_RSVWR (l : Lane) : fget (stk l SYS_STK_RSVWR) SYS_STK_RSVWR = 1 :=
  fget_stk_self l (by simp [SYS_STK_RSVWR, SYS_STK, FLT_STK]) rfl (by simp [SYS_STK_RSVWR])

theorem excClear_spec (hr : laneRuns (laneOf s i) = true) (c : Fin 4) : Answers (.excClear i c) s fun t =>
    t = putLane s i (laneOf t i) ∧ laneOf t i = slotWrite s.key (laneOf s i) (SYS_CSTK c) 0x40#32 :=
  ⟨_, execExcClear_eq hr c, modLane_eq_putLane _ _ _, laneOf_modLane _ _ _⟩

theorem peatEntryCommit_spec (hp : (laneOf s i).powered = true) {e : PeatEntry} {rest : List PeatEntry} (hq : (laneOf s i).peatQ = e :: rest)
    (retried : Bool) : Answers (.peatEntryCommit { lane := i, retried := retried }) s fun t =>
      t = putLane s i (laneOf t i) ∧ EntryCommitted e rest retried (laneOf s i) (laneOf t i) :=
  ⟨_, execPeatEntryCommit_eq hp retried, modLane_eq_putLane _ _ _, by rw [laneOf_modLane]; exact peatEntry_committed hq⟩

theorem peatRsel_spec (hr : laneRuns (laneOf s i) = true) (q : Word) : Answers (.peatRsel i q) s fun t =>
    t = putLane s i (laneOf t i) ∧ laneOf t i = peatSelect (laneOf s i) q :=
  ⟨_, if_pos hr, modLane_eq_putLane _ _ _, laneOf_modLane _ _ _⟩

theorem peatReadLoaded_spec (hp : (laneOf s i).powered = true) : Answers (.peatReadLoaded i) s fun t =>
    t = putLane s i (laneOf t i) ∧ laneOf t i = peatLoad (laneOf s i) :=
  ⟨_, execPeatReadLoaded_eq hp, modLane_eq_putLane _ _ _, laneOf_modLane _ _ _⟩

theorem answers_mono {c : Instr} {P Q : State → Prop} (h : Answers c s P) (hpq : ∀ t, P t → Q t) : Answers c s Q :=
  ⟨h.choose, h.choose_spec.1, hpq _ h.choose_spec.2⟩

end

/-- Settles O53: each clause by the equation of its command. -/
theorem recordsAndRegisters : Obligations.RecordsAndRegisters := by
  unfold Obligations.RecordsAndRegisters
  intro i s
  dsimp only
  refine ⟨fun e rest retried hp hq => ?_, fun q hr => ?_, fun hp => ?_, peatLogRead_spec s i, fun hi j e hj => frameMemoryRead_spec hi hj,
    captureUpload_spec s i, fun c hr => ?_, fun c addr val hr => ⟨if_neg ?_, if_neg ?_⟩, fun addr a hp ha => ⟨?_, fun val hr => ⟨fun hres => ?_, ?_⟩⟩⟩
  · refine answers_mono (peatEntryCommit_spec hp hq retried) fun t ⟨h, hk⟩ => ?_
    exact ⟨h, hk.moved, hk.regs, hk.once, hk.again, hk.busy, hk.held, hk.grows, hk.full⟩
  · exact answers_mono (peatRsel_spec hr q) fun t ⟨h, e⟩ => ⟨h, e ▸ peatSelect_spec _ q⟩
  · exact answers_mono (peatReadLoaded_spec hp) fun t ⟨h, e⟩ => ⟨h, e ▸ peatLoad_spec _⟩
  · exact answers_mono (excClear_spec hr c) fun t ⟨h, e⟩ => ⟨h, e ▸ slotWrite_EXC _ _ c⟩
  · exact hr ▸ Bool.false_ne_true
  · exact hr ▸ Bool.false_ne_true
  · refine answers_mono (rcRead_spec hp ha) fun t ⟨h, e, ho⟩ => ⟨h, ?_, fun hd => ?_, fun d hd => ⟨fun hn => ?_, fun ev hm hat => ?_⟩⟩
    · exact e ▸ regLoad_regsOnly _ a
    · rw [e, ho, regLoad_of_none hd]
      exact ⟨rfl, rfl⟩
    · rw [e, ho]
      obtain ⟨h1, h2⟩ := regLoad_quiet hd hn
      exact ⟨h1, fun hw => by rw [h2 hw]⟩
    · rw [e, ho]
      obtain ⟨h1, h2⟩ := regLoad_event hd hm hat
      exact ⟨h1, fun hw => by rw [h2 hw]⟩
  · have hw := progWrite_reserved (l := laneOf s i) (key := s.key) (now := s.now) hres
    have ho := regsOnly_stk_RSVWR (laneOf s i)
    refine answers_mono (registerWrite_settles hr ha (hw ▸ ho)) fun t ⟨u, hu, e⟩ => ⟨u, hu, ?_, ?_⟩
    · rw [e, hw]
      exact ho
    · rw [e, hw]
      exact fget_stk_RSVWR _
  · intro d hd hcom hres hb hna
    have hw := progWrite_plain (l := laneOf s i) (key := s.key) (now := s.now) hd hcom hres hb hna
    have ho := regsOnly_plainWrite (laneOf s i) a val
    refine answers_mono (registerWrite_settles hr ha (hw ▸ ho)) fun t ⟨u, hu, e⟩ => ⟨u, hu, ?_, fun j => ?_⟩
    · rw [e, hw]
      exact ho
    · rw [e, hw]
      exact plainWrite_bit (l := laneOf s i) (inst := _) hd hcom val j

end Sys2Proof.Machine

namespace Sys2Proof.Machine

/-! ### The yield button where its own source is graded S5

A press of the ACTIVE lane's yield button raises 0x84, whose context names that lane (R421). Where the program has graded 0x84 at
S5, that raise is itself a yield of the named lane (R417), and it goes before the request under cause 1 that the press makes (R431). -/

/-- LA: ACTIVE with every domain but those of CAN and above at work, 0x84 graded at S5. -/
def yieldingLane : Lane :=
  fset (fset (fset { Lane.zero .A with powered := true } SYS_STS_LROLE roleActive) CLK_DOM_RUN 63) (FLT_SEV_SEV 0x84) 5

/-- LB: in STANDBY, seen over XLN, its cores not running. -/
def yieldPeer : Lane := fset (fset { Lane.zero .B with powered := true } SYS_STS_LROLE roleStandby) CLK_DOM_RUN 32

/-- The module with both lanes, no hand-over in progress. -/
def yieldState : State := { State.reset with la := yieldingLane, lb := yieldPeer }

theorem activeLane_yieldState : activeLane yieldState = some .A := by decide

theorem peerStandby_yieldState : peerStandby yieldState .A = true := by decide

/-- The request is refiled under cause 5, the yield that the grading of 0x84 makes. -/
theorem yieldButton_yieldState : ∃ t, exec (.yieldButton .A 50) yieldState = .next t ∧ t.ho = .waiting 5 0 :=
  ⟨_, rfl, by decide⟩

/-- Refutes O51: the press of the yield button does not leave a hand-over waiting under cause 1 where source 0x84 is graded S5: the
grading asks for a yield of the lane it names, whose cause 5 takes the place of cause 1. -/
theorem not_handoverBetweenLanes : ¬ Obligations.HandoverBetweenLanes := by
  unfold Obligations.HandoverBetweenLanes
  intro h
  obtain ⟨_, hquiet, _⟩ := h .A yieldState
  obtain ⟨hactive, _⟩ := hquiet rfl rfl
  obtain ⟨_, _, hyield⟩ := hactive activeLane_yieldState rfl
  obtain ⟨t, ht, hho, _⟩ := hyield 50 le_rfl peerStandby_yieldState
  obtain ⟨u, hu, hcause⟩ := yieldButton_yieldState
  obtain rfl : t = u := Host.Outcome.next.inj (ht.symm.trans hu)
  exact absurd (hho.symm.trans hcause) (by decide)

end Sys2Proof.Machine

namespace Sys2Proof.Machine

section
variable {l m n : Lane} {p : CanPort} {R S : Nat → Prop}

/-! ### Fields that count -/

theorem satNat_max (w x : Nat) : satNat (2 ^ w - 1) (x + 1) = min (2 ^ w - 1) (x + 1) := by
  unfold satNat
  split <;> omega

theorem fget_fset_satNat (l : Lane) (f : Field) (x : Nat) (h : f.lo + f.w ≤ 32) :
    fget (fset l f (satNat (2 ^ f.w - 1) (x + 1))) f = min (2 ^ f.w - 1) (x + 1) := by
  rw [fget_fset_self _ _ _ h, satNat_max]
  exact Nat.mod_eq_of_lt (lt_of_le_of_lt (Nat.min_le_left _ _) (Nat.sub_lt (Nat.two_pow_pos _) Nat.one_pos))

theorem counted_fcount (l : Lane) (f : Field) (h : f.lo + f.w ≤ 32) : Counted f l (fcount l f) := fget_fset_satNat l f _ h

theorem counted_of_eq {f : Field} {k : Lane} (h : Counted f l m) (hl : fget l f = fget k f) (hm : fget n f = fget m f) : Counted f k n := by
  unfold Counted at h ⊢
  rw [hm, h, hl]

/-! ### What a lane's registers and waiting conditions show of a step -/

/-- Registers outside `R` keep their words, and sticky conditions that wait go on waiting. -/
structure Shows (R : Nat → Prop) (l m : Lane) : Prop where
  regs : ∀ a, ¬ R a → rget m a = rget l a
  late : ∀ f, SetLate f l → SetLate f m

protected theorem Shows.refl : Shows R l l := ⟨fun _ _ => rfl, fun _ h => h⟩

protected theorem Shows.trans (h : Shows R l m) (g : Shows R m n) : Shows R l n :=
  ⟨fun a ha => (g.regs a ha).trans (h.regs a ha), fun f hf => g.late f (h.late f hf)⟩

protected theorem Shows.touches (h : Shows R l m) (g : Touches R m n) : Shows R l n := by
  refine h.trans ⟨g.regs, fun f hf => ?_⟩
  obtain ⟨x, hx⟩ := g.late
  unfold SetLate
  rw [hx]
  exact List.mem_append_left x hf

protected theorem Shows.fget (h : Shows R l m) {f : Field} (hf : ¬ R f.addr) : fget m f = fget l f := by
  unfold Machine.fget
  rw [h.regs _ hf]

protected theorem Shows.counted (h : Shows R l m) {f : Field} (hf : ¬ R f.addr) (hc : Counted f n l) : Counted f n m :=
  counted_of_eq hc rfl (h.fget hf)

protected theorem Shows.ite {c : Prop} [Decidable c] (h : Shows R l m) (g : Shows R l n) : Shows R l (if c then m else n) := by
  split
  · exact h
  · exact g

protected theorem Shows.modCan (h : Shows R l m) (f : CanRt → CanRt) : Shows R l (modCan m p f) := ⟨h.regs, h.late⟩

theorem setLate_stkLate (l : Lane) (f : Field) : SetLate f (stkLate l f) := List.mem_append_right _ (List.mem_singleton.mpr rfl)

/-! ### Run data of a port -/

theorem cans_modCan_self (l : Lane) (p : CanPort) (f : CanRt → CanRt) : vget (modCan l p f).cans p = f (vget l.cans p) := vget_vset_self _ _ _

theorem cans_modCan_ne (l : Lane) {p q : CanPort} (f : CanRt → CanRt) (h : q ≠ p) : vget (modCan l p f).cans q = vget l.cans q :=
  vget_vset_ne _ _ h

protected theorem Touches.cans (h : Touches R l m) : m.cans = l.cans := (congrArg Lane.cans h.rest :)

protected theorem Touches.mem (h : Touches R l m) : m.mem = l.mem := (congrArg Lane.mem h.rest :)

/-- The choice of a candidate changes nothing else. -/
theorem candUpdate_frame (l : Lane) (now : Nat) (p : CanPort) : candUpdate l now p = { l with cans := (candUpdate l now p).cans } := rfl

theorem cans_candUpdate_self (l : Lane) (now : Nat) (p : CanPort) : vget (candUpdate l now p).cans p =
    { vget l.cans p with cand := (vget (candUpdate l now p).cans p).cand, gone := (vget (candUpdate l now p).cans p).gone } := by
  unfold candUpdate
  extract_lets c
  rw [cans_modCan_self]
  split <;> rfl

theorem cans_candUpdate_ne (l : Lane) (now : Nat) {p q : CanPort} (h : q ≠ p) : vget (candUpdate l now p).cans q = vget l.cans q :=
  cans_modCan_ne _ _ h

protected theorem Shows.candUpdate (h : Shows R l m) (now : Nat) (p : CanPort) : Shows R l (candUpdate m now p) := h.modCan _

theorem cans_runEnds (l : Lane) (p : CanPort) (o : TxObj) : vget (runEnds l p o).cans p =
    { vget l.cans p with run := (vget l.cans p).run.filter fun r => decide (r.1 ≠ o) } := cans_modCan_self _ _ _

protected theorem Shows.runEnds (h : Shows R l m) (p : CanPort) (o : TxObj) : Shows R l (runEnds m p o) := h.modCan _

protected theorem Shows.modTx (h : Shows R l m) (p : CanPort) (o : TxObj) (f : TxFrame → TxFrame) : Shows R l (modTx m p o f) := by
  cases o
  all_goals exact h.modCan _

/-- A transmit object's frame hangs on the port's run data and, in a slot, on its state. -/
theorem txFrame_congr (hc : m.cans = l.cans) {o : TxObj} (hd : ∀ k, o = .slot k → fget m (CAN_DS_STATE p k) = fget l (CAN_DS_STATE p k)) :
    txFrame m p o = txFrame l p o := by
  cases o with
  | queued => rw [txFrame, txFrame, hc]
  | ref => rw [txFrame, txFrame, hc]
  | slot k => rw [txFrame, txFrame, hc, hd k rfl]

/-! ### The live queue and transmit registers (R366) -/

/-- The registers that a raise may reach and those of `L`. -/
def Reaches (L : List Nat) (a : Nat) : Prop := GradeReg a ∨ a ∈ L

theorem reaches_grade (L : List Nat) (a : Nat) (h : GradeReg a) : Reaches L a := .inl h

theorem reaches_mem {L : List Nat} {a : Nat} (h : a ∈ L) : Reaches L a := .inr h

/-- The registers of CAN are not among those that a raise reaches. -/
theorem not_reaches {L : List Nat} {a : Nat} (h1 : 0x400B0000 ≤ a) (h2 : a < 0x400C0000) (hL : a ∉ L) : ¬ Reaches L a := by
  rintro (h | h)
  · have hn := h.num
    simp only [List.mem_cons, List.not_mem_nil, or_false] at hn
    omega
  · exact hL h

theorem touches_canSummary (p : CanPort) (h1 : R (CAN_QSTS p)) (h2 : R (CAN_TXSTS p)) : Touches R l (canSummary l p) :=
  ((((((Touches.refl.fset h1).fset h1).fset h1).fset h1).fset h2).fset h2)

theorem fget_QFILL_canSummary (l : Lane) (p : CanPort) : fget (canSummary l p) (CAN_TXSTS_QFILL p) = (vget l.cans p).fifo.length % 64 := by
  unfold canSummary
  extract_lets x l1 l2 l3
  rw [fget_fset_apart l3 (CAN_TXSTS_DPEND p) (CAN_TXSTS_QFILL p) _ rfl (.inr (by simp [CAN_TXSTS_QFILL, CAN_TXSTS_DPEND]))
    (by simp [CAN_TXSTS_DPEND]), fget_fset_self l2 (CAN_TXSTS_QFILL p) _ (by simp [CAN_TXSTS_QFILL])]
  rfl

end
end Sys2Proof.Machine

namespace Sys2Proof.Machine

section
variable {l m : Lane} {p : CanPort} {k : Fin 8} {now sof eof : Nat} {R : Nat → Prop}

/-! ### Deadline slots -/

theorem shows_canSummary (h : Shows R l m) (p : CanPort) (h1 : R (CAN_QSTS p)) (h2 : R (CAN_TXSTS p)) : Shows R l (canSummary m p) :=
  h.touches (touches_canSummary p h1 h2)

theorem touches_slotReport (hR : ∀ a, GradeReg a → R a) : Touches R l (slotReport l now p k) := Touches.refl.raiseO hR

/-- A slot's state with its report, the deadline having passed or the frame being out: `v` is the time that the slot shows. -/
def slotEnds (l : Lane) (now : Nat) (p : CanPort) (k : Nat) : Lane := slotReport (canSummary l p) now p k

theorem touches_slotEnds (h1 : R (CAN_QSTS p)) (h2 : R (CAN_TXSTS p)) (hR : ∀ a, GradeReg a → R a) : Touches R l (slotEnds l now p k) :=
  (touches_canSummary p h1 h2).trans (touches_slotReport hR)

/-- The registers of the live summary and those a raise reaches: what the end of a slot touches. -/
theorem shows_slotEnds {L : List Nat} (h : Shows (Reaches L) l m) (h1 : CAN_QSTS p ∈ L) (h2 : CAN_TXSTS p ∈ L) :
    Shows (Reaches L) l (slotEnds m now p k) := h.touches (touches_slotEnds (.inr h1) (.inr h2) (reaches_grade L))

theorem touches_stk {L : List Nat} {f : Field} (hf : f.addr ∈ L) : Touches (Reaches L) l (stk l f) :=
  Touches.refl.stk (.inr hf) (.inl (.inl (by simp [PeatReg])))

theorem expireSlot_of_some {f : TxFrame} (hf : txFrame l p (.slot k) = some f) : expireSlot l now p k =
    slotEnds (stk (fset (fset l (CAN_DS_STATE p k) 3) (CAN_DT_TOUT p k) (uCode 32 (rround f.lim))) (CAN_STK_DEXP p)) now p k := by
  unfold expireSlot
  rw [hf]
  rfl

theorem expireSlot_of_none (hf : txFrame l p (.slot k) = none) : expireSlot l now p k = l := by
  unfold expireSlot
  rw [hf]

/-- An expired slot shows it, with DEXP (R354). -/
theorem expireSlot_shows {f : TxFrame} (hf : txFrame l p (.slot k) = some f) :
    fget (expireSlot l now p k) (CAN_DS_STATE p k) = 3 ∧ fget (expireSlot l now p k) (CAN_STK_DEXP p) = 1 := by
  have hp := p.isLt
  have hk := k.isLt
  rw [expireSlot_of_some hf]
  generalize uCode 32 (rround f.lim) = v
  constructor
  · have h : Shows (Reaches [CAN_DT p k, CAN_STK p, CAN_QSTS p, CAN_TXSTS p]) (fset l (CAN_DS_STATE p k) 3)
        (slotEnds (stk (fset (fset l (CAN_DS_STATE p k) 3) (CAN_DT_TOUT p k) v) (CAN_STK_DEXP p)) now p k) :=
      shows_slotEnds ((Shows.refl.touches (Touches.refl.fset (reaches_mem (by simp [CAN_DT_TOUT])))).touches
        (touches_stk (by simp [CAN_STK_DEXP]))) (by simp) (by simp)
    rw [h.fget (not_reaches (by simp [CAN_DS_STATE, CAN_DS]; omega) (by simp [CAN_DS_STATE, CAN_DS]; omega)
      (by simp [CAN_DS_STATE, CAN_DS, CAN_DT, CAN_STK, CAN_QSTS, CAN_TXSTS]; omega))]
    exact fget_fset_self _ (CAN_DS_STATE p k) 3 (by simp [CAN_DS_STATE])
  · generalize fset (fset l (CAN_DS_STATE p k) 3) (CAN_DT_TOUT p k) v = x
    have h : Shows (Reaches [CAN_QSTS p, CAN_TXSTS p]) (stk x (CAN_STK_DEXP p)) (slotEnds (stk x (CAN_STK_DEXP p)) now p k) :=
      shows_slotEnds .refl (by simp) (by simp)
    rw [h.fget (not_reaches (by simp [CAN_STK_DEXP, CAN_STK]; omega) (by simp [CAN_STK_DEXP, CAN_STK]; omega)
      (by simp [CAN_STK_DEXP, CAN_STK, CAN_QSTS, CAN_TXSTS]))]
    exact fget_stk_self x (by simp [CAN_STK_DEXP, CAN_STK, FLT_STK]; omega) rfl (by simp [CAN_STK_DEXP])

/-- The registers that the expiry of a slot may touch. -/
theorem shows_expireSlot {L : List Nat} (h : Shows (Reaches L) l m) (h1 : CAN_QSTS p ∈ L) (h2 : CAN_TXSTS p ∈ L) (h3 : CAN_DS p k ∈ L)
    (h4 : CAN_DT p k ∈ L) (h5 : CAN_STK p ∈ L) : Shows (Reaches L) l (expireSlot m now p k) := by
  cases hf : txFrame m p (.slot k) with
  | none => rwa [expireSlot_of_none hf]
  | some f =>
    rw [expireSlot_of_some hf]
    exact shows_slotEnds ((h.touches ((Touches.refl.fset (f := CAN_DS_STATE p k) (.inr h3)).fset (f := CAN_DT_TOUT p k) (.inr h4))).touches
      (touches_stk (f := CAN_STK_DEXP p) h5)) h1 h2

/-- A slot's expiry leaves the count of its attempts. -/
theorem fget_ATT_expireSlot : fget (expireSlot l now p k) (CAN_DS_ATT p k) = fget l (CAN_DS_ATT p k) := by
  have hp := p.isLt
  have hk := k.isLt
  cases hf : txFrame l p (.slot k) with
  | none => rw [expireSlot_of_none hf]
  | some f =>
    rw [expireSlot_of_some hf]
    generalize uCode 32 (rround f.lim) = v
    have h : Shows (Reaches [CAN_DT p k, CAN_STK p, CAN_QSTS p, CAN_TXSTS p]) (fset l (CAN_DS_STATE p k) 3)
        (slotEnds (stk (fset (fset l (CAN_DS_STATE p k) 3) (CAN_DT_TOUT p k) v) (CAN_STK_DEXP p)) now p k) :=
      shows_slotEnds ((Shows.refl.touches (Touches.refl.fset (reaches_mem (by simp [CAN_DT_TOUT])))).touches
        (touches_stk (by simp [CAN_STK_DEXP]))) (by simp) (by simp)
    rw [h.fget (not_reaches (by simp [CAN_DS_ATT, CAN_DS]; omega) (by simp [CAN_DS_ATT, CAN_DS]; omega)
      (by simp [CAN_DS_ATT, CAN_DS, CAN_DT, CAN_STK, CAN_QSTS, CAN_TXSTS]; omega))]
    exact fget_fset_apart l (CAN_DS_STATE p k) (CAN_DS_ATT p k) 3 rfl (.inl (by simp [CAN_DS_STATE, CAN_DS_ATT])) (by simp [CAN_DS_STATE])

end
end Sys2Proof.Machine

namespace Sys2Proof.Machine

section
variable {l m : Lane} {p : CanPort} {k : Fin 8} {now sof eof : Nat}

/-- A port's TXON off, with the run data of a frame changed, leaves what the other registers and the waiting conditions show. -/
theorem fget_TXON_of_shows {L : List Nat} {x : Lane} (h : Shows (Reaches L) (fsetB x (CAN_STS_TXON p) false) m) (hL : CAN_STS p ∉ L) :
    fget m (CAN_STS_TXON p) = 0 := by
  have hp := p.isLt
  rw [h.fget (not_reaches (by simp [CAN_STS_TXON, CAN_STS]) (by simp [CAN_STS_TXON, CAN_STS]; omega) hL)]
  exact fget_fsetB_self x (CAN_STS_TXON p) false (by simp [CAN_STS_TXON]) (by simp [CAN_STS_TXON])

/-! ### Frames sent (R351, R355) -/

theorem txFrame_TXON (b : Bool) (o : TxObj) : txFrame (fsetB l (CAN_STS_TXON p) b) p o = txFrame l p o := by
  refine txFrame_congr (l := l) (m := fsetB l (CAN_STS_TXON p) b) rfl fun k _ => fget_fsetB_ne l (CAN_STS_TXON p) (CAN_DS_STATE p k) b ?_
  simp [CAN_DS_STATE, CAN_DS, CAN_STS_TXON, CAN_STS]
  omega

/-- The slot's part of a frame sent: its state, its time on the bus, and the report. -/
def slotSent (l : Lane) (now : Nat) (p : CanPort) (k : Fin 8) (v : Nat) : Lane :=
  slotEnds (modCan (fset (fset l (CAN_DS_STATE p k) 2) (CAN_DT_TOUT p k) v) p fun x => { x with col := none }) now p k

theorem frameSent_slot {f : TxFrame} (hf : txFrame l p (.slot k) = some f) (hs : f.at_ ≤ sof) : frameSent l now p (.slot k) sof eof =
    slotSent (fsetB l (CAN_STS_TXON p) false) now p k (shipCode (shipAt l now eof) % 2 ^ 32) := by
  unfold frameSent
  extract_lets l1 late
  have hl : late = false := by
    have h := (txFrame_TXON (l := l) (p := p) false (.slot k)).trans hf
    show (match txFrame (fsetB l (CAN_STS_TXON p) false) p (.slot k) with | some f => decide (sof < f.at_) | none => true) = false
    rw [h]
    exact decide_eq_false (by omega)
  rw [hl]
  exact if_neg Bool.false_ne_true

theorem shipCode_low (x : Rat) : shipCode x % 2 ^ 32 % 2 ^ 32 = (rround x % 2 ^ 32).toNat := by
  unfold shipCode
  generalize rround x = r
  omega

/-- What a frame of slot `k`, out with its EOF at `eof`, leaves in the slot. -/
def SlotOut (p : CanPort) (k : Fin 8) (sof eof now : Nat) (l m : Lane) : Prop :=
  ∀ f, txFrame l p (.slot k) = some f → f.at_ ≤ sof →
    fget m (CAN_DS_STATE p k) = 2 ∧ fget m (CAN_DT_TOUT p k) = (rround (shipAt l now eof) % 2 ^ 32).toNat ∧ fget m (CAN_STS_TXON p) = 0

theorem canReport_sent_slot : SlotOut p k sof eof now l (canReport l now p (.sent (.slot k) sof eof)) := by
  intro f hf hs
  have hp := p.isLt
  have hk := k.isLt
  have hv := shipCode_low (shipAt l now eof)
  have he : canReport l now p (.sent (.slot k) sof eof) = candUpdate (runEnds
      (slotSent (fsetB l (CAN_STS_TXON p) false) now p k (shipCode (shipAt l now eof) % 2 ^ 32)) p (.slot k)) now p := by
    rw [← frameSent_slot hf hs]
    rfl
  rw [he]
  generalize shipCode (shipAt l now eof) % 2 ^ 32 = v at *
  generalize hx : fsetB l (CAN_STS_TXON p) false = x
  refine ⟨?_, ?_, ?_⟩
  · have h : Shows (Reaches [CAN_DT p k, CAN_QSTS p, CAN_TXSTS p]) (fset x (CAN_DS_STATE p k) 2)
        (candUpdate (runEnds (slotSent x now p k v) p (.slot k)) now p) :=
      ((shows_slotEnds ((Shows.refl.touches (Touches.refl.fset (reaches_mem (by simp [CAN_DT_TOUT])))).modCan _)
        (by simp) (by simp)).runEnds _ _).candUpdate _ _
    rw [h.fget (not_reaches (by simp [CAN_DS_STATE, CAN_DS]; omega) (by simp [CAN_DS_STATE, CAN_DS]; omega)
      (by simp [CAN_DS_STATE, CAN_DS, CAN_DT, CAN_QSTS, CAN_TXSTS]; omega))]
    exact fget_fset_self x (CAN_DS_STATE p k) 2 (by simp [CAN_DS_STATE])
  · have h : Shows (Reaches [CAN_QSTS p, CAN_TXSTS p]) (fset (fset x (CAN_DS_STATE p k) 2) (CAN_DT_TOUT p k) v)
        (candUpdate (runEnds (slotSent x now p k v) p (.slot k)) now p) :=
      ((shows_slotEnds (Shows.refl.modCan _) (by simp) (by simp)).runEnds _ _).candUpdate _ _
    rw [h.fget (not_reaches (by simp [CAN_DT_TOUT, CAN_DT]; omega) (by simp [CAN_DT_TOUT, CAN_DT]; omega)
      (by simp [CAN_DT_TOUT, CAN_DT, CAN_QSTS, CAN_TXSTS]; omega)), fget_fset_self _ (CAN_DT_TOUT p k) v (by simp [CAN_DT_TOUT])]
    exact hv
  · rw [← hx]
    refine fget_TXON_of_shows (L := [CAN_DS p k, CAN_DT p k, CAN_QSTS p, CAN_TXSTS p]) (x := l) ?_
      (by simp [CAN_STS, CAN_DS, CAN_DT, CAN_QSTS, CAN_TXSTS]; omega)
    exact ((shows_slotEnds ((Shows.refl.touches ((Touches.refl.fset (f := CAN_DS_STATE p k) (reaches_mem (by simp [CAN_DS_STATE]))).fset
      (f := CAN_DT_TOUT p k) (reaches_mem (by simp [CAN_DT_TOUT])))).modCan _) (by simp) (by simp)).runEnds _ _).candUpdate _ _

theorem canReport_sent_queued : (vget (canReport l now p (.sent .queued sof eof)).cans p).fifo = (vget l.cans p).fifo.tail ∧
    fget (canReport l now p (.sent .queued sof eof)) (CAN_TXSTS_QFILL p) = (vget l.cans p).fifo.tail.length % 64 := by
  have he : canReport l now p (.sent .queued sof eof) = candUpdate (runEnds (canSummary (modCan (fsetB l (CAN_STS_TXON p) false) p
      fun x => { x with fifo := x.fifo.tail, col := none }) p) p .queued) now p := rfl
  rw [he]
  have hx : (vget (modCan (fsetB l (CAN_STS_TXON p) false) p fun x => { x with fifo := x.fifo.tail, col := none }).cans p).fifo =
      (vget l.cans p).fifo.tail := congrArg CanRt.fifo (cans_modCan_self _ _ _)
  generalize modCan (fsetB l (CAN_STS_TXON p) false) p (fun x => { x with fifo := x.fifo.tail, col := none }) = x at *
  constructor
  · have hc : (canSummary x p).cans = x.cans := (touches_canSummary (R := fun _ => True) p trivial trivial).cans
    rw [cans_candUpdate_self]
    show (vget (runEnds (canSummary x p) p .queued).cans p).fifo = _
    rw [cans_runEnds]
    show (vget (canSummary x p).cans p).fifo = _
    rw [hc, hx]
  · have h : Shows (fun _ => False) (canSummary x p) (candUpdate (runEnds (canSummary x p) p .queued) now p) :=
      (Shows.refl.runEnds _ _).candUpdate _ _
    rw [h.fget (fun e => e), fget_QFILL_canSummary, hx]

/-! ### Frames begun, lost arbitration, refused starts -/

theorem canReport_begun_slot : fget (canReport l now p (.begun (.slot k) sof)) (CAN_STS_TXON p) = 1 ∧
    ∀ f, vget (vget l.cans p).slots k = some f → f.at_ ≤ sof →
      vget (vget (canReport l now p (.begun (.slot k) sof)).cans p).slots k = some { f with begun := true } := by
  have he : canReport l now p (.begun (.slot k) sof) = candUpdate (modCan (fsetB (modTx l p (.slot k) fun f => if f.at_ ≤ sof then
      { f with begun := true } else f) (CAN_STS_TXON p) true) p fun x => { x with run := some (.slot k, sof) }) now p := rfl
  rw [he]
  constructor
  · generalize modTx l p (.slot k) (fun f => if f.at_ ≤ sof then { f with begun := true } else f) = x
    have h : Shows (fun _ => False) (fsetB x (CAN_STS_TXON p) true) (candUpdate (modCan (fsetB x (CAN_STS_TXON p) true) p
      fun x => { x with run := some (.slot k, sof) }) now p) := (Shows.refl.modCan _).candUpdate _ _
    rw [h.fget fun e => e]
    exact fget_fsetB_self x (CAN_STS_TXON p) true (by simp [CAN_STS_TXON]) (by simp [CAN_STS_TXON])
  · intro f hf hs
    rw [cans_candUpdate_self, cans_modCan_self]
    show vget (vget (modCan l p fun x => { x with slots := vset x.slots k ((vget x.slots k).map _) }).cans p).slots k = _
    rw [cans_modCan_self]
    show vget (vset _ k _) k = _
    rw [vget_vset_self, hf, Option.map_some, if_pos hs]

theorem canReport_arbLost {o : TxObj} : Counted (CAN_CNT3_ALOST p) l (canReport l now p (.arbLost o)) ∧
    fget (canReport l now p (.arbLost o)) (CAN_STS_TXON p) = 0 := by
  have hp := p.isLt
  have he : canReport l now p (.arbLost o) = candUpdate (runEnds (fsetB (fcount (modTx l p o fun f => { f with begun := false })
      (CAN_CNT3_ALOST p)) (CAN_STS_TXON p) false) p o) now p := rfl
  rw [he]
  have hx : Shows (fun _ => False) l (modTx l p o fun f => { f with begun := false }) := Shows.refl.modTx _ _ _
  generalize modTx l p o (fun f => { f with begun := false }) = x at *
  have h : Shows (fun _ => False) (fsetB (fcount x (CAN_CNT3_ALOST p)) (CAN_STS_TXON p) false)
    (candUpdate (runEnds (fsetB (fcount x (CAN_CNT3_ALOST p)) (CAN_STS_TXON p) false) p o) now p) := (Shows.refl.runEnds _ _).candUpdate _ _
  constructor
  · refine counted_of_eq (counted_fcount x (CAN_CNT3_ALOST p) (by simp [CAN_CNT3_ALOST])) (hx.fget fun e => e) ?_
    rw [h.fget fun e => e]
    exact fget_fsetB_ne _ (CAN_STS_TXON p) (CAN_CNT3_ALOST p) _ (by simp [CAN_CNT3_ALOST, CAN_CNT3, CAN_STS_TXON, CAN_STS])
  · rw [h.fget fun e => e]
    exact fget_fsetB_self _ (CAN_STS_TXON p) false (by simp [CAN_STS_TXON]) (by simp [CAN_STS_TXON])

theorem canReport_startRefused_slot {f : TxFrame} (hf : txFrame l p (.slot k) = some f) :
    (f.begun = false → f.lim < l.ship → fget (canReport l now p (.startRefused (.slot k))) (CAN_DS_STATE p k) = 3 ∧
      fget (canReport l now p (.startRefused (.slot k))) (CAN_STK_DEXP p) = 1) ∧
    (f.begun = true ∨ l.ship ≤ f.lim → fget (canReport l now p (.startRefused (.slot k))) (CAN_DS_STATE p k) = 1) := by
  have he : canReport l now p (.startRefused (.slot k)) =
      candUpdate (if !f.begun && decide (f.lim < l.ship) then expireSlot l now p k else l) now p := by
    unfold canReport
    dsimp only
    rw [hf]
  have hc (x : Lane) : Shows (fun _ => False) x (candUpdate x now p) := Shows.refl.candUpdate _ _
  rw [he]
  refine ⟨fun hb hl => ?_, fun h => ?_⟩
  · rw [hb, decide_eq_true hl, Bool.not_false, Bool.and_self, if_pos rfl, (hc _).fget (fun e => e), (hc _).fget (fun e => e)]
    exact expireSlot_shows hf
  · have hn : (!f.begun && decide (f.lim < l.ship)) = false := by
      rcases h with h | h
      · rw [h]
        rfl
      · rw [decide_eq_false (not_lt.mpr h), Bool.and_false]
    rw [hn, if_neg Bool.false_ne_true, (hc _).fget (fun e => e)]
    by_contra h1
    exact Option.some_ne_none _ (hf.symm.trans (if_neg h1))

/-! ### Errors of the bus -/

theorem canReport_errorFrame : Counted (CAN_CNT3_ERRF p) l (canReport l now p .errorFrame) := by
  have h : Shows (fun _ => False) (fcount l (CAN_CNT3_ERRF p)) (canReport l now p .errorFrame) := Shows.refl.candUpdate _ _
  exact counted_of_eq (counted_fcount l (CAN_CNT3_ERRF p) (by simp [CAN_CNT3_ERRF])) rfl (h.fget fun e => e)

theorem canReport_protocolException (h0 : fget l (CAN_CFG_PXHD p) = 0) : SetLate (CAN_STK_PXE p) (canReport l now p .protocolException) := by
  have he : canReport l now p .protocolException = candUpdate (stkLate l (CAN_STK_PXE p)) now p := by
    unfold canReport
    dsimp only
    rw [fon, decide_eq_false (not_not.mpr h0)]
    rfl
  have h : Shows (fun _ => False) (stkLate l (CAN_STK_PXE p)) (canReport l now p .protocolException) := by
    rw [he]
    exact Shows.refl.candUpdate _ _
  exact h.late _ (setLate_stkLate _ _)

end
end Sys2Proof.Machine

namespace Sys2Proof.Machine

section
variable {l m : Lane} {p : CanPort} {k : Fin 8} {now : Nat} {e : AttemptErr}

/-! ### Failed attempts (R351, R354, R358) -/

/-- A frame whose attempt failed has not begun and has one attempt more. -/
def retried (f : TxFrame) : TxFrame := { f with begun := false, att := f.att + 1 }

/-- The lane in which a failed attempt is counted: the frame's, TXON off. -/
def attemptEnded (l : Lane) (p : CanPort) (o : TxObj) : Lane := fsetB (modTx l p o retried) (CAN_STS_TXON p) false

/-- A second bit error of the same identifier is a collision (R358). -/
def collided (l : Lane) (p : CanPort) (f : TxFrame) (e : AttemptErr) : Lane :=
  let id := f.w0 &&& 0x3FFFFFFF#32
  let hit := e.bitAfterArb && decide ((vget l.cans p).col = some id)
  let l := if hit then stkLate (fset (fset l (CAN_IDCOL_ID p) (bitsOf id.toNat 0 29)) (CAN_IDCOL_IDE p) (bitsOf id.toNat 29 1)) (CAN_STK_IDCOL p) else l
  modCan l p fun x => { x with col := if e.bitAfterArb then some id else none }

/-- The registers of a collision, shown or not. -/
theorem touches_collision (c : Bool) (u v : Nat) : Touches (Reaches [CAN_IDCOL p]) l
    (if c then stkLate (fset (fset l (CAN_IDCOL_ID p) u) (CAN_IDCOL_IDE p) v) (CAN_STK_IDCOL p) else l) := by
  have hid : Reaches [CAN_IDCOL p] (CAN_IDCOL_ID p).addr := reaches_mem (by simp [CAN_IDCOL_ID])
  have hide : Reaches [CAN_IDCOL p] (CAN_IDCOL_IDE p).addr := reaches_mem (by simp [CAN_IDCOL_IDE])
  exact ((Touches.refl.fset hid).fset hide).stkLate.ite .refl

theorem shows_collided (f : TxFrame) : Shows (Reaches [CAN_IDCOL p]) l (collided l p f e) := by
  unfold collided
  extract_lets id hit x
  exact (Shows.refl.touches (touches_collision _ _ _)).modCan _

theorem fifo_collided (f : TxFrame) : (vget (collided l p f e).cans p).fifo = (vget l.cans p).fifo := by
  unfold collided
  extract_lets id hit x
  have hx : x.cans = l.cans := (touches_collision _ _ _).cans
  rw [cans_modCan_self, hx]

theorem failedAttempt_of_slot {f : TxFrame} (hf : txFrame l p (.slot k) = some f) : failedAttempt l now p (.slot k) e =
    let x := collided (attemptEnded l p (.slot k)) p f e
    let y := fset x (CAN_DS_ATT p k) (satNat 255 (fget x (CAN_DS_ATT p k) + 1))
    if f.lim < shipAt y now e.at_ then expireSlot y now p k else y := by
  unfold failedAttempt
  rw [hf]
  rfl

theorem failedAttempt_of_queued {f : TxFrame} (hf : txFrame l p .queued = some f) : failedAttempt l now p .queued e =
    let x := collided (attemptEnded l p .queued) p f e
    if fget x (CAN_CFG_QRETRY p) < f.att + 1 then dropHead x p f.w0 else x := by
  unfold failedAttempt
  rw [hf]
  rfl

theorem canReport_error_slot {f : TxFrame} (hf : txFrame l p (.slot k) = some f) :
    Counted (CAN_DS_ATT p k) l (canReport l now p (.error (.slot k) e)) ∧ fget (canReport l now p (.error (.slot k) e)) (CAN_STS_TXON p) = 0 := by
  have hp := p.isLt
  have hk := k.isLt
  have he : canReport l now p (.error (.slot k) e) = candUpdate (runEnds (failedAttempt l now p (.slot k) e) p (.slot k)) now p := rfl
  rw [he, failedAttempt_of_slot hf]
  have h0 : Shows (fun _ => False) l (modTx l p (.slot k) retried) := Shows.refl.modTx _ _ _
  have h1 : Shows (Reaches [CAN_IDCOL p]) (attemptEnded l p (.slot k)) (collided (attemptEnded l p (.slot k)) p f e) := shows_collided f
  have ha : attemptEnded l p (.slot k) = fsetB (modTx l p (.slot k) retried) (CAN_STS_TXON p) false := rfl
  generalize modTx l p (.slot k) retried = b at *
  generalize attemptEnded l p (.slot k) = a at *
  generalize collided a p f e = x at *
  extract_lets x' y
  have hy : y = fset x (CAN_DS_ATT p k) (satNat 255 (fget x (CAN_DS_ATT p k) + 1)) := rfl
  clear_value x' y
  have hx : fget x (CAN_DS_ATT p k) = fget l (CAN_DS_ATT p k) := by
    rw [h1.fget (not_reaches (by simp [CAN_DS_ATT, CAN_DS]; omega) (by simp [CAN_DS_ATT, CAN_DS]; omega)
      (by simp [CAN_DS_ATT, CAN_DS, CAN_IDCOL]; omega)), ha, fget_fsetB_ne _ (CAN_STS_TXON p) (CAN_DS_ATT p k) _
      (by simp [CAN_DS_ATT, CAN_DS, CAN_STS_TXON, CAN_STS]; omega), h0.fget fun e => e]
  have hz (z : Lane) : Shows (fun _ => False) z (candUpdate (runEnds z p (.slot k)) now p) := (Shows.refl.runEnds _ _).candUpdate _ _
  constructor
  · have hc : Counted (CAN_DS_ATT p k) x y := hy ▸ fget_fset_satNat x (CAN_DS_ATT p k) _ (by simp [CAN_DS_ATT])
    refine counted_of_eq hc hx ?_
    rw [(hz _).fget fun e => e]
    split
    · exact fget_ATT_expireSlot
    · rfl
  · have h2 : Shows (Reaches [CAN_IDCOL p, CAN_DS p k, CAN_DT p k, CAN_STK p, CAN_QSTS p, CAN_TXSTS p]) a y := by
      rw [hy]
      refine Shows.touches ⟨fun c hc => h1.regs c fun h => hc ?_, h1.late⟩ (Touches.refl.fset (reaches_mem (by simp [CAN_DS_ATT])))
      rcases h with h | h
      · exact .inl h
      · exact .inr (List.mem_cons.mpr (.inl (List.mem_singleton.mp h)))
    have h3 : Shows (Reaches [CAN_IDCOL p, CAN_DS p k, CAN_DT p k, CAN_STK p, CAN_QSTS p, CAN_TXSTS p]) a
        (if f.lim < shipAt y now e.at_ then expireSlot y now p k else y) :=
      (shows_expireSlot h2 (by simp) (by simp) (by simp) (by simp) (by simp)).ite h2
    rw [ha] at h3
    exact fget_TXON_of_shows ((h3.runEnds _ _).candUpdate _ _)
      (by simp [CAN_STS, CAN_IDCOL, CAN_DS, CAN_DT, CAN_STK, CAN_QSTS, CAN_TXSTS]; omega)

/-! ### The FIFO's head -/

theorem fifo_attemptEnded {f : TxFrame} {r : List TxFrame} (hf : (vget l.cans p).fifo = f :: r) :
    (vget (attemptEnded l p .queued).cans p).fifo = retried f :: r := by
  show (vget (modCan l p _).cans p).fifo = _
  rw [cans_modCan_self]
  show (match (vget l.cans p).fifo with | h :: t => retried h :: t | [] => []) = _
  rw [hf]

/-- The FIFO's head is dropped, counted, with QDROP waiting. -/
theorem dropHead_spec (w : Word) : (vget (dropHead l p w).cans p).fifo = (vget l.cans p).fifo.tail ∧ Counted (CAN_CNT2_QDROP p) l (dropHead l p w) ∧
    SetLate (CAN_STK_QDROP p) (dropHead l p w) := by
  have hp := p.isLt
  unfold dropHead
  extract_lets x
  have hx : x = fset (stkLate (fcount l (CAN_CNT2_QDROP p)) (CAN_STK_QDROP p)) (CAN_QLAST_ID p) (bitsOf w.toNat 0 29) := rfl
  clear_value x
  generalize bitsOf w.toNat 29 1 = v at *
  generalize bitsOf w.toNat 0 29 = u at *
  have hxt : Touches (fun _ => True) l (fset x (CAN_QLAST_IDE p) v) :=
    hx ▸ ((((Touches.refl.fcount trivial).stkLate).fset trivial).fset trivial)
  have hs : Shows (Reaches [CAN_QLAST p, CAN_QSTS p, CAN_TXSTS p]) (stkLate (fcount l (CAN_CNT2_QDROP p)) (CAN_STK_QDROP p))
      (canSummary (modCan (fset x (CAN_QLAST_IDE p) v) p fun x => { x with fifo := x.fifo.tail }) p) := by
    rw [hx]
    refine shows_canSummary (Shows.modCan (Shows.refl.touches ((Touches.refl.fset (f := CAN_QLAST_ID p) ?_).fset (f := CAN_QLAST_IDE p) ?_)) _) p ?_ ?_
    · exact reaches_mem (by simp [CAN_QLAST_ID])
    · exact reaches_mem (by simp [CAN_QLAST_IDE])
    · exact reaches_mem (by simp)
    · exact reaches_mem (by simp)
  refine ⟨?_, ?_, hs.late _ (setLate_stkLate _ _)⟩
  · rw [(touches_canSummary (R := fun _ => True) p trivial trivial).cans, cans_modCan_self, hxt.cans]
  · refine counted_of_eq (counted_fcount l (CAN_CNT2_QDROP p) (by simp [CAN_CNT2_QDROP])) rfl ?_
    rw [hs.fget (not_reaches (by simp [CAN_CNT2_QDROP, CAN_CNT2]; omega) (by simp [CAN_CNT2_QDROP, CAN_CNT2]; omega)
      (by simp [CAN_CNT2_QDROP, CAN_CNT2, CAN_QLAST, CAN_QSTS, CAN_TXSTS]))]
    exact fget_stkLate _ _ _

theorem canReport_error_queued {f : TxFrame} {r : List TxFrame} (hf : (vget l.cans p).fifo = f :: r) :
    (fget l (CAN_CFG_QRETRY p) < f.att + 1 → (vget (canReport l now p (.error .queued e)).cans p).fifo = r ∧
      Counted (CAN_CNT2_QDROP p) l (canReport l now p (.error .queued e)) ∧ SetLate (CAN_STK_QDROP p) (canReport l now p (.error .queued e))) ∧
    (f.att + 1 ≤ fget l (CAN_CFG_QRETRY p) →
      (vget (canReport l now p (.error .queued e)).cans p).fifo = { f with begun := false, att := f.att + 1 } :: r) := by
  have hp := p.isLt
  have ht : txFrame l p .queued = some f := by
    show (vget l.cans p).fifo.head? = some f
    rw [hf]
    rfl
  have he : canReport l now p (.error .queued e) = candUpdate (runEnds (failedAttempt l now p .queued e) p .queued) now p := rfl
  rw [he, failedAttempt_of_queued ht]
  have hfifo : (vget (collided (attemptEnded l p .queued) p f e).cans p).fifo = retried f :: r := by rw [fifo_collided, fifo_attemptEnded hf]
  have h1 : Shows (Reaches [CAN_IDCOL p]) (attemptEnded l p .queued) (collided (attemptEnded l p .queued) p f e) := shows_collided f
  have h0 : Shows (Reaches [CAN_STS p]) l (attemptEnded l p .queued) :=
    (Shows.refl.modTx _ _ _).touches (Touches.refl.fsetB (f := CAN_STS_TXON p) (reaches_mem (by simp [CAN_STS_TXON])))
  generalize attemptEnded l p .queued = a at *
  generalize collided a p f e = x at *
  have hkeep {g : Field} (hg : g.addr = CAN_CFG p ∨ g.addr = CAN_CNT2 p) : fget x g = fget l g := by
    rw [h1.fget, h0.fget]
    · rcases hg with hg | hg <;> rw [hg]
      · exact not_reaches (by simp [CAN_CFG]; omega) (by simp [CAN_CFG]; omega) (by simp [CAN_CFG, CAN_STS])
      · exact not_reaches (by simp [CAN_CNT2]; omega) (by simp [CAN_CNT2]; omega) (by simp [CAN_CNT2, CAN_STS])
    · rcases hg with hg | hg <;> rw [hg]
      · exact not_reaches (by simp [CAN_CFG]; omega) (by simp [CAN_CFG]; omega) (by simp [CAN_CFG, CAN_IDCOL])
      · exact not_reaches (by simp [CAN_CNT2]; omega) (by simp [CAN_CNT2]; omega) (by simp [CAN_CNT2, CAN_IDCOL])
  have hz (z : Lane) : Shows (fun _ => False) z (candUpdate (runEnds z p .queued) now p) := (Shows.refl.runEnds _ _).candUpdate _ _
  have hzf (z : Lane) : (vget (candUpdate (runEnds z p .queued) now p).cans p).fifo = (vget z.cans p).fifo := by
    rw [cans_candUpdate_self, cans_runEnds]
  have hq : fget x (CAN_CFG_QRETRY p) = fget l (CAN_CFG_QRETRY p) := hkeep (.inl rfl)
  dsimp only
  rw [hq]
  refine ⟨fun h => ?_, fun h => ?_⟩
  · obtain ⟨hd, hc, hl⟩ := dropHead_spec (l := x) (p := p) f.w0
    rw [if_pos h, hzf, hd, hfifo]
    refine ⟨rfl, counted_of_eq hc (hkeep (.inr rfl)) ((hz _).fget fun e => e), (hz _).late _ hl⟩
  · rw [if_neg (Nat.not_lt.mpr h), hzf, hfifo]
    rfl

end
end Sys2Proof.Machine

namespace Sys2Proof.Machine

section
variable {l m : Lane} {p : CanPort} {now tec rec es borec : Nat}

/-! ### Error counters and state (R356, R357) -/

/-- The counters taken over. -/
def countersTaken (l : Lane) (p : CanPort) (tec rec borec : Nat) : Lane :=
  fset (fset (fset l (CAN_ECNT_TEC p) tec) (CAN_ECNT_REC p) rec) (CAN_ECNT_BOREC p) borec

/-- The warning level passed, or not. -/
def warned (l : Lane) (p : CanPort) (up w : Bool) : Lane := stkIfLate up (fsetB l (CAN_STS_EWARN p) w) (CAN_STK_EWARN p)

/-- The error state taken over. -/
def stateTaken (l : Lane) (p : CanPort) (es : Nat) (passive : Bool) : Lane :=
  fsetB (stkIfLate passive (fset l (CAN_STS_ESTATE p) es) (CAN_STK_EPASS p)) (CAN_STS_RECOV p) (decide (es = 2))

/-- Bus-off is entered. -/
def busOff (l : Lane) (now : Nat) (p : CanPort) : Lane :=
  raiseO (stkLate (fcount (fsetB l (CAN_STS_TXON p) false) (CAN_CNT2_BOFF p)) (CAN_STK_BUSOFF p)) now (0x58 + p.1) p 0 0#32

theorem errorState_eq : errorState l now p tec rec es borec =
    let x := stateTaken (warned (countersTaken l p tec rec borec) p
      (decide (fget l (CAN_ECNT_TEC p) < 96 ∧ 96 ≤ tec) || decide (fget l (CAN_ECNT_REC p) < 96 ∧ 96 ≤ rec)) (decide (96 ≤ tec) || decide (96 ≤ rec)))
      p es (decide (es = 1 ∧ fget l (CAN_STS_ESTATE p) ≠ 1))
    if es = 2 ∧ fget l (CAN_STS_ESTATE p) ≠ 2 then busOff x now p else x := rfl

theorem fget_countersTaken (ht : tec < 256) (hr : rec < 256) (hb : borec < 256) :
    fget (countersTaken l p tec rec borec) (CAN_ECNT_TEC p) = tec ∧ fget (countersTaken l p tec rec borec) (CAN_ECNT_REC p) = rec ∧
    fget (countersTaken l p tec rec borec) (CAN_ECNT_BOREC p) = borec := by
  have h1 (x : Lane) (v : Nat) : fget (fset x (CAN_ECNT_BOREC p) v) (CAN_ECNT_TEC p) = fget x (CAN_ECNT_TEC p) :=
    fget_fset_apart x (CAN_ECNT_BOREC p) (CAN_ECNT_TEC p) v rfl (.inr (by simp [CAN_ECNT_BOREC, CAN_ECNT_TEC])) (by simp [CAN_ECNT_BOREC])
  have h2 (x : Lane) (v : Nat) : fget (fset x (CAN_ECNT_BOREC p) v) (CAN_ECNT_REC p) = fget x (CAN_ECNT_REC p) :=
    fget_fset_apart x (CAN_ECNT_BOREC p) (CAN_ECNT_REC p) v rfl (.inr (by simp [CAN_ECNT_BOREC, CAN_ECNT_REC])) (by simp [CAN_ECNT_BOREC])
  have h3 (x : Lane) (v : Nat) : fget (fset x (CAN_ECNT_REC p) v) (CAN_ECNT_TEC p) = fget x (CAN_ECNT_TEC p) :=
    fget_fset_apart x (CAN_ECNT_REC p) (CAN_ECNT_TEC p) v rfl (.inr (by simp [CAN_ECNT_REC, CAN_ECNT_TEC])) (by simp [CAN_ECNT_REC])
  unfold countersTaken
  refine ⟨?_, ?_, ?_⟩
  · rw [h1, h3, fget_fset_self _ (CAN_ECNT_TEC p) _ (by simp [CAN_ECNT_TEC])]
    exact Nat.mod_eq_of_lt ht
  · rw [h2, fget_fset_self _ (CAN_ECNT_REC p) _ (by simp [CAN_ECNT_REC])]
    exact Nat.mod_eq_of_lt hr
  · rw [fget_fset_self _ (CAN_ECNT_BOREC p) _ (by simp [CAN_ECNT_BOREC])]
    exact Nat.mod_eq_of_lt hb

theorem touches_warned (up w : Bool) : Touches (Reaches [CAN_STS p]) l (warned l p up w) :=
  (Touches.refl.fsetB (f := CAN_STS_EWARN p) (reaches_mem (by simp [CAN_STS_EWARN]))).stkIfLate

theorem fget_stkIfLate (c : Bool) (l : Lane) (f g : Field) : fget (stkIfLate c l f) g = fget l g := by
  unfold stkIfLate
  split
  · exact fget_stkLate _ _ _
  · rfl

theorem setLate_stkIfLate (l : Lane) (f : Field) {c : Bool} (h : c = true) : SetLate f (stkIfLate c l f) := by
  unfold stkIfLate
  rw [if_pos h]
  exact setLate_stkLate _ _

theorem fget_EWARN_warned (up w : Bool) : fget (warned l p up w) (CAN_STS_EWARN p) = b2n w := by
  unfold warned
  rw [fget_stkIfLate]
  exact fget_fsetB_self l (CAN_STS_EWARN p) w (by simp [CAN_STS_EWARN]) (by simp [CAN_STS_EWARN])

theorem touches_stateTaken (c : Bool) : Touches (Reaches [CAN_STS p]) l (stateTaken l p es c) :=
  (Touches.refl.fset (f := CAN_STS_ESTATE p) (reaches_mem (by simp [CAN_STS_ESTATE]))).stkIfLate.fsetB (f := CAN_STS_RECOV p)
    (reaches_mem (by simp [CAN_STS_RECOV]))

theorem fget_ESTATE_stateTaken (h : es < 4) (c : Bool) : fget (stateTaken l p es c) (CAN_STS_ESTATE p) = es := by
  unfold stateTaken
  rw [fget_fsetB_apart _ (CAN_STS_RECOV p) (CAN_STS_ESTATE p) _ rfl (.inr (by simp [CAN_STS_ESTATE, CAN_STS_RECOV])) (by simp [CAN_STS_RECOV]),
    fget_stkIfLate, fget_fset_self _ (CAN_STS_ESTATE p) _ (by simp [CAN_STS_ESTATE])]
  exact Nat.mod_eq_of_lt h

theorem fget_EWARN_stateTaken (c : Bool) : fget (stateTaken l p es c) (CAN_STS_EWARN p) = fget l (CAN_STS_EWARN p) := by
  unfold stateTaken
  rw [fget_fsetB_apart _ (CAN_STS_RECOV p) (CAN_STS_EWARN p) _ rfl (.inr (by simp [CAN_STS_EWARN, CAN_STS_RECOV])) (by simp [CAN_STS_RECOV]),
    fget_stkIfLate]
  exact fget_fset_apart l (CAN_STS_ESTATE p) (CAN_STS_EWARN p) es rfl (.inl (by simp [CAN_STS_ESTATE, CAN_STS_EWARN])) (by simp [CAN_STS_ESTATE])

theorem shows_busOff : Shows (Reaches [CAN_STS p, CAN_CNT2 p]) l (busOff l now p) :=
  Shows.refl.touches ((((Touches.refl.fsetB (f := CAN_STS_TXON p) (reaches_mem (by simp [CAN_STS_TXON]))).fcount (f := CAN_CNT2_BOFF p)
    (reaches_mem (by simp [CAN_CNT2_BOFF]))).stkLate).raiseO (reaches_grade _))

/-- Entering bus-off is counted, with BUSOFF waiting; it leaves the error state and the warning. -/
theorem busOff_spec : Counted (CAN_CNT2_BOFF p) l (busOff l now p) ∧ SetLate (CAN_STK_BUSOFF p) (busOff l now p) ∧
    fget (busOff l now p) (CAN_STS_ESTATE p) = fget l (CAN_STS_ESTATE p) ∧ fget (busOff l now p) (CAN_STS_EWARN p) = fget l (CAN_STS_EWARN p) := by
  have hp := p.isLt
  unfold busOff
  have hb : fget (fsetB l (CAN_STS_TXON p) false) (CAN_CNT2_BOFF p) = fget l (CAN_CNT2_BOFF p) :=
    fget_fsetB_ne l (CAN_STS_TXON p) (CAN_CNT2_BOFF p) _ (by simp [CAN_CNT2_BOFF, CAN_CNT2, CAN_STS_TXON, CAN_STS])
  have he : fget (fsetB l (CAN_STS_TXON p) false) (CAN_STS_ESTATE p) = fget l (CAN_STS_ESTATE p) :=
    fget_fsetB_apart l (CAN_STS_TXON p) (CAN_STS_ESTATE p) _ rfl (.inr (by simp [CAN_STS_ESTATE, CAN_STS_TXON])) (by simp [CAN_STS_TXON])
  have hw : fget (fsetB l (CAN_STS_TXON p) false) (CAN_STS_EWARN p) = fget l (CAN_STS_EWARN p) :=
    fget_fsetB_apart l (CAN_STS_TXON p) (CAN_STS_EWARN p) _ rfl (.inr (by simp [CAN_STS_EWARN, CAN_STS_TXON])) (by simp [CAN_STS_TXON])
  generalize fsetB l (CAN_STS_TXON p) false = x at *
  have hs : Shows (Reaches []) (stkLate (fcount x (CAN_CNT2_BOFF p)) (CAN_STK_BUSOFF p))
      (raiseO (stkLate (fcount x (CAN_CNT2_BOFF p)) (CAN_STK_BUSOFF p)) now (0x58 + p.1) p 0 0#32) :=
    Shows.refl.touches (Touches.refl.raiseO (reaches_grade _))
  have hf : Shows (Reaches [CAN_CNT2 p]) x (raiseO (stkLate (fcount x (CAN_CNT2_BOFF p)) (CAN_STK_BUSOFF p)) now (0x58 + p.1) p 0 0#32) :=
    Shows.refl.touches (((Touches.refl.fcount (f := CAN_CNT2_BOFF p) (reaches_mem (by simp [CAN_CNT2_BOFF]))).stkLate).raiseO (reaches_grade _))
  have hsts {g : Field} (hg : g.addr = CAN_STS p) : fget (raiseO (stkLate (fcount x (CAN_CNT2_BOFF p)) (CAN_STK_BUSOFF p)) now (0x58 + p.1) p 0 0#32) g =
      fget x g := hf.fget (hg ▸ not_reaches (by simp [CAN_STS]) (by simp [CAN_STS]; omega) (by simp [CAN_STS, CAN_CNT2]))
  refine ⟨?_, hs.late _ (setLate_stkLate _ _), (hsts rfl).trans he, (hsts rfl).trans hw⟩
  refine counted_of_eq (counted_fcount x (CAN_CNT2_BOFF p) (by simp [CAN_CNT2_BOFF])) hb ?_
  rw [hs.fget (not_reaches (by simp [CAN_CNT2_BOFF, CAN_CNT2]; omega) (by simp [CAN_CNT2_BOFF, CAN_CNT2]; omega) (by simp))]
  exact fget_stkLate _ _ _

theorem b2n_eq_one (b : Bool) : b2n b = 1 ↔ b = true := by cases b <;> simp [b2n]

theorem errorState_spec (ht : tec < 256) (hr : rec < 256) (hb : borec < 256) (he : es < 4) :
    fget (errorState l now p tec rec es borec) (CAN_ECNT_TEC p) = tec ∧ fget (errorState l now p tec rec es borec) (CAN_ECNT_REC p) = rec ∧
    fget (errorState l now p tec rec es borec) (CAN_ECNT_BOREC p) = borec ∧ fget (errorState l now p tec rec es borec) (CAN_STS_ESTATE p) = es ∧
    (fget l (CAN_ECNT_TEC p) < 96 ∧ 96 ≤ tec ∨ fget l (CAN_ECNT_REC p) < 96 ∧ 96 ≤ rec →
      SetLate (CAN_STK_EWARN p) (errorState l now p tec rec es borec)) ∧
    (fget (errorState l now p tec rec es borec) (CAN_STS_EWARN p) = 1 ↔ 96 ≤ tec ∨ 96 ≤ rec) ∧
    (es = 2 → fget l (CAN_STS_ESTATE p) ≠ 2 → SetLate (CAN_STK_BUSOFF p) (errorState l now p tec rec es borec) ∧
      Counted (CAN_CNT2_BOFF p) l (errorState l now p tec rec es borec)) := by
  have hp := p.isLt
  rw [errorState_eq]
  obtain ⟨h1, h2, h3⟩ := fget_countersTaken (l := l) (p := p) ht hr hb
  have hc : Shows (Reaches [CAN_ECNT p]) l (countersTaken l p tec rec borec) := by
    refine Shows.refl.touches (((Touches.refl.fset (f := CAN_ECNT_TEC p) ?_).fset (f := CAN_ECNT_REC p) ?_).fset (f := CAN_ECNT_BOREC p) ?_)
    · exact reaches_mem (by simp [CAN_ECNT_TEC])
    · exact reaches_mem (by simp [CAN_ECNT_REC])
    · exact reaches_mem (by simp [CAN_ECNT_BOREC])
  generalize countersTaken l p tec rec borec = c at *
  set up : Bool := decide (fget l (CAN_ECNT_TEC p) < 96 ∧ 96 ≤ tec) || decide (fget l (CAN_ECNT_REC p) < 96 ∧ 96 ≤ rec) with hup
  set w : Bool := decide (96 ≤ tec) || decide (96 ≤ rec) with hw
  generalize decide (es = 1 ∧ fget l (CAN_STS_ESTATE p) ≠ 1) = pas
  have hs : Shows (Reaches [CAN_STS p]) c (stateTaken (warned c p up w) p es pas) :=
    (Shows.refl.touches (touches_warned up w)).touches (touches_stateTaken pas)
  have hstate := fget_ESTATE_stateTaken (l := warned c p up w) (p := p) he pas
  have hwarn : fget (stateTaken (warned c p up w) p es pas) (CAN_STS_EWARN p) = b2n w :=
    (fget_EWARN_stateTaken pas).trans (fget_EWARN_warned up w)
  have hlate : up = true → SetLate (CAN_STK_EWARN p) (stateTaken (warned c p up w) p es pas) := fun h =>
    (Shows.refl.touches (touches_stateTaken (es := es) pas)).late _ (setLate_stkIfLate _ _ h)
  generalize stateTaken (warned c p up w) p es pas = x at *
  clear_value up w
  dsimp only
  generalize hm : (if es = 2 ∧ fget l (CAN_STS_ESTATE p) ≠ 2 then busOff x now p else x) = m
  have hxm : Shows (Reaches [CAN_STS p, CAN_CNT2 p]) x m := hm ▸ shows_busOff.ite .refl
  have hsts : fget m (CAN_STS_ESTATE p) = fget x (CAN_STS_ESTATE p) ∧ fget m (CAN_STS_EWARN p) = fget x (CAN_STS_EWARN p) := by
    rw [← hm]
    split
    · exact ⟨busOff_spec.2.2.1, busOff_spec.2.2.2⟩
    · exact ⟨rfl, rfl⟩
  have hcnt {g : Field} (hg : g.addr = CAN_ECNT p) : fget m g = fget c g := by
    rw [hxm.fget, hs.fget]
    · exact hg ▸ not_reaches (by simp [CAN_ECNT]; omega) (by simp [CAN_ECNT]; omega) (by simp [CAN_ECNT, CAN_STS])
    · exact hg ▸ not_reaches (by simp [CAN_ECNT]; omega) (by simp [CAN_ECNT]; omega) (by simp [CAN_ECNT, CAN_STS, CAN_CNT2])
  refine ⟨(hcnt rfl).trans h1, (hcnt rfl).trans h2, (hcnt rfl).trans h3, hsts.1.trans hstate, fun h => hxm.late _ (hlate ?_), ?_, fun h2 hn => ?_⟩
  · rw [hup, Bool.or_eq_true, decide_eq_true_iff, decide_eq_true_iff]
    exact h
  · rw [hsts.2, hwarn, b2n_eq_one, hw, Bool.or_eq_true, decide_eq_true_iff, decide_eq_true_iff]
  · rw [if_pos ⟨h2, hn⟩] at hm
    obtain ⟨hcount, hset, -, -⟩ := busOff_spec (l := x) (now := now) (p := p)
    rw [hm] at hcount hset
    refine ⟨hset, counted_of_eq hcount ?_ rfl⟩
    rw [hs.fget, hc.fget]
    · exact not_reaches (by simp [CAN_CNT2_BOFF, CAN_CNT2]; omega) (by simp [CAN_CNT2_BOFF, CAN_CNT2]; omega) (by simp [CAN_CNT2_BOFF, CAN_CNT2, CAN_ECNT])
    · exact not_reaches (by simp [CAN_CNT2_BOFF, CAN_CNT2]; omega) (by simp [CAN_CNT2_BOFF, CAN_CNT2]; omega) (by simp [CAN_CNT2_BOFF, CAN_CNT2, CAN_STS])

/-- What a port's counters and error state show of a report of them. -/
def CountersShown (p : CanPort) (tec rec : BitVec 8) (es : BitVec 2) (bo : Byte) (l m : Lane) : Prop :=
  fget m (CAN_ECNT_TEC p) = tec.toNat ∧ fget m (CAN_ECNT_REC p) = rec.toNat ∧ fget m (CAN_ECNT_BOREC p) = bo.toNat ∧
  fget m (CAN_STS_ESTATE p) = es.toNat ∧
  (fget l (CAN_ECNT_TEC p) < 96 ∧ 96 ≤ tec.toNat ∨ fget l (CAN_ECNT_REC p) < 96 ∧ 96 ≤ rec.toNat → SetLate (CAN_STK_EWARN p) m) ∧
  (fget m (CAN_STS_EWARN p) = 1 ↔ 96 ≤ tec.toNat ∨ 96 ≤ rec.toNat) ∧
  (es = 2#2 → fget l (CAN_STS_ESTATE p) ≠ 2 → SetLate (CAN_STK_BUSOFF p) m ∧ Counted (CAN_CNT2_BOFF p) l m)

theorem canReport_counters (tec rec : BitVec 8) (es : BitVec 2) (bo : Byte) {m : Lane} (hm : m = canReport l now p (.counters tec rec es bo)) :
    CountersShown p tec rec es bo l m := by
  have he : m = candUpdate (errorState l now p tec.toNat rec.toNat es.toNat bo.toNat) now p := hm
  obtain ⟨h1, h2, h3, h4, h5, h6, h7⟩ := errorState_spec (l := l) (now := now) (p := p) tec.isLt rec.isLt bo.isLt es.isLt
  have hs : Shows (fun _ => False) (errorState l now p tec.toNat rec.toNat es.toNat bo.toNat) m := he ▸ Shows.refl.candUpdate _ _
  generalize errorState l now p tec.toNat rec.toNat es.toNat bo.toNat = x at *
  have hg (g : Field) : fget m g = fget x g := hs.fget fun e => e
  unfold CountersShown
  rw [hg, hg, hg, hg, hg]
  refine ⟨h1, h2, h3, h4, fun h => hs.late _ (h5 h), h6, fun h hn => ?_⟩
  obtain ⟨ha, hb⟩ := h7 (by rw [h]; rfl) hn
  exact ⟨hs.late _ ha, counted_of_eq hb rfl (hg _)⟩

end
end Sys2Proof.Machine

namespace Sys2Proof.Machine

section
variable {l m n : Lane} {p : CanPort} {lo hi : Nat}

/-! ### Writes into a stretch of memory -/

/-- Memory alone changes, with its upsets, and its bytes from `lo` on and below `hi` alone. -/
structure WritesIn (lo hi : Nat) (l m : Lane) : Prop where
  frame : m = { l with mem := m.mem, ecc := m.ecc }
  bytes : ∀ c, c < lo ∨ hi ≤ c → mget8 m c = mget8 l c

protected theorem WritesIn.refl : WritesIn lo hi l l := ⟨rfl, fun _ _ => rfl⟩

protected theorem WritesIn.trans (h : WritesIn lo hi l m) (g : WritesIn lo hi m n) : WritesIn lo hi l n := by
  refine ⟨?_, fun c hc => (g.bytes c hc).trans (h.bytes c hc)⟩
  have e := congrArg (fun y : Lane => { y with mem := n.mem, ecc := n.ecc }) h.frame
  exact g.frame.trans e

protected theorem WritesIn.mono (h : WritesIn lo hi l m) {lo' hi' : Nat} (h1 : lo' ≤ lo) (h2 : hi ≤ hi') : WritesIn lo' hi' l m :=
  ⟨h.frame, fun c hc => h.bytes c (by omega)⟩

protected theorem WritesIn.mset8 (h : WritesIn lo hi l m) {a : Nat} (b : Byte) (h1 : lo ≤ a) (h2 : a < hi) : WritesIn lo hi l (mset8 m a b) :=
  h.trans ⟨rfl, fun _ _ => mget8_mset8_ne _ _ (by omega)⟩

protected theorem WritesIn.eccSet (h : WritesIn lo hi l m) (a : Nat) (e : Ecc) : WritesIn lo hi l (eccSet m a e) :=
  h.trans ⟨rfl, fun _ _ => rfl⟩

protected theorem WritesIn.mset32 (h : WritesIn lo hi l m) {a : Nat} (w : Word) (h1 : lo ≤ a) (h2 : a + 4 ≤ hi) : WritesIn lo hi l (mset32 m a w) :=
  (((h.mset8 _ h1 (by omega)).mset8 _ (by omega) (by omega)).mset8 _ (by omega) (by omega)).mset8 _ (by omega) (by omega)

protected theorem WritesIn.foldl {α : Type} {f : Lane → α → Lane} {xs : List α} (h : WritesIn lo hi l m)
    (hf : ∀ x ∈ xs, ∀ k, WritesIn lo hi k (f k x)) : WritesIn lo hi l (xs.foldl f m) := by
  induction xs generalizing m with
  | nil => exact h
  | cons x xs ih => exact ih (h.trans (hf x (List.mem_cons_self ..) m)) fun y hy => hf y (List.mem_cons_of_mem _ hy)

protected theorem WritesIn.mget32 (h : WritesIn lo hi l m) {a : Nat} (ha : a + 4 ≤ lo ∨ hi ≤ a) : mget32 m a = mget32 l a := by
  unfold Machine.mget32
  rw [h.bytes a (by omega), h.bytes (a + 1) (by omega), h.bytes (a + 2) (by omega), h.bytes (a + 3) (by omega)]

protected theorem WritesIn.rget (h : WritesIn lo hi l m) (a : Nat) : rget m a = rget l a :=
  rget_congr (congrArg Lane.regs h.frame :) (congrArg Lane.ident h.frame :) a

protected theorem WritesIn.shows {R : Nat → Prop} (h : WritesIn lo hi l m) : Shows R l m :=
  ⟨fun a _ => h.rget a, fun f hf => by
    have e : m.late = l.late := (congrArg Lane.late h.frame :)
    unfold SetLate
    rwa [e]⟩

/-! ### Receive entries (R348) -/

/-- A word of an entry written with fresh check bits. -/
def putWord (l : Lane) (a : Nat) (w : Word) : Lane := eccSet (mset32 l a w) a .none

protected theorem WritesIn.putWord (h : WritesIn lo hi l m) {a : Nat} (w : Word) (h1 : lo ≤ a) (h2 : a + 4 ≤ hi) : WritesIn lo hi l (putWord m a w) :=
  (h.mset32 w h1 h2).eccSet _ _

theorem mget32_putWord (l : Lane) (a : Nat) (w : Word) : mget32 (putWord l a w) a = w := mget32_mset32_self l a w

/-- What follows an entry's first two words. -/
def entryRest (l : Lane) (a : Nat) (soft sofe : Nat) (data : List Word) (n : Nat) : Lane :=
  let l := putWord (putWord (putWord l (a + 4 * 2) (wordOf soft)) (a + 4 * 3) (wordOf (soft / 2 ^ 32))) (a + 4 * 4) (wordOf sofe)
  let l := (List.range n).foldl (fun l i => mset8 l (a + 20 + i) ((data.getD (i / 4) 0#32).extractLsb' (8 * (i % 4)) 8)) l
  putWord (putWord (putWord l (a + 4 * 21) 0#32) (a + 4 * 22) 0#32) (a + 4 * 23) 0#32

theorem writeEntry_eq (l : Lane) (a : Nat) (w0 w1 : Word) (soft sofe : Nat) (data : List Word) (n : Nat) :
    writeEntry l a w0 w1 soft sofe data n = entryRest (putWord (putWord l (a + 4 * 0) w0) (a + 4 * 1) w1) a soft sofe data n := rfl

theorem writesIn_entryRest (l : Lane) (a : Nat) (soft sofe : Nat) (data : List Word) {n : Nat} (hn : n ≤ 64) :
    WritesIn (a + 8) (a + 0x60) l (entryRest l a soft sofe data n) := by
  unfold entryRest
  extract_lets x y
  refine ((WritesIn.putWord ?_ _ (by omega) (by omega)).putWord _ (by omega) (by omega)).putWord _ (by omega) (by omega)
  refine WritesIn.foldl (((WritesIn.refl.putWord _ (by omega) (by omega)).putWord _ (by omega) (by omega)).putWord _ (by omega) (by omega))
    fun i hi k => WritesIn.refl.mset8 _ (by omega) ?_
  have := List.mem_range.mp hi
  omega

/-- The first two words of an entry, and nothing outside it. -/
theorem writeEntry_spec (l : Lane) (a : Nat) (w0 w1 : Word) (soft sofe : Nat) (data : List Word) {n : Nat} (hn : n ≤ 64) :
    WritesIn a (a + 0x60) l (writeEntry l a w0 w1 soft sofe data n) ∧ mget32 (writeEntry l a w0 w1 soft sofe data n) a = w0 ∧
    mget32 (writeEntry l a w0 w1 soft sofe data n) (a + 4) = w1 := by
  have hr := writesIn_entryRest (putWord (putWord l (a + 4 * 0) w0) (a + 4 * 1) w1) a soft sofe data hn
  rw [writeEntry_eq]
  refine ⟨?_, ?_, ?_⟩
  · exact ((WritesIn.refl.putWord _ (by omega) (by omega)).putWord _ (by omega) (by omega)).trans (hr.mono (by omega) le_rfl)
  · rw [hr.mget32 (by omega)]
    have h1 : WritesIn (a + 4) (a + 8) (putWord l (a + 4 * 0) w0) (putWord (putWord l (a + 4 * 0) w0) (a + 4 * 1) w1) :=
      WritesIn.refl.putWord _ (by omega) (by omega)
    rw [h1.mget32 (by omega)]
    exact mget32_putWord l a w0
  · rw [hr.mget32 (by omega)]
    exact mget32_putWord _ (a + 4) w1

theorem dlcBytes_le (fdf : Bool) {dlc : Nat} : dlcBytes fdf dlc ≤ 64 := by
  unfold dlcBytes
  split
  · omega
  · split
    · omega
    · split <;> omega

end
end Sys2Proof.Machine

namespace Sys2Proof.Machine

section
variable {l m : Lane} {p : CanPort} {now sof extra : Nat} {w : CanFrame} {R : Nat → Prop}

/-! ### Receive queues (R346, R347) -/

/-- The FULL entries of a queue, its entries handed out, its sequence number and its size. -/
def qFull (q : Fin 2) (z : CanRt) : List Nat := if q = 0 then z.full0 else z.full1
def qOwn (q : Fin 2) (z : CanRt) : List Nat := if q = 0 then z.own0 else z.own1
def qSeq (q : Fin 2) (z : CanRt) : Nat := if q = 0 then z.seq0 else z.seq1
def qSize (q : Fin 2) : Nat := if q = 0 then 64 else 256

/-- The fields by which a queue counts and shows an overrun, and the one that lets it overwrite. -/
def qOvr (p : CanPort) (q : Fin 2) : Field := if q = 0 then CAN_CNT_Q0OVR p else CAN_CNT_Q1OVR p
def qOvrStk (p : CanPort) (q : Fin 2) : Field := if q = 0 then CAN_STK_Q0OVR p else CAN_STK_Q1OVR p
def qOw (p : CanPort) (q : Fin 2) : Field := if q = 0 then CAN_CFG_Q0OW p else CAN_CFG_Q1OW p

/-- An overrun counted. -/
def qLost (l : Lane) (p : CanPort) (q : Fin 2) : Lane := stkLate (fcount l (qOvr p q)) (qOvrStk p q)

/-- A queue's run data with entry `i` FULL behind `rest`. -/
def qPut (q : Fin 2) (rest : List Nat) (i : Nat) (seq : Nat) (z : CanRt) : CanRt :=
  if q = 0 then { z with full0 := rest ++ [i], seq0 := seq } else { z with full1 := rest ++ [i], seq1 := seq }

/-- A frame written into entry `i` of a queue. -/
def qStored (l : Lane) (now : Nat) (p : CanPort) (q : Fin 2) (w : CanFrame) (sof extra seq i : Nat) (rest : List Nat) : Lane :=
  raiseO (modCan (writeEntry l (entryAddr p q i) w.w0 (wordOf (w.w1.toNat % 64 + extra + 65536 * (seq % 65536)))
    (shipCode (shipAt l now sof)) (tbCode l sof) w.data (if w.w0.getLsbD 30 then 0 else dlcBytes (w.w0.getLsbD 31) (w.w1.toNat % 16)))
    p (qPut q rest i ((seq + 1) % 65536))) now ((if q.1 = 0 then 0x60 else 0x64) + p.1) p 0 0#32

theorem queueFrame_free {q : Fin 2} {e : Nat} (h : freeEntry (qSize q) (qFull q (vget l.cans p)) (qOwn q (vget l.cans p)) = some e) :
    queueFrame l now p q w sof extra = qStored l now p q w sof extra (qSeq q (vget l.cans p)) e (qFull q (vget l.cans p)) := by
  unfold queueFrame
  match q with
  | 0 =>
    have h' : freeEntry 64 (vget l.cans p).full0 (vget l.cans p).own0 = some e := h
    simp only [Fin.isValue, Fin.val_zero, if_true, h']
    rfl
  | 1 =>
    have h' : freeEntry 256 (vget l.cans p).full1 (vget l.cans p).own1 = some e := h
    simp only [Fin.isValue, Fin.val_one, one_ne_zero, if_false, h']
    rfl

theorem queueFrame_over {q : Fin 2} {e : Nat} {r : List Nat}
    (h : freeEntry (qSize q) (qFull q (vget l.cans p)) (qOwn q (vget l.cans p)) = none) (hf : qFull q (vget l.cans p) = e :: r)
    (ho : fon l (qOw p q) = true) : queueFrame l now p q w sof extra =
      qStored (qLost l p q) now p q w sof extra (qSeq q (vget l.cans p)) e r := by
  unfold queueFrame
  match q with
  | 0 =>
    have h' : freeEntry 64 (vget l.cans p).full0 (vget l.cans p).own0 = none := h
    have hf' : (vget l.cans p).full0 = e :: r := hf
    have ho' : fon l (CAN_CFG_Q0OW p) = true := ho
    rw [hf'] at h'
    simp only [Fin.isValue, Fin.val_zero, if_true, h', hf', ho']
    rfl
  | 1 =>
    have h' : freeEntry 256 (vget l.cans p).full1 (vget l.cans p).own1 = none := h
    have hf' : (vget l.cans p).full1 = e :: r := hf
    have ho' : fon l (CAN_CFG_Q1OW p) = true := ho
    rw [hf'] at h'
    simp only [Fin.isValue, Fin.val_one, one_ne_zero, if_false, if_true, h', hf', ho']
    rfl

theorem queueFrame_lost {q : Fin 2}
    (h : freeEntry (qSize q) (qFull q (vget l.cans p)) (qOwn q (vget l.cans p)) = none)
    (ho : qFull q (vget l.cans p) = [] ∨ fon l (qOw p q) = false) : queueFrame l now p q w sof extra = qLost l p q := by
  unfold queueFrame
  match q with
  | 0 =>
    have h' : freeEntry 64 (vget l.cans p).full0 (vget l.cans p).own0 = none := h
    have ho' : (vget l.cans p).full0 = [] ∨ fon l (CAN_CFG_Q0OW p) = false := ho
    cases hf : (vget l.cans p).full0 with
    | nil =>
      rw [hf] at h'
      simp only [Fin.isValue, Fin.val_zero, if_true, h', hf]
      rfl
    | cons e r =>
      rw [hf] at h'
      have ho'' : fon l (CAN_CFG_Q0OW p) = false := ho'.resolve_left (by rw [hf]; exact List.cons_ne_nil _ _)
      simp only [Fin.isValue, Fin.val_zero, if_true, h', hf, ho'', Bool.false_eq_true, if_false]
      rfl
  | 1 =>
    have h' : freeEntry 256 (vget l.cans p).full1 (vget l.cans p).own1 = none := h
    have ho' : (vget l.cans p).full1 = [] ∨ fon l (CAN_CFG_Q1OW p) = false := ho
    cases hf : (vget l.cans p).full1 with
    | nil =>
      rw [hf] at h'
      simp only [Fin.isValue, Fin.val_one, one_ne_zero, if_false, h', hf]
      rfl
    | cons e r =>
      rw [hf] at h'
      have ho'' : fon l (CAN_CFG_Q1OW p) = false := ho'.resolve_left (by rw [hf]; exact List.cons_ne_nil _ _)
      simp only [Fin.isValue, Fin.val_one, one_ne_zero, if_false, h', hf, ho'', Bool.false_eq_true]
      rfl

/-- The free entry is the lowest one that is neither FULL nor handed out. -/
theorem freeEntry_eq_some {n e : Nat} {full own : List Nat} (he : e < n) (hf : e ∉ full) (ho : e ∉ own) (hlow : ∀ j < e, j ∈ full ∨ j ∈ own) :
    freeEntry n full own = some e := by
  unfold freeEntry
  rw [List.find?_range_eq_some]
  refine ⟨?_, List.mem_range.mpr he, fun j hj => ?_⟩
  · simp [hf, ho]
  · simpa [or_comm, imp_iff_not_or] using hlow j hj

theorem freeEntry_eq_none {n : Nat} {full own : List Nat} (h : ∀ e < n, e ∈ full ∨ e ∈ own) : freeEntry n full own = none := by
  unfold freeEntry
  refine List.find?_eq_none.mpr fun e he => ?_
  rcases h e (List.mem_range.mp he) with h | h <;> simp [h]

/-- A frame stands in entry `e` of a queue, the queue's sequence number one up, and nothing else of memory changed. -/
structure Entered (p : CanPort) (q : Fin 2) (w : CanFrame) (tag e : Nat) (l m : Lane) : Prop where
  own : qOwn q (vget m.cans p) = qOwn q (vget l.cans p)
  seq : qSeq q (vget m.cans p) = (qSeq q (vget l.cans p) + 1) % 65536
  word0 : mget32 m (entryAddr p q e) = w.w0
  word1 : mget32 m (entryAddr p q e + 4) = wordOf (w.w1.toNat % 64 + tag + 65536 * (qSeq q (vget l.cans p) % 65536))
  rest : ∀ a, a < entryAddr p q e ∨ entryAddr p q e + 0x60 ≤ a → mget8 m a = mget8 l a

theorem qPut_full (q : Fin 2) (rest : List Nat) (i seq : Nat) (z : CanRt) : qFull q (qPut q rest i seq z) = rest ++ [i] := by
  unfold qFull qPut
  split <;> rfl

theorem qPut_own (q : Fin 2) (rest : List Nat) (i seq : Nat) (z : CanRt) : qOwn q (qPut q rest i seq z) = qOwn q z := by
  unfold qOwn qPut
  split <;> rfl

theorem qPut_seq (q : Fin 2) (rest : List Nat) (i seq : Nat) (z : CanRt) : qSeq q (qPut q rest i seq z) = seq := by
  unfold qSeq qPut
  split <;> rfl

/-- A frame stored: the entry, its place in the queue, the other ports, and what registers show. -/
theorem qStored_spec (l : Lane) (q : Fin 2) (i seq : Nat) (rest : List Nat) (hseq : seq = qSeq q (vget l.cans p)) :
    qFull q (vget (qStored l now p q w sof extra seq i rest).cans p) = rest ++ [i] ∧
    Entered p q w extra i l (qStored l now p q w sof extra seq i rest) ∧
    (∀ r, r ≠ p → vget (qStored l now p q w sof extra seq i rest).cans r = vget l.cans r) ∧
    Shows (Reaches []) l (qStored l now p q w sof extra seq i rest) := by
  unfold qStored
  obtain ⟨hw, h0, h1⟩ := writeEntry_spec l (entryAddr p q i) w.w0 (wordOf (w.w1.toNat % 64 + extra + 65536 * (seq % 65536)))
    (shipCode (shipAt l now sof)) (tbCode l sof) w.data (n := if w.w0.getLsbD 30 then 0 else dlcBytes (w.w0.getLsbD 31) (w.w1.toNat % 16))
    (by split; exacts [Nat.zero_le _, dlcBytes_le _])
  generalize writeEntry l (entryAddr p q i) w.w0 (wordOf (w.w1.toNat % 64 + extra + 65536 * (seq % 65536)))
    (shipCode (shipAt l now sof)) (tbCode l sof) w.data (if w.w0.getLsbD 30 then 0 else dlcBytes (w.w0.getLsbD 31) (w.w1.toNat % 16)) = x at *
  have hx : x.cans = l.cans := (congrArg Lane.cans hw.frame :)
  have ht : Touches (Reaches []) (modCan x p (qPut q rest i ((seq + 1) % 65536)))
      (raiseO (modCan x p (qPut q rest i ((seq + 1) % 65536))) now ((if q.1 = 0 then 0x60 else 0x64) + p.1) p 0 0#32) :=
    Touches.refl.raiseO (reaches_grade _)
  have hs : Shows (Reaches []) l (raiseO (modCan x p (qPut q rest i ((seq + 1) % 65536))) now ((if q.1 = 0 then 0x60 else 0x64) + p.1) p 0 0#32) :=
    (hw.shows.modCan _).touches ht
  generalize raiseO (modCan x p (qPut q rest i ((seq + 1) % 65536))) now ((if q.1 = 0 then 0x60 else 0x64) + p.1) p 0 0#32 = y at *
  have hyp : vget y.cans p = qPut q rest i ((seq + 1) % 65536) (vget l.cans p) := by rw [ht.cans, cans_modCan_self, hx]
  have hm8 (a : Nat) : mget8 y a = mget8 x a := by
    unfold mget8
    rw [ht.mem]
    rfl
  have hm32 (a : Nat) : mget32 y a = mget32 x a := by
    unfold mget32
    rw [hm8, hm8, hm8, hm8]
  refine ⟨?_, ⟨?_, ?_, ?_, ?_, fun a ha => ?_⟩, fun r hr => ?_, hs⟩
  · rw [hyp, qPut_full]
  · rw [hyp, qPut_own]
  · rw [hyp, qPut_seq, hseq]
  · rw [hm32, h0]
  · rw [hm32, h1, hseq]
  · rw [hm8, hw.bytes a ha]
  · rw [ht.cans, cans_modCan_ne _ _ hr, hx]

end
end Sys2Proof.Machine

namespace Sys2Proof.Machine

section
variable {l m x : Lane} {p : CanPort} {now sof tag e : Nat} {w : CanFrame} {q : Fin 2}

/-! ### A frame received (R342, R344 to R347) -/

/-- The live registers and the candidate follow: queues and memory stand as they were. -/
structure Summed (p : CanPort) (l m : Lane) : Prop where
  full : ∀ q, qFull q (vget m.cans p) = qFull q (vget l.cans p)
  own : ∀ q, qOwn q (vget m.cans p) = qOwn q (vget l.cans p)
  seq : ∀ q, qSeq q (vget m.cans p) = qSeq q (vget l.cans p)
  others : ∀ r, r ≠ p → vget m.cans r = vget l.cans r
  mem : m.mem = l.mem
  shows : Shows (Reaches [CAN_QSTS p, CAN_TXSTS p]) l m

theorem summed_candUpdate (x : Lane) : Summed p x (candUpdate (canSummary x p) now p) := by
  have ht : Touches (Reaches [CAN_QSTS p, CAN_TXSTS p]) x (canSummary x p) :=
    touches_canSummary p (reaches_mem (by simp)) (reaches_mem (by simp))
  have hs : Shows (Reaches [CAN_QSTS p, CAN_TXSTS p]) x (canSummary x p) := Shows.refl.touches ht
  generalize canSummary x p = y at *
  refine ⟨fun q => ?_, fun q => ?_, fun q => ?_, fun r hr => ?_, ?_, hs.candUpdate _ _⟩
  · rw [cans_candUpdate_self, ht.cans]
    rfl
  · rw [cans_candUpdate_self, ht.cans]
    rfl
  · rw [cans_candUpdate_self, ht.cans]
    rfl
  · rw [cans_candUpdate_ne _ _ hr, ht.cans]
  · exact (congrArg Lane.mem (candUpdate_frame y now p)).trans ht.mem

protected theorem Summed.entered (h : Summed p x m) (he : Entered p q w tag e l x) : Entered p q w tag e l m := by
  have h8 (a : Nat) : mget8 m a = mget8 x a := by
    unfold mget8
    rw [h.mem]
  have h32 (a : Nat) : mget32 m a = mget32 x a := by
    unfold mget32
    rw [h8, h8, h8, h8]
  exact ⟨(h.own q).trans he.own, (h.seq q).trans he.seq, (h32 _).trans he.word0, (h32 _).trans he.word1, fun a ha => (h8 a).trans (he.rest a ha)⟩

theorem qOvr_addr (p : CanPort) (q : Fin 2) : (qOvr p q).addr = CAN_CNT p := by
  unfold qOvr
  split <;> rfl

theorem qOvr_width (p : CanPort) (q : Fin 2) : (qOvr p q).lo + (qOvr p q).w ≤ 32 := by
  unfold qOvr
  split
  · simp [CAN_CNT_Q0OVR]
  · simp [CAN_CNT_Q1OVR]

theorem not_reaches_CNT {L : List Nat} (hL : CAN_CNT p ∉ L) : ¬ Reaches L (qOvr p q).addr := by
  have hp := p.isLt
  rw [qOvr_addr]
  exact not_reaches (by simp [CAN_CNT]; omega) (by simp [CAN_CNT]; omega) hL

theorem counted_qLost : Counted (qOvr p q) l (qLost l p q) :=
  counted_of_eq (counted_fcount l _ (qOvr_width p q)) rfl (fget_stkLate _ _ _)

theorem touches_qLost : Touches (fun _ => True) l (qLost l p q) := (Touches.refl.fcount trivial).stkLate

theorem entered_qLost (h : Entered p q w tag e (qLost l p q) m) : Entered p q w tag e l m := by
  have hc : (qLost l p q).cans = l.cans := touches_qLost.cans
  have hm : (qLost l p q).mem = l.mem := touches_qLost.mem
  have h8 (a : Nat) : mget8 (qLost l p q) a = mget8 l a := by
    unfold mget8
    rw [hm]
  refine ⟨?_, ?_, h.word0, ?_, fun a ha => (h.rest a ha).trans (h8 a)⟩
  · rw [h.own, hc]
  · rw [h.seq, hc]
  · rw [h.word1, hc]

/-- What queue `q` does with a frame. -/
structure Queued (p : CanPort) (q : Fin 2) (w : CanFrame) (tag : Nat) (l m : Lane) : Prop where
  others : ∀ r, r ≠ p → vget m.cans r = vget l.cans r
  free : ∀ e < qSize q, e ∉ qFull q (vget l.cans p) → e ∉ qOwn q (vget l.cans p) →
    (∀ j < e, j ∈ qFull q (vget l.cans p) ∨ j ∈ qOwn q (vget l.cans p)) →
      qFull q (vget m.cans p) = qFull q (vget l.cans p) ++ [e] ∧ Entered p q w tag e l m
  overrun : (∀ e < qSize q, e ∈ qFull q (vget l.cans p) ∨ e ∈ qOwn q (vget l.cans p)) → Counted (qOvr p q) l m ∧ SetLate (qOvrStk p q) m
  rolls : (∀ e < qSize q, e ∈ qFull q (vget l.cans p) ∨ e ∈ qOwn q (vget l.cans p)) → ∀ e r, qFull q (vget l.cans p) = e :: r →
    fget l (qOw p q) ≠ 0 → qFull q (vget m.cans p) = r ++ [e] ∧ Entered p q w tag e l m
  lost : (∀ e < qSize q, e ∈ qFull q (vget l.cans p) ∨ e ∈ qOwn q (vget l.cans p)) → qFull q (vget l.cans p) = [] ∨ ¬ fget l (qOw p q) ≠ 0 →
    qFull q (vget m.cans p) = qFull q (vget l.cans p) ∧ qOwn q (vget m.cans p) = qOwn q (vget l.cans p) ∧
      qSeq q (vget m.cans p) = qSeq q (vget l.cans p) ∧ m.mem = l.mem

theorem fon_eq_true {f : Field} (h : fget l f ≠ 0) : fon l f = true := decide_eq_true h

theorem fon_eq_false {f : Field} (h : ¬ fget l f ≠ 0) : fon l f = false := decide_eq_false h

/-- What the overrun shows is kept by what follows it. -/
theorem overrun_kept (hs : Shows (Reaches [CAN_QSTS p, CAN_TXSTS p]) (qLost l p q) m) : Counted (qOvr p q) l m ∧ SetLate (qOvrStk p q) m :=
  ⟨hs.counted (not_reaches_CNT (by simp [CAN_CNT, CAN_QSTS, CAN_TXSTS])) counted_qLost, hs.late _ (setLate_stkLate _ _)⟩

theorem shows_of_stored (hs : Shows (Reaches []) (qLost l p q) x) (hm : Summed p x m) :
    Shows (Reaches [CAN_QSTS p, CAN_TXSTS p]) (qLost l p q) m :=
  Shows.trans ⟨fun a ha => hs.regs a fun h => ha (h.elim .inl fun e => absurd e List.not_mem_nil), hs.late⟩ hm.shows

theorem queued_queueFrame : Queued p q w tag l (candUpdate (canSummary (queueFrame l now p q w sof tag) p) now p) := by
  have hm := summed_candUpdate (p := p) (now := now) (queueFrame l now p q w sof tag)
  generalize candUpdate (canSummary (queueFrame l now p q w sof tag) p) now p = m at *
  have hlc : (qLost l p q).cans = l.cans := touches_qLost.cans
  refine ⟨fun r hr => ?_, fun e he hf ho hlow => ?_, fun h => ?_, fun h e r hf ho => ?_, fun h ho => ?_⟩
  · rw [hm.others r hr]
    cases hfree : freeEntry (qSize q) (qFull q (vget l.cans p)) (qOwn q (vget l.cans p)) with
    | some e =>
      rw [queueFrame_free hfree]
      exact (qStored_spec l q e _ _ rfl).2.2.1 r hr
    | none =>
      cases hf : qFull q (vget l.cans p) with
      | nil => rw [queueFrame_lost hfree (.inl hf), hlc]
      | cons e t =>
        cases ho : fon l (qOw p q) with
        | false => rw [queueFrame_lost hfree (.inr ho), hlc]
        | true =>
          rw [queueFrame_over hfree hf ho, (qStored_spec (qLost l p q) q e _ t (by rw [hlc])).2.2.1 r hr, hlc]
  · rw [queueFrame_free (freeEntry_eq_some he hf ho hlow)] at hm
    obtain ⟨h1, h2, -, -⟩ := qStored_spec (w := w) (now := now) (sof := sof) (extra := tag) (p := p) l q e _ (qFull q (vget l.cans p)) rfl
    exact ⟨(hm.full q).trans h1, hm.entered h2⟩
  · have hfree := freeEntry_eq_none h
    cases hf : qFull q (vget l.cans p) with
    | nil =>
      rw [queueFrame_lost hfree (.inl hf)] at hm
      exact overrun_kept hm.shows
    | cons e t =>
      cases ho : fon l (qOw p q) with
      | false =>
        rw [queueFrame_lost hfree (.inr ho)] at hm
        exact overrun_kept hm.shows
      | true =>
        rw [queueFrame_over hfree hf ho] at hm
        obtain ⟨-, -, -, hs⟩ := qStored_spec (w := w) (now := now) (sof := sof) (extra := tag) (p := p) (qLost l p q) q e
          (qSeq q (vget l.cans p)) t (by rw [hlc])
        exact overrun_kept (shows_of_stored hs hm)
  · rw [queueFrame_over (freeEntry_eq_none h) hf (fon_eq_true ho)] at hm
    obtain ⟨h1, h2, -, -⟩ := qStored_spec (w := w) (now := now) (sof := sof) (extra := tag) (p := p) (qLost l p q) q e
      (qSeq q (vget l.cans p)) r (by rw [hlc])
    exact ⟨(hm.full q).trans h1, hm.entered (entered_qLost h2)⟩
  · rw [queueFrame_lost (freeEntry_eq_none h) (ho.imp_right fon_eq_false)] at hm
    rw [hm.full, hm.own, hm.seq, hm.mem, hlc, touches_qLost.mem]
    exact ⟨rfl, rfl, rfl, rfl⟩

/-- A frame that the port takes, no reference: what the thicket says becomes of it. -/
theorem frameReceived_eq (hmode : fget l (CAN_CFG_MODE p) ≠ 0) (hrole : fget l (CAN_TSCFG_ROLE p) = 0)
    (hfd : w.w0.getLsbD 31 = true → fget l (CAN_CFG_FDEN p) = 1) : frameReceived l now p w sof false =
      match thicket l p w.w0 with
      | some (k, 1) => canSummary (queueFrame l now p 0 w sof (64 * k)) p
      | some (k, 2) => canSummary (queueFrame l now p 1 w sof (64 * k)) p
      | some _ => l
      | none => if fon l (CAN_CFG_NOMATCH p) then canSummary (queueFrame l now p 1 w sof 4096) p else l := by
  have hr : refPrio l p w = none := by
    have h : fon l (CAN_TSCFG_ROLE p) = false := fon_eq_false (not_not.mpr hrole)
    unfold refPrio
    simp only [h, Bool.false_and, Bool.false_eq_true, if_false]
  have hg : (decide (fget l (CAN_CFG_MODE p) = 0) || (false && !(canLoop (fget l (CAN_CFG_MODE p)))) ||
      (w.w0.getLsbD 31 && !(fon l (CAN_CFG_FDEN p)))) = false := by
    rw [decide_eq_false hmode, Bool.false_and, Bool.false_or, Bool.false_or, Bool.and_eq_false_iff]
    cases h31 : w.w0.getLsbD 31 with
    | false => exact .inl rfl
    | true => exact .inr (by rw [fon_eq_true (by rw [hfd h31]; exact one_ne_zero)]; rfl)
  unfold frameReceived
  extract_lets mode x sf
  rw [show (decide (mode = 0) || (false && !(canLoop mode)) || (w.w0.getLsbD 31 && !(fon l (CAN_CFG_FDEN p)))) = false from hg,
    if_neg Bool.false_ne_true]
  have hx : x = l := by
    show (match refPrio l p w with | some q => if false = true then l else refReceived l now p q w sof | none => l) = l
    rw [hr]
  have hsf : sf = 0 := rfl
  clear_value x sf
  subst hx hsf
  rfl

end
end Sys2Proof.Machine

namespace Sys2Proof.Machine

section
variable {l m : Lane} {p : CanPort} {now sof eof tag : Nat} {w : CanFrame} {o : TxObj}

/-! ### What the thicket decides (R345) -/

/-- A frame goes to queue `q` with `tag` in word 1: a pair of the thicket sends it there, or it matches none and goes to Q1. -/
def GoesTo (l : Lane) (p : CanPort) (w : CanFrame) (q : Fin 2) (tag : Nat) : Prop :=
  (∃ k, thicket l p w.w0 = some (k, q.1 + 1) ∧ tag = 64 * k) ∨
    (thicket l p w.w0 = none ∧ fget l (CAN_CFG_NOMATCH p) = 1 ∧ q = 1 ∧ tag = 4096)

/-- A port takes a frame that is no reference to it. -/
structure Takes (l : Lane) (p : CanPort) (w : CanFrame) : Prop where
  mode : fget l (CAN_CFG_MODE p) ≠ 0
  role : fget l (CAN_TSCFG_ROLE p) = 0
  fd : w.w0.getLsbD 31 = true → fget l (CAN_CFG_FDEN p) = 1

theorem frameReceived_goes (h : Takes l p w) {q : Fin 2} (hq : GoesTo l p w q tag) :
    frameReceived l now p w sof false = canSummary (queueFrame l now p q w sof tag) p := by
  rw [frameReceived_eq h.mode h.role h.fd]
  rcases hq with ⟨k, ht, rfl⟩ | ⟨ht, hn, rfl, rfl⟩
  · rw [ht]
    match q with
    | 0 => rfl
    | 1 => rfl
  · rw [ht]
    exact if_pos (fon_eq_true (by rw [hn]; exact one_ne_zero))

theorem frameReceived_passes (h : Takes l p w) (ht : ∀ k a, thicket l p w.w0 = some (k, a) → a ≠ 1 ∧ a ≠ 2)
    (hn : thicket l p w.w0 = none → fget l (CAN_CFG_NOMATCH p) = 0) : frameReceived l now p w sof false = l := by
  rw [frameReceived_eq h.mode h.role h.fd]
  cases hk : thicket l p w.w0 with
  | none => exact if_neg (by rw [fon_eq_false (not_not.mpr (hn hk))]; exact Bool.false_ne_true)
  | some x =>
    obtain ⟨k, a⟩ := x
    obtain ⟨h1, h2⟩ := ht k a hk
    split
    · rename_i heq
      exact absurd (congrArg Prod.snd (Option.some.inj heq)) h1
    · rename_i heq
      exact absurd (congrArg Prod.snd (Option.some.inj heq)) h2
    · rfl
    · rename_i heq
      exact absurd heq (Option.some_ne_none _)

/-- A frame goes to a queue, or passes. -/
theorem goes_or_passes (l : Lane) (p : CanPort) (w : CanFrame) : (∃ q tag, GoesTo l p w q tag) ∨
    (∀ k a, thicket l p w.w0 = some (k, a) → a ≠ 1 ∧ a ≠ 2) ∧ (thicket l p w.w0 = none → fget l (CAN_CFG_NOMATCH p) = 0) := by
  cases hk : thicket l p w.w0 with
  | none =>
    by_cases hn : fget l (CAN_CFG_NOMATCH p) = 0
    · exact .inr ⟨fun _ _ h => absurd h.symm (Option.some_ne_none _), fun _ => hn⟩
    · have h2 := fget_lt l (CAN_CFG_NOMATCH p)
      have hw : (CAN_CFG_NOMATCH p).w = 1 := rfl
      rw [hw] at h2
      exact .inl ⟨1, 4096, .inr ⟨hk, by omega, rfl, rfl⟩⟩
  | some x =>
    obtain ⟨k, a⟩ := x
    by_cases h1 : a = 1
    · subst h1
      exact .inl ⟨0, 64 * k, .inl ⟨k, hk, rfl⟩⟩
    · by_cases h2 : a = 2
      · subst h2
        exact .inl ⟨1, 64 * k, .inl ⟨k, hk, rfl⟩⟩
      · refine .inr ⟨fun j b h => ?_, fun h => absurd h (Option.some_ne_none _)⟩
        obtain ⟨rfl, rfl⟩ := Prod.mk.inj (Option.some.inj h)
        exact ⟨h1, h2⟩

theorem canReport_received : canReport l now p (.received w sof eof false) = candUpdate (frameReceived l now p w sof false) now p := rfl

theorem received_goes (h : Takes l p w) {q : Fin 2} (hq : GoesTo l p w q tag) :
    Queued p q w tag l (canReport l now p (.received w sof eof false)) := by
  rw [canReport_received, frameReceived_goes h hq]
  exact queued_queueFrame

theorem received_others (h : Takes l p w) {r : CanPort} (hr : r ≠ p) :
    vget (canReport l now p (.received w sof eof false)).cans r = vget l.cans r := by
  obtain ⟨q, tag, hq⟩ | ⟨ht, hn⟩ := goes_or_passes l p w
  · exact (received_goes h hq).others r hr
  · rw [canReport_received, frameReceived_passes h ht hn, cans_candUpdate_ne _ _ hr]

/-! ### What the engine can give (R340, R341, R344, R354, R357) -/

theorem engineGives_idle {silent : Option Nat} (h : fget l (CAN_CFG_MODE p) = 2 ∨ fget l (CAN_CFG_MODE p) = 3) {r : CanReport}
    (hr : ∃ x, engineGives l now p silent r = (modeSends (fget l (CAN_CFG_MODE p)) && x)) : engineGives l now p silent r = false := by
  obtain ⟨x, hx⟩ := hr
  have hm : modeSends (fget l (CAN_CFG_MODE p)) = false := by rcases h with h | h <;> rw [h] <;> rfl
  rw [hx, hm, Bool.false_and]

theorem engineGives_begun_silent {z : Nat} (h : z ≤ sof) : engineGives l now p (some z) (.begun o sof) = false ∧
    engineGives l now p (some z) (.sent o sof eof) = false := by
  have hd : decide (sof < z) = false := decide_eq_false (Nat.not_lt.mpr h)
  constructor
  · show (_ && decide (sof < z) && _) = false
    rw [hd, Bool.and_false, Bool.false_and]
  · show (_ && decide (sof < z) && _) = false
    rw [hd, Bool.and_false, Bool.false_and]

theorem engineGives_counters_three {silent : Option Nat} {tec rec bo : Byte} : engineGives l now p silent (.counters tec rec 3#2 bo) = false :=
  Bool.and_false _

/-- What may not begin is not begun, nor sent unless it is under way. -/
theorem engineGives_of_mayBegin {silent : Option Nat} (h : mayBegin l now p o sof = false) : engineGives l now p silent (.begun o sof) = false ∧
    ((vget l.cans p).run ≠ some (o, sof) → engineGives l now p silent (.sent o sof eof) = false) := by
  constructor
  · show (_ && mayBegin l now p o sof) = false
    rw [h, Bool.and_false]
  · intro hn
    show (_ && (decide ((vget l.cans p).run = some (o, sof)) || mayBegin l now p o sof)) = false
    rw [h, decide_eq_false hn, Bool.or_self, Bool.and_false]

theorem mayBegin_busOff (h : fget l (CAN_STS_ESTATE p) = 2) : mayBegin l now p o sof = false := by
  show (_ && decide (fget l (CAN_STS_ESTATE p) ≠ 2)) = false
  rw [decide_eq_false (not_not.mpr h), Bool.and_false]

theorem mayBegin_not_held (hc : (vget l.cans p).cand ≠ some o) (hg : ∀ g ∈ (vget l.cans p).gone, g.1 = o → g.2 + 38400 < sof) :
    mayBegin l now p o sof = false := by
  have ha : ((vget l.cans p).gone.any fun g => decide (g.1 = o ∧ sof ≤ g.2 + 38400)) = false := by
    refine List.any_eq_false.mpr fun g hgm => ?_
    rw [decide_eq_true_iff]
    rintro ⟨h1, h2⟩
    have := hg g hgm h1
    omega
  show ((decide ((vget l.cans p).cand = some o) || (vget l.cans p).gone.any fun g => decide (g.1 = o ∧ sof ≤ g.2 + 38400)) && _ && _) = false
  rw [decide_eq_false hc, ha, Bool.or_self, Bool.false_and, Bool.false_and]

theorem mayBegin_late {k : Fin 8} {f : TxFrame} (hf : txFrame l p (.slot k) = some f) (hs : f.at_ ≤ sof) (hl : f.lim < shipAt l now sof) :
    mayBegin l now p (.slot k) sof = false := by
  unfold mayBegin
  rw [hf]
  dsimp only
  rw [decide_eq_false (Nat.not_lt.mpr hs), decide_eq_false (not_le.mpr hl), Bool.or_self, Bool.and_false, Bool.false_and]

theorem hasFrame_eq_false (hc : (vget l.cans p).cand ≠ some o) (hg : ∀ g ∈ (vget l.cans p).gone, g.1 ≠ o)
    (hr : ∀ r, (vget l.cans p).run = some r → r.1 ≠ o) : hasFrame l p o = false := by
  have ha : ((vget l.cans p).gone.any fun g => decide (g.1 = o)) = false :=
    List.any_eq_false.mpr fun g h => by
      rw [decide_eq_true_iff]
      exact hg g h
  have hrun : ((vget l.cans p).run.any fun r => decide (r.1 = o)) = false := by
    cases h : (vget l.cans p).run with
    | none => rfl
    | some r => exact decide_eq_false (hr r h)
  show (((vget l.cans p).run.any fun r => decide (r.1 = o)) || decide ((vget l.cans p).cand = some o) ||
    (vget l.cans p).gone.any fun g => decide (g.1 = o)) = false
  rw [hrun, decide_eq_false hc, ha]
  rfl

theorem engineGives_of_hasFrame {silent : Option Nat} {e : AttemptErr} (h : hasFrame l p o = false) :
    engineGives l now p silent (.arbLost o) = false ∧ engineGives l now p silent (.error o e) = false := by
  constructor
  · show (_ && hasFrame l p o) = false
    rw [h, Bool.and_false]
  · show (_ && hasFrame l p o) = false
    rw [h, Bool.and_false]

/-! ### Delivery (R35, R339) -/

/-- The cartridge of a port. -/
def portCart (p : CanPort) : FieldNo := ⟨p.1 / 2, by omega⟩

/-- The instant from which a port's cartridge has been silent. -/
def silentFrom (s : State) (p : CanPort) : Option Nat :=
  let x := vget s.fields (portCart p)
  if x.mute then some (x.heard + x.tout) else none

theorem execCanReportDelivery_absent {s u : State} {r : CanReport} (hu : u = tickTo (deliveryOf s.now r) s)
    (h : fieldPresent s (portCart p) = false) : execCanReportDelivery p r s = .next u := by
  have hf : fieldPresent u (portCart p) = false := by
    rw [hu, tickTo_fieldPresent]
    exact h
  unfold execCanReportDelivery
  extract_lets u' f x silent
  have e : u' = u := hu.symm
  clear_value u'
  subst e
  exact if_pos (by rw [show fieldPresent u' f = false from hf]; rfl)

theorem execCanReportDelivery_present {s u : State} {r : CanReport} (hu : u = tickTo (deliveryOf s.now r) s)
    (h : fieldPresent s (portCart p) = true) : execCanReportDelivery p r s =
      .next (settle (inRunning (fun l => if engineGives l u.now p (silentFrom s p) r then canReport l u.now p r else l) u)) := by
  have hf : fieldPresent u (portCart p) = true := by
    rw [hu, tickTo_fieldPresent]
    exact h
  have hs : silentFrom u p = silentFrom s p := by
    unfold silentFrom
    rw [hu, tickTo_fields]
  rw [← hs]
  unfold execCanReportDelivery
  extract_lets u' f x silent
  have e : u' = u := hu.symm
  clear_value u'
  subst e
  exact if_neg (by rw [show fieldPresent u' f = true from hf]; exact Bool.false_ne_true)

/-- A report reaches every lane that runs, as far as the engine can give it. -/
theorem canReport_delivered {P : Nat → Lane → Lane → Prop} (s : State) (p : CanPort) (r : CanReport)
    (h : ∀ now l, P now l (canReport l now p r)) : Answers (.canReportDelivery p r) s fun t =>
      s.now ≤ t.now ∧ deliveryOf s.now r ≤ t.now ∧ t.pending = s.pending ∧
      (fieldPresent s (portCart p) = false → t = tickTo (deliveryOf s.now r) s) ∧
      (fieldPresent s (portCart p) = true → Settled (tickTo (deliveryOf s.now r) s) t fun l m =>
        (engineGives l (tickTo (deliveryOf s.now r) s).now p (silentFrom s p) r = true → P (tickTo (deliveryOf s.now r) s).now l m) ∧
        (engineGives l (tickTo (deliveryOf s.now r) s).now p (silentFrom s p) r = false → m = l)) := by
  obtain ⟨u, hu⟩ : ∃ u, u = tickTo (deliveryOf s.now r) s := ⟨_, rfl⟩
  have hnow : u.now = max s.now (deliveryOf s.now r) := by rw [hu, tickTo_now]
  have hpend : u.pending = s.pending := by rw [hu, tickTo_pending]
  cases hf : fieldPresent s (portCart p) with
  | false =>
    refine ⟨u, execCanReportDelivery_absent hu hf, ?_, ?_, hpend, fun _ => hu, fun h => absurd h Bool.false_ne_true⟩
    · rw [hnow]
      exact le_max_left _ _
    · rw [hnow]
      exact le_max_right _ _
  | true =>
    refine ⟨_, execCanReportDelivery_present hu hf, ?_⟩
    rw [← hu]
    have hlane : Lanewise u (inRunning (fun l => if engineGives l u.now p (silentFrom s p) r then canReport l u.now p r else l) u) fun l m =>
        (engineGives l u.now p (silentFrom s p) r = true → P u.now l m) ∧ (engineGives l u.now p (silentFrom s p) r = false → m = l) := by
      refine lanewise_inRunning fun i _ => ⟨fun hg => ?_, fun hg => ?_⟩
      · rw [if_pos hg]
        exact h u.now (laneOf u i)
      · rw [if_neg (by rw [hg]; exact Bool.false_ne_true)]
    have hv : (inRunning (fun l => if engineGives l u.now p (silentFrom s p) r then canReport l u.now p r else l) u).now = u.now ∧
        (inRunning (fun l => if engineGives l u.now p (silentFrom s p) r then canReport l u.now p r else l) u).pending = u.pending := ⟨rfl, rfl⟩
    generalize inRunning (fun l => if engineGives l u.now p (silentFrom s p) r then canReport l u.now p r else l) u = v at *
    have hc := calm_settle v
    refine ⟨?_, ?_, ?_, fun h => absurd h.symm Bool.false_ne_true, fun _ => ⟨v, hlane, hc⟩⟩
    · rw [hc.now, hv.1, hnow]
      exact le_max_left _ _
    · rw [hc.now, hv.1, hnow]
      exact le_max_right _ _
    · rw [hc.pending, hv.2, hpend]

/-- The same, for what does not speak of the instant. -/
theorem canReport_told {P : Lane → Lane → Prop} (s : State) (p : CanPort) (r : CanReport)
    (h : ∀ now l, P l (canReport l now p r)) : Answers (.canReportDelivery p r) s fun t =>
      s.now ≤ t.now ∧ deliveryOf s.now r ≤ t.now ∧ t.pending = s.pending ∧
      (fieldPresent s (portCart p) = false → t = tickTo (deliveryOf s.now r) s) ∧
      (fieldPresent s (portCart p) = true → Settled (tickTo (deliveryOf s.now r) s) t fun l m =>
        (engineGives l (tickTo (deliveryOf s.now r) s).now p (silentFrom s p) r = true → P l m) ∧
        (engineGives l (tickTo (deliveryOf s.now r) s).now p (silentFrom s p) r = false → m = l)) :=
  canReport_delivered (P := fun _ => P) s p r h

end

/-- Settles O39: every report by what it does in a lane, delivered. -/
theorem canReportsDelivered : Obligations.CanReportsDelivered := by
  unfold Obligations.CanReportsDelivered
  intro p s
  dsimp only
  refine ⟨fun l now o sof eof e tec rec bo es => ⟨fun hmode r hr => ?_, fun z hz => engineGives_begun_silent hz, engineGives_counters_three,
      ⟨fun h => engineGives_of_mayBegin (mayBegin_busOff h), fun hc hg => engineGives_of_mayBegin (mayBegin_not_held hc hg),
        fun k f hf hs hl => engineGives_of_mayBegin (mayBegin_late hf hs hl)⟩,
      fun hc hg hr => engineGives_of_hasFrame (hasFrame_eq_false hc hg hr)⟩,
    fun w sof eof => ⟨rfl, canReport_told s p _ fun now l hmode hrole hfd => ?_⟩,
    fun k sof eof => canReport_delivered (P := SlotOut p k sof eof) s p _ fun now l => canReport_sent_slot,
    fun sof eof => canReport_told s p _ fun now l => canReport_sent_queued,
    fun k e => canReport_told s p _ fun now l f hf => canReport_error_slot hf,
    fun e => canReport_told s p _ fun now l f r hf => canReport_error_queued hf,
    fun k sof => canReport_told s p _ fun now l => canReport_begun_slot,
    fun k => canReport_told s p _ fun now l f hf => canReport_startRefused_slot hf,
    fun o => canReport_told s p _ fun now l => canReport_arbLost,
    fun tec rec es bo => canReport_told s p _ fun now l => canReport_counters tec rec es bo rfl,
    canReport_told s p _ fun now l => canReport_errorFrame,
    canReport_told s p _ fun now l h => canReport_protocolException h⟩
  · refine engineGives_idle hmode ?_
    simp only [List.mem_cons, List.not_mem_nil, or_false] at hr
    rcases hr with rfl | rfl | rfl | rfl | rfl | rfl
    · exact ⟨_, Bool.and_assoc _ _ _⟩
    · exact ⟨_, Bool.and_assoc _ _ _⟩
    · exact ⟨_, Bool.and_assoc _ _ _⟩
    · exact ⟨_, Bool.and_assoc _ _ _⟩
    · exact ⟨true, (Bool.and_true _).symm⟩
    · exact ⟨_, rfl⟩
  · have ht : Takes l p w := ⟨hmode, hrole, hfd⟩
    refine ⟨fun q hq => received_others ht hq, fun q tag hq => ?_, fun h1 h2 => ?_⟩
    · have h := received_goes (now := now) (sof := sof) (eof := eof) ht hq
      refine ⟨fun e he hf ho hlow => ?_, fun hall => ⟨h.overrun hall, fun e r hf ho => ?_, fun hl => h.lost hall hl⟩⟩
      · obtain ⟨h1, h2⟩ := h.free e he hf ho hlow
        exact ⟨h1, h2.own, h2.seq, h2.word0, h2.word1, h2.rest⟩
      · obtain ⟨h1, h2⟩ := h.rolls hall e r hf ho
        exact ⟨h1, h2.own, h2.seq, h2.word0, h2.word1, h2.rest⟩
    · rw [canReport_received, frameReceived_passes ht h1 h2]
      exact ⟨candUpdate_frame l now p, cans_candUpdate_self l now p⟩

end Sys2Proof.Machine

namespace Sys2Proof.Machine

/-!
## What the lanes ask of the world

`settle` carries out the lanes' requests. Each of them asks at most for frame-memory entries in turn, so that the second round leaves
none; where frame-memory entries are all that is asked for, `settle` leaves roles, hand-over and cartridges as they are.
-/

section
variable {l m n : Lane} {s t : State} {i j : LaneId}

/-! ### Requests that a lane adds -/

/-- A request for a frame-memory entry. -/
def IsRecord (r : LaneReq) : Prop := ∃ e, r = .frameMem e

/-- A lane's requests, with frame-memory entries added at most. -/
def AsksRecords (l m : Lane) : Prop := ∃ x, m.out = l.out ++ x ∧ ∀ r ∈ x, IsRecord r

/-- Frame-memory entries are all that a lane asks for. -/
def Told (l : Lane) : Prop := ∀ r ∈ l.out, IsRecord r

theorem asksRecords_of_eq (h : m.out = l.out) : AsksRecords l m := ⟨[], by simp [h], by simp⟩

theorem AsksRecords.refl : AsksRecords l l := asksRecords_of_eq rfl

theorem AsksRecords.trans (h : AsksRecords l m) (g : AsksRecords m n) : AsksRecords l n := by
  obtain ⟨x, hx, hr⟩ := h
  obtain ⟨y, hy, hq⟩ := g
  refine ⟨x ++ y, by rw [hy, hx, List.append_assoc], fun r h => ?_⟩
  exact (List.mem_append.mp h).elim (hr r) (hq r)

theorem AsksRecords.told (h : AsksRecords l m) (hl : Told l) : Told m := by
  obtain ⟨x, hx, hr⟩ := h
  intro r h
  rw [hx] at h
  exact (List.mem_append.mp h).elim (hl r) (hr r)

theorem told_of_nil (h : l.out = []) : Told l := fun r hr => absurd hr (by rw [h]; exact List.not_mem_nil)

theorem out_ite {c : Prop} [Decidable c] (h : m.out = l.out) (g : n.out = l.out) : (if c then m else n).out = l.out := by
  split
  · exact h
  · exact g

theorem out_fset (l : Lane) (f : Field) (v : Nat) : (fset l f v).out = l.out := rfl

theorem out_fsetB (l : Lane) (f : Field) (b : Bool) : (fsetB l f b).out = l.out := rfl

theorem out_stkSeen (l : Lane) (f : Field) : (stkSeen l f).out = l.out := by
  unfold stkSeen
  split <;> rfl

theorem out_peatWrite (l : Lane) (now kind code sev rep : Nat) (c0 c1 : Word) : (peatWrite l now kind code sev rep c0 c1).out = l.out := by
  unfold peatWrite
  extract_lets seq e
  refine out_ite (out_stkSeen l _) ?_
  rewrite [out_fsetB, out_fset]
  exact Eq.refl l.out

theorem asksRecords_fmWrite (l : Lane) (now kind code sev : Nat) (c0 c1 : Word) : AsksRecords l (fmWrite l now kind code sev c0 c1) :=
  ⟨_, rfl, fun _ h => ⟨_, List.mem_singleton.mp h⟩⟩

theorem asksRecords_setRole (now r : Nat) (l : Lane) : AsksRecords l (setRole now r l) := by
  unfold setRole
  split
  · exact .refl
  · extract_lets c0 l1 l2 l3
    have h2 : AsksRecords l l2 := asksRecords_of_eq (out_peatWrite l1 ..)
    have h3 : AsksRecords l l3 := h2.trans (asksRecords_fmWrite ..)
    exact h3.trans (asksRecords_of_eq (out_stkSeen l3 _))

theorem out_axAsk (l : Lane) (a : Axis) (e : Nat) : (axAsk l a e).out = l.out := by
  unfold axAsk
  split
  · rfl
  · extract_lets x
    split
    · split <;> rfl
    · rfl

theorem out_yieldStop (l : Lane) (a : Axis) : (yieldStop l a).out = l.out := by
  unfold yieldStop
  split
  · exact out_axAsk l a 8
  · rfl

theorem out_foldl {α : Type} {f : Lane → α → Lane} (hf : ∀ l x, (f l x).out = l.out) (xs : List α) (l : Lane) :
    (xs.foldl f l).out = l.out := by
  induction xs generalizing l with
  | nil => rfl
  | cons x xs ih => exact (ih (f l x)).trans (hf l x)

/-! ### Requests that the world carries out -/

/-- Both lanes add frame-memory entries to their requests at most. -/
def BothAskRecords (s t : State) : Prop := ∀ i, AsksRecords (laneOf s i) (laneOf t i)

theorem BothAskRecords.refl : BothAskRecords s s := fun _ => .refl

theorem BothAskRecords.trans {u : State} (h : BothAskRecords s t) (g : BothAskRecords t u) : BothAskRecords s u :=
  fun i => (h i).trans (g i)

theorem bothAskRecords_lanes (ha : AsksRecords s.la t.la) (hb : AsksRecords s.lb t.lb) : BothAskRecords s t := fun i => by
  cases i
  · exact ha
  · exact hb

theorem bothAskRecords_of_eq (ha : t.la = s.la) (hb : t.lb = s.lb) : BothAskRecords s t :=
  bothAskRecords_lanes (by rw [ha]; exact .refl) (by rw [hb]; exact .refl)

theorem bothAskRecords_modLane (s : State) (i : LaneId) {f : Lane → Lane} (h : ∀ l, AsksRecords l (f l)) :
    BothAskRecords s (modLane s i f) := by
  cases i
  · exact bothAskRecords_lanes (h _) .refl
  · exact bothAskRecords_lanes .refl (h _)

theorem bothAskRecords_inRunning (s : State) {f : Lane → Lane} (h : ∀ l, AsksRecords l (f l)) : BothAskRecords s (inRunning f s) := by
  have hc (l : Lane) : AsksRecords l (if laneRuns l then f l else l) := by
    split
    · exact h l
    · exact .refl
  exact bothAskRecords_lanes (hc _) (hc _)

theorem bothAskRecords_foldl {α : Type} {f : State → α → State} (hf : ∀ s x, BothAskRecords s (f s x)) (xs : List α) (s : State) :
    BothAskRecords s (xs.foldl f s) := by
  induction xs generalizing s with
  | nil => exact .refl
  | cons x xs ih => exact (hf s x).trans (ih _)

theorem bothAskRecords_bistShow (s : State) : BothAskRecords s (bistShow s) := by
  unfold bistShow
  extract_lets of_ b st ln put
  have hc (l : Lane) : AsksRecords l (put l) := asksRecords_of_eq (by dsimp only [put]; split <;> rfl)
  exact bothAskRecords_lanes (hc _) (hc _)

theorem bothAskRecords_wantHandover (i : LaneId) (cause : Nat) (s : State) : BothAskRecords s (wantHandover i cause s) := by
  unfold wantHandover
  extract_lets l out
  split
  · exact .refl
  · split
    · exact bothAskRecords_inRunning s fun l => asksRecords_of_eq (out_foldl out_yieldStop _ _)
    · split
      · exact bothAskRecords_modLane s i fun l => asksRecords_of_eq rfl
      · split
        · exact bothAskRecords_inRunning { s with hoOut := out } fun l => asksRecords_of_eq rfl
        · exact bothAskRecords_of_eq rfl rfl

theorem bothAskRecords_hoEnd (s : State) : BothAskRecords s (hoEnd s) :=
  bothAskRecords_lanes (asksRecords_of_eq rfl) (asksRecords_of_eq rfl)

theorem bothAskRecords_safeEntered (i : LaneId) (s : State) : BothAskRecords s (safeEntered i s) := by
  unfold safeEntered
  split
  · extract_lets u
    have hu : BothAskRecords s u := bothAskRecords_of_eq rfl rfl
    split
    · exact hu
    all_goals
      split
      · exact hu.trans (bothAskRecords_hoEnd u)
      · exact hu
  · exact .refl

theorem bothAskRecords_bistBegin (i : LaneId) (run roll : Nat) (s : State) : BothAskRecords s (bistBegin i run roll s) := by
  unfold bistBegin
  refine BothAskRecords.trans ?_ (bothAskRecords_bistShow _)
  have h := bothAskRecords_modLane s i fun l => asksRecords_setRole s.now roleOut l
  exact fun j => by cases j; exacts [h .A, h .B]

theorem bothAskRecords_bistRefuse (s : State) : BothAskRecords s (bistRefuse s) :=
  bothAskRecords_inRunning s fun _ => asksRecords_of_eq rfl

theorem bothAskRecords_bistCmd (run : Nat) (tgt : Bool) (s : State) : BothAskRecords s (bistCmd run tgt s) := by
  unfold bistCmd
  split
  · exact .refl
  · repeat' split
    · exact bothAskRecords_bistBegin _ _ _ _
    · exact bothAskRecords_bistRefuse s
    · exact bothAskRecords_of_eq rfl rfl
    · exact BothAskRecords.trans (bothAskRecords_of_eq rfl rfl) (bothAskRecords_wantHandover _ _ _)
    · exact bothAskRecords_bistBegin _ _ _ _
    · exact bothAskRecords_bistRefuse s

theorem bothAskRecords_rollNow (s : State) : BothAskRecords s (rollNow s) := by
  unfold rollNow
  split
  · exact .refl
  · split
    · exact .refl
    · unfold rollStart
      split
      · exact .refl
      · split
        · exact BothAskRecords.trans (bothAskRecords_of_eq rfl rfl) (bothAskRecords_bistShow _)
        · exact bothAskRecords_bistBegin _ _ _ _

theorem foldl_lanes {α : Type} {g : State → α → State} (hg : ∀ s x, (g s x).la = s.la ∧ (g s x).lb = s.lb) (xs : List α) (s : State) :
    (xs.foldl g s).la = s.la ∧ (xs.foldl g s).lb = s.lb := by
  induction xs generalizing s with
  | nil => exact ⟨rfl, rfl⟩
  | cons x xs ih => exact ⟨(ih _).1.trans (hg s x).1, (ih _).2.trans (hg s x).2⟩

theorem linkDark_lanes (k : LinkNo) (s : State) : (linkDark k s).la = s.la ∧ (linkDark k s).lb = s.lb := by
  unfold linkDark
  extract_lets u
  refine foldl_lanes (fun s q => ?_) _ u
  exact ⟨rfl, rfl⟩

theorem bothAskRecords_fieldDrive (i : LaneId) (f : FieldNo) (g : FieldRt → FieldRt) (s : State) : BothAskRecords s (fieldDrive i f g s) := by
  unfold fieldDrive
  extract_lets x
  split <;> exact bothAskRecords_of_eq rfl rfl

theorem bothAskRecords_releaseSafe (i : LaneId) (f : FieldNo) (s : State) : BothAskRecords s (releaseSafe i f s) := by
  unfold releaseSafe
  extract_lets x l
  split <;> exact bothAskRecords_of_eq rfl rfl

/-- A request carried out asks for frame-memory entries at most. -/
theorem bothAskRecords_serveReq (i : LaneId) (r : LaneReq) (s : State) : BothAskRecords s (serveReq i r s) := by
  cases r with
  | handover c => exact bothAskRecords_wantHandover i c s
  | yieldNamed n =>
    unfold serveReq
    dsimp only
    split
    · exact bothAskRecords_wantHandover _ _ _
    · exact .refl
  | claimDrop =>
    unfold serveReq
    dsimp only
    split
    · exact bothAskRecords_wantHandover _ _ _
    · exact bothAskRecords_modLane s i fun l => asksRecords_setRole _ _ l
  | frameMem e =>
    unfold serveReq
    dsimp only
    split <;> exact bothAskRecords_of_eq rfl rfl
  | srel mask =>
    unfold serveReq
    dsimp only
    refine bothAskRecords_foldl (fun s f => ?_) _ s
    split
    · exact bothAskRecords_releaseSafe i f s
    · exact .refl
  | output o on => exact bothAskRecords_fieldDrive _ _ _ _
  | compare e t w => exact bothAskRecords_fieldDrive _ _ _ _
  | pulse e edges => exact bothAskRecords_fieldDrive _ _ _ _
  | bist run tgt =>
    unfold serveReq
    dsimp only
    split
    · exact bothAskRecords_bistCmd _ _ _
    · exact .refl
  | rnow =>
    unfold serveReq
    dsimp only
    split
    · exact bothAskRecords_rollNow s
    · exact .refl
  | safeIn => exact bothAskRecords_safeEntered i s
  | cordCmd c => cases i <;> exact bothAskRecords_of_eq rfl rfl
  | linkShut k =>
    unfold serveReq
    dsimp only
    refine BothAskRecords.trans (t := if (vget s.links k).shut then s else
      linkDark k { s with links := vmod s.links k fun x => { x with shut := true } }) ?_ (bothAskRecords_modLane _ i fun l => ?_)
    · split
      · exact .refl
      · obtain ⟨ha, hb⟩ := linkDark_lanes k { s with links := vmod s.links k fun x => { x with shut := true } }
        exact bothAskRecords_of_eq ha hb
    · exact AsksRecords.trans (asksRecords_of_eq ((out_peatWrite ..).trans (out_stkSeen ..))) (asksRecords_fmWrite ..)
  | fault => exact bothAskRecords_modLane s i fun l => asksRecords_setRole _ _ l

/-! ### `serveAll` and `settle` -/

/-- The state with no request of a lane left. -/
def unasked (s : State) : State := { s with la := { s.la with out := [] }, lb := { s.lb with out := [] } }

theorem serveAll_eq (s : State) : serveAll s =
    s.lb.out.foldl (fun s r => serveReq .B r s) (s.la.out.foldl (fun s r => serveReq .A r s) (unasked s)) := rfl

theorem serveAll_told (s : State) (i : LaneId) : Told (laneOf (serveAll s) i) := by
  have hu : Told (laneOf (unasked s) i) := told_of_nil (by cases i <;> rfl)
  have h := (bothAskRecords_foldl (fun s r => bothAskRecords_serveReq .A r s) s.la.out (unasked s)).trans
    (bothAskRecords_foldl (fun s r => bothAskRecords_serveReq .B r s) s.lb.out _)
  rw [serveAll_eq]
  exact (h i).told hu

theorem serveReq_record {r : LaneReq} (h : IsRecord r) (i : LaneId) (s : State) : serveReq i r s = { s with fm := (serveReq i r s).fm } := by
  obtain ⟨e, rfl⟩ := h
  unfold serveReq
  dsimp only
  split <;> rfl

theorem foldl_serveReq_records {xs : List LaneReq} (h : ∀ r ∈ xs, IsRecord r) (i : LaneId) (s : State) :
    xs.foldl (fun s r => serveReq i r s) s = { s with fm := (xs.foldl (fun s r => serveReq i r s) s).fm } := by
  induction xs generalizing s with
  | nil => rfl
  | cons r xs ih =>
    have e := serveReq_record (h r List.mem_cons_self) i s
    rw [List.foldl_cons]
    have g := ih (fun q hq => h q (List.mem_cons_of_mem r hq)) (serveReq i r s)
    generalize (List.foldl (fun s r => serveReq i r s) (serveReq i r s) xs) = u at *
    rw [e] at g
    exact g

/-- Where frame-memory entries are all that is asked for, frame memory is all that changes. -/
theorem serveAll_of_told (h : ∀ i, Told (laneOf s i)) : serveAll s = { unasked s with fm := (serveAll s).fm } := by
  have ha : ∀ r ∈ s.la.out, IsRecord r := h .A
  have hb : ∀ r ∈ s.lb.out, IsRecord r := h .B
  have ea := foldl_serveReq_records ha .A (unasked s)
  rw [serveAll_eq]
  generalize s.la.out.foldl (fun s r => serveReq .A r s) (unasked s) = u at *
  have eb := foldl_serveReq_records hb .B u
  generalize s.lb.out.foldl (fun s r => serveReq .B r s) u = v at *
  rw [ea] at eb
  exact eb

theorem out_seePeer (up : Bool) (peer : Lane) (c0 c1 : Bool) (l : Lane) : (seePeer up peer c0 c1 l).out = l.out := by
  unfold seePeer stkSeenIf
  extract_lets p was follows pair l1 l2 l3 l4
  have h2 : l2.out = l.out := by
    dsimp only [l2]
    split
    · exact out_stkSeen l1 _
    · rfl
  have h3 : l3.out = l2.out := by
    dsimp only [l3]
    split <;> rfl
  exact h3.trans h2

theorem laneOf_peers (s : State) (i : LaneId) : laneOf (peers s) i = if (laneOf s i).powered then
    seePeer (xlnOn s) (laneOf s (otherLane i)) (vget s.xlnUp 0) (vget s.xlnUp 1) (laneOf s i) else laneOf s i := by
  cases i <;> rfl

theorem selectors_eq (s : State) : selectors s = s ∨ ∃ i, selectors s = { s with
    links := s.links.map fun k => { k with sel := i }, fields := s.fields.map fun f => { f with sel := i } } := by
  unfold selectors
  extract_lets take put
  split
  · exact .inr ⟨.A, rfl⟩
  · split
    · exact .inr ⟨.B, rfl⟩
    · exact .inl rfl

theorem laneOf_selectors (s : State) (i : LaneId) : laneOf (selectors s) i = laneOf s i := by
  obtain h | ⟨j, h⟩ := selectors_eq s
  · rw [h]
  · rw [h]
    cases i <;> rfl

/-- Nothing is left asked for. -/
theorem settle_out (s : State) (i : LaneId) : (laneOf (settle s) i).out = [] := by
  have h : (laneOf (serveAll (serveAll s)) i).out = [] := by
    rw [serveAll_of_told (serveAll_told s)]
    cases i <;> rfl
  unfold settle
  rw [laneOf_selectors, laneOf_peers]
  split
  · rw [out_seePeer, h]
  · exact h

/-! ### Quiet changes in which a lane's role stands -/

/-- A lane changed quietly, its role and what FLT_STS shows as they were. -/
structure Noted (l m : Lane) : Prop where
  quiet : Quiet l m
  role : roleOf m = roleOf l
  sts : rget m FLT_STS = rget l FLT_STS

theorem Noted.refl : Noted l l := ⟨.refl l, rfl, rfl⟩

theorem Noted.trans (h : Noted l m) (g : Noted m n) : Noted l n := ⟨h.quiet.trans g.quiet, g.role.trans h.role, g.sts.trans h.sts⟩

theorem noted_of_regs (hq : Quiet l m) (h1 : rget m SYS_STS = rget l SYS_STS) (h2 : rget m FLT_STS = rget l FLT_STS) : Noted l m :=
  ⟨hq, by unfold roleOf fget; rw [show SYS_STS_LROLE.addr = SYS_STS from rfl, h1], h2⟩

theorem Touches.noted {R : Nat → Prop} (h : Touches R l m) (hq : Quiet l m) (h1 : ¬ R SYS_STS) (h2 : ¬ R FLT_STS) : Noted l m :=
  noted_of_regs hq (h.regs _ h1) (h.regs _ h2)

theorem noted_out (l : Lane) (x : List LaneReq) : Noted l { l with out := x } :=
  ⟨⟨rfl, fun _ => rfl, fun _ _ => rfl, late_same l⟩, rfl, rfl⟩

theorem not_peatReg_SYS_STS : ¬ PeatReg SYS_STS := by simp [PeatReg, SYS_STS, PEAT_STS, PEAT_STK, PEAT_HEAD, FLT_STK]

theorem not_peatReg_FLT_STS : ¬ PeatReg FLT_STS := by simp [PeatReg, FLT_STS, PEAT_STS, PEAT_STK, PEAT_HEAD, FLT_STK]

theorem noted_peatWrite (l : Lane) (now kind code sev rep : Nat) (c0 c1 : Word) : Noted l (peatWrite l now kind code sev rep c0 c1) :=
  (Touches.refl.peatWrite fun _ h => h).noted (quiet_peatWrite ..) not_peatReg_SYS_STS not_peatReg_FLT_STS

theorem noted_fmWrite (l : Lane) (now kind code sev : Nat) (c0 c1 : Word) : Noted l (fmWrite l now kind code sev c0 c1) := noted_out l _

theorem noted_seePeer (up : Bool) (peer : Lane) (c0 c1 : Bool) (l : Lane) : Noted l (seePeer up peer c0 c1 l) := by
  refine ⟨quiet_seePeer up peer c0 c1 l, ?_, ?_⟩
  · unfold seePeer stkSeenIf stkSeen
    extract_lets p was follows pair l1 l2 l3 l4
    have h1 : fget l1 SYS_STS_LROLE = fget l SYS_STS_LROLE := by
      rw [fget_fsetB_apart _ SYS_STS_SOLO SYS_STS_LROLE _ rfl (by simp [SYS_STS_SOLO, SYS_STS_LROLE]) (by simp [SYS_STS_SOLO]),
        fget_fsetB_apart _ SYS_STS_PEERUP SYS_STS_LROLE _ rfl (by simp [SYS_STS_PEERUP, SYS_STS_LROLE]) (by simp [SYS_STS_PEERUP])]
    have h2 : Touches (fun a => a = SYS_STK ∨ a = FLT_STK ∨ a = XLN_STS) l1
        (fsetB (fsetB l4 XLN_STS_CH0UP (up && c0)) XLN_STS_CH1UP (up && c1)) := by
      have h2 : Touches (fun a => a = SYS_STK ∨ a = FLT_STK ∨ a = XLN_STS) l1 l2 :=
        .ite (.ite (.stkLate .refl) (.stk .refl (.inl rfl) (.inr (.inl rfl)))) .refl
      have h3 : Touches (fun a => a = SYS_STK ∨ a = FLT_STK ∨ a = XLN_STS) l1 l3 := .ite (h2.fset (.inr (.inr rfl))) h2
      exact .fsetB (.fsetB (.fsetB h3 (.inr (.inr rfl))) (.inr (.inr rfl))) (.inr (.inr rfl))
    unfold roleOf
    rw [h2.fget (f := SYS_STS_LROLE) (by simp [SYS_STS_LROLE, SYS_STS, SYS_STK, FLT_STK, XLN_STS]), h1]
  · unfold seePeer stkSeenIf stkSeen
    extract_lets p was follows pair l1 l2 l3 l4
    have h2 : Touches (fun a => a = SYS_STS ∨ a = SYS_STK ∨ a = FLT_STK ∨ a = XLN_STS) l
        (fsetB (fsetB l4 XLN_STS_CH0UP (up && c0)) XLN_STS_CH1UP (up && c1)) := by
      have h1 : Touches (fun a => a = SYS_STS ∨ a = SYS_STK ∨ a = FLT_STK ∨ a = XLN_STS) l l1 := .fsetB (.fsetB .refl (.inl rfl)) (.inl rfl)
      have h2 : Touches (fun a => a = SYS_STS ∨ a = SYS_STK ∨ a = FLT_STK ∨ a = XLN_STS) l l2 :=
        .ite (.ite (.stkLate h1) (.stk h1 (.inr (.inl rfl)) (.inr (.inr (.inl rfl))))) h1
      have hx : XLN_STS = SYS_STS ∨ XLN_STS = SYS_STK ∨ XLN_STS = FLT_STK ∨ XLN_STS = XLN_STS := .inr (.inr (.inr rfl))
      have h3 : Touches (fun a => a = SYS_STS ∨ a = SYS_STK ∨ a = FLT_STK ∨ a = XLN_STS) l l3 := .ite (h2.fset hx) h2
      exact .fsetB (.fsetB (.fsetB h3 hx) hx) hx
    exact h2.regs FLT_STS (by simp [FLT_STS, SYS_STS, SYS_STK, FLT_STK, XLN_STS])

/-! ### `settle` where frame-memory entries are all that is asked for -/

theorem noted_peers (s : State) (i : LaneId) : Noted (laneOf s i) (laneOf (peers s) i) := by
  rw [laneOf_peers]
  split
  · exact noted_seePeer ..
  · exact .refl

theorem noted_unasked (s : State) (i : LaneId) : Noted (laneOf s i) (laneOf (unasked s) i) := by
  cases i
  · exact noted_out s.la []
  · exact noted_out s.lb []

theorem noted_serveAll_of_told (h : ∀ i, Told (laneOf s i)) (i : LaneId) : Noted (laneOf s i) (laneOf (serveAll s) i) := by
  rw [serveAll_of_told h]
  exact noted_unasked s i

/-- After the first round of requests only what frame memory takes and how the lanes see each other is left. -/
theorem noted_settle_serveAll (s : State) (i : LaneId) : Noted (laneOf (serveAll s) i) (laneOf (settle s) i) := by
  unfold settle
  rw [laneOf_selectors]
  exact (noted_serveAll_of_told (serveAll_told s) i).trans (noted_peers _ i)

end
end Sys2Proof.Machine

namespace Sys2Proof.Machine

/-! ### Waking (R401), and what changes no raised source -/

section
variable {l m : Lane} {s t : State}

/-- What becomes of a lane that answers `f` to a wake-up. -/
def wokenBy (f : Lane → Option (Nat × Nat × Nat)) (now : Nat) (l : Lane) : Lane :=
  match (if asleep l then f l else none) with
  | some x => wakeLane now x l
  | none => l

theorem wokenBy_awake {f : Lane → Option (Nat × Nat × Nat)} {now : Nat} (h : asleep l = false) : wokenBy f now l = l := by
  unfold wokenBy
  rw [h]
  rfl

/-- No lane wakes. -/
theorem wakeBy_idle {f : Lane → Option (Nat × Nat × Nat)} (h : ∀ i, (if asleep (laneOf s i) then f (laneOf s i) else none) = none) :
    wakeBy f s = s := by
  unfold wakeBy
  extract_lets due
  have ha : due s.la = none := h .A
  have hb : due s.lb = none := h .B
  exact if_pos ⟨by rw [ha]; rfl, by rw [hb]; rfl⟩

theorem wakeBy_awake {f : Lane → Option (Nat × Nat × Nat)} (h : ∀ i, asleep (laneOf s i) = false) : wakeBy f s = s :=
  wakeBy_idle fun i => by rw [h i]; rfl

/-- A lane wakes: the time base restarts, the link transmitters resume. -/
theorem wakeBy_eq {f : Lane → Option (Nat × Nat × Nat)} {u : State} (hu : u = restartBase s)
    (h : ∃ i, (if asleep (laneOf s i) then f (laneOf s i) else none).isSome = true) : wakeBy f s =
    settle { u with la := wokenBy f u.now u.la, lb := wokenBy f u.now u.lb, links := u.links.map fun k => { k with dark := k.shut } } := by
  unfold wakeBy
  extract_lets due u' up
  have e : u' = u := hu.symm
  clear_value u'
  subst e
  have hup (l : Lane) : up l = wokenBy f u'.now l := by
    dsimp only [up, due]
    unfold wokenBy
    generalize (if asleep l then f l else none) = o
    cases o <;> rfl
  clear_value up
  rewrite [← hup, ← hup]
  refine if_neg fun hn => ?_
  obtain ⟨i, hi⟩ := h
  cases i
  · have hd : (due s.la).isSome = true := hi
    rw [Option.isNone_iff_eq_none.mp hn.1] at hd
    exact absurd hd (by simp)
  · have hd : (due s.lb).isSome = true := hi
    rw [Option.isNone_iff_eq_none.mp hn.2] at hd
    exact absurd hd (by simp)

/-- A lane drops the entry into DORMANT that it waits for when a watched source is seen (R398). -/
def staysUp (w : WakeSrc) (l : Lane) : Lane :=
  if l.dormReq && (wakeCode l w).isSome then stkLate { l with dormReq := false } CLK_STK_DORMABT else l

theorem wakeSeen_eq (w : WakeSrc) (s : State) :
    wakeSeen w s = wakeBy (fun l => wakeCode l w) { s with la := staysUp w s.la, lb := staysUp w s.lb } := rfl

/-! #### Requests -/

theorem out_stk (l : Lane) (f : Field) : (stk l f).out = l.out := rfl

theorem asksRecords_wakeLane (now : Nat) (x : Nat × Nat × Nat) (l : Lane) : AsksRecords l (wakeLane now x l) := by
  unfold wakeLane
  extract_lets l1 k l2 l3 l4
  have h1 : l1.out = l.out := rfl
  have hk : k.out = l1.out := (out_stk _ _).trans (out_fset _ _ _)
  have h2 : l2.out = k.out := rfl
  have h3 : l3.out = l2.out := by
    refine out_foldl (fun l b => ?_) _ l2
    rw [out_fsetB, out_fsetB]
    exact out_ite rfl (out_fset _ _ _)
  have h4 : l4.out = l3.out := out_peatWrite ..
  clear_value l4
  exact (asksRecords_of_eq (h4.trans (h3.trans (h2.trans (hk.trans h1))))).trans (asksRecords_fmWrite ..)

theorem asksRecords_wokenBy (f : Lane → Option (Nat × Nat × Nat)) (now : Nat) (l : Lane) : AsksRecords l (wokenBy f now l) := by
  unfold wokenBy
  generalize (if asleep l then f l else none) = o
  cases o with
  | none => exact .refl
  | some x => exact asksRecords_wakeLane now x l

/-! #### Raised sources that wait -/

/-- The raised sources that wait in the lanes are the same. -/
def SameVis (s t : State) : Prop := ∀ i, (laneOf t i).vis = (laneOf s i).vis

theorem SameVis.refl : SameVis s s := fun _ => rfl

theorem SameVis.trans {u : State} (h : SameVis s t) (g : SameVis t u) : SameVis s u := fun i => (g i).trans (h i)

theorem sameVis_lanes (ha : t.la.vis = s.la.vis) (hb : t.lb.vis = s.lb.vis) : SameVis s t := fun i => by
  cases i
  · exact ha
  · exact hb

theorem Calm.sameVis (h : Calm s t) : SameVis s t := fun i => (h.lanes i).vis

theorem vis_stkSeen (l : Lane) (f : Field) : (stkSeen l f).vis = l.vis := by
  unfold stkSeen
  split <;> rfl

theorem vis_foldl {α : Type} {f : Lane → α → Lane} (hf : ∀ l x, (f l x).vis = l.vis) (xs : List α) (l : Lane) :
    (xs.foldl f l).vis = l.vis := by
  induction xs generalizing l with
  | nil => rfl
  | cons x xs ih => exact (ih (f l x)).trans (hf l x)

theorem vis_ite {c : Prop} [Decidable c] {n : Lane} (h : m.vis = l.vis) (g : n.vis = l.vis) : (if c then m else n).vis = l.vis := by
  split
  · exact h
  · exact g

theorem vis_wakeLane (now : Nat) (x : Nat × Nat × Nat) (l : Lane) : (wakeLane now x l).vis = l.vis := by
  unfold wakeLane
  extract_lets l1 k l2 l3 l4
  have h1 : l1.vis = l.vis := rfl
  have hk : k.vis = l1.vis := (stk_vis _ _).trans (fset_vis _ _ _)
  have h2 : l2.vis = k.vis := rfl
  have h3 : l3.vis = l2.vis := by
    refine vis_foldl (fun l b => ?_) _ l2
    rw [fsetB_vis, fsetB_vis]
    exact vis_ite rfl (fset_vis _ _ _)
  have h4 : l4.vis = l3.vis := (quiet_peatWrite ..).vis
  clear_value l4
  exact (quiet_fmWrite ..).vis.trans (h4.trans (h3.trans (h2.trans (hk.trans h1))))

theorem vis_wokenBy (f : Lane → Option (Nat × Nat × Nat)) (now : Nat) (l : Lane) : (wokenBy f now l).vis = l.vis := by
  unfold wokenBy
  generalize (if asleep l then f l else none) = o
  cases o with
  | none => rfl
  | some x => exact vis_wakeLane now x l

theorem sameVis_tickTo (t : Nat) (s : State) : SameVis s (tickTo t s) := fun i => (congrArg Lane.vis (timePassed_tickTo t s i).rest :)

theorem restartBase_eq {t : Nat} (ht : t = ceilTo 3200000 s.now) : restartBase s = { (tickTo t s) with t1At := t } := by
  unfold restartBase
  extract_lets t'
  have e : t' = t := ht.symm
  clear_value t'
  subst e
  rfl

theorem laneOf_restartBase {t : Nat} (ht : t = ceilTo 3200000 s.now) (i : LaneId) : laneOf (restartBase s) i = laneOf (tickTo t s) i := by
  rw [restartBase_eq ht]
  generalize tickTo t s = u
  cases i <;> rfl

theorem sameVis_restartBase (s : State) : SameVis s (restartBase s) := fun i => by
  rw [laneOf_restartBase rfl]
  exact sameVis_tickTo _ s i

theorem sameVis_wakeBy (f : Lane → Option (Nat × Nat × Nat)) (s : State) : SameVis s (wakeBy f s) := by
  by_cases h : ∃ i, (if asleep (laneOf s i) then f (laneOf s i) else none).isSome = true
  · obtain ⟨u, hu⟩ : ∃ u, u = restartBase s := ⟨_, rfl⟩
    rw [wakeBy_eq hu h]
    have hv : SameVis s u := hu ▸ sameVis_restartBase s
    exact (hv.trans (sameVis_lanes (vis_wokenBy f _ _) (vis_wokenBy f _ _))).trans (calm_settle _).sameVis
  · rw [wakeBy_idle fun i => Option.not_isSome_iff_eq_none.mp fun hi => h ⟨i, hi⟩]
    exact .refl

theorem vis_staysUp (w : WakeSrc) (l : Lane) : (staysUp w l).vis = l.vis := by
  unfold staysUp
  split <;> rfl

theorem sameVis_wakeSeen (w : WakeSrc) (s : State) : SameVis s (wakeSeen w s) := by
  rw [wakeSeen_eq]
  exact (sameVis_lanes (vis_staysUp w s.la) (vis_staysUp w s.lb)).trans (sameVis_wakeBy _ _)

theorem sameVis_bistOver (i : LaneId) (s : State) : SameVis s (bistOver i s) := by
  unfold bistOver
  split
  · exact ((calm_bistKeep _ s).trans (calm_bistShow _)).sameVis
  · exact .refl

theorem sameVis_modLane (s : State) (i : LaneId) {f : Lane → Lane} (h : ∀ l, (f l).vis = l.vis) : SameVis s (modLane s i f) := by
  cases i
  · exact sameVis_lanes (h _) rfl
  · exact sameVis_lanes rfl (h _)

theorem vis_setRole (now r : Nat) (l : Lane) : (setRole now r l).vis = l.vis := (quiet_setRole now r l).vis

theorem sameVis_joinLane (i : LaneId) (s : State) : SameVis s (joinLane i s) := by
  unfold joinLane
  extract_lets l o p take
  have ht (s : State) : SameVis s (take s) := by
    refine SameVis.trans ?_ (sameVis_bistOver i _)
    refine sameVis_modLane s i fun l => ?_
    rw [vis_setRole]
  split
  · exact .refl
  · split
    · split
      · exact .refl
      · split
        · exact sameVis_modLane s i fun l => vis_setRole _ _ _
        · refine sameVis_modLane s i fun l => ?_
          rw [stk_vis]
    · split
      · split
        · exact ht s
        · exact .refl
      · split
        · exact .refl
        · exact ht s

theorem sameVis_joinLanes (s : State) : SameVis s (joinLanes s) := by
  have h := ((sameVis_joinLane .A s).trans (sameVis_joinLane .B _)).trans (sameVis_joinLane .A _)
  unfold joinLanes
  generalize joinLane .A (joinLane .B (joinLane .A s)) = u at *
  exact h.trans (calm_settle u).sameVis

end
end Sys2Proof.Machine

namespace Sys2Proof.Machine

/-! ### A supply that changes while a lane's own request is under way

A change of a supply wakes a lane that sleeps, and the wake-up carries out what both lanes have asked for. A lane in STANDBY that has
asked to give up its claim after a clock fault at S5 (R433) is then in FAULT before it notes the change: it no longer runs the program,
and its sticky condition shows at once. The clause on supplies has it wait for the boundary, whatever the lane has asked for. -/

section
variable {l : Lane} {s : State}

/-- A lane that drops its claim without being ACTIVE is in FAULT when the requests have been carried out. -/
theorem roleOf_settle_claimDrop (ha : s.la.out = [.claimDrop]) (hb : Told s.lb) (hact : laneActive s.la = false) :
    roleOf (laneOf (settle s) .A) = roleFault := by
  have hserve : serveReq .A .claimDrop (unasked s) = modLane (unasked s) .A (setRole s.now roleFault) :=
    if_neg fun h => Bool.false_ne_true (hact.symm.trans h.1)
  rw [(noted_settle_serveAll s .A).role, serveAll_eq, ha, List.foldl_cons, List.foldl_nil, hserve, foldl_serveReq_records hb]
  exact roleOf_setRole s.now (by decide) _

theorem laneRuns_of_fault (h : roleOf l = roleFault) : laneRuns l = false := by
  have hr : fget l SYS_STS_LROLE = 4 := h
  unfold laneRuns laneJoined
  rw [hr]
  simp

/-- The registers that show the supplies. -/
def SupplyReg (a : Nat) : Prop := a = CLK_STS ∨ ∃ x < 2, a = CLK_PS x

theorem not_supplyReg_SYS_STS : ¬ SupplyReg SYS_STS := by
  rintro (h | ⟨x, -, h⟩)
  · simp [SYS_STS, CLK_STS] at h
  · unfold SYS_STS CLK_PS at h
    omega

theorem touches_showSupplies (s : State) (l : Lane) : Touches SupplyReg l (showSupplies s l) := by
  have h0 : SupplyReg (CLK_PS 0) := .inr ⟨0, by decide, rfl⟩
  have h1 : SupplyReg (CLK_PS 1) := .inr ⟨1, by decide, rfl⟩
  have hs : SupplyReg CLK_STS := .inl rfl
  unfold showSupplies
  extract_lets one a b l1
  have hl : Touches SupplyReg l l1 :=
    .fsetB (.fsetB (.fset (.fset (.fsetB (.fsetB (.fset (.fset .refl h0) h0) h0) h0) h1) h1) h1) h1
  exact .fsetB (.fsetB (.fsetB hl hs) hs) hs

theorem showSupplies_moved (s : State) (l : Lane) : RegsMoved l (showSupplies s l) := by
  have h : RegsMoved l l := rfl
  unfold showSupplies
  extract_lets one a b l1
  have hl : RegsMoved l l1 := (((((((h.fset _ _).fset _ _).fsetB _ _).fsetB _ _).fset _ _).fset _ _).fsetB _ _).fsetB _ _
  exact ((hl.fsetB _ _).fsetB _ _).fsetB _ _

theorem roleOf_showSupplies (s : State) (l : Lane) : roleOf (showSupplies s l) = roleOf l :=
  (touches_showSupplies s l).fget (f := SYS_STS_LROLE) not_supplyReg_SYS_STS

/-- A powered lane in FAULT notes a change of a supply at once. -/
theorem supplyLane_fault (x : Fin 2) (ch : Bool) (hp : l.powered = true) (hr : roleOf l = roleFault) :
    supplyLane s x ch false l = if ch then stk (showSupplies s l) CLK_STK_PSLOSS else showSupplies s l := by
  have h1 : laneRuns (showSupplies s l) = false := laneRuns_of_fault ((roleOf_showSupplies s l).trans hr)
  have h2 : laneRuns (stk (showSupplies s l) CLK_STK_PSLOSS) = false := by
    refine laneRuns_of_fault (Eq.trans ?_ ((roleOf_showSupplies s l).trans hr))
    unfold roleOf fget
    rw [rget_stk_ne _ _ (by simp [SYS_STS_LROLE, SYS_STS, CLK_STK_PSLOSS, CLK_STK]) (by simp [SYS_STS_LROLE, SYS_STS, FLT_STK])]
  have hn : ¬ (!l.powered) = true := by simp [hp]
  have hs : stkSeen (showSupplies s l) CLK_STK_PSLOSS = stk (showSupplies s l) CLK_STK_PSLOSS :=
    if_neg (by rw [h1]; exact Bool.false_ne_true)
  unfold supplyLane
  rw [if_neg hn]
  dsimp only
  rw [if_neg Bool.false_ne_true, hs]
  cases ch
  · rw [if_neg Bool.false_ne_true, if_neg Bool.false_ne_true]
  · rw [if_pos rfl, if_pos rfl, if_neg (by rw [h2]; exact Bool.false_ne_true)]

theorem not_settleReg_CLK_STK : ¬ SettleReg CLK_STK := fun h => by
  have := h.num
  simp [CLK_STK] at this

/-- Where no sticky condition of CLK_STK waits, none waits after a quiet change. -/
theorem Quiet.not_setLate {m : Lane} (h : Quiet l m) {f : Field} (hf : ¬ SettleReg f.addr) (hl : ¬ SetLate f l) : ¬ SetLate f m := by
  obtain ⟨x, hx, hs⟩ := h.late
  unfold SetLate at hl ⊢
  rw [hx, List.mem_append]
  exact fun hm => hm.elim hl fun hm => hf (hs _ hm)

/-- LA: in STANDBY, its cores at work, having asked to give up its claim. -/
def droppingLane : Lane :=
  fset (fset { Lane.zero .A with powered := true, out := [.claimDrop] } SYS_STS_LROLE roleStandby) CLK_DOM_RUN 7

/-- LB: asleep, Ember alone at work. -/
def sleepingLane : Lane := fset (fset { Lane.zero .B with powered := true } CLK_STS_MSTATE 3) CLK_DOM_RUN 1

/-- Both supply cartridges have good inputs. -/
def supplyLostState : State := { State.reset with
  la := droppingLane, lb := sleepingLane, sup := Vector.replicate 2 { inok := true, outok := false, vin := 0#16, iout := 0#8 } }

theorem laneRuns_droppingLane : laneRuns droppingLane = true := by decide

theorem laneActive_droppingLane : laneActive droppingLane = false := by decide

/-- The wake-up of LB takes LA to FAULT. -/
theorem wakeSeen_supplyLost {u : State} (hla : s.la = droppingLane) (hlb : s.lb = sleepingLane) (hnow : s.now = 0)
    (hu : u = wakeSeen .supply s) : Quiet droppingLane u.la ∧ roleOf u.la = roleFault := by
  have hr : restartBase s = { s with t1At := 0 } := by
    have ht : 0 = ceilTo 3200000 s.now := by rw [hnow]; rfl
    rw [restartBase_eq ht, tickTo, if_pos (Nat.zero_le _)]
  have hsa : staysUp .supply s.la = s.la := by rw [hla]; rfl
  have hsb : staysUp .supply s.lb = s.lb := by rw [hlb]; rfl
  have hb : (if asleep (laneOf s .B) then wakeCode (laneOf s .B) .supply else none).isSome = true := by
    rw [show laneOf s .B = sleepingLane from hlb]
    decide
  have ha : wokenBy (fun l => wakeCode l .supply) s.now s.la = s.la := by
    rw [hla]
    exact wokenBy_awake (by decide)
  have htold : Told s.lb := told_of_nil (by rw [hlb]; rfl)
  rw [wakeSeen_eq, hsa, hsb, wakeBy_eq hr.symm ⟨.B, hb⟩] at hu
  dsimp only at hu
  rw [ha] at hu
  have hq := (calm_settle { s with
    t1At := 0, lb := wokenBy (fun l => wakeCode l .supply) s.now s.lb, links := s.links.map fun k => { k with dark := k.shut } }).lanes .A
  have hf := roleOf_settle_claimDrop (s := { s with
    t1At := 0, lb := wokenBy (fun l => wakeCode l .supply) s.now s.lb, links := s.links.map fun k => { k with dark := k.shut } })
    (by rw [hla]; rfl) ((asksRecords_wokenBy _ _ _).told htold) (by rw [hla]; exact laneActive_droppingLane)
  rw [← hu] at hq hf
  exact ⟨hla ▸ hq, hf⟩

/-- PSLOSS does not wait for the boundary in LA. -/
theorem setSupply_supplyLost {q : Supply} (hq : q.inok = false) : ¬ SetLate CLK_STK_PSLOSS (laneOf (setSupply 0 q supplyLostState) .A) := by
  unfold setSupply
  extract_lets p ch was s1 fail s2
  have hch : ch = true := by
    change ((true != q.inok) || _) = true
    rw [hq]
    rfl
  have hfail : fail = false := Bool.and_false _
  obtain ⟨hquiet, hfault⟩ := wakeSeen_supplyLost (s := s1) rfl rfl rfl (u := s2) (if_pos hch)
  clear_value s2 fail ch
  have hp : s2.la.powered = true := (congrArg Lane.powered hquiet.rest :)
  rw [hfail, hch]
  refine ((calm_settle _).lanes .A).not_setLate not_settleReg_CLK_STK ?_
  dsimp only [laneOf]
  rw [supplyLane_fault 0 true hp hfault, if_pos rfl]
  have hlate : (showSupplies s2 s2.la).late = s2.la.late := (congrArg Lane.late (showSupplies_moved s2 s2.la) :)
  unfold SetLate
  rw [stk_late, hlate]
  exact hquiet.not_setLate not_settleReg_CLK_STK (f := CLK_STK_PSLOSS) List.not_mem_nil

theorem supplyLost_loses : ∃ q, exec (.supplyStatusChange 0 false false 0#16 0#8) supplyLostState = .next (setSupply 0 q supplyLostState) ∧
    q.inok = false := ⟨_, rfl, rfl⟩

/-- Refutes O45: PSLOSS of a running lane does not wait for the boundary where the wake-up of its peer first carries out the lane's own
request to leave for FAULT. -/
theorem not_clocksAndPower : ¬ Obligations.ClocksAndPower := by
  unfold Obligations.ClocksAndPower
  intro h
  obtain ⟨-, -, -, -, hsupply⟩ := h .A supplyLostState
  obtain ⟨t, ht, -, -, -, hloss, -⟩ := hsupply 0 false false 0#16 0#8 rfl
  obtain ⟨q, hq, hin⟩ := supplyLost_loses
  obtain rfl : t = setSupply 0 q supplyLostState := Host.Outcome.next.inj (ht.symm.trans hq)
  exact setSupply_supplyLost hin ((hloss (.inl (by decide))).1 laneRuns_droppingLane)

end
end Sys2Proof.Machine

namespace Sys2Proof.Machine

/-! ### A supply cartridge drawn while a lane's own request is under way

With a supply cartridge its status lines go, which carries out what both lanes have asked for, before the lanes raise source 0x80 for the
empty slot. A lane in STANDBY that has asked to give up its claim is in FAULT by then and raises nothing. -/

section
variable {l : Lane} {s : State}

theorem vis_canPresence (l : Lane) : (canPresence l).vis = l.vis := by
  unfold canPresence
  refine vis_foldl (fun l p => ?_) _ l
  dsimp only
  exact vis_ite rfl rfl

/-- What the lanes show of the slots, without the source that they raise. -/
def slotShown (in_ : Bool) (s : State) (l : Lane) : Lane :=
  canPresence (stkSeen (showCarts s l) (if in_ then SYS_STK_CARTIN else SYS_STK_CARTOUT))

theorem vis_slotShown (in_ : Bool) (s : State) (l : Lane) : (slotShown in_ s l).vis = l.vis := by
  unfold slotShown
  rw [vis_canPresence, vis_stkSeen]
  unfold showCarts
  rw [fset_vis, fset_vis]

theorem touches_canPresence (l : Lane) : ∀ a, (∀ p : CanPort, a ≠ CAN_STS p) → rget (canPresence l) a = rget l a := by
  intro a ha
  unfold canPresence
  refine List.foldlRecOn (motive := fun m => rget m a = rget l a) _ _ rfl fun m hm p _ => ?_
  have h1 : rget (fsetB m (CAN_STS_NOCART p) (!(canCart m p))) a = rget l a := (rget_fsetB_ne m (CAN_STS_NOCART p) _ (ha p)).trans hm
  dsimp only
  generalize fsetB m (CAN_STS_NOCART p) (!(canCart m p)) = k at *
  split
  · exact h1
  · exact h1

theorem roleOf_slotShown (in_ : Bool) (s : State) (l : Lane) : roleOf (slotShown in_ s l) = roleOf l := by
  have h1 : rget (slotShown in_ s l) SYS_STS = rget (stkSeen (showCarts s l) (if in_ then SYS_STK_CARTIN else SYS_STK_CARTOUT)) SYS_STS :=
    touches_canPresence _ _ fun p => by unfold SYS_STS CAN_STS; omega
  have h2 : Touches (fun a => a = SYS_CART ∨ a = SYS_STK ∨ a = FLT_STK) l
      (stkSeen (showCarts s l) (if in_ then SYS_STK_CARTIN else SYS_STK_CARTOUT)) := by
    refine .stkSeen (.fset (.fset .refl (.inl rfl)) (.inl rfl)) (.inr (.inl ?_)) (.inr (.inr rfl))
    cases in_ <;> rfl
  unfold roleOf fget
  rw [show SYS_STS_LROLE.addr = SYS_STS from rfl, h1, h2.regs SYS_STS (by simp [SYS_STS, SYS_CART, SYS_STK, FLT_STK])]

/-- A lane in FAULT raises nothing for a slot. -/
theorem vis_cartMarks_fault {n : Fin 11} {in_ : Bool} (h : roleOf s.la = roleFault) : (cartMarks n in_ s).la.vis = s.la.vis := by
  unfold cartMarks
  extract_lets one
  change (one s.la).vis = s.la.vis
  dsimp only [one]
  split
  · have hf : laneRuns (slotShown in_ s s.la) = false := laneRuns_of_fault ((roleOf_slotShown in_ s s.la).trans h)
    change (if laneRuns (slotShown in_ s s.la) = true then _ else slotShown in_ s s.la).vis = s.la.vis
    rw [if_neg (by rw [hf]; exact Bool.false_ne_true)]
    exact vis_slotShown in_ s s.la
  · rfl

theorem supplyLane_same (x : Fin 2) : supplyLane s x false false l = if l.powered then showSupplies s l else l := by
  unfold supplyLane
  by_cases h : l.powered = true
  · rw [if_neg (by simp [h]), if_pos h]
    dsimp only
    rw [if_neg Bool.false_ne_true, if_neg Bool.false_ne_true]
  · rw [if_pos (by simpa using h), if_neg h]

/-- The supply cartridges without good inputs, LA as `droppingLane`, LB without power. -/
def supplyDrawnState : State := { State.reset with la := droppingLane }

theorem cartEnd_first (s : State) : cartEnd 0 s = setSupply 0 { inok := false, outok := false, vin := 0#16, iout := 0#8 } s := rfl

/-- What is left of the first supply cartridge takes LA to FAULT. -/
theorem setSupply_supplyDrawn {u : State} (hla : s.la = droppingLane) (hlb : s.lb = Lane.zero .B) (hsup : s.sup = State.reset.sup)
    (hu : u = setSupply 0 { inok := false, outok := false, vin := 0#16, iout := 0#8 } s) : u.la.vis = [] ∧ roleOf u.la = roleFault := by
  have hch : ((vget s.sup 0).inok != false || (vget s.sup 0).outok != false) = false := by rw [hsup]; rfl
  have hwas : (!(vget s.sup 0).inok && !(vget s.sup 1).inok) = true := by rw [hsup]; rfl
  unfold setSupply at hu
  extract_lets p ch was s1 fail s2 at hu
  have e1 : ch = false := hch
  have e2 : fail = false := by
    have e : was = true := hwas
    dsimp only [fail]
    rw [e]
    rfl
  have e3 : s2 = s1 := if_neg (by rw [e1]; exact Bool.false_ne_true)
  have ha : s1.la = droppingLane := hla
  have hb : s1.lb = Lane.zero .B := hlb
  clear_value fail ch s2 s1
  subst e1 e2 e3
  have hpa : supplyLane s2 0 false false s2.la = showSupplies s2 droppingLane := by
    rw [supplyLane_same, ha]
    exact if_pos rfl
  have hpb : supplyLane s2 0 false false s2.lb = Lane.zero .B := by
    rw [supplyLane_same, hb]
    exact if_neg Bool.false_ne_true
  rw [hpa, hpb] at hu
  have hmoved := showSupplies_moved s2 droppingLane
  have hact : laneActive (showSupplies s2 droppingLane) = false := by
    have hr : fget (showSupplies s2 droppingLane) SYS_STS_LROLE = 2 := (roleOf_showSupplies s2 droppingLane).trans (by decide)
    unfold laneActive
    rw [hr]
    simp
  have hout : (showSupplies s2 droppingLane).out = [.claimDrop] := (congrArg Lane.out hmoved :)
  have hvis : (showSupplies s2 droppingLane).vis = [] := (congrArg Lane.vis hmoved :)
  generalize showSupplies s2 droppingLane = k at *
  have hf := roleOf_settle_claimDrop (s := { s2 with la := k, lb := Lane.zero .B }) hout (told_of_nil rfl) hact
  have hv := (calm_settle { s2 with la := k, lb := Lane.zero .B }).sameVis .A
  rw [← hu] at hf hv
  exact ⟨hv.trans hvis, hf⟩

theorem sameVis_bistShow (s : State) : SameVis s (bistShow s) := (calm_bistShow s).sameVis

theorem execCartridgeRemoved_eq {n : Fin 11} {u : State} (h : s.pres.getLsbD n = true)
    (hu : u = cartEnd n { s with pres := s.pres &&& ~~~(1#11 <<< n.1), okc := s.okc &&& ~~~(1#11 <<< n.1) }) :
    execCartridgeRemoved n s = .next (bistShow (joinLanes (wakeSeen .cartridge (settle (permitLoss s (cartMarks n false u)))))) := by
  unfold execCartridgeRemoved
  extract_lets bitN t
  have e : t = u := hu.symm
  clear_value t
  subst e
  exact if_neg (by rw [h]; exact Bool.false_ne_true)

theorem supplyDrawn_silent : ∃ t, exec (.cartridgeRemoved 0) supplyDrawnState = .next t ∧ (laneOf t .A).vis = [] := by
  obtain ⟨u, hu⟩ : ∃ u, u = cartEnd 0 { supplyDrawnState with
    pres := supplyDrawnState.pres &&& ~~~(1#11 <<< 0), okc := supplyDrawnState.okc &&& ~~~(1#11 <<< 0) } := ⟨_, rfl⟩
  have hexec := execCartridgeRemoved_eq (n := 0) (s := supplyDrawnState) rfl hu
  rw [cartEnd_first] at hu
  obtain ⟨hvis, hfault⟩ : u.la.vis = [] ∧ roleOf u.la = roleFault := by
    refine setSupply_supplyDrawn ?_ ?_ ?_ hu
    all_goals rfl
  have hmarks : (cartMarks 0 false u).la.vis = [] := (vis_cartMarks_fault hfault).trans hvis
  generalize cartMarks 0 false u = v at *
  have hp : permitLoss supplyDrawnState v = v := if_neg (by
    rw [show stoCondition supplyDrawnState = false by decide]
    exact Bool.false_ne_true)
  rw [hp] at hexec
  refine ⟨_, hexec, ?_⟩
  have h1 : SameVis v (wakeSeen .cartridge (settle v)) := (calm_settle v).sameVis.trans (sameVis_wakeSeen _ _)
  exact ((h1.trans (sameVis_joinLanes _)).trans (sameVis_bistShow _) .A).trans hmarks

/-- Refutes O46: a lane that runs the program does not raise the removal of a supply cartridge where the lane's own request takes it to
FAULT on the way. -/
theorem not_lanesStartAndCartridges : ¬ Obligations.LanesStartAndCartridges := by
  unfold Obligations.LanesStartAndCartridges
  intro h
  obtain ⟨-, -, -, -, -, hremoved⟩ := h .A supplyDrawnState
  obtain ⟨t, ht, -, -, -, -, hraise, -⟩ := hremoved 0 rfl (by decide) (by decide)
  obtain ⟨u, hu, hvis⟩ := supplyDrawn_silent
  obtain rfl : t = u := Host.Outcome.next.inj (ht.symm.trans hu)
  obtain ⟨r, hr, -⟩ := hraise laneRuns_droppingLane (by decide)
  rw [hvis] at hr
  exact List.not_mem_nil hr

end
end Sys2Proof.Machine

namespace Sys2Proof.Machine

/-!
### Protected commands and their records (R437, R441)
-/

section
variable {l m : Lane} {s t u : State}

/-- Frame memory takes entries, the lanes see each other and the selectors follow; all else stands still. -/
structure Steady (s t : State) : Prop where
  calm : Calm s t
  lanes : ∀ i, Noted (laneOf s i) (laneOf t i)
  ho : t.ho = s.ho
  bist : t.bist = s.bist
  links : ∀ k, { vget t.links k with sel := .A } = { vget s.links k with sel := .A }
  fields : ∀ f, { vget t.fields f with sel := .A } = { vget s.fields f with sel := .A }

theorem Steady.refl : Steady s s := ⟨.refl s, fun _ => .refl, rfl, rfl, fun _ => rfl, fun _ => rfl⟩

theorem Steady.trans (h : Steady s t) (g : Steady t u) : Steady s u :=
  ⟨h.calm.trans g.calm, fun i => (h.lanes i).trans (g.lanes i), g.ho.trans h.ho, g.bist.trans h.bist,
    fun k => (g.links k).trans (h.links k), fun f => (g.fields f).trans (h.fields f)⟩

/-- Only the lanes change, in what is noted there. -/
theorem steady_lanes {la lb : Lane} (ha : Noted s.la la) (hb : Noted s.lb lb) : Steady s { s with la := la, lb := lb } :=
  ⟨calm_lanes rfl ha.quiet hb.quiet, fun i => by cases i; exacts [ha, hb], rfl, rfl, fun _ => rfl, fun _ => rfl⟩

theorem steady_modLane (s : State) (i : LaneId) {f : Lane → Lane} (h : ∀ l, Noted l (f l)) : Steady s (modLane s i f) := by
  cases i
  · exact steady_lanes (h _) .refl
  · exact steady_lanes .refl (h _)

theorem steady_unasked (s : State) : Steady s (unasked s) := steady_lanes (noted_out _ _) (noted_out _ _)

theorem steady_fm (h : { u.fm with ring := s.fm.ring, head := s.fm.head, hcrc := s.fm.hcrc } = s.fm) : Steady s { s with fm := u.fm } :=
  ⟨⟨rfl, rfl, rfl, rfl, rfl, rfl, rfl, rfl, rfl, rfl, rfl, rfl, h, fun _ => rfl, fun _ => rfl, fun _ => rfl, fun i => by
    cases i <;> exact .refl _⟩, fun i => by cases i <;> exact .refl, rfl, rfl, fun _ => rfl, fun _ => rfl⟩

theorem steady_serveAll (h : ∀ i, Told (laneOf s i)) : Steady s (serveAll s) := by
  have hc := (calm_serveAll s).fm
  rw [serveAll_of_told h]
  exact (steady_unasked s).trans (steady_fm (s := unasked s) (u := serveAll s) hc)

theorem steady_peers (s : State) : Steady s (peers s) := steady_lanes (noted_peers s .A) (noted_peers s .B)

theorem steady_selectors (s : State) : Steady s (selectors s) := by
  have hc := calm_selectors s
  obtain h | ⟨i, h⟩ := selectors_eq s
  · rw [h]
    exact .refl
  · refine ⟨hc, fun j => ?_, by rw [h], by rw [h], fun k => ?_, fun f => ?_⟩
    · rw [laneOf_selectors]
      exact .refl
    · rw [h, vget_map]
    · rw [h, vget_map]

/-- What `settle` does where frame-memory entries are all that is asked for. -/
theorem steady_settle (h : ∀ i, Told (laneOf s i)) : Steady s (settle s) := by
  unfold settle
  exact (((steady_serveAll h).trans (steady_serveAll (serveAll_told s))).trans (steady_peers _)).trans (steady_selectors _)

/-! #### The ring -/

theorem fm_settle (s : State) : (settle s).fm = (serveAll (serveAll s)).fm := by
  unfold settle
  obtain h | ⟨i, h⟩ := selectors_eq (peers (serveAll (serveAll s)))
  · rw [h]
    rfl
  · rw [h]
    rfl

theorem serveAll_idle (h : ∀ i, (laneOf s i).out = []) : (serveAll s).fm = s.fm := by
  rw [serveAll_eq, show s.la.out = [] from h .A, show s.lb.out = [] from h .B]
  rfl

theorem out_serveAll_of_told (h : ∀ i, Told (laneOf s i)) (i : LaneId) : (laneOf (serveAll s) i).out = [] := by
  rw [serveAll_of_told h]
  cases i <;> rfl

/-- One entry of a protected command is all that the lanes ask for: the ring takes it. -/
theorem fm_settle_own {i : LaneId} {e : PeatEntry} (he : e.kind = 2) (hi : (laneOf s i).out = [.frameMem e])
    (ho : (laneOf s (otherLane i)).out = []) : (settle s).fm = (fmPush e s).fm := by
  have htold (j : LaneId) : Told (laneOf s j) := by
    by_cases hj : j = i
    · rw [hj]
      intro r hr
      rw [hi] at hr
      exact ⟨e, List.mem_singleton.mp hr⟩
    · rw [show j = otherLane i by cases i <;> cases j <;> first | rfl | exact absurd rfl hj]
      exact told_of_nil ho
  have hown : ∀ u : State, serveReq i (.frameMem e) u = fmPush e u := fun u => by
    unfold serveReq
    dsimp only
    rw [if_pos]
    simp [ownEntry, he]
  have hs : (serveAll s).fm = (fmPush e (unasked s)).fm := by
    rw [serveAll_eq]
    cases i
    · rw [show s.la.out = _ from hi, show s.lb.out = [] from ho, List.foldl_cons, List.foldl_nil, List.foldl_nil, hown]
    · rw [show s.lb.out = _ from hi, show s.la.out = [] from ho, List.foldl_cons, List.foldl_nil, List.foldl_nil, hown]
  rw [fm_settle, serveAll_idle (out_serveAll_of_told htold), hs]
  rfl

/-- The entry of a protected command stands in the ring. -/
def LoggedAs (code res : Nat) (e : PeatEntry) : Prop := e.kind = 2 ∧ e.code = code ∧ e.ctx0 = wordOf (code + 256 * res)

/-- A protected command has left its record: the latest entry of the ring is its own. -/
structure Recorded (code res : Nat) (s t : State) : Prop where
  steady : Steady s t
  out : ∀ i, (laneOf t i).out = []
  ring : ∃ e, LoggedAs code res e ∧ t.fm = (fmPush e s).fm

theorem noted_ite {c : Prop} [Decidable c] {n : Lane} (h : Noted l m) (g : Noted l n) : Noted l (if c then m else n) := by
  split
  · exact h
  · exact g

/-- The lane that writes a protected command's record. -/
def writer (s : State) : LaneId := match activeLane s with | some i => i | none => if s.la.powered then .A else .B

theorem activeLane_powered {i : LaneId} (h : activeLane s = some i) : (laneOf s i).powered = true := by
  have hp (l : Lane) (hl : laneActive l = true) : l.powered = true := by
    unfold laneActive at hl
    simp only [Bool.and_eq_true] at hl
    exact hl.1.1
  unfold activeLane at h
  split at h
  next ha =>
    obtain rfl := Option.some.inj h
    exact hp _ ha
  next =>
    split at h
    next hb =>
      obtain rfl := Option.some.inj h
      exact hp _ hb
    next => exact absurd h (by simp)

theorem writer_powered (h : s.la.powered = true ∨ s.lb.powered = true) : (laneOf s (writer s)).powered = true := by
  unfold writer
  cases ha : activeLane s with
  | some i => exact activeLane_powered ha
  | none =>
    dsimp only
    split
    next hp => exact hp
    next hp => exact h.resolve_left hp

/-- The log's part of the record. -/
def logLane (now code : Nat) (c0 : Word) (l : Lane) : Lane := if l.powered then peatWrite l now 2 code 0 1 c0 0#32 else l

theorem noted_logLane (now code : Nat) (c0 : Word) (l : Lane) : Noted l (logLane now code c0 l) := noted_ite (noted_peatWrite ..) .refl

theorem out_logLane (now code : Nat) (c0 : Word) (l : Lane) : (logLane now code c0 l).out = l.out := by
  unfold logLane
  split
  · exact out_peatWrite ..
  · rfl

theorem protRec_eq (code res : Nat) (s : State) : protRec code res s =
    settle (modLane { s with la := logLane s.now code (wordOf (code + 256 * res)) s.la, lb := logLane s.now code (wordOf (code + 256 * res)) s.lb }
      (writer s) fun l => if l.powered then fmWrite l s.now 2 code 0 (wordOf (code + 256 * res)) 0#32 else l) := rfl

/-- The record of a protected command, where the lanes have asked for nothing. -/
theorem protRec_recorded (code res : Nat) (hout : ∀ i, (laneOf s i).out = []) (hp : s.la.powered = true ∨ s.lb.powered = true) :
    Recorded code res s (protRec code res s) := by
  obtain ⟨c0, hc⟩ : ∃ c0, c0 = wordOf (code + 256 * res) := ⟨_, rfl⟩
  rw [protRec_eq, ← hc]
  have h1 : Steady s { s with la := logLane s.now code c0 s.la, lb := logLane s.now code c0 s.lb } :=
    steady_lanes (noted_logLane ..) (noted_logLane ..)
  have hpow : (laneOf { s with la := logLane s.now code c0 s.la, lb := logLane s.now code c0 s.lb } (writer s)).powered = true := by
    rw [(h1.lanes _).quiet.touches.powered]
    exact writer_powered hp
  have hout1 (i : LaneId) : (laneOf { s with la := logLane s.now code c0 s.la, lb := logLane s.now code c0 s.lb } i).out = [] := by
    cases i
    · exact (out_logLane ..).trans (hout .A)
    · exact (out_logLane ..).trans (hout .B)
  have hfm : ({ s with la := logLane s.now code c0 s.la, lb := logLane s.now code c0 s.lb } : State).fm = s.fm := rfl
  generalize ({ s with la := logLane s.now code c0 s.la, lb := logLane s.now code c0 s.lb } : State) = v at *
  have h2 : Steady v (modLane v (writer s) fun l => if l.powered then fmWrite l s.now 2 code 0 c0 0#32 else l) :=
    steady_modLane v _ fun l => noted_ite (noted_fmWrite ..) .refl
  have hi : laneOf (modLane v (writer s) fun l => if l.powered then fmWrite l s.now 2 code 0 c0 0#32 else l) (writer s) =
      fmWrite (laneOf v (writer s)) s.now 2 code 0 c0 0#32 := by
    rw [laneOf_modLane]
    exact if_pos hpow
  have ho : laneOf (modLane v (writer s) fun l => if l.powered then fmWrite l s.now 2 code 0 c0 0#32 else l) (otherLane (writer s)) =
      laneOf v (otherLane (writer s)) := laneOf_putLane_other _ _ _
  have hfm2 : (modLane v (writer s) fun l => if l.powered then fmWrite l s.now 2 code 0 c0 0#32 else l).fm = v.fm := by
    cases writer s <;> rfl
  obtain ⟨e, he⟩ : ∃ e, LoggedAs code res e ∧ fmWrite (laneOf v (writer s)) s.now 2 code 0 c0 0#32 = ask (laneOf v (writer s)) (.frameMem e) :=
    ⟨_, ⟨rfl, rfl, hc⟩, rfl⟩
  generalize (modLane v (writer s) fun l => if l.powered then fmWrite l s.now 2 code 0 c0 0#32 else l) = w at *
  have hiw : (laneOf w (writer s)).out = [.frameMem e] := by
    rw [hi, he.2]
    exact congrArg (· ++ [LaneReq.frameMem e]) (hout1 (writer s))
  have how : (laneOf w (otherLane (writer s))).out = [] := by
    rw [ho]
    exact hout1 _
  have htold (j : LaneId) : Told (laneOf w j) := by
    by_cases hj : j = writer s
    · rw [hj]
      intro r hr
      rw [hiw] at hr
      exact ⟨e, List.mem_singleton.mp hr⟩
    · rw [show j = otherLane (writer s) by revert hj; cases writer s <;> cases j <;> simp [otherLane]]
      exact told_of_nil how
  refine ⟨(h1.trans h2).trans (steady_settle htold), settle_out w, e, he.1, ?_⟩
  rw [fm_settle_own he.1.1 hiw how]
  unfold fmPush fmRing
  rw [hfm2, hfm]

end
end Sys2Proof.Machine

namespace Sys2Proof.Machine

/-!
### What a grading asks for (R417, R418)

A source other than the clock fault, graded S5 or S6, asks for a hand-over, the yield of a named lane, or S6. None of these changes a
lane's role when it is carried out.
-/

section
variable {l m n : Lane} {s t u : State}

/-- A request that a grading makes, or a record. -/
def IsGrading (r : LaneReq) : Prop := IsRecord r ∨ (∃ c, r = .handover c) ∨ (∃ i, r = .yieldNamed i) ∨ r = .safeIn

/-- Gradings and records are all that a lane asks for. -/
def Graded (l : Lane) : Prop := ∀ r ∈ l.out, IsGrading r

theorem Told.graded (h : Told l) : Graded l := fun r hr => .inl (h r hr)

theorem Graded.append {x : List LaneReq} (h : Graded l) (hm : m.out = l.out ++ x) (hx : ∀ r ∈ x, IsGrading r) : Graded m := by
  intro r hr
  rw [hm, List.mem_append] at hr
  exact hr.elim (h r) (hx r)

theorem Graded.of_eq (h : Graded l) (hm : m.out = l.out) : Graded m := by
  unfold Graded
  rw [hm]
  exact h

theorem Graded.ask (h : Graded l) {r : LaneReq} (hr : IsGrading r) : Graded (ask l r) :=
  h.append rfl fun q hq => by rw [List.mem_singleton.mp hq]; exact hr

theorem Graded.fmWrite (h : Graded l) (now kind code sev : Nat) (c0 c1 : Word) : Graded (fmWrite l now kind code sev c0 c1) :=
  h.ask (.inl ⟨_, rfl⟩)

/-! #### Gradings that ask for nothing -/

theorem out_axStopOne (l : Lane) (a : Axis) (e : Nat) : (axStopOne l a e).out = l.out := by
  unfold axStopOne
  extract_lets ok k
  have hk : k.out = l.out := out_axAsk l a e
  clear_value k
  exact out_ite hk hk

theorem out_axStop (l : Lane) (a : Axis) (e : Nat) : (axStop l a e).out = l.out := by
  unfold axStop
  extract_lets k
  have hk : k.out = l.out := out_axStopOne l a e
  clear_value k
  refine out_ite (Eq.trans ?_ hk) hk
  refine out_foldl (fun k g => out_foldl (fun k b => out_ite (out_axStopOne k b e) rfl) _ k) _ k

theorem out_cpLost (l : Lane) (c : Nat) : (cpLost l c).out = l.out := by
  unfold cpLost
  exact out_ite rfl rfl

theorem out_brickLost (l : Lane) (b : Nat) : (brickLost l b).out = l.out :=
  out_foldl (fun k c => out_ite (out_cpLost k c) rfl) _ l

theorem out_allAsk (l : Lane) (banked : Bool) (e : Nat) : (allAsk l banked e).out = l.out :=
  out_foldl (fun k a => out_ite (out_axAsk k a e) rfl) _ l

theorem out_raiseRecord (l : Lane) (now k sev : Nat) (c0 c1 : Word) : (raiseRecord l now k sev c0 c1).out = l.out := by
  unfold raiseRecord
  dsimp only
  split
  · exact out_ite rfl (out_peatWrite ..)
  · exact out_peatWrite ..

theorem out_capSeen (l : Lane) (trig src : Nat) : (capSeen l trig src).out = l.out := by
  unfold capSeen
  exact out_ite rfl rfl

/-- Below S5 nothing is asked for. -/
theorem out_respond {k sev : Nat} {c0 : Word} (h : sev < 5) : (respond l k sev c0).1.out = l.out := by
  unfold respond
  split
  · rfl
  · rfl
  · split
    · exact out_brickLost ..
    · rfl
  · split
    · exact out_axStop ..
    · rfl
  · split
    · exact out_axStop ..
    · rfl
  · exact absurd h (by decide)
  · exact absurd h (by decide)
  · rfl

theorem graded_respond {k sev : Nat} {c0 : Word} (hk : k ≠ 0x7C) (h : Graded l) : Graded (respond l k sev c0).1 := by
  by_cases hs : sev < 5
  · exact h.of_eq (out_respond hs)
  · unfold respond
    split
    · exact h
    · exact h
    · exact absurd (by decide) hs
    · exact absurd (by decide) hs
    · exact absurd (by decide) hs
    · split
      · exact h
      · split
        · exact h.ask (.inr (.inl ⟨_, rfl⟩))
        · split
          · exact h.ask (.inr (.inr (.inl ⟨_, rfl⟩)))
          · exact h.ask (.inr (.inl ⟨_, rfl⟩))
    · split
      · exact h
      · exact Graded.ask (h.of_eq (m := allAsk { l with safe := true } true 9) (out_allAsk { l with safe := true } true 9)) (.inr (.inr (.inr rfl)))
    · exact h

/-- What follows the response of a raise asks at most for a record. -/
theorem asksRecords_raise {now k : Nat} {c0 c1 : Word} :
    AsksRecords (respond l k (srcSev l k c0) c0).1 (raise l now k c0 c1) := by
  unfold raise
  extract_lets sev
  split
  next l1 bits hr =>
  rw [show respond l k (srcSev l k c0) c0 = (l1, bits) from hr]
  extract_lets l2 l3 l4
  have h2 : l2.out = l1.out := out_ite (out_raiseRecord ..) rfl
  have h3 : AsksRecords l2 l3 := by
    dsimp only [l3]
    split
    · exact asksRecords_fmWrite ..
    · exact .refl
  have h4 : l4.out = l3.out := out_capSeen ..
  clear_value l2 l3 l4
  exact ((asksRecords_of_eq h2).trans h3).trans (asksRecords_of_eq h4)

theorem graded_raise {now k : Nat} {c0 c1 : Word} (hk : k ≠ 0x7C) (h : Graded l) : Graded (raise l now k c0 c1) := by
  obtain ⟨x, hx, hr⟩ := asksRecords_raise (l := l) (now := now) (k := k) (c0 := c0) (c1 := c1)
  exact (graded_respond hk h).append hx fun r h => .inl (hr r h)

theorem told_raise {now k : Nat} {c0 c1 : Word} (hs : srcSev l k c0 < 5) (h : Told l) : Told (raise l now k c0 c1) :=
  asksRecords_raise.told (by unfold Told; rw [out_respond hs]; exact h)

/-! #### Gradings carried out -/

theorem noted_of_rget (hq : Quiet l m) (h : ∀ a, rget m a = rget l a) : Noted l m := noted_of_regs hq (h _) (h _)

theorem rget_yieldStop (l : Lane) (a : Axis) (r : Nat) : rget (yieldStop l a) r = rget l r := by
  have h : rget (axAsk l a 8) r = rget l r := by
    unfold axAsk
    split
    · rfl
    · extract_lets x
      split
      · split <;> rfl
      · rfl
  unfold yieldStop
  split
  · exact h
  · rfl

theorem noted_yieldStops (l : Lane) (v : Nat) : Noted l ((allFin 16).foldl yieldStop (fltLate l v)) := by
  refine noted_of_rget ((quiet_fltLate l v).trans (quiet_foldl _ quiet_yieldStop _ _)) fun r => ?_
  exact List.foldlRecOn (motive := fun m => rget m r = rget l r) _ _ rfl fun m h a _ => (rget_yieldStop m a r).trans h

theorem noted_hoBusy (l : Lane) (b : Bool) : Noted l (fsetB l XLN_STS_HOBUSY b) := by
  refine noted_of_regs (quiet_fsetB _ _ _ (.inl (by simp [XLN_STS_HOBUSY]))) (rget_fsetB_ne l XLN_STS_HOBUSY b ?_)
    (rget_fsetB_ne l XLN_STS_HOBUSY b ?_)
  · simp [SYS_STS, XLN_STS_HOBUSY, XLN_STS]
  · simp [FLT_STS, XLN_STS_HOBUSY, XLN_STS]

/-- Time, tests and lanes' roles stand still; a hand-over may begin or end. -/
structure Settling (s t : State) : Prop where
  calm : Calm s t
  lanes : ∀ i, Noted (laneOf s i) (laneOf t i)
  bist : t.bist = s.bist

theorem Settling.refl : Settling s s := ⟨.refl s, fun _ => .refl, rfl⟩

theorem Settling.trans (h : Settling s t) (g : Settling t u) : Settling s u :=
  ⟨h.calm.trans g.calm, fun i => (h.lanes i).trans (g.lanes i), g.bist.trans h.bist⟩

theorem Steady.settling (h : Steady s t) : Settling s t := ⟨h.calm, h.lanes, h.bist⟩

theorem settling_wantHandover (i : LaneId) (cause : Nat) (s : State) : Settling s (wantHandover i cause s) := by
  refine ⟨calm_wantHandover i cause s, fun j => ?_, ?_⟩
  · unfold wantHandover
    extract_lets l out
    split
    · exact .refl
    · split
      · rw [laneOf_inRunning]
        exact noted_ite (noted_yieldStops _ _) .refl
      · split
        · have h := (steady_modLane s i fun l => noted_hoBusy l true).lanes j
          cases j <;> exact h
        · split
          · rw [laneOf_inRunning]
            have e : laneOf { s with hoOut := out } j = laneOf s j := by cases j <;> rfl
            rw [e]
            exact noted_ite (noted_of_rget (quiet_fltLate _ _) fun _ => rfl) .refl
          · cases j <;> exact .refl
  · unfold wantHandover
    extract_lets l out
    split
    · rfl
    · split
      · rfl
      · split
        · cases i <;> rfl
        · split <;> rfl

theorem settling_safeEntered (i : LaneId) (s : State) : Settling s (safeEntered i s) := by
  have hend (u : State) : Settling u (hoEnd u) := ⟨calm_hoEnd u, fun j => by cases j <;> exact noted_hoBusy _ _, rfl⟩
  unfold safeEntered
  split
  · extract_lets u
    have hu : Settling s u := ⟨calm_links s _ fun k => by rw [vget_map], fun j => by cases j <;> exact .refl, rfl⟩
    clear_value u
    split
    · exact hu
    all_goals
      split
      · exact hu.trans (hend u)
      · exact hu
  · exact .refl

theorem settling_serveReq {r : LaneReq} (h : IsGrading r) (i : LaneId) (s : State) : Settling s (serveReq i r s) := by
  obtain h | ⟨c, rfl⟩ | ⟨j, rfl⟩ | rfl := h
  · have hc := calm_serveReq i r s
    have he := serveReq_record h i s
    refine ⟨hc, fun j => ?_, ?_⟩
    · rw [he]
      cases j <;> exact .refl
    · rw [he]
  · exact settling_wantHandover i c s
  · unfold serveReq
    dsimp only
    split
    · exact settling_wantHandover i 5 s
    · exact .refl
  · exact settling_safeEntered i s

theorem settling_foldl {xs : List LaneReq} (h : ∀ r ∈ xs, IsGrading r) (i : LaneId) (s : State) :
    Settling s (xs.foldl (fun s r => serveReq i r s) s) :=
  List.foldlRecOn (motive := fun t => Settling s t) xs _ .refl fun _ ht r hr => ht.trans (settling_serveReq (h r hr) i _)

/-- What `settle` does where gradings and records are all that is asked for. -/
theorem settling_settle (h : ∀ i, Graded (laneOf s i)) : Settling s (settle s) := by
  have hs : Settling s (serveAll s) := by
    have hu : Settling s (unasked s) := (steady_unasked s).settling
    rw [serveAll_eq]
    exact (hu.trans (settling_foldl (h .A) .A _)).trans (settling_foldl (h .B) .B _)
  unfold settle
  exact hs.trans (((steady_serveAll (serveAll_told s)).trans (steady_peers _)).trans (steady_selectors _)).settling

end
end Sys2Proof.Machine

namespace Sys2Proof.Machine

/-!
### The key switch and the presence button (R438)
-/

section
variable {l m n : Lane} {s t u : State}

/-- What a lane keeps through raises, records, requests and changes of role: its image, its banks, what its start has left to do, and all
but the registers that these touch. -/
structure Carried (l m : Lane) : Prop where
  powered : m.powered = l.powered
  image : m.image = l.image
  banks : m.banks = l.banks
  bootLeft : m.bootLeft = l.bootLeft
  shut : m.shut = l.shut
  regs : ∀ a, ¬ OutcomeReg a → rget m a = rget l a

theorem Carried.refl : Carried l l := ⟨rfl, rfl, rfl, rfl, rfl, fun _ _ => rfl⟩

theorem Carried.trans (h : Carried l m) (g : Carried m n) : Carried l n :=
  ⟨g.powered.trans h.powered, g.image.trans h.image, g.banks.trans h.banks, g.bootLeft.trans h.bootLeft, g.shut.trans h.shut,
    fun a ha => (g.regs a ha).trans (h.regs a ha)⟩

theorem Touches.carried (h : Touches OutcomeReg l m) : Carried l m :=
  ⟨(congrArg Lane.powered h.rest :), (congrArg Lane.image h.rest :), (congrArg Lane.banks h.rest :), (congrArg Lane.bootLeft h.rest :),
    (congrArg Lane.shut h.rest :), h.regs⟩

theorem Quiet.carried (h : Quiet l m) : Carried l m := (h.touches.mono settleReg_le_outcomeReg).carried

protected theorem Carried.fget (h : Carried l m) {f : Field} (hf : ¬ OutcomeReg f.addr) : fget m f = fget l f := by
  unfold Machine.fget
  rw [h.regs _ hf]

theorem not_outcomeReg_low {a : Nat} (h1 : 0x40000004 < a) (h2 : a < 0x40030000) : ¬ OutcomeReg a := by
  rintro (h | h)
  · have := h.num
    simp only [List.mem_cons, List.not_mem_nil, or_false] at this
    omega
  · have := h.num
    simp only [List.mem_cons, List.not_mem_nil, or_false] at this
    omega

theorem not_outcomeReg_CLK_DOM : ¬ OutcomeReg CLK_DOM := not_outcomeReg_low (by decide) (by decide)
theorem not_outcomeReg_CLK_STS : ¬ OutcomeReg CLK_STS := not_outcomeReg_low (by decide) (by decide)

theorem not_outcomeReg_AXS_EN (a : Axis) : ¬ OutcomeReg (AXS_EN a) := by
  have := a.2
  rintro (h | h)
  · have := h.num
    simp only [AXS_EN, List.mem_cons, List.not_mem_nil, or_false] at this
    omega
  · exact not_settleReg_AXS_EN a h

/-- A lane that keeps, and whose role stands. -/
structure Holds (l m : Lane) : Prop where
  carried : Carried l m
  role : roleOf m = roleOf l

theorem Holds.refl : Holds l l := ⟨.refl, rfl⟩

theorem Holds.trans (h : Holds l m) (g : Holds m n) : Holds l n := ⟨h.carried.trans g.carried, g.role.trans h.role⟩

theorem Noted.holds (h : Noted l m) : Holds l m := ⟨h.quiet.carried, h.role⟩

protected theorem Holds.coreRuns (h : Holds l m) : coreRuns m = coreRuns l := by
  unfold Machine.coreRuns
  rw [h.carried.fget (f := CLK_DOM_RUN) not_outcomeReg_CLK_DOM]

protected theorem Holds.laneRuns (h : Holds l m) : laneRuns m = laneRuns l :=
  laneRuns_congr h.carried.powered h.role (h.carried.fget (f := CLK_DOM_RUN) not_outcomeReg_CLK_DOM)

protected theorem Holds.asleep (h : Holds l m) : asleep m = asleep l := by
  unfold Machine.asleep
  rw [h.carried.powered, h.coreRuns, h.carried.fget (f := CLK_STS_MSTATE) not_outcomeReg_CLK_STS]

protected theorem Holds.laneActive (h : Holds l m) : laneActive m = laneActive l := by
  have hr : fget m SYS_STS_LROLE = fget l SYS_STS_LROLE := h.role
  unfold Machine.laneActive
  rw [h.carried.powered, h.coreRuns, h.asleep, hr]

protected theorem Holds.axPeriods (h : Holds l m) (a : Axis) : axPeriods m a = axPeriods l a := by
  unfold Machine.axPeriods
  rw [h.carried.fget (f := AXS_EN_BST a) (not_outcomeReg_AXS_EN a)]

theorem holds_raise {now k : Nat} {c0 c1 : Word} : Holds l (raise l now k c0 c1) := by
  have h : Touches GradeReg l (raise l now k c0 c1) := Touches.refl.raise fun _ h => h
  refine ⟨(h.mono gradeReg_le_outcomeReg).carried, h.fget (f := SYS_STS_LROLE) fun hr => ?_⟩
  have := hr.num
  simp [SYS_STS_LROLE, SYS_STS] at this

theorem holds_staysUp (w : WakeSrc) (l : Lane) : Holds l (staysUp w l) := by
  unfold staysUp
  split
  · exact ⟨⟨rfl, rfl, rfl, rfl, rfl, fun _ _ => rfl⟩, rfl⟩
  · exact .refl

theorem out_staysUp (w : WakeSrc) (l : Lane) : (staysUp w l).out = l.out := by
  unfold staysUp
  split <;> rfl

/-- The state after a raise in both lanes in which no lane sleeps, once a wake source has been seen. -/
structure Heard (s t : State) : Prop where
  pending : t.pending = s.pending
  now : t.now = s.now
  key : t.key = s.key
  presReq : t.presReq = s.presReq
  xlnUp : t.xlnUp = s.xlnUp
  bist : t.bist = s.bist
  fm : { t.fm with ring := s.fm.ring, head := s.fm.head, hcrc := s.fm.hcrc } = s.fm
  out : ∀ i, (laneOf t i).out = []
  lanes : ∀ i, Holds (laneOf s i) (laneOf t i)

theorem holds_inRunning {f : Lane → Lane} (h : ∀ l, Holds l (f l)) (i : LaneId) : Holds (laneOf s i) (laneOf (inRunning f s) i) := by
  rw [laneOf_inRunning]
  split
  · exact h _
  · exact .refl

theorem graded_raiseAll {k obj det : Nat} (hk : k ≠ 0x7C) (hout : ∀ i, (laneOf s i).out = []) (i : LaneId) :
    Graded (laneOf (raiseAll k obj det s) i) := by
  unfold raiseAll
  rw [laneOf_inRunning]
  have h : Graded (laneOf s i) := (told_of_nil (hout i)).graded
  split
  · exact graded_raise hk h
  · exact h

theorem told_raiseAll {k obj det : Nat} (hs : ∀ i, srcSev (laneOf s i) k (wordOf (obj % 256 + 256 * (det % 256))) < 5)
    (hout : ∀ i, (laneOf s i).out = []) (i : LaneId) : Told (laneOf (raiseAll k obj det s) i) := by
  unfold raiseAll
  rw [laneOf_inRunning]
  split
  · exact told_raise (hs i) (told_of_nil (hout i))
  · exact told_of_nil (hout i)

theorem wakeSeen_awake {w : WakeSrc} (h : ∀ i, asleep (laneOf s i) = false) :
    wakeSeen w s = { s with la := staysUp w s.la, lb := staysUp w s.lb } := by
  rw [wakeSeen_eq]
  refine wakeBy_awake fun i => ?_
  cases i
  · exact (holds_staysUp w s.la).asleep.trans (h .A)
  · exact (holds_staysUp w s.lb).asleep.trans (h .B)

theorem heard_raiseAll {k obj det : Nat} (w : WakeSrc) (hk : k ≠ 0x7C) (hout : ∀ i, (laneOf s i).out = [])
    (ha : ∀ i, asleep (laneOf s i) = false) : Heard s (wakeSeen w (settle (raiseAll k obj det s))) := by
  have hr (i : LaneId) : Holds (laneOf s i) (laneOf (raiseAll k obj det s) i) := holds_inRunning (fun _ => holds_raise) i
  have hs := settling_settle (graded_raiseAll hk hout (obj := obj) (det := det))
  have ho := settle_out (raiseAll k obj det s)
  have hl (i : LaneId) : Holds (laneOf s i) (laneOf (settle (raiseAll k obj det s)) i) := (hr i).trans (hs.lanes i).holds
  have hc := hs.calm
  have hb := hs.bist
  rw [wakeSeen_awake fun i => (hl i).asleep.trans (ha i)]
  have e : ∀ {α : Type} (f : State → α), (∀ (v : State) la lb, f { v with la := la, lb := lb } = f v) →
      f (raiseAll k obj det s) = f s := fun f hf => hf s _ _
  rw [e State.bist fun _ _ _ => rfl] at hb
  have h1 := hc.pending.trans (e State.pending fun _ _ _ => rfl)
  have h2 := hc.now.trans (e State.now fun _ _ _ => rfl)
  have h3 := hc.key.trans (e State.key fun _ _ _ => rfl)
  have h4 := hc.presReq.trans (e State.presReq fun _ _ _ => rfl)
  have h5 := hc.xlnUp.trans (e State.xlnUp fun _ _ _ => rfl)
  have h6 := hc.fm
  rw [e State.fm fun _ _ _ => rfl] at h6
  generalize settle (raiseAll k obj det s) = v at *
  refine ⟨h1, h2, h3, h4, h5, hb, h6, fun i => ?_, fun i => ?_⟩
  · cases i
    · exact (out_staysUp w v.la).trans (ho .A)
    · exact (out_staysUp w v.lb).trans (ho .B)
  · cases i
    · exact (hl .A).trans (holds_staysUp w v.la)
    · exact (hl .B).trans (holds_staysUp w v.lb)

/-- A source graded below S5 leaves a hand-over as it is. -/
theorem ho_raiseAll {k obj det : Nat} (w : WakeSrc) (hs : ∀ i, srcSev (laneOf s i) k (wordOf (obj % 256 + 256 * (det % 256))) < 5)
    (hout : ∀ i, (laneOf s i).out = []) (ha : ∀ i, asleep (laneOf s i) = false) :
    (wakeSeen w (settle (raiseAll k obj det s))).ho = s.ho := by
  have h := steady_settle (told_raiseAll hs hout)
  have hr (i : LaneId) : Holds (laneOf s i) (laneOf (raiseAll k obj det s) i) := holds_inRunning (fun _ => holds_raise) i
  rw [wakeSeen_awake fun i => ((hr i).trans (h.lanes i).holds).asleep.trans (ha i)]
  exact h.ho

end
end Sys2Proof.Machine

namespace Sys2Proof.Machine

/-! ### Commands that wait, and their end (R437, R438) -/

section
variable {l m : Lane} {s t u : State} {code res : Nat}

/-- The ring of frame memory holds the record of a protected command. -/
def RingHas (code res : Nat) (t : State) : Prop := ∃ e ∈ t.fm.ring, e.kind = 2 ∧ e.code = code ∧ e.ctx0 = wordOf (code + 256 * res)

theorem mem_latest {α : Type} (xs : List α) (x : α) {n : Nat} (hn : 0 < n) : x ∈ (xs ++ [x]).drop ((xs ++ [x]).length - n) := by
  rw [List.drop_append_of_le_length (by rw [List.length_append, List.length_singleton]; omega)]
  exact List.mem_append_right _ (List.mem_singleton.mpr rfl)

theorem mem_fmPush (e : PeatEntry) (s : State) : e ∈ (fmPush e s).fm.ring := by
  unfold fmPush fmRing
  dsimp only
  generalize hn : (256 : Nat) = n
  exact mem_latest s.fm.ring e (by omega)

theorem Recorded.ringHas (h : Recorded code res s t) : RingHas code res t := by
  obtain ⟨e, he, hfm⟩ := h.ring
  exact ⟨e, by rw [hfm]; exact mem_fmPush e s, he⟩

theorem Recorded.presReq (h : Recorded code res s t) : t.presReq = s.presReq := h.steady.calm.presReq

theorem Recorded.sto (h : Recorded code res s t) : t.fm.sto = s.fm.sto := (congrArg FrameMem.sto h.steady.calm.fm :)

theorem Recorded.rper (h : Recorded code res s t) : t.fm.rper = s.fm.rper := (congrArg FrameMem.rper h.steady.calm.fm :)

theorem Recorded.lane (h : Recorded code res s t) (i : LaneId) : Noted (laneOf s i) (laneOf t i) := h.steady.lanes i

/-- Whatever the lanes ask for, the record of a protected command is made quietly. -/
theorem calm_protRec (code res : Nat) (s : State) : Calm s (protRec code res s) := by
  rw [protRec_eq]
  have h1 : Calm s { s with la := logLane s.now code (wordOf (code + 256 * res)) s.la, lb := logLane s.now code (wordOf (code + 256 * res)) s.lb } :=
    calm_lanes rfl (noted_logLane ..).quiet (noted_logLane ..).quiet
  refine (h1.trans (calm_modLane _ _ _ fun l => ?_)).trans (calm_settle _)
  exact (noted_ite (noted_fmWrite ..) .refl).quiet

/-! #### Asking for a press -/

theorem protAsk_noKey (c : ProtCmd) (h : s.key = false) : protAsk c s = .next (protRec (protCode c) 1 s) :=
  if_pos (by rw [h]; rfl)

theorem protAsk_busy (c : ProtCmd) (h : s.key = true) (hr : s.presReq ≠ none) : protAsk c s = .next (protRec (protCode c) 4 s) := by
  unfold protAsk
  rw [if_neg (by rw [h]; exact Bool.false_ne_true)]
  cases hp : s.presReq with
  | some r => rfl
  | none => exact absurd hp hr

theorem protAsk_free (c : ProtCmd) (h : s.key = true) (hr : s.presReq = none) :
    protAsk c s = .next { s with presReq := some { cmd := c, since := s.now } } := by
  unfold protAsk
  rw [if_neg (by rw [h]; exact Bool.false_ne_true), hr]

/-- A command of class key and button, as R437 and R438 take it. -/
theorem protAsk_taken (c : ProtCmd) (hout : ∀ i, (laneOf s i).out = []) (hp : s.la.powered = true ∨ s.lb.powered = true) :
    (s.key = false → ∃ t, protAsk c s = .next t ∧ t.presReq = s.presReq ∧ RingHas (protCode c) 1 t) ∧
    (s.key = true → s.presReq ≠ none → ∃ t, protAsk c s = .next t ∧ t.presReq = s.presReq ∧ RingHas (protCode c) 4 t) ∧
    (s.key = true → s.presReq = none → ∃ t, protAsk c s = .next t ∧ t = { s with presReq := some { cmd := c, since := s.now } }) := by
  have hrec (res : Nat) := protRec_recorded (protCode c) res hout hp
  exact ⟨fun h => ⟨_, protAsk_noKey c h, (hrec 1).presReq, (hrec 1).ringHas⟩,
    fun h hr => ⟨_, protAsk_busy c h hr, (hrec 4).presReq, (hrec 4).ringHas⟩, fun h hr => ⟨_, protAsk_free c h hr, rfl⟩⟩

/-! #### The wait's end -/

theorem out_tickTo (t : Nat) (hout : ∀ i, (laneOf s i).out = []) (i : LaneId) : (laneOf (tickTo t s) i).out = [] :=
  (congrArg Lane.out (timePassed_tickTo t s i).rest :).trans (hout i)

theorem powered_tickTo (t : Nat) (hp : s.la.powered = true ∨ s.lb.powered = true) :
    (tickTo t s).la.powered = true ∨ (tickTo t s).lb.powered = true :=
  hp.imp (fun h => (timePassed_tickTo t s .A).powered.trans h) fun h => (timePassed_tickTo t s .B).powered.trans h

theorem execPresenceRequestTimeout_eq {r : PresReq} (h : s.presReq = some r)
    (hu : u = tickTo (r.since + pressWait) { s with presReq := none }) :
    execPresenceRequestTimeout s = .next (protRec (protCode r.cmd) 2 u) := by
  unfold execPresenceRequestTimeout
  rw [h, hu]

theorem presenceRequest_timesOut {r : PresReq} (h : s.presReq = some r) (hout : ∀ i, (laneOf s i).out = [])
    (hp : s.la.powered = true ∨ s.lb.powered = true) : ∃ t, execPresenceRequestTimeout s = .next t ∧
      t.presReq = none ∧ RingHas (protCode r.cmd) 2 t ∧ t.key = s.key ∧ t.fm.sto = s.fm.sto ∧ t.now = max s.now (r.since + 96000000000) := by
  obtain ⟨u, hu⟩ : ∃ u, u = tickTo (r.since + pressWait) { s with presReq := none } := ⟨_, rfl⟩
  have ho : ∀ i, (laneOf u i).out = [] := fun i => by
    rw [hu]
    exact out_tickTo _ (fun i => by cases i; exacts [hout .A, hout .B]) i
  have hw : u.la.powered = true ∨ u.lb.powered = true := hu ▸ powered_tickTo (s := { s with presReq := none }) _ hp
  have hrest := tickTo_rest (r.since + pressWait) { s with presReq := none }
  have hn : u.now = max s.now (r.since + pressWait) := hu ▸ tickTo_now _ _
  rw [← hu] at hrest
  have hrec := protRec_recorded (protCode r.cmd) 2 ho hw
  refine ⟨_, execPresenceRequestTimeout_eq h hu, ?_, hrec.ringHas, ?_, ?_, ?_⟩
  · rw [hrec.presReq, hrest]
  · rw [hrec.steady.calm.key, hrest]
  · rw [hrec.sto, hrest]
  · rw [hrec.steady.calm.now, hn, pressWait]

/-! #### The key switch -/

/-- What stands outside the lanes of a command that waits. -/
def SamePress (s t : State) : Prop := t.key = s.key ∧ t.presReq = s.presReq

theorem Calm.samePress (h : Calm s t) : SamePress s t := ⟨h.key, h.presReq⟩

theorem SamePress.trans (h : SamePress s t) (g : SamePress t u) : SamePress s u := ⟨g.1.trans h.1, g.2.trans h.2⟩

theorem samePress_restartBase (s : State) : SamePress s (restartBase s) := by
  rw [restartBase_eq rfl]
  have h := tickTo_rest (ceilTo 3200000 s.now) s
  generalize tickTo (ceilTo 3200000 s.now) s = u at *
  rw [h]
  exact ⟨rfl, rfl⟩

theorem samePress_wakeBy (f : Lane → Option (Nat × Nat × Nat)) (s : State) : SamePress s (wakeBy f s) := by
  by_cases h : ∃ i, (if asleep (laneOf s i) then f (laneOf s i) else none).isSome = true
  · obtain ⟨u, hu⟩ : ∃ u, u = restartBase s := ⟨_, rfl⟩
    rw [wakeBy_eq hu h]
    have hv : SamePress s u := hu ▸ samePress_restartBase s
    have hw : SamePress u { u with la := wokenBy f u.now u.la, lb := wokenBy f u.now u.lb, links := u.links.map fun k => { k with dark := k.shut } } :=
      ⟨rfl, rfl⟩
    exact (hv.trans hw).trans (calm_settle _).samePress
  · rw [wakeBy_idle fun i => Option.not_isSome_iff_eq_none.mp fun hi => h ⟨i, hi⟩]
    exact ⟨rfl, rfl⟩

theorem samePress_wakeSeen (w : WakeSrc) (s : State) : SamePress s (wakeSeen w s) := by
  rw [wakeSeen_eq]
  have h : SamePress s { s with la := staysUp w s.la, lb := staysUp w s.lb } := ⟨rfl, rfl⟩
  exact h.trans (samePress_wakeBy _ _)

theorem execKeySwitchChange_eq {b : Bool} (h : b ≠ s.key) (hu : u = wakeSeen .key (settle (raiseAll 0x82 (b2n b) 0 { s with key := b }))) :
    execKeySwitchChange b s = match u.presReq with
      | some r => if b then .next u else .next (protRec (protCode r.cmd) 1 { u with presReq := none })
      | none => .next u := by
  unfold execKeySwitchChange
  extract_lets v
  have e : v = u := hu.symm
  clear_value v
  subst e
  exact if_neg (Ne.symm h)

/-- The raise of a turned key. -/
theorem vis_raiseAll {k obj : Nat} {i : LaneId} (hr : laneRuns (laneOf s i) = true) :
    ∃ r ∈ (laneOf (raiseAll k obj 0 s) i).vis, r.src = k ∧ r.ctx0 = wordOf (obj % 256 + 256 * (0 % 256)) := by
  unfold raiseAll
  rw [laneOf_inRunning_of hr]
  exact raise_vis

theorem keySwitch_turned {b : Bool} {i : LaneId} (h : b ≠ s.key) : ∃ t, execKeySwitchChange b s = .next t ∧ t.key = b ∧
    (b = true → t.presReq = s.presReq) ∧ (b = false → t.presReq = none) ∧
    (laneRuns (laneOf s i) = true → ∃ r ∈ (laneOf t i).vis, r.src = 0x82 ∧ r.ctx0 = wordOf b.toNat) := by
  obtain ⟨v, hv⟩ : ∃ v, v = raiseAll 0x82 (b2n b) 0 { s with key := b } := ⟨_, rfl⟩
  obtain ⟨u, hu⟩ : ∃ u, u = wakeSeen .key (settle v) := ⟨_, rfl⟩
  have hp : SamePress v u := hu ▸ (calm_settle v).samePress.trans (samePress_wakeSeen .key _)
  have hkey : u.key = b := hp.1.trans (by rw [hv]; rfl)
  have hpres : u.presReq = s.presReq := hp.2.trans (by rw [hv]; rfl)
  have hvis : laneRuns (laneOf s i) = true → ∃ r ∈ (laneOf u i).vis, r.src = 0x82 ∧ r.ctx0 = wordOf b.toNat := fun hr => by
    have e : laneOf { s with key := b } i = laneOf s i := by cases i <;> rfl
    obtain ⟨r, hr, hsrc, hctx⟩ := vis_raiseAll (k := 0x82) (obj := b2n b) (s := { s with key := b }) (i := i) (e ▸ hr)
    rw [← hv] at hr
    have hsv : SameVis v u := hu ▸ (calm_settle v).sameVis.trans (sameVis_wakeSeen .key _)
    refine ⟨r, by rw [hsv i]; exact hr, hsrc, hctx.trans ?_⟩
    cases b <;> rfl
  have he := execKeySwitchChange_eq (u := u) h (by rw [hu, hv])
  cases hr : u.presReq with
  | none =>
    rw [hr] at he
    exact ⟨u, he, hkey, fun _ => hpres, fun _ => hr, hvis⟩
  | some r =>
    rw [hr] at he
    cases b with
    | true => exact ⟨u, he, hkey, fun _ => hpres, fun h => absurd h (by decide), hvis⟩
    | false =>
      have hc := calm_protRec (protCode r.cmd) 1 { u with presReq := none }
      refine ⟨_, he, hc.key.trans hkey, fun h => absurd h (by decide), fun _ => hc.presReq, fun hl => ?_⟩
      obtain ⟨r, hr, hx⟩ := hvis hl
      have e : (laneOf { u with presReq := none } i).vis = (laneOf u i).vis := by cases i <;> rfl
      exact ⟨r, by rw [hc.sameVis i, e]; exact hr, hx⟩

end
end Sys2Proof.Machine

namespace Sys2Proof.Machine

/-! ### A press of the presence button (R438) -/

section
variable {l m : Lane} {s t u v : State} {i : LaneId}

theorem execPresenceButton_eq {ms : Nat} (h : 50 ≤ ms) {r : PresReq} (hu : u = wakeSeen .presence (settle (raiseAll 0x83 0xFF 0 s)))
    (hr : u.presReq = some r) (hv : v = { u with presReq := none }) {q : State × Nat}
    (hq : q = if r.since + pressWait < u.now then (v, 2) else if u.key then protExec r.cmd v else (v, 1)) :
    execPresenceButton ms s = .next (protRec (protCode r.cmd) q.2 q.1) := by
  unfold execPresenceButton
  extract_lets w
  have e : w = u := hu.symm
  clear_value w
  subst e hv
  rw [if_neg (Nat.not_lt.mpr h), hr, hq]

/-- The state in which a press confirms the request that waits, and what confirming it does. -/
structure Pressed (ms : Nat) (r : PresReq) (s v : State) : Prop where
  pending : v.pending = s.pending
  now : v.now = s.now
  key : v.key = s.key
  presReq : v.presReq = none
  xlnUp : v.xlnUp = s.xlnUp
  bist : v.bist = s.bist
  sto : v.fm.sto = s.fm.sto
  out : ∀ i, (laneOf v i).out = []
  lanes : ∀ i, Holds (laneOf s i) (laneOf v i)
  ho : (∀ j, fget (laneOf s j) (FLT_SEV_SEV 0x83) < 5) → v.ho = s.ho
  late : r.since + 96000000000 < s.now → execPresenceButton ms s = .next (protRec (protCode r.cmd) 2 v)
  noKey : s.now ≤ r.since + 96000000000 → s.key = false → execPresenceButton ms s = .next (protRec (protCode r.cmd) 1 v)
  confirms : s.now ≤ r.since + 96000000000 → s.key = true →
    execPresenceButton ms s = .next (protRec (protCode r.cmd) (protExec r.cmd v).2 (protExec r.cmd v).1)

theorem srcSev_presence {c0 : Word} (h : fget l (FLT_SEV_SEV 0x83) < 5) : srcSev l 0x83 c0 < 5 := by
  unfold srcSev
  dsimp only
  rw [if_pos (by omega)]
  exact h

theorem presence_pressed {ms : Nat} (h50 : 50 ≤ ms) {r : PresReq} (hr : s.presReq = some r) (hout : ∀ i, (laneOf s i).out = [])
    (ha : ∀ i, asleep (laneOf s i) = false) : ∃ v, Pressed ms r s v := by
  obtain ⟨u, hu⟩ : ∃ u, u = wakeSeen .presence (settle (raiseAll 0x83 0xFF 0 s)) := ⟨_, rfl⟩
  have hh : Heard s u := hu ▸ heard_raiseAll .presence (by decide) hout ha
  have hho (hs : ∀ j, fget (laneOf s j) (FLT_SEV_SEV 0x83) < 5) : u.ho = s.ho := by
    rw [hu]
    exact ho_raiseAll .presence (fun i => srcSev_presence (hs i)) hout ha
  obtain ⟨v, hv⟩ : ∃ v : State, v = { u with presReq := none } := ⟨_, rfl⟩
  have he := fun {q} => execPresenceButton_eq (q := q) h50 hu (hh.presReq.trans hr) hv
  have hw : pressWait = 96000000000 := rfl
  rw [hh.now, hh.key, hw] at he
  have hlane (i : LaneId) : laneOf v i = laneOf u i := by rw [hv]; cases i <;> rfl
  have hsto : v.fm.sto = s.fm.sto := by
    rw [hv]
    exact (congrArg FrameMem.sto hh.fm :)
  have hfields : v.pending = s.pending ∧ v.now = s.now ∧ v.key = s.key ∧ v.presReq = none ∧ v.xlnUp = s.xlnUp ∧ v.bist = s.bist ∧ v.ho = u.ho := by
    rw [hv]
    exact ⟨hh.pending, hh.now, hh.key, rfl, hh.xlnUp, hh.bist, rfl⟩
  obtain ⟨h1, h2, h3, h4, h5, h6, h7⟩ := hfields
  refine ⟨v, h1, h2, h3, h4, h5, h6, hsto, fun i => ?_, fun i => ?_, fun hs => h7.trans (hho hs),
    fun hl => ?_, fun hl hk => ?_, fun hl hk => ?_⟩
  · rw [hlane]
    exact hh.out i
  · rw [hlane]
    exact hh.lanes i
  · exact he (q := (v, 2)) (if_pos hl).symm
  · refine he (q := (v, 1)) ?_
    rw [if_neg (Nat.not_lt.mpr hl), hk]
    rfl
  · refine he ?_
    rw [if_neg (Nat.not_lt.mpr hl), hk]
    rfl

section
variable {ms : Nat} {r : PresReq}

theorem Pressed.powered (h : Pressed ms r s v) (hp : s.la.powered = true ∨ s.lb.powered = true) : v.la.powered = true ∨ v.lb.powered = true :=
  hp.imp (fun hp => (h.lanes .A).carried.powered.trans hp) fun hp => (h.lanes .B).carried.powered.trans hp

/-- The record of a command that changes nothing by itself. -/
theorem Pressed.recorded (h : Pressed ms r s v) (hp : s.la.powered = true ∨ s.lb.powered = true) (code res : Nat) :
    Recorded code res v (protRec code res v) := protRec_recorded code res h.out (h.powered hp)

theorem xlnOn_congr (h : ∀ i, Holds (laneOf s i) (laneOf t i)) (hx : t.xlnUp = s.xlnUp) : xlnOn t = xlnOn s := by
  have hd (i : LaneId) : fget (laneOf t i) CLK_DOM_RUN = fget (laneOf s i) CLK_DOM_RUN := (h i).carried.fget not_outcomeReg_CLK_DOM
  unfold xlnOn
  rw [show t.la.powered = s.la.powered from (h .A).carried.powered, show t.lb.powered = s.lb.powered from (h .B).carried.powered,
    show fget t.la CLK_DOM_RUN = fget s.la CLK_DOM_RUN from hd .A, show fget t.lb CLK_DOM_RUN = fget s.lb CLK_DOM_RUN from hd .B, hx]

theorem peerStandby_congr (h : ∀ i, Holds (laneOf s i) (laneOf t i)) (hx : t.xlnUp = s.xlnUp) (i : LaneId) : peerStandby t i = peerStandby s i := by
  unfold peerStandby
  dsimp only
  rw [(h (otherLane i)).carried.powered, (h (otherLane i)).role, xlnOn_congr h hx]

theorem allBanked_congr (h : ∀ i, Holds (laneOf s i) (laneOf t i)) : allBanked t = allBanked s := by
  unfold allBanked
  have ha : laneRuns t.la = laneRuns s.la := (h .A).laneRuns
  have hb : laneRuns t.lb = laneRuns s.lb := (h .B).laneRuns
  have e1 : (fun a : Fin 16 => !(axPeriods t.la a)) = fun a : Fin 16 => !(axPeriods s.la a) :=
    funext fun a => congrArg not ((h .A).axPeriods a)
  have e2 : (fun a : Fin 16 => !(axPeriods t.lb a)) = fun a : Fin 16 => !(axPeriods s.lb a) :=
    funext fun a => congrArg not ((h .B).axPeriods a)
  dsimp only
  rw [ha, hb, e1, e2]

/-! #### Clearing the logs -/

/-- A powered lane whose Peat log is cleared. -/
def logCleared (l : Lane) : Lane :=
  if l.powered then
    stk (fsetB (fsetB (fset (fset { l with peat := [], peatQ := [] } PEAT_HELD_N 0) PEAT_RSTS_VALID 0) PEAT_STS_WRAP false)
      PEAT_STS_BUSY false) PEAT_STK_CLEARED
  else l

theorem protExec_peatClear (v : State) : protExec .peatClear v = ({ v with la := logCleared v.la, lb := logCleared v.lb }, 0) := rfl

theorem logCleared_peat (h : l.powered = true) : (logCleared l).peat = [] := by
  unfold logCleared
  rw [if_pos h]
  rfl

theorem logCleared_held (h : l.powered = true) : fget (logCleared l) PEAT_HELD_N = 0 := by
  unfold logCleared
  rw [if_pos h]
  have h1 : fget (fset { l with peat := [], peatQ := [] } PEAT_HELD_N 0) PEAT_HELD_N = 0 := by
    rw [fget_fset_self _ _ _ (by simp [PEAT_HELD_N])]
    rfl
  generalize fset { l with peat := [], peatQ := [] } PEAT_HELD_N 0 = k at *
  unfold fget at h1 ⊢
  rw [rget_stk_ne _ _ (by simp [PEAT_HELD_N, PEAT_HELD, PEAT_STK_CLEARED, PEAT_STK]) (by simp [PEAT_HELD_N, PEAT_HELD, FLT_STK]),
    rget_fsetB_ne _ PEAT_STS_BUSY _ (by simp [PEAT_HELD_N, PEAT_HELD, PEAT_STS_BUSY, PEAT_STS]),
    rget_fsetB_ne _ PEAT_STS_WRAP _ (by simp [PEAT_HELD_N, PEAT_HELD, PEAT_STS_WRAP, PEAT_STS]),
    rget_fset_ne _ PEAT_RSTS_VALID _ (by simp [PEAT_HELD_N, PEAT_HELD, PEAT_RSTS_VALID, PEAT_RSTS])]
  exact h1

theorem logCleared_out (l : Lane) : (logCleared l).out = l.out := by
  unfold logCleared
  split
  · exact stk_out _ _
  · rfl

theorem logCleared_powered (l : Lane) : (logCleared l).powered = l.powered := by
  unfold logCleared
  split
  · rfl
  · rfl

theorem not_settleReg_PEAT_HELD : ¬ SettleReg PEAT_HELD := fun h => by
  have := h.num
  simp [PEAT_HELD] at this

theorem Pressed.peatClear (h : Pressed ms r s v) (hp : s.la.powered = true ∨ s.lb.powered = true) :
    let t := protRec 8 0 { v with la := logCleared v.la, lb := logCleared v.lb }
    t.presReq = none ∧ RingHas 8 0 t ∧ ((laneOf s i).powered = true → (laneOf t i).peat = [] ∧ fget (laneOf t i) PEAT_HELD_N = 0) := by
  obtain ⟨w, hw⟩ : ∃ w : State, w = { v with la := logCleared v.la, lb := logCleared v.lb } := ⟨_, rfl⟩
  have hl (j : LaneId) : laneOf w j = logCleared (laneOf v j) := by rw [hw]; cases j <;> rfl
  have hrec : Recorded 8 0 w (protRec 8 0 w) := protRec_recorded 8 0 (fun j => by rw [hl, logCleared_out]; exact h.out j)
    ((h.powered hp).imp (fun hp => by rw [show w.la = _ from hl .A, logCleared_powered]; exact hp)
      fun hp => by rw [show w.lb = _ from hl .B, logCleared_powered]; exact hp)
  dsimp only
  rw [← hw]
  refine ⟨hrec.presReq.trans (by rw [hw]; exact h.presReq), hrec.ringHas, fun hpow => ?_⟩
  have hq := (hrec.lane i).quiet
  have hv : (laneOf v i).powered = true := (h.lanes i).carried.powered.trans hpow
  rw [hl i] at hq
  exact ⟨(congrArg Lane.peat hq.rest :).trans (logCleared_peat hv),
    (hq.fget (f := PEAT_HELD_N) not_settleReg_PEAT_HELD).trans (logCleared_held hv)⟩

theorem fmPush_first (e : PeatEntry) (v : State) : (fmPush e (fmRing v [] 0)).fm.ring.length = 1 ∧ (fmPush e (fmRing v [] 0)).fm.head = 1 := by
  unfold fmPush fmRing
  dsimp only
  simp

theorem Pressed.fmClear (h : Pressed ms r s v) (hp : s.la.powered = true ∨ s.lb.powered = true) :
    let t := protRec 9 0 (fmRing v [] 0)
    t.presReq = none ∧ t.fm.ring.length = 1 ∧ t.fm.head = 1 := by
  have hrec : Recorded 9 0 (fmRing v [] 0) (protRec 9 0 (fmRing v [] 0)) :=
    protRec_recorded 9 0 (fun j => by cases j; exacts [h.out .A, h.out .B]) (h.powered hp)
  obtain ⟨e, -, hfm⟩ := hrec.ring
  refine ⟨hrec.presReq.trans h.presReq, ?_, ?_⟩
  · rw [hfm]
    exact (fmPush_first e v).1
  · rw [hfm]
    exact (fmPush_first e v).2

/-! #### The STO configuration -/

/-- The loss of the permits asks axes for STO, and changes no register. -/
theorem permitAsk_frame (l : Lane) : (permitAsk l).out = l.out ∧ (permitAsk l).powered = l.powered ∧ ∀ r, rget (permitAsk l) r = rget l r := by
  have hone (k : Lane) (a : Axis) : (if axPeriods k a && !(axSupers k a 9) then axAsk k a 9 else k).out = k.out := out_ite (out_axAsk k a 9) rfl
  refine ⟨out_foldl hone _ l, (Touches.permitAsk (R := fun _ => False) .refl).powered, fun r => ?_⟩
  exact (Touches.permitAsk (R := fun _ => False) .refl).regs r id

theorem permitLoss_lane (b w : State) (j : LaneId) : (laneOf (permitLoss b w) j).out = (laneOf w j).out ∧
    (laneOf (permitLoss b w) j).powered = (laneOf w j).powered ∧ ∀ r, rget (laneOf (permitLoss b w) j) r = rget (laneOf w j) r := by
  unfold permitLoss
  split
  · rw [laneOf_inRunning]
    split
    · exact permitAsk_frame _
    · exact ⟨rfl, rfl, fun _ => rfl⟩
  · exact ⟨rfl, rfl, fun _ => rfl⟩

theorem permitLoss_fm (b w : State) : (permitLoss b w).fm = w.fm ∧ (permitLoss b w).presReq = w.presReq := by
  unfold permitLoss
  split <;> exact ⟨rfl, rfl⟩

/-- What a powered lane shows of frame memory. -/
theorem showFrame_spec (w : State) (l : Lane) : (showFrame w l).out = l.out ∧ (showFrame w l).powered = l.powered ∧
    fget (showFrame w l) PEAT_FMCFG_STO = w.fm.sto % 4 ∧ fget (showFrame w l) PEAT_FMCFG_RPER = w.fm.rper % 256 := by
  unfold showFrame
  extract_lets k
  have h1 : fget k PEAT_FMCFG_RPER = w.fm.rper % 256 := fget_fset_self _ _ _ (by simp [PEAT_FMCFG_RPER])
  have h0 : fget k PEAT_FMCFG_STO = w.fm.sto % 4 := by
    rw [fget_fset_apart _ PEAT_FMCFG_RPER PEAT_FMCFG_STO _ rfl (by simp [PEAT_FMCFG_RPER, PEAT_FMCFG_STO]) (by simp [PEAT_FMCFG_RPER])]
    exact fget_fset_self _ _ _ (by simp [PEAT_FMCFG_STO])
  have hf (f : Field) (hf : f.addr = PEAT_FMCFG) :
      fget (rset (rset k BST_RNEXT (wordOf (w.fm.rnext % 2 ^ 32))) BST_RNEXTH (wordOf (w.fm.rnext / 2 ^ 32))) f = fget k f := by
    unfold fget
    rw [rget_rset_ne _ _ (by rw [hf]; simp [PEAT_FMCFG, BST_RNEXTH]), rget_rset_ne _ _ (by rw [hf]; simp [PEAT_FMCFG, BST_RNEXT])]
  exact ⟨rfl, rfl, (hf _ rfl).trans h0, (hf _ rfl).trans h1⟩

/-- A powered lane shows frame memory. -/
def frameShown (w : State) (l : Lane) : Lane := if l.powered then showFrame w l else l

theorem setFrame_eq {f : FrameMem → FrameMem} {w : State} (hw : w = { v with fm := f v.fm }) :
    setFrame f v = { w with la := frameShown w w.la, lb := frameShown w w.lb } := by
  rw [hw]
  rfl

theorem frameShown_out (w : State) (l : Lane) : (frameShown w l).out = l.out := out_ite (showFrame_spec w l).1 rfl

theorem frameShown_powered (w : State) (l : Lane) : (frameShown w l).powered = l.powered := by
  unfold frameShown
  split
  · exact (showFrame_spec w l).2.1
  · rfl

theorem not_settleReg_PEAT_FMCFG : ¬ SettleReg PEAT_FMCFG := fun h => by
  have := h.num
  simp [PEAT_FMCFG] at this

theorem Pressed.stoConfig (h : Pressed ms r s v) (hp : s.la.powered = true ∨ s.lb.powered = true) (cfg : BitVec 2) :
    let t := protRec 10 0 (permitLoss v (setFrame (fun f => { f with sto := cfg.toNat }) v))
    t.presReq = none ∧ t.fm.sto = cfg.toNat ∧ ((laneOf s i).powered = true → fget (laneOf t i) PEAT_FMCFG_STO = cfg.toNat) := by
  obtain ⟨w, hw⟩ : ∃ w : State, w = { v with fm := { v.fm with sto := cfg.toNat } } := ⟨_, rfl⟩
  have hwl (j : LaneId) : laneOf w j = laneOf v j := by rw [hw]; cases j <;> rfl
  have hsto : w.fm.sto = cfg.toNat := by rw [hw]
  have hwp : w.presReq = none := by rw [hw]; exact h.presReq
  rw [setFrame_eq (f := fun f => { f with sto := cfg.toNat }) hw]
  obtain ⟨x, hx⟩ : ∃ x : State, x = permitLoss v { w with la := frameShown w w.la, lb := frameShown w w.lb } := ⟨_, rfl⟩
  have hxl (j : LaneId) : (laneOf x j).out = (frameShown w (laneOf v j)).out ∧ (laneOf x j).powered = (frameShown w (laneOf v j)).powered ∧
      ∀ a, rget (laneOf x j) a = rget (frameShown w (laneOf v j)) a := by
    have e := permitLoss_lane v { w with la := frameShown w w.la, lb := frameShown w w.lb } j
    rw [show laneOf { w with la := frameShown w w.la, lb := frameShown w w.lb } j = frameShown w (laneOf v j) by
      rw [← hwl]; cases j <;> rfl, ← hx] at e
    exact e
  have hxf := permitLoss_fm v { w with la := frameShown w w.la, lb := frameShown w w.lb }
  rw [← hx] at hxf ⊢
  have hpow (j : LaneId) : (laneOf x j).powered = (laneOf s j).powered := by
    rw [(hxl j).2.1, frameShown_powered]
    exact (h.lanes j).carried.powered
  have hrec : Recorded 10 0 x (protRec 10 0 x) :=
    protRec_recorded 10 0 (fun j => by rw [(hxl j).1, frameShown_out]; exact h.out j) (hp.imp (hpow .A).trans (hpow .B).trans)
  refine ⟨hrec.presReq.trans (hxf.2.trans hwp), hrec.sto.trans ((congrArg FrameMem.sto hxf.1).trans hsto), fun hl => ?_⟩
  have hv : (laneOf v i).powered = true := (h.lanes i).carried.powered.trans hl
  rw [(hrec.lane i).quiet.fget (f := PEAT_FMCFG_STO) not_settleReg_PEAT_FMCFG]
  have e : fget (laneOf x i) PEAT_FMCFG_STO = fget (showFrame w (laneOf v i)) PEAT_FMCFG_STO := by
    unfold fget
    rw [(hxl i).2.2, frameShown, if_pos hv]
  obtain ⟨-, -, hshow, -⟩ := showFrame_spec w (laneOf v i)
  rw [e, hshow, hsto]
  exact Nat.mod_eq_of_lt cfg.isLt

end
end
end Sys2Proof.Machine

namespace Sys2Proof.Machine

/-! ### Roles by force (R426), and requests refused at their execution -/

section
variable {l m : Lane} {s t u v : State} {i : LaneId} {ms : Nat} {r : PresReq}

/-- A role set by command. -/
theorem settle_setRole {role : Nat} (hr : role < 8) (hout : ∀ j, (laneOf v j).out = []) :
    let w := settle (modLane v i (setRole v.now role))
    (∀ j, (laneOf w j).out = []) ∧ (∀ j, (laneOf w j).powered = (laneOf v j).powered) ∧ w.presReq = v.presReq ∧ roleOf (laneOf w i) = role := by
  dsimp only
  have hc : Calm v (modLane v i (setRole v.now role)) := calm_modLane v i _ fun l => quiet_setRole _ _ l
  have htold (j : LaneId) : Told (laneOf (modLane v i (setRole v.now role)) j) := by
    have h := bothAskRecords_modLane v i fun l => asksRecords_setRole v.now role l
    exact (h j).told (told_of_nil (hout j))
  have hi : roleOf (laneOf (modLane v i (setRole v.now role)) i) = role := by
    rw [laneOf_modLane]
    exact roleOf_setRole _ hr _
  generalize modLane v i (setRole v.now role) = x at *
  have hs := steady_settle htold
  exact ⟨settle_out x, fun j => ((hs.lanes j).quiet.touches.powered).trans (hc.lanes j).touches.powered,
    hs.calm.presReq.trans hc.presReq, (hs.lanes i).role.trans hi⟩

theorem Pressed.forceOut (h : Pressed ms r s v) (hp : s.la.powered = true ∨ s.lb.powered = true) (hpow : (laneOf s i).powered = true)
    (hrole : roleOf (laneOf s i) = roleStandby ∨ roleOf (laneOf s i) = roleCatchUp) :
    let q := forceRole i false v
    let t := protRec 11 q.2 q.1
    t.presReq = none ∧ roleOf (laneOf t i) = roleOut ∧ RingHas 11 0 t := by
  have hq : forceRole i false v = (settle (modLane v i (setRole v.now roleOut)), 0) := by
    unfold forceRole
    rw [if_neg Bool.false_ne_true]
    refine if_pos ?_
    rw [(h.lanes i).carried.powered, (h.lanes i).role, hpow, Bool.true_and, Bool.or_eq_true, decide_eq_true_iff, decide_eq_true_iff]
    exact hrole
  dsimp only
  rw [hq]
  obtain ⟨hout, hpw, hpres, hr⟩ := settle_setRole (i := i) (role := roleOut) (by decide) h.out
  dsimp only
  generalize settle (modLane v i (setRole v.now roleOut)) = w at *
  have hrec : Recorded 11 0 w (protRec 11 0 w) :=
    protRec_recorded 11 0 hout ((h.powered hp).imp (hpw .A).trans (hpw .B).trans)
  exact ⟨hrec.presReq.trans (hpres.trans h.presReq), (hrec.lane i).role.trans hr, hrec.ringHas⟩

theorem roleOf_of_peerStandby (h : peerStandby s (otherLane i) = true) : roleOf (laneOf s i) = roleStandby := by
  unfold peerStandby at h
  simp only [Bool.and_eq_true, decide_eq_true_iff] at h
  rw [← h.1.2]
  cases i <;> rfl

theorem not_laneActive_of_standby (h : roleOf l = roleStandby) : laneActive l = false := by
  have hr : fget l SYS_STS_LROLE = 2 := h
  unfold laneActive
  rw [hr]
  simp

/-- A hand-over that is asked for by an ACTIVE lane and taken at once. -/
theorem wantHandover_takes {cause : Nat} {j : LaneId} (ha : laneActive (laneOf v j) = true) (hc : hoRank cause ≠ 2)
    (ht : hoTakes cause v.ho = true) : wantHandover j cause v =
      { (modLane v j fun l => fsetB l XLN_STS_HOBUSY true) with ho := hoTake cause v.now v.ho, hoOut := v.hoOut || decide (cause = 2) } := by
  unfold wantHandover
  dsimp only
  rw [if_neg (by rw [ha]; exact Bool.false_ne_true), if_neg fun h => hc h.1, if_pos ht]

theorem hoTakes_waiting {h : Handover} (hh : h = .none ∨ ∃ c since, c ≤ 4 ∧ h = .waiting c since) (now : Nat) :
    hoTakes 8 h = true ∧ hoTake 8 now h = .waiting 8 now := by
  obtain rfl | ⟨c, since, hc, rfl⟩ := hh
  · exact ⟨rfl, rfl⟩
  · refine ⟨?_, rfl⟩
    unfold hoTakes hoRank
    dsimp only
    rw [if_pos hc]
    rfl

/-- A hand-over asked for and settled, with nothing else under way. -/
theorem settle_wantHandover {cause : Nat} {j : LaneId} (ha : laneActive (laneOf v j) = true) (hc : hoRank cause ≠ 2)
    (ht : hoTakes cause v.ho = true) (hout : ∀ k, (laneOf v k).out = []) : let w := settle (wantHandover j cause v)
    (∀ k, (laneOf w k).out = []) ∧ (∀ k, (laneOf w k).powered = (laneOf v k).powered) ∧ w.presReq = v.presReq ∧
      w.ho = hoTake cause v.now v.ho ∧ w.bist = v.bist := by
  have hs := settling_wantHandover j cause v
  have htold (k : LaneId) : Told (laneOf (wantHandover j cause v) k) :=
    (bothAskRecords_wantHandover j cause v k).told (told_of_nil (hout k))
  have hho : (wantHandover j cause v).ho = hoTake cause v.now v.ho := by rw [wantHandover_takes ha hc ht]
  dsimp only
  generalize wantHandover j cause v = x at *
  have ht := steady_settle htold
  exact ⟨settle_out x, fun k => (ht.lanes k).quiet.touches.powered.trans (hs.lanes k).quiet.touches.powered,
    ht.calm.presReq.trans hs.calm.presReq, ht.ho.trans hho, ht.bist.trans hs.bist⟩

theorem Pressed.forceActive (h : Pressed ms r s v) (hp : s.la.powered = true ∨ s.lb.powered = true)
    (hact : laneActive (laneOf s (otherLane i)) = true) (hpeer : peerStandby s (otherLane i) = true)
    (hho : s.ho = .none ∨ ∃ c since, c ≤ 4 ∧ s.ho = .waiting c since) (hsev : ∀ j, fget (laneOf s j) (FLT_SEV_SEV 0x83) < 5) :
    let q := forceRole i true v
    let t := protRec 11 q.2 q.1
    t.presReq = none ∧ t.ho = .waiting 8 s.now ∧ RingHas 11 0 t := by
  have hv := h.ho hsev
  obtain ⟨htakes, htake⟩ := hoTakes_waiting (h := v.ho) (by rw [hv]; exact hho) v.now
  have hactv : laneActive (laneOf v (otherLane i)) = true := (h.lanes (otherLane i)).laneActive.trans hact
  have hpeerv : peerStandby v (otherLane i) = true := (peerStandby_congr h.lanes h.xlnUp _).trans hpeer
  have hq : forceRole i true v = (settle (wantHandover (otherLane i) 8 v), 0) := by
    unfold forceRole
    rw [if_pos rfl]
    rw [if_neg (by rw [not_laneActive_of_standby (roleOf_of_peerStandby hpeerv)]; exact Bool.false_ne_true), if_pos]
    rw [hactv, hpeerv, htakes]
    rfl
  obtain ⟨hout, hpw, hpres, hw, -⟩ := settle_wantHandover hactv (by decide) htakes h.out
  dsimp only
  rw [hq]
  dsimp only
  generalize settle (wantHandover (otherLane i) 8 v) = w at *
  have hrec : Recorded 11 0 w (protRec 11 0 w) :=
    protRec_recorded 11 0 hout ((h.powered hp).imp (hpw .A).trans (hpw .B).trans)
  exact ⟨hrec.presReq.trans (hpres.trans h.presReq), hrec.steady.ho.trans (hw.trans (htake.trans (by rw [h.now]))), hrec.ringHas⟩

theorem Pressed.forceRefused (h : Pressed ms r s v) (hp : s.la.powered = true ∨ s.lb.powered = true) (hact : laneActive (laneOf s i) = false)
    (hno : laneActive (laneOf s (otherLane i)) = false ∨ peerStandby s (otherLane i) = false)
    (hsev : ∀ j, fget (laneOf s j) (FLT_SEV_SEV 0x83) < 5) :
    let q := forceRole i true v
    let t := protRec 11 q.2 q.1
    t.presReq = none ∧ t.ho = s.ho ∧ RingHas 11 3 t := by
  have hq : forceRole i true v = (v, 3) := by
    unfold forceRole
    rw [if_pos rfl]
    rw [(h.lanes i).laneActive, (h.lanes (otherLane i)).laneActive, peerStandby_congr h.lanes h.xlnUp, hact, if_neg Bool.false_ne_true, if_neg]
    obtain hno | hno := hno <;> simp [hno]
  dsimp only
  rw [hq]
  have hrec := h.recorded hp 11 3
  exact ⟨hrec.presReq.trans h.presReq, hrec.steady.ho.trans (h.ho hsev), hrec.ringHas⟩

theorem Pressed.activationRefused (h : Pressed ms r s v) (hp : s.la.powered = true ∨ s.lb.powered = true) (hb : allBanked s = false) :
    let q := activate v
    let t := protRec 2 q.2 q.1
    t.presReq = none ∧ RingHas 2 3 t := by
  have hq : activate v = (v, 3) := by
    unfold activate
    exact if_pos (by rw [allBanked_congr h.lanes, hb]; rfl)
  dsimp only
  rw [hq]
  have hrec := h.recorded hp 2 3
  exact ⟨hrec.presReq.trans h.presReq, hrec.ringHas⟩

/-! ### Commands of class key (R437) -/

theorem keyCmd_noKey {code : Nat} {f : State → State × Nat} (h : s.key = false) : keyCmd code f s = .next (protRec code 1 s) :=
  if_pos (by rw [h]; rfl)

theorem keyCmd_key {code : Nat} {f : State → State × Nat} {q : State × Nat} (h : s.key = true) (hq : f s = q) :
    keyCmd code f s = .next (protRec code q.2 q.1) := by
  unfold keyCmd
  rw [if_neg (by rw [h]; exact Bool.false_ne_true), hq]

theorem keyCmd_refused {code : Nat} (f : State → State × Nat) (h : s.key = false) (hout : ∀ i, (laneOf s i).out = [])
    (hp : s.la.powered = true ∨ s.lb.powered = true) : ∃ t, keyCmd code f s = .next t ∧ RingHas code 1 t ∧ t.fm.rper = s.fm.rper ∧
      ∀ j, (laneOf t j).banks = (laneOf s j).banks ∧ (laneOf t j).image = (laneOf s j).image ∧ (laneOf t j).safe = (laneOf s j).safe := by
  have hrec := protRec_recorded code 1 hout hp
  refine ⟨_, keyCmd_noKey h, hrec.ringHas, hrec.rper, fun j => ?_⟩
  have hq := (hrec.lane j).quiet.rest
  exact ⟨(congrArg Lane.banks hq :), (congrArg Lane.image hq :), (congrArg Lane.safe hq :)⟩

theorem loadBad_iff (im : Image) : loadBad s im = true ↔
    headBad s.fm.compat (some im) ≠ none ∨ im.icrc ≠ crc32c (payload im) ∨ sectionsOk im = false := by
  unfold loadBad
  rw [Bool.or_eq_true, Bool.or_eq_true, decide_eq_true_iff, Bool.not_eq_true', Option.isSome_iff_ne_none, or_assoc]

section
variable (hout : ∀ i, (laneOf s i).out = []) (hp : s.la.powered = true ∨ s.lb.powered = true) (hk : s.key = true)
include hout hp hk

/-- A command that changes nothing but leaves its record. -/
theorem keyCmd_plain {code res : Nat} {f : State → State × Nat} (hq : f s = (s, res)) :
    ∃ t, keyCmd code f s = .next t ∧ Recorded code res s t := ⟨_, keyCmd_key hk hq, protRec_recorded code res hout hp⟩

theorem imageLoad_refused {im : Image} (h : headBad s.fm.compat (some im) ≠ none ∨ im.icrc ≠ crc32c (payload im) ∨ sectionsOk im = false) :
    ∃ t, execImageLoad im s = .next t ∧ RingHas 1 5 t ∧ ∀ j, (laneOf t j).banks = (laneOf s j).banks := by
  obtain ⟨t, ht, hrec⟩ := keyCmd_plain hout hp hk (code := 1) (res := 5) (f := fun s =>
    if loadBad s im then (s, 5)
    else if !(loadable s.la || loadable s.lb) then (s, 3)
    else ({ s with la := if loadable s.la then loadBank im s.la else s.la, lb := if loadable s.lb then loadBank im s.lb else s.lb }, 0))
    (if_pos ((loadBad_iff im).mpr h))
  exact ⟨t, ht, hrec.ringHas, fun j => (congrArg Lane.banks (hrec.lane j).quiet.rest :)⟩

/-- A lane that takes an image load. -/
def loadInto (im : Image) (l : Lane) : Lane := if loadable l then loadBank im l else l

theorem imageLoad_taken {im : Image} (hh : headBad s.fm.compat (some im) = none) (hc : im.icrc = crc32c (payload im)) (ho : sectionsOk im = true)
    (hl : loadable (laneOf s i) = true) : ∃ t, execImageLoad im s = .next t ∧ RingHas 1 0 t ∧ (laneOf t i).image = (laneOf s i).image ∧
      vget (laneOf t i).banks (if fget (laneOf s i) CLK_BOOT_BANK = 0 then 1 else 0) = some im ∧
      vget (laneOf t i).banks (if fget (laneOf s i) CLK_BOOT_BANK = 0 then 0 else 1) =
        vget (laneOf s i).banks (if fget (laneOf s i) CLK_BOOT_BANK = 0 then 0 else 1) := by
  have hbad : ¬ loadBad s im = true := fun h => by
    have := (loadBad_iff im).mp h
    simp [hh, hc, ho] at this
  have hsome : ¬ (!(loadable s.la || loadable s.lb)) = true := by
    cases i
    · simp [show loadable s.la = true from hl]
    · simp [show loadable s.lb = true from hl]
  obtain ⟨w, hw⟩ : ∃ w : State, w = { s with la := loadInto im s.la, lb := loadInto im s.lb } := ⟨_, rfl⟩
  have he : execImageLoad im s = .next (protRec 1 0 w) := keyCmd_key (q := (w, 0)) hk (by
    dsimp only
    rw [if_neg hbad, if_neg hsome, hw]
    rfl)
  have hwl (j : LaneId) : laneOf w j = loadInto im (laneOf s j) := by rw [hw]; cases j <;> rfl
  have hcases (l : Lane) : (loadInto im l).out = l.out ∧ (loadInto im l).powered = l.powered := by
    unfold loadInto
    split <;> exact ⟨rfl, rfl⟩
  have hrec : Recorded 1 0 w (protRec 1 0 w) := protRec_recorded 1 0 (fun j => by rw [hwl, (hcases _).1]; exact hout j)
    (hp.imp (fun h => by rw [show w.la = _ from hwl .A, (hcases _).2]; exact h) fun h => by rw [show w.lb = _ from hwl .B, (hcases _).2]; exact h)
  have hq := (hrec.lane i).quiet.rest
  have hi : laneOf w i = loadBank im (laneOf s i) := (hwl i).trans (if_pos hl)
  rw [hi] at hq
  have hb : (laneOf (protRec 1 0 w) i).banks =
      vset (laneOf s i).banks (if fget (laneOf s i) CLK_BOOT_BANK = 0 then 1 else 0) (some im) := (congrArg Lane.banks hq :)
  refine ⟨_, he, hrec.ringHas, (congrArg Lane.image hq :), ?_, ?_⟩
  · rw [hb, vget_vset_self]
  · rw [hb]
    refine vget_vset_ne _ _ ?_
    split <;> decide

theorem rollingPeriod_set (hours : Byte) : ∃ t, execRollingSelftestPeriod hours s = .next t ∧ RingHas 3 0 t ∧ t.fm.rper = hours.toNat ∧
    ((laneOf s i).powered = true → fget (laneOf t i) PEAT_FMCFG_RPER = hours.toNat) := by
  obtain ⟨n, hn⟩ : ∃ n, n = (match activeLane s with | some i => shipNs (laneOf s i) | none => 0) + hourNs * hours.toNat := ⟨_, rfl⟩
  obtain ⟨w, hw⟩ : ∃ w : State, w = { s with fm := { s.fm with rper := hours.toNat, rnext := n } } := ⟨_, rfl⟩
  obtain ⟨x, hx⟩ : ∃ x : State, x = { w with la := frameShown w w.la, lb := frameShown w w.lb } := ⟨_, rfl⟩
  have hset : x = setFrame (fun f => { f with rper := hours.toNat, rnext := n }) s :=
    hx.trans (setFrame_eq (f := fun f => { f with rper := hours.toNat, rnext := n }) hw).symm
  have he : execRollingSelftestPeriod hours s = .next (protRec 3 0 x) := keyCmd_key (q := (x, 0)) hk (by
    rw [hset]
    subst hn
    exact rfl)
  have hwl (j : LaneId) : laneOf w j = laneOf s j := by rw [hw]; cases j <;> rfl
  have hxl (j : LaneId) : laneOf x j = frameShown w (laneOf s j) := by rw [hx, ← hwl]; cases j <;> rfl
  have hrec : Recorded 3 0 x (protRec 3 0 x) := protRec_recorded 3 0 (fun j => by rw [hxl, frameShown_out]; exact hout j)
    (hp.imp (fun h => by rw [show x.la = _ from hxl .A, frameShown_powered]; exact h)
      fun h => by rw [show x.lb = _ from hxl .B, frameShown_powered]; exact h)
  refine ⟨_, he, hrec.ringHas, hrec.rper.trans (by rw [hx, hw]), fun hl => ?_⟩
  obtain ⟨-, -, -, hshow⟩ := showFrame_spec w (laneOf s i)
  rw [(hrec.lane i).quiet.fget (f := PEAT_FMCFG_RPER) not_settleReg_PEAT_FMCFG, hxl, frameShown, if_pos hl, hshow, hw]
  exact Nat.mod_eq_of_lt hours.isLt

theorem laneRestart_refused (h : (roleOf (laneOf s i) ≠ roleOut ∧ roleOf (laneOf s i) ≠ roleFault) ∨ testOf s i 2 ≠ none ∨ laneCool s i = false) :
    ∃ t, execLaneRestart i s = .next t ∧ RingHas 5 3 t ∧ roleOf (laneOf t i) = roleOf (laneOf s i) := by
  have hq : ¬ ((laneOf s i).powered && (decide (roleOf (laneOf s i) = roleOut) || decide (roleOf (laneOf s i) = roleFault)) &&
      !(testOf s i 2).isSome && laneCool s i) = true := by
    obtain ⟨h1, h2⟩ | h | h := h
    · simp [h1, h2]
    · simp [Option.isSome_iff_ne_none.mpr h]
    · simp [h]
  obtain ⟨t, ht, hrec⟩ := keyCmd_plain hout hp hk (code := 5) (res := 3) (f := fun s =>
    let l := laneOf s i
    let test := (testOf s i 2).isSome
    if l.powered && (decide (roleOf l = roleOut) || decide (roleOf l = roleFault)) && !test && laneCool s i then
      (startLane i true (modLane s i fun l => { l with shut := false, bootLeft := none }), 0)
    else (s, 3)) (if_neg hq)
  exact ⟨t, ht, hrec.ringHas, (hrec.lane i).role⟩
end

end
end Sys2Proof.Machine

namespace Sys2Proof.Machine

/-! ### The end of S6 (R419), and the test of the ACTIVE lane (R443) -/

section
variable {l m : Lane} {s t u v : State} {i : LaneId}

theorem stoCondition_congr (hp : t.pres = s.pres) (ho : t.okc = s.okc) (hs : t.fm.sto = s.fm.sto) (hf : ∀ f, pairOn t f = pairOn s f) :
    stoCondition t = stoCondition s := by
  have e1 : fieldPresent t = fieldPresent s := funext fun f => by unfold fieldPresent; rw [hp, ho]
  have e2 : pairOn t = pairOn s := funext hf
  unfold stoCondition stoConfig
  rw [e1, e2, hs]

theorem Steady.stoCondition (h : Steady s t) : stoCondition t = stoCondition s := by
  refine stoCondition_congr h.calm.pres h.calm.okc (congrArg FrameMem.sto h.calm.fm :) fun f => ?_
  have e := h.fields f
  have ea : (vget t.fields f).stoA = (vget s.fields f).stoA := (congrArg FieldRt.stoA e :)
  have eb : (vget t.fields f).stoB = (vget s.fields f).stoB := (congrArg FieldRt.stoB e :)
  have ed : (vget t.fields f).disc = (vget s.fields f).disc := (congrArg FieldRt.disc e :)
  unfold pairOn
  dsimp only
  rw [ea, eb, ed]

/-- A link cartridge that resumes /P/ does so under the permit condition. -/
theorem resumePermits_send {k : LinkNo} (h : (vget (resumePermits s).links k).send = true) :
    stoCondition s = true ∧ linkPresent s k = true ∧ (vget (resumePermits s).links k).dark = false := by
  have e : vget (resumePermits s).links k =
      { vget s.links k with send := linkPresent s k && stoCondition s && !(safeCommanded s) && !(vget s.links k).dark } := by
    unfold resumePermits vget
    simp
  rw [e] at h ⊢
  simp only [Bool.and_eq_true, Bool.not_eq_true'] at h
  exact ⟨h.1.1.2, h.1.1.1, h.2⟩

theorem laneOf_resumePermits (s : State) (j : LaneId) : laneOf (resumePermits s) j = laneOf s j := by cases j <;> rfl

theorem noSafe_frame (l : Lane) : (noSafe l).out = l.out ∧ (noSafe l).powered = l.powered ∧ (noSafe l).safe = false ∧
    fget (noSafe l) FLT_STS_SAFE = 0 := by
  refine ⟨rfl, rfl, rfl, ?_⟩
  unfold noSafe
  rw [fget_fsetB_self _ _ _ (by simp [FLT_STS_SAFE]) (by simp [FLT_STS_SAFE])]
  rfl

/-- A lane that runs and stands in S6. -/
def InSafe (s : State) (j : LaneId) : Prop := laneRuns (laneOf s j) = true ∧ (laneOf s j).safe = true

/-- A lane that runs in which a source graded S6 lasts. -/
def SafeCause (s : State) (j : LaneId) : Prop := laneRuns (laneOf s j) = true ∧ anyS6 (laneOf s j) = true

/-- What S6_RELEASE asks of the lanes. -/
def safeMayEnd (s : State) : Bool :=
  let one (l : Lane) : Bool := laneRuns l && l.safe
  (one s.la || one s.lb) && !(laneRuns s.la && anyS6 s.la) && !(laneRuns s.lb && anyS6 s.lb)

theorem safeMayEnd_iff : safeMayEnd s = true ↔ (∃ j, InSafe s j) ∧ ∀ j, ¬ SafeCause s j := by
  unfold safeMayEnd
  simp only [Bool.and_eq_true, Bool.or_eq_true, Bool.not_eq_true']
  constructor
  · rintro ⟨⟨h, ha⟩, hb⟩
    refine ⟨h.elim (fun h => ⟨.A, h⟩) fun h => ⟨.B, h⟩, fun j hc => ?_⟩
    cases j
    · rw [show laneRuns s.la = true from hc.1, show anyS6 s.la = true from hc.2] at ha
      exact absurd ha (by decide)
    · rw [show laneRuns s.lb = true from hc.1, show anyS6 s.lb = true from hc.2] at hb
      exact absurd hb (by decide)
  · rintro ⟨⟨j, hj⟩, hc⟩
    have hn (k : LaneId) : (laneRuns (laneOf s k) && anyS6 (laneOf s k)) = false := by
      rw [← Bool.not_eq_true, Bool.and_eq_true]
      exact hc k
    refine ⟨⟨?_, hn .A⟩, hn .B⟩
    cases j
    · exact .inl hj
    · exact .inr hj

theorem execS6Release_eq : execS6Release s = keyCmd 7 (fun s => if safeMayEnd s then (resumePermits (inRunning noSafe s), 0) else (s, 3)) s := rfl

section
variable (hout : ∀ i, (laneOf s i).out = []) (hp : s.la.powered = true ∨ s.lb.powered = true)
include hout hp

theorem s6Release_ends (hk : s.key = true) (hs : ∃ j, InSafe s j) (hc : ∀ j, ¬ SafeCause s j) : ∃ t, execS6Release s = .next t ∧ RingHas 7 0 t ∧
    (∀ j, laneRuns (laneOf s j) = true → (laneOf t j).safe = false ∧ fget (laneOf t j) FLT_STS_SAFE = 0) ∧
    ∀ k, (vget t.links k).send = true → stoCondition t = true ∧ linkPresent t k = true ∧ (vget t.links k).dark = false := by
  obtain ⟨x, hx⟩ : ∃ x, x = inRunning noSafe s := ⟨_, rfl⟩
  have hxl (j : LaneId) : laneOf x j = if laneRuns (laneOf s j) then noSafe (laneOf s j) else laneOf s j := by rw [hx, laneOf_inRunning]
  have he : execS6Release s = .next (protRec 7 0 (resumePermits x)) :=
    execS6Release_eq.trans (keyCmd_key (q := (resumePermits x, 0)) hk (by rw [hx]; exact if_pos (safeMayEnd_iff.mpr ⟨hs, hc⟩)))
  have hframe (j : LaneId) : (laneOf x j).out = (laneOf s j).out ∧ (laneOf x j).powered = (laneOf s j).powered := by
    rw [hxl]
    split
    · exact ⟨(noSafe_frame _).1, (noSafe_frame _).2.1⟩
    · exact ⟨rfl, rfl⟩
  have hrec : Recorded 7 0 (resumePermits x) (protRec 7 0 (resumePermits x)) :=
    protRec_recorded 7 0 (fun j => by rw [laneOf_resumePermits, (hframe j).1]; exact hout j)
      (hp.imp (fun h => (hframe .A).2.trans h) fun h => (hframe .B).2.trans h)
  refine ⟨_, he, hrec.ringHas, fun j hj => ?_, fun k hk => ?_⟩
  · have hl : laneOf (resumePermits x) j = noSafe (laneOf s j) := by rw [laneOf_resumePermits, hxl, if_pos hj]
    have hn := hrec.lane j
    rw [hl] at hn
    obtain ⟨-, -, hsafe, hsts⟩ := noSafe_frame (laneOf s j)
    refine ⟨(congrArg Lane.safe hn.quiet.rest :).trans hsafe, ?_⟩
    refine Eq.trans ?_ hsts
    unfold fget
    rw [show FLT_STS_SAFE.addr = FLT_STS from rfl, hn.sts]
  · have hlink := hrec.steady.links k
    have hsend : (vget (protRec 7 0 (resumePermits x)).links k).send = (vget (resumePermits x).links k).send := (congrArg LinkRt.send hlink :)
    have hdark : (vget (protRec 7 0 (resumePermits x)).links k).dark = (vget (resumePermits x).links k).dark := (congrArg LinkRt.dark hlink :)
    obtain ⟨h1, h2, h3⟩ := resumePermits_send (hsend ▸ hk)
    refine ⟨hrec.steady.stoCondition.trans h1, Eq.trans ?_ h2, hdark.trans h3⟩
    unfold linkPresent
    rw [hrec.steady.calm.pres, hrec.steady.calm.okc]
    rfl

theorem s6Release_refused (hk : s.key = true) (hc : ∃ j, SafeCause s j) : ∃ t, execS6Release s = .next t ∧ RingHas 7 3 t ∧
    ∀ j, (laneOf t j).safe = (laneOf s j).safe := by
  have hrec := protRec_recorded 7 3 hout hp
  refine ⟨_, execS6Release_eq.trans (keyCmd_key (q := (s, 3)) hk (if_neg fun h => ?_)), hrec.ringHas,
    fun j => (congrArg Lane.safe (hrec.lane j).quiet.rest :)⟩
  obtain ⟨j, hj⟩ := hc
  exact (safeMayEnd_iff.mp h).2 j hj

end

/-! #### SAFECLR -/

theorem rget_fltStk_self (l : Lane) (v : Nat) : rget (fltStk l v) FLT_STK =
    rget l FLT_STK ||| BitVec.ofNat 32 (if v / 2 ^ 19 = 0 then v else v ||| 0x2000) := rget_rset_self _ _ _

theorem safeClear_refused (h : s.key = false ∨ anyS6 l = true) : RegsOnly l (safeClear s.key l) [FLT_STK] ∧
    (rget (safeClear s.key l) FLT_STK).getLsbD 22 = true := by
  have e : safeClear s.key l = fltStk l (2 ^ 22) := if_neg (by obtain h | h := h <;> simp [h])
  rw [e]
  refine ⟨⟨rfl, fun a ha => rget_stkSet_ne _ _ fun h => ha (List.mem_singleton.mpr h)⟩, ?_⟩
  have hbit : (BitVec.ofNat 32 (if 2 ^ 22 / 2 ^ 19 = 0 then 2 ^ 22 else 2 ^ 22 ||| 0x2000)).getLsbD 22 = true := by decide
  rw [rget_fltStk_self, BitVec.getLsbD_or, hbit, Bool.or_true]

theorem safeClear_taken (hk : s.key = true) (h : anyS6 l = false) : RegsOnly { l with safe := false } (safeClear s.key l) [FLT_STS] ∧
    fget (safeClear s.key l) FLT_STS_SAFE = 0 := by
  have e : safeClear s.key l = noSafe l := if_pos (by rw [hk, h]; rfl)
  rw [e]
  refine ⟨⟨rfl, fun a ha => ?_⟩, (noSafe_frame l).2.2.2⟩
  exact rget_fsetB_ne { l with safe := false } FLT_STS_SAFE false fun h => ha (List.mem_singleton.mpr h)

theorem safeclr_spec (s : State) (i : LaneId) : ∃ t, execSafeclr s = .next t ∧ t = { s with la := t.la, lb := t.lb, links := t.links } ∧
    (laneRuns (laneOf s i) = false → laneOf t i = laneOf s i) ∧
    (laneRuns (laneOf s i) = true → s.key = true → anyS6 (laneOf s i) = false →
      RegsOnly { laneOf s i with safe := false } (laneOf t i) [FLT_STS] ∧ fget (laneOf t i) FLT_STS_SAFE = 0) ∧
    (laneRuns (laneOf s i) = true → s.key = false ∨ anyS6 (laneOf s i) = true →
      RegsOnly (laneOf s i) (laneOf t i) [FLT_STK] ∧ (rget (laneOf t i) FLT_STK).getLsbD 22 = true) := by
  have hl : laneOf (resumePermits (inRunning (safeClear s.key) s)) i =
      if laneRuns (laneOf s i) then safeClear s.key (laneOf s i) else laneOf s i := by rw [laneOf_resumePermits, laneOf_inRunning]
  refine ⟨_, rfl, rfl, fun hr => ?_, fun hr hk ha => ?_, fun hr hor => ?_⟩
  · rw [hl, if_neg (by rw [hr]; exact Bool.false_ne_true)]
  · rw [hl, if_pos hr]
    exact safeClear_taken hk ha
  · rw [hl, if_pos hr]
    exact safeClear_refused hor

/-! #### BIST_ACTIVE_LANE -/

/-- A test of a lane, begun or waiting for a hand-over. -/
def activeTest (i : LaneId) (stage now : Nat) : BistRt := { lane := i, run := 3, stage := stage, roll := 0, at_ := now, due := 0, own := false }

theorem laneActive_of_activeLane (h : activeLane s = some i) : laneActive (laneOf s i) = true := by
  unfold activeLane at h
  split at h
  next ha =>
    obtain rfl := Option.some.inj h
    exact ha
  next =>
    split at h
    next hb =>
      obtain rfl := Option.some.inj h
      exact hb
    next => exact absurd h (by simp)

theorem roleOf_bistShow (s : State) (i : LaneId) : roleOf (laneOf (bistShow s) i) = roleOf (laneOf s i) := by
  unfold bistShow
  extract_lets of_ b st ln put
  have hc (l : Lane) : roleOf (put l) = roleOf l := by
    dsimp only [put]
    split
    · unfold roleOf
      rw [fget_fset_ne _ _ _ _ (by simp [SYS_STS_LROLE, SYS_STS, BST_STS_LANE, BST_STS]),
        fget_fset_ne _ _ _ _ (by simp [SYS_STS_LROLE, SYS_STS, BST_STS_STATE, BST_STS])]
    · rfl
  cases i
  · exact hc _
  · exact hc _

section
variable (hout : ∀ i, (laneOf s i).out = []) (hp : s.la.powered = true ∨ s.lb.powered = true) (hact : activeLane s = some i) (hb : s.bist = [])
include hout hact hb

theorem bistActiveLane_waits (hpeer : peerStandby s i = true) (hho : s.ho = .none) : ∃ t, execBistActiveLane s = .next t ∧
    t.ho = .waiting 3 s.now ∧ t.bist = [activeTest i 1 s.now] := by
  obtain ⟨v, hv⟩ : ∃ v : State, v = { s with bist := [activeTest i 1 s.now] } := ⟨_, rfl⟩
  have hcmd : bistCmd 3 true s = wantHandover i 3 v := by
    unfold bistCmd
    rw [hact]
    dsimp only
    rw [if_neg (by decide), if_pos hpeer, hb, if_neg (by simp), hv]
    rfl
  have he : execBistActiveLane s = .next (settle (wantHandover i 3 v)) := by
    unfold execBistActiveLane
    rw [hact]
    dsimp only
    rw [if_pos hpeer, hcmd]
  have hlane (j : LaneId) : laneOf v j = laneOf s j := by rw [hv]; cases j <;> rfl
  have hva : laneActive (laneOf v i) = true := by rw [hlane]; exact laneActive_of_activeLane hact
  have hvho : v.ho = .none := by rw [hv]; exact hho
  obtain ⟨-, -, -, h1, h2⟩ := settle_wantHandover (cause := 3) hva (by decide) (by rw [hvho]; rfl) fun k => by rw [hlane]; exact hout k
  refine ⟨_, he, ?_, ?_⟩
  · rw [h1, hvho, hv]
    rfl
  · rw [h2, hv]

include hp

theorem bistActiveLane_refused (hpeer : peerStandby s i = false) {res : Nat}
    (h : s.key = true ∧ allBanked s = false ∧ res = 3 ∨ s.key = false ∧ res = 1) :
    ∃ t, execBistActiveLane s = .next t ∧ RingHas 4 res t ∧ t.bist = [] := by
  have hrec := protRec_recorded 4 res hout hp
  refine ⟨_, ?_, hrec.ringHas, hrec.steady.bist.trans hb⟩
  unfold execBistActiveLane
  rw [hact]
  dsimp only
  rw [if_neg (by rw [hpeer]; exact Bool.false_ne_true)]
  obtain ⟨hk, hn, rfl⟩ | ⟨hk, rfl⟩ := h
  · exact keyCmd_key (q := (s, 3)) hk (if_neg (by rw [hn]; exact Bool.false_ne_true))
  · exact keyCmd_noKey hk

theorem bistActiveLane_begins (hpeer : peerStandby s i = false) (hr : laneRuns (laneOf s i) = true) (hk : s.key = true)
    (hban : allBanked s = true) : ∃ t, execBistActiveLane s = .next t ∧ RingHas 4 0 t ∧ t.bist = [activeTest i 2 s.now] ∧
      roleOf (laneOf t i) = roleOut := by
  have hall : ((allFin 16).all fun x => !(axPeriods (laneOf s i) x)) = true := by
    unfold allBanked at hban
    simp only [Bool.and_eq_true, Bool.or_eq_true, Bool.not_eq_true'] at hban
    cases i
    · exact hban.1.resolve_left fun h => Bool.false_ne_true (h.symm.trans hr)
    · exact hban.2.resolve_left fun h => Bool.false_ne_true (h.symm.trans hr)
  have hcmd : bistCmd 3 true s = bistBegin i 3 0 s := by
    unfold bistCmd
    rw [hact]
    dsimp only
    rw [if_neg (by decide), if_neg (by rw [hpeer]; exact Bool.false_ne_true), if_pos (by rw [hk, hall]; rfl)]
  obtain ⟨v, hv⟩ : ∃ v, v = bistBegin i 3 0 s := ⟨_, rfl⟩
  have he : execBistActiveLane s = .next (protRec 4 0 (settle v)) := by
    unfold execBistActiveLane
    rw [hact]
    dsimp only
    rw [if_neg (by rw [hpeer]; exact Bool.false_ne_true)]
    exact keyCmd_key (q := (settle v, 0)) hk (by
      rw [if_pos hban, hcmd, hv])
  have hc : Calm s v := hv ▸ calm_bistBegin i 3 0 s
  have htold (j : LaneId) : Told (laneOf v j) := hv ▸ (bothAskRecords_bistBegin i 3 0 s j).told (told_of_nil (hout j))
  have hrole : roleOf (laneOf v i) = roleOut := by
    rw [hv]
    unfold bistBegin
    rw [roleOf_bistShow]
    have hl (x : State) (y : List BistRt) : laneOf { x with bist := y } i = laneOf x i := by cases i <;> rfl
    rw [hl, laneOf_modLane]
    exact roleOf_setRole _ (by decide) _
  have hbist : v.bist = [activeTest i 2 s.now] := by
    rw [hv]
    unfold bistBegin bistShow
    rw [hb]
    rfl
  have hs := steady_settle htold
  have hpow (j : LaneId) : (laneOf (settle v) j).powered = (laneOf s j).powered :=
    (hs.lanes j).quiet.touches.powered.trans (hc.lanes j).touches.powered
  have hrec : Recorded 4 0 (settle v) (protRec 4 0 (settle v)) :=
    protRec_recorded 4 0 (settle_out v) (hp.imp (hpow .A).trans (hpow .B).trans)
  exact ⟨_, he, hrec.ringHas, hrec.steady.bist.trans (hs.bist.trans hbist), (hrec.lane i).role.trans ((hs.lanes i).role.trans hrole)⟩
end

end
end Sys2Proof.Machine

namespace Sys2Proof.Machine

/-!
### What the admission of an image leaves alone (R90, R411)

An image loads descriptor registers, tables and run data. The registers that say what a lane is, which domains run and whether it is
ready are no descriptor registers.
-/

section
variable {l m n : Lane}

/-- The registers of a lane's role, its domains and its readiness. -/
def StartReg (a : Nat) : Prop := a = SYS_STS ∨ a = CLK_DOM ∨ a = CLK_STS

theorem not_startReg {a : Nat} (h : 0x40020000 ≤ a) : ¬ StartReg a := by
  unfold StartReg SYS_STS CLK_DOM CLK_STS
  omega

theorem descMask_startReg {a : Nat} (h : StartReg a) : descMask a = 0 := by
  obtain rfl | rfl | rfl := h <;> decide

/-- A lane in which those registers, its power, its image, its banks and its requests stand, and what its start has left to do. -/
structure Loads (l m : Lane) : Prop where
  powered : m.powered = l.powered
  image : m.image = l.image
  banks : m.banks = l.banks
  bootLeft : m.bootLeft = l.bootLeft
  shut : m.shut = l.shut
  out : m.out = l.out
  regs : ∀ a, StartReg a → rget m a = rget l a

theorem Loads.refl : Loads l l := ⟨rfl, rfl, rfl, rfl, rfl, rfl, fun _ _ => rfl⟩

theorem Loads.trans (h : Loads l m) (g : Loads m n) : Loads l n :=
  ⟨g.powered.trans h.powered, g.image.trans h.image, g.banks.trans h.banks, g.bootLeft.trans h.bootLeft, g.shut.trans h.shut, g.out.trans h.out,
    fun a ha => (g.regs a ha).trans (h.regs a ha)⟩

theorem Loads.rset {a : Nat} (h : Loads l m) (ha : ¬ StartReg a) (v : Word) : Loads l (rset m a v) :=
  h.trans ⟨rfl, rfl, rfl, rfl, rfl, rfl, fun _ hb => rget_rset_ne m v fun e => ha (e ▸ hb)⟩

theorem Loads.fset {f : Field} (h : Loads l m) (ha : ¬ StartReg f.addr) (v : Nat) : Loads l (fset m f v) := h.rset ha _

theorem Loads.fsetB {f : Field} (h : Loads l m) (ha : ¬ StartReg f.addr) (v : Bool) : Loads l (fsetB m f v) := h.fset ha _

theorem Loads.stk {f : Field} (h : Loads l m) (ha : ¬ StartReg f.addr) : Loads l (stk m f) :=
  h.trans ⟨rfl, rfl, rfl, rfl, rfl, rfl, fun a hb => rget_stk_ne _ _ (fun e => ha (e ▸ hb)) fun e =>
    not_startReg (a := FLT_STK) (by decide) (e ▸ hb)⟩

theorem Loads.ite {c : Prop} [Decidable c] (h : Loads l m) (g : Loads l n) : Loads l (if c then m else n) := by
  split
  · exact h
  · exact g

theorem Loads.foldl {α : Type} {f : Lane → α → Lane} {xs : List α} (h : Loads l m) (hf : ∀ {m}, ∀ x ∈ xs, Loads l m → Loads l (f m x)) :
    Loads l (xs.foldl f m) := List.foldlRecOn xs f h fun _ h x hx => hf x hx h

theorem Tasked.loads (h : Tasked l m) : Loads l m := by
  refine ⟨(congrArg Lane.powered h.rest :), (congrArg Lane.image h.rest :), (congrArg Lane.banks h.rest :), (congrArg Lane.bootLeft h.rest :),
    (congrArg Lane.shut h.rest :), (congrArg Lane.out h.rest :), fun a ha => h.regs a fun ht => ?_⟩
  have hn := ht.num
  unfold StartReg SYS_STS CLK_DOM CLK_STS at ha
  omega

/-! #### The candidate -/

theorem Loads.loadDesc {a : Nat} (h : Loads l m) (ha : descMask a ≠ 0) (v : Nat) : Loads l (loadDesc m a v) :=
  h.rset (fun hs => ha (descMask_startReg hs)) _

theorem loads_clearDesc (l : Lane) : Loads l (clearDesc l) := by
  unfold clearDesc
  refine Loads.refl.foldl fun {m} x _ h => ?_
  have h1 : Loads l (if descMask x.1 = 0 then m else Machine.loadDesc m x.1 (regDflt m.ident x.1).toNat) := by
    split
    · exact h
    next hd => exact h.loadDesc hd _
  dsimp only
  generalize (if descMask x.1 = 0 then m else Machine.loadDesc m x.1 (regDflt m.ident x.1).toNat) = k at *
  split
  next ht =>
    refine h1.rset (not_startReg ?_) _
    have := ht.1
    unfold ADM_TCFG at this
    omega
  next => exact h1

theorem loads_mset8 (l : Lane) (a : Nat) (v : Byte) : Loads l (mset8 l a v) := ⟨rfl, rfl, rfl, rfl, rfl, rfl, fun _ _ => rfl⟩

theorem loads_mset32 (l : Lane) (a : Nat) (w : Word) : Loads l (mset32 l a w) := by
  unfold mset32
  exact (((loads_mset8 l _ _).trans (loads_mset8 _ _ _)).trans (loads_mset8 _ _ _)).trans (loads_mset8 _ _ _)

theorem loads_eccSet (l : Lane) (a : Nat) (e : Ecc) : Loads l (eccSet l a e) := ⟨rfl, rfl, rfl, rfl, rfl, rfl, fun _ _ => rfl⟩

theorem loads_loadSecs (im : Image) (typ : Nat) (l : Lane) : Loads l (loadSecs im typ l) := by
  unfold loadSecs
  exact Loads.refl.foldl fun _ _ h => (h.trans (loads_mset32 _ _ _)).trans (loads_eccSet _ _ _)

theorem Loads.loadSecs (h : Loads l m) (im : Image) (typ : Nat) : Loads l (loadSecs im typ m) := h.trans (loads_loadSecs im typ m)

theorem loads_candidate (l : Lane) (im : Image) : Loads l (candidate l im) := by
  have h0 : Loads l (clearTables l) := ⟨rfl, rfl, rfl, rfl, rfl, rfl, fun _ _ => rfl⟩
  unfold candidate
  extract_lets k1 k2 k3
  have h1 : Loads l k1 := ((h0.loadSecs im 1).loadSecs im 2).loadSecs im 3
  have h2 : Loads l k2 := Loads.foldl (h1.trans (loads_clearDesc k1)) fun x _ h => by
    split
    · exact h
    next hd => exact h.loadDesc hd _
  have h3 : Loads l k3 := h2.foldl fun x _ h => (h.rset (not_startReg (by unfold ADM_TCFG; omega)) _).rset (not_startReg (by unfold ADM_TENT; omega)) _
  clear_value k3
  exact h3.trans ⟨rfl, rfl, rfl, rfl, rfl, rfl, fun _ _ => rfl⟩

/-! #### The results -/

theorem Loads.showRes (h : Loads l m) (b : Option Bad) (axis item : Option Nat) : Loads l (showRes m b axis item) := by
  have hr : ¬ StartReg ADM_RES := not_startReg (by decide)
  unfold Machine.showRes
  extract_lets b0 k1 k2 k3
  have h1 : Loads l k1 := (h.fset hr _).fset hr _
  have h2 : Loads l k2 := by
    dsimp only [k2]
    split
    · exact ((h1.fset hr _).fset hr _).fsetB hr _
    · exact ((h1.fset hr _).fset hr _).fsetB hr _
  have h3 : Loads l k3 := by
    dsimp only [k3]
    split
    · exact (h2.fset hr _).fsetB hr _
    · exact (h2.fset hr _).fsetB hr _
  exact (h3.rset (not_startReg (by decide)) _).rset (not_startReg (by decide)) _

theorem Loads.showVals (h : Loads l m) (w : Work) (v : WorkVals) : Loads l (showVals m w v) := by
  unfold Machine.showVals
  extract_lets k1 k2 k3 rs
  have h1 : Loads l k1 := (h.rset (not_startReg (by decide)) _).rset (not_startReg (by decide)) _
  have h2 : Loads l k2 := Loads.trans ((h1.rset (not_startReg (by decide)) _).fset (not_startReg (by decide)) _)
    ⟨rfl, rfl, rfl, rfl, rfl, rfl, fun _ _ => rfl⟩
  have h3 : Loads l k3 := h2.foldl fun c _ h => h.fset (not_startReg (by unfold ADM_UTIL_U ADM_UTIL; dsimp only; omega)) _
  exact h3.foldl fun n _ h => (h.rset (not_startReg (by unfold ADM_TWCT; omega)) _).rset (not_startReg (by unfold ADM_TRSP; omega)) _

theorem loads_releaseBg (l : Lane) (now : Nat) : Loads l (releaseBg l now) := by
  unfold releaseBg
  refine (Tasked.loads (Tasked.dispatchAll ?_))
  exact Tasked.refl.foldl fun h => h.foldl fun h => .ite h.releaseTask h

/-! #### Admission -/

theorem loads_freshRun (l : Lane) (now : Nat) : Loads l (freshRun l now) := by
  have h : Loads l (Machine.fsetB l ADM_STS_RQBUSY false) := Loads.refl.fsetB (not_startReg (by decide)) false
  unfold freshRun
  exact h.trans ⟨rfl, rfl, rfl, rfl, rfl, rfl, fun _ _ => rfl⟩

theorem loads_installImage (c : Lane) (now : Nat) (im : Image) (v : WorkVals) : Loads { c with image := some im } (installImage c now im v) := by
  have hf := loads_freshRun c now
  unfold installImage
  extract_lets k0 k1 k2 k3 k4 k5 k6
  have h1 : Loads { c with image := some im } k1 := ⟨hf.powered, rfl, hf.banks, hf.bootLeft, hf.shut, hf.out, hf.regs⟩
  have h2 : Loads { c with image := some im } k2 := h1.foldl fun a _ h => by
    have ha : ¬ StartReg (AXS_TP a) := not_startReg (by unfold AXS_TP; omega)
    exact .ite (h.rset ha _) (h.rset ha _)
  have h3 : Loads { c with image := some im } k3 := h2.foldl fun e _ h => by
    have he : 0x40020000 ≤ FBK_CHST e := by unfold FBK_CHST; omega
    exact (h.fset (f := FBK_CHST_STATE e) (not_startReg he) _).fset (f := FBK_CHST_CAUSE e) (not_startReg he) _
  clear_value k3
  have h4 : Loads { c with image := some im } k4 := h3.trans ⟨rfl, rfl, rfl, rfl, rfl, rfl, fun _ _ => rfl⟩
  have h5 : Loads { c with image := some im } k5 := (h4.rset (not_startReg (by decide)) _).fset (not_startReg (by decide)) _
  have h6 : Loads { c with image := some im } k6 := (h5.showRes none none none).showVals _ _
  exact h6.trans (loads_releaseBg _ _)

/-- What a step of start-up that may load an image does: `ok` says that an image runs. -/
structure Boots (l : Lane) (ok : Bool) (m : Lane) : Prop where
  runs : ok = true → ∃ im, Loads { l with image := some im } m
  fails : ok = false → Loads l m

theorem Loads.withImage (h : Loads l m) (x : Option Image) : Loads { l with image := x } { m with image := x } :=
  ⟨h.powered, rfl, h.banks, h.bootLeft, h.shut, h.out, h.regs⟩

theorem Boots.after {k : Lane} {ok : Bool} (h : Loads l k) (g : Boots k ok m) : Boots l ok m := by
  refine ⟨fun hk => ?_, fun hk => h.trans (g.fails hk)⟩
  obtain ⟨im, hm⟩ := g.runs hk
  exact ⟨im, (h.withImage (some im)).trans hm⟩

theorem Boots.then {k : Lane} {ok : Bool} (h : Boots l ok k) (g : Loads k m) : Boots l ok m := by
  refine ⟨fun hk => ?_, fun hk => (h.fails hk).trans g⟩
  obtain ⟨im, hm⟩ := h.runs hk
  exact ⟨im, hm.trans g⟩

theorem boots_admitImage (l : Lane) (now : Nat) (im : Image) : Boots l (admitImage l now im).2 (admitImage l now im).1 := by
  have hc := loads_candidate l im
  unfold admitImage
  extract_lets c v
  change Loads l c at hc
  have hw := hc.withImage (some im)
  have hi := loads_installImage c now im v
  have hr (b : Bad) : Loads l (Machine.showRes (Machine.stk l ADM_STK_REFUSED) (some b) none none) :=
    Loads.showRes (Loads.refl.stk (not_startReg (by decide))) _ _ _
  generalize installImage c now im v = k at *
  clear_value v c
  cases imageBad c im v with
  | some b =>
    dsimp only
    exact ⟨fun h => absurd h Bool.false_ne_true, fun _ => hr b⟩
  | none =>
    dsimp only
    exact ⟨fun _ => ⟨im, hw.trans hi⟩, fun h => absurd h (by decide)⟩

theorem not_startReg_CLK {a : Nat} (h1 : CLK_STS < a) (h2 : a < CLK_DOM ∨ CLK_DOM < a) : ¬ StartReg a := by
  unfold StartReg SYS_STS CLK_DOM CLK_STS at *
  omega

theorem not_startReg_CLK_BOOT : ¬ StartReg CLK_BOOT := not_startReg_CLK (by decide) (by decide)

theorem boots_tryBank (l : Lane) (now : Nat) (k : Fin 2) : Boots l (tryBank l now k).2.isNone (tryBank l now k).1 := by
  have hfail (c : Nat) : Boots l (some c : Option Nat).isNone l := ⟨fun h => absurd h Bool.false_ne_true, fun _ => .refl⟩
  unfold tryBank
  split
  · exact hfail 1
  next im _ =>
    split
    · exact hfail 4
    · split
      · exact hfail 5
      · have h := boots_admitImage l now im
        dsimp only
        generalize admitImage l now im = r at *
        obtain ⟨m, ok⟩ := r
        cases ok
        · exact h.then .refl
        · exact h.then ((Loads.refl.rset (not_startReg_CLK (by decide) (by decide)) _).fset not_startReg_CLK_BOOT _)

theorem boots_bootFrom (compat : BitVec 16) (l : Lane) (now : Nat) (first : Option Nat) (k : Fin 2) :
    Boots l (bootFrom compat l now first k).2 (bootFrom compat l now first k).1 := by
  have h := boots_tryBank l now k
  unfold bootFrom
  extract_lets r first' l' k2 q
  change Boots l r.2.isNone r.1 at h
  have h' : Boots l r.2.isNone l' := h.then (Loads.refl.fset not_startReg_CLK_BOOT _)
  have hstk : Loads l' (stk l' CLK_STK_FALLBK) := Loads.refl.stk (not_startReg_CLK (by decide) (by decide))
  have hq : Boots l' q.2.isNone q.1 := .after hstk (boots_tryBank _ now k2)
  clear_value q l' r
  cases hr : r.2.isNone with
  | true =>
    rw [if_pos rfl]
    rw [hr] at h'
    exact h'
  | false =>
    rw [if_neg Bool.false_ne_true]
    rw [hr] at h'
    split
    · exact h'
    · exact .after (h'.fails rfl) hq

theorem boots_bootBanks (compat : BitVec 16) (l : Lane) (now : Nat) : Boots l (bootBanks compat l now).2 (bootBanks compat l now).1 := by
  unfold bootBanks
  split
  · exact ⟨fun h => absurd h Bool.false_ne_true, fun _ => Loads.refl.fset not_startReg_CLK_BOOT _⟩
  · exact boots_bootFrom ..

end
end Sys2Proof.Machine

namespace Sys2Proof.Machine

/-! ### A lane that starts (R410) -/

section
variable {l l0 m n : Lane} {s t u : State} {i j : LaneId}

/-- What the end of start-up shows: READY says whether an image runs; as long as bricks are missing, the lane waits for them. -/
def Booted (m : Lane) : Prop := (bricksFound m = true → (fget m CLK_STS_READY = 1 ↔ m.image.isSome = true)) ∧
  (bricksFound m = false → fget m CLK_STS_READY = 0 ∧ (m.bootLeft = some 10 ↔ m.image.isSome = true))

/-- A lane whose start-up has gone as far as it can: nothing is left of it but the wait for bricks. -/
structure Started (m : Lane) : Prop where
  booted : Booted m
  waits : m.bootLeft = none ∨ m.bootLeft = some 10 ∧ bricksFound m = false

/-! #### What keeps a start -/

theorem not_outcomeReg_LEG_CFG {k : Nat} (h : k < 128) : ¬ OutcomeReg (LEG_CFG k) := by
  unfold LEG_CFG
  rintro (h | h)
  · have := h.num
    simp only [List.mem_cons, List.not_mem_nil, or_false] at this
    omega
  · have := h.num
    simp only [List.mem_cons, List.not_mem_nil, or_false] at this
    omega

theorem not_outcomeReg_BLK_BST {b : Nat} (h : b < 32) : ¬ OutcomeReg (BLK_BST b) := by
  unfold BLK_BST
  rintro (h | h)
  · have := h.num
    simp only [List.mem_cons, List.not_mem_nil, or_false] at this
    omega
  · have := h.num
    simp only [List.mem_cons, List.not_mem_nil, or_false] at this
    omega

/-- The registers from which a lane tells whether its bricks are found. -/
def BrickReg (a : Nat) : Prop := (∃ k < 128, a = LEG_CFG k) ∨ ∃ b < 32, a = BLK_BST b

theorem not_outcomeReg_of_brickReg {a : Nat} (h : BrickReg a) : ¬ OutcomeReg a := by
  obtain ⟨k, hk, rfl⟩ | ⟨b, hb, rfl⟩ := h
  · exact not_outcomeReg_LEG_CFG hk
  · exact not_outcomeReg_BLK_BST hb

theorem any_eq_of_mem {α : Type} {f g : α → Bool} {xs : List α} (h : ∀ x ∈ xs, f x = g x) : xs.any f = xs.any g := by
  rw [Bool.eq_iff_iff, List.any_eq_true, List.any_eq_true]
  exact exists_congr fun x => and_congr_right fun hx => by rw [h x hx]

theorem all_eq_of_mem {α : Type} {f g : α → Bool} {xs : List α} (h : ∀ x ∈ xs, f x = g x) : xs.all f = xs.all g := by
  rw [Bool.eq_iff_iff, List.all_eq_true, List.all_eq_true]
  exact forall₂_congr fun x hx => by rw [h x hx]

theorem bricksFound_congr (h : ∀ a, BrickReg a → rget m a = rget l a) : bricksFound m = bricksFound l := by
  have hu (b : Nat) (hb : b < 32) : brickUsed m b = brickUsed l b := by
    unfold brickUsed
    refine any_eq_of_mem fun p hp => ?_
    have e : fget m (LEG_CFG_TYPE (4 * b + p)) = fget l (LEG_CFG_TYPE (4 * b + p)) := by
      unfold fget
      rw [show (LEG_CFG_TYPE (4 * b + p)).addr = LEG_CFG (4 * b + p) from rfl,
        h _ (.inl ⟨4 * b + p, by have := List.mem_range.mp hp; omega, rfl⟩)]
    rw [e]
  unfold bricksFound
  refine all_eq_of_mem fun b hb => ?_
  have hb := List.mem_range.mp hb
  have e : fget m (BLK_BST_STATE b) = fget l (BLK_BST_STATE b) := by
    unfold fget
    rw [show (BLK_BST_STATE b).addr = BLK_BST b from rfl, h _ (.inr ⟨b, hb, rfl⟩)]
  rw [hu b hb, e]

theorem Carried.bricksFound (h : Carried l m) : bricksFound m = bricksFound l :=
  bricksFound_congr fun a ha => h.regs a (not_outcomeReg_of_brickReg ha)

theorem Carried.booted (h : Carried l m) (hl : Booted l) : Booted m := by
  unfold Booted
  rw [h.bricksFound, h.image, h.bootLeft, h.fget (f := CLK_STS_READY) not_outcomeReg_CLK_STS]
  exact hl

theorem Carried.started (h : Carried l m) (hl : Started l) : Started m :=
  ⟨h.booted hl.booted, by rw [h.bricksFound, h.bootLeft]; exact hl.waits⟩

/-- What a lane keeps while the module takes steps of its own: it carries on, is not put in FAULT, and asks for no more than gradings do. -/
structure Bears (l m : Lane) : Prop where
  carried : Carried l m
  notFault : roleOf l ≠ roleFault → roleOf m ≠ roleFault
  graded : Graded l → Graded m

theorem Bears.refl : Bears l l := ⟨.refl, id, id⟩

theorem Bears.trans (h : Bears l m) (g : Bears m n) : Bears l n :=
  ⟨h.carried.trans g.carried, g.notFault ∘ h.notFault, g.graded ∘ h.graded⟩

theorem AsksRecords.graded (h : AsksRecords l m) (hl : Graded l) : Graded m := by
  obtain ⟨x, hx, hr⟩ := h
  exact hl.append hx fun r hr' => .inl (hr r hr')

theorem Holds.bears (h : Holds l m) (hg : AsksRecords l m) : Bears l m :=
  ⟨h.carried, fun hl => h.role ▸ hl, hg.graded⟩

theorem bears_setRole {now r : Nat} (h : r < 8) (hr : r ≠ roleFault) : Bears l (setRole now r l) :=
  ⟨(quiet_setRole now r l).carried, fun _ => by rw [roleOf_setRole now h l]; exact hr, (asksRecords_setRole now r l).graded⟩

theorem bears_raise {now k : Nat} {c0 c1 : Word} (hk : k ≠ 0x7C) : Bears l (raise l now k c0 c1) :=
  have h : Holds l (raise l now k c0 c1) := holds_raise
  ⟨h.carried, fun hl => by rw [h.role]; exact hl, fun hl => graded_raise hk hl⟩

/-- Both lanes bear a step, and a command that waits stands. -/
structure Along (s t : State) : Prop where
  lanes : ∀ i, Bears (laneOf s i) (laneOf t i)
  press : SamePress s t

theorem Along.refl : Along s s := ⟨fun _ => .refl, rfl, rfl⟩

theorem Along.trans (h : Along s t) (g : Along t u) : Along s u := ⟨fun i => (h.lanes i).trans (g.lanes i), h.press.trans g.press⟩

theorem along_modLane (s : State) (i : LaneId) {f : Lane → Lane} (h : ∀ l, Bears l (f l)) : Along s (modLane s i f) := by
  cases i
  · exact ⟨fun j => by cases j; exacts [h _, .refl], rfl, rfl⟩
  · exact ⟨fun j => by cases j; exacts [.refl, h _], rfl, rfl⟩

theorem along_bistShow (s : State) : Along s (bistShow s) :=
  ⟨fun i => Holds.bears ⟨((calm_bistShow s).lanes i).carried, roleOf_bistShow s i⟩ (bothAskRecords_bistShow s i), (calm_bistShow s).samePress⟩

theorem along_bistKeep (f : BistRt → Bool) (s : State) : Along s (bistKeep f s) :=
  ⟨fun i => by cases i <;> exact .refl, rfl, rfl⟩

theorem along_bistOver (i : LaneId) (s : State) : Along s (bistOver i s) := by
  unfold bistOver
  split
  · exact (along_bistKeep _ s).trans (along_bistShow _)
  · exact .refl

theorem along_settle (h : ∀ i, Graded (laneOf s i)) : Along s (settle s) := by
  have hs := settling_settle h
  exact ⟨fun i => ⟨(hs.lanes i).quiet.carried, fun hl => (hs.lanes i).role ▸ hl, fun _ => (told_of_nil (settle_out s i)).graded⟩, hs.calm.samePress⟩

/-! #### Joining -/

theorem bears_catchUp (now : Nat) (p l : Lane) : Bears l (catchUp now p l) := by
  unfold catchUp
  refine Bears.trans ?_ (bears_setRole (by decide) (by decide))
  exact ⟨⟨rfl, rfl, rfl, rfl, rfl, fun _ _ => rfl⟩, id, id⟩

theorem bears_active (now : Nat) (l : Lane) : Bears l (setRole now roleActive { l with waitPeer := false }) :=
  Bears.trans (m := { l with waitPeer := false }) ⟨⟨rfl, rfl, rfl, rfl, rfl, fun _ _ => rfl⟩, id, id⟩ (bears_setRole (by decide) (by decide))

theorem bears_imageDiffers (l : Lane) : Bears l (stk { l with waitPeer := false } XLN_STK_IMGDIF) := by
  have h : Bears l { l with waitPeer := false } := ⟨⟨rfl, rfl, rfl, rfl, rfl, fun _ _ => rfl⟩, id, id⟩
  generalize ({ l with waitPeer := false } : Lane) = k at *
  have hs : SettleReg XLN_STK := .inl (by simp)
  refine h.trans ⟨(quiet_stk k XLN_STK_IMGDIF hs).carried, fun hk => ?_, fun hk => hk.of_eq (out_stk _ _)⟩
  unfold roleOf fget at hk ⊢
  rw [rget_stk_ne _ _ (by decide) (by decide)]
  exact hk

theorem along_joinLane (i : LaneId) (s : State) : Along s (joinLane i s) := by
  unfold joinLane
  extract_lets l o p take
  have ht (s : State) : Along s (take s) :=
    (along_modLane s i fun l => bears_active s.now l).trans (along_bistOver i _)
  clear_value take
  split
  · exact .refl
  · split
    · split
      · exact .refl
      · split
        · exact along_modLane s i fun l => bears_catchUp _ _ l
        · exact along_modLane s i bears_imageDiffers
    · split
      · split
        · exact ht s
        · exact .refl
      · split
        · exact .refl
        · exact ht s

theorem along_joinLanes (h : ∀ i, Graded (laneOf s i)) : Along s (joinLanes s) := by
  have hj := ((along_joinLane .A s).trans (along_joinLane .B _)).trans (along_joinLane .A _)
  unfold joinLanes
  exact hj.trans (along_settle fun i => (hj.lanes i).graded (h i))

theorem out_joinLanes (s : State) (i : LaneId) : (laneOf (joinLanes s) i).out = [] := settle_out _ i

end
end Sys2Proof.Machine

namespace Sys2Proof.Machine

/-! #### The cold lane, before its banks are tried -/

section
variable {l l0 m n : Lane} {s t u : State} {i j : LaneId}

/-- What stands in a lane that starts before an image is tried. -/
structure Cold (l0 m : Lane) : Prop where
  powered : m.powered = true
  image : m.image = none
  banks : m.banks = l0.banks
  bootLeft : m.bootLeft = none
  shut : m.shut = false
  told : Told m
  ready : fget m CLK_STS_READY = 0
  doms : fget m CLK_DOM_RUN = 7

theorem freshLane_cold (l : Lane) : (freshLane l).powered = true ∧ (freshLane l).image = none ∧ (freshLane l).banks = l.banks ∧
    (freshLane l).bootLeft = none ∧ (freshLane l).shut = false ∧ (freshLane l).out = [] := ⟨rfl, rfl, rfl, rfl, rfl, rfl⟩

theorem fget_zero_ready (i : LaneId) : fget (Lane.zero i) CLK_STS_READY = 0 := by cases i <;> decide

theorem freshLane_ready (l : Lane) : fget (freshLane l) CLK_STS_READY = 0 := by
  refine Eq.trans ?_ (fget_zero_ready l.ident)
  unfold freshLane
  extract_lets zero z marked
  have hz : fget z CLK_STS_READY = fget zero CLK_STS_READY := rfl
  have hm : fget marked CLK_STS_READY = fget z CLK_STS_READY := by
    unfold fget
    rw [rget_fsetB_ne _ PEAT_STS_WRAP _ (by decide), rget_rset_ne _ _ (by decide), rget_rset_ne _ _ (by decide)]
  rw [fget_fsetB_ne _ _ _ _ (by decide), hm, hz]

theorem kindleAll_cold (l : Lane) (now : Nat) : Cold l (fsetB (kindleAll (shipMark (freshLane l) now)) CLK_STS_EMBXT true) := by
  obtain ⟨h1, h2, h3, h4, h5, h6⟩ := freshLane_cold l
  have h7 := freshLane_ready l
  generalize freshLane l = k at *
  have h8 : fget (shipMark k now) CLK_STS_READY = 0 := h7
  have hm : (shipMark k now).powered = true ∧ (shipMark k now).image = none ∧ (shipMark k now).banks = l.banks ∧
    (shipMark k now).bootLeft = none ∧ (shipMark k now).shut = false ∧ (shipMark k now).out = [] := ⟨h1, h2, h3, h4, h5, h6⟩
  generalize shipMark k now = x at *
  obtain ⟨g1, g2, g3, g4, g5, g6⟩ := hm
  have hready : fget (kindleAll x) CLK_STS_READY = 0 := by
    unfold kindleAll fget
    rw [rget_stk_ne _ _ (by decide) (by decide), rget_fset_ne _ CLK_DOM_RUN _ (by decide)]
    exact h8
  have hdoms : fget (kindleAll x) CLK_DOM_RUN = 7 := by
    have e : fget (fset { x with pllTry := 0#9, pllBad := 0#9 } CLK_DOM_RUN 7) CLK_DOM_RUN = 7 :=
      fget_fset_self _ _ _ (by decide)
    unfold kindleAll
    generalize fset { x with pllTry := 0#9, pllBad := 0#9 } CLK_DOM_RUN 7 = y at *
    unfold fget at e ⊢
    rw [rget_stk_ne _ _ (by decide) (by decide)]
    exact e
  have hk : (kindleAll x).powered = true ∧ (kindleAll x).image = none ∧ (kindleAll x).banks = l.banks ∧
    (kindleAll x).bootLeft = none ∧ (kindleAll x).shut = false ∧ (kindleAll x).out = [] := ⟨g1, g2, g3, g4, g5, g6⟩
  generalize kindleAll x = y at *
  obtain ⟨k1, k2, k3, k4, k5, k6⟩ := hk
  refine ⟨k1, k2, k3, k4, k5, told_of_nil k6, ?_, ?_⟩
  · rw [fget_fsetB_apart _ CLK_STS_EMBXT CLK_STS_READY _ rfl (by decide) (by decide)]
    exact hready
  · rw [fget_fsetB_ne _ _ _ _ (by decide)]
    exact hdoms

theorem Cold.carried (h : Cold l0 l) (g : Carried l m) (ht : Told m) : Cold l0 m :=
  ⟨g.powered.trans h.powered, g.image.trans h.image, g.banks.trans h.banks, g.bootLeft.trans h.bootLeft, g.shut.trans h.shut, ht,
    (g.fget (f := CLK_STS_READY) not_outcomeReg_CLK_STS).trans h.ready, (g.fget (f := CLK_DOM_RUN) not_outcomeReg_CLK_DOM).trans h.doms⟩

theorem Loads.fget (g : Loads l m) {f : Field} (hf : StartReg f.addr) : fget m f = fget l f := by
  unfold Machine.fget
  rw [g.regs _ hf]

theorem Loads.roleOf (g : Loads l m) : roleOf m = roleOf l := g.fget (f := SYS_STS_LROLE) (.inl rfl)

theorem Cold.loads (h : Cold l0 l) (g : Loads l m) : Cold l0 m :=
  ⟨g.powered.trans h.powered, g.image.trans h.image, g.banks.trans h.banks, g.bootLeft.trans h.bootLeft, g.shut.trans h.shut,
    (asksRecords_of_eq g.out).told h.told,
    (g.fget (f := CLK_STS_READY) (.inr (.inr rfl))).trans h.ready, (g.fget (f := CLK_DOM_RUN) (.inr (.inl rfl))).trans h.doms⟩

/-- The lane enters OUT (R410). -/
theorem Cold.enterOut (h : Cold l0 l) (now r : Nat) : Cold l0 (setRole now roleOut (fset l SYS_STS_LROLE r)) ∧
    roleOf (setRole now roleOut (fset l SYS_STS_LROLE r)) = roleOut := by
  have hf : Quiet l (fset l SYS_STS_LROLE r) := quiet_fset l _ _ (.inl (by simp [SYS_STS_LROLE]))
  have ho : (fset l SYS_STS_LROLE r).out = l.out := out_fset ..
  generalize fset l SYS_STS_LROLE r = k at *
  refine ⟨h.carried (hf.carried.trans (quiet_setRole now roleOut k).carried) ?_, roleOf_setRole now (by decide) k⟩
  exact (asksRecords_setRole now roleOut k).told ((asksRecords_of_eq ho).told h.told)

theorem loads_showCarts (s : State) (l : Lane) : Loads l (showCarts s l) := by
  have h : ¬ StartReg SYS_CART := by
    unfold StartReg
    decide
  exact (Loads.refl.fset (f := SYS_CART_PRES) h _).fset (f := SYS_CART_OK) h _

theorem fget_showSupplies_ready (s : State) (l : Lane) : fget (showSupplies s l) CLK_STS_READY = fget l CLK_STS_READY := by
  unfold showSupplies
  extract_lets one a b l1
  have hone (l : Lane) (x : Fin 2) : fget (one l x) CLK_STS_READY = fget l CLK_STS_READY := by
    have hx : CLK_STS ≠ CLK_PS x := by
      unfold CLK_STS CLK_PS
      omega
    dsimp only [one]
    rw [fget_fsetB_ne _ _ _ _ hx, fget_fsetB_ne _ _ _ _ hx, fget_fset_ne _ _ _ _ hx, fget_fset_ne _ _ _ _ hx]
  have h1 : fget l1 CLK_STS_READY = fget l CLK_STS_READY := (hone _ _).trans (hone _ _)
  clear_value l1
  rw [fget_fsetB_apart _ CLK_STS_PFAIL CLK_STS_READY _ rfl (by decide) (by decide),
    fget_fsetB_apart _ CLK_STS_PSBOK CLK_STS_READY _ rfl (by decide) (by decide),
    fget_fsetB_apart _ CLK_STS_PSAOK CLK_STS_READY _ rfl (by decide) (by decide)]
  exact h1

theorem not_supplyReg_CLK_DOM : ¬ SupplyReg CLK_DOM := by
  rintro (h | ⟨x, hx, h⟩)
  · exact absurd h (by decide)
  · unfold CLK_DOM CLK_PS at h
    omega

theorem Cold.showSupplies (h : Cold l0 l) (s : State) : Cold l0 (showSupplies s l) := by
  have hm := showSupplies_moved s l
  have hd := (touches_showSupplies s l).fget (f := CLK_DOM_RUN) not_supplyReg_CLK_DOM
  have hr := fget_showSupplies_ready s l
  generalize Machine.showSupplies s l = k at *
  exact ⟨(congrArg Lane.powered hm :).trans h.powered, (congrArg Lane.image hm :).trans h.image, (congrArg Lane.banks hm :).trans h.banks,
    (congrArg Lane.bootLeft hm :).trans h.bootLeft, (congrArg Lane.shut hm :).trans h.shut,
    (asksRecords_of_eq (show k.out = l.out from (congrArg Lane.out hm :))).told h.told, hr.trans h.ready, hd.trans h.doms⟩

theorem loads_showFrame (s : State) (l : Lane) : Loads l (showFrame s l) := by
  have h {a : Nat} (ha : 0x40020000 ≤ a) : ¬ StartReg a := not_startReg ha
  unfold showFrame
  extract_lets k
  have hk : Loads l k := (Loads.refl.fset (h (by decide)) _).fset (h (by decide)) _
  exact (hk.rset (h (by decide)) _).rset (h (by decide)) _

theorem loads_findBricks (s : State) (l : Lane) : Loads l (findBricks s l) := by
  unfold findBricks
  refine Loads.refl.foldl fun {m} b _ h => ?_
  have hb : ¬ StartReg (BLK_BST b) := not_startReg (by unfold BLK_BST; omega)
  dsimp only
  split
  · exact (h.fset (f := BLK_BST_STATE b) hb 2).trans ⟨rfl, rfl, rfl, rfl, rfl, rfl, fun _ _ => rfl⟩
  · split
    · exact h.fset hb _
    · exact h

/-- A lane that starts with its memory test passed, before its banks are tried. -/
def coldLane (i : LaneId) (s : State) : Lane :=
  rset (findBricks s (showFrame s (showSupplies s (showCarts s (setRole s.now roleOut (fset
    (fsetB (kindleAll (shipMark (freshLane (laneOf s i)) s.now)) CLK_STS_EMBXT true) SYS_STS_LROLE (roleOf (laneOf s i))))))))
    (BST_MSIG (match i with | .A => 0 | .B => 1)) Config.goldMemory

theorem startLane_eq {k : Lane} (hk : k = coldLane i s) : startLane i true s =
    if k.memBad then joinLanes (memFailed i (putLane s i (fset k CLK_BOOT_FRSN ((headFirst s.fm.compat k).getD 0))))
    else bootDone (putLane s i (if (bootBanks s.fm.compat k s.now).2 then { (bootBanks s.fm.compat k s.now).1 with bootLeft := some 10 }
      else (bootBanks s.fm.compat k s.now).1)) := by
  rw [hk]
  rfl

theorem coldLane_cold (i : LaneId) (s : State) : Cold (laneOf s i) (coldLane i s) ∧ roleOf (coldLane i s) = roleOut := by
  have h0 := kindleAll_cold (laneOf s i) s.now
  unfold coldLane
  generalize fsetB (kindleAll (shipMark (freshLane (laneOf s i)) s.now)) CLK_STS_EMBXT true = k0 at *
  obtain ⟨h1, r1⟩ := h0.enterOut s.now (roleOf (laneOf s i))
  generalize setRole s.now roleOut (fset k0 SYS_STS_LROLE (roleOf (laneOf s i))) = k1 at *
  have g2 := loads_showCarts s k1
  generalize showCarts s k1 = k2 at *
  have h3 := (h1.loads g2).showSupplies s
  have r3 := (roleOf_showSupplies s k2).trans (g2.roleOf.trans r1)
  generalize showSupplies s k2 = k3 at *
  have g4 (x : Nat) : Loads k3 (rset (findBricks s (showFrame s k3)) (BST_MSIG x) Config.goldMemory) :=
    ((loads_showFrame s k3).trans (loads_findBricks s _)).rset (not_startReg (by unfold BST_MSIG; omega)) _
  exact ⟨h3.loads (g4 _), (g4 _).roleOf.trans r3⟩

end
end Sys2Proof.Machine

namespace Sys2Proof.Machine

/-! #### Start-up to its end -/

section
variable {l l0 m n k : Lane} {s t u : State} {i j : LaneId}

/-- A lane whose banks have been tried: with an image it waits for its bricks. -/
structure Poised (l0 m : Lane) : Prop where
  powered : m.powered = true
  banks : m.banks = l0.banks
  shut : m.shut = false
  graded : Graded m
  ready : fget m CLK_STS_READY = 0
  doms : fget m CLK_DOM_RUN = 7
  role : roleOf m = roleOut
  left : m.image = none ∧ m.bootLeft = none ∨ m.image.isSome = true ∧ m.bootLeft = some 10

/-- A cold lane from which the banks have been tried. -/
def triedLane (compat : BitVec 16) (now : Nat) (k : Lane) : Lane :=
  if (bootBanks compat k now).2 then { (bootBanks compat k now).1 with bootLeft := some 10 } else (bootBanks compat k now).1

theorem Cold.tried (h : Cold l0 k) (hr : roleOf k = roleOut) (compat : BitVec 16) (now : Nat) : Poised l0 (triedLane compat now k) := by
  have hb := boots_bootBanks compat k now
  unfold triedLane
  generalize bootBanks compat k now = r at *
  obtain ⟨m, ok⟩ := r
  cases ok with
  | false =>
    have g : Loads k m := hb.fails rfl
    have hm := h.loads g
    exact ⟨hm.powered, hm.banks, hm.shut, hm.told.graded, hm.ready, hm.doms, g.roleOf.trans hr, .inl ⟨hm.image, hm.bootLeft⟩⟩
  | true =>
    obtain ⟨im, g⟩ : ∃ im, Loads { k with image := some im } m := hb.runs rfl
    have hi : m.image.isSome = true := (congrArg Option.isSome g.image :)
    exact ⟨g.powered.trans h.powered, g.banks.trans h.banks, g.shut.trans h.shut, ((asksRecords_of_eq (l := k) g.out).told h.told).graded,
      (g.fget (f := CLK_STS_READY) (.inr (.inr rfl))).trans h.ready, (g.fget (f := CLK_DOM_RUN) (.inr (.inl rfl))).trans h.doms,
      g.roleOf.trans hr, .inr ⟨hi, rfl⟩⟩

theorem Poised.bears (h : Poised l0 l) (g : Bears l m) (hr : roleOf m = roleOf l) : Poised l0 m :=
  ⟨g.carried.powered.trans h.powered, g.carried.banks.trans h.banks, g.carried.shut.trans h.shut, g.graded h.graded,
    (g.carried.fget (f := CLK_STS_READY) not_outcomeReg_CLK_STS).trans h.ready,
    (g.carried.fget (f := CLK_DOM_RUN) not_outcomeReg_CLK_DOM).trans h.doms, hr.trans h.role, by
      rw [g.carried.image, g.carried.bootLeft]
      exact h.left⟩

/-- A lane that is ready (R410, step 7). -/
structure Readied (l m : Lane) : Prop where
  powered : m.powered = l.powered
  image : m.image = l.image
  banks : m.banks = l.banks
  shut : m.shut = l.shut
  bootLeft : m.bootLeft = none
  role : roleOf m = roleOf l
  graded : Graded l → Graded m
  bricks : bricksFound m = bricksFound l
  ready : fget m CLK_STS_READY = 1

theorem BrickReg.low {a : Nat} (h : BrickReg a) : 0x40040000 ≤ a := by
  obtain ⟨k, -, rfl⟩ | ⟨b, -, rfl⟩ := h
  · unfold LEG_CFG
    omega
  · unfold BLK_BST
    omega

theorem Readied.noted (h : Readied l m) (g : Noted m n) (ha : AsksRecords m n) : Readied l n := by
  have hc := g.quiet.carried
  exact ⟨hc.powered.trans h.powered, hc.image.trans h.image, hc.banks.trans h.banks, hc.shut.trans h.shut, hc.bootLeft.trans h.bootLeft,
    g.role.trans h.role, fun hl => ha.graded (h.graded hl), hc.bricksFound.trans h.bricks,
    (hc.fget (f := CLK_STS_READY) not_outcomeReg_CLK_STS).trans h.ready⟩

theorem stepReady_readied (s : State) (l : Lane) : Readied l (stepReady s l) := by
  unfold stepReady
  extract_lets k1 k2 k3 k4
  have hready : fget k1 CLK_STS_READY = 1 := by
    dsimp only [k1]
    rw [fget_fset_apart _ CLK_STS_MSTATE CLK_STS_READY _ rfl (by decide) (by decide), fget_fsetB_self _ _ _ (by decide) (by decide)]
    rfl
  have hregs (a : Nat) (ha : a ≠ CLK_STS) : rget k1 a = rget l a := by
    dsimp only [k1]
    rw [rget_fset_ne _ CLK_STS_MSTATE _ ha, rget_fsetB_ne _ CLK_STS_READY _ ha]
    rfl
  have h1 : Readied l k1 := by
    refine ⟨rfl, rfl, rfl, rfl, rfl, ?_, id, bricksFound_congr fun a ha => hregs a fun e => ?_, hready⟩
    · unfold roleOf fget
      rw [hregs _ (by decide)]
    · exact absurd ha.low (by rw [e]; decide)
  clear_value k1
  have h2 : Readied l k2 := by
    have hb (a : Nat) (ha : a ≠ CLK_BTIME) : rget k2 a = rget k1 a := rget_rset_ne k1 _ ha
    refine ⟨h1.powered, h1.image, h1.banks, h1.shut, h1.bootLeft, Eq.trans ?_ h1.role, h1.graded,
      (bricksFound_congr fun a ha => hb a fun e => ?_).trans h1.bricks, Eq.trans ?_ h1.ready⟩
    · unfold roleOf fget
      rw [hb _ (by decide)]
    · exact absurd ha.low (by rw [e]; decide)
    · unfold fget
      rw [hb _ (by decide)]
  clear_value k2
  have h3 : Readied l k3 := h2.noted (noted_peatWrite ..) (asksRecords_of_eq (out_peatWrite ..))
  clear_value k3
  have h4 : Readied l k4 := h3.noted (noted_fmWrite ..) (asksRecords_fmWrite ..)
  clear_value k4
  exact ⟨h4.powered, h4.image, h4.banks, h4.shut, h4.bootLeft, h4.role, h4.graded, h4.bricks, h4.ready⟩

/-- The tests that stand when a lane is ready. -/
def testStays (i : LaneId) (b : BistRt) : Bool := !(decide (b.lane = i) && decide (b.stage = 3) && decide (b.roll = 0))

/-- Whether a lane's step 6 is over. -/
def stepOver (l : Lane) : Bool :=
  coreRuns l && decide (roleOf l = roleOut) && (decide (l.bootLeft = some 0) || (l.bootLeft.isSome && bricksFound l))

theorem stepDone_eq (i : LaneId) (s : State) : stepDone i s = if stepOver (laneOf s i) then
    bistShow (bistKeep (testStays i) (putLane { s with free := s.free + 1 } i (stepReady s (laneOf s i)))) else s := rfl

theorem stepDone_waits (h : (laneOf s i).bootLeft = none ∨ (laneOf s i).bootLeft = some 10 ∧ bricksFound (laneOf s i) = false) :
    stepDone i s = s := by
  rw [stepDone_eq]
  refine if_neg ?_
  unfold stepOver
  obtain h | ⟨h, hb⟩ := h
  · simp [h]
  · simp [h, hb]

/-- A lane as the module's own steps leave it, but for a start-up of its own that ends. -/
structure Kin (l m : Lane) : Prop where
  powered : m.powered = l.powered
  started : Started l → Started m
  notFault : roleOf l ≠ roleFault → roleOf m ≠ roleFault
  graded : Graded l → Graded m

theorem Kin.trans (h : Kin l m) (g : Kin m n) : Kin l n :=
  ⟨g.powered.trans h.powered, g.started ∘ h.started, g.notFault ∘ h.notFault, g.graded ∘ h.graded⟩

theorem Bears.kin (h : Bears l m) : Kin l m := ⟨h.carried.powered, h.carried.started, h.notFault, h.graded⟩

/-- The tests that have ended leave, and BST_STS shows it. -/
theorem along_testsLeave (i : LaneId) (s : State) : Along s (bistShow (bistKeep (testStays i) s)) :=
  (along_bistKeep _ s).trans (along_bistShow _)

theorem roleOf_testsLeave (i j : LaneId) (s : State) : roleOf (laneOf (bistShow (bistKeep (testStays i) s)) j) = roleOf (laneOf s j) := by
  rw [roleOf_bistShow]
  cases j <;> rfl

theorem laneOf_free (s : State) (n : Nat) (j : LaneId) : laneOf { s with free := n } j = laneOf s j := by cases j <;> rfl

/-- The end of another lane's start-up. -/
theorem stepDone_beside (h : j ≠ i) (s : State) : Bears (laneOf s j) (laneOf (stepDone i s) j) ∧
    roleOf (laneOf (stepDone i s) j) = roleOf (laneOf s j) := by
  rw [stepDone_eq]
  split
  · have e : laneOf (putLane { s with free := s.free + 1 } i (stepReady s (laneOf s i))) j = laneOf s j :=
      (laneOf_putLane_ne _ _ h).trans (laneOf_free s _ j)
    generalize putLane { s with free := s.free + 1 } i (stepReady s (laneOf s i)) = v at *
    have hb := (along_testsLeave i v).lanes j
    have hr := roleOf_testsLeave i j v
    rw [e] at hb hr
    exact ⟨hb, hr⟩
  · exact ⟨.refl, rfl⟩

theorem samePress_putLane (s : State) (i : LaneId) (l : Lane) : SamePress s (putLane s i l) := by cases i <;> exact ⟨rfl, rfl⟩

theorem samePress_stepDone (i : LaneId) (s : State) : SamePress s (stepDone i s) := by
  rw [stepDone_eq]
  split
  · have h : SamePress s (putLane { s with free := s.free + 1 } i (stepReady s (laneOf s i))) := by cases i <;> exact ⟨rfl, rfl⟩
    exact h.trans (along_testsLeave i _).press
  · exact ⟨rfl, rfl⟩

/-- The end of a lane's start-up, as the lane shows it. -/
theorem stepDone_own (h : stepOver (laneOf s i) = true) : ∃ m, Readied (laneOf s i) m ∧ Bears m (laneOf (stepDone i s) i) ∧
    roleOf (laneOf (stepDone i s) i) = roleOf (laneOf s i) := by
  rw [stepDone_eq, if_pos h]
  have e : laneOf (putLane { s with free := s.free + 1 } i (stepReady s (laneOf s i))) i = stepReady s (laneOf s i) := laneOf_putLane ..
  have hr := stepReady_readied s (laneOf s i)
  have hb := (along_testsLeave i (putLane { s with free := s.free + 1 } i (stepReady s (laneOf s i)))).lanes i
  have hl := roleOf_testsLeave i i (putLane { s with free := s.free + 1 } i (stepReady s (laneOf s i)))
  rw [e] at hb hl
  exact ⟨_, hr, hb, hl.trans hr.role⟩

theorem kin_stepDone (i j : LaneId) (s : State) : Kin (laneOf s j) (laneOf (stepDone i s) j) := by
  by_cases hj : j = i
  · subst hj
    by_cases h : stepOver (laneOf s j) = true
    · obtain ⟨m, hm, hb, hr⟩ := stepDone_own h
      refine ⟨hb.carried.powered.trans hm.powered, fun hs => ?_, fun hf => by rw [hr]; exact hf, fun hg => hb.graded (hm.graded hg)⟩
      rw [stepDone_waits hs.waits]
      exact hs
    · rw [stepDone_eq, if_neg h]
      exact Bears.refl.kin
  · exact (stepDone_beside hj s).1.kin

/-- A lane whose start-up is over, with the banks of `l0`. -/
structure Up (l0 m : Lane) : Prop where
  powered : m.powered = true
  banks : m.banks = l0.banks
  shut : m.shut = false
  started : Started m
  graded : Graded m

theorem Up.bears (h : Up l0 l) (g : Bears l m) : Up l0 m :=
  ⟨g.carried.powered.trans h.powered, g.carried.banks.trans h.banks, g.carried.shut.trans h.shut, g.carried.started h.started, g.graded h.graded⟩

theorem Poised.up (h : Poised l0 l) (hw : l.bootLeft = none ∨ l.bootLeft = some 10 ∧ bricksFound l = false) : Up l0 l := by
  refine ⟨h.powered, h.banks, h.shut, ⟨⟨fun hb => ?_, fun _ => ⟨h.ready, ?_⟩⟩, hw⟩, h.graded⟩
  · rw [h.ready]
    obtain ⟨hi, -⟩ | ⟨-, hl⟩ := h.left
    · simp [hi]
    · obtain hw | ⟨-, hw⟩ := hw
      · simp [hl] at hw
      · simp [hb] at hw
  · obtain ⟨hi, hl⟩ | ⟨hi, hl⟩ := h.left
    · simp [hi, hl]
    · simp [hi, hl]

theorem Readied.up (h : Poised l0 l) (g : Readied l m) (hi : l.image.isSome = true) (hb : bricksFound l = true) : Up l0 m := by
  have hb' := g.bricks.trans hb
  refine ⟨g.powered.trans h.powered, g.banks.trans h.banks, g.shut.trans h.shut, ⟨⟨fun _ => ?_, fun hn => ?_⟩, .inl g.bootLeft⟩, g.graded h.graded⟩
  · rw [g.ready, g.image, hi]
    simp
  · exact absurd (hb'.symm.trans hn) (by decide)

/-- A lane whose banks have been tried is ready, waits for its bricks, or has no image. -/
theorem Poised.stepDone (h : Poised l0 (laneOf s i)) : Up l0 (laneOf (stepDone i s) i) := by
  obtain ⟨hi, hl⟩ | ⟨hi, hl⟩ := h.left
  · rw [stepDone_waits (.inl hl)]
    exact h.up (.inl hl)
  · cases hb : bricksFound (laneOf s i) with
    | false =>
      rw [stepDone_waits (.inr ⟨hl, hb⟩)]
      exact h.up (.inr ⟨hl, hb⟩)
    | true =>
      have hc : coreRuns (laneOf s i) = true := by
        unfold coreRuns
        rw [h.doms]
        decide
      have hover : stepOver (laneOf s i) = true := by
        unfold stepOver
        rw [hc, h.role, hl, hb]
        rfl
      obtain ⟨m, hm, hmb, -⟩ := stepDone_own hover
      exact (Readied.up h hm hi hb).bears hmb

/-- What becomes of the lane that starts, and of the other one. -/
structure Starts (i : LaneId) (s t : State) : Prop where
  up : Up (laneOf s i) (laneOf t i)
  other : Kin (laneOf s (otherLane i)) (laneOf t (otherLane i))
  press : SamePress s t
  out : ∀ j, (laneOf t j).out = []

theorem bootDone_starts (h : Poised l0 (laneOf s i)) (hg : Graded (laneOf s (otherLane i))) : Up l0 (laneOf (bootDone s) i) ∧
    Kin (laneOf s (otherLane i)) (laneOf (bootDone s) (otherLane i)) ∧ SamePress s (bootDone s) ∧ ∀ j, (laneOf (bootDone s) j).out = [] := by
  have hup : Up l0 (laneOf (stepDone .B (stepDone .A s)) i) := by
    cases i with
    | A => exact h.stepDone.bears (stepDone_beside (by decide) _).1
    | B =>
      obtain ⟨hb, hr⟩ := stepDone_beside (j := .B) (i := .A) (by decide) s
      exact (h.bears hb hr).stepDone
  have hkin := (kin_stepDone .A (otherLane i) s).trans (kin_stepDone .B (otherLane i) (stepDone .A s))
  have hpress := (samePress_stepDone .A s).trans (samePress_stepDone .B (stepDone .A s))
  unfold bootDone
  generalize stepDone .B (stepDone .A s) = v at *
  have hv : ∀ j, Graded (laneOf v j) := fun j => by
    by_cases hj : j = i
    · rw [hj]
      exact hup.graded
    · rw [show j = otherLane i by revert hj; cases i <;> cases j <;> simp [otherLane]]
      exact hkin.graded hg
  have hal := along_joinLanes hv
  exact ⟨hup.bears (hal.lanes i), hkin.trans (hal.lanes _).kin, hpress.trans hal.press, out_joinLanes v⟩

/-! #### A memory that fails its test -/

/-- The lane whose memory fails. -/
def faultyLane (x : Nat) (sig : Word) (now : Nat) (l : Lane) : Lane :=
  setRole now roleFault (peatWrite (stk (rset l (BST_MSIG x) sig) BST_STK_MFAIL) now 0 0x7D 0 1 (wordOf (x + 512)) 0#32)

theorem Cold.faulty (h : Cold l0 l) (x : Nat) (sig : Word) (now : Nat) : Up l0 (faultyLane x sig now l) := by
  have h1 : Cold l0 (rset l (BST_MSIG x) sig) := h.loads (Loads.refl.rset (not_startReg (by unfold BST_MSIG; omega)) _)
  have h2 : Cold l0 (stk (rset l (BST_MSIG x) sig) BST_STK_MFAIL) := h1.loads (Loads.refl.stk (not_startReg (by decide)))
  unfold faultyLane
  generalize stk (rset l (BST_MSIG x) sig) BST_STK_MFAIL = k at *
  have h3 : Cold l0 (peatWrite k now 0 0x7D 0 1 (wordOf (x + 512)) 0#32) :=
    h2.carried (quiet_peatWrite ..).carried ((asksRecords_of_eq (out_peatWrite ..)).told h2.told)
  generalize peatWrite k now 0 0x7D 0 1 (wordOf (x + 512)) 0#32 = m at *
  have h4 : Cold l0 (setRole now roleFault m) := h3.carried (quiet_setRole now roleFault m).carried ((asksRecords_setRole now roleFault m).told h3.told)
  generalize setRole now roleFault m = n at *
  refine ⟨h4.powered, h4.banks, h4.shut, ⟨⟨fun _ => ?_, fun _ => ⟨h4.ready, ?_⟩⟩, .inl h4.bootLeft⟩, h4.told.graded⟩
  · simp [h4.ready, h4.image]
  · simp [h4.bootLeft, h4.image]

/-- The other lane's record of a memory that fails. -/
def memReported (x now : Nat) (l : Lane) : Lane := if l.powered && laneActive l then raiseO l now 0x7D x 2 0#32 else l

theorem bears_memReported (x now : Nat) (l : Lane) : Bears l (memReported x now l) := by
  unfold memReported
  split
  · exact bears_raise (by decide)
  · exact .refl

theorem memFailed_eq {x : Nat} (hx : x = match i with | .A => 0 | .B => 1) : memFailed i s =
    modLane (modLane { s with free := s.free + 1 } i (faultyLane x (Config.freeWord s.free) s.now)) (otherLane i)
      (memReported x s.now) := by
  rw [hx]
  cases i <;> rfl

theorem memFailed_starts (h : Cold l0 (laneOf s i)) : Up l0 (laneOf (memFailed i s) i) ∧
    Bears (laneOf s (otherLane i)) (laneOf (memFailed i s) (otherLane i)) ∧ SamePress s (memFailed i s) := by
  obtain ⟨x, hx⟩ : ∃ x, x = match i with | .A => 0 | .B => 1 := ⟨_, rfl⟩
  rw [memFailed_eq hx]
  cases i with
  | A => exact ⟨h.faulty x _ _, bears_memReported _ _ s.lb, rfl, rfl⟩
  | B => exact ⟨h.faulty x _ _, bears_memReported _ _ s.la, rfl, rfl⟩

/-! #### The start of a lane -/

theorem startLane_starts (hg : Graded (laneOf s (otherLane i))) : Starts i s (startLane i true s) := by
  obtain ⟨k, hk⟩ : ∃ k, k = coldLane i s := ⟨_, rfl⟩
  obtain ⟨hc, hr⟩ := coldLane_cold i s
  rw [startLane_eq hk]
  rw [← hk] at hc hr
  clear hk
  have hother (m : Lane) : laneOf (putLane s i m) (otherLane i) = laneOf s (otherLane i) := laneOf_putLane_other ..
  split
  · generalize (headFirst s.fm.compat k).getD 0 = c
    have hf : Cold (laneOf s i) (fset k CLK_BOOT_FRSN c) := hc.loads (Loads.refl.fset not_startReg_CLK_BOOT _)
    generalize fset k CLK_BOOT_FRSN c = m at *
    obtain ⟨hup, hb, hp⟩ := memFailed_starts (s := putLane s i m) (i := i) (by rw [laneOf_putLane]; exact hf)
    rw [hother] at hb
    have hp := (samePress_putLane s i m).trans hp
    generalize memFailed i (putLane s i m) = v at *
    have hal : Along v (joinLanes v) := along_joinLanes fun j => by
      by_cases hj : j = i
      · rw [hj]
        exact hup.graded
      · rw [show j = otherLane i by revert hj; cases i <;> cases j <;> simp [otherLane]]
        exact hb.graded hg
    exact ⟨hup.bears (hal.lanes i), (hb.trans (hal.lanes _)).kin, hp.trans hal.press, out_joinLanes v⟩
  · have ht : Poised (laneOf s i) (triedLane s.fm.compat s.now k) := hc.tried hr _ _
    change Starts i s (bootDone (putLane s i (triedLane s.fm.compat s.now k)))
    generalize triedLane s.fm.compat s.now k = m at *
    obtain ⟨hup, hkin, hp, hout⟩ := bootDone_starts (s := putLane s i m) (i := i) (l0 := laneOf s i) (by rw [laneOf_putLane]; exact ht)
      (by rw [hother]; exact hg)
    rw [hother] at hkin
    exact ⟨hup, hkin, (samePress_putLane s i m).trans hp, hout⟩

end
end Sys2Proof.Machine

namespace Sys2Proof.Machine

/-! #### Image activation, image copies and restarts (R428, R437) -/

section
variable {l m : Lane} {s t u v w : State} {i j : LaneId} {ms : Nat} {r : PresReq}

theorem bears_enterOut (now : Nat) (l : Lane) : Bears l (setRole now roleOut l) := bears_setRole (by decide) (by decide)

/-- What a restart leaves of the lanes' power, of their start-up, and of a command that waits. -/
structure Restarts (i : LaneId) (s t : State) : Prop where
  own : (laneOf s i).powered = true → roleOf (laneOf s i) ≠ roleFault → (laneOf t i).powered = true ∧ Started (laneOf t i)
  other : Kin (laneOf s (otherLane i)) (laneOf t (otherLane i))
  press : SamePress s t
  out : ∀ j, (laneOf t j).out = []

theorem restartLane_restarts (i : LaneId) (hout : ∀ j, (laneOf s j).out = []) : Restarts i s (restartLane i s) := by
  have hgr (j : LaneId) : Graded (laneOf s j) := (told_of_nil (hout j)).graded
  unfold restartLane
  dsimp only
  split
  next h =>
    have h1 := along_modLane s i fun l => bears_enterOut s.now l
    have h2 := h1.trans (along_settle fun j => (h1.lanes j).graded (hgr j))
    generalize settle (modLane s i (setRole s.now roleOut)) = v at *
    have hs := startLane_starts (i := i) ((h2.lanes (otherLane i)).graded (hgr _))
    generalize startLane i true v = t at *
    exact ⟨fun _ _ => ⟨hs.up.powered, hs.up.started⟩, (h2.lanes _).kin.trans hs.other, h2.press.trans hs.press, hs.out⟩
  next h => exact ⟨fun hp hr => absurd (by rw [hp, decide_eq_true hr]; rfl) h, Bears.refl.kin, ⟨rfl, rfl⟩, hout⟩

/-- A lane that an activation stops. -/
def stopped (now : Nat) (l : Lane) : Lane := if l.powered && decide (roleOf l ≠ roleFault) then setRole now roleOut l else l

theorem bears_stopped (now : Nat) (l : Lane) : Bears l (stopped now l) := by
  unfold stopped
  split
  · exact bears_enterOut now l
  · exact .refl

theorem activate_eq (hb : allBanked s = true)
    (hw : w = { s with la := stopped s.now s.la, lb := stopped s.now s.lb, ho := .none, hoOut := false, bist := [] }) :
    (activate s).1 = restartLane .B (restartLane .A (settle w)) := by
  rw [hw]
  unfold activate
  rw [if_neg (by rw [hb]; exact Bool.false_ne_true)]
  rfl

/-- Image activation: every lane that is not in FAULT has started again. -/
theorem activate_starts (hb : allBanked s = true) (hout : ∀ j, (laneOf s j).out = []) : (activate s).1.presReq = s.presReq ∧
    (∀ j, (laneOf (activate s).1 j).out = []) ∧
    ∀ j, (laneOf s j).powered = true → roleOf (laneOf s j) ≠ roleFault →
      (laneOf (activate s).1 j).powered = true ∧ Started (laneOf (activate s).1 j) := by
  obtain ⟨w, hw⟩ : ∃ w : State, w = { s with la := stopped s.now s.la, lb := stopped s.now s.lb, ho := .none, hoOut := false, bist := [] } := ⟨_, rfl⟩
  rw [activate_eq hb hw]
  have h1 : Along s w := by
    rw [hw]
    exact ⟨fun j => by cases j; exacts [bears_stopped _ _, bears_stopped _ _], rfl, rfl⟩
  have h2 := h1.trans (along_settle fun j => (h1.lanes j).graded (told_of_nil (hout j)).graded)
  have ho := settle_out w
  clear hw h1
  generalize settle w = x at *
  have ha := restartLane_restarts .A ho
  generalize restartLane .A x = y at *
  have hb := restartLane_restarts .B ha.out
  generalize restartLane .B y = z at *
  refine ⟨hb.press.2.trans (ha.press.2.trans h2.press.2), hb.out, fun j hp hr => ?_⟩
  have hpx : (laneOf x j).powered = true := (h2.lanes j).carried.powered.trans hp
  have hrx := (h2.lanes j).notFault hr
  cases j with
  | A =>
    obtain ⟨hpy, hsy⟩ := ha.own hpx hrx
    exact ⟨hb.other.powered.trans hpy, hb.other.started hsy⟩
  | B => exact hb.own (ha.other.powered.trans hpx) (ha.other.notFault hrx)

theorem powered_some (h : (laneOf s i).powered = true) : s.la.powered = true ∨ s.lb.powered = true := by
  cases i
  · exact .inl h
  · exact .inr h

theorem Recorded.booted {code res : Nat} (h : Recorded code res s t) (hb : Booted (laneOf s i)) : Booted (laneOf t i) :=
  (h.lane i).quiet.carried.booted hb

theorem Pressed.activation (h : Pressed ms r s v) (hb : allBanked s = true) (hp : (laneOf s i).powered = true)
    (hr : roleOf (laneOf s i) ≠ roleFault) : let q := activate v
    let t := protRec 2 q.2 q.1
    t.presReq = none ∧ (laneOf t i).powered = true ∧ Booted (laneOf t i) := by
  obtain ⟨hpres, hout, hl⟩ := activate_starts ((allBanked_congr h.lanes).trans hb) h.out
  obtain ⟨hpow, hst⟩ := hl i ((h.lanes i).carried.powered.trans hp) (by rw [(h.lanes i).role]; exact hr)
  dsimp only
  generalize activate v = q at *
  have hrec : Recorded 2 q.2 q.1 (protRec 2 q.2 q.1) := protRec_recorded 2 q.2 hout (powered_some hpow)
  exact ⟨hrec.presReq.trans (hpres.trans h.presReq), (hrec.lane i).quiet.carried.powered.trans hpow, hrec.booted hst.booted⟩

section
variable (hout : ∀ i, (laneOf s i).out = []) (hk : s.key = true)
include hout

/-- A lane that starts after a change of its own, and the record of the command that asked for it. -/
theorem startLane_recorded {f : Lane → Lane} (code : Nat) : let t := protRec code 0 (startLane i true (modLane s i f))
    RingHas code 0 t ∧ (laneOf t i).powered = true ∧ (laneOf t i).shut = false ∧ (laneOf t i).banks = (f (laneOf s i)).banks ∧ Booted (laneOf t i) := by
  have ho : laneOf (modLane s i f) (otherLane i) = laneOf s (otherLane i) := laneOf_putLane_other ..
  have hi : laneOf (modLane s i f) i = f (laneOf s i) := laneOf_modLane ..
  have hs := startLane_starts (s := modLane s i f) (i := i) (by rw [ho]; exact (told_of_nil (hout _)).graded)
  dsimp only
  generalize startLane i true (modLane s i f) = v at *
  have hrec : Recorded code 0 v (protRec code 0 v) := protRec_recorded code 0 hs.out (powered_some hs.up.powered)
  have hc := (hrec.lane i).quiet.carried
  refine ⟨hrec.ringHas, hc.powered.trans hs.up.powered, hc.shut.trans hs.up.shut, ?_, hrec.booted hs.up.started.booted⟩
  rw [hc.banks, hs.up.banks, hi]

include hk

theorem imageSync_taken {im : Image} (hp : (laneOf s i).powered = true) (hr : roleOf (laneOf s i) = roleOut)
    (ha : laneActive (laneOf s (otherLane i)) = true) (him : (laneOf s (otherLane i)).image = some im) :
    ∃ t, execImageSync i s = .next t ∧ RingHas 6 0 t ∧ Booted (laneOf t i) ∧
      vget (laneOf t i).banks (if fget (laneOf s i) CLK_BOOT_BANK = 0 then 1 else 0) = some im := by
  obtain ⟨w, hw⟩ : ∃ w, w = startLane i true (modLane s i (loadBank im)) := ⟨_, rfl⟩
  have he : execImageSync i s = .next (protRec 6 0 w) := keyCmd_key (q := (w, 0)) hk (by
    dsimp only
    rw [him]
    dsimp only
    rw [if_pos (by rw [hp, hr, ha]; rfl), hw])
  obtain ⟨h1, -, -, h2, h3⟩ := startLane_recorded hout (i := i) (f := loadBank im) 6
  rw [← hw] at h1 h2 h3
  refine ⟨_, he, h1, h3, ?_⟩
  rw [h2]
  exact vget_vset_self _ _ _

theorem laneRestart_taken (hp : (laneOf s i).powered = true) (hr : roleOf (laneOf s i) = roleOut ∨ roleOf (laneOf s i) = roleFault)
    (ht : testOf s i 2 = none) (hc : laneCool s i = true) : ∃ t, execLaneRestart i s = .next t ∧ RingHas 5 0 t ∧
      (laneOf t i).shut = false ∧ (laneOf t i).powered = true ∧ Booted (laneOf t i) := by
  obtain ⟨w, hw⟩ : ∃ w, w = startLane i true (modLane s i fun l => { l with shut := false, bootLeft := none }) := ⟨_, rfl⟩
  have he : execLaneRestart i s = .next (protRec 5 0 w) := keyCmd_key (q := (w, 0)) hk (by
    dsimp only
    rw [if_pos, hw]
    rw [hp, ht, hc]
    obtain hr | hr := hr
    · rw [hr]
      rfl
    · rw [hr]
      rfl)
  obtain ⟨h1, h2, h3, -, h4⟩ := startLane_recorded hout (i := i) (f := fun l => { l with shut := false, bootLeft := none }) 5
  rw [← hw] at h1 h2 h3 h4
  exact ⟨_, he, h1, h3, h2, h4⟩

end

end
end Sys2Proof.Machine

namespace Sys2Proof.Machine

/-! ### Service commands (R437, R438) -/

section
variable {s v : State} {i : LaneId} {ms : Nat} {r : PresReq}

theorem Pressed.confirmed (h : Pressed ms r s v) (hl : s.now ≤ r.since + 96000000000) (hk : s.key = true) {c : ProtCmd} (hc : r.cmd = c)
    {q : State × Nat} (hq : protExec c v = q) : execPresenceButton ms s = .next (protRec (protCode c) q.2 q.1) := by
  rw [h.confirms hl hk, hc, hq]

/-- The commands of class key and button wait for a press alike. -/
theorem asked_protAsk {cfg : BitVec 2} {j : LaneId} {act : Bool} {f : Instr × ProtCmd}
    (hf : f ∈ [(Instr.imageActivation, ProtCmd.activation), (.peatLogClear, .peatClear), (.frameMemoryEventClear, .fmClear),
      (.stoConfiguration cfg, .stoConfig cfg), (.forceRoles j act, .forceRoles j act)]) (s : State) : exec f.1 s = protAsk f.2 s := by
  simp only [List.mem_cons, List.not_mem_nil, or_false] at hf
  obtain rfl | rfl | rfl | rfl | rfl := hf
  · rfl
  · rfl
  · rfl
  · rfl
  · rfl

/-- The commands of class key are carried out in one way. -/
theorem asked_keyCmd {im : Image} {hours : Byte} {f : Instr × Nat}
    (hf : f ∈ [(Instr.imageLoad im, 1), (.rollingSelftestPeriod hours, 3), (.laneRestart i, 5), (.imageSync i, 6), (.s6Release, 7)]) :
    ∃ g, ∀ s, exec f.1 s = keyCmd f.2 g s := by
  simp only [List.mem_cons, List.not_mem_nil, or_false] at hf
  obtain rfl | rfl | rfl | rfl | rfl := hf
  · exact ⟨_, fun _ => rfl⟩
  · exact ⟨_, fun _ => rfl⟩
  · exact ⟨_, fun _ => rfl⟩
  · exact ⟨_, fun _ => rfl⟩
  · exact ⟨_, fun _ => rfl⟩

/-- Settles O54: a command of either class is carried out on the state in which it is confirmed, and its record follows; what a
restart shows is `Started`, which the lanes' start-up leads to and the steps after it keep. -/
theorem serviceCommands : Obligations.ServiceCommands := by
  unfold Obligations.ServiceCommands
  intro s i
  dsimp only
  intro ha hb _ _ hp
  have hout (j : LaneId) : (laneOf s j).out = [] := by cases j; exacts [ha, hb]
  refine ⟨fun cfg j act f hf => ?_, fun r hr => ⟨presenceRequest_timesOut hr hout hp, fun hk => ?_, fun ms h50 sa sb => ?_⟩, fun b hb => ?_,
    fun ms hms => ⟨s, if_pos hms, rfl⟩, fun hk im hours f hf => ?_, fun hk => ⟨fun im => ⟨imageLoad_refused hout hp hk, imageLoad_taken hout hp hk⟩,
      rollingPeriod_set hout hp hk, fun im => imageSync_taken hout hk, laneRestart_taken hout hk, laneRestart_refused hout hp hk,
      s6Release_ends hout hp hk, s6Release_refused hout hp hk⟩, fun hact hbist => ⟨bistActiveLane_waits hout hact hbist, fun hpeer hrun => ⟨fun hk hban => ?_,
        fun hk hban => ?_, fun hk => ?_⟩⟩, safeclr_spec s i⟩
  · unfold Answers
    rw [asked_protAsk hf]
    exact protAsk_taken f.2 hout hp
  · obtain ⟨t, he, hkey, -, hnone, -⟩ := keySwitch_turned (s := s) (b := false) (i := i) (by rw [hk]; decide)
    exact ⟨t, he, hkey, hnone rfl⟩
  · obtain ⟨v, h⟩ := presence_pressed h50 hr hout fun j => by cases j; exacts [sa, sb]
    have hrec := h.recorded hp
    refine ⟨fun hl => ⟨_, h.late hl, (hrec _ _).presReq.trans h.presReq, (hrec _ _).ringHas, (hrec _ _).sto.trans h.sto⟩, fun hl =>
      ⟨fun hk => ⟨_, h.noKey hl hk, (hrec _ _).presReq.trans h.presReq, (hrec _ _).ringHas⟩, fun hk => ?_⟩⟩
    have hcon := fun {c} => h.confirmed (c := c) hl hk
    refine ⟨fun hc => ⟨_, hcon hc (protExec_peatClear v), h.peatClear hp⟩, fun hc => ⟨_, hcon hc rfl, h.fmClear hp⟩,
      fun cfg hc => ⟨_, hcon hc rfl, h.stoConfig hp cfg⟩, fun hc hpow hrole => ⟨_, hcon hc rfl, h.forceOut hp hpow hrole⟩,
      fun hc hact hpeer hho hsev => ⟨_, hcon hc rfl, h.forceActive hp hact hpeer hho hsev⟩,
      fun hc hact hno hsev => ⟨_, hcon hc rfl, h.forceRefused hp hact hno hsev⟩,
      fun hc hban => ⟨_, hcon hc rfl, h.activationRefused hp hban⟩,
      fun hc hban hpow hrole => ⟨_, hcon hc rfl, h.activation hban hpow hrole⟩⟩
  · obtain ⟨t, he, hkey, hsame, -, hvis⟩ := keySwitch_turned (s := s) (b := b) (i := i) hb
    exact ⟨t, he, hkey, hsame, hvis⟩
  · obtain ⟨g, hg⟩ := asked_keyCmd hf
    unfold Answers
    rw [hg]
    exact keyCmd_refused g hk hout hp
  · exact bistActiveLane_begins hout hp hact hbist hpeer hrun hk hban
  · exact bistActiveLane_refused hout hp hact hbist hpeer (.inl ⟨hk, hban, rfl⟩)
  · exact bistActiveLane_refused hout hp hact hbist hpeer (.inr ⟨hk, rfl⟩)

end
end Sys2Proof.Machine
